-- ==== Sys2Proof/Word.lean ====
section
/-! DEFINITION. The word types of the MF-1024: bytes, 16-, 32- and 64-bit values. -/

namespace Sys2Proof

abbrev Byte := BitVec 8
abbrev Half := BitVec 16
abbrev Word := BitVec 32
abbrev DWord := BitVec 64

/-- An endpoint address: device ID in [23:10], port field in [9:0] (11 Table 11-1). -/
abbrev Addr := BitVec 24

/-- A canonical association list: keys strictly rising, no entry equal to the unlisted entry. -/
abbrev Tab (α : Type) := List (Nat × α)

end Sys2Proof
end

