-- ==== Sys2Proof/Syntax.lean ====
section
/-!
DEFINITION. The commands of the MF-1024: operand types and `Instr`, one constructor per row of
spec/opcode_table.json. An operand that is no field of a command word (an ECC verdict, a measured
temperature, the way a host read ended) is what the outside or the passage of time decides.
-/

namespace Sys2Proof

/-- The authority of the port a command arrives on (17 Table 17-14). -/
inductive Auth
  | none | peer | operator | owner
  deriving DecidableEq, Repr

/-- A ledger, Steward or PEER command (17 Table 17-7): its arrival authority, HSEQ or SSEQ (or the
header SEQ of a PEER command), the source address of a PEER command, EPOCH, the 100-byte BODY, and
the data that follows the entry in a Steward frame. -/
structure Cmd where
  auth : Auth
  seq : Word
  src : Addr := 0
  epoch : Word
  body : List Byte
  data : List Byte := []
  deriving DecidableEq, Repr

/-- A Selnan packet: header fields of 11 Table 11-1 and payload bytes. -/
structure Pkt where
  dst : Addr
  dstN : Addr
  src : Addr
  vl : BitVec 4
  hop : BitVec 4
  op : BitVec 5
  len : BitVec 11
  seq : Word
  seqN : Word
  fcid : Word
  epoch : Word
  hcrc : Word
  payload : List Byte
  deriving DecidableEq, Repr

/-- A register write: whether it comes from the Steward, whether it addresses the upper half of a
64-bit register (offset + 4), its size in bytes, and its value. -/
structure RegW where
  stew : Bool := false
  hi : Bool := false
  width : Nat
  val : DWord
  deriving DecidableEq, Repr

/-- How a PLAN_STAGE read of host memory ended (17 R481, R579). -/
inductive ReadEnd
  | done | perst | error
  deriving DecidableEq, Repr

/-- Outcome of an ECC-checked read (18 Table 18-3). -/
inductive Ecc
  | ok | ce | ue
  deriving DecidableEq, Repr

/-- Reads of lines that meet an ECC error (05 R161): which read of the operation, in the order of its reads, and whether the
error is uncorrectable. -/
abbrev LineErrs := List (Nat × Bool)

/-- A place in an ingress queue: its VL, and how many packets of the VL stand before. -/
structure QueuePlace where
  vl : BitVec 4
  k : Nat := 0
  deriving DecidableEq, Repr

/-- What a lookup's reads give: of the signpost and of the local port table (11 R339). -/
structure LookupChecks where
  signpost : Ecc := .ok
  localPort : Ecc := .ok
  deriving DecidableEq, Repr

/-- The slot that a COL packet reaches, none where it reaches a member, and the segment slot it comes from (log 65). -/
structure ColPlace where
  slot : Option (BitVec 12)
  seg : Option (BitVec 12) := none
  deriving DecidableEq, Repr

/-- A packet with the slot that it reaches, none where it reaches a member. -/
structure SlotPkt where
  slot : Option (BitVec 12)
  p : Pkt
  deriving DecidableEq, Repr

/-- A group of a share (04 R114). -/
structure ShareGroup where
  sh : BitVec 8
  g : BitVec 12
  deriving DecidableEq, Repr

/-- What an update engine's reads give: whether descriptor and feed entry pass their complements (04 R108, R117), and the ECC
of the granary lines. -/
structure DescRead where
  chk : Bool := true
  e : Ecc := .ok
  deriving DecidableEq, Repr

/-- A Selnan flit (10 Table 10-6): FTYPE, VL, POS, sequence fields, FCRC and the 256-byte body. -/
structure Flit where
  ftype : BitVec 3
  vl : BitVec 4 := 0
  pos : BitVec 2 := 0
  txSeq : BitVec 11 := 0
  ackSeq : BitVec 11 := 0
  ackValid : Bool := false
  fcrc : Word := 0
  body : List Byte
  deriving DecidableEq, Repr

/-- The commands, in the order of the command table. -/
inductive Instr
  /-- REGISTER_WRITE, R12. -/
  | registerWrite (off : BitVec 32) (w : RegW)
  /-- LEDGER_DOORBELL, R478. -/
  | ledgerDoorbell (slots : List (Nat × Byte)) (w : RegW)
  /-- LEDGER_ACCEPT, R478. -/
  | ledgerAccept
  /-- TALLY_SEEN, R485. -/
  | tallySeen (w : RegW)
  /-- TALLY_STATUS, R485. -/
  | tallyStatus (w : RegW)
  /-- RING_CFG, R477. -/
  | ringCfg (w : RegW)
  /-- INT_MASK, R487. -/
  | intMask (w : RegW)
  /-- INT_TIME, R487. -/
  | intTime
  /-- BAR4_WRITE, R274. -/
  | bar4Write (off : BitVec 29) (bytes : List Byte)
  /-- GLEAN_TAIL, R375. -/
  | gleanTail (w : RegW)
  /-- MEM_CTL, R431. -/
  | memCtl (w : RegW)
  /-- TB_CTL, R532. -/
  | tbCtl (w : RegW)
  /-- NOP, R480. -/
  | nop (c : Cmd)
  /-- PLAN_STAGE, R481. -/
  | planStage (c : Cmd) (bytes : List Byte) (e : ReadEnd)
  /-- PLAN_WRITE, R274. -/
  | planWrite (c : Cmd)
  /-- PLAN_VALIDATE, R275. -/
  | planValidate (c : Cmd)
  /-- PLAN_VALIDATED, R276. -/
  | planValidated (slot : Bool)
  /-- PLAN_COMMIT, R283. -/
  | planCommit (c : Cmd)
  /-- COMMIT_LOAD_END, R284. -/
  | commitLoadEnd
  /-- PLAN_LOFT_UE, R287. -/
  | planLoftUe
  /-- PLAN_CANCEL, R288. -/
  | planCancel (c : Cmd)
  /-- HEADLAND_ARM, R280. -/
  | headlandArm (c : Cmd)
  /-- QUIESCING, R282. -/
  | quiescing
  /-- PLAN_ABANDONED, R287. -/
  | planAbandoned
  /-- HEADLAND_PASS, R279. -/
  | headlandPass
  /-- PLAN_COMMITTED, R284. -/
  | planCommitted (bad : List Nat)
  /-- PLOT_START, R235. -/
  | plotStart (c : Cmd) (e : Ecc)
  /-- PLOT_STOP, R236. -/
  | plotStop (c : Cmd)
  /-- PLOT_STOPPED, R236. -/
  | plotStopped (p : Fin 32)
  /-- UPD_GROUP_WRITE, R576. -/
  | updGroupWrite (c : Cmd)
  /-- RPT_WRITE, R404. -/
  | rptWrite (c : Cmd)
  /-- RPT_WRITTEN, R404. -/
  | rptWritten
  /-- RPT_READ, R404. -/
  | rptRead (c : Cmd)
  /-- MEM_REQUEST, R481. -/
  | memRequest (c : Cmd)
  /-- COACH_PUT, R430. -/
  | coachPut (c : Cmd)
  /-- COACH_GET, R430. -/
  | coachGet (c : Cmd)
  /-- PROV_HASH, R465. -/
  | provHash (c : Cmd)
  /-- PROV_DONE, R465. -/
  | provDone (die : Fin 2) (errs : List (Fin 4 × Bool))
  /-- KEY_LOAD_CLEAR, R434. -/
  | keyLoadClear (c : Cmd)
  /-- KEY_LOAD_WRAPPED, R435. -/
  | keyLoadWrapped (c : Cmd)
  /-- KEY_ERASE, R434. -/
  | keyErase (c : Cmd)
  /-- KEY_ERASE_ALL, R434. -/
  | keyEraseAll (c : Cmd)
  /-- REG_READ, R481. -/
  | regRead (c : Cmd)
  /-- REG_WRITE, R488. -/
  | regWrite (c : Cmd) (clash : Option DWord)
  /-- TALLY_READ, R492. -/
  | tallyRead (c : Cmd)
  /-- FW_UPDATE, R579. -/
  | fwUpdate (c : Cmd) (sigOk : Bool)
  /-- WARM_RESET, R546. -/
  | warmReset (c : Cmd)
  /-- TEST_ENTRY, R521. -/
  | testEntry (c : Cmd)
  /-- DOSSIER_CAPTURE, R523. -/
  | dossierCapture (c : Cmd)
  /-- DOSSIER_READ, R523. -/
  | dossierRead (c : Cmd)
  /-- DOSSIER_DONE, R523. -/
  | dossierDone
  /-- FURROW_RESET, R90. -/
  | furrowReset (c : Cmd)
  /-- FURROW_RESET_RESEND, R510. -/
  | furrowResetResend
  /-- SHARE_CLEAR_TORN, R135. -/
  | shareClearTorn (c : Cmd)
  /-- STAGE_RESET, R261. -/
  | stageReset (c : Cmd)
  /-- PORT_RETRAIN, R317. -/
  | portRetrain (c : Cmd)
  /-- SOURCE_RESET, R421. -/
  | sourceReset (c : Cmd)
  /-- HEDGE_ADD, R509. -/
  | hedgeAdd (c : Cmd)
  /-- ADMIT_OPEN, R506. -/
  | admitOpen (c : Cmd)
  /-- YOKE_PARTNER, R513. -/
  | yokePartner (c : Cmd)
  /-- YOKE_SHADOW, R513. -/
  | yokeShadow (c : Cmd)
  /-- YOKE_END, R513. -/
  | yokeEnd (c : Cmd)
  /-- ADMIT_NATIVE, R515. -/
  | admitNative (c : Cmd)
  /-- ADMIT_COMPATIBILITY, R515. -/
  | admitCompatibility (c : Cmd)
  /-- ADMIT_DIRECT, R515. -/
  | admitDirect (c : Cmd)
  /-- SELF_TEST, R516. -/
  | selfTest (c : Cmd)
  /-- SELFTEST_DONE, R516. -/
  | selftestDone (failed : BitVec 7)
  /-- GRANARY_READMIT, R510. -/
  | granaryReadmit (c : Cmd)
  /-- YOKE_REPORT, R514. -/
  | yokeReport (c : Cmd)
  /-- MGT_CMD, R491. -/
  | mgtCmd (stew : Bool) (port : BitVec 10) (mac : BitVec 48) (p : Pkt) (sigOk : Bool)
  /-- MGT_RESP, R510. -/
  | mgtResp (port : BitVec 10) (p : Pkt)
  /-- MGT_BEACON, R504. -/
  | mgtBeacon (port : BitVec 10) (p : Pkt)
  /-- BEACON_SEND, R504. -/
  | beaconSend
  /-- BEACON_LOST, R504. -/
  | beaconLost (dev : BitVec 14)
  /-- MGT_HEDGE, R507. -/
  | mgtHedge (port : BitVec 10) (p : Pkt)
  /-- HEDGE_REPEAT, R507. -/
  | hedgeRepeat
  /-- MGT_QUENCH, R424. -/
  | mgtQuench (p : Pkt)
  /-- QUENCH_EXPIRY, R424. -/
  | quenchExpiry (field : BitVec 10) (line : BitVec 57)
  /-- PACKET_LOOKUP, R340. -/
  | packetLookup (n : Option (BitVec 10)) (q : QueuePlace) (chk : LookupChecks)
  /-- DISPATCH, R341. -/
  | dispatch (n : Option (BitVec 10)) (q : QueuePlace) (e : Ecc)
  /-- ESC_AFTER, R341. -/
  | escAfter (n : Option (BitVec 10)) (q : QueuePlace)
  /-- SERVE_UNIT, R380. -/
  | serveUnit (n : BitVec 10) (e : Ecc)
  /-- REFILL, R382. -/
  | refill
  /-- ROOM_REQUEST, R364. -/
  | roomRequest (req : BitVec 11) (sub : BitVec 3) (bytes : Nat) (refs : BitVec 16)
  /-- ROOM_RELEASE, R368. -/
  | roomRelease (ptr : Word)
  /-- GLEAN_WRITE, R374. -/
  | gleanWrite (east : Bool)
  /-- DATA_FLIT, R311. -/
  | dataFlit (n : BitVec 10) (f : Flit) (cw : Ecc)
  /-- CREDIT, R309. -/
  | credit (n : BitVec 10) (f : Flit) (cw : Ecc)
  /-- CREDIT_TIMER, R309. -/
  | creditTimer (n : BitVec 10)
  /-- NAK, R312. -/
  | nak (n : BitVec 10) (f : Flit) (cw : Ecc)
  /-- RETRY_TO, R312. -/
  | retryTo (n : BitVec 10)
  /-- INIT, R315. -/
  | init (n : BitVec 10) (f : Flit) (cw : Ecc)
  /-- INIT_RESEND, R315. -/
  | initResend (n : BitVec 10)
  /-- TRAINING_DONE, R314. -/
  | trainingDone (n : BitVec 10)
  /-- TRAINING_TIMEOUT, R314. -/
  | trainingTimeout (n : BitVec 10)
  /-- DOWN_RETRY, R314. -/
  | downRetry (n : BitVec 10)
  /-- LANE_DOWN, R318. -/
  | laneDown (n : BitVec 10) (lane : Fin 8)
  /-- RESTRIPE_DONE, R318. -/
  | restripeDone (n : BitVec 10)
  /-- LANE_MAP, R318. -/
  | laneMap (n : BitVec 10) (f : Flit) (cw : Ecc)
  /-- EDGE_FRAME, R321. -/
  | edgeFrame (n : BitVec 10) (f : List Byte)
  /-- PAUSE_EXPIRY, R323. -/
  | pauseExpiry (n : BitVec 10) (pcp : Option (Fin 8))
  /-- XOFF_REFRESH, R323. -/
  | xoffRefresh (n : BitVec 10)
  /-- MAC_AGE, R324. -/
  | macAge (mac : BitVec 48) (vlan : BitVec 12)
  /-- COL_WAYBILL, R84. -/
  | colWaybill (slot : BitVec 12) (p : Pkt)
  /-- COL_GRANT, R86. -/
  | colGrant (g : SlotPkt)
  /-- COL_DATA, R79. -/
  | colData (place : ColPlace) (p : Pkt)
  /-- COL_DATA_END, R79. -/
  | colDataEnd (place : ColPlace) (p : Pkt)
  /-- COL_CREDIT, R80. -/
  | colCredit (p : Pkt)
  /-- COL_OUTCOME, R93. -/
  | colOutcome (slot : Option (BitVec 12)) (p : Pkt)
  /-- COL_ABORT, R96. -/
  | colAbort (slot : BitVec 12) (p : Pkt)
  /-- MOVE_DATA, R71. -/
  | moveData (p : Pkt)
  /-- MOVE_DONE, R71. -/
  | moveDone (p : Pkt)
  /-- UPD_FEED_GRANT, R119. -/
  | updFeedGrant (p : Pkt) (bill : List Byte) (chk : Bool)
  /-- UPD_CHUNK_APPLY, R125. -/
  | updChunkApply (k : BitVec 12) (r : DescRead)
  /-- PRECOND_PASS, R129. -/
  | precondPass (g : ShareGroup) (r : DescRead)
  /-- ROOT_REFRESH_DONE, R131. -/
  | rootRefreshDone (g : ShareGroup) (chk : Bool)
  /-- ARM, R219. -/
  | arm (p : Fin 32)
  /-- MM, R147. -/
  | mm (p : Fin 32) (e : LineErrs)
  /-- MM_SP, R168. -/
  | mmSp (p : Fin 32) (e : LineErrs)
  /-- SPARSE_META, R171. -/
  | sparseMeta (p : Fin 32)
  /-- SPARSE_INDEX, R170. -/
  | sparseIndex (p : Fin 32)
  /-- ACC_DONE, R148. -/
  | accDone (p : Fin 32) (b : Bool)
  /-- ACC_LOAD, R150. -/
  | accLoad (p : Fin 32) (e : LineErrs)
  /-- ACC_STORE, R150. -/
  | accStore (p : Fin 32)
  /-- ACC_RELEASE, R150. -/
  | accRelease (p : Fin 32)
  /-- ACC_ZERO, R150. -/
  | accZero (p : Fin 32)
  /-- ACC_PATH_END, R150. -/
  | accPathEnd (p : Fin 32)
  /-- HARROW_ADD, R184. -/
  | harrowAdd (p : Fin 32) (e : LineErrs)
  /-- HARROW_SUB, R184. -/
  | harrowSub (p : Fin 32) (e : LineErrs)
  /-- HARROW_MUL, R184. -/
  | harrowMul (p : Fin 32) (e : LineErrs)
  /-- HARROW_FMA, R184. -/
  | harrowFma (p : Fin 32) (e : LineErrs)
  /-- HARROW_DIV, R184. -/
  | harrowDiv (p : Fin 32) (e : LineErrs)
  /-- HARROW_MIN, R44. -/
  | harrowMin (p : Fin 32) (e : LineErrs)
  /-- HARROW_MAX, R44. -/
  | harrowMax (p : Fin 32) (e : LineErrs)
  /-- HARROW_ABS, R183. -/
  | harrowAbs (p : Fin 32) (e : LineErrs)
  /-- HARROW_NEG, R183. -/
  | harrowNeg (p : Fin 32) (e : LineErrs)
  /-- HARROW_SQRT, R64. -/
  | harrowSqrt (p : Fin 32) (e : LineErrs)
  /-- HARROW_RCP, R64. -/
  | harrowRcp (p : Fin 32) (e : LineErrs)
  /-- HARROW_RSQRT, R64. -/
  | harrowRsqrt (p : Fin 32) (e : LineErrs)
  /-- HARROW_EXP2, R64. -/
  | harrowExp2 (p : Fin 32) (e : LineErrs)
  /-- HARROW_LOG2, R64. -/
  | harrowLog2 (p : Fin 32) (e : LineErrs)
  /-- HARROW_CVT, R186. -/
  | harrowCvt (p : Fin 32) (e : LineErrs)
  /-- HARROW_MOV, R183. -/
  | harrowMov (p : Fin 32) (e : LineErrs)
  /-- HARROW_CMP, R185. -/
  | harrowCmp (p : Fin 32) (e : LineErrs)
  /-- HARROW_IADD, R183. -/
  | harrowIadd (p : Fin 32) (e : LineErrs)
  /-- HARROW_AND, R183. -/
  | harrowAnd (p : Fin 32) (e : LineErrs)
  /-- HARROW_OR, R183. -/
  | harrowOr (p : Fin 32) (e : LineErrs)
  /-- HARROW_XOR, R183. -/
  | harrowXor (p : Fin 32) (e : LineErrs)
  /-- HARROW_RSUM, R187. -/
  | harrowRsum (p : Fin 32) (e : LineErrs)
  /-- HARROW_RMIN, R187. -/
  | harrowRmin (p : Fin 32) (e : LineErrs)
  /-- HARROW_RMAX, R187. -/
  | harrowRmax (p : Fin 32) (e : LineErrs)
  /-- COMPRESS, R189. -/
  | compress (p : Fin 32) (e : LineErrs)
  /-- EXPAND, R190. -/
  | expand (p : Fin 32) (e : LineErrs)
  /-- GATHER, R191. -/
  | gather (p : Fin 32) (e : LineErrs)
  /-- SCATTER, R191. -/
  | scatter (p : Fin 32) (e : LineErrs)
  /-- XLOAD, R183. -/
  | xload (p : Fin 32) (e : LineErrs)
  /-- XSTORE, R183. -/
  | xstore (p : Fin 32) (e : LineErrs)
  /-- XLIST, R183. -/
  | xlist (p : Fin 32) (e : LineErrs)
  /-- SPARSIFY, R193. -/
  | sparsify (p : Fin 32) (e : LineErrs)
  /-- PRUNE_2D, R194. -/
  | prune2d (p : Fin 32) (e : LineErrs)
  /-- KEYSET, R182. -/
  | keyset (p : Fin 32) (e : LineErrs)
  /-- HDONE, R199. -/
  | hdone (p : Fin 32)
  /-- SEQ, R205. -/
  | seq (p : Fin 32) (e : Ecc)
  /-- JUMP, R205. -/
  | jump (p : Fin 32) (e : Ecc)
  /-- BRT, R205. -/
  | brt (p : Fin 32) (e : Ecc)
  /-- BRF, R205. -/
  | brf (p : Fin 32) (e : Ecc)
  /-- LOOP, R205. -/
  | loop (p : Fin 32) (e : Ecc)
  /-- HALT, R236. -/
  | halt (p : Fin 32)
  /-- PLOT_DONE, R236. -/
  | plotDone (p : Fin 32)
  /-- SET, R206. -/
  | set (p : Fin 32)
  /-- COP_ADD, R206. -/
  | copAdd (p : Fin 32)
  /-- SETLIM, R206. -/
  | setlim (p : Fin 32)
  /-- SETCFG, R206. -/
  | setcfg (p : Fin 32)
  /-- WAIT_END, R212. -/
  | waitEnd (p : Fin 32) (n : Nat)
  /-- SSET, R211. -/
  | sset (p : Fin 32)
  /-- SCLR, R211. -/
  | sclr (p : Fin 32)
  /-- SCINC, R209. -/
  | scinc (p : Fin 32)
  /-- SEQ_WAIT_LIMIT, R237. -/
  | seqWaitLimit (p : Fin 32)
  /-- GLOAD, R217. -/
  | gload (p : Fin 32)
  /-- GSTORE, R217. -/
  | gstore (p : Fin 32)
  /-- TQ_DROP, R216. -/
  | tqDrop (p : Fin 32)
  /-- MSEND, R218. -/
  | msend (p : Fin 32)
  /-- WAYBILL, R218. -/
  | waybill (p : Fin 32)
  /-- CSEND, R218. -/
  | csend (p : Fin 32)
  /-- TRANSFER_START, R217. -/
  | transferStart (p : Fin 32) (e : LineErrs)
  /-- TRANSFER_END, R217. -/
  | transferEnd (p : Fin 32) (n : Nat)
  /-- DTAP, R223. -/
  | dtap (p : Fin 32)
  /-- DLOG, R223. -/
  | dlog (p : Fin 32)
  /-- PH_ARRAY, R224. -/
  | phArray (p : Fin 32)
  /-- PH_HARROW, R224. -/
  | phHarrow (p : Fin 32)
  /-- PH_FABRIC, R224. -/
  | phFabric (p : Fin 32)
  /-- WINNOW_RECORD, R255. -/
  | winnowRecord (st : Fin 24)
  /-- MERGE_PASS, R250. -/
  | mergePass (st : Fin 24) (e : Ecc)
  /-- STAGE_DONE, R262. -/
  | stageDone (st : Fin 24) (e : Ecc)
  /-- LOAD, R403. -/
  | load (n : Option (BitVec 10)) (p : Pkt) (upset : List (BitVec 12))
  /-- STORE, R403. -/
  | store (n : Option (BitVec 10)) (p : Pkt) (upset : List (BitVec 12))
  /-- STORE_REL, R405. -/
  | storeRel (n : Option (BitVec 10)) (p : Pkt) (upset : List (BitVec 12))
  /-- ATOMIC, R403. -/
  | atomic (n : Option (BitVec 10)) (p : Pkt) (upset : List (BitVec 12))
  /-- TRACKED_ARRIVAL, R420. -/
  | trackedArrival (p : Pkt)
  /-- LINE_APPLY, R409. -/
  | lineApply (line : BitVec 57) (e : Ecc)
  /-- HOT_SET_CLEAR, R422. -/
  | hotSetClear (line : BitVec 57)
  /-- HOT_LINE_RETIRE, R422. -/
  | hotLineRetire (line : BitVec 57)
  /-- LOAD_RSP, R405. -/
  | loadRsp (n : Option (BitVec 10)) (p : Pkt)
  /-- STORE_ACK, R405. -/
  | storeAck (n : Option (BitVec 10)) (p : Pkt)
  /-- ATOMIC_RSP, R405. -/
  | atomicRsp (n : Option (BitVec 10)) (p : Pkt)
  /-- TRACKER_RESEND, R406. -/
  | trackerResend (field : BitVec 10) (target : Addr) (seq : Word)
  /-- TRACKER_TIMEOUT, R406. -/
  | trackerTimeout (field : BitVec 10) (target : Addr) (seq : Word)
  /-- REPLAY_EXPIRY, R420. -/
  | replayExpiry (field : BitVec 10) (origin : Addr) (seq : Word)
  /-- COACH_RUN_CLOSE, R426. -/
  | coachRunClose (n : BitVec 10)
  /-- COACH_RUN, R428. -/
  | coachRun (n : BitVec 10) (p : Pkt)
  /-- COACH_TIMEOUT, R428. -/
  | coachTimeout (n : BitVec 10) (run : Word)
  /-- COACH_DONE, R428. -/
  | coachDone (n : BitVec 10) (p : Pkt)
  /-- SEALED_CHUNK_PACKET, R441. -/
  | sealedChunkPacket (p : Pkt) (e : Ecc)
  /-- ENCRYPT_EXIT, R447. -/
  | encryptExit (die : Fin 2) (e : Ecc)
  /-- DIGEST_EXIT, R448. -/
  | digestExit (die : Fin 2) (e : Ecc)
  /-- GRANARY_FAIL, R501. -/
  | granaryFail (k : Fin 4)
  /-- GRANARY_READY, R544. -/
  | granaryReady
  /-- COLD_RESET, R545. -/
  | coldReset (power : Bool)
  /-- COLD_RESET_RELEASE, R548. -/
  | coldResetRelease (tmode : BitVec 3) (cool : Bool)
  /-- PLL_LOCK, R525. -/
  | pllLock
  /-- REEVE_BOOT, R548. -/
  | reeveBoot (ok0 : Bool) (ok1 : Bool) (die : Fin 2)
  /-- WARM_RESET_BEGIN, R545. -/
  | warmResetBegin
  /-- PERST_N, R493. -/
  | perstN (asserted : Bool)
  /-- PWRGD_LOST, R556. -/
  | pwrgdLost
  /-- THERMTRIP, R547. -/
  | thermtrip
  /-- PLL_UNLOCK, R528. -/
  | pllUnlock
  /-- BRIDGE_DOWN, R499. -/
  | bridgeDown
  /-- REEVE_HALT, R498. -/
  | reeveHalt (die : Fin 2)
  /-- TICK_IN, R532. -/
  | tickIn
  /-- TICK_OUT, R531. -/
  | tickOut
  /-- TICK_LOST, R532. -/
  | tickLost
  /-- GOVERNOR_SAMPLE, R540. -/
  | governorSample (watts : Half) (tw : Byte) (te : Byte) (th : Byte) (backed : Bool)
  /-- AVS_STEP, R541. -/
  | avsStep (ackW : Bool) (ackE : Bool)
  /-- LOSS_OF_LOCK, R305. -/
  | lossOfLock (n : BitVec 10) (lane : Fin 8)
  /-- REGAINS_LOCK, R305. -/
  | regainsLock (n : BitVec 10) (lane : Fin 8)
  /-- IDLE_FLIT, R311. -/
  | idleFlit (n : BitVec 10) (f : Flit) (cw : Ecc)
  /-- STEWARD_LINK_UP, R491. -/
  | stewardLinkUp (fec : Bool)
  /-- STEWARD_LINK_DOWN, R491. -/
  | stewardLinkDown
  /-- GRANARY_READMIT_DONE, R510. -/
  | granaryReadmitDone (k : Fin 4)
  /-- DIE_HOT, R539. -/
  | dieHot (die : Fin 2) (hot : Bool)
  /-- STACK_CASE_TEMPERATURE, R568. -/
  | stackCaseTemperature (k : Fin 4) (hot : Bool)
  deriving DecidableEq, Repr

end Sys2Proof
end

