-- ==== Sys2Proof/Decode.lean ====
section
/-!
DEFINITION. The decoder over the command table. No row of the table gives bits: the device takes commands at its ports,
and no command is spelt by a word (log 1).
-/

namespace Sys2Proof

/-- The command a word of the table spells: none. -/
def decodeTableWord (_nbits _w : Nat) : Option Instr := none

end Sys2Proof
end

