-- ==== Sys2Proof/Machine/Tab.lean ====
section
/-!
DEFINITION. Canonical tables and sparse memories: sorted association lists in which no entry equals
what an unlisted key reads as, and little-endian access to bytes.
-/

namespace Sys2Proof.Machine
open Sys2Proof

/-- Entry `k` of a table whose unlisted entries are `d`. -/
def Tab.get {α : Type} (d : α) : Tab α → Nat → α
  | [], _ => d
  | (j, a) :: t, k => if k = j then a else Tab.get d t k

/-- Table with entry `k` put in, without regard to the unlisted entry. -/
def Tab.put {α : Type} (k : Nat) (v : α) : Tab α → Tab α
  | [] => [(k, v)]
  | (j, a) :: t =>
    if k < j then (k, v) :: (j, a) :: t
    else if k = j then (k, v) :: t
    else (j, a) :: Tab.put k v t

/-- Table without entry `k`. -/
def Tab.del {α : Type} (k : Nat) (t : Tab α) : Tab α := t.filter fun e => decide (e.1 ≠ k)

/-- Table with entry `k` set to `v`; setting the unlisted value removes the entry. -/
def Tab.set {α : Type} [DecidableEq α] (d : α) (t : Tab α) (k : Nat) (v : α) : Tab α :=
  if v = d then Tab.del k t else Tab.put k v t

/-- Entry `k` changed by `f`. -/
def Tab.upd {α : Type} [DecidableEq α] (d : α) (t : Tab α) (k : Nat) (f : α → α) : Tab α :=
  Tab.set d t k (f (Tab.get d t k))

/-- Every key is above `b`, keys rise strictly, and no entry equals `d`. -/
def Tab.above {α : Type} [DecidableEq α] (d : α) : Nat → Tab α → Bool
  | _, [] => true
  | b, (j, a) :: t => decide (b ≤ j) && decide (a ≠ d) && Tab.above d (j + 1) t

/-- The canonical form. -/
def Tab.wf {α : Type} [DecidableEq α] (d : α) (t : Tab α) : Bool := Tab.above d 0 t

/-- A sparse byte memory whose unlisted bytes read 0: the granary (19 R544) and every other switched
store (19 R534) start zeroed. -/
abbrev Mem := List Host.Cell

/-- One byte. -/
def Mem.read (m : Mem) (a : Nat) : Byte := Tab.get 0 m a

/-- One byte written. -/
def Mem.write (m : Mem) (a : Nat) (b : Byte) : Mem := Tab.set 0 m a b

/-- The canonical form of a memory. -/
def Memory.wf (m : Mem) : Bool := Tab.wf 0 m

/-- `n` bytes from `a`. -/
def Mem.reads (m : Mem) (a n : Nat) : List Byte := (List.range n).map fun i => Mem.read m (a + i)

/-- Bytes written from `a` upwards. -/
def Mem.writes (m : Mem) (a : Nat) : List Byte → Mem
  | [] => m
  | b :: bs => Mem.writes (Mem.write m a b) (a + 1) bs

/-- Bytes `[a, a + n)` zeroed. -/
def Mem.zero (m : Mem) (a n : Nat) : Mem := m.filter fun c => decide (c.1 < a) || decide (a + n ≤ c.1)

/-- Little-endian value of a byte list (00 R10). -/
def leNat : List Byte → Nat
  | [] => 0
  | b :: bs => b.toNat + 256 * leNat bs

/-- The `n` low bytes of `v`, little-endian. -/
def leBytes (n v : Nat) : List Byte := (List.range n).map fun i => BitVec.ofNat 8 (v >>> (8 * i))

/-- `n` bytes of `bs` from `off`, missing bytes 0. -/
def slice (bs : List Byte) (off n : Nat) : List Byte := (List.range n).map fun i => bs.getD (off + i) 0

/-- Little-endian value of `n` bytes of `bs` from `off`. -/
def leAt (bs : List Byte) (off n : Nat) : Nat := leNat (slice bs off n)

/-- Bits `[hi:lo]` of a value. -/
def bits (v hi lo : Nat) : Nat := (v >>> lo) % 2 ^ (hi + 1 - lo)

/-- Bit `i` of a value. -/
def bit (v i : Nat) : Bool := v.testBit i

/-- A byte list of length `n` holding each (offset, width, value) little-endian and 0 elsewhere. -/
def pack (n : Nat) (fs : List (Nat × Nat × Nat)) : List Byte :=
  (List.range n).map fun i =>
    match fs.find? fun f => decide (f.1 ≤ i) && decide (i < f.1 + f.2.1) with
    | some f => BitVec.ofNat 8 (f.2.2 >>> (8 * (i - f.1)))
    | none => 0

/-- The bytes of `bs` outside the (offset, width) fields are all 0. -/
def onlyIn (bs : List Byte) (fs : List (Nat × Nat)) : Bool :=
  (List.range bs.length).all fun i =>
    (fs.any fun f => decide (f.1 ≤ i) && decide (i < f.1 + f.2)) || decide (bs.getD i 0 = 0)

/-- `A` serially above `B` (07 Table 7-5): B SLT A. -/
def serialAbove (a b : Word) : Bool := decide (2 ^ 31 ≤ (b - a).toNat)

/-- Increment that stays at all ones. -/
def satInc {w : Nat} (x : BitVec w) : BitVec w := if x = BitVec.allOnes w then x else x + 1

/-- Ceiling of a quotient. -/
def cdiv (a b : Nat) : Nat := (a + b - 1) / b

/-- All indices of `xs` paired with their elements. -/
def enum {α : Type} (xs : List α) : List (Nat × α) := (List.range xs.length).zip xs

/-- Bits 0 to `n - 1` set in `m`, ascending. -/
def setBits (n m : Nat) : List Nat := (List.range n).filter fun i => m.testBit i

end Sys2Proof.Machine
end

