-- ==== Sys2Proof/Machine/Crypto.lean ====
section
/-!
DEFINITION. The checksums and ciphers the spec names: CRC-32C (02 R53), the CRC-64 of a crop digest
(16 R463), SHA-256 (FIPS 180-4), HMAC, AES-256 (FIPS 197), GCM (SP 800-38D), AES key wrap (RFC 3394).
-/

namespace Sys2Proof.Machine
open Sys2Proof

/-- One bit of a reflected CRC with reflected polynomial `p`. -/
def crcBit (p c : Nat) : Nat := if c % 2 = 1 then (c >>> 1) ^^^ p else c >>> 1

/-- One byte of a reflected CRC. -/
def crcByte (p c : Nat) (b : Byte) : Nat :=
  (List.range 8).foldl (fun c _ => crcBit p c) (c ^^^ b.toNat)

/-- CRC-32C (02 R53). -/
def crc32c (bs : List Byte) : Word :=
  BitVec.ofNat 32 (bs.foldl (crcByte 0x82F63B78) 0xFFFFFFFF ^^^ 0xFFFFFFFF)

/-- One byte taken into a running crop digest register (16 R463). -/
def cropStep (c : Nat) (b : Byte) : Nat := crcByte 0xC96C5795D7870F42 c b

/-- Initial register of a crop digest. -/
def cropInit : Nat := 0xFFFFFFFFFFFFFFFF

/-- The digest a register stands for. -/
def cropEnd (c : Nat) : DWord := BitVec.ofNat 64 (c ^^^ 0xFFFFFFFFFFFFFFFF)

/-- Crop digest of a byte stream (16 R463). -/
def crop (bs : List Byte) : DWord := cropEnd (bs.foldl cropStep cropInit)

/-! ## SHA-256 -/

/-- 32-bit rotation to the right. -/
def rotr (x n : Nat) : Nat := (x >>> n ||| x <<< (32 - n)) % 2 ^ 32

/-- The `n`-th primes from which FIPS 180-4 takes its constants. -/
def shaPrimes : List Nat :=
  [2, 3, 5, 7, 11, 13, 17, 19, 23, 29, 31, 37, 41, 43, 47, 53, 59, 61, 67, 71, 73, 79, 83, 89, 97, 101,
   103, 107, 109, 113, 127, 131] ++
  [137, 139, 149, 151, 157, 163, 167, 173, 179, 181, 191, 193, 197, 199, 211, 223, 227, 229, 233, 239,
   241, 251, 257, 263, 269, 271, 277, 281, 283, 293, 307, 311]

/-- Largest `r` below `2 ^ n` with `r ^ k` at most `x`, by bisection from bit `n - 1`. -/
def natRoot (k x : Nat) : Nat → Nat → Nat
  | 0, r => r
  | n + 1, r => natRoot k x n (if (r + 2 ^ n) ^ k ≤ x then r + 2 ^ n else r)

/-- First 32 fraction bits of the cube root (FIPS 180-4 4.2.2) of the primes. -/
def shaK : List Nat := shaPrimes.map fun p => natRoot 3 (p * 2 ^ 96) 36 0 % 2 ^ 32

/-- First 32 fraction bits of the square root of the first eight primes (FIPS 180-4 5.3.3). -/
def shaH0 : List Nat := (shaPrimes.take 8).map fun p => natRoot 2 (p * 2 ^ 64) 36 0 % 2 ^ 32

/-- Big-endian value of a byte list. -/
def beNat (bs : List Byte) : Nat := bs.foldl (fun a b => 256 * a + b.toNat) 0

/-- The `n` low bytes of `v`, big-endian. -/
def beBytes (n v : Nat) : List Byte := (leBytes n v).reverse

/-- The message schedule, most recent word first. -/
def shaExpand : Nat → List Nat → List Nat
  | 0, w => w
  | n + 1, w =>
    let a := w.getD 1 0
    let b := w.getD 14 0
    let s1 := rotr a 17 ^^^ rotr a 19 ^^^ a >>> 10
    let s0 := rotr b 7 ^^^ rotr b 18 ^^^ b >>> 3
    shaExpand n ((s1 + w.getD 6 0 + s0 + w.getD 15 0) % 2 ^ 32 :: w)

/-- One round on the working variables a to h. -/
def shaRound (v : List Nat) (kw : Nat × Nat) : List Nat :=
  match v with
  | [a, b, c, d, e, f, g, h] =>
    let t1 := h + (rotr e 6 ^^^ rotr e 11 ^^^ rotr e 25) + (e &&& f ^^^ (2 ^ 32 - 1 - e) &&& g) + kw.1 + kw.2
    let t2 := (rotr a 2 ^^^ rotr a 13 ^^^ rotr a 22) + (a &&& b ^^^ a &&& c ^^^ b &&& c)
    [(t1 + t2) % 2 ^ 32, a, b, c, (d + t1) % 2 ^ 32, e, f, g]
  | _ => v

/-- One 64-byte block. -/
def shaBlock (h : List Nat) (blk : List Byte) : List Nat :=
  let w16 := (List.range 16).map fun i => beNat (slice blk (4 * i) 4)
  let w := (shaExpand 48 w16.reverse).reverse
  let v := (shaK.zip w).foldl shaRound h
  (h.zip v).map fun p => (p.1 + p.2) % 2 ^ 32

/-- The padded message (FIPS 180-4 5.1.1). -/
def shaPad (m : List Byte) : List Byte :=
  m ++ [0x80] ++ List.replicate ((119 - m.length % 64) % 64) 0 ++ beBytes 8 (8 * m.length)

/-- Blocks of a padded message taken into the hash. -/
def shaBlocks : Nat → List Nat → List Byte → List Nat
  | 0, h, _ => h
  | n + 1, h, m => shaBlocks n (shaBlock h (m.take 64)) (m.drop 64)

/-- SHA-256 as 32 bytes in FIPS 180-4 output order. -/
def sha256 (m : List Byte) : List Byte :=
  let p := shaPad m
  (shaBlocks (p.length / 64) shaH0 p).flatMap (beBytes 4)

/-- XOR of two byte lists. -/
def xorBytes (a b : List Byte) : List Byte := (a.zip b).map fun p => p.1 ^^^ p.2

/-- HMAC-SHA-256 (RFC 2104) under a key of at most 64 bytes. -/
def hmac (key m : List Byte) : List Byte :=
  let k := key ++ List.replicate (64 - key.length) 0
  sha256 (k.map (· ^^^ 0x5C) ++ sha256 (k.map (· ^^^ 0x36) ++ m))

/-! ## AES-256 -/

/-- Multiplication by x in GF(2^8). -/
def gfX (a : Nat) : Nat := if 128 ≤ a then (2 * a) % 256 ^^^ 0x1B else 2 * a

/-- Multiplication in GF(2^8). -/
def gfMul (a b : Nat) : Nat :=
  ((List.range 8).foldl (fun (r : Nat × Nat) i =>
    (if b.testBit i then r.1 ^^^ r.2 else r.1, gfX r.2)) (0, a)).1

/-- Inverse in GF(2^8), as the power 254; 0 gives 0. -/
def gfInv (a : Nat) : Nat :=
  let a2 := gfMul a a; let a3 := gfMul a2 a; let a6 := gfMul a3 a3; let a12 := gfMul a6 a6
  let a15 := gfMul a12 a3; let a30 := gfMul a15 a15; let a60 := gfMul a30 a30
  let a120 := gfMul a60 a60; let a127 := gfMul (gfMul a120 a6) a
  gfMul a127 a127

/-- Left rotation of a byte. -/
def rotl8 (x n : Nat) : Nat := (x <<< n ||| x >>> (8 - n)) % 256

/-- The S-box (FIPS 197 5.1.1). -/
def aesSub (b : Byte) : Byte :=
  let x := gfInv b.toNat
  BitVec.ofNat 8 (x ^^^ rotl8 x 1 ^^^ rotl8 x 2 ^^^ rotl8 x 3 ^^^ rotl8 x 4 ^^^ 0x63)

/-- The inverse S-box. -/
def aesUnsub (b : Byte) : Byte :=
  let y := b.toNat
  BitVec.ofNat 8 (gfInv (rotl8 y 1 ^^^ rotl8 y 3 ^^^ rotl8 y 6 ^^^ 0x05))

/-- The expanded key words, most recent first (FIPS 197 5.2, Nk = 8). -/
def aesExpand : Nat → Nat → List (List Byte) → List (List Byte)
  | 0, _, w => w
  | n + 1, i, w =>
    let t := w.getD 0 []
    let t :=
      if i % 8 = 0 then
        xorBytes ((t.drop 1 ++ t.take 1).map aesSub)
          [BitVec.ofNat 8 ((List.range (i / 8 - 1)).foldl (fun a _ => gfX a) 1), 0, 0, 0]
      else if i % 8 = 4 then t.map aesSub else t
    aesExpand n (i + 1) (xorBytes (w.getD 7 []) t :: w)

/-- The 15 round keys of 16 bytes. -/
def aesKeys (key : List Byte) : List (List Byte) :=
  let w := (aesExpand 52 8 ((List.range 8).map fun i => slice key (4 * i) 4).reverse).reverse
  (List.range 15).map fun r => ((w.drop (4 * r)).take 4).flatten

/-- Column mixing of one column under coefficient row `c`. -/
def aesMixCol (c : List Nat) (col : List Byte) : List Byte :=
  (List.range 4).map fun r => BitVec.ofNat 8
    ((List.range 4).foldl (fun a k => a ^^^ gfMul (c.getD ((k + 4 - r) % 4) 0) (col.getD k 0).toNat) 0)

/-- Every column of a block mixed. -/
def aesMix (c : List Nat) (b : List Byte) : List Byte :=
  (List.range 4).flatMap fun j => aesMixCol c (slice b (4 * j) 4)

/-- Row shift: byte `r + 4j` comes from column `j + d r`. -/
def aesShift (d : Nat) (b : List Byte) : List Byte :=
  (List.range 16).map fun i => b.getD (i % 4 + 4 * ((i / 4 + d * (i % 4)) % 4)) 0

/-- One block enciphered under AES-256. -/
def aesEnc (key blk : List Byte) : List Byte :=
  let ks := aesKeys key
  let b := xorBytes blk (ks.getD 0 [])
  let b := (List.range 13).foldl (fun b r =>
    xorBytes (aesMix [2, 3, 1, 1] (aesShift 1 (b.map aesSub))) (ks.getD (r + 1) [])) b
  xorBytes (aesShift 1 (b.map aesSub)) (ks.getD 14 [])

/-- One block deciphered under AES-256. -/
def aesDec (key blk : List Byte) : List Byte :=
  let ks := aesKeys key
  let b := xorBytes blk (ks.getD 14 [])
  let b := (List.range 13).foldl (fun b r =>
    aesMix [14, 11, 13, 9] (xorBytes ((aesShift 3 b).map aesUnsub) (ks.getD (13 - r) []))) b
  xorBytes ((aesShift 3 b).map aesUnsub) (ks.getD 0 [])

/-- Counter-mode keystream XORed onto data, from counter block `iv ++ ctr` (SP 800-38D GCTR). -/
def gctr (key iv : List Byte) (ctr : Nat) (m : List Byte) : List Byte :=
  (List.range (cdiv m.length 16)).flatMap fun i =>
    xorBytes ((m.drop (16 * i)).take 16) (aesEnc key (iv ++ beBytes 4 ((ctr + i) % 2 ^ 32)))

/-- Multiplication in GF(2^128) with GCM's bit order. -/
def ghMul (x y : Nat) : Nat :=
  ((List.range 128).foldl (fun (r : Nat × Nat) i =>
    (if x.testBit (127 - i) then r.1 ^^^ r.2 else r.1,
     if r.2 % 2 = 1 then r.2 >>> 1 ^^^ 0xE1000000000000000000000000000000 else r.2 >>> 1)) (0, y)).1

/-- Data zero-filled to whole 16-byte blocks. -/
def pad16 (m : List Byte) : List Byte := m ++ List.replicate ((16 - m.length % 16) % 16) 0

/-- GHASH over whole blocks. -/
def ghash (h : Nat) (m : List Byte) : Nat :=
  (List.range (m.length / 16)).foldl (fun y i => ghMul (y ^^^ beNat (slice m (16 * i) 16)) h) 0

/-- The GCM tag of `aad` and ciphertext `ct` under a 96-bit IV. -/
def gcmTag (key iv aad ct : List Byte) : List Byte :=
  let h := beNat (aesEnc key (List.replicate 16 0))
  let s := ghash h (pad16 aad ++ pad16 ct ++ beBytes 8 (8 * aad.length) ++ beBytes 8 (8 * ct.length))
  xorBytes (beBytes 16 s) (aesEnc key (iv ++ beBytes 4 1))

/-- GCM keystream applied to data: encryption and decryption alike. -/
def gcmXor (key iv m : List Byte) : List Byte := gctr key iv 2 m

/-- Steps of RFC 3394 unwrapping, from step `t` down to 1, on the register A and `n` blocks of R. -/
def unwrapSteps (kek : List Byte) (n : Nat) : Nat → List Byte × List (List Byte) → List Byte × List (List Byte)
  | 0, s => s
  | t + 1, (a, r) =>
    let i := t % n
    let b := aesDec kek (xorBytes a (beBytes 8 (t + 1)) ++ r.getD i [])
    unwrapSteps kek n t (b.take 8, r.set i (b.drop 8))

/-- The key a wrapped key of `n + 1` 8-byte blocks holds; none when its integrity check fails. -/
def unwrap (kek : List Byte) (n : Nat) (w : List Byte) : Option (List Byte) :=
  let r := (List.range n).map fun i => slice w (8 * (i + 1)) 8
  let out := unwrapSteps kek n (6 * n) (slice w 0 8, r)
  if out.1 = List.replicate 8 0xA6 then some out.2.flatten else none

end Sys2Proof.Machine
end

