-- ==== Sys2Proof/Machine/Arith.lean ====
section
/-!
DEFINITION. The arithmetic contract (02): formats, exact values, rounding, reductions, FP32 operations,
array slabs. A finite value is sign, magnitude and exponent: m * 2^e.
-/

namespace Sys2Proof.Machine
open Sys2Proof

/-! ## Values and formats -/

/-- A floating-point value. -/
inductive FVal
  | nan
  | inf (neg : Bool)
  | fin (neg : Bool) (m : Nat) (e : Int)
  deriving DecidableEq, Repr

/-- A binary floating-point format (Tables 2-1, 2-2): exponent and fraction bits, bias, and its specials:
2 has infinities and NaNs, 1 has the all-ones NaN only (E4M3), 0 has none (FP6, FP4). -/
structure Fmt where
  eb : Nat
  fb : Nat
  bias : Nat
  sp : Nat
  deriving DecidableEq, Repr

def fp32 : Fmt := ⟨8, 23, 127, 2⟩
def bf16 : Fmt := ⟨8, 7, 127, 2⟩
def fp16 : Fmt := ⟨5, 10, 15, 2⟩
def e4m3 : Fmt := ⟨4, 3, 7, 1⟩
def e5m2 : Fmt := ⟨5, 2, 15, 2⟩
def fp6e2m3 : Fmt := ⟨2, 3, 1, 0⟩
def fp6e3m2 : Fmt := ⟨3, 2, 3, 0⟩
def fp4 : Fmt := ⟨2, 1, 1, 0⟩

/-- Floating-point format of an ETYPE from 0x0 to 0x4 (Table 2-3). -/
def fmtOf (et : Nat) : Fmt :=
  if et = 0 then fp32 else if et = 1 then bf16 else if et = 2 then fp16 else if et = 3 then e4m3 else e5m2

/-- Bits of an element of an ETYPE (Tables 2-1 to 2-3). -/
def etypeBits (et : Nat) : Nat :=
  if et = 0 ∨ et = 5 ∨ et = 7 ∨ et = 0xE then 32 else if et = 1 ∨ et = 2 then 16 else if et = 6 then 64
  else if et = 0xA ∨ et = 0xB then 6 else if et = 0xC then 4 else 8

/-- Total bits of a format. -/
def Fmt.width (f : Fmt) : Nat := 1 + f.eb + f.fb

/-- The value a code stands for (R26, R27). -/
def decodeF (f : Fmt) (c : Nat) : FVal :=
  let neg := c.testBit (f.eb + f.fb)
  let ex := (c >>> f.fb) % 2 ^ f.eb
  let fr := c % 2 ^ f.fb
  if f.sp = 2 ∧ ex = 2 ^ f.eb - 1 then (if fr = 0 then .inf neg else .nan)
  else if f.sp = 1 ∧ ex = 2 ^ f.eb - 1 ∧ fr = 2 ^ f.fb - 1 then .nan
  else if ex = 0 then .fin neg fr (1 - (f.bias : Int) - f.fb)
  else .fin neg (fr + 2 ^ f.fb) ((ex : Int) - f.bias - f.fb)

/-- The canonical NaN (Table 2-1). -/
def nanCode (f : Fmt) : Nat := if f.sp = 1 then 2 ^ (f.eb + f.fb) - 1 else (2 ^ f.eb - 1) * 2 ^ f.fb + 2 ^ (f.fb - 1)

/-- Sign bit of a code. -/
def signCode (f : Fmt) (neg : Bool) : Nat := if neg then 2 ^ (f.eb + f.fb) else 0

/-- Magnitude code of the largest finite value (Table 2-1). -/
def maxCode (f : Fmt) : Nat :=
  if f.sp = 2 then (2 ^ f.eb - 1) * 2 ^ f.fb - 1 else if f.sp = 1 then 2 ^ (f.eb + f.fb) - 2 else 2 ^ (f.eb + f.fb) - 1

/-! ## ARITH_FLAGS (Table 2-9) -/

abbrev flINX : Nat := 1
abbrev flOVF : Nat := 2
abbrev flNV : Nat := 4
abbrev flNANIN : Nat := 8
abbrev flIOVF : Nat := 16

/-! ## Rounding -/

/-- Rounding modes (Table 2-6); KSR carries its random word r (R37). -/
inductive RMode
  | rne | rtz | ksr (r : Nat)
  deriving DecidableEq, Repr

/-- 64-bit mix of R37. -/
def mix64 (x : Nat) : Nat :=
  let x := x ^^^ x >>> 33
  let x := x * 0xFF51AFD7ED558CCD % 2 ^ 64
  let x := x ^^^ x >>> 33
  let x := x * 0xC4CEB9FE1A85EC53 % 2 ^ 64
  x ^^^ x >>> 33

/-- The random word of a key (R37). -/
def ksrR (seed context index : Nat) : Nat :=
  let h := mix64 (seed % 2 ^ 64 ^^^ index % 2 ^ 64)
  mix64 (h ^^^ context * 0x9E3779B97F4A7C15 % 2 ^ 64) >>> 32

/-- Whether a magnitude n + rem / 2^sh (plus less than one unit of 2^-sh when `st`) rounds up to n + 1. -/
def roundsUp (mode : RMode) (n rem sh : Nat) (st : Bool) : Bool :=
  match mode with
  | .rtz => false
  | .rne =>
    let half := 2 ^ sh / 2
    decide (half < rem) || (rem == half && decide (sh ≠ 0) && (st || n % 2 == 1))
  | .ksr r => decide (r < rem * 2 ^ 32 / 2 ^ sh)

/-- Result on overflow (Table 2-7). -/
def overflowCode (f : Fmt) (mode : RMode) : Nat :=
  if f.sp = 2 ∧ mode ≠ .rtz then (2 ^ f.eb - 1) * 2 ^ f.fb else maxCode f

/-- The value (m + a fraction of one unit when `st`) * 2^e with a sign, rounded once to a format: code and
flags (R35, R36, R38). `m` is nonzero; with `st` it has more bits than the format keeps. -/
def roundF (f : Fmt) (mode : RMode) (neg : Bool) (m : Nat) (e : Int) (st : Bool := false) : Nat × Nat :=
  let top : Int := Nat.log2 m + e
  let q : Int := max (top - f.fb) (1 - (f.bias : Int) - f.fb)
  let (n, inex) : Nat × Bool :=
    if q ≤ e then (m <<< (e - q).toNat, st)
    else
      let sh := (q - e).toNat
      let n := m >>> sh
      let rem := m % 2 ^ sh
      (if roundsUp mode n rem sh st then n + 1 else n, decide (rem ≠ 0) || st)
  let mag : Nat :=
    if n < 2 ^ f.fb then n
    else
      let (n, q) : Nat × Int := if n = 2 ^ (f.fb + 1) then (2 ^ f.fb, q + 1) else (n, q)
      (q + f.fb + f.bias).toNat * 2 ^ f.fb + (n - 2 ^ f.fb)
  if maxCode f < mag then
    (signCode f neg + overflowCode f mode, flOVF + flINX)
  else (signCode f neg + mag, if inex then flINX else 0)

/-- An exact dyadic number m * 2^e. -/
structure Dy where
  m : Int
  e : Int
  deriving DecidableEq, Repr

/-- Exact sum. -/
def Dy.add (a b : Dy) : Dy :=
  if a.m = 0 then b else if b.m = 0 then a
  else
    let e := min a.e b.e
    ⟨a.m * 2 ^ (a.e - e).toNat + b.m * 2 ^ (b.e - e).toNat, e⟩

/-- Exact product. -/
def Dy.mul (a b : Dy) : Dy := ⟨a.m * b.m, a.e + b.e⟩

/-- The dyadic of a finite value. -/
def dyOf (neg : Bool) (m : Nat) (e : Int) : Dy := ⟨if neg then -(m : Int) else m, e⟩

/-- A nonzero dyadic rounded. -/
def roundDy (f : Fmt) (mode : RMode) (d : Dy) : Nat × Nat := roundF f mode (decide (d.m < 0)) d.m.natAbs d.e

/-! ## Reductions (R33 to R45) -/

/-- What has been added so far to one SUM element: the specials met, whether every addend was -0, the
exact sum, and the flags partial cells brought (R40, R48). -/
structure Acc where
  nan : Bool := false
  nanIn : Bool := false
  pinf : Bool := false
  ninf : Bool := false
  negZero : Bool := true
  sum : Dy := ⟨0, 0⟩
  deriving DecidableEq, Repr

/-- One raw addend. -/
def Acc.raw (a : Acc) (v : FVal) : Acc :=
  match v with
  | .nan => { a with nan := true, nanIn := true, negZero := false }
  | .inf neg => if neg then { a with ninf := true, negZero := false } else { a with pinf := true, negZero := false }
  | .fin neg m e => { a with sum := a.sum.add (dyOf neg m e), negZero := a.negZero && neg && m == 0 }

/-- Two accumulations joined. -/
def Acc.join (a b : Acc) : Acc :=
  { nan := a.nan || b.nan, nanIn := a.nanIn || b.nanIn, pinf := a.pinf || b.pinf, ninf := a.ninf || b.ninf,
    negZero := a.negZero && b.negZero, sum := a.sum.add b.sum }

/-- An integer addend. -/
def Acc.int (a : Acc) (v : Int) : Acc := { a with sum := a.sum.add ⟨v, 0⟩, negZero := false }

/-- A floating-point SUM element rounded at the root (Table 2-8): code and flags. -/
def Acc.round (a : Acc) (f : Fmt) (mode : RMode) : Nat × Nat :=
  if a.nan then (nanCode f, if a.nanIn then flNANIN else 0)
  else if a.pinf && a.ninf then (nanCode f, flNV)
  else if a.pinf || a.ninf then
    if f.sp = 1 then (signCode f a.ninf + maxCode f, flOVF) else (signCode f a.ninf + (2 ^ f.eb - 1) * 2 ^ f.fb, 0)
  else if a.sum.m ≠ 0 then roundDy f mode a.sum
  else (signCode f a.negZero, 0)

/-- Two's-complement value of `n` bits. -/
def sInt (n v : Nat) : Int := if v.testBit (n - 1) then (v : Int) - 2 ^ n else v

/-- The `n` low bits of an integer. -/
def uInt (n : Nat) (v : Int) : Nat := (v % 2 ^ n).toNat

/-- Exact integer value of a dyadic with a non-negative exponent or a multiple of 2^-e. -/
def Dy.toInt (d : Dy) : Int := if 0 ≤ d.e then d.m * 2 ^ d.e.toNat else d.m / 2 ^ (-d.e).toNat

/-- An integer SUM at the root: wrapped or saturated once (R42). -/
def roundInt (n : Nat) (saturate : Bool) (v : Int) : Nat × Nat :=
  let lo : Int := -2 ^ (n - 1)
  let hi : Int := 2 ^ (n - 1) - 1
  let out := decide (v < lo) || decide (hi < v)
  (uInt n (if saturate then max lo (min hi v) else v), if out then flIOVF else 0)

/-- Order of finite and infinite values: -0 below +0 (R44). -/
def fLess (a b : FVal) : Bool :=
  match a, b with
  | .inf x, .inf y => x && !y
  | .inf x, .fin _ _ _ => x
  | .fin _ _ _, .inf y => !y
  | .fin x m e, .fin y k g =>
    if m = 0 ∧ k = 0 then x && !y
    else decide (((dyOf x m e).add ⟨-(dyOf y k g).m, (dyOf y k g).e⟩).m < 0)
  | _, _ => false

/-- Floating-point MIN or MAX of two codes (R44). -/
def fMinMax (f : Fmt) (isMax : Bool) (a b : Nat) : Nat × Nat :=
  match decodeF f a, decodeF f b with
  | .nan, _ => (nanCode f, flNANIN)
  | _, .nan => (nanCode f, flNANIN)
  | x, y => (if (if isMax then fLess x y else fLess y x) then b else a, 0)

/-- One step of MIN, MAX, AND, OR or XOR (REDOP 1 to 5) on codes of an ETYPE (R43, R44). -/
def redStep (et op a b : Nat) : Nat × Nat :=
  if op = 3 then (a &&& b, 0) else if op = 4 then (a ||| b, 0) else if op = 5 then (a ^^^ b, 0)
  else
    let isMax := op == 2
    if et ≤ 4 then fMinMax (fmtOf et) isMax a b
    else
      let lt := if et = 7 then decide (a < b) else decide (sInt (etypeBits et) a < sInt (etypeBits et) b)
      (if isMax then (if lt then b else a) else (if lt then a else b), 0)

/-! ## FP32 operations (R64, R65) -/

abbrev nan32 : Nat := 0x7FC00000
abbrev inf32 : Nat := 0x7F800000

/-- Result of an operation whose operands hold a NaN, or that is invalid. -/
def nanIn32 : Nat × Nat := (nan32, flNANIN)
def invalid32 : Nat × Nat := (nan32, flNV)

/-- An FP32 infinity. -/
def infCode (neg : Bool) : Nat := signCode fp32 neg + inf32

/-- An exact FP32 sum result, whose zero has sign `zneg`. -/
def exact32 (mode : RMode) (d : Dy) (zneg : Bool) : Nat × Nat :=
  if d.m = 0 then (signCode fp32 zneg, 0) else roundDy fp32 mode d

/-- Addition. -/
def fAdd (mode : RMode) (a b : Nat) : Nat × Nat :=
  match decodeF fp32 a, decodeF fp32 b with
  | .nan, _ => nanIn32
  | _, .nan => nanIn32
  | .inf x, .inf y => if x = y then (infCode x, 0) else invalid32
  | .inf x, _ => (infCode x, 0)
  | _, .inf y => (infCode y, 0)
  | .fin x m e, .fin y k g => exact32 mode ((dyOf x m e).add (dyOf y k g)) (x && y && m == 0 && k == 0)

/-- Sign bit inverted. -/
def fNeg (a : Nat) : Nat := a ^^^ 0x80000000

/-- Subtraction. -/
def fSub (mode : RMode) (a b : Nat) : Nat × Nat := fAdd mode a (fNeg b)

/-- Multiplication. -/
def fMul (mode : RMode) (a b : Nat) : Nat × Nat :=
  match decodeF fp32 a, decodeF fp32 b with
  | .nan, _ => nanIn32
  | _, .nan => nanIn32
  | .inf x, .inf y => (infCode (x != y), 0)
  | .inf x, .fin y k _ => if k = 0 then invalid32 else (infCode (x != y), 0)
  | .fin x m _, .inf y => if m = 0 then invalid32 else (infCode (x != y), 0)
  | .fin x m e, .fin y k g => exact32 mode ((dyOf x m e).mul (dyOf y k g)) (x != y)

/-- Fused multiply-add a * b + c, one rounding. -/
def fFma (mode : RMode) (a b c : Nat) : Nat × Nat :=
  let va := decodeF fp32 a; let vb := decodeF fp32 b; let vc := decodeF fp32 c
  if va = .nan ∨ vb = .nan ∨ vc = .nan then nanIn32
  else
    match va, vb with
    | .fin x m e, .fin y k g =>
      let p := (dyOf x m e).mul (dyOf y k g)
      match vc with
      | .fin z l h => exact32 mode (p.add (dyOf z l h)) ((x != y) && z && p.m == 0 && l == 0)
      | _ => (c, 0)
    | _, _ =>
      let p := fMul mode a b
      if p.1 = nan32 then invalid32 else fAdd mode p.1 c

/-- A quotient n / d of naturals scaled to at least 64 significant bits: magnitude, exponent, sticky. -/
def divScaled (n d : Nat) : Nat × Int × Bool :=
  let k := 66 + Nat.log2 d - Nat.log2 n
  let x := n <<< k
  (x / d, -(k : Int), decide (x % d ≠ 0))

/-- Division. -/
def fDiv (mode : RMode) (a b : Nat) : Nat × Nat :=
  match decodeF fp32 a, decodeF fp32 b with
  | .nan, _ => nanIn32
  | _, .nan => nanIn32
  | .inf _, .inf _ => invalid32
  | .inf x, .fin y _ _ => (infCode (x != y), 0)
  | .fin x _ _, .inf y => (signCode fp32 (x != y), 0)
  | .fin x m e, .fin y k g =>
    if k = 0 then (if m = 0 then invalid32 else (infCode (x != y), 0))
    else if m = 0 then (signCode fp32 (x != y), 0)
    else
      let (q, s, st) := divScaled m k
      roundF fp32 mode (x != y) q (e - g + s) st

/-- Square root (Table 2-15). -/
def fSqrt (a : Nat) : Nat × Nat :=
  match decodeF fp32 a with
  | .nan => nanIn32
  | .inf neg => if neg then invalid32 else (a, 0)
  | .fin neg m e =>
    if m = 0 then (a, 0)
    else if neg then invalid32
    else
      let (m, e) : Nat × Int := if e % 2 = 0 then (m, e) else (2 * m, e - 1)
      let x := m <<< 100
      let r := natRoot 2 x 64 0
      roundF fp32 .rne false r (e / 2 - 50) (decide (r * r ≠ x))

/-- Reciprocal. -/
def fRcp (a : Nat) : Nat × Nat :=
  match decodeF fp32 a with
  | .nan => nanIn32
  | .inf neg => (signCode fp32 neg, 0)
  | .fin neg m e =>
    if m = 0 then (infCode neg, 0)
    else
      let (q, s, st) := divScaled 1 m
      roundF fp32 .rne neg q (s - e) st

/-- Reciprocal square root. -/
def fRsqrt (a : Nat) : Nat × Nat :=
  match decodeF fp32 a with
  | .nan => nanIn32
  | .inf neg => if neg then invalid32 else (0, 0)
  | .fin neg m e =>
    if m = 0 then (infCode neg, 0)
    else if neg then invalid32
    else
      let (m, e) : Nat × Int := if e % 2 = 0 then (m, e) else (2 * m, e - 1)
      let r := natRoot 2 (2 ^ 200 / m) 104 0
      roundF fp32 .rne false r (-(e / 2) - 100) (decide (r * r * m ≠ 2 ^ 200))

/-- Fixed-point fraction bits of exp2. -/
abbrev expP : Nat := 192

/-- Product over the bits of a fraction `f` of `n` bits, highest first, of 2^(2^-i), each constant the
square root of the one before (fixed point of expP bits). -/
def expBits (f : Nat) : Nat → Nat → Nat → Nat
  | 0, _, acc => acc
  | n + 1, c, acc =>
    let c := natRoot 2 (c <<< expP) (expP + 2) 0
    expBits f n c (if f.testBit n then acc * c / 2 ^ expP else acc)

/-- 2^x (Table 2-15); irrational unless x is an integer, so its digits always leave a remainder. -/
def fExp2 (a : Nat) : Nat × Nat :=
  match decodeF fp32 a with
  | .nan => nanIn32
  | .inf neg => (if neg then 0 else inf32, 0)
  | .fin neg m e =>
    if m = 0 then (0x3F800000, 0)
    else
      let big := decide (9 ≤ (Nat.log2 m : Int) + e)
      if big then (if neg then (0, flINX) else (inf32, flOVF + flINX))
      else
        let v : Int := (dyOf neg m e).m
        let (n, f) : Int × Nat :=
          if 0 ≤ e then (v * 2 ^ e.toNat, 0)
          else
            let k := (-e).toNat
            let fr := (v % 2 ^ k).toNat
            (v / 2 ^ k, if k ≤ expP then fr <<< (expP - k) else fr >>> (k - expP))
        if f = 0 ∧ 0 ≤ e ∨ v % 2 ^ (-e).toNat = 0 then roundF fp32 .rne false 1 n
        else roundF fp32 .rne false (expBits f expP (2 <<< expP) (1 <<< expP)) (n - expP) true

/-- Fraction bits of log2 of y (fixed point of 512 bits, 1 <= y < 2), most significant first. -/
def logBits : Nat → Nat → Nat → Nat
  | 0, _, acc => acc
  | n + 1, y, acc =>
    let y := y * y / 2 ^ 512
    if 2 ^ 513 ≤ y then logBits n (y / 2) (2 * acc + 1) else logBits n y (2 * acc)

/-- log2 (Table 2-15): irrational unless x is a power of two. -/
def fLog2 (a : Nat) : Nat × Nat :=
  match decodeF fp32 a with
  | .nan => nanIn32
  | .inf neg => if neg then invalid32 else (a, 0)
  | .fin neg m e =>
    if m = 0 then (infCode true, 0)
    else if neg then invalid32
    else
      let k := Nat.log2 m
      let n : Int := k + e
      if m = 2 ^ k then
        if n = 0 then (0, 0) else roundF fp32 .rne (decide (n < 0)) n.natAbs 0
      else
        let v : Int := n * 2 ^ 160 + logBits 160 (m <<< (512 - k)) 0
        if 0 ≤ v then roundF fp32 .rne false v.toNat (-160) true
        else roundF fp32 .rne true (-v - 1).toNat (-160) true

/-! ## Conversions (R66) -/

/-- A value rounded to a format; a NaN becomes the format's canonical NaN (log 94). -/
def cvtF (f : Fmt) (mode : RMode) (v : FVal) : Nat × Nat :=
  match v with
  | .nan => (nanCode f, flNANIN)
  | .inf neg => if f.sp = 1 then (signCode f neg + maxCode f, flOVF) else (signCode f neg + (2 ^ f.eb - 1) * 2 ^ f.fb, 0)
  | .fin neg m e => if m = 0 then (signCode f neg, 0) else roundF f mode neg m e

/-- A value converted to an `n`-bit integer. -/
def cvtInt (n : Nat) (mode : RMode) (v : FVal) : Nat × Nat :=
  let lo : Int := -2 ^ (n - 1)
  let hi : Int := 2 ^ (n - 1) - 1
  match v with
  | .nan => (0, flNV)
  | .inf neg => (uInt n (if neg then lo else hi), flIOVF)
  | .fin neg m e =>
    let (q, inex) : Nat × Bool :=
      if 0 ≤ e then (m <<< e.toNat, false)
      else
        let sh := (-e).toNat
        let q := m >>> sh
        let rem := m % 2 ^ sh
        (if roundsUp mode q rem sh false then q + 1 else q, decide (rem ≠ 0))
    let r : Int := if neg then -(q : Int) else q
    let out := decide (r < lo) || decide (hi < r)
    (uInt n (max lo (min hi r)), (if out then flIOVF else 0) + (if inex then flINX else 0))

/-- An integer converted to a format. -/
def cvtFromInt (f : Fmt) (mode : RMode) (v : Int) : Nat × Nat :=
  if v = 0 then (0, 0) else roundF f mode (decide (v < 0)) v.natAbs 0

/-! ## Array dot products (R57 to R63) -/

/-- What a product of two operands is. -/
def fProd (a b : FVal) : FVal × Nat :=
  match a, b with
  | .nan, _ => (.nan, flNANIN)
  | _, .nan => (.nan, flNANIN)
  | .inf x, .inf y => (.inf (x != y), 0)
  | .inf x, .fin y k _ => if k = 0 then (.nan, flNV) else (.inf (x != y), 0)
  | .fin x m _, .inf y => if m = 0 then (.nan, flNV) else (.inf (x != y), 0)
  | .fin x m e, .fin y k g => (.fin (x != y) (m * k) (e + g), 0)

/-- Specials of a slab's products (R60): the slab sum and flags, none when every product is finite. -/
def slabSpecial (ps : List (FVal × Nat)) : Option (Nat × Nat) :=
  let nan := ps.any fun p => p.1 == .nan
  let pinf := ps.any fun p => p.1 == .inf false
  let ninf := ps.any fun p => p.1 == .inf true
  if nan then some (if ps.any fun p => p.2 == flNANIN then nanIn32 else invalid32)
  else if pinf && ninf then some invalid32
  else if pinf then some (infCode false, 0)
  else if ninf then some (infCode true, 0)
  else none

/-- Exact sum of finite products. -/
def exactSum (ps : List (FVal × Nat)) : Dy :=
  ps.foldl (fun a p => match p.1 with | .fin n m e => a.add (dyOf n m e) | _ => a) ⟨0, 0⟩

/-- Slab sum of FP8, INT8 and MX products: exact, rounded once (R58). A zero sum is +0 (log 94). -/
def slabExact (ps : List (FVal × Nat)) : Nat × Nat :=
  match slabSpecial ps with
  | some r => r
  | none => exact32 .rne (exactSum ps) false

/-- Slab sum of BF16 and FP16 products in the 80-bit window (R59). -/
def slabWindow (ps : List (FVal × Nat)) : Nat × Nat :=
  match slabSpecial ps with
  | some r => r
  | none =>
    let tops := ps.filterMap fun p => match p.1 with
      | .fin _ m e => if m = 0 then none else some ((Nat.log2 m : Int) + e)
      | _ => none
    match tops with
    | [] => (0, 0)
    | t :: ts =>
      let w := ts.foldl max t - 71
      let (v, st) : Int × Bool := ps.foldl (fun (a : Int × Bool) p =>
        match p.1 with
        | .fin n m e =>
          let sh := w - e
          let q := if sh ≤ 0 then m <<< (-sh).toNat else m >>> sh.toNat
          let lost := decide (0 < sh) && decide (m % 2 ^ sh.toNat ≠ 0)
          (a.1 + (if n then -(q : Int) else q), a.2 || lost)
        | _ => a) (0, false)
      exact32 .rne ⟨2 * v + (if st then 1 else 0), w - 1⟩ false

/-- hi and lo pieces of an FP32 operand (R63). -/
def hiPart (x : Nat) : Nat := x / 65536

def loPart (x : Nat) : Nat :=
  match decodeF fp32 x with
  | .nan => nanCode bf16
  | .inf _ => 0
  | .fin _ _ _ => (cvtF bf16 .rne (decodeF fp32 (fSub .rne x (hiPart x * 65536)).1)).1

end Sys2Proof.Machine
end

