-- ==== Sys2Proof/Machine/Partial.lean ====
section
/-!
DEFINITION. Exact partials (02 R46 to R55, 03 R100): XP64 elements, XPL records, partial cells.
-/

namespace Sys2Proof.Machine
open Sys2Proof

/-- Trailing zero bits removed from a nonzero magnitude, at most `n` of them: the odd part and their number. -/
def oddPart : Nat → Nat → Nat × Nat
  | 0, m => (m, 0)
  | n + 1, m => if m % 2 = 0 then let r := oddPart n (m / 2); (r.1, r.2 + 1) else (m, 0)

/-- A nonzero dyadic with an odd significand (R50). -/
def Dy.canon (d : Dy) : Dy :=
  let r := oddPart (Nat.log2 d.m.natAbs) d.m.natAbs
  ⟨if d.m < 0 then -(r.1 : Int) else r.1, d.e + r.2⟩

/-- Signed 32-bit digits of an integer, least significant first, at most `n` (R49). -/
def digits : Nat → Int → List Nat
  | 0, _ => []
  | n + 1, v =>
    let w := uInt 32 v
    let rest := (v - sInt 32 w) / 2 ^ 32
    if rest = 0 then [w] else w :: digits n rest

/-- A SUM element as a partial (R48, R50): its XP64 bits, or the words of an XPL record. An exact sum of more than 11 digits
keeps the low 11, and a scale outside 16 bits wraps (log 94). -/
def emit (a : Acc) : Nat × List Nat :=
  if a.nan || (a.pinf && a.ninf) then (0x28000, [])
  else if a.pinf then (0x18000, [])
  else if a.ninf then (0xFFFFFFFFFFFF8000, [])
  else if a.sum.m = 0 then (if a.negZero then 0x8000 else 0, [])
  else
    let d := Dy.canon a.sum
    if -2 ^ 47 ≤ d.m ∧ d.m < 2 ^ 47 ∧ -32767 ≤ d.e ∧ d.e ≤ 32767 then (uInt 48 d.m * 65536 + uInt 16 d.e, [])
    else
      let ws := digits 11 d.m
      (0, (uInt 16 d.e * 65536 + (if d.m < 0 then 16 else 0) + ws.length) :: ws)

/-- NAN_IN and NV that a tier's own addends give an element (R48). -/
def ownFlags (a : Acc) : Nat :=
  if a.nan then (if a.nanIn then flNANIN else 0) else if a.pinf && a.ninf then flNV else 0

/-- XPL records packed into escape cells as words (R54): the cell being filled, then the cells before it. -/
def packEsc (recs : List (List Nat)) : List (List Nat) :=
  let r := recs.foldl (fun (s : List (List Nat) × List Nat) x =>
    if s.2.isEmpty then (s.1, x)
    else if s.2.length + x.length ≤ 64 then (s.1, s.2 ++ x)
    else (s.1 ++ [s.2], x)) ([], [])
  if r.2.isEmpty then r.1 else r.1 ++ [r.2]

/-- 256 bytes of an escape cell. -/
def escCell (ws : List Nat) : List Byte := slice (ws.flatMap (leBytes 4)) 0 256

/-- Directory bytes 0 to 27 of a partial cell (Table 2-13). -/
def dirBytes (mask words cells count contrib flags base coll : Nat) : List Byte :=
  pack 28 [(0, 4, mask), (4, 4, words * 65536 + cells * 256 + count), (8, 4, contrib),
    (12, 4, (if flags &&& flNV = 0 then 0 else 2) + (if flags &&& flNANIN = 0 then 0 else 1)), (16, 8, base), (24, 4, coll)]

/-- A partial cell with its escape cells. `sparse` carries the indices of a sparse cell (03 R100). -/
def mkCell (elems : List Acc) (sparse : Option (List Nat)) (contrib flags base coll : Nat) : List Byte :=
  let es := elems.map emit
  let recs := (es.map (·.2)).filter fun w => !w.isEmpty
  let mask := ((enum es).filter fun p => !p.2.2.isEmpty).foldl (fun m p => m + 2 ^ p.1) 0
  let esc := (packEsc recs).map escCell
  let dir := dirBytes mask ((recs.map List.length).foldl (· + ·) 0) esc.length elems.length contrib flags base coll
  let xs := es.flatMap fun e => leBytes 8 e.1
  let body := match sparse with
    | none => slice xs 0 224
    | some ix => slice (ix.flatMap (leBytes 4)) 0 72 ++ slice xs 0 144 ++ List.replicate 8 0
  dir ++ leBytes 4 (crc32c (dir ++ body ++ esc.flatten)).toNat ++ body ++ esc.flatten

/-- A received XP64 element (R48, R51); none when malformed. -/
def readXp64 (x : Nat) : Option Acc :=
  let m := x / 65536
  let sc := x % 65536
  if sc = 0x8000 then
    if m = 0 then some {}
    else if m = 1 then some { pinf := true, negZero := false }
    else if m = 0xFFFFFFFFFFFF then some { ninf := true, negZero := false }
    else if m = 2 then some { nan := true, negZero := false }
    else none
  else some { negZero := false, sum := ⟨sInt 48 m, sInt 16 sc⟩ }

/-- XPL records of the words of one escape cell (R54): the records, or none when malformed. -/
def readRecs : Nat → List Nat → Option (List (Acc × Nat))
  | 0, _ => some []
  | _, [] => some []
  | n + 1, h :: ws =>
    let wc := h % 16
    if wc = 0 then some []
    else if 11 < wc ∨ h / 65536 = 0x8000 ∨ ws.length < wc then none
    else
      let ds := ws.take wc
      let v := (enum ds).foldl (fun (a : Int) p => a + sInt 32 p.2 * 2 ^ (32 * p.1)) 0
      if bit h 4 ≠ bit (ds.getD (wc - 1) 0) 31 then none
      else (readRecs n (ws.drop wc)).map fun r => ({ negZero := false, sum := ⟨v, sInt 16 (h / 65536)⟩ }, wc + 1) :: r

/-- A received partial cell: its elements, indices, contributor count, flags and base index. -/
structure PCell where
  elems : List Acc
  idx : List Nat
  contrib : Nat
  flags : Nat
  base : Nat
  deriving DecidableEq, Repr

/-- 32-bit words of a cell. -/
def cellWords (bs : List Byte) : List Nat := (List.range 64).map fun i => leAt bs (4 * i) 4

/-- The first partial cell of a payload, with the bytes it takes; none when a check of R55 fails. `limit`
is 28, or 18 for a sparse cell, whose indices ascend, whose BASE_INDEX and last bytes are 0 and which has at most four escape
cells (03 R100). An escape cell closed before it is full is taken (log 89). -/
def readCell (sparse : Bool) (coll : Nat) (bs : List Byte) : Option (PCell × Nat) :=
  let limit := if sparse then 18 else 28
  let mask := leAt bs 0 4
  let w1 := leAt bs 4 4
  let ncell := bits w1 15 8
  let count := bits w1 4 0
  let fl := leAt bs 12 4
  let len := 256 * (1 + ncell)
  let esc := (List.range ncell).map fun i => cellWords (slice bs (256 * (i + 1)) 256)
  let xoff := if sparse then 104 else 32
  let xs := (List.range count).map fun i => if bit mask i then none else some (leAt bs (xoff + 8 * i) 8)
  let recs := (esc.map (readRecs 64)).foldl (fun a r => match a, r with | some x, some y => some (x ++ y) | _, _ => none) (some [])
  match recs with
  | none => none
  | some rs =>
    let elems := xs.foldl (fun (a : Option (List Acc × List (Acc × Nat))) x =>
      match a, x with
      | none, _ => none
      | some (l, q), some v => (readXp64 v).map fun e => (l ++ [e], q)
      | some (l, r :: q), none => some (l ++ [r.1], q)
      | some (_, []), none => none) (some ([], rs))
    let hasNan := xs.any fun x => x == some 0x28000
    let idx := if sparse then (List.range count).map fun i => leAt bs (32 + 4 * i) 4 else []
    let sparseOk := !sparse || (decide (ncell ≤ 4) && leAt bs 16 8 == 0 && leAt bs 248 8 == 0 &&
      (idx.zip (idx.drop 1)).all fun p => decide (p.1 < p.2))
    if bs.length < len ∨ ncell > 6 ∨ !sparseOk ∨ leAt bs 28 4 ≠ (crc32c (slice bs 0 28 ++ slice bs 32 (len - 32))).toNat ∨
        leAt bs 24 4 ≠ coll ∨ count = 0 ∨ limit < count ∨ 2 ^ count ≤ mask % 2 ^ 28 ∨ hasNan ≠ decide (fl % 4 ≠ 0) ∨
        (rs.map (·.2)).foldl (· + ·) 0 ≠ w1 / 65536 ∨ (esc.any fun c => c.getD 0 0 % 16 == 0) then none
    else
      match elems with
      | some (l, []) =>
        some ({ elems := l, idx,
                contrib := leAt bs 8 4 % 2 ^ 25, flags := (if bit fl 0 then flNANIN else 0) + (if bit fl 1 then flNV else 0),
                base := leAt bs 16 8 }, len)
      | _ => none

/-- Every partial cell of a payload; none when one fails. -/
def readCells (sparse : Bool) (coll : Nat) : Nat → List Byte → Option (List PCell)
  | 0, bs => if bs.isEmpty then some [] else none
  | n + 1, bs =>
    if bs.isEmpty then some []
    else match readCell sparse coll bs with
      | none => none
      | some (c, len) => (readCells sparse coll n (bs.drop len)).map (c :: ·)

/-- Elements split into partial cells of `per`, each with its base index. -/
def cutCells (per : Nat) : Nat → List Acc → List (List Acc)
  | 0, _ => []
  | n + 1, xs => if xs.isEmpty then [] else xs.take per :: cutCells per n (xs.drop per)

end Sys2Proof.Machine
end

