-- ==== Sys2Proof/Config.lean ====
section
/-!
DEFINITION. Free values: what the spec leaves open and the device nevertheless produces. Each is an
opaque constant applied to `State.freeIx` (log 2) or to the operands it depends on; nothing can be
proved about its value.
-/

namespace Sys2Proof.Config

/-- DETAIL0 and DETAIL1 of a FAULT entry where no rule gives them (18 Table 18-10). -/
opaque faultDetail : Nat → DWord

/-- ORDER_IDX and RANGE of an abort request for a collective that the plan here does not have (12 R358, 11 Table 11-3). -/
opaque abortPlace : Nat → DWord

/-- Bytes of a captured dossier, whose binary layout 18 Table 18-11 does not give:
capture number, offset. -/
opaque dossierByte : Nat → Nat → Byte

/-- Length in bytes of a captured dossier: capture number (18 R523). -/
opaque dossierLen : Nat → BitVec 25

/-- First failing address or unit detail of a self-test (18 Table 18-10). -/
opaque selfTestDetail : Nat → DWord

/-- Pause quanta of the XOFF frames the device sends, which 10 R323 does not give. -/
opaque pauseQuanta : Half

/-- Refresh waits of the granary in GCLK cycles since they were last counted: they follow from refresh timing,
which the spec does not give (16 R461). -/
opaque refreshWaits : Nat → Word

/-- Version of a firmware image, by bank and the bytes written to it: the image's layout is not given (19 Table 19-9). -/
opaque firmwareVersion : Bool → List (Nat × Byte) → BitVec 24

/-- Fused core rail setpoint for a TCLK divisor at boot, by die, in tenths of a millivolt (19 R541). -/
opaque avsFuse : Bool → BitVec 2 → Nat

/-- Setpoint the Reeve asks for at an AVS step (19 R541), whose rule the spec does not give. -/
opaque avsWant : Nat → Nat

end Sys2Proof.Config
end

