-- ==== Sys2Proof/Machine/State.lean ====
section
/-!
DEFINITION. The state of the MF-1024 as plain data, one structure per unit, each field at its reset
value (its default), and `State.reset`. INVENTORY.md gives the rule behind every field.
-/

namespace Sys2Proof.Machine
open Sys2Proof

/-! ## Identity, clocks, power, reset (00, 19, 20) -/

/-- Values fixed at manufacture (00 R6, R7). DESIGN CHOICE (log 3): a grade A part. -/
structure Part where
  grade : BitVec 2 := 0
  plotPresent : Word := 0xFFFFFFFF
  deriving DecidableEq, Repr

/-- The Almanac, power controller, governor and reset history (19 Tables 19-9 to 19-12). -/
structure Clk where
  pllLock : Bool := false
  hotW : Bool := false
  hotE : Bool := false
  /-- Divisor running: 0 is 6, 1 is 8, 2 is 12. -/
  tclkDiv : BitVec 2 := 0
  mode : BitVec 2 := 0
  /-- Root-PLL time not yet counted, in tenths of a nanosecond (R529). -/
  rootFrac : Nat := 0
  timebase : DWord := 0
  tbNext : DWord := 0
  tbMaster : Bool := false
  tickOutEn : Bool := false
  allowStep : Bool := false
  armed : Bool := false
  tickDelay : Half := 0
  tbPeriod : BitVec 20 := 1000
  locked : Bool := false
  tickLost : Bool := false
  lastErr : Int := 0
  /-- Consecutive edges with |err| at most 100 (R532). -/
  goodEdges : Nat := 0
  /-- Error still to be slewed, ns. -/
  slew : Int := 0
  /-- Nanoseconds of the current 64 ns slewing period. -/
  slewPhase : Nat := 0
  ticks : Word := 0
  /-- Pulses driven on TICK_OUT (R531). -/
  tickOuts : Nat := 0
  throttle : Word := 0
  /-- Consecutive cool samples of the governor (Table 19-4). -/
  coolSamples : Nat := 0
  pkgPower : Half := 0
  tempW : Byte := 0
  tempE : Byte := 0
  tempH : Byte := 0
  powerOn : Bool := true
  coldPin : Bool := false
  warm : Bool := false
  wasFatal : Bool := false
  warmCount : Half := 0
  bootBank : Bool := false
  fwVersion : BitVec 24 := 0
  readyAlmanac : Bool := false
  readyReeves : Bool := false
  readyGranary : Bool := false
  readySteward : Bool := false
  /-- Core rail setpoints in tenths of a millivolt (R541, R553). -/
  vddW : Nat := 7200
  vddE : Nat := 7200
  deriving DecidableEq, Repr

/-- A switched power domain (19 R534, Table 19-13). -/
inductive DomState
  | off | powering | on | fallow | test
  deriving DecidableEq, Repr

structure Domain where
  st : DomState := .off
  planned : Bool := false
  transitions : Half := 0
  deriving DecidableEq, Repr

/-- Pins (19 R549, 20 R558). DESIGN CHOICE (log 5): the input levels right after reset. -/
structure Pins where
  coldResetN : Bool := false
  perstN : Bool := false
  tmode : BitVec 3 := 0
  /-- THERMTRIP_N asserted (R546). -/
  thermtrip : Bool := false
  /-- A warm reset was accepted and has not begun (R546). -/
  warmPending : Bool := false
  deriving DecidableEq, Repr

/-! ## Host port and Steward port (17) -/

/-- A tally entry (17 Tables 17-11, 17-13). `body` is the 40-byte body. -/
structure Tally where
  dseq : Word
  kind : Half
  utype : BitVec 4
  steward : Bool
  n : Bool
  cmd : Bool
  unit : Half
  fault : Half
  ref : Word
  time : DWord
  body : List Byte
  deriving DecidableEq, Repr

/-- An accepted command that has not completed (17 R479): its opcode and entry. -/
structure PendCmd where
  op : Half
  c : Cmd
  deriving DecidableEq, Repr

/-- The host block, the rings and the MSI-X wire (17 Tables 17-3 to 17-6). -/
structure HostPort where
  doorbell : Word := 0
  tallySeen : Word := 0
  accepted : Word := 0
  completed : Word := 0
  next : Word := 1
  oldest : Word := 1
  overrun : Bool := false
  /-- The pending table, in ascending serial HSEQ (R479). -/
  pend : List PendCmd := []
  gen : Half := 0
  tallyLog2 : BitVec 4 := 12
  ledgerLog2 : BitVec 4 := 0
  thresh : Half := 0x40
  timeUs : Half := 0x10
  intMask : BitVec 4 := 0xF
  intStatus : BitVec 4 := 0
  /-- Unread entries have stayed nonzero for TIME_US (R487). -/
  timeUp : Bool := false
  /-- MSI-X messages sent, oldest first: their vectors (R487). -/
  msgs : List Nat := []
  rejects : Word := 0
  preempts : Word := 0
  bads : Word := 0
  resets : Word := 0
  authLast : Word := 0
  /-- The ledger ring's bytes (BAR2 from offset 0), every unlisted byte zero (R494). -/
  slots : List Host.Cell := []
  /-- The entries the tally ring holds, DSEQ OLDEST to NEXT - 1 (R484). -/
  tally : List Tally := []
  /-- A damaged slot waits for the next doorbell write (R478). -/
  waitBad : Bool := false
  deriving DecidableEq, Repr

/-- An MGT_RESP frame sent to the Steward (17 R491, R492). -/
structure StewResp where
  mac : BitVec 48
  seq : Word
  entry : Tally
  data : List Byte
  deriving DecidableEq, Repr

structure StewPort where
  linkUp : Bool := false
  fec : Bool := false
  sseq : Word := 0
  /-- Completions of the last 256 accepted SSEQs, oldest first (R492). -/
  kept : List StewResp := []
  /-- Accepted Steward commands still running, with the MAC that sent them (R492). -/
  running : List (Word × BitVec 48) := []
  /-- Source MAC of the last accepted frame; none before one was accepted (R492). -/
  lastMac : Option (BitVec 48) := none
  /-- Responses sent, oldest first. -/
  out : List StewResp := []
  deriving DecidableEq, Repr

/-! ## The plan (09) -/

/-- State of a staging slot (09 Table 9-10). -/
inductive SlotState
  | empty | staged | validating | valid | invalid | pending | applying | committed
  deriving DecidableEq, Repr

/-- One record of a plan image: section, RTYPE, INDEX, its packed fields in table order (a byte
structure gives one field per word), and its tables in order, each a list of entries (09 R268-R270). -/
structure PlanRec where
  sect : Nat
  rtype : Nat
  index : Nat
  fields : List Nat
  tables : List (List (List Nat))
  deriving DecidableEq, Repr

/-- Phase of the pending commit (09 Table 9-8). -/
inductive Phase
  | none | load | armed | apply
  deriving DecidableEq, Repr

/-- The pending commit (09 R283, R284). -/
structure Commit where
  slot : Bool
  delta : Bool
  headland : Nat
  limitMs : Nat
  owner : Bool
  cmd : Cmd
  digest : List Byte
  /-- The plan the inactive banks hold, once LOAD has ended. -/
  bank : List PlanRec := []
  deriving DecidableEq, Repr

/-- A headland armed by HEADLAND_ARM (09 R280). -/
structure Arm where
  headland : Nat
  quiesce : Bool
  deriving DecidableEq, Repr

/-- The plan block and the plan in force (09 Tables 9-9, 9-10). -/
structure Plan where
  slot0 : SlotState := .empty
  slot1 : SlotState := .empty
  planned : Bool := false
  quiescing : Bool := false
  errors : Byte := 0
  errSlot : Bool := false
  phase : Phase := .none
  firstSect : Byte := 0
  firstErr : Byte := 0
  firstOff : BitVec 25 := 0
  lastFault : Half := 0
  headland : DWord := 0
  pendHeadland : DWord := 0xFFFFFFFFFFFFFFFF
  /-- CURRENT_DIGEST, 32 bytes in FIPS 180-4 output order (R290); zero before a commit. -/
  digest : List Byte := List.replicate 32 0
  commits : Word := 0
  lockedWrites : Word := 0
  arms : List Arm := []
  commit : Option Commit := none
  /-- Commands whose slot's validation runs, by slot (R275). -/
  validating : List (Bool × Cmd) := []
  /-- DIGEST of each slot's last VALID image and whether it is a DELTA. -/
  slotInfo : List (Bool × Bool × List Byte) := []
  /-- The running plan: the records in force. -/
  cur : List PlanRec := []
  /-- Device ID of the last FULL commit. DESIGN CHOICE (log 6): 16,383, no device, before one. -/
  deviceId : BitVec 14 := 0x3FFF
  deriving DecidableEq, Repr

/-! ## Faults, hedges, recovery (18) -/

/-- What is kept of a (UTYPE, UNIT, code) triple between FAULT entries (18 R497). -/
structure Seen where
  utype : BitVec 4
  unit : Half
  code : Half
  /-- Headland of its last FAULT entry. -/
  headland : DWord
  /-- Events since that entry. -/
  count : Nat
  deriving DecidableEq, Repr

/-- The fault block (18 Tables 18-8, 18-9). -/
structure FaultBlk where
  fatal : Bool := false
  fenced : Bool := false
  contained : Bool := false
  corrected : Bool := false
  fatalCode : Half := 0
  cntCorrected : Word := 0
  cntContained : Word := 0
  cntFenced : Word := 0
  cntFatal : Word := 0
  lastType : BitVec 4 := 0
  lastCode : Half := 0
  lastUnit : Half := 0
  portFault : Tab Half := []
  seen : List Seen := []
  epochMax : Word := 0
  deriving DecidableEq, Repr

/-- State of a hedge set entry (18 R505). -/
inductive HState
  | hedged | opened | lifted
  deriving DecidableEq, Repr

/-- A hedge set entry; `pend` is the headland of a LIFTED entry that is still pending, `body` the
ADMIT body that lifted it. -/
structure HEntry where
  st : HState := .lifted
  epoch : Word := 0
  /-- CAUSE of the notice that set it (18 Table 18-6). -/
  cause : Half := 0
  pend : Option DWord := none
  body : List Byte := []
  deriving DecidableEq, Repr

/-- Beacon supervision of one peer device (18 R504, R507). -/
structure Beacon where
  device : BitVec 14
  silent : Nat
  /-- The counter stays idle until the next beacon. -/
  idle : Bool
  mismatches : Nat
  deriving DecidableEq, Repr

/-- A notice this device originated and repeats: its 24 bytes and the repeats left (18 R507). -/
structure Notice where
  bytes : List Byte
  left : Nat
  deriving DecidableEq, Repr

structure Hedge where
  dev : Tab HEntry := []
  ep : Tab HEntry := []
  loc : Tab HEntry := []
  overflow : Word := 0
  beacons : List Beacon := []
  repeats : List Notice := []
  /-- MGT packets sent, per OP (11 R332). -/
  mgtSeq : Tab Word := []
  deriving DecidableEq, Repr

/-- Key and body of the last command applied to a recovery object (17 R490); invalid before one. -/
structure Kept where
  valid : Bool := false
  epoch : Word := 0
  auth : Auth := .none
  dev : BitVec 14 := 0
  body : List Byte := []
  deriving DecidableEq, Repr

inductive Role
  | none | partner | shadow
  deriving DecidableEq, Repr

/-- The yoke (18 R513, R514): its pairs (this device's share, OTHER's share); at a partner the closed step that
waits for the shadow's report, as (headland, excluded, CRCs), and the report that came before its step closed. -/
structure Yoke where
  role : Role := .none
  other : BitVec 14 := 0
  cleanSteps : Half := 0
  k : Half := 0
  start : DWord := 0
  pairs : List (Nat × Nat) := []
  wait : Option (Nat × Bool × List DWord) := none
  report : Option (Nat × Bool × List DWord) := none
  deriving DecidableEq, Repr

structure SelfTest where
  /-- SELF_TEST commands, the running one first. -/
  running : List Cmd := []
  done : Bool := false
  failed : BitVec 7 := 0
  tested : BitVec 7 := 0
  deriving DecidableEq, Repr

structure Dossier where
  /-- Captures, the running one first. -/
  busy : List Cmd := []
  valid : Bool := false
  size : BitVec 25 := 0
  /-- Number of the capture that the flash holds (its bytes are free values). -/
  capture : Nat := 0
  deriving DecidableEq, Repr

/-- The two firmware banks (17 R579, 19 R548, 20 Table 20-4): their bytes, unlisted bytes 0 (log 8), the bank booted
last, and whether the other one has been verified and marked bootable. -/
structure Fw where
  bank0 : List Host.Cell := []
  bank1 : List Host.Cell := []
  boot : Bool := false
  marked : Bool := false
  deriving DecidableEq, Repr

/-! ## Lanes, ports and link layer (10) -/

/-- Port state (10 Table 10-8). -/
inductive PortSt
  | unused | training | init | up | down | fenced
  deriving DecidableEq, Repr

structure Port where
  st : PortSt := .unused
  /-- Peer endpoint address from INIT; none before INIT (PORT_PEER reads all ones). -/
  peer : Option Addr := none
  peerEndpoint : Bool := false
  /-- The peer declared PERSONALITY COACH. -/
  peerCoach : Bool := false
  restriping : Bool := false
  /-- Lost-lane mask (R318). -/
  lost : Byte := 0
  /-- Lanes without lock whose 2 microseconds run (R305). -/
  unlocked : Byte := 0
  /-- LANE_MAP sent in this restriping, and the peer's mask and ACK_SEQ when its LANE_MAP has come. -/
  mapSent : Bool := false
  peerMap : Option (Byte × BitVec 11) := none
  /-- Failed training attempts. -/
  attempts : Nat := 0
  retries : DWord := 0
  fecCorr : DWord := 0
  fecUncorr : Word := 0
  edgeDrops : Word := 0
  edgeRefused : Word := 0
  /-- Next TX_SEQ, and flits sent and not acknowledged, oldest first (R311). -/
  txSeq : BitVec 11 := 0
  retryBuf : List Flit := []
  /-- Consecutive resends that advanced nothing (R313). -/
  futile : Nat := 0
  /-- The flit that RETRY_TO had resent: its NAK causes no second resend (R312). -/
  timedOut : Option (BitVec 11) := none
  /-- CTRL flit bodies waiting to be sent. -/
  ctrlQ : List (List Byte) := []
  rxExpect : BitVec 11 := 0
  nakSent : Bool := false
  /-- Per VL: credits held to send, credits the peer holds, credits to be returned (R309). -/
  credits : Tab Nat := []
  granted : Tab Nat := []
  owed : Tab Nat := []
  /-- Body bytes received of the packet in progress on each VL (R307). -/
  asm : Tab (List Byte) := []
  /-- Priorities stopped by a received PFC frame, and a received pause frame (R323). -/
  paused : Byte := 0
  pauseAll : Bool := false
  /-- Priorities for which XOFF was sent. -/
  xoff : Byte := 0
  demoted : Word := 0
  yellow : Word := 0
  red : Word := 0
  deriving DecidableEq, Repr

/-- A MAC table entry learned on a port (R324): MAC, VLAN, port. -/
structure MacEntry where
  mac : Nat
  vlan : Nat
  port : Nat
  deriving DecidableEq, Repr

/-- What leaves a port, in order: a flit or an Ethernet frame (DA to FCS). -/
inductive Sent
  | flit (port : Nat) (f : Flit)
  | frame (port : Nat) (bytes : List Byte)
  deriving DecidableEq, Repr

/-! ## Forwarding (11, 12, 13) -/

/-- A packet in ingress lodging (11 R340): the port it came in on, none when the device originated it;
whether it has been looked up; its colour (0 green, 1 yellow, 2 red); whether ESC_AFTER has passed; the
PCP and account it was lodged under on an EDGE port. -/
structure Lodged where
  port : Option Nat
  /-- Requester ID of the unit that originated it, when no port did (12 Table 12-3). -/
  unit : Nat := 1248
  /-- VL of the flits that carried it. -/
  vl : BitVec 4
  p : Pkt
  looked : Bool := false
  colour : Nat := 0
  escaped : Bool := false
  pcp : Nat := 0
  /-- A memory request or answer of an endpoint that has passed its own command (14 R401, R414), and one on
  its last way to an endpoint here (14 R405, R409). -/
  checked : Bool := false
  served : Bool := false
  /-- The one port it may leave by: packets of a gateway to its peer (14 R427, R428). -/
  via : Option Nat := none
  /-- The stored copy that holds its payload (12 R368). -/
  copy : Option Nat := none
  /-- Die in whose response room an internal target's response waits (11 R347). -/
  room : Option Nat := none
  deriving DecidableEq, Repr

/-- A packet, or a layer-2 frame with its VLAN and PCP. -/
inductive Item
  | pkt (p : Pkt)
  | frame (bytes : List Byte) (vlan pcp : Nat)
  deriving DecidableEq, Repr

/-- A dispatched unit in an output queue: the VL it leaves on, the lodging it still holds (ingress port
and VL), its colour and the flits already sent (11 R340, 13 R379). -/
structure Queued where
  port : Nat
  queue : Nat
  vl : BitVec 4 := 0
  item : Item
  src : Option (Nat × BitVec 4) := none
  unit : Nat := 1248
  pcp : Nat := 0
  colour : Nat := 0
  sent : Nat := 0
  room : Option Nat := none
  /-- The stored copy that holds its payload or frame (12 R368). -/
  copy : Option Nat := none
  deriving DecidableEq, Repr

/-- A packet handed to a local unit and not yet taken (11 R344), with its ingress port. -/
structure Deliv where
  port : Option Nat
  p : Pkt
  /-- A tracked request that has passed the replay table (14 R420). -/
  tracked : Bool := false
  /-- Its place among the writes a granary controller holds for a feed (04 R137). -/
  heldAt : Option Nat := none
  deriving DecidableEq, Repr

/-- Routing registers of one die (11 Table 11-9). -/
structure RouteDie where
  hdr : Word := 0
  disc : Word := 0
  mgt : Word := 0
  escapes : DWord := 0
  deriving DecidableEq, Repr

/-- Routing state: signposts whose two copies failed (R339), ports under R345, destinations whose
ROUTE_NONE was raised, by headland + 1 (Table 11-8). -/
structure Route where
  die : Tab RouteDie := []
  bad : List Nat := []
  /-- Local port table entries (port fields) both of whose copies have failed (11 R339). -/
  badLocal : List Nat := []
  escLost : List Nat := []
  noneAt : Tab Nat := []
  deriving DecidableEq, Repr

/-- A held room (12 R367, R368): its pointer fields, account (8 x requester + sub) and references;
a leaked one is held and uncharged (R369). -/
structure Room where
  die : Nat
  inn : Nat
  size : Nat
  cell : Nat
  acct : Nat
  refs : Nat
  leaked : Bool := false
  deriving DecidableEq, Repr

/-- A waiting room request (R364). -/
structure RoomWait where
  die : Nat
  inn : Nat
  acct : Nat
  bytes : Nat
  refs : Nat
  deriving DecidableEq, Repr

/-- What several targets share, stored once (03 R74, 12 R368): its number, the references left, its bytes. -/
structure Copy where
  id : Nat
  refs : Nat
  bytes : List Byte
  deriving DecidableEq, Repr

/-- Core registers of one die (12 Table 12-8). -/
structure CoreDie where
  refused : Word := 0
  badRelease : Word := 0
  truncated : Word := 0
  cellCe : Word := 0
  cellUe : Word := 0
  deriving DecidableEq, Repr

/-- A gleaner sample buffered by a die (12 R374): the 160-byte ring entry but for LOST. -/
structure Glean where
  head : Half := 0
  tail : Half := 0
  lost : Word := 0
  /-- Samples lost since the previous entry written. -/
  lostSince : Nat := 0
  seq : Word := 0
  /-- Packets counted, by 2 x port + direction. -/
  count : Tab Nat := []
  bufW : List (List Byte) := []
  bufE : List (List Byte) := []
  deriving DecidableEq, Repr

/-- The cell buffers of both dies. -/
structure Core where
  die : Tab CoreDie := []
  rooms : List Room := []
  waits : List RoomWait := []
  /-- Account granted last, by 64 x die + inn, plus 1. -/
  lastAcct : Tab Nat := []
  /-- Cells an EDGE account holds for lodged frames, by account. -/
  edge : Tab Nat := []
  /-- Account served last at an output and VL, by 16 x port + VL, plus 1 (R356). -/
  served : Tab Nat := []
  /-- Inns that a PLAN_APPLY_FAULT has fenced, by 64 x die + inn (09 R286). -/
  fencedInns : List Nat := []
  copies : List Copy := []
  nextCopy : Nat := 0
  deriving DecidableEq, Repr

/-- A queue's scheduling state: settings in effect since the last refill, bucket in 1/75 bit, deficit
(13 R381, R382, R385). -/
structure QState where
  shaped : Bool := false
  weight : Nat := 0
  rate : Nat := 0
  burst : Nat := 0
  t : Int := 0
  d : Nat := 0
  deriving DecidableEq, Repr

/-- A policer: its settings in effect and its buckets in 1/75 bit (13 R387). -/
structure PolState where
  on : Bool := false
  fields : List Nat := []
  c : Nat := 0
  e : Nat := 0
  deriving DecidableEq, Repr

structure Sched where
  q : Tab QState := []
  port : Tab QState := []
  pol : Tab PolState := []
  /-- Weighted pointer of each port (R381). -/
  ptr : Tab Nat := []
  deriving DecidableEq, Repr

/-- A granary controller (18 R501, 20 R568). -/
structure GranCtl where
  fenced : Bool := false
  /-- Refresh doubled: the stack's case temperature is above 85 degrees. -/
  doubled : Bool := false
  /-- GRANARY_READMIT commands, the running one first (18 R510). -/
  readmit : List Cmd := []
  deriving DecidableEq, Repr

/-! ## Audit (16) -/

/-- A PROV_HASH command waiting or running (16 R466), and whether its range was written while it ran. -/
structure ProvJob where
  cmd : Cmd
  n : Bool := false
  deriving DecidableEq, Repr

structure Audit where
  refresh : DWord := 0
  retries : DWord := 0
  /-- Samples of DEV_REFRESH and DEV_RETRIES at the last headland. -/
  refreshAt : DWord := 0
  retriesAt : DWord := 0
  nStep : Half := 0
  nAll : Half := 0
  ce : Half := 0
  ue : Half := 0
  /-- TIMEBASE at the last headland (R462). -/
  stepStart : DWord := 0
  /-- Provenance registers: 32 bytes, N bit. -/
  pregs : Tab (List Byte × Bool) := []
  provQ : List ProvJob := []
  /-- Code with which each register's last hash ended, 0 for none (R465). -/
  provEnd : Tab Half := []
  provFault : Half := 0
  deriving DecidableEq, Repr

/-! ## Collectives (03) -/

/-- A waybill a node holds: the child it came from (a raw member's address, or 2^24 + device for a child
node), its 64 bytes, its arrival time. -/
structure Bill where
  child : Nat
  bytes : List Byte
  arrived : DWord
  deriving DecidableEq, Repr

/-- A data packet a node holds: its child and source, slot position, CHUNK, PKT, whether it is the last
of its chunk, its payload. -/
structure ColPkt where
  child : Nat
  src : Addr
  pos : Nat
  chunk : Nat
  pkt : Nat
  last : Bool
  payload : List Byte
  deriving DecidableEq, Repr

/-- A tree node on this device, kept under its lead slot (03 R89 to R104). -/
structure Node where
  /-- HEADLAND and ORDER_IDX of the position served. -/
  h : Nat := 0
  idx : Nat := 0
  /-- Headland at which service last started afresh (R91). -/
  fresh : Nat := 0
  bills : List Bill := []
  granted : Bool := false
  /-- COLL_MEMBER_LOST was raised for the collective served. -/
  lost : Bool := false
  pkts : List ColPkt := []
  /-- Chunks (or chunks of a member, as 2^32 x address + chunk, in an all-gather) complete. -/
  chunksDone : List Nat := []
  /-- Root: results delivered, chunk number and bytes; all-gather: the output assembled and the elements
  of each output chunk at hand. -/
  out : List (Nat × List Byte) := []
  asm : List Host.Cell := []
  got : Tab Nat := []
  /-- Output chunks sent to a sink, or to each slot of the parent (SUM_SPARSE). -/
  sent : Tab Nat := []
  /-- Chunks of each (child, slot position) stream whose credit was returned (R104). -/
  credited : List (Nat × Nat × Nat) := []
  flags : Nat := 0
  /-- Arrival time of each direct member's last chunk at each slot position: position, child, time (R97). -/
  lastChunk : List (Nat × Nat × DWord) := []
  /-- Grants from the parent that wait to be passed on (R86). -/
  grantsIn : List (List Byte) := []
  /-- The segment slots have sent their sums to the home slots (R102). -/
  segSent : Bool := false
  /-- The position served last, which a late abort request still names (R96). -/
  prev : Option (Nat × Nat) := none
  /-- Later positions aborted before they were served. -/
  aborted : List (Nat × Nat) := []
  deriving DecidableEq, Repr

/-- A row table of a member's port for one collective (R102): its member and COLL_ID, ROW_SHIFT, SKEW,
COUNT and ETYPE_IN, the rows counted, and the rows split for the member. -/
structure RowTab where
  member : Nat
  coll : Nat
  shift : Nat
  skew : Nat
  count : Nat
  etype : Nat
  rows : List (Nat × Nat)
  split : List Nat
  /-- Pairs taken of COUNT, and the open chunk of each stream: range, slot position, chunk number, bytes (R104). -/
  seen : Nat := 0
  open_ : List (Nat × Nat × Nat × List Byte) := []
  deriving DecidableEq, Repr

/-- A FURROW_RESET sent to a peer and not answered (18 R510): its command, device and resends made. -/
structure PeerReset where
  c : Cmd
  device : Nat
  tries : Nat
  deriving DecidableEq, Repr

/-- A movement transfer in progress at a receiver (R71): its destination field, source, furrow, transfer
count, TOTAL, ETYPE, the bytes and their number so far, and whether it was refused. -/
structure Move where
  dst : Nat
  src : Addr
  furrow : Nat
  seq : Word
  total : Nat
  etype : Nat
  bytes : List Host.Cell
  have_ : List (Nat × Nat)
  refused : Bool
  deriving DecidableEq, Repr

/-- A chunk that waits for a credit (R80): its sender, the slot it goes to (4,096 x device + slot), that slot's CHUNK_WINDOW,
its packets, whether it takes a credit, and the credits that go back when it has left: slot and child. -/
structure OutChunk where
  owner : Nat
  sink : Nat
  window : Nat
  pkts : List Pkt
  free : Bool := false
  back : List (Nat × Addr) := []
  /-- Granary stack whose engine sends a feed's chunk (04 R106). -/
  stack : Nat := 0
  deriving DecidableEq, Repr

/-- A credit of an all-gather chunk that waits until every copy has been read (R80): the root's lead slot and collective, the
output chunks it lies in that are still to be sent, the stored copies of those sent, and the slot and child that get it. -/
structure CopyWait where
  lead : Nat
  coll : Nat
  chunks : List Nat
  ids : List Nat
  slot : Nat
  dst : Addr
  deriving DecidableEq, Repr

structure Coll where
  nodes : Tab Node := []
  fenced : List Nat := []
  /-- Grants that have passed a member's port: member address, COLL_ID (R87). -/
  grants : List (Nat × Nat) := []
  rows : List RowTab := []
  /-- Chunk credits in use: sender, slot (4,096 x device + slot), chunks; and chunks that wait for one, oldest first (R80). -/
  credits : List (Nat × Nat × Nat) := []
  outbox : List OutChunk := []
  copyWaits : List CopyWait := []
  moves : List Move := []
  /-- Movement transfers begun per furrow by each sender of this device (11 R332), by 256 x sender + furrow: a plot by its
  port field, a stage by 1,024 + its number. -/
  moveSeq : Tab Word := []
  resets : List PeerReset := []
  deriving DecidableEq, Repr

/-! ## Plots (05, 06, 07) -/

/-- STATE of a plot that is not fallow (05 Table 5-10). -/
inductive PlotMode
  | idle | running | aborted
  deriving DecidableEq, Repr

/-- An accumulator bank: FP32 codes by 128 m + n, and its taint. DESIGN CHOICE (log 7): +0 at reset. -/
structure Bank where
  vals : Tab Nat := []
  taint : Bool := false
  deriving DecidableEq, Repr

/-- A tile queue entry: its number, its values in the order of R150, M, N, TQ_TAG, taint, captured CHUNK_TAG and the
cycle from which it can be read. -/
structure TileEntry where
  id : Nat := 0
  vals : List Nat
  m : Nat
  n : Nat
  tag : Nat
  taint : Bool
  chunkTag : Nat
  ready : Nat
  deriving DecidableEq, Repr

/-- Unit of a plot an operation runs on. -/
inductive OpUnit
  | mm | acc | harrow
  deriving DecidableEq, Repr

/-- A line an operation or a transfer has written: the cycle from which its shadow tag is clear again (07 R228), how many bits
were written, and the 128 bytes and taint before it. -/
structure LineWr where
  line : Nat
  clear : Nat
  bits : Nat := 0
  old : List Byte := []
  oldTaint : Bool := false
  deriving DecidableEq, Repr

/-- What an operation does with a line it presents to its bank (05 R158 to R160): reads it into capture entry `key`;
writes part `i` of its destination there; holds a port cycle of a destination whose data come later (06 R192);
or writes all of its destination that has not been written. -/
inductive LineAct
  | read (key : Nat)
  | write (i : Nat)
  | slot
  | final
  deriving DecidableEq, Repr

/-- A line that an operation presents in its cycle `at_`, counted from its issue. -/
structure LineAcc where
  at_ : Nat
  act : LineAct
  line : Nat
  deriving DecidableEq, Repr

/-- A line as an operation read it. -/
structure CapLine where
  bytes : List Byte := []
  taint : Bool := false
  deriving DecidableEq, Repr

/-- A running operation (05 R148 to R160, 06 R198, R199): its number, unit, control word address and word, and the bank it
names. `t` counts its cycles since issue, those it stalled left out; it frees its path (a harrow operation its bank) in cycle
`free` and ends in cycle `fin`. `todo` are the lines it has still to present, in order; `reads` every line it reads;
`wrote` those it has written; `cap` what it has read; `nread` how many lines, `errs` those in error (true: uncorrectable).
`src` are values taken at issue from a bank or tile queue entry, `taint` what it has read of taint, `flags` its arithmetic
flags so far, `slab` the slabs it has added, `pop` the tile queue entry it releases. -/
structure PlotOp where
  id : Nat
  unit : OpUnit
  addr : Nat
  word : Nat
  bank : Option Bool := none
  t : Nat := 0
  free : Nat
  fin : Nat
  todo : List LineAcc := []
  reads : List Nat := []
  wrote : List LineWr := []
  cap : Tab CapLine := []
  nread : Nat := 0
  errs : LineErrs := []
  src : List Nat := []
  taint : Bool := false
  bankWasTainted : Bool := false
  flags : Nat := 0
  slab : Nat := 0
  pop : Option Nat := none
  deriving DecidableEq, Repr

/-- A harrow register (06): an index list or a mask of 256 lanes, COUNT, taint. -/
structure XReg where
  isList : Bool := false
  mask : Nat := 0
  list : List Nat := []
  count : Nat := 0
  taint : Bool := false
  deriving DecidableEq, Repr

/-- A stream of an address generator (07 R214): base line, RUN, STRIDE, the index of its next line. -/
structure AgStream where
  used : Bool := false
  base : Nat := 0
  run : Nat := 0
  stride : Nat := 0
  next : Nat := 0
  deriving DecidableEq, Repr

/-- Operations of the fabric transfer queue (07 R217). -/
inductive XferKind
  | gload | gstore | msend | waybill | csend
  deriving DecidableEq, Repr

/-- An entry of the fabric transfer queue (07 R217): its word's address, its lines, operands and number, whether it runs,
and while it runs the lines it has still to move and those it has read. -/
structure Xfer where
  kind : XferKind
  addr : Nat
  lines : List Nat
  gaddr : Nat := 0
  furrow : Nat := 0
  rb : Nat := 0
  count : Nat := 0
  etype : Nat := 0
  id : Nat := 0
  running : Bool := false
  left : List Nat := []
  cap : List CapLine := []
  /-- Lines of the transfer whose read meets an error (true: uncorrectable). -/
  errs : LineErrs := []
  deriving DecidableEq, Repr

/-- What a digest accumulator has been given and not yet absorbed, in order (07 R223): a stream (the
number of its operation or transfer while that runs, bytes, taint, N) or a DLOG (its word). -/
inductive DigItem
  | seg (src : Option Nat) (bytes : List Byte) (taint nm : Bool)
  | log (addr : Nat)
  deriving DecidableEq, Repr

/-- A digest accumulator: CRC state over what it has absorbed, N flag, taint, what waits. -/
structure Digest where
  crc : Nat := 0xFFFFFFFFFFFFFFFF
  nm : Bool := false
  taint : Bool := false
  items : List DigItem := []
  deriving DecidableEq, Repr

/-- A receive binding's progress (07 R219): complete; STORE: releases applied and the first source of each
line; RANGE: ETYPE_OUT and kind of the collective, chunks written, its outcome. -/
structure Bind where
  complete : Bool := false
  releases : Nat := 0
  writers : List (Nat × Nat) := []
  chunks : List Nat := []
  outcome : Option Nat := none
  /-- RANGE: packets of chunks not yet whole, as (chunk, PKT, last, payload). -/
  parts : List (Nat × Nat × Bool × List Byte) := []
  /-- GRANT: the payload received. -/
  grant : List Byte := []
  /-- CHUNK_TAG of the sealed chunk completed last (15 R445). -/
  tag : Nat := 0
  deriving DecidableEq, Repr

/-- Scalar state as at the start of the issuing word's cycle (07 R207), and the parts of the word done. -/
structure Snap where
  ctr : Tab Word
  cfg : Tab Word
  lim : Tab Word
  /-- The die's shared counters. -/
  sc : Tab Word
  flags : DWord
  done : List Nat
  deriving DecidableEq, Repr

structure Plot where
  mode : PlotMode := .idle
  scratch : List Host.Cell := []
  taint : Tab Bool := []
  bank0 : Bank := {}
  bank1 : Bank := {}
  tq : List TileEntry := []
  ops : List PlotOp := []
  /-- Lines whose shadow tag may still be set after their operation ended (07 R228). -/
  shadow : List LineWr := []
  ceCount : Byte := 0
  lastFault : Half := 0
  aflags : Byte := 0
  xregs : Tab XReg := []
  /-- Key registers: seed, context. -/
  keys : Tab (Nat × Nat) := []
  hflags : Byte := 0
  hLastFault : Half := 0
  /-- Counters, comparator configurations and limits. -/
  ctr : Tab Word := []
  cfg : Tab Word := []
  lim : Tab Word := []
  /-- F8 to F63; F0 to F7 are computed. -/
  flags : DWord := 0
  /-- Event flags that completions of this cycle set: they are 1 from the next (07 R212). -/
  came : DWord := 0
  /-- Something came from outside while the word at the PC was held, in a cycle that its command does not tell. -/
  outside : Bool := false
  ags : Tab AgStream := []
  xq : List Xfer := []
  /-- Number of the next operation, transfer or tile queue entry. -/
  nextId : Nat := 0
  digs : Tab Digest := []
  /-- Streams the current word's operations gave, by DSRC: what DTAP can tap. -/
  streams : List (Nat × DigItem) := []
  pc : BitVec 14 := 0
  /-- Cycle since the start word's issue. -/
  cyc : Nat := 0
  cycles : DWord := 0
  waitCycles : DWord := 0
  nmark : Bool := false
  /-- The die's latest SCINC increments, by counter and cycle, that the plot may not yet see (07 R209). -/
  scLate : List (Nat × Nat) := []
  snap : Option Snap := none
  halted : Bool := false
  /-- PLOT_STOP drains: the commands that wait for its entry (R236). -/
  stopping : Bool := false
  stops : List Cmd := []
  faultPc : BitVec 14 := 0
  seqFault : Half := 0
  binds : Tab Bind := []
  /-- Power hints in force: array, harrow, FABRIC port engine (R224). -/
  hints : BitVec 3 := 0
  /-- The control table failed under ECC or APPLY: PLOT_START is refused (18 R500, 09 R286). -/
  ctrlBad : Bool := false
  /-- The last waybill the plot has sent on each furrow (R219). -/
  sentBills : List (Nat × List Byte) := []
  /-- The PLOT_START whose start word has not issued (17 Table 17-9). -/
  startCmd : Option Cmd := none
  /-- The plot has been started since its bindings were last defined: they are armed (R219). -/
  bindsArmed : Bool := false
  /-- Cycle from which the word at the PC has been held. -/
  heldAt : Nat := 0
  deriving DecidableEq, Repr
/-! ## Parameter update (04) -/

/-- A feed in the step: granted; the packets of chunks not yet applied, as (chunk, PKT, last, payload);
chunks taken by the engine, and leading chunks whose every output weight is in staging; its reduce-scatter
outcome (0 COMPLETE with its chunks, 1 ABORTED); the all-gather's COLL_ID once its waybill was sent, whether its grant came, and
the chunks contributed. -/
structure FeedSt where
  granted : Bool := false
  parts : List (Nat × Nat × Bool × List Byte) := []
  chunks : Nat := 0
  ready : Nat := 0
  outcome : Option Nat := none
  aborted : Bool := false
  out : Option Nat := none
  outGranted : Bool := false
  sent : Nat := 0
  /-- Its UPD_TORN entry has been written in the step (R134). -/
  tornNoted : Bool := false
  deriving DecidableEq, Repr

/-- A share: UPD_SHARE_STATUS (Table 4-5), the counts of its UPD_STEP entry, elements updated and gradient
elements arrived per group, groups whose products are done and whose passes are not (R129), groups whose refresh has
finished, and the EPS_ROOT each refresh started with (R130). -/
structure ShareSt where
  torn : Bool := false
  /-- SHARE_CLEAR_TORN has cleared TORN in this step: feeds are accepted from the next (R135). -/
  barred : Bool := false
  lost : Bool := false
  /-- A block of it lay in a stack whose controller was fenced (04 R140, 18 R510). -/
  granLost : Bool := false
  feedActive : Bool := false
  bank : Bool := false
  lastFault : Half := 0
  applied : Nat := 0
  hold : Nat := 0
  special : Nat := 0
  updated : Tab Nat := []
  arrived : Tab Nat := []
  mid : List Nat := []
  refreshed : List Nat := []
  rootEps : Tab Nat := []
  deriving DecidableEq, Repr

structure Upd where
  feeds : Tab FeedSt := []
  shares : Tab ShareSt := []
  /-- UPD_GROUP_WRITE commands that wait for their step close, in HSEQ order of acceptance (R576). -/
  writes : List Cmd := []
  deriving DecidableEq, Repr

/-! ## Stages (08) -/

/-- A stage (08 Table 8-7) and its job: the input transfer of each source ordinal, whether the job spills, the
merge pass, and for a winnow the records taken and the bytes kept and rejected. -/
structure Stage where
  fenced : Bool := false
  running : Bool := false
  spill : Bool := false
  pass : Nat := 0
  ceCount : Byte := 0
  lastFault : Half := 0
  jobs : Word := 0
  out : DWord := 0
  srcs : List (Nat × Move) := []
  taken : Nat := 0
  kept : List (List Byte) := []
  rejected : List (List Byte) := []
  /-- SEQ of the transfer each source sends next, where one has begun since the plan commit or the last STAGE_RESET; before
  that it is 0 after a commit and not known after a reset (R244, 11 R332). -/
  due : Tab (Option Word) := []
  resync : Bool := false
  /-- Runs written to the spill window (R250). -/
  runs : Nat := 0
  /-- The output transfer of a presorted job, once a packet of it has left: its SEQ and its provenance trailer; and the packets
  that have left (R253). -/
  begun : Option (Nat × List Byte) := none
  sent : Nat := 0
  deriving DecidableEq, Repr

/-! ## Memory (14) -/

/-- A tracked request (R405): its source port field, a copy of the packet, the number of its check, its
LOAD_TIMEOUT in microseconds, resends made, and whether its last answer was BUSY. -/
structure Track where
  field : Nat
  p : Pkt
  ix : Nat
  loadTo : Nat
  tries : Nat := 0
  busy : Bool := false
  deriving DecidableEq, Repr

/-- A replay entry (R420): PENDING until `answer` is STATUS, FAULT and OLD. -/
structure Replay where
  field : Nat
  origin : Nat
  seq : Word
  answer : Option (Nat × Nat × Nat) := none
  /-- A release held PENDING, with its packet. -/
  held : Option Pkt := none
  /-- Its place among the writes a granary controller holds for a feed (04 R137). -/
  heldAt : Option Nat := none
  deriving DecidableEq, Repr

/-- Per-source state of a target port field (R411). -/
structure SrcState where
  low : Option Word := none
  floor : Option Word := none
  cnt0 : Half := 0
  cnt1 : Half := 0
  deriving DecidableEq, Repr

/-- Requests forwarded to an endpoint port and not answered (R414, R419): the packet sent and the requests
it stands for, in arrival order. -/
structure Forward where
  field : Nat
  sent : Pkt
  group : List Pkt
  deriving DecidableEq, Repr

/-- A hot-line entry (R422): its die, its line (ADDR / 128), its set of sources. -/
structure HotLine where
  die : Nat
  line : Nat
  set : List Nat := []
  deriving DecidableEq, Repr

/-- A quench in force (R424): its source port field, line, PACE_NS and the timebase of the last admission. -/
structure Quench where
  field : Nat
  line : Nat
  pace : Nat
  last : Option DWord := none
  deriving DecidableEq, Repr

/-- A record of an unpacked run, with the packet sent for it and whether it has been answered (R428). -/
structure FarRec where
  p : Pkt
  answered : Bool := false
  deriving DecidableEq, Repr

/-- A far room (R428): the run, its records, counts of answers and LOAD_TIMEOUT. -/
structure FarRun where
  run : Word
  recs : List FarRec
  byTarget : Nat := 0
  bySelf : Nat := 0
  deriving DecidableEq, Repr

/-- A gateway (R425 to R429): run credits, runs sent and not completed (their near rooms), the open run, the next
run number, packets of runs not yet whole, far rooms, runs lost. -/
structure Gateway where
  credits : Nat := 0
  near : List Word := []
  run : List Pkt := []
  nextRun : Word := 0
  parts : List Pkt := []
  far : List FarRun := []
  lost : Nat := 0
  deriving DecidableEq, Repr

/-- A commanded run (R430): its command, whether it is a GET, its number of pieces, pieces not answered (SEQ, remote
address, local address, bytes), answers by status. -/
structure CmdRun where
  c : Cmd
  get : Bool
  total : Nat
  open_ : List (Word × Nat × Nat × Nat) := []
  status : Tab Nat := []
  deriving DecidableEq, Repr

/-- Counters of a port field (Table 14-11). -/
structure MemCnt where
  denied : Word := 0
  poison : Word := 0
  unknown : Word := 0
  range : Word := 0
  retries : Word := 0
  late : Word := 0
  hits : Word := 0
  busy : Word := 0
  deriving DecidableEq, Repr

structure MemSt where
  /-- LOAD_TO (Table 14-12). -/
  loadTo : BitVec 12 := 64
  /-- RPT entries by 4,096 x port field + entry: 32 bytes; empty is invalid. -/
  rpt : Tab (List Byte) := []
  /-- Entries whose complement check failed (R403). -/
  rptBad : List Nat := []
  /-- RPT_WRITEs that wait for the tracker, with the number of the next check (R404). -/
  rptWaits : List (Cmd × Nat) := []
  /-- Number of the next check. -/
  checks : Nat := 0
  /-- REQ-class SEQ by 2^24 x source + destination (11 R332). -/
  reqSeq : Tab Word := []
  track : List Track := []
  /-- MEM_REQUEST commands, by the SEQ and target of their request. -/
  hostReqs : List (Cmd × Addr × Word) := []
  replay : List Replay := []
  /-- By 2^24 x port field + source. -/
  src : Tab SrcState := []
  fwd : List Forward := []
  hot : List HotLine := []
  hotFull : Word := 0
  /-- Lines counted in HOT_FULL and still waited for. -/
  hotMiss : List Nat := []
  quench : List Quench := []
  gates : Tab Gateway := []
  runs : List CmdRun := []
  runQueue : List (Cmd × Bool) := []
  stateLost : Bool := false
  cnt : Tab MemCnt := []
  runsLost : Word := 0
  /-- The place of the next write held for a feed, and the places that the last step close let go (04 R137). -/
  heldNext : Nat := 0
  heldDue : Nat := 0
  deriving DecidableEq, Repr

/-! ## The Cellar (15) -/

/-- A key slot (15 R433). -/
structure KeySlot where
  loaded : Bool := false
  use : BitVec 4 := 0
  wrapped : Bool := false
  label : Word := 0
  ivBase : DWord := 0
  /-- The 32 key bytes. -/
  key : List Byte := []
  deriving DecidableEq, Repr

/-- A sealed chunk an engine has begun (15 R441): its transfer, plot and binding, key, and its bytes so far; a
dropped one stays until the next begins. -/
structure SealedRun where
  src : Addr
  furrow : Nat
  seq : Word
  plot : Nat
  bind : Nat
  slot : Nat := 0
  tag : Nat := 0
  ctLen : Nat := 0
  key : List Byte := []
  bytes : List Byte := []
  dropped : Bool := false
  deriving DecidableEq, Repr

/-- The Cellar: key slots, counters (Table 15-8), IV counts of each exit channel and slot since the slot was
loaded, the plot each exit unit served last plus 1 (by 2 x die + kind), and the chunks the engines have begun. -/
structure Cellar where
  slots : Tab KeySlot := []
  chunks : Word := 0
  dropped : Word := 0
  leaks : Word := 0
  sealedOut : Word := 0
  digestsOut : Word := 0
  used : Tab Nat := []
  last : Tab Nat := []
  runs : List SealedRun := []
  deriving DecidableEq, Repr


/-! ## The whole machine -/

/-- Why a run stops (log 9). -/
inductive Fault
  /-- Raised by a command whose operands are no command of the device: a ledger entry whose body is
  not 100 bytes, or a packet whose payload is not LEN words long. Safe: the device never sees one. -/
  | illFormed
  deriving DecidableEq, Repr

/-- Commands the model has no meaning for. -/
inductive Refusal
  /-- No arm yet for this mnemonic. Safe: the run stops. -/
  | notModelled (mnemonic : String)
  /-- Raised by every command but COLD_RESET in a test mode, whose behaviour lies outside the manual
  (18 R521). Safe: the run stops. -/
  | testMode
  deriving DecidableEq, Repr

/-- The state of the device and the queue of commands waiting for it. -/
structure State where
  ports : Tab Port := []
  /-- Learned MAC entries, oldest first (10 R324), and MAC_FULL. -/
  mac : List MacEntry := []
  macFull : Word := 0
  /-- Flits and frames sent, in order. -/
  wire : List Sent := []
  ingress : List Lodged := []
  outq : List Queued := []
  delivered : List Deliv := []
  route : Route := {}
  core : Core := {}
  glean : Glean := {}
  sched : Sched := {}
  granCtl : Tab GranCtl := []
  audit : Audit := {}
  coll : Coll := {}
  plots : Tab Plot := []
  /-- SC0 to SC15 of each die, by 16 x die + k (07 R209). -/
  sc : Tab Word := []
  /-- Tainted 128-byte lines of the granary (15 R444). -/
  granTaint : Tab Bool := []
  upd : Upd := {}
  stages : Tab Stage := []
  mem : MemSt := {}
  cellar : Cellar := {}
  part : Part := {}
  clk : Clk := {}
  /-- Domain entries that differ from the reset entry `domReset` (Table 19-13). -/
  dom : Tab Domain := []
  pins : Pins := {}
  host : HostPort := {}
  stew : StewPort := {}
  plan : Plan := {}
  /-- The granary's 256 GiB by address: stack in [37:36] (R106, R544). -/
  gran : List Host.Cell := []
  fault : FaultBlk := {}
  hedge : Hedge := {}
  recov : Tab Kept := []
  yoke : Yoke := {}
  selfTest : SelfTest := {}
  dossier : Dossier := {}
  /-- In a test mode (18 R521). -/
  testMode : Bool := false
  fw : Fw := {}
  /-- The commands waiting, first in first out. -/
  pending : List Instr := []
  /-- Index of the next free value: the model's own field. DESIGN CHOICE (log 2). -/
  freeIx : Nat := 0
  deriving DecidableEq, Repr

/-- The machine right after reset. -/
def State.reset : State := {}

end Sys2Proof.Machine
end

