-- ==== Sys2Proof/Machine/Codes.lean ====
section
/-!
DEFINITION. Code points of the spec: fault codes (18 Table 18-1), tally kinds (17 Table 17-13,
18 Table 18-10), command status codes (17 Table 17-8), opcodes (17 Table 17-9), unit types (Table 17-12)
and packet operations (11 Table 11-2).
-/

namespace Sys2Proof.Machine
open Sys2Proof

/-! Fault codes -/

abbrev fThermtrip : Half := 0x4001
abbrev fPwrgdLost : Half := 0x4002
abbrev fPllUnlock : Half := 0x4003
abbrev fBridgeDown : Half := 0x4004
abbrev fReeveHalt : Half := 0x4005
abbrev fTmodeSet : Half := 0x4006
abbrev fBridgeCe : Half := 0x1007
abbrev fBeaconLost : Half := 0x3008
abbrev fYokeMismatch : Half := 0x2009
abbrev fSelftestFail : Half := 0x200A
abbrev fLaneDown : Half := 0x3101
abbrev fPortDown : Half := 0x3102
abbrev fLinkRetryExhaust : Half := 0x3103
abbrev fLinkCredit : Half := 0x3104
abbrev fLinkPeerMismatch : Half := 0x3105
abbrev fHdrCheck : Half := 0x2201
abbrev fSignpostCe : Half := 0x1202
abbrev fSignpostCheck : Half := 0x3203
abbrev fRouteNone : Half := 0x2204
abbrev fRouteLoop : Half := 0x2205
abbrev fEscapeLost : Half := 0x3206
abbrev fInnSize : Half := 0x2207
abbrev fInnPointer : Half := 0x2208
abbrev fInnRefcount : Half := 0x2209
abbrev fCellCe : Half := 0x120A
abbrev fCellUe : Half := 0x220B
abbrev fWaybillFormat : Half := 0x2301
abbrev fWaybillMismatch : Half := 0x2302
abbrev fPartialFormat : Half := 0x2303
abbrev fCollUngranted : Half := 0x2304
abbrev fCollOrder : Half := 0x3305
abbrev fCollMemberLost : Half := 0x2306
abbrev fSparseOrder : Half := 0x2307
abbrev fFurrowRoute : Half := 0x2308
abbrev fUpdFeedCheck : Half := 0x2401
abbrev fUpdFeedAbort : Half := 0x2402
abbrev fUpdShareTorn : Half := 0x3403
abbrev fUpdShareCheck : Half := 0x3404
abbrev fSparseMeta : Half := 0x2501
abbrev fSparseIndex : Half := 0x2502
abbrev fArrayConfig : Half := 0x2503
abbrev fArrayIssue : Half := 0x2504
abbrev fArrayBankBusy : Half := 0x2505
abbrev fScratchRange : Half := 0x2506
abbrev fScratchCe : Half := 0x1507
abbrev fScratchUe : Half := 0x2508
abbrev fHarrowConfig : Half := 0x2509
abbrev fHarrowIssue : Half := 0x250A
abbrev fHarrowIndex : Half := 0x250B
abbrev fSparseDensity : Half := 0x250C
abbrev fSeqConfig : Half := 0x250D
abbrev fSeqXferIssue : Half := 0x250E
abbrev fSchedHazard : Half := 0x250F
abbrev fSeqNmark : Half := 0x2510
abbrev fSeqStoreOverlap : Half := 0x2511
abbrev fSeqPeerAbort : Half := 0x2512
abbrev fSeqWaitLimit : Half := 0x2513
abbrev fPlotGranaryRange : Half := 0x2514
abbrev fCtrlCe : Half := 0x1515
abbrev fCtrlUe : Half := 0x3516
abbrev fStageRecord : Half := 0x3601
abbrev fSortSpill : Half := 0x3602
abbrev fSortInputOrder : Half := 0x3603
abbrev fStageSourceLost : Half := 0x3604
abbrev fStageUe : Half := 0x3605
abbrev fStageCe : Half := 0x1606
abbrev fPlanEarly : Half := 0x2701
abbrev fPlanApplyFault : Half := 0x3702
abbrev fPlanLoftUe : Half := 0x2703
abbrev fMemFormat : Half := 0x2801
abbrev fMemDenied : Half := 0x2802
abbrev fRptCheck : Half := 0x2803
abbrev fMemDead : Half := 0x2804
abbrev fMemRange : Half := 0x2805
abbrev fMemPoison : Half := 0x2806
abbrev fMemUnknown : Half := 0x2807
abbrev fMemStateLost : Half := 0x3808
abbrev fCellarChunk : Half := 0x2901
abbrev fCellarTag : Half := 0x2902
abbrev fCellarKey : Half := 0x2903
abbrev fCellarLeak : Half := 0x2904
abbrev fCellarConfig : Half := 0x2905
abbrev fCellarIv : Half := 0x2906
abbrev fCellarKeyUe : Half := 0x3907
abbrev fGranaryCe : Half := 0x1A01
abbrev fGranaryUe : Half := 0x2A02
abbrev fGranaryFail : Half := 0x3A03
abbrev fProvRange : Half := 0x2A04
abbrev fProvUe : Half := 0x2A05

/-! Tally kinds -/

abbrev kCmdDone : Half := 0x1
abbrev kLedgerBad : Half := 0x2
abbrev kRegReject : Half := 0x3
abbrev kRegPreempted : Half := 0x4
abbrev kCollDone : Half := 0x10
abbrev kCollLag : Half := 0x11
abbrev kMoveDone : Half := 0x12
abbrev kUpdStep : Half := 0x20
abbrev kUpdTorn : Half := 0x21
abbrev kPlotDone : Half := 0x30
abbrev kPlotStopped : Half := 0x31
abbrev kPlotDigest : Half := 0x32
abbrev kPlotFault : Half := 0x33
abbrev kStageDone : Half := 0x40
abbrev kStageAbort : Half := 0x41
abbrev kPlanError : Half := 0x50
abbrev kPlanValidated : Half := 0x51
abbrev kPlanCommitted : Half := 0x52
abbrev kPlanAbandoned : Half := 0x53
abbrev kRptWritten : Half := 0x60
abbrev kRptEntry : Half := 0x61
abbrev kMemDone : Half := 0x62
abbrev kCoachDone : Half := 0x63
abbrev kStepReport : Half := 0x70
abbrev kProvDone : Half := 0x71
abbrev kCellarDrop : Half := 0x72
abbrev kFault : Half := 0x80
abbrev kHedge : Half := 0x81
abbrev kRecoveryDone : Half := 0x82
abbrev kYokeStep : Half := 0x83
abbrev kSelftestDone : Half := 0x84
abbrev kDossierDone : Half := 0x85

/-! Command status codes -/

abbrev stOk : Nat := 0x0
abbrev stFormat : Nat := 0x1
abbrev stAuthority : Nat := 0x2
abbrev stComplement : Nat := 0x3
abbrev stStaleEpoch : Nat := 0x4
abbrev stOutranked : Nat := 0x5
abbrev stConflict : Nat := 0x6
abbrev stStaleHeadland : Nat := 0x7
abbrev stSlotState : Nat := 0x8
abbrev stPlanBusy : Nat := 0x9
abbrev stBadBase : Nat := 0xA
abbrev stPreempted : Nat := 0xB
abbrev stCancelled : Nat := 0xC
abbrev stUnitState : Nat := 0xD
abbrev stRange : Nat := 0xE
abbrev stUnwrap : Nat := 0xF
abbrev stHostReset : Nat := 0x10

/-! Opcodes -/

abbrev oNop : Half := 0x1
abbrev oPlanStage : Half := 0x10
abbrev oPlanWrite : Half := 0x11
abbrev oPlanValidate : Half := 0x12
abbrev oPlanCommit : Half := 0x13
abbrev oPlanCancel : Half := 0x14
abbrev oHeadlandArm : Half := 0x15
abbrev oPlotStart : Half := 0x20
abbrev oPlotStop : Half := 0x21
abbrev oUpdGroupWrite : Half := 0x30
abbrev oRptWrite : Half := 0x40
abbrev oRptRead : Half := 0x41
abbrev oMemRequest : Half := 0x42
abbrev oCoachPut : Half := 0x50
abbrev oCoachGet : Half := 0x51
abbrev oProvHash : Half := 0x60
abbrev oFurrowReset : Half := 0x70
abbrev oShareClearTorn : Half := 0x71
abbrev oStageReset : Half := 0x72
abbrev oPortRetrain : Half := 0x73
abbrev oSourceReset : Half := 0x74
abbrev oHedgeAdd : Half := 0x75
abbrev oAdmitOpen : Half := 0x76
abbrev oYoke : Half := 0x77
abbrev oAdmit : Half := 0x78
abbrev oSelfTest : Half := 0x79
abbrev oGranaryReadmit : Half := 0x7A
abbrev oYokeReport : Half := 0x7D
abbrev oKeyLoad : Half := 0x80
abbrev oKeyErase : Half := 0x81
abbrev oKeyEraseAll : Half := 0x82
abbrev oRegRead : Half := 0x90
abbrev oRegWrite : Half := 0x91
abbrev oTallyRead : Half := 0x92
abbrev oFwUpdate : Half := 0xA0
abbrev oWarmReset : Half := 0xA1
abbrev oTestEntry : Half := 0xA2
abbrev oDossier : Half := 0xA3

/-! Unit types -/

abbrev uDevice : BitVec 4 := 0
abbrev uPlot : BitVec 4 := 1
abbrev uSlot : BitVec 4 := 2
abbrev uUpdate : BitVec 4 := 3
abbrev uStage : BitVec 4 := 4
abbrev uPort : BitVec 4 := 5
abbrev uPlan : BitVec 4 := 6
abbrev uHost : BitVec 4 := 7
abbrev uSteward : BitVec 4 := 8
abbrev uField : BitVec 4 := 9
abbrev uCellar : BitVec 4 := 10
abbrev uGranary : BitVec 4 := 11
abbrev uProv : BitVec 4 := 12

/-! Packet operations -/

abbrev pMgtBeacon : BitVec 5 := 0x1
abbrev pMgtHedge : BitVec 5 := 0x2
abbrev pMgtCmd : BitVec 5 := 0x3
abbrev pMgtResp : BitVec 5 := 0x4
abbrev pMgtQuench : BitVec 5 := 0x5
abbrev pLoad : BitVec 5 := 0x8
abbrev pStore : BitVec 5 := 0x9
abbrev pStoreRel : BitVec 5 := 0xA
abbrev pAtomic : BitVec 5 := 0xB
abbrev pLoadRsp : BitVec 5 := 0xC
abbrev pStoreAck : BitVec 5 := 0xD
abbrev pAtomicRsp : BitVec 5 := 0xE
abbrev pCoachRun : BitVec 5 := 0x10
abbrev pCoachDone : BitVec 5 := 0x11
abbrev pColWaybill : BitVec 5 := 0x14
abbrev pColGrant : BitVec 5 := 0x15
abbrev pColData : BitVec 5 := 0x16
abbrev pColDataEnd : BitVec 5 := 0x17
abbrev pColOutcome : BitVec 5 := 0x18
abbrev pColAbort : BitVec 5 := 0x19
abbrev pColCredit : BitVec 5 := 0x1A
abbrev pMoveData : BitVec 5 := 0x1B
abbrev pMoveDone : BitVec 5 := 0x1C

/-! ## Validation errors (09 Table 9-7) -/

abbrev eMagic : Nat := 0x01
abbrev eVersion : Nat := 0x02
abbrev eLength : Nat := 0x03
abbrev eTarget : Nat := 0x04
abbrev eBase : Nat := 0x05
abbrev eDigest : Nat := 0x06
abbrev eComplement : Nat := 0x07
abbrev eDirectory : Nat := 0x08
abbrev eSection : Nat := 0x09
abbrev eRecord : Nat := 0x0A
abbrev eReference : Nat := 0x0B
abbrev eReserved : Nat := 0x0C
abbrev eRange : Nat := 0x0D
abbrev eZero : Nat := 0x0E
abbrev eOverlap : Nat := 0x0F
abbrev eFallow : Nat := 0x10
abbrev eCapacity : Nat := 0x11
abbrev eUndefined : Nat := 0x12
abbrev eFrozen : Nat := 0x13
abbrev eRule : Nat := 0x14

end Sys2Proof.Machine
end

