-- ==== Sys2Proof/Machine/Fields.lean ====
section
/-!
DEFINITION. Fields of commands and packet headers, and the header's check value.
-/

namespace Sys2Proof
open Sys2Proof.Machine

/-- A body field, little-endian. -/
def Cmd.u (c : Cmd) (off n : Nat) : Nat := leAt c.body off n

/-- Numeric code of an authority (17 Table 17-14). -/
def Auth.code : Auth → Nat
  | .none => 0
  | .peer => 1
  | .operator => 2
  | .owner => 3

/-- Main VL of a VL's class (11 R341). -/
def mainVl (vl : BitVec 4) : BitVec 4 :=
  if vl = 2 then 1 else if vl = 4 then 3 else if vl = 6 then 5 else if vl = 8 then 7 else vl

/-- The 32 header bytes of a packet (11 Table 11-1). -/
def Pkt.header (p : Pkt) : List Byte :=
  pack 32 [(0, 3, p.dst.toNat), (3, 3, p.dstN.toNat), (6, 3, p.src.toNat), (9, 1, p.vl.toNat * 16 + p.hop.toNat),
    (10, 2, p.op.toNat * 2048 + p.len.toNat), (12, 4, p.seq.toNat), (16, 4, p.seqN.toNat),
    (20, 4, p.fcid.toNat), (24, 4, p.epoch.toNat), (28, 4, p.hcrc.toNat)]

/-- The HCRC a header must carry (11 Table 11-1). -/
def Pkt.crc (p : Pkt) : Word :=
  crc32c ((Pkt.header { p with hop := 0, vl := mainVl p.vl }).take 28)

end Sys2Proof
end

