-- ==== Sys2Proof/Machine/Ops.lean ====
section
/-!
DEFINITION. The named operations every meaning is built from: plan records, the tally, interrupts,
raising a fault, completing a command, originating a packet.
-/

namespace Sys2Proof.Machine
open Sys2Proof

/-- The outcome of a command. -/
abbrev Out := Host.Outcome State Fault Refusal

/-! ## When a command has its effect -/

/-- An event: nothing happens while the device is FATAL, whose units are stopped (18 R502). -/
def event (s : State) (f : State → State) : Out :=
  if s.testMode then .refused .testMode
  else if s.fault.fatal then .next s
  else .next (f s)

/-- An event of the parts that stay up in the FATAL state: ports to host and Steward, Almanac, Reeves
(18 R502). -/
def always (s : State) (f : State → State) : Out :=
  if s.testMode then .refused .testMode else .next (f s)

/-- An event that brings a packet. -/
def onPkt (p : Pkt) (s : State) (f : State → State) : Out :=
  if p.payload.length = 4 * p.len.toNat then event s f else .fault .illFormed

/-! ## The plan in force -/

/-- A record of the running plan. -/
def planRec (s : State) (sect rtype index : Nat) : Option PlanRec :=
  s.plan.cur.find? fun r => r.sect == sect && r.rtype == rtype && r.index == index

/-- Every record of a section and type, in ascending INDEX. -/
def planRecs (s : State) (sect rtype : Nat) : List PlanRec :=
  s.plan.cur.filter fun r => r.sect == sect && r.rtype == rtype

/-- Field `i` of a record, in table order. -/
def PlanRec.fld (r : PlanRec) (i : Nat) : Nat := r.fields.getD i 0

/-- Table `i` of a record. -/
def PlanRec.tab (r : PlanRec) (i : Nat) : List (List Nat) := r.tables.getD i []

/-- HEADLAND_NOW. -/
def now (s : State) : Nat := s.plan.headland.toNat

/-- Kind of the local port table entry of a port field (11 Table 11-7): 0 NONE, 1 PORT, 2 PLOT,
3 GRANARY, 4 HOST, 5 DEVICE, and its UNIT. -/
def localKind (s : State) (field : Nat) : Nat × Nat :=
  match planRec s 0x03 0x02 field with
  | some r => (bits (r.fld 0) 31 28, bits (r.fld 0) 4 0)
  | none => (0, 0)

/-- Port field of the local entry of kind `k`. -/
def fieldOfKind (s : State) (k : Nat) : Option Nat :=
  ((planRecs s 0x03 0x02).find? fun r => bits (r.fld 0) 31 28 == k).map (·.index)

/-- An endpoint address. -/
def addr (dev field : Nat) : Addr := BitVec.ofNat 24 (dev * 1024 + field % 1024)

/-- Device ID of an address. -/
def devOf (a : Addr) : Nat := a.toNat / 1024

/-- Port field of an address. -/
def fieldOf (a : Addr) : Nat := a.toNat % 1024

/-- The device's own address (11 R333). -/
def ownAddr (s : State) : Addr := addr s.plan.deviceId.toNat ((fieldOfKind s 5).getD 0)

/-- DEVICE address of a device: every device's DEVICE entry lies at this device's port field (log 23). -/
def devAddr (s : State) (d : Nat) : Addr := addr d (fieldOf (ownAddr s))

/-! ## Interrupts and the tally (17) -/

/-- INT_STATUS bit `v` set, with its message when it was 0 and is not masked (R487). -/
def setVec (h : HostPort) (v : Nat) : HostPort :=
  if bit h.intStatus.toNat v then h
  else
    { h with
      intStatus := h.intStatus ||| BitVec.ofNat 4 (2 ^ v)
      msgs := if bit h.intMask.toNat v then h.msgs else h.msgs ++ [v] }

/-- Unread entries, NEXT - 1 - TALLY_SEEN. -/
def unread (h : HostPort) : Nat := (h.next - 1 - h.tallySeen).toNat

/-- The threshold condition of vector 0. -/
def threshHolds (h : HostPort) : Bool := decide (h.thresh ≠ 0) && decide (h.thresh.toNat ≤ unread h)

/-- The condition of vector 0: the threshold, or the time (R487). -/
def tallyHolds (h : HostPort) : Bool := threshHolds h || h.timeUp

/-- The condition of TALLY_OVERRUN (R485). -/
def overrunCond (h : HostPort) : Bool := serialAbove h.oldest (h.tallySeen + 1)

/-- Class of a fault code (18 R496). -/
def classOf (code : Half) : Nat := code.toNat / 4096

/-- The ring with one entry more: at ring size the entry at OLDEST is overwritten (R484). -/
def ringPush (h : HostPort) (e : Tally) : HostPort :=
  if (h.next - h.oldest).toNat = 2 ^ h.tallyLog2.toNat then
    { h with tally := h.tally.drop 1 ++ [e], oldest := h.oldest + 1, next := h.next + 1 }
  else { h with tally := h.tally ++ [e], next := h.next + 1 }

/-- What the tally's positions show after a change from `h0`: TALLY_OVERRUN with vector 3, and vector 0 (R485, R487). -/
def tallyVecs (h0 h : HostPort) : HostPort :=
  let h1 := if !h.overrun && overrunCond h then setVec { h with overrun := true } 3 else h
  if threshHolds h1 && !tallyHolds h0 then setVec h1 0 else h1

/-- An entry written, with the conditions of INT_STATUS that it makes hold (R485, R487). -/
def hostPush (h : HostPort) (e : Tally) : HostPort :=
  let h1 := ringPush h e
  tallyVecs h (if decide (3 ≤ classOf e.fault) || e.kind == kLedgerBad then setVec h1 2 else h1)

/-- What a caller gives of a tally entry; the rest comes from the device. -/
structure Entry where
  kind : Half
  utype : BitVec 4 := 0
  unit : Nat := 0
  fault : Half := 0
  steward : Bool := false
  n : Bool := false
  cmd : Bool := false
  ref : Word := 0
  body : List Byte

/-- The entry the device writes (17 Table 17-11). -/
def Entry.make (e : Entry) (s : State) : Tally :=
  { dseq := s.host.next, kind := e.kind, utype := e.utype, steward := e.steward, n := e.n, cmd := e.cmd,
    unit := BitVec.ofNat 16 e.unit, fault := e.fault, ref := e.ref, time := s.clk.timebase, body := e.body }

/-- A tally entry written; a copy of a FENCED or FATAL one goes to the Steward (R484, R492). -/
def tally (s : State) (e : Entry) : State :=
  let t := e.make s
  let s := { s with host := hostPush s.host t }
  if 3 ≤ classOf t.fault then
    match s.stew.lastMac with
    | some m => { s with stew := { s.stew with out := s.stew.out ++ [{ mac := m, seq := 0xFFFFFFFF, entry := t, data := [] }] } }
    | none => s
  else s

/-- The 64 bytes of a tally entry (17 R482). -/
def Tally.bytes (t : Tally) : List Byte :=
  pack 24 [(0, 4, t.dseq.toNat), (4, 2, t.kind.toNat), (6, 1, t.utype.toNat),
    (7, 1, t.steward.toNat * 4 + t.n.toNat * 2 + t.cmd.toNat), (8, 2, t.unit.toNat),
    (10, 2, t.fault.toNat), (12, 4, t.ref.toNat), (16, 8, t.time.toNat)] ++ t.body

/-! ## Faults (18) -/

/-- The fault block after an event of `code` at a unit (R497, Tables 18-8, 18-9). -/
def countFault (b : FaultBlk) (code : Half) (ut : BitVec 4) (unit : Nat) : FaultBlk :=
  let b := { b with lastType := ut, lastCode := code, lastUnit := BitVec.ofNat 16 unit }
  let b := if ut = uPort then { b with portFault := Tab.set 0 b.portFault unit code } else b
  match classOf code with
  | 1 => { b with corrected := true, cntCorrected := satInc b.cntCorrected }
  | 2 => { b with contained := true, cntContained := satInc b.cntContained }
  | 3 => { b with fenced := true, cntFenced := satInc b.cntFenced }
  | _ => { b with fatal := true, fatalCode := if b.fatal then b.fatalCode else code, cntFatal := satInc b.cntFatal }

/-- Whether a FAULT entry is due for an event now, with its COUNT (R497). -/
def faultDue (s : State) (code : Half) (ut : BitVec 4) (unit : Nat) : Option Nat :=
  if 3 ≤ classOf code then some 1
  else
    match s.fault.seen.find? fun e => e.utype == ut && e.unit.toNat == unit && e.code == code with
    | none => some 1
    | some e => if e.headland = s.plan.headland then none else some (e.count + 1)

/-- The triple's record after an event (R497). -/
def seenAfter (s : State) (code : Half) (ut : BitVec 4) (unit : Nat) : List Seen :=
  if 3 ≤ classOf code then s.fault.seen
  else
    match s.fault.seen.find? fun e => e.utype == ut && e.unit.toNat == unit && e.code == code with
    | none => s.fault.seen ++ [{ utype := ut, unit := BitVec.ofNat 16 unit, code, headland := s.plan.headland, count := 0 }]
    | some _ => s.fault.seen.map fun e =>
        if e.utype == ut && e.unit.toNat == unit && e.code == code then
          if e.headland = s.plan.headland then { e with count := e.count + 1 }
          else { e with headland := s.plan.headland, count := 0 }
        else e

/-- N_FLAGS bit `b` set (16 R459). -/
def nFlag (s : State) (b : Nat) : State :=
  { s with audit := { s.audit with nStep := s.audit.nStep ||| BitVec.ofNat 16 (2 ^ b), nAll := s.audit.nAll ||| BitVec.ofNat 16 (2 ^ b) } }

/-- Uncorrectable errors a step report counts (16 Table 16-3). -/
def isUe (code : Half) : Bool :=
  [fScratchUe, fCellUe, fStageUe, fPlanLoftUe, fCellarKeyUe, fGranaryUe].contains code

/-- A fault event in the step's CE and UE counts and N_FLAGS (16 R462), and in CELLAR_LEAKS (15 R453). -/
def auditFault (s : State) (code : Half) : State :=
  let s := if code = fCellarLeak then { s with cellar := { s.cellar with leaks := satInc s.cellar.leaks } } else s
  if isUe code then nFlag { s with audit := { s.audit with ue := satInc s.audit.ue } } 7
  else if classOf code = 1 then { s with audit := { s.audit with ce := satInc s.audit.ce } }
  else s

/-- A fault event counted, with no entry yet. -/
def raiseCount (s : State) (code : Half) (ut : BitVec 4) (unit : Nat) : State :=
  { auditFault s code with fault := countFault s.fault code ut unit }

/-- A fault event that the owning chapter reports in an entry of its own (R497). -/
def raiseBy (s : State) (code : Half) (ut : BitVec 4) (unit : Nat) (kind : Half) (body : List Byte)
    (n : Bool := false) : State :=
  tally (raiseCount s code ut unit) { kind, utype := ut, unit, fault := code, n, body }

/-- A fault event with the details the spec gives (R497, Table 18-10). -/
def raiseAt (s : State) (code : Half) (ut : BitVec 4) (unit : Nat) (d0 d1 : Nat) : State :=
  let due := faultDue s code ut unit
  let s := { auditFault s code with fault := { countFault s.fault code ut unit with seen := seenAfter s code ut unit } }
  match due with
  | none => s
  | some n => tally s
      { kind := kFault, utype := ut, unit, fault := code,
        body := pack 40 [(0, 8, now s), (8, 8, d0), (16, 8, d1), (24, 4, n)] }

/-- A fault event whose DETAIL0 and DETAIL1 no rule gives: both are free values (log 2). -/
def raise (s : State) (code : Half) (ut : BitVec 4) (unit : Nat) : State :=
  raiseAt { s with freeIx := s.freeIx + 2 } code ut unit
    (Config.faultDetail s.freeIx).toNat (Config.faultDetail (s.freeIx + 1)).toNat

/-- FAULT_N is asserted (R503). -/
def faultN (s : State) : Bool := s.fault.fatal || s.fault.fenced

/-! ## Provenance hashes that run (16 R465, R466) -/

/-- Die that hashes a granary address. -/
def provDie (j : ProvJob) : Nat := leAt j.cmd.body 0 8 / 2 ^ 37 % 2

/-- The job runs: its headland has passed, and no earlier one of its die's waits (R466). -/
def provRuns (s : State) (j : ProvJob) : Bool :=
  decide (leAt j.cmd.body 24 8 ≤ now s) &&
    ((s.audit.provQ.find? fun x => provDie x == provDie j).map fun x => x.cmd == j.cmd).getD false

/-- Bytes `[a, a + n)` of the granary written by a fabric store, atomic, coach write or GSTORE: hashes that run
over them carry the N bit. -/
def provTouch (s : State) (a n : Nat) : State :=
  let hit (j : ProvJob) : Bool := provRuns s j && decide (leAt j.cmd.body 0 8 < a + n) && decide (a < leAt j.cmd.body 0 8 + leAt j.cmd.body 8 8)
  if s.audit.provQ.any hit then
    nFlag { s with audit := { s.audit with provQ := s.audit.provQ.map fun j => if hit j then { j with n := true } else j } } 6
  else s

/-! ## Packets -/

/-- A packet with its complements and HCRC. -/
def mkPkt (src dst : Addr) (vl : BitVec 4) (op : BitVec 5) (seq fcid epoch : Word) (payload : List Byte) : Pkt :=
  let p : Pkt :=
    { dst, dstN := ~~~dst, src, vl, hop := 0, op, len := BitVec.ofNat 11 (cdiv payload.length 4), seq, seqN := ~~~seq,
      fcid, epoch, hcrc := 0, payload := payload ++ List.replicate ((4 - payload.length % 4) % 4) 0 }
  { p with hcrc := p.crc }

/-- Requester ID of what the device originates on a die: MGT packets and slot outputs (12 Table 12-3). -/
def ownUnit (die : Nat) : Nat := 1248 + die

/-- A packet that a unit of the device originates, lodged for lookup on the unit's die (11 R333, R340, 12 R355). -/
def send (s : State) (unit : Nat) (p : Pkt) : State := { s with ingress := s.ingress ++ [{ port := none, unit, vl := p.vl, p }] }

/-- A packet from the device's own address. -/
def originate (s : State) (unit : Nat) (dst : Addr) (vl : BitVec 4) (op : BitVec 5) (seq fcid : Word) (payload : List Byte) : State :=
  send s unit (mkPkt (ownAddr s) dst vl op seq fcid s.fault.epochMax payload)

/-- SEQ of the next MGT packet of an operation (11 R332). -/
def mgtSeq (s : State) (op : BitVec 5) : Word := Tab.get 0 s.hedge.mgtSeq op.toNat

/-- That count taken. -/
def mgtCount (s : State) (op : BitVec 5) : State :=
  { s with hedge := { s.hedge with mgtSeq := Tab.upd 0 s.hedge.mgtSeq op.toNat (· + 1) } }

/-! ## Commands -/

/-- Largest HSEQ up to which every accepted command has completed (17 Table 17-4). -/
def completedOf (h : HostPort) : Word :=
  match h.pend with
  | [] => h.accepted
  | p :: _ => p.c.seq - 1

/-- The pending table without a completed command (17 R479, R480, R487). -/
def pendDone (h : HostPort) (seq : Word) : HostPort :=
  let h1 := { h with pend := h.pend.filter fun p => p.c.seq != seq }
  if h1.pend = h.pend then h
  else
    let h2 := { h1 with gen := h.gen + 1, completed := completedOf h1 }
    if h2.completed = h.completed then h2 else setVec h2 1

/-- A Steward completion kept and sent (17 R491, R492). -/
def stewDone (p : StewPort) (seq : Word) (t : Tally) (data : List Byte) : StewPort :=
  let mac := ((p.running.find? fun r => r.1 == seq).map (·.2)).getD (p.lastMac.getD 0)
  let r : StewResp := { mac, seq, entry := t, data }
  let kept := p.kept ++ [r]
  { p with out := p.out ++ [r], running := p.running.filter fun r => r.1 != seq
           kept := kept.drop (kept.length - 256) }

/-- A command completes with one entry: in the tally, and as an answer to the Steward or to the PEER
that sent it (17 R480, R492, 18 R510; log 10). -/
def complete (s : State) (c : Cmd) (e : Entry) (data : List Byte := []) : State :=
  match c.auth with
  | .none => s
  | .operator =>
    let s := tally s { e with cmd := true, ref := c.seq }
    { s with host := pendDone s.host c.seq }
  | .owner =>
    let e := { e with cmd := true, steward := true, ref := c.seq }
    let t := e.make s
    let s := tally s e
    { s with stew := stewDone s.stew c.seq t data }
  | .peer =>
    let t := e.make s
    let s := tally s e
    originate s (ownUnit 0) c.src 0 pMgtResp c.seq 0 t.bytes

/-- Completion with CMD_DONE (17 Table 17-13). -/
def cmdDone (s : State) (c : Cmd) (op : Half) (status : Nat) (v0 : Nat := 0) (v1 : Nat := 0)
    (data : List Byte := []) : State :=
  let s := if status = stAuthority then
      { s with host := { s.host with authLast := BitVec.ofNat 32 (c.auth.code * 2 ^ 28 + op.toNat) } } else s
  complete s c { kind := kCmdDone, body := pack 40 [(0, 1, status), (2, 2, op.toNat), (8, 8, v0), (16, 8, v1)] } data

/-- Completion of a recovery command with RECOVERY_DONE (18 R511, Table 18-10). -/
def recoveryDone (s : State) (c : Cmd) (op : Half) (ut : BitVec 4) (unit status obj : Nat) : State :=
  complete s c
    { kind := kRecoveryDone, utype := ut, unit,
      body := pack 40 [(0, 1, status), (2, 2, op.toNat), (4, 4, c.epoch.toNat), (8, 8, obj)] }

/-- Which authorities may issue a command (17 Table 17-9, 18 Table 18-7). -/
def mayIssue (op : Half) (a : Auth) : Bool :=
  let n := op.toNat
  if n = 0x0010 then a == .operator
  else if n = 0x0011 || (decide (0x0080 ≤ n) && decide (n ≤ 0x00A3)) || n = 0x0079 then a == .owner
  else if n = 0x0070 || n = 0x0073 || n = 0x0074 then a != .none
  else if n = 0x007D then a == .peer
  else a == .operator || a == .owner

/-- Commands that take an epoch (17 R478, R481, 18 R510). -/
def takesEpoch (op : Half) : Bool :=
  let n := op.toNat
  n == 0x40 || n == 0x60 || (decide (0x70 ≤ n) && decide (n ≤ 0x7F)) || n == 0x80 || n == 0x81

/-- Commands that still work in the FATAL state (18 R502). -/
def worksFatal (op : Half) : Bool :=
  op == oRegRead || op == oTallyRead || op == oDossier || op == oWarmReset

/-- A command's checks in their order: authority, then the format of its body (`fmt`, and EPOCH 0
where it takes none), then the FATAL state (17 R480, R489, 18 R502); then its effect. -/
def onCmd (op : Half) (c : Cmd) (fmt : List (Nat × Nat)) (ok : Bool) (s : State) (f : State → State) : Out :=
  if s.testMode then .refused .testMode
  else if c.body.length ≠ 100 then .fault .illFormed
  else if c.auth = .none then .next s
  else if !mayIssue op c.auth then .next (cmdDone s c op stAuthority)
  else if !(onlyIn c.body fmt && ok && (takesEpoch op || c.epoch == 0)) then .next (cmdDone s c op stFormat)
  else if s.fault.fatal && !worksFatal op then .next (cmdDone s c op stUnitState)
  else .next (f s)

/-! ## Ranking of recovery commands (17 R490) -/

/-- Device ID a command ranks with. -/
def rankDev (s : State) (c : Cmd) : BitVec 14 :=
  if c.auth = .peer then BitVec.ofNat 14 (devOf c.src) else s.plan.deviceId

/-- How a command stands to the key and body kept for its object. -/
inductive Verdict
  | applied | same | refusedWith (status : Nat)
  deriving DecidableEq, Repr

/-- The table of R490. -/
def rank (s : State) (k : Kept) (c : Cmd) : Verdict :=
  if !k.valid then .applied
  else if serialAbove c.epoch k.epoch then .applied
  else if c.epoch ≠ k.epoch then .refusedWith stStaleEpoch
  else if k.auth.code < c.auth.code then .applied
  else if c.auth.code < k.auth.code then .refusedWith stOutranked
  else if (rankDev s c).toNat < k.dev.toNat then .applied
  else if k.dev.toNat < (rankDev s c).toNat then .refusedWith stOutranked
  else if c.body = k.body then .same
  else .refusedWith stConflict

/-- Recovery objects: a kind and a number. -/
def objKey (kind ix : Nat) : Nat := kind * 2 ^ 24 + ix

/-- The command's key and body kept for an object, and EPOCH_MAX raised to its epoch (18 R505). -/
def keep (s : State) (obj : Nat) (c : Cmd) : State :=
  { s with
    recov := Tab.set {} s.recov obj { valid := true, epoch := c.epoch, auth := c.auth, dev := rankDev s c, body := c.body }
    fault := { s.fault with epochMax := if serialAbove c.epoch s.fault.epochMax then c.epoch else s.fault.epochMax } }

/-- A recovery command settled against its object; `f` is its effect when it applies. -/
def recovery (op : Half) (c : Cmd) (ut : BitVec 4) (unit obj : Nat) (objField : Nat) (s : State)
    (f : State → State) : State :=
  match rank s (Tab.get {} s.recov obj) c with
  | .applied => recoveryDone (f (keep s obj c)) c op ut unit stOk objField
  | .same => recoveryDone s c op ut unit stOk objField
  | .refusedWith st => recoveryDone s c op ut unit st objField

end Sys2Proof.Machine
end

