-- ==== Sys2Proof/Machine/HostPort.lean ====
section
/-!
DEFINITION. The host port (17): doorbell, ledger acceptance, tally position, ring configuration,
interrupts, the BAR4 window.
-/

namespace Sys2Proof.Machine
open Sys2Proof

/-- How a register write ended: applied (or ignored), or rejected under R488 for a failed complement or
for a value out of range. -/
inductive Wr
  | done | badComplement | badValue
  deriving DecidableEq, Repr

/-- A CW write as R12 and R14 accept it: one 64-bit access whose halves complement. -/
def cwOk (w : RegW) : Bool :=
  decide (w.width = 8) && !w.hi && decide (w.val.extractLsb' 32 32 = ~~~w.val.extractLsb' 0 32)

/-- [31:0] of a written value. -/
def loW (w : RegW) : Word := w.val.extractLsb' 0 32

/-- A rejected write reported: REG_REJECTS and a REG_REJECT entry (R488). -/
def rejectWrite (s : State) (off : Nat) (w : RegW) : State :=
  let off := if w.hi then off + 4 else off
  let s := { s with host := { s.host with rejects := satInc s.host.rejects } }
  tally s { kind := kRegReject, utype := if w.stew then uSteward else uHost,
            body := pack 40 [(0, 4, off), (8, 8, w.val.toNat)] }

/-- A write's outcome with its report. -/
def settleWrite (off : Nat) (w : RegW) (r : State × Wr) : State × Wr :=
  if r.2 = .done then r else (rejectWrite r.1 off w, r.2)

/-- LEDGER_DOORBELL written (R476, R478). -/
def wrDoorbell (s : State) (w : RegW) : State × Wr :=
  settleWrite 0x1000 w <|
    if !cwOk w then (s, .badComplement)
    else ({ s with host := { s.host with doorbell := loW w, waitBad := false } }, .done)

/-- TALLY_SEEN written (R485); a lower value may make the tests of R485 and R487 hold. -/
def wrTallySeen (s : State) (w : RegW) : State × Wr :=
  settleWrite 0x1008 w <|
    if !cwOk w then (s, .badComplement)
    else if serialAbove (loW w) (s.host.next - 1) then (s, .badValue)
    else
      let h := { s.host with tallySeen := loW w }
      ({ s with host := tallyVecs s.host { h with timeUp := h.timeUp && unread h != 0 } }, .done)

/-- TALLY_STATUS written (R485). -/
def wrTallyStatus (s : State) (w : RegW) : State × Wr :=
  if !w.hi && bit w.val.toNat 0 && !overrunCond s.host then
    ({ s with host := { s.host with overrun := false } }, .done)
  else (s, .done)

/-- The rings resized and cleared (R477), with the overrun that OLDEST = NEXT may show (R485). -/
def ringReset (h : HostPort) (t l : Nat) : HostPort :=
  tallyVecs h { h with tallyLog2 := BitVec.ofNat 4 t, ledgerLog2 := BitVec.ofNat 4 l, slots := [], tally := [], oldest := h.next }

/-- RING_CFG written (R477). TALLY_LOG2 16 does not fit its four bits and is never accepted (log 11). -/
def wrRingCfg (s : State) (w : RegW) : State × Wr :=
  settleWrite 0x1028 w <|
    let t := bits (loW w).toNat 7 4
    let l := bits (loW w).toNat 3 0
    if !cwOk w then (s, .badComplement)
    else if !(decide (12 ≤ t) && decide (l ≤ 6) && s.host.pend.isEmpty && s.host.doorbell == s.host.accepted) then
      (s, .badValue)
    else ({ s with host := ringReset s.host t l }, .done)

/-- INT_MASK written: a message for each vector unmasked while its status bit is set (R487). -/
def wrIntMask (s : State) (w : RegW) : State × Wr :=
  if w.hi then (s, .done)
  else
    let m := w.val.extractLsb' 0 4
    let fresh := (List.range 4).filter fun v =>
      bit s.host.intMask.toNat v && !bit m.toNat v && bit s.host.intStatus.toNat v
    ({ s with host := { s.host with intMask := m, msgs := s.host.msgs ++ fresh } }, .done)

/-- INT_CTL written; a lower THRESH may make vector 0's condition hold (R487), and a new TIME_US is timed afresh (log 100). -/
def wrIntCtl (s : State) (w : RegW) : State × Wr :=
  let t : Half := w.val.extractLsb' 16 16
  let h := { s.host with thresh := w.val.extractLsb' 0 16, timeUs := t, timeUp := s.host.timeUp && t == s.host.timeUs }
  ({ s with host := tallyVecs s.host h }, .done)

/-- INT_STATUS written: W1C. -/
def wrIntStatus (s : State) (w : RegW) : State × Wr :=
  ({ s with host := { s.host with intStatus := s.host.intStatus &&& ~~~(w.val.extractLsb' 0 4) } }, .done)

/-- Bytes of the host's ledger writes that fall in the ledger ring (R472, R473). -/
def slotWrites (h : HostPort) (ws : List (Nat × Byte)) : HostPort :=
  { h with slots := ws.foldl (fun m p => if p.1 < 128 * 2 ^ (h.ledgerLog2.toNat + 10) then Mem.write m p.1 p.2 else m) h.slots }

def execLedgerDoorbell (slots : List (Nat × Byte)) (w : RegW) (s : State) : Out :=
  always s fun s => (wrDoorbell { s with host := slotWrites s.host slots } w).1

def execTallySeen (w : RegW) (s : State) : Out := always s fun s => (wrTallySeen s w).1

def execTallyStatus (w : RegW) (s : State) : Out := always s fun s => (wrTallyStatus s w).1

def execRingCfg (w : RegW) (s : State) : Out := always s fun s => (wrRingCfg s w).1

def execIntMask (w : RegW) (s : State) : Out := always s fun s => (wrIntMask s w).1

/-- INT_TIME: unread entries have stayed nonzero for TIME_US (R487). -/
def execIntTime (s : State) : Out :=
  always s fun s =>
    if unread s.host ≠ 0 ∧ s.host.timeUs ≠ 0 then
      let h := { s.host with timeUp := true }
      { s with host := if tallyHolds s.host then h else setVec h 0 }
    else s

/-! ## The ledger -/

/-- Byte offset in BAR2 of the slot of a sequence number (R472). -/
def slotOff (h : HostPort) (seq : Word) : Nat := 128 * (seq.toNat % 2 ^ (h.ledgerLog2.toNat + 10))

/-- Why a ledger entry fails its checks (R478, Table 17-13): 0 CHECK, 1 HSEQ_N, 2 CTL_N; none when it passes. -/
def entryFault (e : List Byte) : Option Nat :=
  if leAt e 4 4 ≠ 2 ^ 32 - 1 - leAt e 0 4 then some 1
  else if leAt e 12 4 ≠ 2 ^ 32 - 1 - leAt e 8 4 then some 2
  else if leAt e 124 4 ≠ (crc32c (e.take 124)).toNat then some 0
  else none

/-- Opcode of an entry. -/
def entryOp (e : List Byte) : Half := BitVec.ofNat 16 (leAt e 8 2)

/-- Reserved bits of an entry's head that are set. -/
def entryReserved (e : List Byte) : Bool := decide (leAt e 10 2 ≠ 0) || decide (leAt e 20 4 ≠ 0)

/-- The command an entry holds. -/
def entryCmd (auth : Auth) (src : Addr) (e : List Byte) (data : List Byte) : Cmd :=
  { auth, src, seq := BitVec.ofNat 32 (leAt e 0 4), epoch := BitVec.ofNat 32 (leAt e 16 4), body := slice e 24 100, data }

/-- Opcodes that are not reserved (Table 17-9, 18 Table 18-7). -/
def opKnown (op : Half) : Bool :=
  [0x01, 0x10, 0x11, 0x12, 0x13, 0x14, 0x15, 0x20, 0x21, 0x30, 0x40, 0x41, 0x42, 0x50, 0x51, 0x60, 0x70, 0x71,
   0x72, 0x73, 0x74, 0x75, 0x76, 0x77, 0x78, 0x79, 0x7A, 0x7D, 0x80, 0x81, 0x82, 0x90, 0x91, 0x92, 0xA0, 0xA1,
   0xA2, 0xA3].contains op.toNat

/-- An entry accepted: it joins the pending table; refused for its opcode or its head's reserved bits it
completes at once (R478, R480, R489). -/
def acceptEntry (s : State) (e : List Byte) : State :=
  let c := entryCmd .operator 0 e []
  let op := entryOp e
  let h := setVec { s.host with accepted := c.seq } 1
  let h := { h with pend := h.pend ++ [PendCmd.mk op c], gen := h.gen + 1 }
  let h := { h with completed := completedOf h }
  let s := { s with host := h }
  if !opKnown op then cmdDone s c op stFormat
  else if !mayIssue op .operator then cmdDone s c op stAuthority
  else if entryReserved e then cmdDone s c op stFormat
  else s

/-- LEDGER_ACCEPT: the slot after ACCEPTED is examined (R478). -/
def ledgerAccept (s : State) : State :=
  let want := s.host.accepted + 1
  let e := Mem.reads s.host.slots (slotOff s.host want) 128
  if s.host.waitBad || !serialAbove s.host.doorbell s.host.accepted || decide (4096 ≤ s.host.pend.length) then s
  else if leAt e 0 4 ≠ want.toNat then { s with host := { s.host with waitBad := true } }
  else
    match entryFault e with
    | some r =>
      tally { s with host := { s.host with waitBad := true, bads := satInc s.host.bads } }
        { kind := kLedgerBad, utype := uHost, body := pack 40 [(0, 4, want.toNat), (4, 1, r)] }
    | none => acceptEntry s e

def execLedgerAccept (s : State) : Out := always s ledgerAccept

/-- The NOP command (R480). -/
def runNop (c : Cmd) (s : State) : State := cmdDone s c oNop stOk

def execNop (c : Cmd) (s : State) : Out := onCmd oNop c [] true s (runNop c)

/-! ## The BAR4 window -/

/-- First granary byte of a staging slot (09 Table 9-6). -/
def loftBase (slot : Bool) : Nat := if slot then 0x3FD0000000 else 0x3FC0000000

/-- State of a staging slot. -/
def slotSt (p : Plan) (slot : Bool) : SlotState := if slot then p.slot1 else p.slot0

/-- State of a staging slot set. -/
def setSlot (p : Plan) (slot : Bool) (v : SlotState) : Plan :=
  if slot then { p with slot1 := v } else { p with slot0 := v }

/-- A slot in these states takes no write (09 R274). -/
def slotLocked (v : SlotState) : Bool := v == .validating || v == .pending || v == .applying

/-- The plan loft can be used: the granary is ready and controller 3 is not fenced (09 R272, 19 R544). -/
def loftUp (s : State) : Bool := s.clk.readyGranary && !(Tab.get {} s.granCtl 3).fenced

/-- Bytes written to a slot, which becomes STAGED; or discarded and counted (09 R274). -/
def slotWrite (s : State) (slot : Bool) (off : Nat) (bs : List Byte) : State :=
  if slotLocked (slotSt s.plan slot) then
    { s with plan := { s.plan with lockedWrites := satInc s.plan.lockedWrites } }
  else
    { s with gran := Mem.writes s.gran (loftBase slot + off) bs, plan := setSlot s.plan slot .staged }

/-- BAR4_WRITE: a write through the window to slot 0; the sample ring above it is read-only (R472). -/
def execBar4Write (off : BitVec 29) (bytes : List Byte) (s : State) : Out :=
  event s fun s =>
    if loftUp s && decide (off.toNat < 0x10000000) then
      slotWrite s false off.toNat (bytes.take (0x10000000 - off.toNat))
    else s

end Sys2Proof.Machine
end

