-- ==== Sys2Proof/Machine/Ports.lean ====
section
/-!
DEFINITION. Ports: plan fields, state changes, credits, flits, hedge predicates (10, 18 R508).
-/

namespace Sys2Proof.Machine
open Sys2Proof

/-- State of a port. -/
def port (s : State) (n : Nat) : Port := Tab.get {} s.ports n

/-- A port changed. -/
def modPort (s : State) (n : Nat) (f : Port → Port) : State := { s with ports := Tab.upd {} s.ports n f }

/-- The PORT record of a port (10 Table 10-3). -/
def portRec (s : State) (n : Nat) : Option PlanRec := planRec s 0x02 0x01 n

/-- Field `i` of a port's record, in the order of Table 10-3. -/
def portFld (s : State) (n i : Nat) : Nat := ((portRec s n).map (·.fld i)).getD 0

/-- PERSONALITY: 0 FABRIC, 1 EDGE, 2 COACH. -/
def personality (s : State) (n : Nat) : Nat := portFld s n 0

def portWidth (s : State) (n : Nat) : Nat := portFld s n 2

/-- The port is a FABRIC or COACH port of the plan. -/
def isFabric (s : State) (n : Nat) : Bool := (portRec s n).isSome && personality s n != 1

/-- The port is an EDGE port of the plan. -/
def isEdge (s : State) (n : Nat) : Bool := (portRec s n).isSome && personality s n == 1

/-- The port carries a VL (VL_ENABLE). -/
def carries (s : State) (n : Nat) (vl : BitVec 4) : Bool := bit (portFld s n 9) vl.toNat

/-- Ports of the plan, ascending. -/
def planPorts (s : State) : List Nat := (planRecs s 0x02 0x01).map (·.index)

/-- Die of a port or lane (00 R11). -/
def dieOf (n : Nat) : Nat := n / 512

/-- Lanes in service: the configured width less the lost lanes (10 R318). -/
def activeLanes (s : State) (n : Nat) : Nat :=
  match (port s n).st with
  | .up | .init => ((List.range (portWidth s n)).filter fun i => !bit (port s n).lost.toNat i).length
  | _ => 0

/-- Lanes this side has in service as a mask. -/
def goodMask (s : State) (n : Nat) : Byte := BitVec.ofNat 8 (2 ^ portWidth s n - 1) &&& ~~~(port s n).lost

/-- Field `i` of the CLASSES record of a VL: INN_W, INN_E, QUEUE, CREDITS, ESC_AFTER (11 Table 11-5). -/
def vlFld (s : State) (vl : BitVec 4) (i : Nat) : Nat := ((planRec s 0x04 0x01 vl.toNat).map (·.fld i)).getD 0

/-- Flits of a packet (11 R329). -/
def flitsOf (p : Pkt) : Nat := cdiv (32 + 4 * p.len.toNat) 256

/-- Cells of a packet (11 R329). -/
def cellsOf (p : Pkt) : Nat := cdiv (4 * p.len.toNat) 256

/-- A CTRL flit body queued at a port (10 R308). -/
def queueCtrl (s : State) (n : Nat) (body : List Byte) : State := modPort s n fun p => { p with ctrlQ := p.ctrlQ ++ [body] }

/-- Credits of ten VLs as 20 bytes. -/
def credBytes (t : Tab Nat) : List Byte := (List.range 10).flatMap fun v => leBytes 2 (Tab.get 0 t v)

/-- Credits queued in a CREDIT flit: what is owed goes back to the peer (10 R309). -/
def creditFlit (s : State) (n : Nat) : State :=
  modPort s n fun p =>
    { p with
      ctrlQ := p.ctrlQ ++ [pack 12 [(0, 1, 2)] ++ credBytes p.owed ++ List.replicate 224 0]
      granted := (List.range 10).foldl (fun t v => Tab.upd 0 t v (· + Tab.get 0 p.owed v)) p.granted
      owed := [] }

/-- `f` credits of a VL owed to a port's peer; 16 on any VL send a CREDIT flit (10 R309). -/
def returnCredits (s : State) (n : Nat) (vl : BitVec 4) (f : Nat) : State :=
  if isFabric s n then
    let s := modPort s n fun p => { p with owed := Tab.upd 0 p.owed vl.toNat (· + f) }
    if 16 ≤ Tab.get 0 (port s n).owed vl.toNat then creditFlit s n else s
  else s

/-- A flit's check value (10 Table 10-6). -/
def flitCrc (f : Flit) : Word :=
  let hi := f.ftype.toNat * 2 ^ 29 + f.vl.toNat * 2 ^ 25 + f.pos.toNat * 2 ^ 23 + f.txSeq.toNat * 2 ^ 12 +
    f.ackSeq.toNat * 2 + f.ackValid.toNat
  crc32c (leBytes 4 hi ++ f.body)

/-- A flit sent now carries the receiver's expected sequence number (10 Table 10-6). -/
def stampFlit (p : Port) (f : Flit) : Flit :=
  let f := { f with ackSeq := p.rxExpect, ackValid := true }
  { f with fcrc := flitCrc f }

/-- What leaves on the lanes: nothing while cold reset is asserted (01 R24, 10 Table 10-11). -/
def transmit (s : State) (w : List Sent) : State := if s.pins.coldResetN then { s with wire := s.wire ++ w } else s

/-- A numbered flit sent and kept for resending (10 R311). -/
def sendFlit (s : State) (n : Nat) (f : Flit) : State :=
  let f := stampFlit (port s n) { f with txSeq := (port s n).txSeq }
  let s := modPort s n fun p => { p with txSeq := p.txSeq + 1, retryBuf := p.retryBuf ++ [f] }
  transmit s [.flit n f]

/-- An IDLE flit sent. -/
def sendIdle (s : State) (n : Nat) : State :=
  transmit s [.flit n (stampFlit (port s n) { ftype := 0, body := List.replicate 256 0 })]

/-- The retry buffer holds 128 flits a lane (10 R311). -/
def retryFull (s : State) (n : Nat) : Bool := decide (128 * portWidth s n ≤ (port s n).retryBuf.length)

/-- Local entry of a port in the hedge set. -/
def locEntry (s : State) (n : Nat) : HEntry := Tab.get {} s.hedge.loc n

/-- Entry of a device. -/
def devEntry (s : State) (d : Nat) : HEntry := Tab.get {} s.hedge.dev d

/-- Entry of an endpoint address. -/
def epEntry (s : State) (a : Nat) : HEntry := Tab.get {} s.hedge.ep a

/-- An endpoint or local entry has the effects of HEDGED: HEDGED, OPEN, or a pending lift (18 R506). -/
def HEntry.shut (e : HEntry) : Bool := e.st != .lifted || e.pend.isSome

/-- A device entry acts as OPEN: OPEN, or a pending lift (18 R506). -/
def HEntry.isOpen (e : HEntry) : Bool := e.st == .opened || (e.st == .lifted && e.pend.isSome)

/-- Device of a port's peer, when it declared ROLE DEVICE; 16,383 names no device (01 R16). -/
def peerDevice (s : State) (n : Nat) : Option Nat :=
  match (port s n).peer with
  | some a => if (port s n).peerEndpoint || devOf a == 16383 then none else some (devOf a)
  | none => none

/-- The device is HEDGED (18 R508); a device does not act on its own entry (R505). -/
def devHedged (s : State) (d : Nat) : Bool := d != s.plan.deviceId.toNat && (devEntry s d).st == .hedged

/-- The device acts as OPEN. -/
def devOpen (s : State) (d : Nat) : Bool := d != s.plan.deviceId.toNat && HEntry.isOpen (devEntry s d)

/-- The port's peer device acts as OPEN at an epoch above that of the port's own hedge, which the device's admission then lifts
(18 R508, R515; log 101). -/
def locOpened (s : State) (n : Nat) : Bool :=
  ((peerDevice s n).map fun d => devOpen s d && serialAbove (devEntry s d).epoch (locEntry s n).epoch).getD false

/-- The port's local entry is HEDGED: in its own right, through its endpoint or through its peer device
(18 R508). -/
def portHedged (s : State) (n : Nat) : Bool :=
  (HEntry.shut (locEntry s n) && !locOpened s n) || HEntry.shut (epEntry s (s.plan.deviceId.toNat * 1024 + n)) ||
    ((peerDevice s n).map (devHedged s)).getD false

/-- An endpoint address is a hedged target (18 R508): its device is HEDGED or OPEN, or its own entry is
in force. -/
def targetHedged (s : State) (a : Nat) : Bool :=
  devHedged s (a / 1024) || devOpen s (a / 1024) || HEntry.shut (epEntry s a)

/-- UP FABRIC and COACH ports whose peer is a device. -/
def devicePorts (s : State) : List Nat :=
  (planPorts s).filter fun n => isFabric s n && (port s n).st == .up && (peerDevice s n).isSome

/-- Counters of a die changed. -/
def modRoute (s : State) (die : Nat) (f : RouteDie → RouteDie) : State :=
  { s with route := { s.route with die := Tab.upd {} s.route.die die f } }

/-- A packet of the device queued on VL0 of one port for its peer (18 R504, R507). It takes F credits as any packet does, and
is discarded where the port holds fewer (11 R340, R342). -/
def sendMgtOn (s : State) (n : Nat) (dst : Addr) (op : BitVec 5) (payload : List Byte) : State :=
  let p := mkPkt (ownAddr s) dst 0 op (mgtSeq s op) 0 s.fault.epochMax payload
  let s := mgtCount s op
  if flitsOf p ≤ Tab.get 0 (port s n).credits 0 then
    let s := modPort s n fun q => { q with credits := Tab.upd 0 q.credits 0 (· - flitsOf p) }
    { s with outq := s.outq ++ [{ port := n, queue := 0, item := .pkt p }] }
  else modRoute s (dieOf n) fun r => { r with mgt := satInc r.mgt }

def modCore (s : State) (die : Nat) (f : CoreDie → CoreDie) : State :=
  { s with core := { s.core with die := Tab.upd {} s.core.die die f } }

end Sys2Proof.Machine
end

