-- ==== Sys2Proof/Machine/Gate.lean ====
section
/-!
DEFINITION. The gateway of a COACH port as lookup sees it (14 R425, R426): which packets join its open run.
-/

namespace Sys2Proof.Machine
open Sys2Proof

/-- Class of an OP (11 Table 11-2): 0 MGT, 1 REQ, 2 FWD, 3 RSP, 4 COL; none when reserved. -/
def opClass (op : BitVec 5) : Option Nat :=
  let n := op.toNat
  if 1 ≤ n ∧ n ≤ 5 then some 0
  else if 8 ≤ n ∧ n ≤ 0xB then some 1
  else if (0xC ≤ n ∧ n ≤ 0xE) ∨ n = 0x11 then some 3
  else if n = 0x10 then some 2
  else if 0x14 ≤ n ∧ n ≤ 0x1C then some 4
  else none

/-- LOAD, STORE, STORE_REL, ATOMIC and their answers. -/
def isMemOp (op : BitVec 5) : Bool := decide (8 ≤ op.toNat) && decide (op.toNat ≤ 0xE)

/-- LOAD, STORE, STORE_REL or ATOMIC. -/
def isRequest (op : BitVec 5) : Bool := decide (8 ≤ op.toNat) && decide (op.toNat ≤ 0xB)

def gateway (s : State) (n : Nat) : Gateway := Tab.get {} s.mem.gates n
def modGate (s : State) (n : Nat) (f : Gateway → Gateway) : State :=
  { s with mem := { s.mem with gates := Tab.upd {} s.mem.gates n f } }

/-- COACH ports of the plan, ascending. -/
def coachPorts (s : State) : List Nat := (planPorts s).filter fun n => personality s n == 2

/-- Rooms of a gateway, near or far: RESERVE / 1,024 of its account (R426, 12 Table 12-3). -/
def gateRooms (s : State) (n : Nat) : Nat :=
  match (enum (coachPorts s)).find? fun e => e.2 == n with
  | some e => ((planRec s 0x05 0x02 (8 * (1184 + e.1))).map fun r => r.fld 2 / 1024).getD 0
  | none => 0

/-- The port has a gateway: COACH on both sides (R425). -/
def hasGate (s : State) (n : Nat) : Bool := isFabric s n && personality s n == 2 && (port s n).peerCoach

/-- A REQ-class packet at a COACH port: it leaves in a run, or not at all when the peer is FABRIC. -/
def gated (s : State) (n : Nat) (p : Pkt) : Bool := isFabric s n && personality s n == 2 && opClass p.op == some 1 && decide (p.vl.toNat ≤ 2)

/-- Bytes of a record in a run, and of its answer (R426, R427). -/
def recordLen (p : Pkt) : Nat := 32 + 4 * p.len.toNat
def answerLen (p : Pkt) : Nat :=
  if p.op = pLoad then 48 + 4 * cdiv (leAt p.payload 8 2 % 8192) 4 else if p.op = pAtomic then 56 else 48

/-- Records split over packets: 4,088 bytes of records each, none crossing a packet. -/
def packRecords (ps : List Pkt) : List (List Pkt) :=
  let r := ps.foldl (fun (a : List (List Pkt) × List Pkt) p =>
    if ((a.2 ++ [p]).map recordLen).foldl (· + ·) 0 ≤ 4088 then (a.1, a.2 ++ [p]) else (a.1 ++ [a.2], [p])) ([], [])
  r.1 ++ [r.2]

/-- The limits of a run (R426). -/
def runFits (ps : List Pkt) : Bool :=
  decide ((ps.map recordLen).foldl (· + ·) 0 ≤ 65536) && decide ((ps.map answerLen).foldl (· + ·) 0 ≤ 65536) &&
    decide ((packRecords ps).length ≤ 32)

/-- The gateway can open a run: a run credit and a free near room (R425). -/
def canOpen (s : State) (n : Nat) : Bool :=
  decide (0 < (gateway s n).credits) && decide ((gateway s n).near.length < gateRooms s n)

/-- The port takes a packet: a request only into its open run or a new one (R425). -/
def gateTakes (s : State) (n : Nat) (p : Pkt) : Bool :=
  if !gated s n p then true
  else if !hasGate s n then false
  else if (gateway s n).run.isEmpty then canOpen s n else runFits ((gateway s n).run ++ [p])

/-- The packet joins the run; the first one opens it with a credit and a near room. -/
def gateAdd (s : State) (n : Nat) (p : Pkt) : State :=
  modGate s n fun g =>
    if g.run.isEmpty then { g with run := [p], credits := g.credits - 1, near := g.near ++ [g.nextRun] }
    else { g with run := g.run ++ [p] }

/-- Requester ID of a gateway (12 Table 12-3). -/
def gateUnit (s : State) (n : Nat) : Nat := 1184 + (((enum (coachPorts s)).find? fun e => e.2 == n).map (·.1)).getD 0

/-- A packet of a gateway to its peer, over its own port (R427, R428). -/
def sendGate (s : State) (n : Nat) (vl : BitVec 4) (op : BitVec 5) (seq fcid : Word) (payload : List Byte) : State :=
  let p := mkPkt (ownAddr s) ((port s n).peer.getD 0) vl op seq fcid s.fault.epochMax payload
  { s with ingress := s.ingress ++ [{ port := none, unit := gateUnit s n, vl, p, looked := true, via := some n }] }

/-- A COACH port comes UP (R427, R428): run numbers start at 0, and the run credits it grants are announced. -/
def announce (s : State) (n : Nat) : State :=
  if hasGate s n then
    let s := modGate s n fun g => { lost := g.lost }
    sendGate s n 5 pCoachDone 0 0xFFFFFFFF (pack 16 [(12, 4, gateRooms s n)])
  else s

end Sys2Proof.Machine
end

