-- ==== Sys2Proof/Machine/Frame.lean ====
section
/-!
DEFINITION. Ethernet frames of an EDGE port (10 R321 to R323, Table 10-12): FCS, classification fields,
and the frames the device builds. Frames run from DA to FCS; multi-byte fields are in network order.
-/

namespace Sys2Proof.Machine
open Sys2Proof

/-- The IEEE 802.3 frame check sequence. -/
def fcs (bs : List Byte) : Nat := bs.foldl (crcByte 0xEDB88320) 0xFFFFFFFF ^^^ 0xFFFFFFFF

/-- A frame with its FCS appended. -/
def withFcs (bs : List Byte) : List Byte := bs ++ leBytes 4 (fcs bs)

/-- The frame's FCS is right. -/
def fcsOk (f : List Byte) : Bool := leNat (f.drop (f.length - 4)) == fcs (f.take (f.length - 4))

/-- Network-order value of `n` bytes from `off`. -/
def beAt (f : List Byte) (off n : Nat) : Nat := beNat (slice f off n)

/-- Length of the 802.1Q tag, 4 or 0. -/
def tagLen (f : List Byte) : Nat := if beAt f 12 2 = 0x8100 then 4 else 0

/-- Tag control information; 0 when untagged. -/
def tci (f : List Byte) : Nat := if tagLen f = 4 then beAt f 14 2 else 0

/-- PCP of a frame; an untagged frame has PCP 0 (13 R386). -/
def framePcp (f : List Byte) : Nat := bits (tci f) 15 13

/-- VLAN of a frame; an untagged frame takes the port's (10 R324). -/
def frameVlan (f : List Byte) (portVlan : Nat) : Nat := if tagLen f = 4 then bits (tci f) 11 0 else portVlan

/-- EtherType after an optional tag. -/
def etherType (f : List Byte) : Nat := beAt f (12 + tagLen f) 2

/-- One's-complement sum of 16-bit words, folded. -/
def sum16 (bs : List Byte) : Nat :=
  let s := (List.range (cdiv bs.length 2)).foldl (fun a i => a + beAt bs (2 * i) 2) 0
  let s := s % 65536 + s / 65536
  s % 65536 + s / 65536

/-- Where a frame's Selnan-over-UDP header begins, with whether it is IPv6: IPv4 without options or
fragmentation, or IPv6 without extension headers, to `ip`, UDP to `udp` (10 R321 step 5). -/
def udpAt (f : List Byte) (ip udp : Nat) : Option (Nat × Bool) :=
  let o := 14 + tagLen f
  if etherType f = 0x0800 then
    if beAt f o 1 = 0x45 ∧ bits (beAt f (o + 6) 2) 13 0 = 0 ∧ beAt f (o + 9) 1 = 17 ∧ beAt f (o + 16) 4 = ip ∧
        beAt f (o + 22) 2 = udp then some (o + 20, false) else none
  else if etherType f = 0x86DD then
    if bits (beAt f o 1) 7 4 = 6 ∧ beAt f (o + 6) 1 = 17 ∧ beAt f (o + 24) 16 = ip ∧ beAt f (o + 42) 2 = udp then
      some (o + 40, true) else none
  else none

/-- A nonzero UDP checksum is right (10 R321 step 5). -/
def udpSumOk (f : List Byte) (u : Nat) (v6 : Bool) : Bool :=
  let n := beAt f (u + 4) 2
  let ips := if v6 then slice f (u - 32) 32 else slice f (u - 8) 8
  beAt f (u + 6) 2 == 0 || sum16 (ips ++ beBytes 4 17 ++ beBytes 4 n ++ slice f u n) == 0xFFFF

/-- A Selnan packet read from header and payload bytes (11 Table 11-1). -/
def parsePkt (bs : List Byte) : Pkt :=
  let ol := leAt bs 10 2
  { dst := BitVec.ofNat 24 (leAt bs 0 3), dstN := BitVec.ofNat 24 (leAt bs 3 3), src := BitVec.ofNat 24 (leAt bs 6 3),
    vl := BitVec.ofNat 4 (leAt bs 9 1 / 16), hop := BitVec.ofNat 4 (leAt bs 9 1 % 16), op := BitVec.ofNat 5 (ol / 2048),
    len := BitVec.ofNat 11 ol, seq := BitVec.ofNat 32 (leAt bs 12 4), seqN := BitVec.ofNat 32 (leAt bs 16 4),
    fcid := BitVec.ofNat 32 (leAt bs 20 4), epoch := BitVec.ofNat 32 (leAt bs 24 4), hcrc := BitVec.ofNat 32 (leAt bs 28 4),
    payload := slice bs 32 (4 * (ol % 2048)) }

/-- Address and tag part of a frame: DA, SA, tag when `vlan` is nonzero, EtherType. -/
def frameHead (da sa vlan pcp dei et : Nat) : List Byte :=
  beBytes 6 da ++ beBytes 6 sa ++
    (if vlan = 0 then [] else beBytes 2 0x8100 ++ beBytes 2 (pcp * 8192 + dei * 4096 + vlan)) ++ beBytes 2 et

/-- IPv4 header with TTL 64 and DF (10 R322). -/
def ipv4Head (src dst len : Nat) : List Byte :=
  let h (sum : Nat) := beBytes 2 0x4500 ++ beBytes 2 len ++ beBytes 2 0 ++ beBytes 2 0x4000 ++ beBytes 2 0x4011 ++
    beBytes 2 sum ++ beBytes 4 src ++ beBytes 4 dst
  h (65535 - sum16 (h 0))

/-- IPv6 header with hop limit 64. -/
def ipv6Head (src dst len : Nat) : List Byte :=
  beBytes 4 0x60000000 ++ beBytes 2 len ++ [17, 64] ++ beBytes 16 src ++ beBytes 16 dst

/-- A Selnan packet wrapped for an EDGE port (Table 10-12). `encap` 0 ETHERTYPE, 1 UDP4, 2 UDP6. The UDP
source port is the destination port (log 12). -/
def wrapPkt (encap da sa vlan pcp dei et udp sip dip : Nat) (p : Pkt) : List Byte :=
  let body := p.header ++ p.payload
  let n := 8 + body.length
  let uh (sum : Nat) := beBytes 2 udp ++ beBytes 2 udp ++ beBytes 2 n ++ beBytes 2 sum
  withFcs <|
    if encap = 0 then frameHead da sa vlan pcp dei et ++ body
    else if encap = 1 then frameHead da sa vlan pcp dei 0x0800 ++ ipv4Head sip dip (20 + n) ++ uh 0 ++ body
    else
      let c := 65535 - sum16 (beBytes 16 sip ++ beBytes 16 dip ++ beBytes 4 n ++ beBytes 4 17 ++ uh 0 ++ body)
      frameHead da sa vlan pcp dei 0x86DD ++ ipv6Head sip dip n ++ uh (if c = 0 then 65535 else c) ++ body

/-- A PFC frame for the priorities of `mask`, each with `quanta` (IEEE 802.1Qbb). -/
def pfcFrame (sa mask quanta : Nat) : List Byte :=
  withFcs (beBytes 6 0x0180C2000001 ++ beBytes 6 sa ++ beBytes 2 0x8808 ++ beBytes 2 0x0101 ++ beBytes 2 mask ++
    ((List.range 8).flatMap fun p => beBytes 2 (if bit mask p then quanta else 0)) ++ List.replicate 26 0)

end Sys2Proof.Machine
end

