-- ==== Sys2Proof/Machine/Inn.lean ====
section
/-!
DEFINITION. The Innkeeper (12 R359 to R369): accounts, rooms, watermarks, room requests and releases, and the
priority flow control that the watermarks drive (10 R323).
-/

namespace Sys2Proof.Machine
open Sys2Proof

/-- Cells of a room of a size code (12 Table 12-2). -/
def roomCells (size : Nat) : Nat := 4 ^ size

/-- Bytes of a room of a size code. -/
def roomBytes (size : Nat) : Nat := 256 * 4 ^ size

/-- The INN record of an inn: BASE, N256, N1K, N4K, N16K, N64K, WARN, PRESSURE, STOP. -/
def innRec (s : State) (die inn : Nat) : Option PlanRec := planRec s 0x05 0x01 (64 * die + inn)

/-- A fenced inn lodges nothing new above the credits its FABRIC and COACH ports have given (01 R23, 09 R286, log 80). -/
def innFenced (s : State) (die inn : Nat) : Bool := s.core.fencedInns.contains (64 * die + inn)

/-- Rooms of a size code an inn holds. -/
def innRooms (r : PlanRec) (size : Nat) : Nat := r.fld (size + 1)

/-- CELLS of an inn (R359). -/
def innCells (r : PlanRec) : Nat := ((List.range 5).map fun z => innRooms r z * roomCells z).foldl (· + ·) 0

/-- First cell of the sub-pool of a size: 64 KiB rooms first, 256 B rooms last (R359). -/
def poolBase (r : PlanRec) (size : Nat) : Nat :=
  r.fld 0 + (((List.range 5).filter fun z => decide (size < z)).map fun z => innRooms r z * roomCells z).foldl (· + ·) 0

/-- Die of a requester (Table 12-3). -/
def reqDie (s : State) (req : Nat) : Nat :=
  if req < 1024 then req / 512
  else if req < 1056 then (req - 1024) / 16
  else if req < 1184 then (req - 1056) / 64
  else if req < 1216 then
    dieOf (((planPorts s).filter fun n => personality s n == 2).getD (req - 1184) 0)
  else if req < 1218 then req - 1216
  else if req < 1222 then (req - 1218) / 2
  else if req < 1246 then if req - 1222 < 8 then (req - 1222) / 4 else (req - 1230) / 8
  else if req < 1248 then req - 1246
  else if req < 1250 then req - 1248
  else 0

/-- Nodes of a slot set table that name a node as their parent, in the same range (09 Table 9-5). -/
def childNodes (sets : List (List Nat)) (range node : Nat) : List (List Nat) :=
  sets.filter fun e => bits (e.getD 0 0) 11 0 == range && e.getD 3 0 % 65536 == node

/-- The slot set entry of a node. -/
def nodeEntry (sets : List (List Nat)) (range node : Nat) : Option (List Nat) :=
  sets.find? fun e => bits (e.getD 0 0) 11 0 == range && bits (e.getD 0 0) 27 12 == node

/-- Cells reserved for one slot's children and one chunk of its output (03 R80, 12 R360). -/
def slotReserve (s : State) (r : PlanRec) : Nat :=
  match planRec s 0x07 0x01 (r.fld 0) with
  | none => 448
  | some f =>
    match nodeEntry (f.tab 3) (r.fld 1) (r.fld 2) with
    | none => 448
    | some e =>
      let w := bits (e.getD 2 0) 22 18
      let kids := (childNodes (f.tab 3) (r.fld 1) (r.fld 2)).length
      (bits (e.getD 2 0) 17 7 - kids) * 56 * w + kids * 448 * w + 448

/-- An account: its number, inn, room sizes, RESERVE and LIMIT (R360, Table 12-4). -/
structure Acct where
  ix : Nat
  inn : Nat
  sizes : Nat
  reserve : Nat
  limit : Nat
  deriving DecidableEq, Repr

/-- Numbers of derived FABRIC accounts start here: 16 x port + VL above it. -/
def fabricAcct (n vl : Nat) : Nat := 2 ^ 20 + 16 * n + vl

/-- Accounts of a die, derived ones included (R360, R361). -/
def acctsOf (s : State) (die : Nat) : List Acct :=
  let recs := ((planRecs s 0x05 0x02).filter fun r => reqDie s (r.index / 8) == die).map fun r =>
    { ix := r.index, inn := r.fld 0, sizes := r.fld 1, reserve := r.fld 2, limit := r.fld 3 : Acct }
  let fab := ((planPorts s).filter fun n => isFabric s n && dieOf n == die).flatMap fun n =>
    ((List.range 9).filter fun v => carries s n (BitVec.ofNat 4 v)).map fun v =>
      { ix := fabricAcct n v, inn := vlFld s (BitVec.ofNat 4 v) die, sizes := 1,
        reserve := vlFld s (BitVec.ofNat 4 v) 3, limit := vlFld s (BitVec.ofNat 4 v) 3 : Acct }
  let colInn := ((planRec s 0x08 0x02 0).map (·.fld die)).getD 0
  let thr := ((List.range 64).map (· + 64 * die)).filterMap fun t =>
    let slots := (planRecs s 0x08 0x01).filter fun r => r.index / 32 == t
    if slots.isEmpty then none
    else
      let res := (slots.map (slotReserve s)).foldl (· + ·) 0
      some { ix := 8 * (1056 + t), inn := colInn, sizes := 1, reserve := res, limit := res : Acct }
  let rsp := { ix := 8 * (1246 + die), inn := vlFld s 5 die, sizes := 1, reserve := 4352, limit := 4352 : Acct }
  recs ++ fab ++ thr ++ [rsp]

/-- Cells of packets of a FABRIC account in lodging. -/
def fabricHeld (s : State) (n vl : Nat) : Nat :=
  let cells (it : Item) : Nat := match it with | .pkt p => cellsOf p | .frame b _ _ => cdiv b.length 256
  let a := (s.ingress.filter fun l => l.port == some n && l.vl.toNat == vl).map fun l => cellsOf l.p
  let b := (s.outq.filter fun u => u.src == some (n, BitVec.ofNat 4 vl)).map fun u => cells u.item
  (a ++ b).foldl (· + ·) 0

/-- Cells an account holds: its rooms, or what an EDGE or FABRIC port has lodged. -/
def acctHeld (s : State) (ix : Nat) : Nat :=
  if 2 ^ 20 ≤ ix then fabricHeld s ((ix - 2 ^ 20) / 16) ((ix - 2 ^ 20) % 16)
  else
    (((s.core.rooms.filter fun r => r.acct == ix && !r.leaked).map fun r => roomCells r.size).foldl (· + ·) 0) +
      Tab.get 0 s.core.edge ix

/-- Shared occupancy S of an inn (R364). -/
def innShared (s : State) (die inn : Nat) : Nat :=
  (((acctsOf s die).filter fun a => a.inn == inn).map fun a => acctHeld s a.ix - a.reserve).foldl (· + ·) 0

/-- Cells held in an inn, reserves included (Table 12-8). -/
def innHeld (s : State) (die inn : Nat) : Nat :=
  (((acctsOf s die).filter fun a => a.inn == inn).map fun a => acctHeld s a.ix).foldl (· + ·) 0

/-- Cells in free rooms of a size less those owed to accounts of that size up to their RESERVE (R364). -/
def innSpare (s : State) (r : PlanRec) (die inn size : Nat) : Nat :=
  let accts := (acctsOf s die).filter fun a => a.inn == inn
  let used := ((s.core.rooms.filter fun x => x.die == die && x.inn == inn && x.size == size).length * roomCells size) +
    (if size = 0 then ((accts.filter fun a => decide (2 ^ 20 ≤ a.ix)).map fun a => acctHeld s a.ix).foldl (· + ·) 0 +
       ((accts.map fun a => Tab.get 0 s.core.edge a.ix).foldl (· + ·) 0) else 0)
  let owed := ((accts.filter fun a => a.sizes == 2 ^ size).map fun a => a.reserve - acctHeld s a.ix).foldl (· + ·) 0
  innRooms r size * roomCells size - used - owed

/-- Level of an inn: 0 below WARN, 1 WARN, 2 PRESSURE, 3 STOP (Table 12-9). -/
def innLevel (s : State) (die inn : Nat) : Nat :=
  match innRec s die inn with
  | none => 0
  | some r =>
    let x := innShared s die inn
    if r.fld 8 ≤ x then 3 else if r.fld 7 ≤ x then 2 else if r.fld 6 ≤ x then 1 else 0

/-- An account of the plan by number. -/
def findAcct (s : State) (die ix : Nat) : Option Acct := (acctsOf s die).find? fun a => a.ix == ix

/-- Watermark an account has reached (R365): none within its RESERVE, all three at its LIMIT. -/
def acctLevel (s : State) (ix : Nat) : Nat :=
  let die := reqDie s (ix / 8)
  match findAcct s die ix with
  | none => 0
  | some a =>
    if a.limit ≤ acctHeld s ix then 3 else if acctHeld s ix ≤ a.reserve then 0 else innLevel s die a.inn

/-! ## Priority flow control (10 R323) -/

/-- Priorities of a mask for which an UP port now sends XOFF or XON (10 R323). -/
def sendPfc (s : State) (n mask : Nat) (off : Bool) : State :=
  if mask = 0 || (port s n).st != .up then s
  else
    let f := pfcFrame (portFld s n 18) mask (if off then Config.pauseQuanta.toNat else 0)
    let s := transmit s [.frame n (if off then f else
      withFcs (beBytes 6 0x0180C2000001 ++ beBytes 6 (portFld s n 18) ++ beBytes 2 0x8808 ++ beBytes 2 0x0101 ++
        beBytes 2 mask ++ List.replicate 42 0))]
    modPort s n fun p =>
      { p with xoff := if off then p.xoff ||| BitVec.ofNat 8 mask else p.xoff &&& ~~~BitVec.ofNat 8 mask }

/-- XOFF for the lossless priorities whose account has reached PRESSURE, XON for those below WARN (10 R323,
12 Table 12-5). -/
def settlePfc (s : State) (n : Nat) : State :=
  let pfc := portFld s n 13
  let on := (List.range 8).filter fun p => bit pfc p && !bit (port s n).xoff.toNat p && decide (2 ≤ acctLevel s (8 * n + p))
  let off := (List.range 8).filter fun p => bit (port s n).xoff.toNat p && acctLevel s (8 * n + p) == 0
  let mask (l : List Nat) := l.foldl (fun m p => m + 2 ^ p) 0
  sendPfc (sendPfc s n (mask on) true) n (mask off) false

/-! ## Rooms -/

/-- The decision of R364 for a room of `c` cells, size code `size`. -/
def mayGrant (s : State) (die : Nat) (a : Acct) (r : PlanRec) (size c : Nat) : Bool :=
  let held := acctHeld s a.ix
  let excess := (held + c - a.reserve) - (held - a.reserve)
  if a.limit < held + c || innFenced s die a.inn then false
  else if excess = 0 then true
  else if innSpare s r die a.inn size < c then false
  else if r.fld 8 < innShared s die a.inn + excess then false
  else if r.fld 7 ≤ innShared s die a.inn ∧ 1 < c then false
  else if r.fld 6 ≤ innShared s die a.inn ∧ 16 < c then false
  else true

/-- Whether an EDGE account can lodge `cells` more cells of 256 B rooms (R363 to R365). -/
def edgeFits (s : State) (ix cells : Nat) : Bool :=
  let die := reqDie s (ix / 8)
  match findAcct s die ix with
  | none => false
  | some a =>
    match innRec s die a.inn with
    | none => false
    | some r =>
      let held := acctHeld s ix
      let excess := (held + cells - a.reserve) - (held - a.reserve)
      decide (held + cells ≤ a.limit) && !innFenced s die a.inn &&
        (excess == 0 || (decide (excess ≤ innSpare s r die a.inn 0) && decide (innShared s die a.inn + excess ≤ r.fld 8)))

/-- Smallest size code of a mask whose rooms hold `bytes` (R363). -/
def roomFor (sizes bytes : Nat) : Option Nat :=
  (List.range 5).find? fun z => bit sizes z && decide (bytes ≤ roomBytes z)

/-- First free room of a size: its first cell. -/
def freeRoom (s : State) (r : PlanRec) (die inn size : Nat) : Option Nat :=
  ((List.range (innRooms r size)).map fun i => poolBase r size + i * roomCells size).find? fun c =>
    !s.core.rooms.any fun x => x.die == die && x.inn == inn && x.size == size && x.cell == c

/-- A request tried now (R364): the room granted, if any. -/
def tryRoom (s : State) (w : RoomWait) : Option State :=
  match findAcct s w.die w.acct, innRec s w.die w.inn with
  | some a, some r =>
    match roomFor a.sizes w.bytes with
    | none => none
    | some z =>
      if mayGrant s w.die a r z (roomCells z) then
        (freeRoom s r w.die w.inn z).map fun c =>
          { s with core := { s.core with
              rooms := s.core.rooms ++ [{ die := w.die, inn := w.inn, size := z, cell := c, acct := w.acct, refs := w.refs }]
              lastAcct := Tab.set 0 s.core.lastAcct (64 * w.die + w.inn) (w.acct + 1) } }
      else none
  | _, _ => none

/-- Waiting requests of an inn in the order they are retried (R364): arrival order within an account, a
rotation over accounts from the one after the account granted last. -/
def retryOrder (s : State) (die inn : Nat) : List RoomWait :=
  let last := Tab.get 0 s.core.lastAcct (64 * die + inn)
  let ws := s.core.waits.filter fun w => w.die == die && w.inn == inn
  let firsts := ws.foldl (fun acc w => if acc.any fun (x : RoomWait) => x.acct == w.acct then acc else acc ++ [w]) []
  let up := firsts.filter fun w => decide (last ≤ w.acct)
  let lo := firsts.filter fun w => decide (w.acct < last)
  let sort (l : List RoomWait) := l.mergeSort fun a b => decide (a.acct ≤ b.acct)
  sort up ++ sort lo

/-- The first waiting request that can be granted is granted, at most `k` times (R364). -/
def retryRooms (die inn : Nat) : Nat → State → State
  | 0, s => s
  | k + 1, s =>
    match (retryOrder s die inn).findSome? fun w => (tryRoom s w).map fun t => (w, t) with
    | none => s
    | some (w, t) => retryRooms die inn k { t with core := { t.core with waits := t.core.waits.erase w } }

/-- Room of a die's inns taken or freed: requests that wait there are tried again (R364), and the EDGE ports of the die, whose
accounts share its inns, send the PFC frames due (10 R323). -/
def settleDie (s : State) (die : Nat) : State :=
  let inns := ((s.core.waits.filter fun w => w.die == die).map (·.inn)).eraseDups
  let s := inns.foldl (fun s inn => retryRooms die inn s.core.waits.length s) s
  ((planPorts s).filter fun n => isEdge s n && dieOf n == die).foldl settlePfc s

/-- ROOM_RELEASE of the room a pointer names (R368, R369, Table 12-6). A refused release leaks the held room
in which the pointer's cell lies, if there is one (log 13). -/
def roomRelease (ptr : Word) (s : State) : State :=
  let v := ptr.toNat
  let inn := bits v 31 26
  let die := bits v 25 25
  let size := bits v 23 21
  let cell := bits v 20 0
  let bad (code : Half) (s : State) : State := raise (modCore s die fun c => { c with badRelease := satInc c.badRelease }) code uDevice 0
  let leak (s : State) : State :=
    { s with core := { s.core with rooms := s.core.rooms.map fun r =>
        if r.die == die && r.inn == inn && decide (r.cell ≤ cell) && decide (cell < r.cell + roomCells r.size) then
          { r with leaked := true } else r } }
  match innRec s die inn with
  | none => bad fInnPointer s
  | some r =>
    let okp := !bit v 24 && decide (size ≤ 4) && cell % roomCells size == 0 && decide (poolBase r size ≤ cell) &&
      decide (cell + roomCells size ≤ poolBase r size + innRooms r size * roomCells size)
    match (if okp then s.core.rooms.find? fun x => x.die == die && x.inn == inn && x.size == size && x.cell == cell && !x.leaked else none) with
    | none => bad fInnPointer (leak s)
    | some x =>
      if x.refs = 0 then bad fInnRefcount (leak s)
      else if x.refs = 1 then
        let s := { s with core := { s.core with rooms := s.core.rooms.erase x } }
        settleDie s die
      else
        { s with core := { s.core with rooms := s.core.rooms.map fun y => if y == x then { x with refs := x.refs - 1 } else y } }

def execRoomRelease (ptr : Word) (s : State) : Out := event s (roomRelease ptr)

end Sys2Proof.Machine
end

