-- ==== Sys2Proof/Machine/Furrow.lean ====
section
/-!
DEFINITION. Furrows in the plan and waybills (03 R67 to R83).
-/

namespace Sys2Proof.Machine
open Sys2Proof

/-! ## Furrows in the plan (R67, R68, 09 Table 9-5) -/

/-- Field `i` of a furrow: KIND, MEMBERS, DIST, RECV_WINDOW, RANGES, SKEW, SEGS. -/
def furrowFld (s : State) (f i : Nat) : Nat := ((planRec s 0x07 0x01 f).map (·.fld i)).getD 0

/-- Table `i` of a furrow: MEMBER_MAP, PERM, RANGE_SINK, SLOT_SETS, ORDER_LIST. -/
def furrowTab (s : State) (f i : Nat) : List (List Nat) := ((planRec s 0x07 0x01 f).map (·.tab i)).getD []

def isReduce (s : State) (f : Nat) : Bool := decide (f < 32) && furrowFld s f 0 == 3

/-- (ORDER_IDX, COLL_ID) of a furrow. -/
def orderList (s : State) (f : Nat) : List (Nat × Nat) := (furrowTab s f 4).map fun e => (e.getD 0 0 % 65536, e.getD 1 0)

/-- The furrow and ORDER_IDX of a COLL_ID (R68). -/
def collPlace (s : State) (coll : Nat) : Option (Nat × Nat) :=
  (List.range 32).findSome? fun f =>
    if isReduce s f then ((orderList s f).find? fun e => e.2 == coll).map fun e => (f, e.1) else none

/-- The step's global list of ORDER_IDX (R91). -/
def globalList (s : State) : List Nat := (List.range 32).flatMap fun f => if isReduce s f then (orderList s f).map (·.1) else []

/-- Position order (R91). -/
def posBefore (p q : Nat × Nat) : Bool := decide (p.1 < q.1) || (p.1 == q.1 && decide (p.2 < q.2))

/-- Positions after `p` and at or before `q` (R91). -/
def posDistance (s : State) (p q : Nat × Nat) : Nat :=
  let l := globalList s
  if p.1 = q.1 then (l.filter fun i => decide (p.2 < i) && decide (i ≤ q.2)).length
  else (l.filter fun i => decide (p.2 < i)).length + (q.1 - p.1 - 1) * l.length + (l.filter fun i => decide (i ≤ q.2)).length

/-- A member's MEMBER_MAP word, and the address it is reached at. -/
def memberWord (s : State) (f ord : Nat) : Nat := ((furrowTab s f 0).getD ord []).getD 0 0
def memberAddr (w : Nat) : Addr := if bits w 31 28 = 0 then BitVec.ofNat 24 w else addr (bits w 23 10) 0

/-- Packets of the member with a MEMBER_MAP word come from this address: an endpoint's own, a device's for an
update path or stage (11 R333). -/
def memberIs (w : Nat) (a : Addr) : Bool := if bits w 31 28 = 0 then w == a.toNat else devOf a == bits w 23 10

/-- The address is an ENDPOINT member of the furrow. -/
def isMember (s : State) (f : Nat) (a : Addr) : Bool := (furrowTab s f 0).any fun e => e.getD 0 0 == a.toNat

/-- MEMBER_MAP word of the member that member `i` of a movement furrow sends to (R69). -/
def destWord (s : State) (f i : Nat) : Nat :=
  memberWord s f (if furrowFld s f 0 = 1 then (i + furrowFld s f 2) % max (furrowFld s f 1) 1 else ((furrowTab s f 1).getD i []).getD 0 0)

/-- The word names stage `n` of this device. -/
def isStageWord (s : State) (n w : Nat) : Bool := bits w 31 28 == 2 && bits w 23 10 == s.plan.deviceId.toNat && bits w 4 0 == n

/-! ## Stages as members (08 R240 to R242) -/

def stFld (s : State) (n i : Nat) : Nat := ((planRec s 0x07 0x02 n).map (·.fld i)).getD 0
def stTab (s : State) (n i : Nat) : List (List Nat) := ((planRec s 0x07 0x02 n).map (·.tab i)).getD []

/-- Source ordinal of an input furrow. -/
def stSource (s : State) (n f : Nat) : Option Nat := ((enum (stTab s n 0)).find? fun e => e.2.getD 0 0 % 256 == f).map (·.1)

/-- The stage whose input a furrow is, with its source ordinal. -/
def stageOf (s : State) (f : Nat) : Option (Nat × Nat) := (List.range 24).findSome? fun n => (stSource s n f).map fun i => (n, i)

/-- The stage and source ordinal that a movement packet for this device goes to, by the furrow tables and its FCID (11 R344): the
stage whose input the furrow is, where the sender's member sends to it. -/
def toStage (s : State) (p : Pkt) : Option (Nat × Nat) :=
  let f := p.fcid.toNat % 256
  if devOf p.dst ≠ s.plan.deviceId.toNat ∨ fieldOf p.dst ≠ 0 then none
  else (stageOf s f).filter fun q =>
    (enum (furrowTab s f 0)).any fun m => memberIs (m.2.getD 0 0) p.src && isStageWord s q.1 (destWord s f m.1)

/-- A tree node of the furrow's SLOT_SETS. -/
structure NodeRec where
  range : Nat
  node : Nat
  device : Nat
  lead : Nat
  stripe : Nat
  fanin : Nat
  window : Nat
  parent : Nat
  deriving DecidableEq, Repr

def nodeRecs (s : State) (f : Nat) : List NodeRec :=
  (furrowTab s f 3).map fun e =>
    let w (i : Nat) := e.getD i 0
    { range := bits (w 0) 11 0, node := bits (w 0) 27 12, device := bits (w 1) 13 0, lead := bits (w 1) 25 14,
      stripe := bits (w 2) 6 0, fanin := bits (w 2) 17 7, window := bits (w 2) 22 18, parent := bits (w 3) 15 0 }

/-- The node is the root of its range's tree. -/
def NodeRec.isRoot (n : NodeRec) : Bool := n.parent == 0xFFFF

/-- A slot of this device: its furrow, node and STRIPE_POS (09 Table 9-4). -/
def slotNode (s : State) (slot : Nat) : Option (Nat × NodeRec × Nat) :=
  match planRec s 0x08 0x01 slot with
  | none => none
  | some r => ((nodeRecs s (r.fld 0)).find? fun n => n.range == r.fld 1 && n.node == r.fld 2 &&
      n.device == s.plan.deviceId.toNat).map fun n => (r.fld 0, n, r.fld 3)

/-- The node above, none at the root. -/
def parentOf (s : State) (f : Nat) (n : NodeRec) : Option NodeRec :=
  if n.isRoot then none else (nodeRecs s f).find? fun m => m.range == n.range && m.node == n.parent

/-- The nodes below. -/
def childNodesOf (s : State) (f : Nat) (n : NodeRec) : List NodeRec :=
  (nodeRecs s f).filter fun m => m.range == n.range && m.parent == n.node && !m.isRoot

/-- Slot of a node that handles chunk or row `c` (R76, R101). -/
def NodeRec.slotOf (n : NodeRec) (c : Nat) : Nat := n.lead + 32 * (c % max n.stripe 1)

/-- The roots of a furrow. -/
def rootsOf (s : State) (f : Nat) : List NodeRec := (nodeRecs s f).filter (·.isRoot)

/-- This device's nodes. -/
def localNodes (s : State) (f : Nat) : List NodeRec := (nodeRecs s f).filter fun n => n.device == s.plan.deviceId.toNat

def nodeSt (s : State) (lead : Nat) : Node := Tab.get {} s.coll.nodes lead
def modNode (s : State) (lead : Nat) (f : Node → Node) : State :=
  { s with coll := { s.coll with nodes := Tab.upd {} s.coll.nodes lead f } }

/-! ## Waybills (R81 to R83) -/

/-- Descriptor fields of a waybill's bytes. -/
def wbColl (b : List Byte) : Nat := leAt b 0 4
def wbDesc (b : List Byte) (hi lo : Nat) : Nat := bits (leAt b 8 4) hi lo
def wbFurrow (b : List Byte) : Nat := wbDesc b 31 24
def wbHalf (b : List Byte) : Nat := wbDesc b 23 22
def wbRedop (b : List Byte) : Nat := wbDesc b 15 12
def wbIn (b : List Byte) : Nat := wbDesc b 11 8
def wbOut (b : List Byte) : Nat := wbDesc b 7 4
def wbShift (b : List Byte) : Nat := bits (leAt b 16 4) 23 16
def wbIdx (b : List Byte) : Nat := bits (leAt b 16 4) 15 0
def wbMembers (b : List Byte) : Nat := bits (leAt b 24 4) 24 0
def wbOrd (b : List Byte) : Nat := bits (leAt b 28 4) 23 0
def wbCount (b : List Byte) : Nat := leAt b 32 8
def wbSeed (b : List Byte) : Nat := leAt b 40 8
def wbHeadland (b : List Byte) : Nat := leAt b 48 8
def wbHash (b : List Byte) : Nat := leAt b 56 8
def wbSparse (b : List Byte) : Bool := wbHalf b == 0 && wbRedop b == 6

/-- DESC_HASH (R82). -/
def descHash (b : List Byte) : Nat :=
  let h := mix64 (0x6A09E667F3BCC908 ^^^ (wbColl b + leAt b 8 4 * 2 ^ 32))
  let h := mix64 (h ^^^ (leAt b 16 4 + leAt b 24 4 * 2 ^ 32))
  let h := mix64 (h ^^^ (if wbDesc b 21 21 = 1 then 0 else wbCount b))
  mix64 (mix64 (h ^^^ wbSeed b) ^^^ wbHeadland b)

/-- Table 2-5 and R31: operation, formats, rounding. -/
def comboOk (redop ein eout rmode iovf : Nat) : Bool :=
  let flt := decide (ein ≤ 4)
  let sum := redop == 0 || redop == 6
  decide (redop ≤ 6) && decide (ein ≤ 7) &&
    (if sum then (if flt then decide (eout ≤ 4) else ein != 7 && eout == ein)
     else eout == ein && (decide (redop ≤ 2) || !flt)) &&
    decide (rmode ≤ 2) && (rmode == 0 || (sum && flt)) && (iovf == 0 || (redop == 0 && !flt))

/-- Pairs of a raw chunk of a SUM_SPARSE stream (R104). -/
def rawPairs (et : Nat) : Nat := if et = 6 then 896 else 1792

/-- The checks of a member's port on a waybill from `src` (R32, R56, R76, R81, R83, R104). -/
def billOk (s : State) (src : Addr) (b : List Byte) : Bool :=
  let f := wbFurrow b
  let inv (i j : Nat) : Bool := leAt b i 4 + leAt b j 4 == 0xFFFFFFFF
  let ag := wbHalf b == 1
  b.length == 64 && inv 0 4 && inv 8 12 && inv 16 20 && wbHash b == descHash b && decide (wbHalf b ≤ 1) &&
    wbDesc b 17 16 == 0 && wbDesc b 3 0 == 0 && bits (leAt b 16 4) 31 24 == 0 && bits (leAt b 24 4) 31 25 == 0 &&
    bits (leAt b 28 4) 31 24 == 0 && decide (wbCount b < 2 ^ 40) && decide (wbShift b ≤ 31) &&
    (if ag then wbRedop b == 0 && wbDesc b 19 18 == 0 && wbDesc b 20 20 == 0 && wbOut b == wbIn b && decide (wbIn b ≤ 7)
     else comboOk (wbRedop b) (wbIn b) (wbOut b) (wbDesc b 19 18) (wbDesc b 20 20) && (wbDesc b 21 21 == 0 || wbRedop b == 6)) &&
    (wbShift b == 0 || wbSparse b) && (wbSeed b == 0 || wbDesc b 19 18 == 2) &&
    decide (wbOrd b < wbMembers b) && decide (wbMembers b ≤ 2 ^ 24) && isReduce s f && wbMembers b == furrowFld s f 1 &&
    memberWord s f (wbOrd b) == src.toNat &&
    (if wbSparse b then decide (wbCount b ≤ 2 ^ 27 * rawPairs (wbIn b))
     else ag || decide (cdiv (wbCount b) (max (furrowFld s f 4) 1) ≤ 2 ^ 27 * 1792))

end Sys2Proof.Machine
end

