-- ==== Sys2Proof/Machine/MemberPort.lean ====
section
/-!
DEFINITION. The port where a member attaches (03): abort requests, chunk credits, the cut of streams into chunks, and what
the port checks, splits and holds back of COL packets.
-/

namespace Sys2Proof.Machine
open Sys2Proof

/-- A packet taken by the unit it was handed to. -/
def taken (s : State) (k : Pkt) : State := { s with delivered := s.delivered.eraseP fun d => d.p == k }

/-! ## Requests to roots -/

/-- Requester ID under which a slot's outputs are lodged (12 Table 12-3): slots 2,048 on are threshers of the East die. -/
def slotUnit (slot : Nat) : Nat := ownUnit (slot / 2048)

/-- Requester ID under which a port sends of its own (12 Table 12-3). -/
def portUnit (n : Nat) : Nat := ownUnit (dieOf n)

/-- A packet of a unit of this device to a device or member. -/
def sendCol (s : State) (unit : Nat) (dst : Addr) (op : BitVec 5) (seq coll : Nat) (payload : List Byte) : State :=
  originate s unit dst 7 op (BitVec.ofNat 32 seq) (BitVec.ofNat 32 coll) payload

/-- One abort request (11 Table 11-3): to device `dev`, for the root of a range. -/
def abortTo (s : State) (unit dev coll i range : Nat) (code : Half) : State :=
  sendCol s unit (addr dev 0) pColAbort 0 coll (pack 8 [(0, 2, code.toNat), (2, 2, i), (4, 2, range)])

/-- An abort request to the root of every range of a collective (R84, R87). -/
def askAbort (s : State) (unit coll : Nat) (code : Half) : State :=
  match collPlace s coll with
  | none => s
  | some (f, i) => (rootsOf s f).foldl (fun s n => abortTo s unit n.device coll i n.range code) s

/-- A COL_OUTCOME payload (Table 3-6). -/
def outcomeBytes (coll idx status flags fault range chunks crop headland : Nat) : List Byte :=
  pack 32 [(0, 4, coll), (4, 2, idx), (6, 1, status), (7, 1, flags), (8, 2, fault), (10, 2, range), (12, 4, chunks),
    (16, 8, crop), (24, 8, headland)]

/-- The node whose slots take a member's waybills and data for a range (log 58). -/
def leafNode (s : State) (f r : Nat) : Option NodeRec :=
  let ns := (nodeRecs s f).filter fun n => n.range == r
  let leaf (n : NodeRec) : Bool := (childNodesOf s f n).isEmpty
  let here (n : NodeRec) : Bool := n.device == s.plan.deviceId.toNat
  (ns.find? fun n => here n && leaf n) <|> (ns.find? here) <|> (ns.find? leaf)

/-! ## Chunk credits (R80) -/

/-- A slot of a device as the senders of its chunks know it. -/
def sinkOfSlot (dev slot : Nat) : Nat := 4096 * dev + slot

def creditsUsed (s : State) (owner sink : Nat) : Nat :=
  ((s.coll.credits.find? fun c => c.1 == owner && c.2.1 == sink).map (·.2.2)).getD 0

/-- Credits in use changed. -/
def useCredits (s : State) (owner sink n : Nat) : State :=
  { s with coll := { s.coll with credits :=
      (s.coll.credits.filter fun c => !(c.1 == owner && c.2.1 == sink)) ++ (if n = 0 then [] else [(owner, sink, n)]) } }

/-- Credits of a slot returned to a child (R80). -/
def giveCredit (s : State) (coll slot : Nat) (dst : Addr) (count : Nat) : State :=
  sendCol s (slotUnit slot) dst pColCredit 0 coll (pack 8 [(0, 2, slot), (2, 2, count)])

/-- COLL_ID of the packets of a chunk. -/
def OutChunk.coll (o : OutChunk) : Nat := (o.pkts.head?.map fun p => p.fcid.toNat).getD 0

/-- Requester ID of a sender of chunks: a plot, an endpoint's port, a slot, the engine of the stack that
holds a feed's chunk. -/
def ownerUnit (s : State) (o : OutChunk) : Nat :=
  if 2 ^ 26 ≤ o.owner then slotUnit (o.owner - 2 ^ 26)
  else if 2 ^ 25 ≤ o.owner then 1218 + o.stack
  else if 2 ^ 24 ≤ o.owner then slotUnit (o.owner - 2 ^ 24)
  else
    let k := localKind s o.owner
    if k.1 = 2 then 1024 + k.2 else o.owner

/-- A chunk leaves: it takes its credit, and the credits of the chunks it was formed from go back (R80). -/
def spendChunk (s : State) (o : OutChunk) : State :=
  let s := o.pkts.foldl (fun s k => send s (ownerUnit s o) k) (if o.free then s else useCredits s o.owner o.sink (creditsUsed s o.owner o.sink + 1))
  o.back.foldl (fun s b => giveCredit s o.coll b.1 b.2 1) s

/-- A chunk sent to a slot, or kept until a credit returns; a sender's chunks to one slot leave in order. The packet that
ends a stream takes no credit (R104). -/
def sendChunk (s : State) (o : OutChunk) : State :=
  if (s.coll.outbox.any fun x => x.owner == o.owner && x.sink == o.sink) || (!o.free && decide (o.window ≤ creditsUsed s o.owner o.sink)) then
    { s with coll := { s.coll with outbox := s.coll.outbox ++ [o] } }
  else spendChunk s o

/-- Every waiting chunk tried again, in order. -/
def flushChunks (s : State) : State := s.coll.outbox.foldl sendChunk { s with coll := { s.coll with outbox := [] } }

/-- COL_CREDIT for a sender of this device: `count` credits of a slot return (R80). The sender is the one at the packet's port
field, else a slot or feed of the device itself. -/
def takeCredits (s : State) (field sink count : Nat) : State :=
  let mine := s.coll.credits.filter fun c => c.2.1 == sink && (c.1 == field || decide (1024 ≤ c.1))
  match mine.find? (fun c => c.1 == field) <|> mine.head? with
  | none => s
  | some c => flushChunks (useCredits s c.1 sink (c.2.2 - count))

/-! ## What several targets share (R74, 12 R368) -/

/-- Packets for several targets: each payload is stored once and every target has its own descriptor. -/
def sendCast (s : State) (unit : Nat) (dsts : List Addr) (ps : List Pkt) : State :=
  ps.foldl (fun s p =>
    let id := s.core.nextCopy
    let s := { s with core := { s.core with nextCopy := id + 1, copies := s.core.copies ++ [{ id, refs := dsts.length, bytes := p.payload }] } }
    dsts.foldl (fun s a =>
      let q := mkPkt p.src a p.vl p.op p.seq p.fcid p.epoch p.payload
      { s with ingress := s.ingress ++ [{ port := none, unit, vl := q.vl, p := { q with payload := [] }, copy := some id }] }) s) s

/-- Bytes of a stored copy. -/
def copyBytes (s : State) (id : Nat) : List Byte := ((s.core.copies.find? fun c => c.id == id).map (·.bytes)).getD []

/-- A lodged packet with its payload. -/
def Lodged.whole (s : State) (l : Lodged) : Pkt :=
  match l.copy with
  | none => l.p
  | some id => { l.p with payload := copyBytes s id }

/-- A queued unit's packet or frame. -/
def Queued.whole (s : State) (u : Queued) : Item :=
  match u.copy, u.item with
  | some id, .pkt p => .pkt { p with payload := copyBytes s id }
  | some id, .frame _ v c => .frame (copyBytes s id) v c
  | none, it => it

/-- Credits whose every output chunk has been sent and read go back (R80). -/
def settleCopies (s : State) : State :=
  let due := s.coll.copyWaits.filter fun w => w.chunks.isEmpty && w.ids.isEmpty
  due.foldl (fun s w => giveCredit s w.coll w.slot w.dst 1)
    { s with coll := { s.coll with copyWaits := s.coll.copyWaits.filter fun w => !(w.chunks.isEmpty && w.ids.isEmpty) } }

/-- The waits changed. -/
def modWaits (s : State) (f : CopyWait → CopyWait) : State := { s with coll := { s.coll with copyWaits := s.coll.copyWaits.map f } }

/-- A target's reference dropped; the last one frees the copy (12 R368). True when none is left. -/
def dropRef (s : State) (id : Nat) : State × Bool :=
  match s.core.copies.find? fun c => c.id == id with
  | none => (s, true)
  | some c =>
    if c.refs ≤ 1 then
      (settleCopies (modWaits { s with core := { s.core with copies := s.core.copies.erase c } } fun w => { w with ids := w.ids.erase id }), true)
    else ({ s with core := { s.core with copies := s.core.copies.map fun x => if x.id == id then { c with refs := c.refs - 1 } else x } }, false)

/-! ## Packets of chunks (R76 to R78, R104) -/

/-- Cell groups packed greedily into payloads of at most 16 cells. -/
def packGroups (gs : List (List Byte)) : List (List Byte) :=
  let r := gs.foldl (fun (a : List (List Byte) × List Byte) g =>
    if a.2.length + g.length ≤ 4096 then (a.1, a.2 ++ g) else (a.1 ++ [a.2], g)) ([], [])
  r.1 ++ [r.2]

/-- Bytes cut into cells of 256, the last one zero-filled. -/
def cutBytes : Nat → List Byte → List (List Byte)
  | 0, _ => []
  | n + 1, bs => if bs.isEmpty then [] else slice bs 0 256 :: cutBytes n (bs.drop 256)

/-- Packets of one chunk: COL_DATA, the last COL_DATA_END. -/
def chunkPkts (s : State) (src dst : Addr) (coll chunk : Nat) (groups : List (List Byte)) : List Pkt :=
  let ps := packGroups groups
  (enum ps).map fun e =>
    mkPkt src dst 7 (if e.1 + 1 = ps.length then pColDataEnd else pColData) (BitVec.ofNat 32 (chunk * 32 + e.1))
      (BitVec.ofNat 32 coll) s.fault.epochMax e.2

/-- The LEN 0 packet that ends a stream (R104). -/
def endPkt (s : State) (src dst : Addr) (coll chunk : Nat) : Pkt :=
  mkPkt src dst 7 pColDataEnd (BitVec.ofNat 32 (chunk * 32)) (BitVec.ofNat 32 coll) s.fault.epochMax []

/-- Element `i` of a packed list of an ETYPE. -/
def codeAt (et : Nat) (bs : List Byte) (i : Nat) : Nat := leAt bs (i * (etypeBits et / 8)) (etypeBits et / 8)

/-- Codes of an ETYPE packed. -/
def packCodes (et : Nat) (cs : List Nat) : List Byte := cs.flatMap fun c => leBytes (etypeBits et / 8) c

/-- Bytes of a pair (Table 3-7). -/
def pairBytes (et : Nat) : Nat := if et = 6 then 16 else 8

/-- A pair in raw form. -/
def packPair (et ix v : Nat) : List Byte := leBytes 4 ix ++ leBytes (if et = 6 then 12 else 4) v

/-! ## Rows of a member (R102) -/

/-- The member's pairs of one packet counted by row; a row above SKEW / 65,536 of the COUNT is split. -/
def countRows (t : RowTab) (ixs : List Nat) : RowTab :=
  ixs.foldl (fun t i =>
    let q := i >>> t.shift
    match t.rows.find? fun r => r.1 == q with
    | some r =>
      let t := { t with rows := t.rows.map fun x => if x.1 == q then (q, r.2 + 1) else x }
      if t.skew * t.count < (r.2 + 1) * 65536 ∧ !t.split.contains q then { t with split := t.split ++ [q] } else t
    | none =>
      if t.rows.length < 1024 then
        let t := { t with rows := t.rows ++ [(q, 1)] }
        if t.skew * t.count < 65536 then { t with split := t.split ++ [q] } else t
      else t) t

/-- Slot position of the next pair of a row: its home slot, or a segment slot once split (R101, R102). -/
def rowSlot (stripe segs : Nat) (t : RowTab) (i : Nat) : Nat :=
  let q := i >>> t.shift
  let home := q % max stripe 1
  if t.split.contains q then (home + 1 + (i >>> 8) % max segs 1) % max stripe 1 else home

/-- The row table of a member's waybill. -/
def newRows (s : State) (member : Nat) (b : List Byte) : RowTab :=
  { member, coll := wbColl b, shift := wbShift b, skew := furrowFld s (wbFurrow b) 5, count := wbCount b, etype := wbIn b,
    rows := [], split := [] }

/-- A port opens the row table of a SUM_SPARSE waybill that leaves it. -/
def openRows (s : State) (member : Nat) (b : List Byte) : State :=
  if wbSparse b then { s with coll := { s.coll with
      rows := (s.coll.rows.filter fun t => !(t.member == member && t.coll == wbColl b)) ++ [newRows s member b] } }
  else s

/-- First element of range `r` (R73). -/
def rangeLo (count ranges r : Nat) : Nat := r * count / max ranges 1

/-- Range of an index of a SUM_SPARSE collective (R73). -/
def sparseRange (ranges i : Nat) : Nat := ((List.range ranges).find? fun r => decide (i < rangeLo (2 ^ 32) ranges (r + 1))).getD 0

/-- The open chunk of a member's stream to a slot position of a range: its number and bytes. -/
def RowTab.openAt (t : RowTab) (r k : Nat) : Nat × List Byte :=
  ((t.open_.find? fun o => o.1 == r && o.2.1 == k).map fun o => o.2.2).getD (0, [])

def RowTab.setOpen (t : RowTab) (r k c : Nat) (bs : List Byte) : RowTab :=
  { t with open_ := (t.open_.filter fun o => !(o.1 == r && o.2.1 == k)) ++ [(r, k, c, bs)] }

/-- One pair of a member's stream: its row is counted, and it joins the stream of its slot; a full chunk is closed (R102, R104).
`out` makes the chunk of a stream. -/
def takePair (s : State) (f : Nat) (out : Nat → Nat → Nat → List Byte → List OutChunk) (a : RowTab × List OutChunk) (pr : List Byte) :
    RowTab × List OutChunk :=
  let i := leAt pr 0 4
  let r := sparseRange (furrowFld s f 4) i
  let t := a.1
  let k := rowSlot (((leafNode s f r).map (·.stripe)).getD 1) (furrowFld s f 6) t i
  let o := t.openAt r k
  let t := { countRows t [i] with seen := t.seen + 1 }
  if o.2.length + pr.length = rawPairs t.etype * pairBytes t.etype then (t.setOpen r k (o.1 + 1) [], a.2 ++ out r k o.1 (o.2 ++ pr))
  else (t.setOpen r k o.1 (o.2 ++ pr), a.2)

/-- The chunk of a member's stream to a slot position of a range; `last` is the LEN 0 packet that ends it. -/
def streamChunk (s : State) (owner : Nat) (src : Addr) (f coll r k c : Nat) (last : Bool) (bs : List Byte) : List OutChunk :=
  match leafNode s f r with
  | none => []
  | some n =>
    let dst := addr n.device 0
    [{ owner, sink := sinkOfSlot n.device (n.lead + 32 * k), window := n.window, free := last
       pkts := if last then [endPkt s src dst coll c] else chunkPkts s src dst coll c (cutBytes 65536 bs) }]

/-- What is left of every stream of a member, and the packets that end them (R104). -/
def closeStreams (s : State) (owner : Nat) (src : Addr) (f : Nat) (t : RowTab) : List OutChunk :=
  (List.range (furrowFld s f 4)).flatMap fun r =>
    (List.range (max (((leafNode s f r).map (·.stripe)).getD 0) 1)).flatMap fun k =>
      let o := t.openAt r k
      let one (c : Nat) (last : Bool) (bs : List Byte) := streamChunk s owner src f t.coll r k c last bs
      if o.2.isEmpty then one o.1 true [] else one o.1 false o.2 ++ one (o.1 + 1) true []

/-- Pairs of a SUM_SPARSE member pass its port: counted against COUNT, split among the slots' streams, and held back where a
stream's credits are spent (R99, R102, R104). -/
def streamPairsOut (s : State) (owner : Nat) (src : Addr) (f coll : Nat) (prs : List (List Byte)) : State :=
  match s.coll.rows.find? fun t => t.member == src.toNat && t.coll == coll with
  | none => s
  | some t =>
    if t.count ≤ t.seen then s
    else
      let out (r k c : Nat) (bs : List Byte) := streamChunk s owner src f coll r k c false bs
      let a := (prs.take (t.count - t.seen)).foldl (takePair s f out) (t, [])
      let os := if t.count ≤ a.1.seen then a.2 ++ closeStreams s owner src f a.1 else a.2
      let s := { s with coll := { s.coll with rows := s.coll.rows.map fun x => if x == t then a.1 else x } }
      os.foldl sendChunk s

/-- Pairs of a raw payload, the zero fill among them. -/
def rawPairBytes (et : Nat) (bs : List Byte) : List (List Byte) :=
  (List.range (bs.length / pairBytes et)).map fun i => slice bs (i * pairBytes et) (pairBytes et)

/-! ## COL packets at a member's port -/

/-- What a member's port does with a COL packet: it passes, is discarded or taken in, or waits at its source for a credit. -/
inductive PortSays
  | pass | drop | wait
  deriving DecidableEq, Repr

/-- A chunk of an endpoint to a slot of its leaf: its first packet takes a credit of the stream, or waits for one (R80). -/
def chunkCredit (s : State) (n f : Nat) (p : Pkt) : State × PortSays :=
  let c := p.seq.toNat / 32
  match ((List.range (max 1 (furrowFld s f 4))).filterMap (leafNode s f)).find? fun m => m.device == devOf p.dst with
  | none => (s, .pass)
  | some m =>
    let sink := sinkOfSlot m.device (m.slotOf c)
    if p.seq.toNat % 32 ≠ 0 then (s, .pass)
    else if m.window ≤ creditsUsed s n sink then (s, .wait)
    else (useCredits s n sink (creditsUsed s n sink + 1), .pass)

/-- A granted data packet of an endpoint: SUM_SPARSE pairs are split here, a chunk of any other operation takes its credit. -/
def portData (s : State) (n : Nat) (p : Pkt) : State × PortSays :=
  let coll := p.fcid.toNat
  match collPlace s coll with
  | none => (s, .pass)
  | some (f, _) =>
    match s.coll.rows.find? fun t => t.member == p.src.toNat && t.coll == coll with
    | some t => (streamPairsOut s n p.src f coll (rawPairBytes t.etype p.payload), .drop)
    | none => chunkCredit s n f p

/-- A movement packet passes only to the destination of its source (R69, R70). -/
def moveOk (s : State) (p : Pkt) : Bool :=
  let f := p.fcid.toNat
  let ords := (enum (furrowTab s f 0)).filterMap fun e => if e.2.getD 0 0 = p.src.toNat then some e.1 else none
  decide (f < 256) && (furrowFld s f 0 == 1 || furrowFld s f 0 == 2) && ords.any fun i => memberAddr (destWord s f i) == p.dst

/-- What a member's port checks of a COL packet on its way in (R70, R83, R87). A waybill whose header names another collective
than its body is no waybill of either: WAYBILL_FORMAT, and the collective of the header is aborted (log 94). -/
def portCol (s : State) (n : Nat) (p : Pkt) : State × PortSays :=
  let coll := p.fcid.toNat
  if p.op = pColWaybill then
    if billOk s p.src p.payload && coll == wbColl p.payload then (openRows s p.src.toNat p.payload, .pass)
    else (askAbort (raise s fWaybillFormat uPort n) (portUnit n) coll fWaybillFormat, .drop)
  else if p.op = pColData ∨ p.op = pColDataEnd then
    if s.coll.grants.contains (p.src.toNat, coll) then portData s n p
    else (askAbort (raise s fCollUngranted uPort n) (portUnit n) coll fCollUngranted, .drop)
  else if p.op = pMoveData then
    if moveOk s p then (s, .pass)
    else (originate (raise s fFurrowRoute uPort n) (portUnit n) p.src 7 pMoveDone p.seq p.fcid (pack 16 [(0, 2, fFurrowRoute.toNat)]), .drop)
  else (s, .pass)

/-- The slots of a furrow's nodes, as senders know them. -/
def furrowSinks (s : State) (f : Nat) : List Nat :=
  (nodeRecs s f).flatMap fun n => (List.range (max n.stripe 1)).map fun j => sinkOfSlot n.device (n.lead + 32 * j)

/-- An aborted collective sends nothing more and holds no credit at some senders of this device (R96). -/
def endSenders (s : State) (f coll : Nat) (mine : Nat → Bool) : State :=
  let sinks := furrowSinks s f
  { s with coll := { s.coll with
      outbox := s.coll.outbox.filter fun o => !(mine o.owner && o.coll == coll)
      credits := s.coll.credits.filter fun c => !(mine c.1 && sinks.contains c.2.1) } }

/-- A grant passes the port of an endpoint member (R87), credits return to its streams (R104), and an outcome ends what the port
keeps. -/
def passMember (s : State) (p : Pkt) : State :=
  let k := (p.dst.toNat, p.fcid.toNat)
  if p.op = pColGrant then
    { s with coll := { s.coll with grants := if s.coll.grants.contains k then s.coll.grants else s.coll.grants ++ [k] } }
  else if p.op = pColCredit then takeCredits s (fieldOf p.dst) (sinkOfSlot (devOf p.src) (leAt p.payload 0 2 % 4096)) (leAt p.payload 2 2)
  else if p.op = pColOutcome then
    let s := { s with coll := { s.coll with
        grants := s.coll.grants.filter fun g => g != k
        rows := s.coll.rows.filter fun t => !(t.member == k.1 && t.coll == k.2) } }
    match collPlace s k.2 with
    | some (f, _) => if leAt p.payload 6 1 = 1 then endSenders s f k.2 fun o => o == fieldOf p.dst else s
    | none => s
  else s

/-- A COL packet whose port field has an attached endpoint goes to it when the furrow has it as a member
(11 R344); every other one goes to a unit of the device. -/
def colToPort (s : State) (p : Pkt) : Bool :=
  let f := if p.op = pMoveData ∨ p.op = pMoveDone then some (p.fcid.toNat % 256) else (collPlace s p.fcid.toNat).map (·.1)
  match f with
  | some f => isMember s f p.dst && p.op != pColWaybill && p.op != pColAbort && !(f ≥ 32 && (toStage s p).isSome)
  | none => false

/-- The furrow tables give a COL packet for port field 0 to the update path or a stage of this device (11 R344, log 97). -/
def toUnit (s : State) (p : Pkt) : Bool :=
  let me (w : Nat) : Bool := bits w 31 28 == 1 && bits w 23 10 == s.plan.deviceId.toNat
  if p.op = pMoveData ∨ p.op = pMoveDone then (toStage s p).isSome
  else match collPlace s p.fcid.toNat with
    | some (f, _) => fieldOf p.dst == 0 && !isMember s f p.dst &&
        ((furrowTab s f 0).any (fun e => me (e.getD 0 0)) || (furrowTab s f 2).any fun e => me (e.getD 0 0))
    | none => false

/-- Cells of a movement furrow on their way to one destination here (R71). -/
def windowHeld (s : State) (p : Pkt) : Nat :=
  let mine (q : Pkt) : Bool := q.op == pMoveData && q.fcid == p.fcid && q.dst == p.dst
  let a := ((s.delivered.map (·.p)).filter mine).map cellsOf
  let b := (s.outq.filterMap fun u => match u.item with | .pkt q => if mine q then some (cellsOf q) else none | .frame _ _ _ => none)
  (a ++ b).foldl (· + ·) 0

/-- A MOVE_DATA packet finds room in the furrow's RECV_WINDOW at its destination (R71); one larger than the window goes alone. -/
def windowFits (s : State) (p : Pkt) : Bool :=
  p.op != pMoveData || windowHeld s p == 0 || decide (windowHeld s p + cellsOf p ≤ furrowFld s (p.fcid.toNat % 256) 3)

end Sys2Proof.Machine
end

