-- ==== Sys2Proof/Machine/Sched.lean ====
section
/-!
DEFINITION. Queue service, shapers and policers (13).
-/

namespace Sys2Proof.Machine
open Sys2Proof

/-- State of queue `q` of a port. -/
def qSt (s : State) (n q : Nat) : QState := Tab.get {} s.sched.q (16 * n + q)

/-- State of a port's shaper. -/
def pShaper (s : State) (n : Nat) : QState := Tab.get {} s.sched.port n

/-- The weight in effect: 1 without a record (R390). -/
def QState.w (x : QState) : Nat := max 1 x.weight

/-- Bytes charged for a unit (R381). -/
def chargeOf (it : Item) (edge : Bool) (frameLen : Nat) : Nat :=
  match it with
  | .pkt _ => if edge then frameLen + 20 else 256
  | .frame _ _ _ => frameLen + 20

/-- R383: the queue's own shaper and the port's let it send. -/
def eligible (s : State) (n q : Nat) : Bool :=
  let x := qSt s n q
  let p := pShaper s n
  (!x.shaped || (decide (0 < x.rate) && decide (0 ≤ x.t))) && (!p.shaped || decide (0 ≤ p.t))

/-- Tokens taken for a unit sent from queue `q` (R382, R383). -/
def chargeShapers (s : State) (n q bytes : Nat) : State :=
  let cut (x : QState) : QState := if x.shaped then { x with t := x.t - 600 * bytes } else x
  { s with sched := { s.sched with q := Tab.upd {} s.sched.q (16 * n + q) cut, port := Tab.upd {} s.sched.port n cut } }

/-- First unit of a queue. -/
def headOf (s : State) (n q : Nat) : Option Queued := s.outq.find? fun u => u.port == n && u.queue == q

/-- Priorities a queue of an EDGE port carries: those of layer-2 frames (PCP_Q) and those of the Selnan
VLs that use it (VL_PCP) (10 R323, 13 R377). -/
def queueCarriesPcp (s : State) (n q p : Nat) : Bool :=
  bits (portFld s n 15) (4 * p + 3) (4 * p) == q ||
    (List.range 10).any fun v => carries s n (BitVec.ofNat 4 v) && vlFld s (BitVec.ofNat 4 v) 2 == q &&
      bits (portFld s n 16) (3 * v + 2) (3 * v) == p

/-- A received PFC or pause frame stops the queue (10 R323). -/
def queuePaused (s : State) (n q : Nat) : Bool :=
  (port s n).pauseAll ||
    (List.range 8).any fun p => bit (port s n).paused.toNat p && queueCarriesPcp s n q p

/-- The queue's first unit is ready (R379): no other packet of its VL is part-way sent. -/
def queueReady (s : State) (n q : Nat) : Bool :=
  match headOf s n q with
  | none => false
  | some u =>
    if isEdge s n then !queuePaused s n q
    else decide (0 < u.sent) || !s.outq.any fun v => v.port == n && v.vl == u.vl && decide (0 < v.sent)

/-- The next weighted queue (R381). -/
def nextQ (q : Nat) : Nat := if q = 15 then 4 else q + 1

/-- Deficit round robin over at most `k` queues from the pointer: the queue served, if any (R381). -/
def serveWeighted (charge : Nat → Nat) (n : Nat) : Nat → State → State × Option Nat
  | 0, s => (s, none)
  | k + 1, s =>
    let q := Tab.get 4 s.sched.ptr n
    if queueReady s n q && eligible s n q then
      if charge q ≤ (qSt s n q).d then
        ({ s with sched := { s.sched with q := Tab.upd {} s.sched.q (16 * n + q) fun x => { x with d := x.d - charge q } } }, some q)
      else
        serveWeighted charge n k
          { s with sched := { s.sched with
              q := Tab.upd {} s.sched.q (16 * n + q) (fun x => { x with d := x.d + QState.w x * 256 })
              ptr := Tab.set 4 s.sched.ptr n (nextQ q) } }
    else serveWeighted charge n k { s with sched := { s.sched with ptr := Tab.set 4 s.sched.ptr n (nextQ q) } }

/-- The queue to serve at a unit time (R380): strict queues 0 to 3, then the weighted group. VL0 never
waits for the shaper of queue 0 or of the port (R383). -/
def pickQueue (charge : Nat → Nat) (s : State) (n : Nat) : State × Option Nat :=
  let vl0 := match headOf s n 0 with
    | some u => u.vl == 0 && !isEdge s n
    | none => false
  match (List.range 4).find? fun q => queueReady s n q && (eligible s n q || (q == 0 && vl0)) with
  | some q => (s, some q)
  | none => serveWeighted charge n 12 s

/-- An emptied queue's deficit is 0 (R381). -/
def settleDeficit (s : State) (n q : Nat) : State :=
  if (headOf s n q).isSome then s
  else { s with sched := { s.sched with q := Tab.upd {} s.sched.q (16 * n + q) fun x => { x with d := 0 } } }

/-- A bucket at a refill under the record now in force: RATE, BURST (R382, R384, R385). -/
def refillShaper (x : QState) (rate burst : Nat) : QState :=
  let t : Int := if x.shaped then min (x.t + rate * 8) (burst * 600) else burst * 600
  { x with shaped := true, rate, burst, t }

/-- Queue states after a refill: settings of the committed plan take effect here (R385). -/
def refillQueues (s : State) : Tab QState :=
  let recs := planRecs s 0x06 0x01
  let kept := s.sched.q.filter fun e => !recs.any fun r => r.index == e.1
  let base := kept.foldl (fun t e => Tab.set {} t e.1 { d := e.2.d }) ([] : Tab QState)
  recs.foldl (fun t r =>
    let x := Tab.get {} s.sched.q r.index
    let x := { x with weight := r.fld 1 }
    Tab.set {} t r.index (if r.fld 0 = 1 then refillShaper x (r.fld 2) (r.fld 3)
                          else { x with shaped := false, rate := 0, burst := 0, t := 0 })) base

/-- Port shapers after a refill. -/
def refillPorts (s : State) : Tab QState :=
  (planRecs s 0x06 0x02).foldl (fun t r =>
    Tab.set {} t r.index (refillShaper (Tab.get {} s.sched.port r.index) (r.fld 0) (r.fld 1))) []

/-- A policer's buckets filled: MODE, AWARE, RED_DROP, CIR, CBS, PIR, EBS_PBS, PRECOLOUR (R387). -/
def polFull (r : PlanRec) : PolState := { on := true, fields := r.fields, c := r.fld 4 * 600, e := r.fld 6 * 600 }

/-- A policer refilled (R387): under RFC 2697 the C bucket first, its overflow into E. -/
def refillPol (x : PolState) (r : PlanRec) : PolState :=
  if !x.on then polFull r
  else if r.fld 0 = 0 then
    let sum := x.c + r.fld 3 * 8
    { on := true, fields := r.fields, c := min sum (r.fld 4 * 600), e := min (x.e + (sum - r.fld 4 * 600)) (r.fld 6 * 600) }
  else
    { on := true, fields := r.fields, c := min (x.c + r.fld 3 * 8) (r.fld 4 * 600), e := min (x.e + r.fld 5 * 8) (r.fld 6 * 600) }

/-- Policers after a refill. -/
def refillPols (s : State) : Tab PolState :=
  (planRecs s 0x06 0x03).foldl (fun t r => Tab.set {} t r.index (refillPol (Tab.get {} s.sched.pol r.index) r)) []

/-- REFILL (R382, R385): every bucket of both dies. -/
def execRefill (s : State) : Out :=
  event s fun s => { s with sched := { s.sched with q := refillQueues s, port := refillPorts s, pol := refillPols s } }

/-- A meter's colour of `b` bucket units for a packet of pre-colour `pre`, and the buckets after it
(RFC 2697, RFC 2698). -/
def meter (x : PolState) (pre b : Nat) : Nat × PolState :=
  let pre := if x.fields.getD 1 0 = 1 then pre else 0
  if x.fields.getD 0 0 = 0 then
    if pre = 0 ∧ b ≤ x.c then (0, { x with c := x.c - b })
    else if pre ≤ 1 ∧ b ≤ x.e then (1, { x with e := x.e - b })
    else (2, x)
  else if pre = 2 ∨ x.e < b then (2, x)
  else if pre = 1 ∨ x.c < b then (1, { x with e := x.e - b })
  else (0, { x with c := x.c - b, e := x.e - b })

/-- The policer of (port, selector) applied to `bytes`: the colour, counted (R386, R388, Table 13-3). -/
def police (s : State) (n sel pre bytes : Nat) : State × Nat :=
  let x := Tab.get {} s.sched.pol (16 * n + sel)
  if !x.on then (s, 0)
  else
    let (col, x') := meter x pre (bytes * 600)
    let s := { s with sched := { s.sched with pol := Tab.set {} s.sched.pol (16 * n + sel) x' } }
    (modPort s n fun p =>
      if col = 1 then { p with yellow := satInc p.yellow }
      else if col = 2 then { p with red := satInc p.red } else p, col)

/-- RED_DROP of a (port, PCP) policer (Table 13-2). -/
def redDrop (s : State) (n sel : Nat) : Bool := (Tab.get {} s.sched.pol (16 * n + sel)).fields.getD 2 0 == 1

end Sys2Proof.Machine
end

