-- ==== Sys2Proof/Machine/Route.lean ====
section
/-!
DEFINITION. Lookup, dispatch and transmission of packets (11, 12 R356 to R358, R373, R374).
-/

namespace Sys2Proof.Machine
open Sys2Proof

/-! ## The gleaner -/

/-- A sample of `bytes` taken into its die's buffer of 64, or lost (12 R373, R374). `dir` is 0 ingress,
1 egress; `vl` is 9 for a layer-2 frame. -/
def takeSample (s : State) (n dir vl : Nat) (bytes : List Byte) : State :=
  let s := nFlag s 4
  let g := s.glean
  let buf := if dieOf n = 0 then g.bufW else g.bufE
  if 64 ≤ buf.length then
    { s with glean := { g with lost := satInc g.lost, lostSince := g.lostSince + 1, seq := g.seq + 1 } }
  else
    let e := pack 32 [(0, 8, s.clk.timebase.toNat), (8, 4, g.seq.toNat),
      (12, 2, vl * 4096 + (if vl = 9 then 2048 else 0) + dir * 1024 + n), (16, 4, bytes.length)] ++ slice bytes 0 128
    let g := { g with seq := g.seq + 1 }
    { s with glean := if dieOf n = 0 then { g with bufW := buf ++ [e] } else { g with bufE := buf ++ [e] } }

/-- A packet or frame crosses a port: counted, and sampled when the count reaches N (R373). -/
def glean (s : State) (n dir vl : Nat) (bytes : List Byte) : State :=
  match planRec s 0x05 0x03 n with
  | none => s
  | some r =>
    if bit (r.fld 1) dir && bit (r.fld 2) vl then
      let c := Tab.get 0 s.glean.count (2 * n + dir) + 1
      if r.fld 0 ≤ c then
        takeSample { s with glean := { s.glean with count := Tab.set 0 s.glean.count (2 * n + dir) 0 } } n dir vl bytes
      else { s with glean := { s.glean with count := Tab.set 0 s.glean.count (2 * n + dir) c } }
    else s

/-! ## Lodging -/

/-- Class of a VL (11 Table 11-4); none for VL9 and above. -/
def vlClass (vl : BitVec 4) : Option Nat :=
  let n := vl.toNat
  if n = 0 then some 0 else if n ≤ 2 then some 1 else if n ≤ 4 then some 2 else if n ≤ 6 then some 3
  else if n ≤ 8 then some 4 else none

/-- The escape VLs are 2, 4, 6 and 8. -/
def isEscapeVl (vl : BitVec 4) : Bool := vl == 2 || vl == 4 || vl == 6 || vl == 8

/-- The class test of R330: request OPs may be FWD only where the peer declared ROLE DEVICE. -/
def classOk (s : State) (n : Nat) (p : Pkt) : Bool :=
  match opClass p.op, vlClass p.vl with
  | some 1, some 2 => isFabric s n && (peerDevice s n).isSome
  | some a, some b => a == b
  | _, _ => false

/-- The header checks of R330 for a packet of an ingress port. -/
def headerOk (s : State) (n : Nat) (p : Pkt) : Bool :=
  p.dstN == ~~~p.dst && p.seqN == ~~~p.seq && p.hcrc == Pkt.crc p && classOk s n p && decide (p.vl.toNat ≤ 8) &&
    carries s n p.vl && decide (p.len.toNat ≤ 1024)

/-- The port attaches an endpoint: an EDGE port, or a peer that declared ROLE ENDPOINT. -/
def endpointPort (s : State) (n : Nat) : Bool := isEdge s n || (port s n).peerEndpoint

/-- R333: a packet of an endpoint port carries that port's address as SRC. -/
def srcOk (s : State) (n : Nat) (p : Pkt) : Bool := !endpointPort s n || p.src == addr s.plan.deviceId.toNat n

/-- Die on which a lodged packet lies: that of its port or of the unit that originated it (12 R355). -/
def lodgedDie (s : State) (l : Lodged) : Nat := reqDie s ((l.port).getD l.unit)

/-- Rooms an EDGE port's lodging holds, given back (12 R367), which may end an XOFF (10 R323). -/
def releaseEdge (s : State) (n pcp cells : Nat) : State :=
  settleDie { s with core := { s.core with edge := Tab.upd 0 s.core.edge (8 * n + pcp) (· - cells) } } (dieOf n)

/-- A packet's lodging released: credits to a FABRIC port's peer, cells to an EDGE account (11 R329). -/
def releaseLodging (s : State) (n : Option Nat) (vl : BitVec 4) (pcp : Nat) (it : Item) : State :=
  match n with
  | none => s
  | some n =>
    match it with
    | .pkt p => if isEdge s n then releaseEdge s n pcp (cellsOf p) else returnCredits s n vl (flitsOf p)
    | .frame b _ _ => releaseEdge s n pcp (cdiv b.length 256)

/-- What a descriptor held of the lodging is given back: at once, or with the last reference to a stored copy (12 R367, R368). -/
def releaseRef (s : State) (copy : Option Nat) (n : Option Nat) (vl : BitVec 4) (pcp : Nat) (it : Item) : State :=
  match copy with
  | none => releaseLodging s n vl pcp it
  | some id => let r := dropRef s id; if r.2 then releaseLodging r.1 n vl pcp it else r.1

/-- The lodged packet taken out of lodging and discarded. -/
def dropLodged (s : State) (l : Lodged) : State :=
  releaseRef { s with ingress := s.ingress.erase l } l.copy l.port l.vl l.pcp (.pkt l.p)

/-- The packet at the head of a VL of a port (R371). Of the device's own packets, which no rule orders, it is the `k`-th of the VL. -/
def headLodged (s : State) (n : Option Nat) (vl : BitVec 4) (k : Nat) : Option Lodged :=
  (s.ingress.filter fun l => l.port == n && l.vl == vl)[if n.isNone then k else 0]?

/-- A lodged packet replaced in place. -/
def setLodged (s : State) (l l' : Lodged) : State :=
  { s with ingress := s.ingress.map fun x => if x == l then l' else x }

/-- What becomes of a signpost whose own copy fails at lookup (R339): repaired from the other die's, or
treated as NONE until a commit rewrites it. -/
def signpostCheck (s : State) (dev : Nat) (e : Ecc) : State :=
  match e with
  | .ok => s
  | .ce => raise s fSignpostCe uDevice 0
  | .ue =>
    if s.route.bad.contains dev then s
    else raise { s with route := { s.route with bad := s.route.bad ++ [dev] } } fSignpostCheck uDevice 0

/-- The same for the local port table's entry of a packet to this device (R336, R339). -/
def localCheck (s : State) (dst : Addr) (e : Ecc) : State :=
  if devOf dst ≠ s.plan.deviceId.toNat then s
  else
    match e with
    | .ok => s
    | .ce => raise s fSignpostCe uDevice 0
    | .ue =>
      if s.route.badLocal.contains (fieldOf dst) then s
      else raise { s with route := { s.route with badLocal := s.route.badLocal ++ [fieldOf dst] } } fSignpostCheck uDevice 0

/-- Both entries a lookup reads. -/
def lookupChecks (s : State) (dst : Addr) (chk lchk : Ecc) : State := localCheck (signpostCheck s (devOf dst) chk) dst lchk

/-- PACKET_LOOKUP (R340): memory packets of endpoint ports first pass their own commands (14 R401, R414); checks of R330, R333, R315 and of COL packets from members, policing, then lookup of the head of a VL.
`chk` and `lchk` are how the complement checks of the signpost and the local entry went. -/
def packetLookup (n : Option Nat) (vl : BitVec 4) (k : Nat) (chk lchk : Ecc) (s : State) : State :=
  match headLodged s n vl k with
  | none => s
  | some l =>
    if l.looked then s
    else
      match n with
      | none =>
        if isRequest l.p.op && decide (l.p.vl.toNat ≤ 2) && !l.checked then s
        else setLodged (lookupChecks s l.p.dst chk lchk) l { l with looked := true }
      | some k =>
        if !(l.vl == l.p.vl && headerOk s k l.p && srcOk s k l.p) then
          let s := modRoute s (dieOf k) fun r => { r with hdr := satInc r.hdr }
          raise (dropLodged s l) fHdrCheck uPort k
        else if (port s k).peerEndpoint && l.p.vl == 0 then
          dropLodged (modPort s k fun p => { p with edgeRefused := satInc p.edgeRefused }) l
        else
          let (s, verdict) := if endpointPort s k then portCol s k l.p else (s, .pass)
          if verdict = .drop then dropLodged s l
          else if verdict = .wait then s
          else if endpointPort s k && isMemOp l.p.op && !l.checked then s
          else
            let (s, col) :=
              if isEdge s k then (s, l.colour)
              else if l.p.vl = 0 then (s, 0)
              else police s k l.p.vl.toNat 0 (32 + 4 * l.p.len.toNat)
            setLodged (lookupChecks s l.p.dst chk lchk) l { l with looked := true, colour := col }

def execPacketLookup (n : Option (BitVec 10)) (q : QueuePlace) (chk : LookupChecks) (s : State) : Out :=
  event s (packetLookup (n.map (·.toNat)) q.vl q.k chk.signpost chk.localPort)

/-- ESC_AFTER: the head of a main VL has waited, so its escape port becomes eligible (R341). -/
def escAfter (n : Option Nat) (vl : BitVec 4) (k : Nat) (s : State) : State :=
  match headLodged s n vl k with
  | some l => if l.looked && !isEscapeVl vl && vl != 0 then setLodged s l { l with escaped := true } else s
  | none => s

def execEscAfter (n : Option (BitVec 10)) (q : QueuePlace) (s : State) : Out := event s (escAfter (n.map (·.toNat)) q.vl q.k)

/-! ## Dispatch -/

/-- The signpost words of a destination device, none when NONE or failed (Table 11-6, R339). -/
def signpost (s : State) (dev : Nat) : Option PlanRec :=
  if s.route.bad.contains dev then none
  else (planRec s 0x03 0x01 dev).filter fun r => bits (r.fld 0) 31 30 != 0

/-- Candidate ports of a signpost. -/
def candidates (r : PlanRec) : List Nat :=
  (List.range (bits (r.fld 0) 29 26)).map fun c =>
    if c % 2 = 0 then bits (r.fld (c / 2 + 1)) 9 0 else bits (r.fld (c / 2 + 1)) 25 16

/-- HOP_LIMIT and ESC of a signpost. -/
def hopLimit (r : PlanRec) : Nat := bits (r.fld 0) 25 22
def escPort (r : PlanRec) : Nat := bits (r.fld 0) 9 0

/-- Queue of a VL at an output (13 R377), red packets in queue 15 (R388). -/
def queueOf (s : State) (vl : BitVec 4) (colour : Nat) : Nat := if colour = 2 then 15 else vlFld s vl 2

/-- The queue's shaper rate is above 0 (11 R341). -/
def queueRuns (s : State) (n : Nat) (vl : BitVec 4) : Bool :=
  let x := qSt s n (vlFld s vl 2)
  !x.shaped || decide (0 < x.rate)

/-- R508: a port whose peer device is OPEN carries only packets from or to that device. -/
def openAllows (s : State) (n : Nat) (p : Pkt) : Bool :=
  match peerDevice s n with
  | some d => !devOpen s d || devOf p.src == d || devOf p.dst == d
  | none => true

/-- A usable candidate for a packet of class other than MGT (R341). -/
def usable (s : State) (n : Nat) (vl : BitVec 4) (p : Pkt) : Bool :=
  (port s n).st == .up && !portHedged s n && carries s n vl && queueRuns s n vl && openAllows s n p && gateTakes s n p

/-- Credits held on a VL. -/
def creditsHeld (s : State) (n : Nat) (vl : BitVec 4) : Nat := Tab.get 0 (port s n).credits vl.toNat

/-- Cells queued at a port for a VL. -/
def cellsQueued (s : State) (n : Nat) (vl : BitVec 4) : Nat :=
  ((s.outq.filter fun u => u.port == n && u.vl == vl).map fun u =>
    match u.item with | .pkt p => cellsOf p | .frame b _ _ => cdiv b.length 256).foldl (· + ·) 0

/-- The first port with the fewest cells queued for the VL. -/
def fewest (s : State) (vl : BitVec 4) : List Nat → Option Nat
  | [] => none
  | n :: ns =>
    match fewest s vl ns with
    | none => some n
    | some m => if cellsQueued s n vl ≤ cellsQueued s m vl then some n else some m

/-- The port and VL to which a ROUTE packet may go now, if any (R341, R342); an escape port once hedged is none until a FULL
commit replaces the tree (R345). -/
def chooseOutput (s : State) (r : PlanRec) (l : Lodged) : Option (Nat × BitVec 4) :=
  let f := flitsOf l.p
  let vl := l.p.vl
  let holds (v : BitVec 4) (n : Nat) : Bool := gated s n l.p || decide (f ≤ creditsHeld s n v)
  if vl = 0 then
    (fewest s 0 ((candidates r ++ [escPort r]).filter fun n => (port s n).st == .up && holds 0 n)).map (·, 0)
  else
    let ev := if isEscapeVl vl then vl else vl + 1
    let esc :=
      if usable s (escPort r) ev l.p && holds ev (escPort r) && !s.route.escLost.contains (escPort r) then some (escPort r, ev)
      else none
    if isEscapeVl vl || decide (hopLimit r ≤ l.p.hop.toNat) then esc
    else
      match fewest s vl ((candidates r).filter fun n => usable s n vl l.p && holds vl n) with
      | some n => some (n, vl)
      | none => if l.escaped || vlFld s vl 4 == 0 then esc else none

/-- No candidate nor the escape port is UP and unhedged (R343). -/
def noWay (s : State) (r : PlanRec) : Bool :=
  !(candidates r ++ [escPort r]).any fun n => (port s n).st == .up && !portHedged s n

/-- A packet discarded under R343: ROUTE_NONE, raised once per entry per headland (Table 11-8). -/
def routeNone (s : State) (l : Lodged) (key : Nat) : State :=
  let s := modRoute (dropLodged s l) (lodgedDie s l) fun r => { r with disc := satInc r.disc }
  if Tab.get 0 s.route.noneAt key = now s + 1 then s
  else raise { s with route := { s.route with noneAt := Tab.set 0 s.route.noneAt key (now s + 1) } } fRouteNone uDevice 0

/-- An MGT packet discarded (R342, R343). -/
def mgtDiscard (s : State) (l : Lodged) : State :=
  modRoute (dropLodged s l) (lodgedDie s l) fun r => { r with mgt := satInc r.mgt }

/-- A corrected cell: counted (12 R358). -/
def cellCe (s : State) (die : Nat) : State :=
  let s := modCore s die fun c => { c with cellCe := satInc c.cellCe }
  raise s fCellCe uDevice 0

/-- A packet ended by an uncorrectable cell (12 R358): discarded; a COL operation is
aborted towards its roots, a movement transfer answered with CELL_UE. Where the plan here does not have the collective, the
request follows the packet, and its ORDER_IDX and RANGE are free values (log 92). -/
def cellUe (s : State) (die : Nat) (p : Pkt) : State :=
  let s := modCore s die fun c => { c with cellUe := satInc c.cellUe }
  let s := raise s fCellUe uDevice 0
  let n := p.op.toNat
  if 0x14 ≤ n ∧ n ≤ 0x19 then
    if (collPlace s p.fcid.toNat).isSome then askAbort s (ownUnit die) p.fcid.toNat fCellUe
    else
      let v := (Config.abortPlace s.freeIx).toNat
      originate { s with freeIx := s.freeIx + 1 } (ownUnit die) p.dst 7 pColAbort 0 p.fcid
        (pack 8 [(0, 2, fCellUe.toNat), (2, 2, v % 65536), (4, 2, v / 65536 % 4096)])
  else if n = 0x1B then originate s (ownUnit die) p.src 7 pMoveDone p.seq p.fcid (pack 16 [(0, 2, fCellUe.toNat)])
  else s

/-- A packet dispatched to an output: its credits are taken, and it enters the VL's queue (R340, R377). -/
def toOutput (s : State) (l : Lodged) (n : Nat) (vl : BitVec 4) : State :=
  if gated s n l.p then
    releaseLodging (gateAdd { s with ingress := s.ingress.erase l } n l.p) l.port l.vl l.pcp (.pkt l.p)
  else if !isEdge s n && decide (14 ≤ l.p.hop.toNat) then
    let s := modRoute (dropLodged s l) (lodgedDie s l) fun r => { r with disc := satInc r.disc }
    raise s fRouteLoop uPort n
  else
    let s := modPort s n fun p =>
      { p with credits := if isEdge s n then p.credits else Tab.upd 0 p.credits vl.toNat (· - flitsOf l.p)
               demoted := if l.colour = 2 then satInc p.demoted else p.demoted }
    let s := if vl = l.p.vl then s else modRoute s (lodgedDie s l) fun r => { r with escapes := satInc r.escapes }
    { s with
      ingress := s.ingress.erase l
      outq := s.outq ++ [{ port := n, queue := queueOf s vl l.colour, vl, item := .pkt { l.p with vl },
                           src := l.port.map (·, l.vl), unit := l.unit, pcp := l.pcp, colour := l.colour, room := l.room,
                           copy := l.copy }] }

/-- Die of the internal target of a request: that of its plot or of its granary stack. -/
def targetDie (s : State) (p : Pkt) : Option Nat :=
  match localKind s (fieldOf p.dst) with
  | (2, u) => some (u / 16)
  | (3, _) => some (leAt p.payload 0 5 / 2 ^ 37 % 2)
  | (4, _) => some 0
  | (5, _) => some 0
  | _ => none

/-- Responses that the internal targets of a die hold or owe (14 R412): requests taken and not answered, and responses in response room. -/
def roomHeld (s : State) (die : Nat) : Nat :=
  let owed (p : Pkt) : Bool := isRequest p.op && targetDie s p == some die
  (s.delivered.filter fun d => owed d.p).length + ((s.mem.replay.filterMap (·.held)).filter owed).length +
    (s.ingress.filter fun l => l.room == some die).length + (s.outq.filter fun u => u.room == some die).length

/-- The internal target finds room for its response (11 R347). -/
def hasRoom (s : State) (p : Pkt) : Bool :=
  match targetDie s p with
  | some d => !isRequest p.op || decide (roomHeld s d < 256)
  | none => true

/-- The furrow tables have what a COL packet's FCID names (R344): a furrow of the plan, or the collective of one. -/
def colNamed (s : State) (p : Pkt) : Bool :=
  if p.op = pMoveData ∨ p.op = pMoveDone then (planRec s 0x07 0x01 p.fcid.toNat).isSome else (collPlace s p.fcid.toNat).isSome

/-- The port and VL whose credits a looked-up packet waits for or can take now: of a signpost, of an endpoint's port, or of its
one port (R340). -/
def wants (s : State) (l : Lodged) : Option (Nat × BitVec 4) :=
  let able (n : Nat) : Option (Nat × BitVec 4) :=
    if (port s n).st == .up && decide (flitsOf l.p ≤ creditsHeld s n l.p.vl) then some (n, l.p.vl) else none
  if !l.looked then none
  else if let some m := l.via then able m
  else if devOf l.p.dst = s.plan.deviceId.toNat && !s.route.bad.contains (devOf l.p.dst) then
    let f := fieldOf l.p.dst
    let col := vlClass l.p.vl == some 4
    if (localKind s f).1 = 1 && (if col then colToPort s l.p else !s.route.badLocal.contains f) &&
        (l.p.vl == 0 || !portHedged s f) && (!isMemOp l.p.op || l.served) && (l.p.op != pMoveData || windowFits s l.p) then able f
    else none
  else (signpost s (devOf l.p.dst)).bind fun r => chooseOutput s r l

/-- Place of a packet's ingress account in the rotation of an output: its requester, then its VL or PCP (12 R356, Table 12-3). -/
def acctTurn (s : State) (l : Lodged) : Nat :=
  match l.port with
  | some n => 16 * n + (if isEdge s n then l.pcp else l.vl.toNat)
  | none => 16 * l.unit

/-- The heads of the lodgings: the first packet of each VL of each port, and every one of the device's own. -/
def heads (s : State) : List Lodged :=
  (s.ingress.foldl (fun (a : List Lodged × List (Option Nat × BitVec 4)) l =>
    if l.port.isSome && a.2.contains (l.port, l.vl) then a else (a.1 ++ [l], a.2 ++ [(l.port, l.vl)])) ([], [])).1

/-- Of the packets that can take credits of one FABRIC or COACH output and VL, this one's account is next in the rotation that
starts after the account served last (12 R356). -/
def itsTurn (s : State) (l : Lodged) (n : Nat) (vl : BitVec 4) : Bool :=
  let from_ := Tab.get 0 s.core.served (16 * n + vl.toNat)
  let rank (k : Nat) : Nat := if from_ ≤ k then k else k + 2 ^ 16
  !isFabric s n || (heads s).all fun x => wants s x != some (n, vl) || decide (rank (acctTurn s l) ≤ rank (acctTurn s x))

/-- The looked-up packet takes its output, or lets another account go first. -/
def takeTurn (s : State) (l : Lodged) (n : Nat) (vl : BitVec 4) (go : State → State) : State :=
  if itsTurn s l n vl then
    go (if isFabric s n then { s with core := { s.core with served := Tab.set 0 s.core.served (16 * n + vl.toNat) (acctTurn s l + 1) } } else s)
  else s

/-- A packet for this device (R344): COL packets and those of internal targets are delivered, those of an
attached endpoint go to its port with its VL; where the target is absent or down it is discarded (R343). `e` is the ECC of
the cells a local sink reads (12 R358). -/
def toLocal (s : State) (l : Lodged) (e : Ecc) : State :=
  let f := fieldOf l.p.dst
  let hand (s : State) :=
    releaseRef { s with ingress := s.ingress.erase l, delivered := s.delivered ++ [{ port := l.port, p := l.whole s }] }
      l.copy l.port l.vl l.pcp (.pkt l.p)
  let deliver := match e with
    | .ok => hand s
    | .ce => hand (cellCe s (lodgedDie s l))
    | .ue => cellUe (dropLodged s l) (lodgedDie s l) l.p
  let held := l.p.op == pMoveData && !windowFits s l.p
  let k := (localKind s f).1
  let col := vlClass l.p.vl == some 4
  let none_ := if l.p.vl = 0 then mgtDiscard s l else routeNone s l (2 ^ 24 + f)
  if !col && s.route.badLocal.contains f then none_
  else if k = 1 && (!col || colToPort s l.p) then
    if (port s f).st != .up || portHedged s f && l.p.vl != 0 then none_
    else if isMemOp l.p.op && !l.served then deliver
    else if held then s
    else if isEdge s f || decide (flitsOf l.p ≤ creditsHeld s f l.p.vl) then
      takeTurn s l f l.p.vl fun s => toOutput (passMember s l.p) l f l.p.vl
    else if l.p.vl = 0 then mgtDiscard s l else s
  else if col then if !colNamed s l.p then none_ else if held then s else deliver
  else if k = 0 then none_
  else if hasRoom s l.p then deliver else s

/-- DISPATCH (R341 to R344): the looked-up head of a VL goes to its first eligible output, to a local
target, or is discarded; it waits when no output is eligible. -/
def dispatch (n : Option Nat) (vl : BitVec 4) (k : Nat) (e : Ecc) (s : State) : State :=
  match headLodged s n vl k with
  | none => s
  | some l =>
    if !l.looked then s
    else if let some m := l.via then
      if (port s m).st != .up || portHedged s m then routeNone s l (devOf l.p.dst)
      else if decide (flitsOf l.p ≤ creditsHeld s m vl) then takeTurn s l m vl fun s => toOutput s l m vl else s
    else if devOf l.p.dst = s.plan.deviceId.toNat && !s.route.bad.contains (devOf l.p.dst) then toLocal s l e
    else
      match signpost s (devOf l.p.dst) with
      | none => if vl = 0 then mgtDiscard s l else routeNone s l (devOf l.p.dst)
      | some r =>
        match chooseOutput s r l with
        | some (m, v) => takeTurn s l m v fun s => toOutput s l m v
        | none =>
          if vl = 0 then mgtDiscard s l
          else if noWay s r then routeNone s l (devOf l.p.dst) else s

def execDispatch (n : Option (BitVec 10)) (q : QueuePlace) (e : Ecc) (s : State) : Out :=
  event s (dispatch (n.map (·.toNat)) q.vl q.k e)

/-! ## Transmission -/

/-- Fields of the L2 record: ETHERTYPE, UDP_PORT, AGE_S (10 Table 10-4). -/
def l2Fld (s : State) (i : Nat) : Nat := ((planRec s 0x02 0x02 0).map (·.fld i)).getD 0

/-- The Ethernet frame that carries a packet on an EDGE port (10 R322, 13 R389). -/
def selnanFrame (s : State) (n : Nat) (u : Queued) (p : Pkt) : List Byte :=
  let f := portFld s n
  wrapPkt (f 10) (f 17) (f 18) (f 12) (bits (f 16) (3 * u.vl.toNat + 2) (3 * u.vl.toNat)) (if 1 ≤ u.colour then 1 else 0)
    (l2Fld s 0) (l2Fld s 1) (f 19) (f 20) p

/-- A layer-2 frame as a port sends it: untagged where the port's VLAN is 0, else with its VLAN, its PCP and a DEI from its
colour (10 Table 10-3, 13 R389); a frame that loses its tag keeps 64 bytes. -/
def l2Sent (s : State) (n : Nat) (b : List Byte) (vlan pcp colour : Nat) : List Byte :=
  let body := (b.take (b.length - 4)).drop (12 + tagLen b)
  let tag := if portFld s n 12 = 0 then [] else beBytes 2 0x8100 ++ beBytes 2 (pcp * 8192 + (if 1 ≤ colour then 4096 else 0) + vlan)
  let out := b.take 12 ++ tag ++ body
  withFcs (out ++ List.replicate (60 - out.length) 0)

/-- A queued unit removed with its lodging and, where it had sent nothing, its credits. -/
def dropQueued (s : State) (u : Queued) : State :=
  let s := releaseRef { s with outq := s.outq.erase u } u.copy (u.src.map (·.1)) ((u.src.map (·.2)).getD 0) u.pcp (u.whole s)
  match u.item with
  | .pkt p => if u.sent = 0 && !isEdge s u.port then
      modPort s u.port fun q => { q with credits := Tab.upd 0 q.credits u.vl.toNat (· + flitsOf p) } else s
  | .frame _ _ _ => s

/-- One unit of a queue sent: a flit of a FABRIC or COACH port, a frame of an EDGE port (R379). -/
def sendUnit (s : State) (n : Nat) (u : Queued) : State :=
  let finish (s : State) (u : Queued) : State :=
    releaseRef { s with outq := s.outq.erase u } u.copy (u.src.map (·.1)) ((u.src.map (·.2)).getD 0) u.pcp (u.whole s)
  match u.whole s with
  | .frame b vlan pcp =>
    let b := l2Sent s n b vlan pcp u.colour
    if portFld s n 11 < b.length then finish (modPort s n fun q => { q with edgeDrops := satInc q.edgeDrops }) u
    else
      let s := chargeShapers s n u.queue (b.length + 20)
      glean (transmit (finish s u) [.frame n b]) n 1 9 b
  | .pkt p =>
    if isEdge s n then
      let b := selnanFrame s n u p
      if portFld s n 11 < b.length then
        finish (modPort s n fun q => { q with edgeDrops := satInc q.edgeDrops }) u
      else
        let s := chargeShapers s n u.queue (b.length + 20)
        glean (transmit (finish s u) [.frame n b]) n 1 p.vl.toNat (p.header ++ p.payload)
    else
      let p' := { p with hop := p.hop + 1 }
      let bytes := Pkt.header p' ++ p.payload
      let last := u.sent + 1 = flitsOf p
      let pos : BitVec 2 := if last then (if u.sent = 0 then 3 else 2) else if u.sent = 0 then 1 else 0
      let s := chargeShapers s n u.queue 256
      let s := sendFlit s n { ftype := 1, vl := u.vl, pos, body := slice bytes (256 * u.sent) 256 }
      let s := if u.sent = 0 then glean s n 1 u.vl.toNat bytes else s
      if last then finish s u
      else { s with outq := s.outq.map fun x => if x == u then { u with sent := u.sent + 1 } else x }

/-- Charge of the head of a queue (13 R381). -/
def headCharge (s : State) (n q : Nat) : Nat :=
  match headOf s n q with
  | none => 0
  | some u =>
    match u.whole s with
    | .pkt p => chargeOf u.item (isEdge s n) (if isEdge s n then (selnanFrame s n u p).length else 0)
    | .frame b vlan pcp => chargeOf (.frame b vlan pcp) true (l2Sent s n b vlan pcp u.colour).length

/-- SERVE_UNIT (13 R380): one unit time of a port. `e` is the ECC of the cells read for a packet's first
unit (12 R357, R358). -/
def serveUnit (n : Nat) (e : Ecc) (s : State) : State :=
  let p := port s n
  if !s.pins.coldResetN then s
  else if isFabric s n && (p.st == .up || p.st == .init) && !p.restriping then
    if retryFull s n then sendIdle s n
    else
      match p.ctrlQ with
      | b :: bs => sendFlit (modPort s n fun q => { q with ctrlQ := bs }) n { ftype := 2, body := b }
      | [] =>
        if p.st == .up then
          match pickQueue (headCharge s n) s n with
          | (s, none) => sendIdle s n
          | (s, some q) =>
            match headOf s n q with
            | none => s
            | some u => settleDeficit (serveHead s u e) n q
        else sendIdle s n
  else if isEdge s n && p.st == .up then
    match pickQueue (headCharge s n) s n with
    | (s, none) => s
    | (s, some q) =>
      match headOf s n q with
      | none => s
      | some u => settleDeficit (serveHead s u e) n q
  else s
where
  serveHead (s : State) (u : Queued) (e : Ecc) : State :=
    if u.sent = 0 then
      match e with
      | .ok => sendUnit s n u
      | .ce =>
        sendUnit (cellCe s (dieOf n)) n u
      | .ue =>
        let s := dropQueued s u
        match u.item with
        | .pkt p => cellUe s (dieOf n) p
        | .frame _ _ _ => raise (modCore s (dieOf n) fun c => { c with cellUe := satInc c.cellUe }) fCellUe uDevice 0
    else sendUnit s n u

def execServeUnit (n : BitVec 10) (e : Ecc) (s : State) : Out := event s (serveUnit n.toNat e)

/-- Units queued at a port that goes down or is hedged (R343): those with no flit sent are looked up again,
the others discarded. -/
def requeuePort (s : State) (n : Nat) : State :=
  let stuck := s.outq.filter fun u => u.port == n
  let empty (s : State) : State := (List.range 16).foldl (fun s q => settleDeficit s n q) s
  empty <| stuck.foldl (fun s u =>
    match u.item with
    | .pkt p =>
      if u.sent = 0 then
        let vl := (u.src.map (·.2)).getD (mainVl u.vl)
        let s := if isEdge s n then s else modPort s n fun q => { q with credits := Tab.upd 0 q.credits u.vl.toNat (· + flitsOf p) }
        { s with
          outq := s.outq.erase u
          ingress := { port := u.src.map (·.1), unit := u.unit, vl, p := { p with vl }, looked := true, colour := u.colour, pcp := u.pcp,
                       checked := true, served := isMemOp p.op && devOf p.dst == s.plan.deviceId.toNat, room := u.room,
                       copy := u.copy } :: s.ingress }
      else modRoute (dropQueued s u) (dieOf n) fun r => { r with disc := satInc r.disc }
    | .frame _ _ _ => dropQueued s u) s

/-- Ports named as ESC that are hedged raise ESCAPE_LOST, once each (R345). -/
def escapeLost (s : State) : State :=
  let named := ((planRecs s 0x03 0x01).filter fun r => bits (r.fld 0) 31 30 == 1).map escPort
  let fresh := ((planPorts s).filter fun n => named.contains n && portHedged s n && !s.route.escLost.contains n)
  fresh.foldl (fun s n => raise { s with route := { s.route with escLost := s.route.escLost ++ [n] } } fEscapeLost uPort n) s

/-- GLEAN_WRITE: a die's oldest buffered sample goes to the ring, or is lost when the ring is full (12 R374). -/
def gleanWrite (east : Bool) (s : State) : State :=
  let g := s.glean
  match (if east then g.bufE else g.bufW), planRec s 0x05 0x04 0 with
  | e :: es, some r =>
    let g := if east then { g with bufE := es } else { g with bufW := es }
    let size := 2 ^ r.fld 1
    if (g.head.toNat + 1) % size = g.tail.toNat % size then
      { s with glean := { g with lost := satInc g.lost, lostSince := g.lostSince + 1 } }
    else
      let e := e.take 20 ++ leBytes 4 (min g.lostSince 0xFFFFFFFF) ++ e.drop 24
      { s with
        gran := Mem.writes s.gran (r.fld 0 + 160 * g.head.toNat) e
        glean := { g with head := BitVec.ofNat 16 ((g.head.toNat + 1) % size), lostSince := 0 } }
  | _, _ => s

def execGleanWrite (east : Bool) (s : State) : Out := event s (gleanWrite east)

/-- GLEAN_TAIL written: ignored when it would pass GLEAN_HEAD (12 R375): the entries freed lie between
the old tail and the head. -/
def wrGleanTail (s : State) (w : RegW) : State × Wr :=
  let size := 2 ^ ((planRec s 0x05 0x04 0).map (·.fld 1)).getD 16
  let v := bits w.val.toNat 15 0
  let g := s.glean
  if w.hi || decide (size ≤ v) || decide ((g.head.toNat + size - g.tail.toNat) % size < (v + size - g.tail.toNat) % size) then
    (s, .done)
  else ({ s with glean := { g with tail := BitVec.ofNat 16 v } }, .done)

def execGleanTail (w : RegW) (s : State) : Out := always s fun s => (wrGleanTail s w).1

end Sys2Proof.Machine
end

