-- ==== Sys2Proof/Machine/Coll.lean ====
section
/-!
DEFINITION. Tree nodes (03): a waybill reaching a slot, the tally round, grants, outcomes and aborts. A node's state is kept
under its lead slot.
-/

namespace Sys2Proof.Machine
open Sys2Proof

/-! ## Sums -/

/-- One raw addend of an ETYPE. -/
def Acc.code (et : Nat) (a : Acc) (c : Nat) : Acc :=
  if et ≤ 4 then a.raw (decodeF (fmtOf et) c) else a.int (sInt (etypeBits et) c)

/-- The rounding of an element of a collective (R31, R37). -/
def collMode (b : List Byte) (ix : Nat) : RMode :=
  match wbDesc b 19 18 with
  | 0 => .rne
  | 1 => .rtz
  | _ => .ksr (ksrR (wbSeed b) (wbColl b) ix)

/-- A SUM element rounded at the root (R33, R42). -/
def rootRound (b : List Byte) (ix : Nat) (a : Acc) : Nat × Nat :=
  if wbOut b ≤ 4 then a.round (fmtOf (wbOut b)) (collMode b ix)
  else roundInt (etypeBits (wbOut b)) (wbDesc b 20 20 == 1) a.sum.toInt

/-- One child's part of a dense SUM chunk: accumulations, their NAN_IN and NV, contributions. -/
structure SumPart where
  accs : List Acc
  flags : List Nat
  contrib : Nat
  deriving DecidableEq, Repr

/-- A raw part. -/
def rawPart (et n : Nat) (bs : List Byte) : SumPart :=
  { accs := (List.range n).map fun i => Acc.code et {} (codeAt et bs i), flags := List.replicate n 0, contrib := 1 }

/-- A partial part of `n` elements from output index `base`, when R55 and R574 hold: ceiling(n / 28) cells, every one full but
the last, each with the BASE_INDEX of its first element (R77). -/
def partialPart (coll n base : Nat) (bs : List Byte) : Option SumPart :=
  match readCells false coll (bs.length + 1) bs with
  | none => none
  | some cs =>
    if cs.length = cdiv n 28 ∧ (enum cs).all (fun e => e.2.base == base + 28 * e.1 && e.2.elems.length == min 28 (n - 28 * e.1)) = true then
      some { accs := cs.flatMap (·.elems), flags := cs.flatMap fun c => c.elems.map fun e => if e.nan then c.flags else 0,
             contrib := (cs.map (·.contrib)).foldl max 0 }
    else none

/-- Parts joined element by element. -/
def SumPart.join (a b : SumPart) : SumPart :=
  { accs := List.zipWith Acc.join a.accs b.accs, flags := List.zipWith (· ||| ·) a.flags b.flags, contrib := a.contrib + b.contrib }

/-- The joined parts of a chunk of `n` elements. -/
def joinParts (n : Nat) (ps : List SumPart) : SumPart :=
  ps.foldl SumPart.join { accs := List.replicate n {}, flags := List.replicate n 0, contrib := 0 }

/-- The root's result of a dense SUM chunk from output index `base`: packed bytes and flags (R34, R39, R48). -/
def rootSum (b : List Byte) (base : Nat) (p : SumPart) : List Byte × Nat :=
  let rs := (enum p.accs).map fun e => rootRound b (base + e.1) e.2
  (packCodes (wbOut b) (rs.map (·.1)), (rs.map (·.2) ++ p.flags).foldl (· ||| ·) 0)

/-- The exact partial of a dense SUM chunk as cell groups (R46, R52). -/
def nodeSum (coll base : Nat) (p : SumPart) : List (List Byte) :=
  let n := p.accs.length
  (List.range (cdiv n 28)).map fun k =>
    let es := (p.accs.drop (28 * k)).take 28
    let fl := ((p.flags.drop (28 * k)).take 28 ++ es.map ownFlags).foldl (· ||| ·) 0
    mkCell es none p.contrib fl (base + 28 * k) coll

/-- MIN, MAX or a bitwise operation over the raw parts of a chunk: codes and flags (R43, R44, R46). A sole
NaN addend is canonical too. -/
def reduceCodes (b : List Byte) (n : Nat) (parts : List (List Byte)) : List (Nat × Nat) :=
  let et := wbIn b
  let op := wbRedop b
  (List.range n).map fun i =>
    match parts.map fun p => codeAt et p i with
    | [] => (0, 0)
    | c :: cs =>
      let first : Nat × Nat := if op ≤ 2 ∧ et ≤ 4 then redStep et op c c else (c, 0)
      cs.foldl (fun a x => let r := redStep et op a.1 x; (r.1, a.2 ||| r.2)) first

/-! ## Geometry of a served collective -/

/-- Range and length in elements of a dense reduce-scatter at a node. -/
def denseLen (s : State) (f : Nat) (n : NodeRec) (b : List Byte) : Nat × Nat :=
  let lo := rangeLo (wbCount b) (furrowFld s f 4) n.range
  (lo, rangeLo (wbCount b) (furrowFld s f 4) (n.range + 1) - lo)

/-- Elements of chunk `c` of a stretch of `len` elements. -/
def chunkLen (len c : Nat) : Nat := min 1792 (len - 1792 * c)

/-- The waybills of the position served. -/
def served (n : Node) : List Bill := n.bills.filter fun b => wbHeadland b.bytes == n.h && wbIdx b.bytes == n.idx

/-- Every slot's furrow's next entry at or after (h, i), else the first of step h + 1 (R89, R91). -/
def seekPos (s : State) (f h i : Nat) : Nat × Nat :=
  match (orderList s f).find? fun e => decide (i ≤ e.1) with
  | some e => (h, e.1)
  | none => (h + 1, ((orderList s f).head?.map (·.1)).getD 0)

/-- The position after one, skipping those aborted while they waited. -/
def nextPos (s : State) (f : Nat) (aborted : List (Nat × Nat)) : Nat → Nat × Nat → Nat × Nat
  | 0, p => p
  | k + 1, p =>
    let q := seekPos s f p.1 (p.2 + 1)
    if aborted.contains q then nextPos s f aborted k q else q

/-- Service starts afresh at or after a position (R91). -/
def freshNode (s : State) (f h i : Nat) : Node :=
  let p := seekPos s f h i
  { h := p.1, idx := p.2, fresh := h }

/-- A FULL commit flips at headland `h`: every slot starts afresh (R91); a fence stays until FURROW_RESET (R90). -/
def collRestart (s : State) (h : Nat) : State :=
  let s := { s with coll := { resets := s.coll.resets, fenced := s.coll.fenced } }
  (List.range 32).foldl (fun s f =>
    if isReduce s f then (localNodes s f).foldl (fun s n => modNode s n.lead fun _ => freshNode s f h 0) s else s) s

/-! ## Outcomes (R93 to R97) -/

/-- Range whose root a member hears (log 20): the lowest range it sinks, else range 0. -/
def homeRange (s : State) (f ord half : Nat) : Nat :=
  if half = 1 then 0
  else (((enum (furrowTab s f 2)).find? fun e => bits (e.2.getD 0 0) 31 28 == 0 && bits (e.2.getD 0 0) 23 0 == ord).map (·.1)).getD 0

/-- Address of the sink of a range and whether it is an update path (R73). -/
def sinkOf (s : State) (f r : Nat) : Addr × Bool :=
  let w := ((furrowTab s f 2).getD r []).getD 0 0
  if bits w 31 28 = 1 then (addr (bits w 23 10) 0, true) else (memberAddr (memberWord s f (bits w 23 0)), false)

/-- Crop digest and count of a root's results in output order (16 R464). -/
def outCrop (n : Node) : Nat × Nat :=
  let sorted := n.out.mergeSort fun a b => decide (a.1 ≤ b.1)
  ((cropEnd (sorted.foldl (fun c e => e.2.foldl cropStep c) cropInit)).toNat, sorted.length)

/-- Output elements of an all-gather (R74, R86). -/
def gatherTotal (n : Node) : Nat := ((served n).map fun b => wbCount b.bytes).foldl (· + ·) 0

/-- Crop digest and chunks delivered of an all-gather at its root. -/
def gatherCrop (n : Node) : Nat × Nat :=
  let w := ((served n).head?.map fun b => etypeBits (wbOut b.bytes) / 8).getD 0
  ((crop (Mem.reads n.asm 0 (gatherTotal n * w))).toNat, n.out.length)

/-- The children whose waybills a node holds as its own: its raw members (R575). -/
def directBills (n : Node) : List Bill := (served n).filter fun b => decide (b.child < 2 ^ 24)

/-- Slots of a node. -/
def NodeRec.slots (n : NodeRec) : List Nat := (List.range (max n.stripe 1)).map fun k => n.lead + 32 * k

/-- COLL_LAG entries of every slot of a node for its direct members, in ascending ordinal (R97). The waybills reach the lead
slot, so every slot of the set measures their lag there (log 65). -/
def lagEntries (s : State) (r : NodeRec) : State :=
  let n := nodeSt s r.lead
  let bs := (directBills n).mergeSort fun a b => decide (wbOrd a.bytes ≤ wbOrd b.bytes)
  let minT (l : List DWord) : Nat := (l.map (·.toNat)).foldl min (2 ^ 64)
  let t0 := minT (bs.map (·.arrived))
  let report := ((planRec s 0x08 0x02 0).map (·.fld 2)).getD 0
  (enum r.slots).foldl (fun s k =>
    let here := n.lastChunk.filter fun x => x.1 == k.1
    let c0 := minT (here.map (·.2.2))
    bs.foldl (fun s b =>
      let lag := b.arrived.toNat - t0
      let cl := ((here.find? fun x => x.2.1 == b.child).map fun x => x.2.2.toNat - c0).getD 0
      if report = 0 ∨ report < lag then
        tally s { kind := kCollLag, utype := uSlot, unit := k.2,
                  body := pack 40 [(0, 4, wbColl b.bytes), (4, 4, wbOrd b.bytes), (8, 8, lag), (16, 8, cl), (24, 8, n.h)] }
      else s) s) s

/-- The collective's state dropped; the next position is served (R96). -/
def endService (s : State) (f lead : Nat) : State :=
  modNode s lead fun n =>
    let p := nextPos s f n.aborted 65536 (n.h, n.idx)
    { h := p.1, idx := p.2, fresh := n.fresh, prev := some (n.h, n.idx)
      bills := n.bills.filter fun b => !(wbHeadland b.bytes == n.h && wbIdx b.bytes == n.idx)
      aborted := n.aborted.filter fun a => posBefore p a }

/-- A slot of a node sends to its parent, and to the home slots of its own set, under these numbers. -/
def upOwner (slot : Nat) : Nat := 2 ^ 24 + slot
def segOwner (slot : Nat) : Nat := 2 ^ 26 + slot

/-- An abort lets a node send nothing more of the collective and releases its cells (R96). -/
def dropColl (s : State) (f : Nat) (n : NodeRec) (coll : Nat) : State :=
  let s := endSenders s f coll fun o => n.slots.any fun k => o == upOwner k || o == segOwner k
  let mine (p : Pkt) : Bool := (p.op == pColData || p.op == pColDataEnd) && p.fcid.toNat == coll && p.dst == addr s.plan.deviceId.toNat 0
  { s with delivered := s.delivered.filter fun d => !mine d.p
           coll := { s.coll with copyWaits := s.coll.copyWaits.filter fun w => w.lead != n.lead } }

/-- The root's outcome of a position: to every member that hears this range, to the range's sink, to the
child nodes; COLL_DONE (R39, R93). A member whose output is empty gets the digest of zero bytes (R88). -/
def sendOutcome (s : State) (f : Nat) (n : NodeRec) (coll idx h half status : Nat) (code : Half) : State :=
  let st := nodeSt s n.lead
  let cd := if half = 1 then gatherCrop st else outCrop st
  let done := cd.2
  let crop := if status = 0 then cd.1 else 0
  let noCrop := if status = 0 then (cropEnd cropInit).toNat else 0
  let flags := if status = 0 then st.flags else 0
  let sink := sinkOf s f n.range
  let s := (List.range (furrowFld s f 1)).foldl (fun s ord =>
    if homeRange s f ord half = n.range then
      let a := memberAddr (memberWord s f ord)
      let mine := half == 1 || a == sink.1
      sendCol s (slotUnit n.lead) a pColOutcome 0 coll
        (outcomeBytes coll idx status (if mine then flags else 0) code.toNat (if half = 0 ∧ mine then n.range else 0)
          (if mine then done else 0) (if mine then crop else noCrop) h)
    else s) s
  let ord := ((furrowTab s f 2).getD n.range []).getD 0 0
  let s := if half = 0 ∧ (sink.2 ∨ homeRange s f (bits ord 23 0) half ≠ n.range) then
    sendCol s (slotUnit n.lead) sink.1 pColOutcome 0 coll (outcomeBytes coll idx status flags code.toNat n.range done crop h) else s
  let s := (childNodesOf s f n).foldl (fun s c =>
    sendCol s (slotUnit n.lead) (addr c.device 0) pColOutcome 0 coll (outcomeBytes coll idx status 0 code.toNat n.range 0 noCrop h)) s
  tally s
    { kind := kCollDone, utype := uSlot, unit := n.lead, fault := code,
      body := pack 40 [(0, 4, coll), (4, 2, idx), (6, 1, status), (7, 1, flags), (8, 2, n.range), (10, 1, f), (12, 4, done),
        (16, 8, crop), (24, 8, h)] }

/-- HALF of the waybills held for a position; a reduce-scatter when none is held. -/
def halfOf (n : Node) (h i : Nat) : Nat :=
  ((n.bills.find? fun b => wbHeadland b.bytes == h && wbIdx b.bytes == i).map fun b => wbHalf b.bytes).getD 0

/-- A root aborts the collective at a position (R93, R96). -/
def abortAt (s : State) (f : Nat) (n : NodeRec) (h i : Nat) (code : Half) : State :=
  let st := nodeSt s n.lead
  match (orderList s f).find? fun e => e.1 == i with
  | none => s
  | some e =>
    if st.aborted.contains (h, i) then s
    else if (st.h, st.idx) = (h, i) then
      let s := sendOutcome s f n e.2 i h (halfOf st h i) 1 code
      endService (dropColl (lagEntries s n) f n e.2) f n.lead
    else
      let s := sendOutcome (modNode s n.lead fun x => { x with out := [], flags := 0 }) f n e.2 i h (halfOf st h i) 1 code
      modNode s n.lead fun x =>
        { x with out := st.out, flags := st.flags, aborted := st.aborted ++ [(h, i)]
                 bills := x.bills.filter fun b => !(wbHeadland b.bytes == h && wbIdx b.bytes == i) }

/-- A node asks for the abort of a collective at a position: a root aborts at once, any other asks its parent; the roots of
the furrow's other ranges are asked too (R84, R575). -/
def nodeAbort (s : State) (f : Nat) (n : NodeRec) (h i coll : Nat) (code : Half) : State :=
  let s := match parentOf s f n with
    | some m => abortTo s (slotUnit n.lead) m.device coll i n.range code
    | none => abortAt s f n h i code
  ((rootsOf s f).filter fun r => r.range != n.range).foldl (fun s r => abortTo s (slotUnit n.lead) r.device coll i r.range code) s

/-- A slot's fault against a collective: raised, and the collective is aborted for every member (R84). -/
def slotFault (s : State) (f : Nat) (n : NodeRec) (slot h i coll : Nat) (code : Half) : State :=
  nodeAbort (raise s code uSlot slot) f n h i coll code

/-- The position a COL_ABORT names (R96). A request carries no headland: it names the position whose waybill is held, or one
still ahead in the step; the collective that has just ended stays ended (log 21). -/
def abortPos (st : Node) (i : Nat) : Option (Nat × Nat) :=
  match st.bills.find? fun b => wbIdx b.bytes == i with
  | some b => some (wbHeadland b.bytes, i)
  | none => if st.prev.map (·.2) = some i ∨ i < st.idx then none else some (st.h, i)

/-- A request comes from a member of the furrow, or from a device itself, never from another endpoint (R575, log 67). -/
def abortFrom (s : State) (f : Nat) (src : Addr) : Bool := isMember s f src || src == devAddr s (devOf src)

/-! ## The tally round (R86, R88) -/

/-- The root completes: COMPLETE to every member (R93). -/
def completeColl (s : State) (f : Nat) (n : NodeRec) : State :=
  let st := nodeSt s n.lead
  match served st with
  | [] => s
  | b :: _ =>
    let s := sendOutcome s f n (wbColl b.bytes) st.idx st.h (wbHalf b.bytes) 0 0
    endService (lagEntries s n) f n.lead

/-- A grant's payload (Table 3-5). -/
def grantBytes (b : List Byte) (range off total : Nat) : List Byte :=
  pack 32 [(0, 4, wbColl b), (4, 2, wbIdx b), (6, 2, range), (8, 8, off), (16, 8, total), (24, 8, wbHeadland b)]

/-- A grant on its way down from a node to the member of a waybill: to a direct member that hears this range, or to the child
node it came through (R86). -/
def passGrant (s : State) (f : Nat) (n : NodeRec) (b : Bill) (g : List Byte) : State :=
  if 2 ^ 24 ≤ b.child then sendCol s (slotUnit n.lead) (addr (b.child - 2 ^ 24) 0) pColGrant 0 (wbColl b.bytes) g
  else if homeRange s f (wbOrd b.bytes) (wbHalf b.bytes) = n.range then
    sendCol s (slotUnit n.lead) (memberAddr (memberWord s f (wbOrd b.bytes))) pColGrant 0 (wbColl b.bytes) g
  else s

/-- Every chunk that the root of a range will deliver has been delivered: nothing to wait for at the grant
when the range is empty (R73, R88). A root of another range than 0 has no part in an all-gather (log 20). -/
def nothingToDo (s : State) (f : Nat) (n : NodeRec) (bs : List Bill) : Bool :=
  match bs with
  | [] => false
  | b :: _ =>
    let total := (bs.map fun x => wbCount x.bytes).foldl (· + ·) 0
    total == 0 || (if wbHalf b.bytes = 1 then n.range != 0 else wbRedop b.bytes != 6 && (denseLen s f n b.bytes).2 == 0)

/-- The waybills of the position served, in ascending ordinal. -/
def ordered (n : Node) : List Bill := (served n).mergeSort fun a b => decide (wbOrd a.bytes ≤ wbOrd b.bytes)

/-- The tally round at a root that holds every member's waybill. -/
def tallyRound (s : State) (f : Nat) (n : NodeRec) : State :=
  let st := nodeSt s n.lead
  let bs := ordered st
  match bs with
  | [] => s
  | b0 :: _ =>
    if !n.isRoot || st.granted || st.lost || bs.length != furrowFld s f 1 then s
    else
      let total := (bs.map fun x => wbCount x.bytes).foldl (· + ·) 0
      let half := wbHalf b0.bytes
      if 2 ^ 40 ≤ total then nodeAbort (raiseCount s fWaybillFormat uSlot n.lead) f n st.h st.idx (wbColl b0.bytes) fWaybillFormat
      else
        let s := modNode s n.lead fun x => { x with granted := true }
        let r := bs.foldl (fun (a : State × Nat) b =>
          let c := wbCount b.bytes
          (passGrant a.1 f n b (grantBytes b.bytes 0 (if half = 1 then a.2 else 0) (if half = 1 ∨ wbSparse b.bytes then total else c)),
            a.2 + c)) (s, 0)
        let s := r.1
        let sink := sinkOf s f n.range
        let s := if half = 0 ∧ sink.2 then
            let d := if wbSparse b0.bytes then (rangeLo (2 ^ 32) (furrowFld s f 4) n.range, total) else denseLen s f n b0.bytes
            sendCol s (slotUnit n.lead) sink.1 pColGrant 0 (wbColl b0.bytes) (grantBytes b0.bytes n.range d.1 d.2)
          else s
        if nothingToDo s f n bs then completeColl s f n else s

/-! ## Hedges (R94, R95) -/

/-- The first of a node's children that is hedged: a port of a member, or a device of the tree (R94). -/
def memberHedged (s : State) (f : Nat) (n : NodeRec) : Bool :=
  ((furrowTab s f 0).any fun e => let a := (memberAddr (e.getD 0 0)).toNat
    targetHedged s a || (a / 1024 == s.plan.deviceId.toNat && portHedged s (a % 1024))) ||
    ((nodeRecs s f).any fun m => m.range == n.range && (devHedged s m.device || devOpen s m.device ||
      (m.device != s.plan.deviceId.toNat && ((signpost s m.device).map (noWay s)).getD false)))

/-- COLL_MEMBER_LOST against the position served, once. -/
def memberLost (s : State) (f : Nat) (n : NodeRec) : State :=
  let st := nodeSt s n.lead
  match served st with
  | [] => s
  | b :: _ =>
    if st.lost || !memberHedged s f n then s
    else slotFault (modNode s n.lead fun x => { x with lost := true }) f n n.lead st.h st.idx (wbColl b.bytes) fCollMemberLost

/-- A node takes up the position it serves, and those after it while they end at once: a hedge seen, the tally round (R89, R94). -/
def serveNext : Nat → State → Nat → NodeRec → State
  | 0, s, _, _ => s
  | k + 1, s, f, n =>
    let st := nodeSt s n.lead
    let s' := tallyRound (memberLost s f n) f n
    if (nodeSt s' n.lead).h = st.h ∧ (nodeSt s' n.lead).idx = st.idx then s' else serveNext k s' f n

/-- COL_ABORT at a slot (R93, R96): the root aborts, any other node passes the request on to its parent. A request for a collective
that has ended changes nothing. -/
def colAbort (slot : Nat) (p : Pkt) (s : State) : State :=
  match slotNode s slot with
  | none => s
  | some (f, n, _) =>
    if n.lead != slot then s
    else
      let s := taken s p
      let i := leAt p.payload 2 2
      let code := BitVec.ofNat 16 (leAt p.payload 0 2)
      if !abortFrom s f p.src || !(orderList s f).contains (i, p.fcid.toNat) then s
      else
        match abortPos (nodeSt s slot) i with
        | none => s
        | some q =>
          match parentOf s f n with
          | some m => abortTo s (slotUnit n.lead) m.device p.fcid.toNat i n.range code
          | none => serveNext 32 (abortAt s f n q.1 q.2 code) f n

def execColAbort (slot : BitVec 12) (p : Pkt) (s : State) : Out := onPkt p s (colAbort slot.toNat p)

/-! ## A waybill at a slot (R84, R85, R89, R90) -/

/-- An ABORTED outcome of a refused waybill (R90). -/
def refuseBill (s : State) (slot : Nat) (p : Pkt) : State :=
  sendCol s (slotUnit slot) p.src pColOutcome 0 p.fcid.toNat
    (outcomeBytes (wbColl p.payload) (wbIdx p.payload) 1 0 fCollOrder.toNat 0 0 0 (wbHeadland p.payload))

/-- COLL_ORDER: the furrow is fenced, and every collective that its slots serve or hold a waybill of is aborted by the root of
each range (R90). -/
def collOrder (s : State) (f slot : Nat) : State :=
  let s := raise s fCollOrder uSlot slot
  let s := { s with coll := { s.coll with fenced := s.coll.fenced ++ [f] } }
  let ps := ((localNodes s f).flatMap fun n => (nodeSt s n.lead).bills).foldl (fun (a : List (Nat × Nat × Nat)) b =>
    let x := (wbHeadland b.bytes, wbIdx b.bytes, wbColl b.bytes)
    if a.contains x then a else a ++ [x]) []
  ps.foldl (fun s x => (rootsOf s f).foldl (fun s r =>
    if r.device = s.plan.deviceId.toNat then abortAt s f r x.1 x.2.1 fCollOrder else abortTo s (slotUnit slot) r.device x.2.2 x.2.1 r.range fCollOrder) s) s

/-- The child a waybill comes from (R575): the member itself by its address, a child node by its device. -/
def billChild (s : State) (f : Nat) (n : NodeRec) (b : List Byte) (src : Addr) : Option Nat :=
  if memberIs (memberWord s f (wbOrd b)) src then some src.toNat
  else if (childNodesOf s f n).any fun c => c.device == devOf src then some (2 ^ 24 + devOf src) else none

/-- The child a data packet comes from: a raw member whose waybill the node holds, or a child node. -/
def childOf (s : State) (f : Nat) (n : NodeRec) (src : Addr) : Option Nat :=
  if (nodeSt s n.lead).bills.any fun b => b.child == src.toNat then some src.toNat
  else if (childNodesOf s f n).any fun c => c.device == devOf src then some (2 ^ 24 + devOf src) else none

/-- A waybill that passed the order checks, compared with those held for its position: the fault it raises, and whether it is
a copy of one held (R84, R85). One whose COLL_ID differs from the ORDER_LIST's is against the collective listed (log 94). -/
def compareBill (s : State) (f : Nat) (st : Node) (b : List Byte) : Bool × Bool :=
  let peers := st.bills.filter fun x => wbColl x.bytes == wbColl b && wbHeadland x.bytes == wbHeadland b
  match peers.find? fun x => wbOrd x.bytes == wbOrd b with
  | some x => (x.bytes != b, x.bytes == b)
  | none => (!(orderList s f).contains (wbIdx b, wbColl b) || ((peers.head?.map fun x => wbHash x.bytes != wbHash b).getD false), false)

/-- A waybill in order at its slot: kept, compared, and passed on whole to the parent (R84); the root takes up the position. -/
def takeBill (s : State) (f : Nat) (n : NodeRec) (child : Nat) (p : Pkt) : State :=
  let b := p.payload
  let r := compareBill s f (nodeSt s n.lead) b
  if r.2 then s
  else
    let listed := (((orderList s f).find? fun e => e.1 == wbIdx b).map (·.2)).getD (wbColl b)
    let fault (code : Half) (s : State) : State := slotFault s f n n.lead (wbHeadland b) (wbIdx b) listed code
    let s := match parentOf s f n with
      | some m => sendCol s (slotUnit n.lead) (addr m.device 0) pColWaybill 0 p.fcid.toNat b
      | none => s
    if r.1 then serveNext 32 (fault fWaybillMismatch s) f n
    else
      let s := modNode s n.lead fun x => { x with bills := x.bills ++ [{ child, bytes := b, arrived := s.clk.timebase }] }
      let a := (memberAddr (memberWord s f (wbOrd b))).toNat
      let st := nodeSt s n.lead
      let gone := targetHedged s a || (a / 1024 == s.plan.deviceId.toNat && portHedged s (a % 1024))
      let s := if gone && (st.h, st.idx) != (wbHeadland b, wbIdx b) then fault fCollMemberLost s else s
      serveNext 32 s f n

/-- COL_WAYBILL at a slot. -/
def colWaybill (slot : Nat) (p : Pkt) (s : State) : State :=
  let b := p.payload
  match slotNode s slot with
  | none => s
  | some (f, n, _) =>
    if n.lead != slot || wbFurrow b != f then s
    else
      let s := taken s p
      let st := nodeSt s slot
      let pos := (wbHeadland b, wbIdx b)
      match billChild s f n b p.src with
      | none => s
      | some child =>
        if s.coll.fenced.contains f then refuseBill s slot p
        else if s.plan.quiescing && decide (now s + 1 ≤ wbHeadland b) then
          slotFault { s with plan := { s.plan with lastFault := fPlanEarly } } f n slot pos.1 pos.2 (wbColl b) fPlanEarly
        else if decide (wbHeadland b < st.fresh) || posBefore pos (st.h, st.idx) || decide (16 < posDistance s (st.h, st.idx) pos) then
          refuseBill (collOrder s f slot) slot p
        else if st.aborted.contains pos then s
        else takeBill s f n child p

def execColWaybill (slot : BitVec 12) (p : Pkt) (s : State) : Out := onPkt p s (colWaybill slot.toNat p)

/-! ## Outcomes and hedges at nodes -/

/-- The children of a node: its raw members and child nodes. -/
def childAddrs (s : State) (f : Nat) (n : NodeRec) : List Addr :=
  (directBills (nodeSt s n.lead)).map (fun b => memberAddr (memberWord s f (wbOrd b.bytes))) ++
    (childNodesOf s f n).map fun c => addr c.device 0

/-- The packet comes from the node's parent (R575). -/
def fromParent (s : State) (f : Nat) (n : NodeRec) (src : Addr) : Bool := ((parentOf s f n).map fun m => m.device == devOf src).getD false

/-- An outcome at a node below the root: passed to its child nodes, and its service ends (R89, R96). -/
def slotOutcome (slot : Nat) (p : Pkt) (s : State) : State :=
  match slotNode s slot with
  | none => s
  | some (f, n, _) =>
    let st := nodeSt s n.lead
    let pos := (leAt p.payload 24 8, leAt p.payload 4 2)
    if n.lead != slot || !fromParent s f n p.src || !(orderList s f).contains (pos.2, p.fcid.toNat) then s
    else
      let s := taken s p
      if st.aborted.contains pos || posBefore pos (st.h, st.idx) then s
      else
        let s := (childNodesOf s f n).foldl (fun s c => sendCol s (slotUnit n.lead) (addr c.device 0) pColOutcome 0 p.fcid.toNat p.payload) s
        let s := if leAt p.payload 6 1 = 1 then dropColl s f n p.fcid.toNat else s
        if pos = (st.h, st.idx) then serveNext 32 (endService (lagEntries s n) f slot) f n
        else modNode s slot fun x =>
          { x with aborted := x.aborted ++ [pos]
                   bills := x.bills.filter fun b => !(wbHeadland b.bytes == pos.1 && wbIdx b.bytes == pos.2) }

/-- The nodes between a node and its root, the root last. -/
def ancestors (s : State) (f : Nat) : Nat → NodeRec → List NodeRec
  | 0, _ => []
  | k + 1, n => match parentOf s f n with
    | some m => m :: ancestors s f k m
    | none => []

/-- The path from a node to its root is hedged (R95). -/
def cutOff (s : State) (f : Nat) (n : NodeRec) : Bool :=
  (ancestors s f 64 n).any fun m => m.device != s.plan.deviceId.toNat &&
    (devHedged s m.device || ((signpost s m.device).map (noWay s)).getD true)

/-- A node cut off from its root answers below itself with ABORTED, and its service ends (R95). -/
def answerBelow (s : State) (f : Nat) (n : NodeRec) (b : Bill) : State :=
  let st := nodeSt s n.lead
  let coll := wbColl b.bytes
  let body := outcomeBytes coll st.idx 1 0 fCollMemberLost.toNat 0 0 0 st.h
  let s := (childAddrs s f n).foldl (fun s a => sendCol s (slotUnit n.lead) a pColOutcome 0 coll body) s
  endService (dropColl (lagEntries s n) f n coll) f n.lead

/-- R94, R95: every node that serves a collective with a hedged member, device or path raises COLL_MEMBER_LOST once and asks for
the abort; one cut off from its root answers below itself. -/
def collOnHedge (s : State) : State :=
  (List.range 32).foldl (fun s f =>
    if isReduce s f then
      (localNodes s f).foldl (fun s n =>
        let s := memberLost s f n
        match served (nodeSt s n.lead) with
        | [] => s
        | b :: _ => if cutOff s f n then serveNext 32 (answerBelow s f n b) f n else serveNext 32 s f n) s
    else s) s

/-! ## Receivers on this device -/

/-- Whole chunks at a receiver, from packets (chunk, PKT, last, payload): the bytes of chunk `c`. -/
def gathered (ps : List (Nat × Nat × Bool × List Byte)) (c : Nat) : Option (List Byte) :=
  let mine := (ps.filter fun e => e.1 == c).mergeSort fun a b => decide (a.2.1 ≤ b.2.1)
  match mine.find? (·.2.2.1) with
  | some l => if mine.length = l.2.1 + 1 then some (mine.flatMap (·.2.2.2)) else none
  | none => none

/-- Range of a collective whose root on a device delivers to a sink (R575). -/
def rangeFrom (s : State) (f : Nat) (sink : Addr) (dev : Nat) : Nat :=
  (((rootsOf s f).find? fun n => n.device == dev && (sinkOf s f n.range).1 == sink).map (·.range)).getD 0

end Sys2Proof.Machine
end

