-- ==== Sys2Proof/Machine/CollData.lean ====
section
/-!
DEFINITION. Data at the slots of a tree node (03 R73 to R80, R97 to R104, R574): dense chunks, all-gathers, sparse streams.
-/

namespace Sys2Proof.Machine
open Sys2Proof

/-! ## A child's part of a chunk (R79, R574) -/

/-- A child's packets of a chunk, in PKT order, when complete (R79). -/
def partOf (n : Node) (child chunk : Nat) : Option (List ColPkt) :=
  let ps := (n.pkts.filter fun x => x.child == child && x.chunk == chunk).mergeSort fun a b => decide (a.pkt ≤ b.pkt)
  match ps.find? (·.last) with
  | some l => if ps.length = l.pkt + 1 then some ps else none
  | none => none

def partBytes (ps : List ColPkt) : List Byte := ps.flatMap (·.payload)

/-- A child's part of a chunk takes one packet more: one COL_DATA_END, no PKT above its own, none twice (R79, R574). -/
def partTakes (n : Node) (q : ColPkt) : Bool :=
  let mine := q :: n.pkts.filter fun x => x.child == q.child && x.chunk == q.chunk
  let ends := mine.filter (·.last)
  decide (ends.length ≤ 1) && ends.all (fun l => mine.all fun x => decide (x.pkt ≤ l.pkt)) && decide ((mine.map (·.pkt)).Nodup)

/-- A packet kept, and the arrival of a direct member's last packet of a chunk noted (R97). -/
def keepPkt (s : State) (n : NodeRec) (q : ColPkt) : State :=
  modNode s n.lead fun x =>
    { x with pkts := x.pkts ++ [q]
             lastChunk := if q.last && decide (q.child < 2 ^ 24) && !q.payload.isEmpty then
                 (x.lastChunk.filter fun y => !(y.1 == q.pos && y.2.1 == q.child)) ++ [(q.pos, q.child, s.clk.timebase)] else x.lastChunk }

/-- A child's packets of a chunk forgotten. -/
def dropPart (s : State) (n : NodeRec) (q : ColPkt) : State :=
  modNode s n.lead fun x => { x with pkts := x.pkts.filter fun y => !(y.child == q.child && y.chunk == q.chunk) }

/-- A chunk of a result sent up to the slot of the parent that handles it; `back` are the credits that return when it has left
(R79, R80). -/
def sendUp (s : State) (m : NodeRec) (own coll chunk : Nat) (groups : List (List Byte)) (back : List (Nat × Addr)) : State :=
  sendChunk s { owner := upOwner own, sink := sinkOfSlot m.device (m.slotOf chunk), window := m.window, back
                pkts := chunkPkts s (ownAddr s) (addr m.device 0) coll chunk groups }

/-- PARTIAL_FORMAT of the collective served (R574). -/
def partialFault (s : State) (f : Nat) (n : NodeRec) (slot coll : Nat) : State :=
  let st := nodeSt s n.lead
  slotFault s f n slot st.h st.idx coll fPartialFormat

/-- The chunks a slot handles up to one, ascending: every STRIPE-th. -/
def slotChunks (n : NodeRec) (c : Nat) : List Nat :=
  (List.range (c / max n.stripe 1 + 1)).map fun i => i * max n.stripe 1 + c % max n.stripe 1

/-- A chunk lies in a slot's window, which starts at the oldest chunk that is not `done` (R80). -/
def inWindowOf (n : NodeRec) (c : Nat) (done : Nat → Bool) : Bool :=
  decide (c - ((slotChunks n c).find? fun x => !done x).getD c < n.window * max n.stripe 1)

/-! ## Dense chunks of a reduce-scatter (R73, R76, R77) -/

/-- A dense chunk whose every child has contributed. -/
def closeChunk (s : State) (f : Nat) (n : NodeRec) (slot : Nat) (b : List Byte) (chunk : Nat) (parts : List (Nat × List Byte)) : State :=
  let d := denseLen s f n b
  let len := chunkLen d.2 chunk
  let base := d.1 + 1792 * chunk
  let coll := wbColl b
  let sums := parts.map fun p => if p.1 < 2 ^ 24 then rawPart (wbIn b) len p.2 else
    (partialPart coll len base p.2).getD { accs := [], flags := [], contrib := 0 }
  let codes := reduceCodes b len (parts.map (·.2))
  let fl := (codes.map (·.2)).foldl (· ||| ·) 0
  let back := (childAddrs s f n).map fun a => (slot, a)
  let s := modNode s n.lead fun x =>
    { x with pkts := x.pkts.filter fun q => q.chunk != chunk, chunksDone := x.chunksDone ++ [chunk] }
  match parentOf s f n with
  | some m =>
    let s := modNode s n.lead fun x => { x with flags := x.flags ||| fl }
    sendUp s m slot coll chunk
      (if wbRedop b = 0 then nodeSum coll base (joinParts len sums) else cutBytes 65536 (packCodes (wbIn b) (codes.map (·.1)))) back
  | none =>
    let r := if wbRedop b = 0 then rootSum b base (joinParts len sums) else (packCodes (wbOut b) (codes.map (·.1)), fl)
    let s := (chunkPkts s (ownAddr s) (sinkOf s f n.range).1 coll chunk (cutBytes 65536 r.1)).foldl (fun s k => send s (slotUnit slot) k) s
    let s := modNode s n.lead fun x => { x with out := x.out ++ [(chunk, r.1)], flags := x.flags ||| r.2 }
    let s := back.foldl (fun s k => giveCredit s coll k.1 k.2 1) s
    if (nodeSt s n.lead).out.length = cdiv d.2 1792 then completeColl s f n else s

/-- A child's whole part of a dense chunk has the chunk's elements (R77, R574). -/
def partGood (b : List Byte) (child len base : Nat) (bs : List Byte) : Bool :=
  if decide (child < 2 ^ 24) || wbRedop b != 0 then bs.length == 256 * cdiv (len * (etypeBits (wbIn b) / 8)) 256
  else (partialPart (wbColl b) len base bs).isSome

/-- A dense packet of a reduce-scatter. One past the window has found no credit and waits at its source (R80); one whose chunk
another slot of the set handles is not for this slot (R76). -/
def denseData (s : State) (f : Nat) (n : NodeRec) (slot : Nat) (b : List Byte) (p : Pkt) (q : ColPkt) : State :=
  let st := nodeSt s n.lead
  let d := denseLen s f n b
  let coll := wbColl b
  if q.chunk % max n.stripe 1 ≠ q.pos then s
  else if cdiv d.2 1792 ≤ q.chunk then partialFault (taken s p) f n slot coll
  else if !inWindowOf n q.chunk (st.chunksDone.contains ·) then s
  else if st.chunksDone.contains q.chunk || !partTakes st q then partialFault (taken s p) f n slot coll
  else
    let s := keepPkt (taken s p) n q
    match partOf (nodeSt s n.lead) q.child q.chunk with
    | none => s
    | some ps =>
      if !partGood b q.child (chunkLen d.2 q.chunk) (d.1 + 1792 * q.chunk) (partBytes ps) then partialFault (dropPart s n q) f n slot coll
      else
        let st := nodeSt s n.lead
        let kids := ((st.pkts.filter fun x => x.chunk == q.chunk).map (·.child)).eraseDups
        let parts := kids.filterMap fun k => (partOf st k q.chunk).map fun y => (k, partBytes y)
        if parts.length = n.fanin then closeChunk s f n slot b q.chunk parts else s

/-! ## All-gather (R74) -/

/-- Output chunks whose every element is at hand are multicast to every member, each stored once. -/
def multicast (s : State) (f : Nat) (n : NodeRec) (b : List Byte) : State :=
  let st := nodeSt s n.lead
  let total := gatherTotal st
  let w := etypeBits (wbOut b) / 8
  let ready := (List.range (cdiv total 1792)).filter fun c =>
    Tab.get 0 st.got c == chunkLen total c && !(st.out.any fun o => o.1 == c)
  let dsts := (List.range (furrowFld s f 1)).map fun ord => memberAddr (memberWord s f ord)
  let s := ready.foldl (fun s c =>
    let bs := Mem.reads st.asm (1792 * c * w) (chunkLen total c * w)
    let ps := chunkPkts s (ownAddr s) 0 (wbColl b) c (cutBytes 65536 bs)
    let ids := (List.range ps.length).map (s.core.nextCopy + ·)
    let s := modWaits (sendCast s (slotUnit n.lead) dsts ps) fun x =>
      if x.lead = n.lead ∧ x.chunks.contains c = true then { x with chunks := x.chunks.erase c, ids := x.ids ++ ids } else x
    modNode s n.lead fun x => { x with out := x.out ++ [(c, [])] }) s
  if (nodeSt s n.lead).out.length = cdiv total 1792 then completeColl s f n else s

/-- Chunks of a member's contribution. -/
def billChunks (b : Bill) : Nat := cdiv (wbCount b.bytes) 1792

/-- A child's contribution to an all-gather is those of its members in ascending ordinal: the member and its chunk that a chunk
number of the child stands for, none past the last (R574, log 93). -/
def gatherPart (bs : List Bill) (c : Nat) : Option (Bill × Nat) :=
  match bs with
  | [] => none
  | b :: rest => if c < billChunks b then some (b, c) else gatherPart rest (c - billChunks b)

/-- The number under which a node passes a member's chunk on. -/
def gatherNo (st : Node) (b : Bill) (c : Nat) : Nat :=
  (((served st).filter fun x => decide (wbOrd x.bytes < wbOrd b.bytes)).map billChunks).foldl (· + ·) 0 + c

/-- A whole part of an all-gather chunk at the root, put in its place in the output (R74); its credit waits until every copy has
been read (R80). -/
def placePart (s : State) (f : Nat) (n : NodeRec) (slot : Nat) (dst : Addr) (b : Bill) (c : Nat) (bs : List Byte) : State :=
  let st := nodeSt s n.lead
  let w := etypeBits (wbIn b.bytes) / 8
  let len := chunkLen (wbCount b.bytes) c
  let off := (((served st).filter fun x => decide (wbOrd x.bytes < wbOrd b.bytes)).map fun x => wbCount x.bytes).foldl (· + ·) 0
  let first := off + 1792 * c
  let wait : CopyWait := { lead := n.lead, coll := wbColl b.bytes, ids := [], slot, dst
                           chunks := (List.range ((first + len - 1) / 1792 + 1 - first / 1792)).map (first / 1792 + ·) }
  let s := { s with coll := { s.coll with copyWaits := s.coll.copyWaits ++ [wait] } }
  let s := modNode s n.lead fun x =>
    { x with asm := Mem.writes x.asm (first * w) (bs.take (len * w))
             got := (List.range len).foldl (fun t i => Tab.upd 0 t ((first + i) / 1792) (· + 1)) x.got }
  multicast s f n b.bytes

/-- A packet of an all-gather: a child's whole part of a chunk is passed up, or at the root put in its place (R74, R80). -/
def gatherData (s : State) (f : Nat) (n : NodeRec) (slot coll : Nat) (p : Pkt) (q : ColPkt) : State :=
  let st := nodeSt s n.lead
  let key (c : Nat) : Nat := 2 ^ 32 * q.child + c
  if q.chunk % max n.stripe 1 ≠ q.pos then s
  else
    match gatherPart ((ordered st).filter fun b => b.child == q.child) q.chunk with
    | none => partialFault (taken s p) f n slot coll
    | some (b, c) =>
      if !inWindowOf n q.chunk (fun x => st.chunksDone.contains (key x)) then s
      else if st.chunksDone.contains (key q.chunk) || !partTakes st q then partialFault (taken s p) f n slot coll
      else
        let s := keepPkt (taken s p) n q
        match partOf (nodeSt s n.lead) q.child q.chunk with
        | none => s
        | some ps =>
          let bs := partBytes ps
          let s := dropPart s n q
          if bs.length != 256 * cdiv (chunkLen (wbCount b.bytes) c * (etypeBits (wbIn b.bytes) / 8)) 256 then partialFault s f n slot coll
          else
            let s := modNode s n.lead fun x => { x with chunksDone := x.chunksDone ++ [key q.chunk] }
            let dst := if q.child < 2 ^ 24 then memberAddr (memberWord s f (wbOrd b.bytes)) else addr (q.child - 2 ^ 24) 0
            match parentOf s f n with
            | some m => sendUp s m slot coll (gatherNo st b c) (cutBytes 65536 bs) [(slot, dst)]
            | none => placePart s f n slot dst b c bs

/-! ## Sparse streams (R98 to R104) -/

/-- A pair of a stream: its index, its value, and the flags of the cell that brought it where the value is NaN (R48). -/
abbrev SPair := Nat × Acc × Nat

/-- A row end marker carries no pair (11 R331). -/
def ColPkt.marker (x : ColPkt) : Bool := x.payload.length == 4

/-- A stream's packets that have arrived without a gap, chunk by chunk. -/
def streamPkts (n : Node) (child pos : Nat) : List ColPkt :=
  let ps := (n.pkts.filter fun x => x.child == child && x.pos == pos && !x.marker).mergeSort fun a b =>
    decide (a.chunk < b.chunk) || (a.chunk == b.chunk && decide (a.pkt ≤ b.pkt))
  (ps.foldl (fun (a : List ColPkt × Nat × Nat) x =>
    if x.chunk = a.2.1 ∧ x.pkt = a.2.2 then (a.1 ++ [x], if x.last then (a.2.1 + 1, 0) else (a.2.1, a.2.2 + 1)) else a) ([], 0, 0)).1

/-- Pairs of raw cells (Table 3-7), the zero fill among them. -/
def rawPairList (et : Nat) (bs : List Byte) : List SPair :=
  (rawPairBytes et bs).map fun pr => (leAt pr 0 4, Acc.code et {} (leAt pr 4 (etypeBits et / 8)), 0)

/-- Pairs in the last cell of a payload without the zeros that may fill it (R99). -/
def trimmedPairs (et : Nat) (bs : List Byte) : Nat :=
  let k := 256 / pairBytes et
  let ps := rawPairBytes et bs
  let tail := ps.drop (ps.length - k)
  (ps.length - k) + max 1 (tail.length - (tail.reverse.takeWhile fun p => p.all (· == 0)).length)

/-- Pairs of the sparse partial cells of a payload; none when a check fails. -/
def partPairs (coll : Nat) (bs : List Byte) : Option (List SPair) :=
  (readCells true coll (bs.length + 1) bs).map fun cs =>
    cs.flatMap fun c => (c.idx.zip c.elems).map fun e => (e.1, e.2, if e.2.nan then c.flags else 0)

/-- COUNT of a raw child's waybill. -/
def countOf (st : Node) (child : Nat) : Nat := (((served st).find? fun b => b.child == child).map fun b => wbCount b.bytes).getD 0

/-- A slot that is the only one its members send to counts their pairs against COUNT (R99); where a member's pairs are divided
among slots, zero pairs at the end of a stream are its fill (log 22). -/
def soleSlot (s : State) (f : Nat) (n : NodeRec) : Bool := n.stripe == 1 && furrowFld s f 4 == 1

/-- Pairs received of a stream (child, position). -/
def streamPairs (sole : Bool) (b : List Byte) (st : Node) (c : Nat × Nat) : List SPair :=
  let ps := streamPkts st c.1 c.2
  if c.1 < 2 ^ 24 then
    let bs := ps.flatMap (·.payload)
    let n := if bs.isEmpty then 0 else if sole then countOf st c.1 else min (countOf st c.1) (trimmedPairs (wbIn b) bs)
    (rawPairList (wbIn b) bs).take n
  else ps.flatMap fun x => (partPairs (wbColl b) x.payload).getD []

/-- The streams of a node: (child, position). -/
def streamsOf (n : Node) : List (Nat × Nat) := (n.pkts.map fun x => (x.child, x.pos)).eraseDups

/-- The streams from the node's children at a slot position, and those from segment slots (numbers from 2^26). -/
def childStreams (st : Node) (k : Nat) : List (Nat × Nat) := (streamsOf st).filter fun c => c.2 == k && decide (c.1 < 2 ^ 26)
def segStreams (st : Node) (k : Nat) : List (Nat × Nat) := (streamsOf st).filter fun c => c.2 == k && decide (2 ^ 26 ≤ c.1)

/-- A stream has ended: its LEN 0 packet has come (R104), or its COUNT pairs where it is a member's only one (R101). -/
def streamEnded (sole : Bool) (b : List Byte) (n : Node) (c : Nat × Nat) : Bool :=
  ((streamPkts n c.1 c.2).any fun x => x.payload.isEmpty) ||
    (sole && decide (c.1 < 2 ^ 24) && decide (countOf n c.1 ≤ (streamPairs sole b n c).length))

/-- Index below which a stream has passed: 2^32 when it has ended. -/
def streamBound (sole : Bool) (b : List Byte) (st : Node) (c : Nat × Nat) : Nat :=
  if streamEnded sole b st c then 2 ^ 32 else ((streamPairs sole b st c).getLast?.map (·.1)).getD 0

/-- Index below which every child's stream to a slot position has passed (R101). A raw member of COUNT 0 sends none (R88). -/
def slotBound (sole : Bool) (b : List Byte) (n : NodeRec) (st : Node) (k : Nat) : Nat :=
  let cs := childStreams st k
  let due := n.fanin - ((directBills st).filter fun x => wbCount x.bytes == 0).length
  if cs.length < due then 0 else cs.foldl (fun m c => min m (streamBound sole b st c)) (2 ^ 32)

/-- Home slot position of an index (R101). -/
def homeOf (b : List Byte) (n : NodeRec) (i : Nat) : Nat := (i >>> wbShift b) % max n.stripe 1

/-- Pairs of the children at a slot position that belong to a home slot. -/
def heldFor (sole : Bool) (b : List Byte) (n : NodeRec) (st : Node) (k home : Nat) : List SPair :=
  ((childStreams st k).flatMap (streamPairs sole b st)).filter fun p => homeOf b n p.1 == home

/-- Rows of a home slot that some member split: pairs of them lie at another slot (R102). -/
def splitRows (sole : Bool) (b : List Byte) (n : NodeRec) (st : Node) (home : Nat) : List Nat :=
  (((List.range (max n.stripe 1)).filter (· != home)).flatMap fun k => (heldFor sole b n st k home).map fun p => p.1 >>> wbShift b).eraseDups

/-- Segment slots of a home slot (R102). -/
def segGroup (s : State) (f : Nat) (b : List Byte) (n : NodeRec) (st : Node) (home : Nat) : List Nat :=
  let w := max n.stripe 1
  let named := (List.range (max (furrowFld s f 6) 1)).map fun x => (home + 1 + x) % w
  (List.range w).filter fun k => k != home && (named.contains k || !(heldFor (soleSlot s f n) b n st k home).isEmpty)

/-- Every segment stream due at a home slot has ended. -/
def segsIn (s : State) (f : Nat) (b : List Byte) (n : NodeRec) (st : Node) (home : Nat) : Bool :=
  (segGroup s f b n st home).all fun k => (segStreams st home).any fun c =>
    c.1 == segOwner (n.lead + 32 * k) && streamEnded false b st c

/-- Index below which a home slot may emit: its children and its segment slots' have passed it, and no row at or above a split one
comes before the segment streams (R101, R102). -/
def emitBound (s : State) (f : Nat) (b : List Byte) (n : NodeRec) (st : Node) (home : Nat) : Nat :=
  let sole := soleSlot s f n
  let m := (segGroup s f b n st home).foldl (fun m k => min m (slotBound sole b n st k)) (slotBound sole b n st home)
  if segsIn s f b n st home then m else (splitRows sole b n st home).foldl (fun m q => min m (q <<< wbShift b)) m

/-- Pairs summed by index, ascending (R45, R101). -/
def mergePairs (ps : List SPair) : List SPair :=
  let sorted := ps.mergeSort fun x y => decide (x.1 ≤ y.1)
  (sorted.foldl (fun (a : List SPair) p =>
    match a with
    | (i, x, fl) :: rest => if i = p.1 then (i, x.join p.2.1, fl ||| p.2.2) :: rest else p :: a
    | [] => [p]) []).reverse

/-- The sums of a home slot's indices below a bound: its children's pairs and its segment streams' (R101). -/
def homePairs (s : State) (f : Nat) (b : List Byte) (n : NodeRec) (st : Node) (bound home : Nat) : List SPair :=
  let sole := soleSlot s f n
  mergePairs ((heldFor sole b n st home home ++ (segStreams st home).flatMap (streamPairs sole b st)).filter fun p => decide (p.1 < bound))

/-- One output stream advanced: full chunks are sent, and at the end the rest and the LEN 0 packet.
`per` is its pairs a chunk, `emitC` forms and sends chunk `c` of some pairs; a stream ends once. -/
def advanceStream (s : State) (lead key per : Nat) (pairs : List SPair) (ended : Bool)
    (emitC : State → Nat → List SPair → State) (close : State → Nat → State) : State :=
  let t := (nodeSt s lead).sent
  let sent := Tab.get 0 t key
  if Tab.get 0 t (2 ^ 32 + key) = 1 then s
  else
    let last := if ended then cdiv pairs.length per else pairs.length / per
    let s := (List.range (last - sent)).foldl (fun s i => emitC s (sent + i) ((pairs.drop (per * (sent + i))).take per)) s
    let s := modNode s lead fun x => { x with sent := Tab.set 0 (Tab.set 0 x.sent key last) (2 ^ 32 + key) (if ended then 1 else 0) }
    if ended then close s last else s

/-- Sums as sparse partial cells of 18 pairs (R100). CONTRIB is the waybills that the node holds (log 94). -/
def sumCells (coll contrib : Nat) (ps : List SPair) : List (List Byte) :=
  (List.range (cdiv ps.length 18)).map fun i =>
    let es := (ps.drop (18 * i)).take 18
    mkCell (es.map (·.2.1)) (some (es.map (·.1))) contrib ((es.map fun e => ownFlags e.2.1 ||| e.2.2).foldl (· ||| ·) 0) 0 coll

/-- Streams of sums to one slot of a device, advanced: chunks of 64 cells, and the packet that ends it. -/
def advanceSums (s : State) (lead key owner dev slot window coll contrib : Nat) (pairs : List SPair) (ended : Bool) : State :=
  let dst := addr dev 0
  let o : OutChunk := { owner, sink := sinkOfSlot dev slot, window, pkts := [] }
  advanceStream s lead key 1152 pairs ended
    (fun s c ps => sendChunk s { o with pkts := chunkPkts s (ownAddr s) dst coll c (sumCells coll contrib ps) })
    (fun s c => sendChunk s { o with free := true, pkts := [endPkt s (ownAddr s) dst coll c] })

/-- When every child's stream has ended, each segment slot sends its sums of split rows to their home slots, with an end marker for
each split row it did not receive (R102, 11 R331). A marker takes no PKT number of its chunk's cells (log 65). -/
def sendSegments (s : State) (f : Nat) (n : NodeRec) (b : List Byte) : State :=
  let st := nodeSt s n.lead
  let sole := soleSlot s f n
  let all := List.range (max n.stripe 1)
  if st.segSent || all.any (fun k => slotBound sole b n st k != 2 ^ 32) then s
  else
    let coll := wbColl b
    let own := s.plan.deviceId.toNat
    all.foldl (fun s home =>
      let rows := splitRows sole b n st home
      if rows.isEmpty then s
      else (segGroup s f b n st home).foldl (fun s k =>
        let ps := mergePairs (heldFor sole b n st k home)
        let slot := n.lead + 32 * home
        let owner := segOwner (n.lead + 32 * k)
        let missed := rows.filter fun q => !ps.any fun p => p.1 >>> wbShift b == q
        let at_ := (cdiv ps.length 1152 - 1) * 32
        let marks := (enum missed).map fun r =>
          mkPkt (ownAddr s) (addr own 0) 7 pColData (BitVec.ofNat 32 (at_ + r.1 % 32)) (BitVec.ofNat 32 coll) s.fault.epochMax (leBytes 4 r.2)
        let s := if marks.isEmpty then s else sendChunk s { owner, sink := sinkOfSlot own slot, window := n.window, free := true, pkts := marks }
        advanceSums s n.lead (4096 * (k + 1) + home) owner own slot n.window coll (served st).length ps true) s)
      (modNode s n.lead fun x => { x with segSent := true })

/-- Credits of chunks whose every pair the merge has consumed (R104). -/
def creditStreams (s : State) (f : Nat) (n : NodeRec) (b : List Byte) : State :=
  let st := nodeSt s n.lead
  let sole := soleSlot s f n
  (streamsOf st).foldl (fun s c =>
    let bound := if c.1 < 2 ^ 26 then slotBound sole b n st c.2
      else (segStreams st c.2).foldl (fun m x => min m (streamBound sole b st x)) (2 ^ 32)
    let ps := streamPkts st c.1 c.2
    let closed := (ps.filter fun x => x.last && !x.payload.isEmpty).map (·.chunk)
    let pairsOf (x : ColPkt) : List SPair :=
      if c.1 < 2 ^ 24 then rawPairList (wbIn b) x.payload else (partPairs (wbColl b) x.payload).getD []
    let used := closed.filter fun k => (ps.filter fun x => x.chunk == k).all fun x => (pairsOf x).all fun p => decide (p.1 < bound)
    let had := ((st.credited.find? fun y => y.1 == c.1 && y.2.1 == c.2).map (·.2.2)).getD 0
    if had < used.length then
      let s := modNode s n.lead fun x =>
        { x with credited := (x.credited.filter fun y => !(y.1 == c.1 && y.2.1 == c.2)) ++ [(c.1, c.2, used.length)] }
      let dst := if c.1 < 2 ^ 24 then BitVec.ofNat 24 c.1 else if c.1 < 2 ^ 26 then addr (c.1 - 2 ^ 24) 0 else addr s.plan.deviceId.toNat 0
      giveCredit s (wbColl b) (n.lead + 32 * c.2) dst (used.length - had)
    else s) s

/-- Pairs of a node that are ready for the parent's slot `k` of `w`, and whether the stream to it has ended. A slot of this node
bounds them when it can be home to a row of that slot. -/
def upPairs (s : State) (f : Nat) (n : NodeRec) (b : List Byte) (w k : Nat) : List SPair × Bool :=
  let st := nodeSt s n.lead
  let g := Nat.gcd w (max n.stripe 1)
  let homes := (List.range (max n.stripe 1)).filter fun j => j % g == k % g
  let bound := homes.foldl (fun m j => min m (emitBound s f b n st j)) (2 ^ 32)
  (((homes.flatMap (homePairs s f b n st bound)).filter fun p => (p.1 >>> wbShift b) % w == k).mergeSort fun x y => decide (x.1 ≤ y.1),
    bound == 2 ^ 32)

/-- A chunk of a range's output delivered by the root to its sink (R33, R45, R104). -/
def emitRaw (s : State) (n : NodeRec) (b : List Byte) (dst : Addr) (c : Nat) (ps : List SPair) : State :=
  let rs := ps.map fun p => (p.1, rootRound b p.1 p.2.1, p.2.2)
  let bs := rs.flatMap fun r => packPair (wbOut b) r.1 r.2.1.1
  let s := (chunkPkts s (ownAddr s) dst (wbColl b) c (cutBytes 65536 bs)).foldl (fun s k => send s (slotUnit n.lead) k) s
  modNode s n.lead fun x => { x with out := x.out ++ [(c, bs)], flags := (rs.map fun r => r.2.1.2 ||| r.2.2).foldl (· ||| ·) x.flags }

/-- What the merge of a SUM_SPARSE collective can do now: segment streams, credits, output. -/
def sparseAdvance (s : State) (f : Nat) (n : NodeRec) (b : List Byte) : State :=
  let s := creditStreams (sendSegments s f n b) f n b
  let coll := wbColl b
  match parentOf s f n with
  | some m =>
    (List.range (max m.stripe 1)).foldl (fun s k =>
      let r := upPairs s f n b (max m.stripe 1) k
      advanceSums s n.lead k (upOwner n.lead) m.device (m.lead + 32 * k) m.window coll (served (nodeSt s n.lead)).length r.1 r.2) s
  | none =>
    let r := upPairs s f n b 1 0
    let dst := (sinkOf s f n.range).1
    let s := advanceStream s n.lead 0 (rawPairs (wbOut b)) r.1 r.2 (fun s c ps => emitRaw s n b dst c ps)
      (fun s c => send s (slotUnit n.lead) (endPkt s (ownAddr s) dst coll c))
    if r.2 then completeColl s f n else s

/-- A stream descends (R98), or repeats an index where cells must ascend (R100). -/
def streamFault (sole : Bool) (b : List Byte) (st : Node) (c : Nat × Nat) : Option Half :=
  let ix := (streamPairs sole b st c).map (·.1)
  let steps := ix.zip (ix.drop 1)
  if steps.any fun p => decide (p.2 < p.1) then some fSparseOrder
  else if 2 ^ 24 ≤ c.1 && steps.any fun p => p.1 == p.2 then some fPartialFormat
  else none

/-- A packet of a SUM_SPARSE stream. Its CHUNK must lie below the LEN 0 packet's, whichever comes first (R574). -/
def sparseData (s : State) (f : Nat) (n : NodeRec) (slot : Nat) (b : List Byte) (p : Pkt) (q : ColPkt) : State :=
  let coll := wbColl b
  let sole := soleSlot s f n
  let st0 := nodeSt s n.lead
  let mine := st0.pkts.filter fun x => x.child == q.child && x.pos == q.pos && !x.marker
  let late := !q.marker && mine.any fun x =>
    (x.payload.isEmpty && decide (x.chunk ≤ q.chunk)) || (q.payload.isEmpty && decide (q.chunk ≤ x.chunk))
  let s := taken s p
  if late || (decide (2 ^ 24 ≤ q.child) && !q.marker && (partPairs coll q.payload).isNone) then partialFault s f n slot coll
  else
    let s := keepPkt s n q
    let st := nodeSt s n.lead
    match streamFault sole b st (q.child, q.pos) with
    | some code =>
      if (streamFault sole b st0 (q.child, q.pos)).isSome then s else slotFault s f n slot st.h st.idx coll code
    | none => sparseAdvance s f n b

/-! ## COL_DATA, COL_DATA_END, COL_GRANT, COL_CREDIT at slots -/

/-- The child or segment slot that a packet at a slot comes from: `seg` names the slot of the same set that sent it (R102). -/
def sourceOf (s : State) (f : Nat) (n : NodeRec) (seg : Option Nat) (src : Addr) : Option Nat :=
  match seg with
  | some k => if n.slots.contains k && src == ownAddr s then some (segOwner k) else none
  | none => childOf s f n src

/-- A data packet at a slot: it waits while the slot does not yet serve its collective (R89), and is dropped when that has ended or
the packet comes from no child (R575). -/
def slotData (slot : Nat) (seg : Option Nat) (p : Pkt) (s : State) : State :=
  match slotNode s slot with
  | none => s
  | some (f, n, k) =>
    let st := nodeSt s n.lead
    let coll := p.fcid.toNat
    match (served st).find? fun b => wbColl b.bytes == coll with
    | none => if st.bills.any fun b => wbColl b.bytes == coll then s else taken s p
    | some b =>
      match sourceOf s f n seg p.src with
      | none => taken s p
      | some child =>
        let q : ColPkt := { child, src := p.src, pos := k, chunk := p.seq.toNat / 32, pkt := p.seq.toNat % 32,
                            last := p.op == pColDataEnd, payload := p.payload }
        let s := if wbHalf b.bytes = 1 then gatherData s f n slot coll p q
          else if wbSparse b.bytes then sparseData s f n slot b.bytes p q
          else denseData s f n slot b.bytes p q
        serveNext 32 s f n

/-- A grant on its way down at a node (R86): when one has come for every waybill the node holds, each goes on unchanged, in order of
OFFSET, to the member in order of ordinal. A grant names no member; equal ones are alike (log 93). -/
def slotGrant (slot : Nat) (p : Pkt) (s : State) : State :=
  match slotNode s slot with
  | none => s
  | some (f, n, _) =>
    let st := nodeSt s n.lead
    if n.lead != slot then s
    else if !fromParent s f n p.src then taken s p
    else
      match (served st).find? fun b => wbColl b.bytes == p.fcid.toNat && wbHeadland b.bytes == leAt p.payload 24 8 with
      | none => if st.bills.any fun b => wbColl b.bytes == p.fcid.toNat then s else taken s p
      | some b =>
        let gs := st.grantsIn ++ [p.payload]
        if gs.length < (served st).length then modNode (taken s p) slot fun x => { x with grantsIn := gs }
        else
          let gs := gs.mergeSort fun a c => decide (leAt a 8 8 ≤ leAt c 8 8)
          let s := modNode (taken s p) slot fun x => { x with grantsIn := [], granted := true }
          let s := ((ordered st).zip gs).foldl (fun s e => passGrant s f n e.1 e.2) s
          if wbSparse b.bytes && leAt p.payload 16 8 != 0 then sparseAdvance s f n b.bytes else s

/-- COL_CREDIT (R80): a sender of this device gets chunk credits back. -/
def colCredit (p : Pkt) (s : State) : State :=
  takeCredits (taken s p) (fieldOf p.dst) (sinkOfSlot (devOf p.src) (leAt p.payload 0 2 % 4096)) (leAt p.payload 2 2)

def execColCredit (p : Pkt) (s : State) : Out := onPkt p s (colCredit p)

end Sys2Proof.Machine
end

