-- ==== Sys2Proof/Machine/Prov.lean ====
section
/-!
DEFINITION. Provenance trailers of movement transfers (16 R467, R468) and the crop digest that leaves them out
(Table 16-4).
-/

namespace Sys2Proof.Machine
open Sys2Proof

/-- Magic of a trailer. -/
abbrev provMagic : Nat := 0x50525631

def preg (s : State) (r : Nat) : List Byte × Bool := Tab.get (List.replicate 32 0, false) s.audit.pregs r

/-- The PROV record of a furrow whose sending member's MEMBER_MAP word is `mine`. -/
def provRec (s : State) (f : Nat) (mine : Nat → Bool) : Option PlanRec :=
  (planRecs s 0x0C 0x01).find? fun r => r.fld 0 == f && mine (memberWord s f (r.fld 1))

/-- The 144 bytes of a trailer (Table 16-6). -/
def trailerBytes (s : State) (r : PlanRec) (nm : Bool) : List Byte :=
  let w := preg s (r.fld 2)
  let i := preg s (r.fld 3)
  let flags := (nm || w.2 || i.2).toNat + 2 * (decide (s.audit.ue ≠ 0)).toNat
  pack 16 [(0, 4, provMagic), (4, 2, r.index), (6, 2, flags), (8, 8, now s)] ++
    sha256 (s.plan.digest ++ w.1 ++ i.1) ++ s.plan.digest ++ w.1 ++ i.1

/-- A transfer's elements and bytes with the trailer it carries, if any: TOTAL counts it in elements. -/
def withTrailer (s : State) (f : Nat) (mine : Nat → Bool) (nm : Bool) (total width : Nat) (bs : List Byte) : Nat × List Byte :=
  match provRec s f mine with
  | some r => (total + 144 * 8 / width, bs ++ trailerBytes s r nm)
  | none => (total, bs)

/-- Crop digest of a transfer received: its trailer is left out. -/
def cropMove (s : State) (f : Nat) (src : Addr) (bs : List Byte) : DWord :=
  if (provRec s f fun w => memberIs w src).isSome then crop (bs.take (bs.length - 144)) else crop bs

end Sys2Proof.Machine
end

