-- ==== Sys2Proof/Machine/PlotCore.lean ====
section
/-!
DEFINITION. What every plot operation is built from (05, 07): plan fields, control words, scratchpad
lines with their taint, status flags, stopping on a fault, and the issue of a control word part by part.
-/

namespace Sys2Proof.Machine
open Sys2Proof

def plot (s : State) (p : Nat) : Plot := Tab.get {} s.plots p
def modPlot (s : State) (p : Nat) (f : Plot → Plot) : State := { s with plots := Tab.upd {} s.plots p f }

/-! ## Plan fields -/

/-- PLOT_CTL (07 Table 7-11). -/
def plotCtl (s : State) (p : Nat) : Nat := ((planRec s 0x09 0x01 p).map (·.fld 0)).getD 0
def flagged (s : State) (p : Nat) : Bool := bit (plotCtl s p) 31
def bound (s : State) (p : Nat) : Bool := bit (plotCtl s p) 30
def isCellar (s : State) (p : Nat) : Bool := bit (plotCtl s p) 29
def waitLimit (s : State) (p : Nat) : Nat := bits (plotCtl s p) 23 16
def tableWords (s : State) (p : Nat) : Nat := bits (plotCtl s p) 14 0

/-- FALLOW by grading (05 R144, Table 5-10). -/
def fallow (s : State) (p : Nat) : Bool := !bit s.part.plotPresent.toNat p

/-- Control, binding and window tables of a plot (09 R271). -/
def plotTab (s : State) (p i : Nat) : List (List Nat) := ((planRec s 0x09 0x01 p).map (·.tab i)).getD []

/-- A control word as one number (09 Table 9-4). -/
def wordOf (ws : List Nat) : Nat := (enum ws).foldl (fun a e => a + e.2 * 2 ^ (32 * e.1)) 0

/-- Control word `a` of a plot. -/
def plotWord (s : State) (p a : Nat) : Option Nat := if a < tableWords s p then ((plotTab s p 0)[a]?).map wordOf else none

/-- A receive binding (Table 9-5): kind, SHARED, furrow, SOURCES, first line, lines. -/
structure BindRec where
  kind : Nat
  shared : Bool
  furrow : Nat
  sources : Nat
  first : Nat
  lines : Nat
  deriving DecidableEq, Repr

def bindRecs (s : State) (p : Nat) : List BindRec :=
  (plotTab s p 1).map fun e =>
    let w := e.getD 0 0
    { kind := bits w 31 29, shared := bit w 28, furrow := bits w 27 20, sources := bits w 15 0,
      first := bits (e.getD 1 0) 16 0, lines := bits (e.getD 2 0) 17 0 }

def bindSt (s : State) (p b : Nat) : Bind := Tab.get {} (plot s p).binds b
def modBind (s : State) (p b : Nat) (f : Bind → Bind) : State := modPlot s p fun x => { x with binds := Tab.upd {} x.binds b f }

/-- A binding of a Cellar plot's sealed furrow (15 R439). -/
def isSealed (s : State) (p : Nat) (r : BindRec) : Bool := isCellar s p && r.kind == 0 && (planRec s 0x0B 0x02 r.furrow).isSome

/-! ## Faults of a plot (05 R175) -/

/-- Array and scratchpad faults enter PLOT_ARRAY_STATUS, harrow faults HARROW_STATUS, the others
PLOT_SEQ_FAULT; SCRATCH_UE of a harrow read enters the first two (05 Table 5-10, 06 Table 6-4). -/
inductive FaultUnit
  | array | harrow | seq
  deriving DecidableEq, Repr

/-- Body of PLOT_FAULT (17 Table 17-13). -/
structure FaultInfo where
  addr : Nat
  slab : Nat := 0
  group : Nat := 0
  col : Nat := 0
  remote : Nat := 0
  deriving DecidableEq, Repr

/-- The plot stops (a granary error is counted at its controller): no further word issues, STATE becomes ABORTED, and stops that wait complete. -/
def plotAbort (s : State) (p : Nat) (u : FaultUnit) (code : Half) (i : FaultInfo) : State :=
  let body := pack 40 [(0, 2, i.addr), (2, 2, i.slab), (4, 2, i.group), (6, 2, i.col), (8, 2, i.remote)]
  let s := if code = fGranaryUe then tally s { kind := kPlotFault, utype := uPlot, unit := p, fault := code, body }
    else raiseBy s code uPlot p kPlotFault body
  let stops := (plot s p).stops
  let start := (plot s p).startCmd
  let s := modPlot s p fun x =>
    let x := { x with mode := .aborted, snap := none, halted := false, stopping := false, stops := [], startCmd := none
                      cycles := if x.mode = PlotMode.running then BitVec.ofNat 64 x.cyc else x.cycles }
    match u with
    | .array => { x with lastFault := code }
    | .harrow => { x with hLastFault := code, lastFault := if code = fScratchUe then code else x.lastFault }
    | .seq => { x with seqFault := code, faultPc := BitVec.ofNat 14 i.addr }
  let s := match start with
    | some c => cmdDone s c oPlotStart stOk
    | none => s
  stops.foldl (fun s c => cmdDone s c oPlotStop stOk) s

/-- A fault of the word being issued. -/
def wordFault (s : State) (p : Nat) (u : FaultUnit) (code : Half) : State := plotAbort s p u code { addr := (plot s p).pc.toNat }

/-- A bank set to +0 by a fault; untainted only if it was (R175). -/
def zeroBank (s : State) (p : Nat) (b : Bool) (wasTainted : Bool) : State :=
  modPlot s p fun x => if b then { x with bank1 := { vals := [], taint := wasTainted } } else { x with bank0 := { vals := [], taint := wasTainted } }

def bankOf (x : Plot) (b : Bool) : Bank := if b then x.bank1 else x.bank0
def setBank (x : Plot) (b : Bool) (v : Bank) : Plot := if b then { x with bank1 := v } else { x with bank0 := v }

/-- A fault of an array operation at issue: its bank is +0. -/
def arrayFault (s : State) (p : Nat) (b : Bool) (code : Half) : State :=
  zeroBank (wordFault s p .array code) p b (bankOf (plot s p) b).taint

/-! ## Scratchpad lines (05 R158 to R163) -/

/-- The 128 bytes of a line. -/
def readLine (x : Plot) (l : Nat) : List Byte := Mem.reads x.scratch (128 * l) 128

def lineTaint (x : Plot) (l : Nat) : Bool := Tab.get false x.taint l

/-- Lines `[first, first + n)`. -/
def lineSpan (first n : Nat) : List Nat := (List.range n).map fun i => first + i

/-- Bytes written from a byte offset of a list of lines. -/
def writeLines (x : Plot) (ls : List Nat) (bs : List Byte) : Plot :=
  { x with scratch := (enum ls).foldl (fun m e =>
      let chunk := (bs.drop (128 * e.1)).take 128
      Mem.writes m (128 * e.2) chunk) x.scratch }

/-- Taint of lines set; a line only partly written keeps its taint too (06 R197, 05 R150). -/
def taintLines (x : Plot) (ls : List Nat) (t : Bool) (whole : Nat → Bool) : Plot :=
  { x with taint := ls.foldl (fun m l => Tab.set false m l (t || (!whole l && Tab.get false m l))) x.taint }

/-! ## Address generators (07 R214) -/

/-- Line `j` of a stream. -/
def agLine (g : AgStream) (j : Nat) : Nat :=
  if g.run = 0 then g.base + j else g.base + (j / g.run) * g.stride + j % g.run

/-- The AG field `n` of a word. -/
def agField (w n : Nat) : Nat := bits w (48 * n + 367) (48 * n + 320)
def agMode (f : Nat) : Nat := bits f 47 46

/-- The stream that a word's generator `n` starts, when it is not OFF. CONT goes on where the previous
stream ended: its line 0 is line `next` of that stream. -/
def agStream (x : Plot) (w n : Nat) : Option AgStream :=
  let f := agField w n
  let old := Tab.get {} x.ags n
  if agMode f = 1 then some { used := true, base := bits f 45 22 / 128, run := bits f 21 11, stride := bits f 10 0, next := 0 }
  else if agMode f = 2 ∧ old.used then some old
  else none

/-- Lines of a stream of `k` lines. -/
def agLines (g : AgStream) (k : Nat) : List Nat := (List.range k).map fun j => agLine g (g.next + j)

/-- The generator after a stream of `k` lines. -/
def agUse (x : Plot) (n : Nat) (g : AgStream) (k : Nat) : Plot := { x with ags := Tab.set {} x.ags n { g with next := g.next + k } }

/-- Every line lies in the scratchpad (05 Table 5-9). -/
def inScratch (ls : List Nat) : Bool := ls.all fun l => decide (l < 131072)

/-! ## Units and status flags (07 R210) -/

def mmFree (x : Plot) : Bool := !x.ops.any fun o => o.unit == .mm && decide (o.t < o.free)
def accFree (x : Plot) : Bool := !x.ops.any fun o => o.unit == .acc
def harrowFree (x : Plot) : Bool := !x.ops.any fun o => o.unit == .harrow

/-- A bank is busy with an operation of a unit (05 R153): to its end, or until a harrow operation has read its last element. -/
def bankBusyBy (x : Plot) (b : Bool) (u : OpUnit) : Bool :=
  x.ops.any fun o => o.unit == u && o.bank == some b && (u != .harrow || decide (o.t < o.free))

def bankBusy (x : Plot) (b : Bool) : Bool := bankBusyBy x b .mm || bankBusyBy x b .acc || bankBusyBy x b .harrow

/-- The head of the tile queue when the harrow or TQ_DROP may take it (06 R196). -/
def tqHead (x : Plot) : Option TileEntry :=
  match x.tq with
  | e :: _ => if e.ready ≤ x.cyc ∧ e.tag < 128 then some e else none
  | [] => none

/-- Flag `i` in the plot's present cycle, event and software flags taken from `fl`. -/
def flagAt (x : Plot) (fl : DWord) (i : Nat) : Bool :=
  match i with
  | 0 => !bankBusy x false
  | 1 => !bankBusy x true
  | 2 => harrowFree x
  | 3 => decide (x.tq.length < 8)
  | 4 => (tqHead x).isSome
  | 5 => decide (x.xq.length < 4)
  | 6 => x.xq.isEmpty
  | 7 => mmFree x
  | _ => bit fl.toNat i

/-- The shared counters as a plot sees them: an increment counts from the second cycle after its own (R209). -/
def sharedSeen (s : State) (p : Nat) : Tab Word :=
  let x := plot s p
  (x.scLate.filter fun e => decide (x.cyc < e.2 + 2)).foldl (fun t e => Tab.upd 0 t (16 * (p / 16) + e.1) (· - 1)) s.sc

/-- The scalar state a plot sees in its present cycle. -/
def scalars (s : State) (p : Nat) : Snap :=
  let x := plot s p
  { ctr := x.ctr, cfg := x.cfg, lim := x.lim, sc := sharedSeen s p, flags := x.flags, done := [] }

/-- The shared counter `k` of a plot's die (R209). -/
def sharedCtr (t : Tab Word) (p k : Nat) : Word := Tab.get 0 t (16 * (p / 16) + k)

/-- Comparator `k` (R206, Table 7-5). -/
def comparator (p : Nat) (n : Snap) (k : Nat) : Bool :=
  let c := (Tab.get 0 n.cfg k).toNat
  let a := if bit c 12 then sharedCtr n.sc p (bits c 3 0) else Tab.get 0 n.ctr (bits c 3 0)
  let b := if bit c 8 then Tab.get 0 n.lim k else Tab.get 0 n.ctr (bits c 7 4)
  match bits c 11 9 with
  | 0 => a == b
  | 1 => a != b
  | 2 => decide (a.toNat < b.toNat)
  | 3 => decide (b.toNat ≤ a.toNat)
  | 4 => serialAbove b a
  | _ => !serialAbove b a

/-! ## Fields of a word -/

abbrev wAop (w : Nat) : Nat := bits w 639 636
abbrev wBank (w : Nat) : Bool := bit w 627
abbrev wM (w : Nat) : Nat := bits w 625 619 + 1
abbrev wN (w : Nat) : Nat := bits w 618 612 + 1
abbrev wK (w : Nat) : Nat := bits w 611 588
abbrev wHop (w : Nat) : Nat := bits w 319 312
/-- SRCK; the bits are part of the seed in a KEYSET word (06 Table 6-1). -/
abbrev wSrck (w : Nat) : Nat := if wHop w = 0x3F then 0 else bits w 287 286
abbrev wElems (w : Nat) : Nat := bits w 283 264
abbrev wVar (w : Nat) : Nat := bits w 301 300
abbrev wEs (w : Nat) : Nat := bits w 311 308
abbrev wEd (w : Nat) : Nat := bits w 307 304
abbrev wMsel (w : Nat) : Nat := bits w 299 298
abbrev wXreg (w : Nat) : Nat := bits w 292 288
abbrev wMreg (w : Nat) : Nat := bits w 297 293
abbrev wSA (w : Nat) : Nat := bits w 263 247
abbrev wSB (w : Nat) : Nat := bits w 246 230
abbrev wSC (w : Nat) : Nat := bits w 229 213
abbrev wSD (w : Nat) : Nat := bits w 212 196
abbrev wGop (w : Nat) : Nat := bits w 191 188
abbrev wGlines (w : Nat) : Nat := bits w 149 133
abbrev wTqop (w : Nat) : Nat := bits w 132 130
abbrev wFop (w : Nat) : Nat := bits w 95 92
abbrev wRb (w : Nat) : Nat := bits w 83 79
abbrev wCount (w : Nat) : Nat := bits w 78 39
abbrev wEtype (w : Nat) : Nat := bits w 38 35
abbrev wNxt (w : Nat) : Nat := bits w 767 764
abbrev wTarget (w : Nat) : Nat := bits w 763 750
abbrev wCop (w : Nat) : Nat := bits w 742 740
abbrev wWkind (w : Nat) : Nat := bits w 703 702
abbrev wNmark (w : Nat) : Bool := bit w 0

/-- Round up to whole lines. -/
def padLine (n : Nat) : Nat := cdiv n 128 * 128

/-- MX format codes. -/
def isMx (et : Nat) : Bool := decide (8 ≤ et) && decide (et ≤ 12)

/-- K rate of an operand pair under MM (05 Table 5-2); 0 when the pair is not permitted. -/
def kRate (a b : Nat) : Nat :=
  if (a = 1 ∧ b = 1) ∨ (a = 2 ∧ b = 2) ∨ (a = 0xE ∧ b = 0xE) then 1
  else if ((a = 3 ∨ a = 4) ∧ (b = 3 ∨ b = 4)) ∨ (a = 0xD ∧ b = 0xD) then 2
  else if a = 0xC ∧ b = 0xC then 4
  else if isMx a && isMx b then 2 else 0

/-- Bytes of a slab record of the A stream, or of the B stream under MM (05 R155). -/
def slabBytes (et cols : Nat) : Nat := (if isMx et then padLine (4 * cols) else 0) + padLine (128 * cols * etypeBits et / 8)

/-- Bytes of a slab record of the B stream under MM_SP (05 R167). -/
def sparseSlabBytes (et cols : Nat) : Nat :=
  (if isMx et then padLine (4 * cols) else 0) + padLine (16 * cols) + padLine (64 * cols * etypeBits et / 8)

/-- Slabs of a word's product. -/
def slabs (w : Nat) : Nat := cdiv (wK w) 128

/-- Bytes that AG3 moves for a word's fabric operation (07 R215, R217). -/
def fabricBytes (x : Plot) (w : Nat) : Nat :=
  if wGop w ≠ 0 then 128 * wGlines w
  else if wFop w = 2 then 64
  else if wFop w = 3 ∧ ((x.sentBills.find? fun b => b.1 == bits w 91 84).map fun b => wbSparse b.2).getD false then
    wCount w * (if wEtype w = 6 then 16 else 8)
  else if wFop w = 1 ∨ wFop w = 3 then cdiv (wCount w * etypeBits (wEtype w)) 8
  else 0

/-! ## The checks of a word (R234) -/

/-- A fault of a word: the lowest bit of the offending field and the code of 09 Table 9-7. -/
abbrev WordErr := Nat × Nat
def wbad (c : Bool) (b code : Nat) : List WordErr := if c then [(b, code)] else []

/-- What breaks the sequencer's own fields: reserved codes and bits, ranges, malformed combinations (R203 to R218, R227). -/
def seqErrs (s : State) (p a w : Nat) : List WordErr :=
  let fop := wFop w
  let gop := wGop w
  let wk := wWkind w
  let nxt := wNxt w
  let aop := wAop w
  let tw := tableWords s p
  let ag (n : Nat) := agMode (agField w n)
  let stride (n : Nat) : Bool := let f := agField w n; ag n != 0 && bits f 10 0 != 0 && decide (bits f 10 0 < bits f 21 11)
  let xfer := fop == 1 || fop == 2 || fop == 3
  let rb := (bindRecs s p)[wRb w]?
  let off (n : Nat) : List WordErr := wbad (ag n == 0) (48 * n + 366) eRule
  wbad (decide (5 < nxt)) 764 eReserved ++ wbad (decide (4 < wCop w)) 740 eReserved ++
    wbad (wCop w == 4 && (bits w 735 717 != 0 || decide (6 ≤ bits w 715 713))) 704 eReserved ++ wbad (bits w 660 640 != 0) 640 eReserved ++
    ((List.range 4).flatMap fun n => wbad (ag n == 3) (48 * n + 366) eReserved) ++ wbad (decide (2 < gop)) 188 eReserved ++
    wbad (decide (1 < wTqop w)) 130 eReserved ++ wbad (bits w 129 96 != 0) 96 eReserved ++ wbad (decide (4 < fop)) 92 eReserved ++
    wbad (bits w 34 32 != 0) 32 eReserved ++ wbad (decide (3 < bits w 26 24)) 24 eReserved ++ wbad (bits w 20 1 != 0) 1 eReserved ++
    ((List.range 4).flatMap fun n => wbad (stride n) (48 * n + 320) eRange) ++ wbad (ag 3 != 0 && bits (agField w 3) 28 22 != 0) 486 eRange ++
    wbad (gop != 0 && bits w 156 150 != 0) 150 eRange ++ wbad (decide (23 < wRb w)) 79 eRange ++
    wbad ((fop == 1 || fop == 3) && decide (7 < wEtype w)) 35 eRange ++
    wbad (decide (tw ≤ wTarget w)) 750 eRule ++ wbad (decide (nxt < 5) && nxt != 1 && decide (tw ≤ a + 1)) 764 eRule ++
    wbad (nxt == 4 && (wCop w == 1 || wCop w == 2) && bits w 749 746 == bits w 739 736) 736 eRule ++
    wbad (wk == 1 && bit w 700 && decide (bits w 699 694 < 8)) 694 eRule ++
    wbad (wk == 1 && bit w 700 && bit w 701 && decide (bits w 693 688 < 8)) 688 eRule ++
    wbad (!flagged s p && wk == 1 && eventFlag (bits w 699 694)) 694 eRule ++
    wbad (!flagged s p && wk == 1 && bit w 701 && eventFlag (bits w 693 688)) 688 eRule ++
    wbad (bit w 679 && decide (bits w 678 673 < 32)) 673 eRule ++ wbad (bit w 672 && decide (bits w 671 666 < 8)) 666 eRule ++
    wbad (bit w 679 && bit w 672 && bits w 678 673 == bits w 671 666) 666 eRule ++ wbad (wk == 3 && bit w 687) 684 eRule ++
    (if gop ≠ 0 ∧ xfer then wbad true 92 eRule else if gop ≠ 0 ∨ xfer then off 3 else []) ++
    (if (aop = 1 ∨ aop = 2) ∧ wK w ≠ 0 then off 0 ++ off 1 else []) ++ (if aop = 3 ∨ aop = 4 then off 2 else []) ++
    wbad (decide (wRb w ≤ 23) && if fop = 3 then !((rb.map fun r => r.kind == 1).getD false) else if fop = 4 then rb.isNone else (fop == 1 || fop == 2) && wRb w != 0) 79 eRule
where
  /-- An event flag, on which no word of a COUNTED plot waits (R227). -/
  eventFlag (i : Nat) : Bool := decide (8 ≤ i) && decide (i < 32)

/-- Table 5-9: what the word alone determines of an array operation. -/
def arrayErrs (w : Nat) : List WordErr :=
  let aop := wAop w
  let mm := aop == 1 || aop == 2
  let ea := bits w 635 632
  let eb := bits w 631 628
  let base (n : Nat) : List WordErr := wbad (agMode (agField w n) != 0 && bits (agField w n) 28 22 != 0) (48 * n + 342) eRange
  wbad (decide (6 < aop)) 636 eReserved ++ wbad (bits w 579 512 != 0) 512 eReserved ++
    (if mm then wbad (kRate ea eb == 0 || (aop == 2 && ea == 0xE)) 628 eRule ++ base 0 ++ base 1
     else wbad (ea != 0) 632 eRule ++ wbad (eb != 0) 628 eRule ++ wbad (wK w != 0) 588 eRule ++ wbad (bit w 626) 626 eRule) ++
    wbad (aop != 5 && bits w 587 580 != 0) 580 eRule ++ wbad ((aop == 0 || aop == 6) && bits w 625 619 != 0) 619 eRule ++
    wbad ((aop == 0 || aop == 6) && bits w 618 612 != 0) 612 eRule ++ wbad (aop == 0 && wBank w) 627 eRule ++
    (if aop = 3 ∨ aop = 4 then base 2 else [])

/-- Harrow operations that read a source B stream (06 Table 6-2). -/
def readsB (h : Nat) : Bool := (decide (1 ≤ h) && decide (h ≤ 7)) || h == 0x12 || (decide (0x18 ≤ h) && decide (h ≤ 0x1B))

/-- Positions that SPARSIFY and PRUNE_2D read (06 R193, R194). -/
def matrixSize (w : Nat) : Nat := wElems w * ((if wHop w = 0x38 then bits (wSB w) 6 0 else wSB w) + 1)

/-- ETYPE_S and ETYPE_D of a harrow operation (06 Table 6-2). -/
def harrowTypes (h es ed var : Nat) : Bool :=
  let fl (e : Nat) : Bool := decide (e ≤ 4)
  if (1 ≤ h ∧ h ≤ 0x0E) ∨ h = 0x20 then fl es && fl ed
  else if h = 0x10 then decide (es ≤ 7) && decide (ed ≤ 7)
  else if h = 0x11 ∨ h = 0x29 ∨ h = 0x2A ∨ h = 0x2B then decide (es ≤ 7) && es == ed
  else if h = 0x12 then decide (es ≤ 7) && ed == 0
  else if h = 0x18 then (es == 5 || es == 6) && es == ed
  else if 0x19 ≤ h ∧ h ≤ 0x1B then (es == 5 || es == 6 || es == 7) && es == ed
  else if h = 0x21 ∨ h = 0x22 then fl es && es == ed
  else if h = 0x28 then decide (es ≤ 7) && (if bit var 0 then ed == 7 else es == ed)
  else if h = 0x30 ∨ h = 0x31 ∨ h = 0x32 then es == 0 && ed == 0
  else if h = 0x38 then (es == 0xD || (decide (1 ≤ es) && fl es)) && es == ed
  else if h = 0x39 then (es == 0xD || fl es) && (es == ed || ed == 0)
  else false

/-- A HOP of Table 6-2. -/
def hopKnown (h : Nat) : Bool :=
  decide (h ≤ 0x0E) || (decide (0x10 ≤ h) && decide (h ≤ 0x12)) || (decide (0x18 ≤ h) && decide (h ≤ 0x1B)) || (decide (0x20 ≤ h) && decide (h ≤ 0x22)) ||
    (decide (0x28 ≤ h) && decide (h ≤ 0x2B)) || (decide (0x30 ≤ h) && decide (h ≤ 0x32)) || h == 0x38 || h == 0x39 || h == 0x3F

/-- 06 R182 to R196: what the word alone determines of a harrow operation. -/
def harrowErrs (w : Nat) : List WordErr :=
  let h := wHop w
  let es := wEs w
  let ed := wEd w
  let var := wVar w
  let rnd := bits w 303 302
  let msel := wMsel w
  let srck := wSrck w
  let noA := h == 0x30 || h == 0x31 || h == 0x32
  let rounds := (decide (1 ≤ h) && decide (h ≤ 0x0E)) || h == 0x10 || (decide (0x20 ≤ h) && decide (h ≤ 0x22))
  let noMask := noA || h == 0x2A || h == 0x2B || h == 0x38 || h == 0x39
  let usesX := noA || h == 0x2A || h == 0x2B
  let usesSb := readsB h || h == 0x28 || h == 0x31 || (h == 0x30 && var == 2) || h == 0x38 || h == 0x39
  if !hopKnown h then [(312, eReserved)]
  else if h = 0 then wbad (bits w 311 192 != 0) 192 eRule
  else if h = 0x3F then wbad (bits w 309 288 != 0) 288 eRule
  else
    wbad (!harrowTypes h es ed var) 304 eRule ++ wbad (bits w 193 192 != 0) 192 eReserved ++
      wbad (!(if rounds then decide (rnd ≤ 1) || (rnd == 2 && h == 0x10 && decide (ed ≤ 4) && decide (etypeBits ed < etypeBits es)) else rnd == 0)) 302 eRule ++
      wbad (rnd != 2 && bits w 195 194 != 0) 194 eRule ++
      wbad (!(h == 0x12 || h == 0x28 || h == 0x38 || ((h == 0x20 || h == 0x39) && decide (var ≤ 1)) || (h == 0x30 && decide (var ≤ 2)) || var == 0)) 300 eRule ++
      wbad ((noMask && msel != 0) || (h == 4 && decide (1 < msel))) 298 eRule ++ wbad (!bit msel 0 && h != 0x32 && wMreg w != 0) 293 eRule ++
      wbad (!usesX && wXreg w != 0) 288 eRule ++ wbad ((noA && srck != 0) || (srck != 0 && es != 0)) 286 eRule ++
      wbad ((srck == 1 || srck == 2) && decide (16384 < (if h = 0x39 then matrixSize w else wElems w))) 264 eRule ++
      wbad (srck != 3 && bit w 285) 285 eRule ++ wbad (!readsB h && bit w 284) 284 eRule ++ wbad (!usesSb && wSB w != 0) 230 eRule ++
      wbad (h != 4 && !bit msel 1 && wSC w != 0) 213 eRule ++ wbad ((h == 0x30 || h == 0x32) && wSD w != 0) 196 eRule ++
      wbad (h == 0x30 && var == 1 && decide (256 < wElems w)) 264 eRule ++
      wbad (h == 0x38 && bits (wSB w) 16 7 != 0) 230 eRule ++ wbad (h == 0x38 && wElems w % 4 == 1) 264 eRule

/-- What the plot must be for a harrow operation: BOUND for a direct read of a bank, FLAGGED and no Cellar plot for GATHER and
SCATTER (06 R191, R195). -/
def harrowPlotOk (s : State) (p w : Nat) : Bool :=
  !((wSrck w == 1 || wSrck w == 2) && !bound s p) && !((wHop w == 0x2A || wHop w == 0x2B) && !(flagged s p && !isCellar s p))

/-! ## Holding and issuing a word (R212, R227 to R232) -/

/-- Lines a word's array operation reads and writes. -/
def arrayReads (x : Plot) (w : Nat) : List Nat :=
  let aop := wAop w
  if aop = 1 ∨ aop = 2 then
    let a := ((agStream x w 0).map fun g => agLines g (slabs w * slabBytes (bits w 635 632) (wM w) / 128)).getD []
    let bb := if aop = 2 then sparseSlabBytes (bits w 631 628) (wN w) else slabBytes (bits w 631 628) (wN w)
    a ++ ((agStream x w 1).map fun g => agLines g (slabs w * bb / 128)).getD []
  else if aop = 3 then ((agStream x w 2).map fun g => agLines g (cdiv (4 * wM w * wN w) 128)).getD []
  else []

def arrayWrites (x : Plot) (w : Nat) : List Nat :=
  if wAop w = 4 then ((agStream x w 2).map fun g => agLines g (cdiv (4 * wM w * wN w) 128)).getD [] else []

/-- Lines from `l` of `n` elements of `b` bits. -/
def elemLines (l n b : Nat) : List Nat := lineSpan l (cdiv (n * b) 1024)

/-- Bytes of the B stream that SPARSIFY writes (06 R193). -/
def sparsifyBytes (w : Nat) : Nat := cdiv (wElems w) 128 * sparseSlabBytes (wEs w) (bits (wSB w) 6 0 + 1)

/-- COUNT of the list a GATHER or SCATTER names. -/
def xCount (x : Plot) (w : Nat) : Nat := (Tab.get {} x.xregs (wXreg w)).count

/-- Lines of the streams a harrow operation reads from the scratchpad. -/
def harrowReads (x : Plot) (w : Nat) : List Nat :=
  let h := wHop w
  let n := wElems w
  let b := etypeBits (wEs w)
  if h = 0x30 then
    (if wVar w = 0 then [wSA w] else if wVar w = 1 then elemLines (wSA w) n 16 else [wSB w] ++ lineSpan (wSA w) 4)
  else if h = 0x38 ∨ h = 0x39 then (if wSrck w = 0 then elemLines (wSA w) (matrixSize w) b else [])
  else if h = 0 ∨ 0x2B < h ∨ n = 0 then []
  else
    (if wSrck w = 0 then elemLines (wSA w) (if h = 0x2B then xCount x w else n) b else []) ++
    (if readsB h then (if bit w 284 then [wSB w] else elemLines (wSB w) n b) else []) ++
    (if h = 4 then elemLines (wSC w) n b else []) ++ (if 2 ≤ wMsel w ∧ h ≠ 4 then elemLines (wSC w) n 1 else [])

/-- Lines of the streams a harrow operation writes. -/
def harrowWrites (x : Plot) (w : Nat) : List Nat :=
  let h := wHop w
  let n := wElems w
  let d := etypeBits (wEd w)
  if h = 0 ∨ h = 0x30 ∨ h = 0x32 ∨ h = 0x3F then []
  else if h = 0x31 then
    if (Tab.get {} x.xregs (wXreg w)).isList then lineSpan (wSD w) 4 ++ [wSB w] else [wSD w]
  else if h = 0x38 then lineSpan (wSD w) (sparsifyBytes w / 128)
  else if h = 0x39 then elemLines (wSD w) (matrixSize w) (if wVar w = 0 then 1 else etypeBits (wEs w))
  else if h = 0x20 ∨ h = 0x21 ∨ h = 0x22 then [wSD w]
  else if h = 0x12 then elemLines (wSD w) n 1
  else if h = 0x28 then elemLines (wSD w) n (if bit (wVar w) 0 then 32 else d) ++ [wSB w]
  else elemLines (wSD w) (if h = 0x2A then xCount x w else n) d

/-- Lines from a LOAD stream's BASE to past its last line, of a stream of `n` lines. -/
def agReach (f n : Nat) : Nat :=
  let run := bits f 21 11
  let last := if run = 0 then n - 1 else if bits f 10 0 = 0 then min n run - 1 else (n - 1) / run * bits f 10 0 + (n - 1) % run
  bits f 45 22 / 128 + last + 1

/-- Streams that the word alone places past the scratchpad (R215, R234): those of LOAD generators and of the harrow's line fields. -/
def spanErrs (w : Nat) : List WordErr :=
  let aop := wAop w
  let acc := if aop = 3 ∨ aop = 4 then cdiv (4 * wM w * wN w) 128 else 0
  let a := if aop = 1 ∨ aop = 2 then slabs w * slabBytes (bits w 635 632) (wM w) / 128 else 0
  let b := if aop = 1 then slabs w * slabBytes (bits w 631 628) (wN w) / 128 else if aop = 2 then slabs w * sparseSlabBytes (bits w 631 628) (wN w) / 128 else 0
  let lens := [a, b, acc, cdiv (fabricBytes {} w) 128]
  ((enum lens).flatMap fun e =>
      wbad (agMode (agField w e.1) == 1 && e.2 != 0 && decide (131072 < agReach (agField w e.1) e.2)) (48 * e.1 + 342) eRange) ++
    wbad (!inScratch (harrowWrites {} w)) 196 eRange ++ wbad (!(wHop w == 0x30 && wVar w == 2) && !inScratch (harrowReads {} w)) 247 eRange

/-- What validation finds in a word (R234). -/
def wordErrs (s : State) (p a w : Nat) : List WordErr :=
  let e := seqErrs s p a w ++ arrayErrs w ++ harrowErrs w
  if e.isEmpty then spanErrs w else e.filter (·.2 == eReserved) ++ e.filter (·.2 != eReserved)

/-- The word passes every check of R234. -/
def wordOk (s : State) (p a w : Nat) : Bool := (wordErrs s p a w).isEmpty

/-- Lines of a word's fabric operation. -/
def fabricLines (x : Plot) (w : Nat) : List Nat := ((agStream x w 3).map fun g => agLines g (cdiv (fabricBytes x w) 128)).getD []

/-- Lines a transfer has still to move. -/
def Xfer.todo (t : Xfer) : List Nat := if t.running then t.left else t.lines

/-- Lines of the scratchpad that a transfer has still to write, or to read. -/
def xferWrites (t : Xfer) : List Nat := if t.kind = .gload then t.todo else []
def xferReads (t : Xfer) : List Nat := if t.kind = .gload then [] else t.todo

/-- Lines an operation has still to read, or to write. -/
def PlotOp.readsLeft (o : PlotOp) : List Nat := o.todo.filterMap fun a => match a.act with
  | .read _ => some a.line
  | _ => none
def PlotOp.writesLeft (o : PlotOp) : List Nat := o.todo.filterMap fun a => match a.act with
  | .read _ => none
  | _ => some a.line

/-- Lines read and written by a word. -/
def wordReads (x : Plot) (w : Nat) : List Nat :=
  arrayReads x w ++ harrowReads x w ++ (if wGop w = 2 ∨ (1 ≤ wFop w ∧ wFop w ≤ 3) then fabricLines x w else [])
def wordWrites (x : Plot) (w : Nat) : List Nat := arrayWrites x w ++ harrowWrites x w ++ (if wGop w = 1 then fabricLines x w else [])

def meets (a b : List Nat) : Bool := a.any fun l => b.contains l

/-- A binding's lines. -/
def BindRec.span (r : BindRec) : List Nat := lineSpan r.first r.lines

/-- The line lies in a binding. -/
def BindRec.holds (r : BindRec) (l : Nat) : Bool := decide (r.first ≤ l) && decide (l < r.first + r.lines)

/-- The explicit wait of a word holds (Table 7-6). -/
def waitHolds (s : State) (p w : Nat) : Bool :=
  let x := plot s p
  match wWkind w with
  | 0 => true
  | 1 => flagAt x x.flags (bits w 699 694) && (!bit w 701 || flagAt x x.flags (bits w 693 688))
  | 2 => !serialAbove (Tab.get 0 x.ctr (bits w 683 680)) (sharedCtr (sharedSeen s p) p (bits w 687 684))
  | _ => comparator p (scalars s p) (bits w 686 684)

/-- Every unit the word names can start (R229, first item). -/
def unitsFree (s : State) (p w : Nat) : Bool :=
  let x := plot s p
  let aop := wAop w
  (aop == 0 || (if aop ≤ 2 then mmFree x && !bankBusyBy x (wBank w) .acc && !bankBusyBy x (wBank w) .harrow
     else accFree x && !bankBusy x (wBank w) && (aop != 5 || decide (x.tq.length < 8)))) &&
    (wHop w == 0 || (harrowFree x && (wSrck w != 1 || !bankBusy x false) && (wSrck w != 2 || !bankBusy x true) &&
      (wSrck w != 3 || (tqHead x).isSome))) &&
    (wTqop w == 0 || (tqHead x).isSome) &&
    ((wGop w == 0 && (wFop w == 0 || wFop w == 4)) || decide (x.xq.length < 4))

/-- No earlier operation has still to write a line the word reads, or to read or write one it writes, and for ARM none that runs
reads the binding's lines (R229; two writes of a line keep their order by R230). -/
def linesClear (s : State) (p w : Nat) : Bool :=
  let x := plot s p
  let rs := wordReads x w
  let ws := wordWrites x w
  let armed := if wFop w = 4 then (((bindRecs s p)[wRb w]?).map (·.span)).getD [] else []
  (x.ops.all fun o => !(meets rs o.writesLeft) && !(meets ws o.readsLeft) && !(meets ws o.writesLeft) && !(meets armed o.reads)) &&
    (x.xq.all fun t => !(meets rs (xferWrites t)) && !(meets ws (xferReads t)) && !(meets ws (xferWrites t)) &&
      !(meets armed (if t.kind = .gload then [] else t.lines)))

/-- What FLAGGED adds (R229). -/
def holdsClear (s : State) (p w : Nat) : Bool := unitsFree s p w && linesClear s p w

/-- The word can issue in the plot's present cycle. -/
def canIssue (s : State) (p w : Nat) : Bool := waitHolds s p w && (!flagged s p || holdsClear s p w)

/-- Lines whose reading R232 forbids: of an armed, incomplete binding or a SHARED STORE binding without the N mark, of a sealed
one in any case (15 R443). -/
def nmarkBreach (s : State) (p w : Nat) (rs : List Nat) : Bool :=
  (enum (bindRecs s p)).any fun e =>
    rs.any (e.2.holds ·) &&
      (((!(bindSt s p e.1).complete || (e.2.kind == 4 && e.2.shared)) && !wNmark w) || (isSealed s p e.2 && !(bindSt s p e.1).complete))

/-- R220: a write to a line of an armed, incomplete binding. -/
def armedWrite (s : State) (p : Nat) (ws : List Nat) : Bool :=
  (enum (bindRecs s p)).any fun e => !(bindSt s p e.1).complete && ws.any (e.2.holds ·)

/-- A fault of the lines a word names: the bank of its array operation is +0 when that operation named them (05 R175). -/
def lineFault (s : State) (p w : Nat) (array : Bool) (code : Half) : State :=
  if array then zeroBank (wordFault s p .seq code) p (wBank w) (bankOf (plot s p) (wBank w)).taint else wordFault s p .seq code

/-- A generator that CONT continues has had a stream since the plot started (R214). -/
def contOk (x : Plot) (w : Nat) : Bool := (List.range 4).all fun n => agMode (agField w n) != 2 || (Tab.get {} x.ags n).used

/-- A word issues (R212, R220, R232, R234): the waited flags it consumes are cleared, and its parts may start. -/
def issueWord (s : State) (p w : Nat) : State :=
  let x := plot s p
  if !wordOk s p x.pc.toNat w || !contOk x w then wordFault s p .seq fSeqConfig
  else if nmarkBreach s p w (wordReads x w) then lineFault s p w (nmarkBreach s p w (arrayReads x w)) fSeqNmark
  else if armedWrite s p (wordWrites x w) then lineFault s p w (armedWrite s p (arrayWrites x w)) fSchedHazard
  else
    let s := if wNmark w then nFlag s 0 else s
    let s := match x.startCmd with
      | some c => cmdDone s c oPlotStart stOk
      | none => s
    let n := scalars s p
    modPlot s p fun x =>
      let clear (i : Nat) (f : DWord) : DWord := f &&& ~~~(BitVec.ofNat 64 (2 ^ i))
      let fl := if wWkind w = 1 ∧ bit w 700 then
          (if bit w 701 then clear (bits w 693 688) (clear (bits w 699 694) x.flags) else clear (bits w 699 694) x.flags) else x.flags
      { x with snap := some n, flags := fl, nmark := x.nmark || wNmark w, streams := [], startCmd := none }

/-- Parts of a word in the order they start (R225), the next address last. -/
def wordParts (w : Nat) : List Nat :=
  let has (b : Bool) (k : Nat) : List Nat := if b then [k] else []
  has (wAop w != 0) 0 ++ has (wHop w != 0) 1 ++ has (wTqop w != 0) 2 ++ has (wGop w != 0) 3 ++ has (wFop w != 0) 4 ++
    has (wCop w != 0) 5 ++ has (bit w 679) 6 ++ has (bit w 672) 7 ++ has (bit w 665) 8 ++ has (bit w 31) 9 ++ has (bit w 27) 10 ++
    has (bit w 23) 11 ++ has (bit w 22) 12 ++ has (bit w 21) 13 ++ [14]

/-- The word at the PC of a running plot that still issues words. -/
def currentWord (s : State) (p : Nat) : Option Nat :=
  let x := plot s p
  if x.mode = .running ∧ !x.halted ∧ (!x.stopping ∨ x.snap.isSome) then plotWord s p x.pc.toNat else none

/-- A part of the word at the PC: it starts when the word can issue now, the word holds it, and every part
before it has started; `f` gets the word and the scalar state of its cycle. -/
def onPart (p : Nat) (k : Nat) (mine : Nat → Bool) (s : State) (f : State → Nat → Snap → State) : State :=
  match currentWord s p with
  | none => s
  | some w =>
    if !mine w then s
    else
      let s := if (plot s p).snap.isNone && canIssue s p w && (wordParts w).head? == some k then issueWord s p w else s
      match (plot s p).snap with
      | none => s
      | some n =>
        let todo := (wordParts w).filter fun j => !n.done.contains j
        if todo.head? = some k then
          let s := f s w n
          modPlot s p fun x => { x with snap := x.snap.map fun m => { m with done := m.done ++ [k] } }
        else s

/-- A part command of plot `p`. -/
def part (p : Fin 32) (k : Nat) (mine : Nat → Bool) (s : State) (f : State → Nat → Snap → State) : Out :=
  event s fun s => onPart p.val k mine s f

/-- A word is held at the PC (R212, R229). -/
def wordHeld (s : State) (p : Nat) : Bool :=
  let x := plot s p
  x.mode == .running && !x.halted && !x.stopping && x.snap.isNone

/-- The word at the PC is not yet issued and can issue in this cycle. -/
def wordReady (s : State) (p : Nat) : Bool :=
  match currentWord s p with
  | none => false
  | some w => (plot s p).snap.isSome || canIssue s p w

/-! ## Errors and shadow tags of lines (05 R161, 07 R228) -/

/-- A corrected error: counted and raised (05 R161, Table 5-10). -/
def scratchCe (s : State) (p : Nat) : State :=
  raise (modPlot s p fun x => { x with ceCount := satInc x.ceCount, lastFault := fScratchCe }) fScratchCe uPlot p

/-- The line's shadow tag is set in the present cycle. -/
def inShadow (x : Plot) (l : Nat) : Bool :=
  (x.shadow.any fun w => w.line == l && decide (x.cyc < w.clear)) || x.ops.any fun o => o.wrote.any fun w => w.line == l && decide (x.cyc < w.clear)

/-- Lines that a transfer or an arrival writes in this cycle take their shadow tags; tags that have run out go. -/
def shadeLines (x : Plot) (ls : List Nat) : Plot :=
  { x with shadow := (x.shadow ++ ls.map fun l => ({ line := l, clear := x.cyc + 4 } : LineWr)).filter fun w => decide (x.cyc < w.clear) }

end Sys2Proof.Machine
end

