-- ==== Sys2Proof/Machine/PlotArray.lean ====
section
/-!
DEFINITION. The array of a plot (05): tile products dense and 2:4 sparse, the lines each stream cycle reads, the accumulator
path, and what an array operation does at the end of a slab and at its own end.
-/

namespace Sys2Proof.Machine
open Sys2Proof

/-! ## Operands (R155, R156, R166, R167) -/

/-- `b` bits at a bit position of a byte list. -/
def bitsAt (bs : List Byte) (pos b : Nat) : Nat := (leAt bs (pos / 8) 9 >>> (pos % 8)) % 2 ^ b

/-- The value of an array element of an ETYPE; `scale` is the E8M0 byte of an MX element (02 R27, R28). -/
def operand (et code scale : Nat) : FVal :=
  let mx (f : Fmt) : FVal :=
    if scale = 255 then .nan
    else match decodeF f code with
      | .fin n m e => .fin n m (e + (scale : Int) - 127)
      | v => v
  match et with
  | 8 => mx e4m3
  | 9 => mx e5m2
  | 10 => mx fp6e2m3
  | 11 => mx fp6e3m2
  | 12 => mx fp4
  | 13 => let v := sInt 8 code; .fin (decide (v < 0)) v.natAbs 0
  | _ => decodeF (fmtOf et) code

/-- Element (row, k') of a dense slab record of `cols` rows at K rate `r`. -/
def slabElem (et r cols : Nat) (rec : List Byte) (row k : Nat) : Nat × Nat :=
  let off := if isMx et then padLine (4 * cols) else 0
  let b := etypeBits et
  (bitsAt rec (8 * off + b * (((k / r) * cols + row) * r + k % r)) b, if isMx et then leAt rec ((k / 32) * cols + row) 1 else 0)

/-- Metadata nibble of slab group `g`, column `n` of a sparse record. -/
def nibbleAt (et cols : Nat) (rec : List Byte) (g n : Nat) : Nat :=
  bitsAt rec (8 * (if isMx et then padLine (4 * cols) else 0) + 4 * (g * cols + n)) 4

/-- Stored value `s` of column `n` of a sparse record. -/
def storedElem (et r cols : Nat) (rec : List Byte) (s n : Nat) : Nat :=
  let off := (if isMx et then padLine (4 * cols) else 0) + padLine (16 * cols)
  bitsAt rec (8 * off + etypeBits et * (((s / r) * cols + n) * r + s % r)) (etypeBits et)

/-- Products of one slab for cell (m, n): dense (R57). `kk` is the number of K positions of the slab. -/
def denseProducts (ea eb r rows cols kk : Nat) (ra rb : List Byte) (m n : Nat) : List (FVal × Nat) :=
  (List.range kk).map fun k =>
    let a := slabElem ea r rows ra m k
    let b := slabElem eb r cols rb n k
    fProd (operand ea a.1 a.2) (operand eb b.1 b.2)

/-- Products of one slab for cell (m, n): 2:4 sparse (R168). -/
def sparseProducts (ea eb r rows cols kk : Nat) (ra rb : List Byte) (m n : Nat) : List (FVal × Nat) :=
  (List.range (cdiv kk 4)).flatMap fun g =>
    let nb := nibbleAt eb cols rb g n
    [(nb % 4, 2 * g), (nb / 4, 2 * g + 1)].map fun p =>
      let k := 4 * g + p.1
      let a := slabElem ea r rows ra m k
      fProd (operand ea a.1 a.2) (operand eb (storedElem eb r cols rb p.2 n) (if isMx eb then leAt rb ((k / 32) * cols + n) 1 else 0))

/-- One accumulator step (R61): code and flags. A NaN of an earlier slab is no NaN input of the operation. -/
def accStep (first : Bool) (acc : Nat × Nat) (slab : Nat × Nat) : Nat × Nat :=
  let isNan (c : Nat) : Bool := decodeF fp32 c == .nan
  let r := fAdd .rne acc.1 slab.1
  (r.1, acc.2 ||| slab.2 ||| (if isNan acc.1 || isNan slab.1 then (if first && isNan acc.1 then flNANIN else 0) else r.2))

/-- FP32X pieces (R63): both are NaN for a NaN. -/
def pieceHi (c : Nat) : FVal := if decodeF fp32 c = .nan then .nan else decodeF bf16 (hiPart c)
def pieceLo (c : Nat) : FVal := if decodeF fp32 c = .nan then .nan else decodeF bf16 (loPart c)

/-- The sum of slab `j` of cell (m, n) from its records, under FP32X of pass `pass` (R57 to R59, R63, R168). -/
def cellSlab (w pass j : Nat) (ra rb : List Byte) (m n : Nat) : Nat × Nat :=
  let ea := bits w 635 632
  let eb := bits w 631 628
  let r := kRate ea eb
  let kk := min 128 (wK w - 128 * j)
  if ea = 0xE then
    let f := match pass with
      | 0 => (pieceHi, pieceHi)
      | 1 => (pieceHi, pieceLo)
      | _ => (pieceLo, pieceHi)
    slabWindow ((List.range kk).map fun k => fProd (f.1 (slabElem ea r (wM w) ra m k).1) (f.2 (slabElem eb r (wN w) rb n k).1))
  else
    let ps := if wAop w = 2 then sparseProducts ea eb r (wM w) (wN w) kk ra rb m n else denseProducts ea eb r (wM w) (wN w) kk ra rb m n
    if ea ≤ 2 then slabWindow ps else slabExact ps

/-- The first failing nibble of slab `j` (R169 to R171): code, group, column. -/
def badNibble (w j : Nat) (rb : List Byte) : Option (Half × Nat × Nat) :=
  let eb := bits w 631 628
  (List.range 32).findSome? fun g =>
    let k := 128 * j + 4 * g
    if wK w ≤ k then none
    else (List.range (wN w)).findSome? fun n =>
      let nb := nibbleAt eb (wN w) rb g n
      if nb / 4 ≤ nb % 4 then some (fSparseMeta, 32 * j + g, n)
      else if wK w < k + 4 ∧ (wK w - k ≤ nb % 4 ∨ wK w - k ≤ nb / 4) then some (fSparseIndex, 32 * j + g, n)
      else none

/-! ## Timing (R146, R148, R155, R157) -/

/-- K positions that a cell consumes in a cycle (Table 5-2). -/
def kStep (w : Nat) : Nat := max (kRate (bits w 635 632) (bits w 631 628)) 1 * (if wAop w = 2 then 2 else 1)

/-- Slab time SC (R146). -/
def slabTime (w : Nat) : Nat := 128 / kStep w

/-- Passes over both streams: three under FP32X (R157). -/
def passes (w : Nat) : Nat := if bits w 635 632 = 0xE then 3 else 1

/-- Stream cycles S (R148). -/
def streamTime (w : Nat) : Nat := passes w * slabs w * slabTime w

/-- Lines of a block that stream cycle `c` is the first to need, when the cycles before `c` need `need c` of its bytes. -/
def newLines (need : Nat → Nat) (c : Nat) : List Nat := lineSpan (cdiv (need c) 128) (cdiv (need (c + 1)) 128 - cdiv (need c) 128)

/-- Lines of a slab record that stream cycle `c` reads, by their place in the record: of its scale, metadata and element blocks
those that hold what the cycle is the first to consume (R155, R167, Table 5-6). DEDUCED (log 49). -/
def recLines (w et cols : Nat) (sparse : Bool) (c : Nat) : List Nat :=
  let scales := if isMx et then padLine (4 * cols) / 128 else 0
  let metas := if sparse then padLine (16 * cols) / 128 else 0
  (if isMx et then newLines (fun c => cols * cdiv (c * kStep w) 32) c else []) ++
    (if sparse then (newLines (fun c => cdiv (4 * cols * cdiv (c * kStep w) 4) 8) c).map (· + scales) else []) ++
    (newLines (fun c => cdiv (c * (if sparse then kStep w / 2 else kStep w) * cols * etypeBits et) 8) c).map (· + scales + metas)

/-- Lines of a slab record of the A stream, and of the B stream. -/
def linesA (w : Nat) : Nat := slabBytes (bits w 635 632) (wM w) / 128
def linesB (w : Nat) : Nat := (if wAop w = 2 then sparseSlabBytes (bits w 631 628) (wN w) else slabBytes (bits w 631 628) (wN w)) / 128

/-- Capture entries of the B stream start here. -/
abbrev keyB : Nat := 131072

/-- The lines of a product's streams in the order of their cycles, ARRAY_A before ARRAY_B (R148, R160). -/
def mmTodo (w : Nat) (ga gb : AgStream) : List LineAcc :=
  (List.range (passes w)).flatMap fun q => (List.range (slabs w)).flatMap fun j => (List.range (slabTime w)).flatMap fun c =>
    let at_ := (q * slabs w + j) * slabTime w + c
    ((recLines w (bits w 635 632) (wM w) false c).map fun l => { at_, act := .read l, line := agLine ga (ga.next + j * linesA w + l) }) ++
      ((recLines w (bits w 631 628) (wN w) (wAop w == 2) c).map fun l =>
        { at_, act := .read (keyB + l), line := agLine gb (gb.next + j * linesB w + l) })

/-! ## MM and MM_SP at issue (R145 to R157, R168) -/

/-- The stream of operand `n` of MM or MM_SP. A product of K 0 reads no slab, so its generators may be OFF (05 R148). -/
def mmStream (x : Plot) (w n : Nat) : Option AgStream :=
  match agStream x w n with
  | some g => some g
  | none => if wK w = 0 then some {} else none

/-- The generator after the stream of MM or MM_SP; one that the word leaves OFF stays as it was. -/
def mmUse (x : Plot) (w n k : Nat) : Plot :=
  match agStream x w n with
  | some g => agUse x n g k
  | none => x

/-- An operation that its word starts: number and word. -/
def newOp (x : Plot) (w : Nat) (unit : OpUnit) (bank : Option Bool) (free fin : Nat) : PlotOp :=
  { id := x.nextId, unit, addr := x.pc.toNat, word := w, bank, free, fin }

/-- The operation enters its plot. -/
def enterOp (x : Plot) (o : PlotOp) : Plot := { x with ops := x.ops ++ [o], nextId := x.nextId + 1 }

/-- The operation a product starts. -/
def mmOp (x : Plot) (w : Nat) (e : LineErrs) (ga gb : AgStream) : PlotOp :=
  let b := wBank w
  { newOp x w .mm (some b) (streamTime w) (if slabs w = 0 then 1 else streamTime w + 260) with
    todo := mmTodo w ga gb, reads := agLines ga (slabs w * linesA w) ++ agLines gb (slabs w * linesB w), errs := e
    taint := !bit w 626 && (bankOf x b).taint, bankWasTainted := (bankOf x b).taint }

/-- MM and MM_SP: INIT sets the bank to +0, and the operation starts to stream. -/
def startMm (s : State) (p w : Nat) (e : LineErrs) : State :=
  let x := plot s p
  let b := wBank w
  if !mmFree x then arrayFault s p b fArrayIssue
  else if bankBusyBy x b .acc || bankBusyBy x b .harrow then arrayFault s p b fArrayBankBusy
  else
    match mmStream x w 0, mmStream x w 1 with
    | some ga, some gb =>
      let as := agLines ga (slabs w * linesA w)
      let bs := agLines gb (slabs w * linesB w)
      if !(inScratch as && inScratch bs) then arrayFault s p b fScratchRange
      else
        modPlot s p fun x =>
          let o := mmOp x w e ga gb
          let x := mmUse (mmUse x w 0 as.length) w 1 bs.length
          let x := if bit w 626 then setBank x b {} else x
          { enterOp x o with hints := x.hints &&& 6 }
    | _, _ => wordFault s p .seq fSeqConfig

def execMm (p : Fin 32) (e : LineErrs) (s : State) : Out := part p 0 (fun w => wAop w == 1) s fun s w _ => startMm s p w e
def execMmSp (p : Fin 32) (e : LineErrs) (s : State) : Out := part p 0 (fun w => wAop w == 2) s fun s w _ => startMm s p w e

/-! ## The end of a slab -/

/-- An operation as it now is, in place of what it was. -/
def putOp (x : Plot) (o : PlotOp) : Plot := { x with ops := x.ops.map fun y => if y.id = o.id then o else y }

/-- Lines `[base, base + n)` of what an operation has read. -/
def capBytes (o : PlotOp) (base n : Nat) : List Byte := (List.range n).flatMap fun i => (Tab.get {} o.cap (base + i)).bytes

/-- Slab number within its pass. -/
def PlotOp.slabNo (o : PlotOp) : Nat := o.slab % max (slabs o.word) 1

/-- The slab last streamed joins every accumulator of the bank (R61, R147). -/
def addSlab (x : Plot) (o : PlotOp) : Plot :=
  let w := o.word
  let b := wBank w
  let ra := capBytes o 0 (linesA w)
  let rb := capBytes o keyB (linesB w)
  let old := bankOf x b
  let cells := (List.range (wM w)).flatMap fun m => (List.range (wN w)).map fun n =>
    (128 * m + n, accStep (o.slab == 0) (Tab.get 0 old.vals (128 * m + n), 0) (cellSlab w (o.slab / max (slabs w) 1) o.slabNo ra rb m n))
  let x := setBank x b { old with vals := cells.foldl (fun t y => Tab.set 0 t y.1 y.2.1) old.vals }
  putOp x { o with slab := o.slab + 1, cap := [], flags := cells.foldl (fun f y => f ||| y.2.2) o.flags }

/-- A slab of the operation has streamed and has not been added. -/
def PlotOp.slabDue (o : PlotOp) : Bool :=
  o.unit == .mm && decide (o.slab < passes o.word * slabs o.word) && decide ((o.slab + 1) * slabTime o.word ≤ o.t)

/-! ## Digests (R223) -/

/-- An item the accumulator can absorb now: a stream that has ended, or a log. -/
def DigItem.ready : DigItem → Bool
  | .seg x _ _ _ => x.isNone
  | .log _ => true

/-- Streams and logs at the front of an accumulator absorbed in issue order. `n` bounds their number. -/
def digAbsorb (p k : Nat) : Nat → State → State
  | 0, s => s
  | n + 1, s =>
    let x := plot s p
    let d := Tab.get {} x.digs k
    match d.items with
    | [] => s
    | i :: rest =>
      if !i.ready then s
      else
        match i with
        | .seg _ bs taint nm =>
          let d' : Digest :=
            { crc := (bs.foldl cropStep d.crc), nm := d.nm || nm, taint := d.taint || taint, items := rest }
          digAbsorb p k n (modPlot s p fun x => { x with digs := Tab.set {} x.digs k d' })
        | .log a =>
          let crc := if d.taint then 0 else (cropEnd d.crc).toNat
          let s := modPlot s p fun x => { x with digs := Tab.set {} x.digs k { items := rest } }
          let s := tally s { kind := kPlotDigest, utype := uPlot, unit := p, n := d.nm,
                             body := pack 40 [(0, 1, k), (2, 2, a), (8, 8, crc), (16, 8, now s)] }
          digAbsorb p k n (if d.taint then plotAbort s p .seq fCellarLeak { addr := a } else s)

/-- Every accumulator of a plot settled. -/
def digSettle (p : Nat) (s : State) : State :=
  (List.range 8).foldl (fun s k => digAbsorb p k (Tab.get {} (plot s p).digs k).items.length s) s

/-- A stream that operation or transfer `k` gives, at its end: with the bytes and taint it turned out to have, when they were not known before. -/
def DigItem.ended (k : Nat) (bs : Option (List Byte × Bool)) (i : DigItem) : DigItem :=
  match i with
  | .seg (some j) b t nm => if j = k then .seg none ((bs.map (·.1)).getD b) ((bs.map (·.2)).getD t) nm else i
  | _ => i

/-- Operation or transfer `k` has ended: what taps its stream has all of it. -/
def tapEnd (x : Plot) (k : Nat) (bs : Option (List Byte × Bool)) : Plot :=
  { x with streams := x.streams.map fun e => (e.1, e.2.ended k bs)
           digs := x.digs.map fun d => (d.1, { d.2 with items := d.2.items.map (·.ended k bs) }) }

/-! ## The accumulator path (R150) -/

/-- M x N values of a bank in the order of R150. -/
def bankVals (bk : Bank) (m n : Nat) : List Nat :=
  (List.range m).flatMap fun i => (List.range n).map fun j => Tab.get 0 bk.vals (128 * i + j)

/-- Cycles of an operation over a bank's M x N values. -/
def accCycles (w : Nat) : Nat := cdiv (4 * wM w * wN w) 512

/-- Bytes of the accumulator stream. -/
abbrev accBytes (w : Nat) : Nat := 4 * wM w * wN w

/-- What every accumulator-path operation checks first. -/
def accCheck (s : State) (p w : Nat) (f : State → State) : State :=
  let x := plot s p
  let b := wBank w
  if !accFree x then arrayFault s p b fArrayIssue
  else if bankBusy x b then arrayFault s p b fArrayBankBusy
  else f s

/-- The operation of the accumulator path that a word starts, of `n` cycles. -/
def accOp (x : Plot) (w n : Nat) : PlotOp :=
  { newOp x w .acc (some (wBank w)) n n with taint := (bankOf x (wBank w)).taint, bankWasTainted := (bankOf x (wBank w)).taint }

/-- The accumulator stream of a word: its lines must lie in the scratchpad. -/
def accStream (s : State) (p w : Nat) (f : AgStream → List Nat → State) : State :=
  match agStream (plot s p) w 2 with
  | none => wordFault s p .seq fSeqConfig
  | some g =>
    let ls := agLines g (cdiv (accBytes w) 128)
    if !inScratch ls then arrayFault s p (wBank w) fScratchRange else f g ls

/-- ACC_LOAD: the lines come in at 4 a cycle. -/
def startAccLoad (s : State) (p w : Nat) (e : LineErrs) : State :=
  accCheck s p w fun s => accStream s p w fun g ls => modPlot s p fun x =>
    { enterOp (agUse x 2 g ls.length) { accOp x w (accCycles w) with
        todo := (enum ls).map fun l => { at_ := l.1 / 4, act := .read l.1, line := l.2 }, reads := ls, errs := e }
      with hints := x.hints &&& 6 }

/-- ACC_STORE: the values leave at 4 lines a cycle. -/
def startAccStore (s : State) (p w : Nat) : State :=
  accCheck s p w fun s => accStream s p w fun g ls => modPlot s p fun x =>
    let bk := bankOf x (wBank w)
    let vals := bankVals bk (wM w) (wN w)
    { enterOp (agUse x 2 g ls.length) { accOp x w (accCycles w) with
        todo := (enum ls).map fun l => { at_ := l.1 / 4, act := .write l.1, line := l.2 }, src := vals }
      with hints := x.hints &&& 6
           streams := x.streams ++ [(1, .seg (some x.nextId) (vals.flatMap (leBytes 4)) bk.taint (wNmark w))] }

/-- Bytes that ACC_STORE writes into line `i` of its stream: no byte past its 4MN (R150). -/
def accStoreBytes (o : PlotOp) (i : Nat) : List Byte := ((o.src.drop (32 * i)).take 32).flatMap (leBytes 4)

/-- The values ACC_LOAD has read. -/
def accLoaded (x : Plot) (o : PlotOp) : Plot :=
  let w := o.word
  let bk := bankOf x (wBank w)
  let bs := capBytes o 0 (cdiv (accBytes w) 128)
  setBank x (wBank w) { bk with vals := (List.range (wM w * wN w)).foldl (fun t i => Tab.set 0 t (128 * (i / wN w) + i % wN w) (leAt bs (4 * i) 4)) bk.vals }

/-- The CHUNK_TAG a release captures (15 R445): that of the chunk completed last in the channel's
SOURCE_BIND. -/
def capturedTag (s : State) (p tag : Nat) : Nat :=
  match planRec s 0x0B 0x03 (64 * p + tag % 64) with
  | some r => (bindSt s p (r.fld 3)).tag
  | none => 0

/-- The releases that 15 R445 refuses. -/
def cellarRefuses (s : State) (p w : Nat) : Bool :=
  let tag := bits w 587 580
  decide (128 ≤ tag) &&
    (!isCellar s p || bit tag 6 ||
      match planRec s 0x0B 0x03 (64 * p + tag % 64) with
      | none => true
      | some r => r.fld 0 == 1 && (wM w * wN w) % max (r.fld 4) 1 != 0)

/-- ACC_RELEASE into the next tile queue entry. -/
def startAccRelease (s : State) (p w : Nat) : State :=
  accCheck s p w fun s =>
    let x := plot s p
    let b := wBank w
    if cellarRefuses s p w then arrayFault s p b fCellarConfig
    else if 8 ≤ x.tq.length then arrayFault s p b fArrayIssue
    else
      modPlot s p fun x =>
        let bk := bankOf x b
        let tag := bits w 587 580
        let vals := bankVals bk (wM w) (wN w)
        let t : TileEntry :=
          { id := x.nextId, vals, m := wM w, n := wN w, tag, taint := bk.taint
            chunkTag := if 128 ≤ tag then capturedTag s p tag else 0, ready := x.cyc + accCycles w }
        { enterOp x (accOp x w (accCycles w)) with
          hints := x.hints &&& 6, tq := x.tq ++ [t]
          streams := x.streams ++ [(1, .seg (some x.nextId) (vals.flatMap (leBytes 4)) bk.taint (wNmark w))] }

/-- ACC_ZERO. -/
def startAccZero (s : State) (p w : Nat) : State :=
  accCheck s p w fun s => modPlot s p fun x => { enterOp (setBank x (wBank w) {}) (accOp x w 1) with hints := x.hints &&& 6 }

def execAccLoad (p : Fin 32) (e : LineErrs) (s : State) : Out := part p 0 (fun w => wAop w == 3) s fun s w _ => startAccLoad s p w e
def execAccStore (p : Fin 32) (s : State) : Out := part p 0 (fun w => wAop w == 4) s fun s w _ => startAccStore s p w
def execAccRelease (p : Fin 32) (s : State) : Out := part p 0 (fun w => wAop w == 5) s fun s w _ => startAccRelease s p w
def execAccZero (p : Fin 32) (s : State) : Out := part p 0 (fun w => wAop w == 6) s fun s w _ => startAccZero s p w

/-- An array operation at its end: a load's values enter the bank, and a product's flags are recorded unless its bank is
tainted (R573). -/
def arrayEnd (x : Plot) (o : PlotOp) : Plot :=
  let x := if wAop o.word = 3 then accLoaded x o else x
  if o.unit = .mm ∧ !o.taint then { x with aflags := x.aflags ||| BitVec.ofNat 8 o.flags } else x

end Sys2Proof.Machine
end

