-- ==== Sys2Proof/Machine/PlotHarrow.lean ====
section
/-!
DEFINITION. The harrow of a plot (06): its streams and the cycles of their lines, the value of every operation, what it writes
line by line, its taint, and what it does at its end.
-/

namespace Sys2Proof.Machine
open Sys2Proof

/-! ## Pace and streams (R179, R199) -/

/-- Bits of a destination element. -/
def hWidth (w : Nat) : Nat :=
  let h := wHop w
  if h = 0x12 then 1 else if h = 0x28 ∧ bit (wVar w) 0 then 32 else if h = 0x39 then (if wVar w = 0 then 1 else etypeBits (wEs w))
  else etypeBits (wEd w)

/-- Elements a harrow operation streams. -/
def hCount (w : Nat) : Nat := if wHop w = 0x38 ∨ wHop w = 0x39 then matrixSize w else wElems w

/-- Vectors of an operation. -/
def hVectors (w : Nat) : Nat := cdiv (hCount w) 256

/-- Lines a destination occupies per full vector (R199); that of SPARSIFY holds its padding too. DEDUCED (log 49). -/
def hWl (w : Nat) : Nat :=
  let h := wHop w
  if 0x20 ≤ h ∧ h ≤ 0x22 then 0 else if h = 0x38 then cdiv (sparsifyBytes w / 128) (max (hVectors w) 1) else max 1 (hWidth w / 4)

/-- Cycles per vector (R199, Table 6-3). -/
def hPace (w : Nat) : Nat :=
  let h := wHop w
  let b := etypeBits (wEs w)
  let pace := if h = 5 ∨ (0x0A ≤ h ∧ h ≤ 0x0E) then 16 else if h = 0x39 ∨ (h = 0x38 ∧ !bit (wVar w) 0) then 8 else 4
  let rl := (if wSrck w = 0 then b / 4 else 0) + (if readsB h then (if bit w 284 then 1 else b / 4) else 0) +
    (if h = 4 then b / 4 else 0) + (if bit (wMsel w) 1 ∧ h ≠ 4 then 1 else 0)
  max pace (max (cdiv rl 4) (cdiv (hWl w) 2))

/-- Streaming cycles D. -/
def hStream (x : Plot) (w : Nat) : Nat :=
  if wHop w = 0x2A ∨ wHop w = 0x2B then xCount x w else hVectors w * hPace w

/-- Cycles per vector of the check pass of SPARSIFY under STRICT (R193). -/
def hCheck (w : Nat) : Nat := if wHop w = 0x38 ∧ !bit (wVar w) 0 then 4 else 0

/-- Capture entries of source C and of the predicate stream start here. -/
abbrev keyC : Nat := 262144

/-- Lines of vector `v` of a stream of `n` elements of `b` bits, by their place in the stream. -/
def vecLines (b n v : Nat) : List Nat :=
  let lo := b * v / 4
  (List.range (cdiv (b * min n (256 * (v + 1))) 1024 - lo)).map (lo + ·)

/-- The lines of a vector in port cycles of `k` lines from cycle `c` on. -/
def inCycles (c k : Nat) (as : List (LineAct × Nat)) : List LineAcc :=
  (enum as).map fun e => { at_ := c + e.1 / k, act := e.2.1, line := e.2.2 }

/-- What vector `v` of an element-wise operation reads: source A, then B, then C or the predicate stream (log 49). -/
def vecReads (w v : Nat) : List (LineAct × Nat) :=
  let h := wHop w
  let b := etypeBits (wEs w)
  let n := hCount w
  let stream (key l0 : Nat) : List (LineAct × Nat) := (vecLines b n v).map fun l => (.read (key + l), l0 + l)
  (if wSrck w = 0 then stream 0 (wSA w) else []) ++
    (if readsB h then (if bit w 284 then [(.read (keyB + v), wSB w)] else stream keyB (wSB w)) else []) ++
    (if h = 4 then stream keyC (wSC w) else []) ++ (if bit (wMsel w) 1 ∧ h ≠ 4 then [(.read (keyC + v), wSC w + v / 4)] else [])

/-- Accesses of two lists that each rise, merged; reads come before writes of their cycle (R160). -/
def mergeAcc : Nat → List LineAcc → List LineAcc → List LineAcc
  | n + 1, a :: as, b :: bs => if b.at_ < a.at_ then b :: mergeAcc n (a :: as) bs else a :: mergeAcc n as (b :: bs)
  | _, as, bs => as ++ bs

/-- The last access writes the destination. -/
def asFinal (as : List LineAcc) : List LineAcc :=
  (enum as).map fun e => if e.1 + 1 = as.length then { e.2 with act := .final } else e.2

/-- Entry `j` of the list a GATHER or SCATTER names. -/
def xEntries (x : Plot) (w : Nat) : List Nat := let r := Tab.get {} x.xregs (wXreg w); r.list.take r.count

/-- The reads of an operation, in order. -/
def harrowReadAccs (x : Plot) (w : Nat) : List LineAcc :=
  let h := wHop w
  let b := etypeBits (wEs w)
  let vs := List.range (hVectors w)
  if h = 0x30 then
    if wVar w = 0 then [{ at_ := 0, act := .read 0, line := wSA w }]
    else if wVar w = 1 then (enum (elemLines (wSA w) (wElems w) 16)).map fun e => { at_ := 0, act := .read e.1, line := e.2 }
    else [{ at_ := 0, act := .read keyB, line := wSB w }]
  else if 0x30 < h ∧ h ≠ 0x38 ∧ h ≠ 0x39 then []
  else if h = 0x2A then
    if wSrck w ≠ 0 then []
    else (enum (xEntries x w)).map fun e => { at_ := e.1, act := .read (b * e.2 / 1024), line := wSA w + b * e.2 / 1024 }
  else if h = 0x2B then
    if wSrck w ≠ 0 then []
    else (List.range (cdiv (b * xCount x w) 1024)).map fun l => { at_ := 1024 * l / b, act := .read l, line := wSA w + l }
  else
    (if hCheck w = 0 then [] else vs.flatMap fun v => inCycles (4 * v) 4 (vecReads w v)) ++
      vs.flatMap fun v => inCycles (hCheck w * hVectors w + (hPace w - hCheck w) * v) 4 (vecReads w v)

/-- The writes of an operation, in order (R192, R199): the lines of a vector trail its reads by 16 cycles. COMPRESS, SPARSIFY and
PRUNE_2D hold the port cycles, and what they write is in place with their last line. DESIGN CHOICE (log 49). -/
def harrowWriteAccs (x : Plot) (w : Nat) : List LineAcc :=
  let h := wHop w
  let d := hStream x w
  let last := if hCount w = 0 then 0 else d + 15
  let vectors (act : Nat → LineAct) : List LineAcc :=
    (List.range (hVectors w)).flatMap fun v =>
      inCycles (hPace w * v + 16) 2 ((vecLines (hWidth w) (hCount w) v).map fun l => (act v, wSD w + l))
  if h = 0x30 ∨ h = 0x32 ∨ h = 0x3F then []
  else if h = 0x31 then
    if (Tab.get {} x.xregs (wXreg w)).isList then
      (enum (lineSpan (wSD w) 4 ++ [wSB w])).map fun e => { at_ := 3, act := .write e.1, line := e.2 }
    else [{ at_ := 3, act := .write 0, line := wSD w }]
  else if h = 0x20 then [{ at_ := last, act := .final, line := wSD w }]
  else if h = 0x21 ∨ h = 0x22 then (if hCount w = 0 then [] else [{ at_ := last, act := .final, line := wSD w }])
  else if h = 0x28 then vectors (fun _ => .slot) ++ [{ at_ := last, act := .final, line := wSB w }]
  else if h = 0x2A then
    let b := hWidth w
    (List.range (cdiv (b * xCount x w) 1024)).map fun l =>
      { at_ := min (xCount x w) (1024 * (l + 1) / b) + 15, act := .write l, line := wSD w + l }
  else if h = 0x2B then
    (enum (xEntries x w)).map fun e => { at_ := e.1 + 16, act := .write e.1, line := wSD w + hWidth w * e.2 / 1024 }
  else if h = 0x38 then
    let n := sparsifyBytes w / 128
    asFinal ((List.range n).map fun i => { at_ := d + 16 - cdiv (n - i) 2, act := .slot, line := wSD w + i })
  else if h = 0x39 then asFinal (vectors fun _ => .slot)
  else vectors .write

/-- Every access of an operation. -/
def harrowTodo (x : Plot) (w : Nat) : List LineAcc :=
  let rs := harrowReadAccs x w
  let ws := harrowWriteAccs x w
  mergeAcc (rs.length + ws.length) rs ws

/-! ## Operands (R178 to R181, R196) -/

/-- Element `i` of a stream of `b` bits as the operation read it. -/
def capElem (o : PlotOp) (base b i : Nat) : Nat := bitsAt (Tab.get {} o.cap (base + b * i / 1024)).bytes (b * i % 1024) b

/-- Element `j` of source A. -/
def hSrcA (o : PlotOp) (j : Nat) : Nat :=
  if wSrck o.word = 0 then capElem o 0 (etypeBits (wEs o.word)) j else o.src.getD j 0

/-- Element `i` of source B (R181). -/
def hSrcB (o : PlotOp) (i : Nat) : Nat :=
  let b := etypeBits (wEs o.word)
  if bit o.word 284 then bitsAt (Tab.get {} o.cap (keyB + i / 256)).bytes 0 b else capElem o keyB b i

/-- Element `i` of source C. -/
def hSrcC (o : PlotOp) (i : Nat) : Nat := capElem o keyC (etypeBits (wEs o.word)) i

/-- Elements that a tile queue entry holds; other sources have no such bound. -/
def hAvail (o : PlotOp) : Nat := if wSrck o.word = 3 then o.src.length else hCount o.word

/-- Lane `i` is active (R180, R196). -/
def hActive (x : Plot) (o : PlotOp) (i : Nat) : Bool :=
  let w := o.word
  decide (i < hAvail o) && (!bit (wMsel w) 0 || bit (Tab.get {} x.xregs (wMreg w)).mask (i % 256)) &&
    (!bit (wMsel w) 1 || wHop w == 4 || bitsAt (Tab.get {} o.cap (keyC + i / 256)).bytes (i % 1024) 1 == 1)

/-- Active lanes below `n`. -/
def hActives (x : Plot) (o : PlotOp) (n : Nat) : List Nat := (List.range (min n (hCount o.word))).filter (hActive x o)

/-! ## Values (R184 to R188) -/

/-- A source element widened to FP32. -/
def widen (et c : Nat) : Nat := if et = 0 then c else (cvtF fp32 .rne (decodeF (fmtOf et) c)).1

/-- An FP32 result narrowed to ETYPE_D: the second rounding of R184. A NaN made by the operation adds no
flag of its own. -/
def narrow (ed : Nat) (mode : RMode) (r : Nat × Nat) : Nat × Nat :=
  if ed = 0 then r
  else if decodeF fp32 r.1 = .nan then (nanCode (fmtOf ed), r.2)
  else
    let n := cvtF (fmtOf ed) mode (decodeF fp32 r.1)
    (n.1, r.2 ||| n.2)

/-- An FP32 operation by HOP code. -/
def fpOp (h : Nat) (mode : RMode) (a b c : Nat) : Nat × Nat :=
  match h with
  | 1 => fAdd mode a b
  | 2 => fSub mode a b
  | 3 => fMul mode a b
  | 4 => fFma mode a b c
  | 5 => fDiv mode a b
  | 6 => fMinMax fp32 false a b
  | 7 => fMinMax fp32 true a b
  | 8 => if decodeF fp32 a = .nan then nanIn32 else (a % 0x80000000, 0)
  | 9 => if decodeF fp32 a = .nan then nanIn32 else (fNeg a, 0)
  | 0xA => fSqrt a
  | 0xB => fRcp a
  | 0xC => fRsqrt a
  | 0xD => fExp2 a
  | _ => fLog2 a

/-- A value converted to UINT32 (R186). -/
def cvtUint (mode : RMode) (v : FVal) : Nat × Nat :=
  match v with
  | .nan => (0, flNV)
  | .inf neg => (if neg then 0 else 0xFFFFFFFF, flIOVF)
  | .fin neg m e =>
    let (q, inex) : Nat × Bool :=
      if 0 ≤ e then (m <<< e.toNat, false)
      else
        let sh := (-e).toNat
        let rem := m % 2 ^ sh
        (if roundsUp mode (m >>> sh) rem sh false then m >>> sh + 1 else m >>> sh, decide (rem ≠ 0))
    let out := (neg && q != 0) || decide (0xFFFFFFFF < q)
    (if neg then 0 else min q 0xFFFFFFFF, (if out then flIOVF else 0) + (if inex then flINX else 0))

/-- The integer an element of INT32, INT64 or UINT32 stands for. -/
def intOf (et c : Nat) : Int := if et = 7 then (c : Int) else sInt (etypeBits et) c

/-- An integer saturated to an integer format (R186). -/
def satInt (et : Nat) (v : Int) : Nat × Nat :=
  if et = 7 then (if v < 0 then (0, flIOVF) else if 0xFFFFFFFF < v then (0xFFFFFFFF, flIOVF) else (v.toNat, 0))
  else roundInt (etypeBits et) true v

/-- CVT (R186). A conversion between formats of equal width rounds once (log 94). -/
def cvtElem (es ed : Nat) (mode : RMode) (c : Nat) : Nat × Nat :=
  if es ≤ 4 then
    let v := decodeF (fmtOf es) c
    if ed ≤ 4 then cvtF (fmtOf ed) mode v
    else if ed = 7 then cvtUint mode v
    else cvtInt (etypeBits ed) mode v
  else if ed ≤ 4 then cvtFromInt (fmtOf ed) mode (intOf es c)
  else satInt ed (intOf es c)

/-- Order of two values under IEEE 754: less, equal, greater, or none with a NaN (R185). -/
def cmpF (a b : FVal) : Option Ordering :=
  match a, b with
  | .nan, _ => none
  | _, .nan => none
  | .inf x, .inf y => some (if x = y then .eq else if x then .lt else .gt)
  | .inf x, _ => some (if x then .lt else .gt)
  | _, .inf y => some (if y then .gt else .lt)
  | .fin x m e, .fin y k g =>
    let d := ((dyOf x m e).add ⟨-(dyOf y k g).m, (dyOf y k g).e⟩).m
    some (if d < 0 then .lt else if d = 0 then .eq else .gt)

/-- CMP (R185). -/
def cmpElem (es var a b : Nat) : Bool :=
  let o := if es ≤ 4 then cmpF (decodeF (fmtOf es) a) (decodeF (fmtOf es) b) else some (compare (intOf es a) (intOf es b))
  match var with
  | 0 => o == some .eq
  | 1 => o != some .eq
  | 2 => o == some .lt
  | _ => o == some .lt || o == some .eq

/-- Rounding mode of a word's lane `i` (R37, R66). -/
def hMode (x : Plot) (w i : Nat) : RMode :=
  match bits w 303 302 with
  | 0 => .rne
  | 1 => .rtz
  | _ =>
    let k := Tab.get (0, 0) x.keys (bits w 195 194)
    .ksr (ksrR k.1 k.2 i)

/-- Result and flags of an element-wise operation in lane `i`. -/
def laneOp (x : Plot) (w i a b c : Nat) : Nat × Nat :=
  let h := wHop w
  let es := wEs w
  let mode := hMode x w i
  if h ≤ 0x0E then narrow (wEd w) mode (fpOp h mode (widen es a) (widen es b) (widen es c))
  else match h with
    | 0x10 => cvtElem es (wEd w) mode a
    | 0x12 => (if cmpElem es (wVar w) a b then 1 else 0, 0)
    | 0x18 => roundInt (etypeBits es) false (intOf es a + intOf es b)
    | 0x19 => (a &&& b, 0)
    | 0x1A => (a ||| b, 0)
    | 0x1B => (a ^^^ b, 0)
    | _ => (a, 0)

/-- RSUM over the active elements (R187). -/
def rsum (w : Nat) (mode : RMode) (vs : List Nat) : Nat × Nat :=
  let es := wEs w
  if vs.isEmpty then (0, 0)
  else
    let r := vs.foldl (fun (a : Acc × Nat) v =>
      if wVar w = 1 then
        let q := fMul .rne (widen es v) (widen es v)
        (a.1.raw (decodeF fp32 q.1), a.2 ||| q.2)
      else (a.1.raw (decodeF (fmtOf es) v), a.2)) ({}, 0)
    let o := r.1.round (fmtOf (wEd w)) mode
    (o.1, r.2 ||| o.2)

/-- RMIN and RMAX over the active elements. -/
def rminmax (w : Nat) (isMax : Bool) (vs : List Nat) : Nat × Nat :=
  let f := fmtOf (wEs w)
  match vs with
  | [] => (nanCode f, flNV)
  | v :: rest =>
    rest.foldl (fun (a : Nat × Nat) u => let r := fMinMax f isMax a.1 u; (r.1, a.2 ||| r.2))
      (if decodeF f v = .nan then (nanCode f, flNANIN) else (v, 0))

/-! ## Sparsity operations (R193, R194) -/

/-- Rank of an element by magnitude: a NaN above all, 0 for a zero. -/
def magRank (et c : Nat) : Nat :=
  if et = 0xD then (sInt 8 c).natAbs
  else if decodeF (fmtOf et) c = .nan then 2 ^ 32
  else c % 2 ^ (etypeBits et - 1)

/-- The positions a group keeps under PRUNE, or completes to under STRICT: the first two in the order of
`cs`, which lists the present positions from the largest magnitude; ties by position. -/
def keepTwo (ranks : List Nat) : List Nat :=
  let ps := enum ranks
  let best := ps.foldl (fun (b : Option (Nat × Nat)) q => match b with | none => some q | some y => if y.2 < q.2 then some q else b) none
  match best with
  | none => []
  | some b1 =>
    let rest := ps.filter fun q => q.1 != b1.1
    match rest.foldl (fun (b : Option (Nat × Nat)) q => match b with | none => some q | some y => if y.2 < q.2 then some q else b) none with
    | none => [b1.1]
    | some b2 => if b1.1 < b2.1 then [b1.1, b2.1] else [b2.1, b1.1]

/-- Element (k, n) of SPARSIFY's matrix. -/
def sparsifySrc (o : PlotOp) (k n : Nat) : Nat :=
  let w := o.word
  hSrcA o (if bit (wVar w) 1 then n * wElems w + k else k * (bits (wSB w) 6 0 + 1) + n)

/-- Ranks of the present positions of group `g`, column `n`. -/
def groupRanks (o : PlotOp) (g n : Nat) : List Nat :=
  (List.range (min 4 (wElems o.word - 4 * g))).map fun i => magRank (wEs o.word) (sparsifySrc o (4 * g + i) n)

/-- The first group that STRICT refuses: group and column. -/
def denseGroup (o : PlotOp) : Option (Nat × Nat) :=
  let w := o.word
  if bit (wVar w) 0 then none
  else (List.range (cdiv (wElems w) 4)).findSome? fun g =>
    (List.range (bits (wSB w) 6 0 + 1)).findSome? fun n =>
      if 3 ≤ ((groupRanks o g n).filter fun r => r != 0).length then some (g, n) else none

/-- Elements of a packed block as bytes. -/
def packElems (b : Nat) (vs : List Nat) : List Byte :=
  leBytes (cdiv (b * vs.length) 8) ((enum vs).foldl (fun a e => a + e.2 * 2 ^ (b * e.1)) 0)

/-- The B stream SPARSIFY writes. -/
def sparsifyOut (o : PlotOp) : List Byte :=
  let w := o.word
  let n := bits (wSB w) 6 0 + 1
  let b := etypeBits (wEs w)
  let r := kRate (wEs w) (wEs w)
  let k := wElems w
  (List.range (cdiv k 128)).flatMap fun j =>
    let pick (g c : Nat) : List Nat := if k ≤ 4 * g then [] else keepTwo (groupRanks o g c)
    let nib := (List.range 32).flatMap fun g => (List.range n).map fun c =>
      match pick (32 * j + g) c with
      | [i0, i1] => i0 + 4 * i1
      | _ => 4
    let val (sv c : Nat) : Nat :=
      match (pick (32 * j + sv / 2) c)[sv % 2]? with
      | some i => sparsifySrc o (4 * (32 * j + sv / 2) + i) c
      | none => 0
    let vals := (List.range (64 * n)).map fun e => val (e / r / n * r + e % r) (e / r % n)
    slice (packElems 4 nib) 0 (padLine (16 * n)) ++ slice (packElems b vals) 0 (padLine (8 * n * b))

/-- The kept elements of one 4 x 4 tile: positions with their ranks in descending order, taken greedily
under the row and column limits. -/
def greedy : List (Nat × Nat) → List (Nat × Nat) → List (Nat × Nat)
  | [], kept => kept
  | (r, c) :: rest, kept =>
    if (kept.filter fun q => q.1 == r).length < 2 ∧ (kept.filter fun q => q.2 == c).length < 2 then greedy rest (kept ++ [(r, c)])
    else greedy rest kept

/-- Insertion into a list sorted by descending rank, after its equals. -/
def insertRank (e : Nat × Nat × Nat) : List (Nat × Nat × Nat) → List (Nat × Nat × Nat)
  | [] => [e]
  | y :: ys => if y.1 < e.1 then e :: y :: ys else y :: insertRank e ys

/-- Element `i` of PRUNE_2D's matrix is kept. -/
def pruneKeeps (o : PlotOp) (i : Nat) : Bool :=
  let w := o.word
  let nn := wSB w + 1
  let r0 := i / nn / 4 * 4
  let c0 := i % nn / 4 * 4
  let cells := ((List.range 4).flatMap fun r => (List.range 4).map fun c => (r, c)).filter fun q =>
    decide (r0 + q.1 < wElems w) && decide (c0 + q.2 < nn) && decide ((r0 + q.1) * nn + c0 + q.2 < hAvail o)
  let sorted := (cells.map fun q => (magRank (wEs w) (hSrcA o ((r0 + q.1) * nn + c0 + q.2)), q.1, q.2)).foldl
    (fun l e => insertRank e l) []
  (greedy (sorted.map (·.2)) []).contains (i / nn - r0, i % nn - c0)

/-! ## What an operation writes -/

/-- An element written: line 0 of its stream, its width, its number, its bits. -/
abbrev Put := Nat × Nat × Nat × Nat

/-- The value of lane `i`, with its flags. -/
def laneVal (x : Plot) (o : PlotOp) (i : Nat) : Nat × Nat :=
  let h := wHop o.word
  laneOp x o.word i (hSrcA o i) (if readsB h then hSrcB o i else 0) (if h = 4 then hSrcC o i else 0)

/-- Elements of vector `v` that lie in line `l` of the destination. -/
def lanesOf (o : PlotOp) (v l : Nat) : List Nat :=
  ((List.range 256).map (256 * v + ·)).filter fun i => decide (i < hCount o.word) && hWidth o.word * i / 1024 == l

/-- What vector `v` puts into line `l` of the destination of an element-wise operation, MOV, CVT, CMP or EXPAND. -/
def lanePuts (x : Plot) (o : PlotOp) (v l : Nat) : List Put × Nat :=
  let w := o.word
  let act := (lanesOf o v l).filter (hActive x o)
  if wHop w = 0x29 then
    let before := (hActives x o (act.headD 0)).length
    ((enum act).map fun e => (wSD w, hWidth w, e.2, hSrcA o (before + e.1)), 0)
  else
    let rs := act.map fun i => (i, laneVal x o i)
    (rs.map fun r => (wSD w, hWidth w, r.1, r.2.1), rs.foldl (fun f r => f ||| r.2.2) 0)

/-- Elements of a byte list put from the start of a line. -/
def bytePuts (l0 : Nat) (bs : List Byte) : List Put := (enum bs).map fun e => (l0, 8, e.1, e.2.toNat)

/-- What an operation writes with its last line: the results of R187, R189, R193, R194. -/
def finalPuts (x : Plot) (o : PlotOp) : List Put × Nat :=
  let w := o.word
  let h := wHop w
  let n := hCount w
  if h = 0x20 then
    let r := rsum w (hMode x w 0) ((hActives x o n).map (hSrcA o))
    ([(wSD w, etypeBits (wEd w), 0, r.1)], r.2)
  else if h = 0x21 ∨ h = 0x22 then
    let r := rminmax w (h == 0x22) ((hActives x o n).map (hSrcA o))
    ([(wSD w, etypeBits (wEd w), 0, r.1)], r.2)
  else if h = 0x28 then
    let act := hActives x o n
    let b := hWidth w
    (((enum act).map fun e => (wSD w, b, e.1, if bit (wVar w) 0 then e.2 else hSrcA o e.2)) ++
      (if bit (wVar w) 1 then (List.range (n - act.length)).map fun i => (wSD w, b, act.length + i, 0) else []) ++
      [(wSB w, 32, 0, act.length)], 0)
  else if h = 0x38 then (bytePuts (wSD w) (sparsifyOut o), 0)
  else
    (((List.range n).filter fun i => decide (i < hAvail o)).map fun i =>
      let k := pruneKeeps o i
      (wSD w, hWidth w, i, if wVar w = 0 then (if k then 1 else 0) else if k then hSrcA o i else 0), 0)

/-- What an operation's access writes, with the flags it raises. -/
def opPuts (x : Plot) (o : PlotOp) (a : LineAcc) : List Put × Nat :=
  let w := o.word
  let h := wHop w
  match a.act with
  | .read _ => ([], 0)
  | .slot => ([], 0)
  | .final => finalPuts x o
  | .write i =>
    if o.unit = .acc then (bytePuts a.line (accStoreBytes o i), 0)
    else if h = 0x31 then
      let r := Tab.get {} x.xregs (wXreg w)
      (bytePuts a.line (if r.isList then (if i = 4 then leBytes 4 r.count else slice (r.list.flatMap (leBytes 2)) (128 * i) 128)
        else leBytes 32 r.mask), 0)
    else if h = 0x2A then
      ((enum (xEntries x w)).filterMap fun e =>
        if hWidth w * e.1 / 1024 = i ∧ e.2 < hAvail o then some (wSD w, hWidth w, e.1, hSrcA o e.2) else none, 0)
    else if h = 0x2B then
      let ix := xEntries x w
      let k := ix.getD i 0
      (if hAvail o ≤ i ∨ (ix.drop (i + 1)).contains k then [] else [(wSD w, hWidth w, k, hSrcA o i)], 0)
    else lanePuts x o i (a.line - wSD w)

/-- One element of `b` bits put into the scratchpad at bit `pos` of line `l0`. -/
def putElem (m : Mem) (l0 b pos v : Nat) : Mem :=
  let a := 128 * l0 + pos / 8
  if b = 1 then
    let o := (Mem.read m a).toNat
    Mem.write m a (BitVec.ofNat 8 (if v = 1 then o ||| 2 ^ (pos % 8) else o &&& (255 ^^^ 2 ^ (pos % 8))))
  else Mem.writes m a (leBytes (b / 8) v)

/-- Line an element lies in. -/
def Put.line (q : Put) : Nat := q.1 + q.2.1 * q.2.2.1 / 1024

/-- Source elements that EXPAND reads; other operations read every line they present (R190, R197). -/
def readsKey (x : Plot) (o : PlotOp) (key : Nat) : Bool :=
  wHop o.word != 0x29 || decide (keyB ≤ key) || decide (1024 * key < etypeBits (wEs o.word) * (hActives x o (hCount o.word)).length)

/-- Taint of everything a harrow operation has read (R197). -/
def opTaint (x : Plot) (o : PlotOp) : Bool := o.taint || o.cap.any fun e => e.2.taint && (o.unit != .harrow || readsKey x o e.1)

/-- Its taint as far as the lines it has still to read show it. -/
def taintNow (x : Plot) (o : PlotOp) : Bool := opTaint x o || (o.unit == .harrow && o.readsLeft.any (lineTaint x))

/-- An access that writes: its elements are put, and every line they lie in takes the operation's taint, and its own previous one
when a bit of it stays (05 R162, 06 R197). -/
def opWrite (x : Plot) (o : PlotOp) (a : LineAcc) : Plot :=
  let r := opPuts x o a
  let ls := (a.line :: r.1.map Put.line).eraseDups
  let bitsIn (l : Nat) : Nat := ((r.1.filter fun q => q.line == l).map fun q => q.2.1).foldl (· + ·) 0
  let ws := ls.map fun l => ({ line := l, clear := if l = a.line then x.cyc + 4 else 0, bits := bitsIn l, old := readLine x l, oldTaint := lineTaint x l } : LineWr)
  let x := putOp x { o with wrote := o.wrote ++ ws, flags := o.flags ||| r.2 }
  taintLines { x with scratch := r.1.foldl (fun m q => putElem m q.1 q.2.1 (q.2.1 * q.2.2.1) q.2.2.2) x.scratch }
    (ls.filter fun l => bitsIn l != 0) (taintNow x o) fun l => bitsIn l == 1024

/-- What the operation has written is undone (R201, 07 R228). -/
def undoOp (x : Plot) (o : PlotOp) : Plot :=
  o.wrote.reverse.foldl (fun x w => { x with scratch := Mem.writes x.scratch (128 * w.line) w.old, taint := Tab.set false x.taint w.line w.oldTaint }) x

/-- Every line the operation has written takes the taint of all that it has read, and its own from before when a bit of it stays. -/
def settleTaint (x : Plot) (o : PlotOp) : Plot :=
  let t := opTaint x o
  let ls := ((o.wrote.filter fun w => w.bits != 0).map (·.line)).eraseDups
  { x with taint := ls.foldl (fun m l =>
      let ws := o.wrote.filter fun w => w.line == l
      let whole := decide (1024 ≤ (ws.map (·.bits)).foldl (· + ·) 0)
      Tab.set false m l (t || (!whole && ((ws.head?).map (·.oldTaint)).getD false))) x.taint }

/-- Bytes of the destination stream as they stand. -/
def destBytes (x : Plot) (w : Nat) : List Byte :=
  let h := wHop w
  if h = 0x31 then Mem.reads x.scratch (128 * wSD w) (if (Tab.get {} x.xregs (wXreg w)).isList then 512 else 32)
  else if 0x20 ≤ h ∧ h ≤ 0x22 then (if h ≠ 0x20 ∧ hCount w = 0 then [] else Mem.reads x.scratch (128 * wSD w) (etypeBits (wEd w) / 8))
  else if h = 0x38 then Mem.reads x.scratch (128 * wSD w) (sparsifyBytes w)
  else if h = 0x30 ∨ h = 0x32 ∨ h = 0x3F then []
  else Mem.reads x.scratch (128 * wSD w) (cdiv ((if h = 0x2A then xCount x w else hCount w) * hWidth w) 8)

/-! ## Issue and end (R195 to R201) -/

/-- Taint of the bank, tile queue entry and registers that an operation reads (R197). -/
def issueTaint (x : Plot) (w : Nat) : Bool :=
  let h := wHop w
  let streams := decide (h < 0x30) || h == 0x38 || h == 0x39
  let xreg := (h == 0x2A || h == 0x2B || h == 0x31) && (Tab.get {} x.xregs (wXreg w)).taint
  let mreg := (bit (wMsel w) 0 || h == 0x32) && (Tab.get {} x.xregs (wMreg w)).taint
  h != 0x3F && !(streams && hCount w == 0) &&
    ((wSrck w == 1 && x.bank0.taint) || (wSrck w == 2 && x.bank1.taint) || (wSrck w == 3 && ((x.tq.head?).map (·.taint)).getD false) || mreg || xreg)

/-- A register read as the wrong kind. -/
def wrongKind (x : Plot) (w : Nat) : Bool :=
  let h := wHop w
  ((bit (wMsel w) 0 || h == 0x32) && (Tab.get {} x.xregs (wMreg w)).isList) ||
    ((h == 0x2A || h == 0x2B) && !(Tab.get {} x.xregs (wXreg w)).isList)

/-- Values of source A taken at issue: of an accumulator bank or of the tile queue's head (R196). -/
def issueSrc (x : Plot) (w : Nat) : List Nat :=
  match wSrck w with
  | 0 => []
  | 1 => (List.range (hCount w)).map (Tab.get 0 x.bank0.vals)
  | 2 => (List.range (hCount w)).map (Tab.get 0 x.bank1.vals)
  | _ => ((x.tq.head?).map (·.vals)).getD []

/-- Cycles from issue to HDONE (R199). -/
def harrowFin (x : Plot) (w : Nat) : Nat :=
  let h := wHop w
  if h = 0x3F then 1 else if 0x30 ≤ h ∧ h ≤ 0x32 then 4 else if hCount w = 0 then 1 else hStream x w + 16

/-- The operation a harrow word starts. -/
def harrowOp (x : Plot) (w : Nat) (e : LineErrs) : PlotOp :=
  let bank := if wSrck w = 1 then some false else if wSrck w = 2 then some true else none
  { newOp x w .harrow bank (hStream x w) (harrowFin x w) with
    todo := harrowTodo x w, reads := harrowReads x w, errs := e, src := issueSrc x w, taint := issueTaint x w
    pop := if wSrck w = 3 ∧ bit w 285 then (x.tq.head?).map (·.id) else none }

/-- A harrow operation at issue (R191, R195, R196, R198, R201). -/
def startHarrow (s : State) (p w : Nat) (e : LineErrs) : State :=
  let x := plot s p
  let h := wHop w
  let fail (c : Half) : State := wordFault s p .harrow c
  if !harrowPlotOk s p w || wrongKind x w then fail fHarrowConfig
  else if !harrowFree x then fail fHarrowIssue
  else if (wSrck w = 1 ∧ bankBusy x false) ∨ (wSrck w = 2 ∧ bankBusy x true) then fail fArrayBankBusy
  else if wSrck w = 3 ∧ (tqHead x).isNone then fail fHarrowIssue
  else if !(inScratch (harrowWrites x w) && inScratch (if h = 0x30 ∧ wVar w = 2 then [wSB w] else harrowReads x w)) then fail fScratchRange
  else if (h = 0x2A ∨ h = 0x2B) ∧ ((xEntries x w).any fun i => decide (wElems w ≤ i)) then fail fHarrowIndex
  else
    modPlot s p fun x =>
      let tapped : Bool := h != 0x30 && h != 0x32 && h != 0x3F
      { enterOp x (harrowOp x w e) with
        hints := x.hints &&& 5
        streams := if tapped then x.streams ++ [(0, .seg (some x.nextId) [] false (wNmark w))] else x.streams }

/-- A harrow part command for HOP code `h`. -/
def harrowPart (p : Fin 32) (h : Nat) (e : LineErrs) (s : State) : Out :=
  part p 1 (fun w => wHop w == h) s fun s w _ => startHarrow s p w e

def execHarrowAdd (p : Fin 32) (e : LineErrs) (s : State) : Out := harrowPart p 0x01 e s
def execHarrowSub (p : Fin 32) (e : LineErrs) (s : State) : Out := harrowPart p 0x02 e s
def execHarrowMul (p : Fin 32) (e : LineErrs) (s : State) : Out := harrowPart p 0x03 e s
def execHarrowFma (p : Fin 32) (e : LineErrs) (s : State) : Out := harrowPart p 0x04 e s
def execHarrowDiv (p : Fin 32) (e : LineErrs) (s : State) : Out := harrowPart p 0x05 e s
def execHarrowMin (p : Fin 32) (e : LineErrs) (s : State) : Out := harrowPart p 0x06 e s
def execHarrowMax (p : Fin 32) (e : LineErrs) (s : State) : Out := harrowPart p 0x07 e s
def execHarrowAbs (p : Fin 32) (e : LineErrs) (s : State) : Out := harrowPart p 0x08 e s
def execHarrowNeg (p : Fin 32) (e : LineErrs) (s : State) : Out := harrowPart p 0x09 e s
def execHarrowSqrt (p : Fin 32) (e : LineErrs) (s : State) : Out := harrowPart p 0x0A e s
def execHarrowRcp (p : Fin 32) (e : LineErrs) (s : State) : Out := harrowPart p 0x0B e s
def execHarrowRsqrt (p : Fin 32) (e : LineErrs) (s : State) : Out := harrowPart p 0x0C e s
def execHarrowExp2 (p : Fin 32) (e : LineErrs) (s : State) : Out := harrowPart p 0x0D e s
def execHarrowLog2 (p : Fin 32) (e : LineErrs) (s : State) : Out := harrowPart p 0x0E e s
def execHarrowCvt (p : Fin 32) (e : LineErrs) (s : State) : Out := harrowPart p 0x10 e s
def execHarrowMov (p : Fin 32) (e : LineErrs) (s : State) : Out := harrowPart p 0x11 e s
def execHarrowCmp (p : Fin 32) (e : LineErrs) (s : State) : Out := harrowPart p 0x12 e s
def execHarrowIadd (p : Fin 32) (e : LineErrs) (s : State) : Out := harrowPart p 0x18 e s
def execHarrowAnd (p : Fin 32) (e : LineErrs) (s : State) : Out := harrowPart p 0x19 e s
def execHarrowOr (p : Fin 32) (e : LineErrs) (s : State) : Out := harrowPart p 0x1A e s
def execHarrowXor (p : Fin 32) (e : LineErrs) (s : State) : Out := harrowPart p 0x1B e s
def execHarrowRsum (p : Fin 32) (e : LineErrs) (s : State) : Out := harrowPart p 0x20 e s
def execHarrowRmin (p : Fin 32) (e : LineErrs) (s : State) : Out := harrowPart p 0x21 e s
def execHarrowRmax (p : Fin 32) (e : LineErrs) (s : State) : Out := harrowPart p 0x22 e s
def execCompress (p : Fin 32) (e : LineErrs) (s : State) : Out := harrowPart p 0x28 e s
def execExpand (p : Fin 32) (e : LineErrs) (s : State) : Out := harrowPart p 0x29 e s
def execGather (p : Fin 32) (e : LineErrs) (s : State) : Out := harrowPart p 0x2A e s
def execScatter (p : Fin 32) (e : LineErrs) (s : State) : Out := harrowPart p 0x2B e s
def execXload (p : Fin 32) (e : LineErrs) (s : State) : Out := harrowPart p 0x30 e s
def execXstore (p : Fin 32) (e : LineErrs) (s : State) : Out := harrowPart p 0x31 e s
def execXlist (p : Fin 32) (e : LineErrs) (s : State) : Out := harrowPart p 0x32 e s
def execSparsify (p : Fin 32) (e : LineErrs) (s : State) : Out := harrowPart p 0x38 e s
def execPrune2d (p : Fin 32) (e : LineErrs) (s : State) : Out := harrowPart p 0x39 e s
def execKeyset (p : Fin 32) (e : LineErrs) (s : State) : Out := harrowPart p 0x3F e s

/-- XLOAD, XLIST and KEYSET write their register. -/
def putResult (x : Plot) (o : PlotOp) : Plot :=
  let w := o.word
  let h := wHop w
  if h = 0x3F then { x with keys := Tab.set (0, 0) x.keys (bits w 311 310) (bits w 287 224, bits w 223 192) }
  else if h = 0x30 then
    let n := if wVar w = 1 then wElems w else capElem o keyB 32 0
    let r : XReg :=
      if wVar w = 0 then { mask := leNat ((Tab.get {} o.cap 0).bytes.take 32), taint := opTaint x o }
      else { isList := true, list := (List.range n).map (capElem o 0 16), count := n, taint := opTaint x o }
    { x with xregs := Tab.set {} x.xregs (wXreg w) r }
  else if h = 0x32 then
    let m := Tab.get {} x.xregs (wMreg w)
    let l := setBits 256 m.mask
    { x with xregs := Tab.set {} x.xregs (wXreg w) { isList := true, list := l, count := l.length, taint := m.taint } }
  else x

/-- A harrow operation at its end (R188, R196, R197, R199): its register is written, the flags of an untainted operation are
recorded, and a popped entry leaves the queue. -/
def harrowEnd (x : Plot) (o : PlotOp) : Plot :=
  let x := putResult (settleTaint x o) o
  { x with hflags := if opTaint x o then x.hflags else x.hflags ||| BitVec.ofNat 8 o.flags
           tq := match o.pop with
             | some i => x.tq.filter fun e => e.id != i
             | none => x.tq }

end Sys2Proof.Machine
end

