-- ==== Sys2Proof/Machine/PlotSeq.lean ====
section
/-!
DEFINITION. The sequencer of a plot (07): counters, comparators, flags, the digest tap and log, power hints, the tile queue
drop, start and stop.
-/

namespace Sys2Proof.Machine
open Sys2Proof

/-! ## Digest taps and logs (R223) -/

/-- DTAP: the stream the word's operation gives is tapped. -/
def dtap (s : State) (p w : Nat) : State :=
  let x := plot s p
  let k := bits w 30 28
  match x.streams.find? fun e => e.1 == bits w 26 24 with
  | none => s
  | some e =>
    let i := match e.2 with
      | .seg a b t _ => DigItem.seg a b t (wNmark w)
      | i => i
    modPlot s p fun x => { x with digs := Tab.upd {} x.digs k fun d => { d with items := d.items ++ [i] } }

/-- DLOG: the log takes effect once every stream before it has ended. -/
def dlog (s : State) (p w : Nat) : State :=
  digSettle p (modPlot s p fun x => { x with digs := Tab.upd {} x.digs (bits w 30 28) fun d => { d with items := d.items ++ [.log x.pc.toNat] } })

def execDtap (p : Fin 32) (s : State) : Out := part p 9 (fun _ => true) s fun s w _ => dtap s p w
def execDlog (p : Fin 32) (s : State) : Out := part p 10 (fun _ => true) s fun s w _ => dlog s p w

/-! ## Power hints (R224) -/

/-- A hint gates unit `b` when it is idle: 0 the array, 1 the harrow, 2 the FABRIC port engine. -/
def powerHint (s : State) (p b : Nat) : State :=
  modPlot s p fun x =>
    let idle : Bool := match b with
      | 0 => x.ops.all fun o => o.unit == .harrow
      | 1 => harrowFree x
      | _ => x.xq.isEmpty
    if idle then { x with hints := x.hints ||| BitVec.ofNat 3 (2 ^ b) } else x

def execPhArray (p : Fin 32) (s : State) : Out := part p 11 (fun _ => true) s fun s _ _ => powerHint s p 0
def execPhHarrow (p : Fin 32) (s : State) : Out := part p 12 (fun _ => true) s fun s _ _ => powerHint s p 1
def execPhFabric (p : Fin 32) (s : State) : Out := part p 13 (fun _ => true) s fun s _ _ => powerHint s p 2

/-! ## TQ_DROP (R216) -/

/-- TQ_DROP takes the head: it needs TQ_AVAIL, and nothing of the harrow (R216, 06 R196). -/
def tqDrop (s : State) (p : Nat) : State :=
  let x := plot s p
  if (tqHead x).isNone then wordFault s p .harrow fHarrowIssue
  else modPlot s p fun x => { x with tq := x.tq.drop 1 }

def execTqDrop (p : Fin 32) (s : State) : Out := part p 2 (fun _ => true) s fun s _ _ => tqDrop s p

/-! ## Counters, comparators, flags (R206, R209, R211) -/

/-- The immediate of a word. -/
def wImm (w : Nat) : Word := BitVec.ofNat 32 (bits w 735 704)

def copSet (s : State) (p w : Nat) : State := modPlot s p fun x => { x with ctr := Tab.set 0 x.ctr (bits w 739 736) (wImm w) }
def copAdd (s : State) (p w : Nat) (n : Snap) : State :=
  modPlot s p fun x => { x with ctr := Tab.set 0 x.ctr (bits w 739 736) (Tab.get 0 n.ctr (bits w 739 736) + wImm w) }
def copLim (s : State) (p w : Nat) : State := modPlot s p fun x => { x with lim := Tab.set 0 x.lim (bits w 745 743) (wImm w) }
def copCfg (s : State) (p w : Nat) : State := modPlot s p fun x => { x with cfg := Tab.set 0 x.cfg (bits w 745 743) (wImm w) }

def execSet (p : Fin 32) (s : State) : Out := part p 5 (fun w => wCop w == 1) s fun s w _ => copSet s p w
def execCopAdd (p : Fin 32) (s : State) : Out := part p 5 (fun w => wCop w == 2) s fun s w n => copAdd s p w n
def execSetlim (p : Fin 32) (s : State) : Out := part p 5 (fun w => wCop w == 3) s fun s w _ => copLim s p w
def execSetcfg (p : Fin 32) (s : State) : Out := part p 5 (fun w => wCop w == 4) s fun s w _ => copCfg s p w

def setFlag (s : State) (p i : Nat) : State := modPlot s p fun x => { x with flags := x.flags ||| BitVec.ofNat 64 (2 ^ i) }
def clrFlag (s : State) (p i : Nat) : State := modPlot s p fun x => { x with flags := x.flags &&& ~~~(BitVec.ofNat 64 (2 ^ i)) }

/-- A plot notes an increment made in its present cycle: it sees it from the second cycle after (R209). -/
def noteInc (x : Plot) (k : Nat) (own : Bool) : Plot :=
  { x with scLate := (x.scLate.filter fun e => decide (x.cyc < e.2 + 2)) ++ [(k, x.cyc)], outside := x.outside || !own }

/-- SCINC: every plot of the die that runs sees the sum two cycles later (R209). -/
def scInc (s : State) (p k : Nat) : State :=
  let s := { s with sc := Tab.upd 0 s.sc (16 * (p / 16) + k) (· + 1) }
  (List.range 16).foldl (fun s i =>
    let q := 16 * (p / 16) + i
    if (plot s q).mode = .running then modPlot s q fun x => noteInc x k (q == p) else s) s

def execSset (p : Fin 32) (s : State) : Out := part p 6 (fun _ => true) s fun s w _ => setFlag s p (bits w 678 673)
def execSclr (p : Fin 32) (s : State) : Out := part p 7 (fun _ => true) s fun s w _ => clrFlag s p (bits w 671 666)
def execScinc (p : Fin 32) (s : State) : Out := part p 8 (fun _ => true) s fun s w _ => scInc s p (bits w 664 661)

/-- Every operation, transfer, Cellar entry and log of the plot has ended. -/
def drained (x : Plot) : Bool :=
  x.ops.isEmpty && x.xq.isEmpty && !(x.tq.any fun e => decide (128 ≤ e.tag)) && x.digs.all fun d => d.2.items.isEmpty

/-- Body of PLOT_DONE and PLOT_STOPPED (17 Table 17-13). -/
def doneBody (x : Plot) : List Byte := pack 40 [(0, 2, x.pc.toNat), (8, 8, x.cycles.toNat), (16, 8, x.waitCycles.toNat)]

/-- The end entry of a program: it completes the stops that wait, and stands alone when none does. -/
def endEntry (s : State) (p : Nat) (kind : Half) (stops : List Cmd) : State :=
  let e : Entry := { kind, utype := uPlot, unit := p, n := (plot s p).nmark, body := doneBody (plot s p) }
  if stops.isEmpty then tally s e else stops.foldl (fun s c => complete s c e) s

/-! ## Start and stop (R235, R236) -/

/-- The control word at the PC read with its ECC (18 R500). -/
def fetchEcc (s : State) (p : Nat) (e : Ecc) : State :=
  match e with
  | .ok => s
  | .ce => raise s fCtrlCe uPlot p
  | .ue =>
    modPlot (plotAbort s p .seq fCtrlUe { addr := (plot s p).pc.toNat }) p fun x => { x with ctrlBad := true }

/-- Operations of an earlier run keep running; cycles are counted from the new start. -/
def rebase (x : Plot) : Plot :=
  let c := x.cyc
  let wr (w : LineWr) : LineWr := { w with clear := w.clear - c }
  { x with
    ops := x.ops.map fun o => { o with wrote := o.wrote.map wr }
    shadow := (x.shadow.filter fun w => decide (c < w.clear)).map wr
    tq := x.tq.map fun e => { e with ready := e.ready - c } }

/-- What PLOT_START resets and arms. -/
def startPlot (x : Plot) (c : Cmd) (a : Nat) : Plot :=
  let x := rebase x
  { x with
    mode := .running, scLate := [], ctr := [], lim := [], cfg := [], flags := 0, came := 0, outside := false, ags := [], digs := [], nmark := false, cycles := 0, waitCycles := 0
    aflags := 0, hflags := 0, binds := [], bindsArmed := true, pc := BitVec.ofNat 14 a, cyc := 0, heldAt := 0, snap := none
    streams := [], halted := false, stopping := false, stops := [], startCmd := some c }

/-- PLOT_START. -/
def plotStart (c : Cmd) (e : Ecc) (s : State) : State :=
  let p := c.u 0 1
  let x := plot s p
  if fallow s p || x.mode == .running || x.ctrlBad || tableWords s p == 0 then cmdDone s c oPlotStart stUnitState
  else if tableWords s p ≤ c.u 2 2 then cmdDone s c oPlotStart stRange
  else if s.plan.quiescing || s.plan.phase == .apply then cmdDone s c oPlotStart stPlanBusy
  else fetchEcc (modPlot s p fun x => startPlot x c (c.u 2 2)) p e

def execPlotStart (c : Cmd) (e : Ecc) (s : State) : Out :=
  onCmd oPlotStart c [(0, 1), (2, 2)] (decide (c.u 0 1 < 32)) s (plotStart c e)

/-- Transfers that have not begun are discarded, and the taps of their streams (R236). -/
def discard (x : Plot) : Plot :=
  { x with
    xq := x.xq.filter (·.running)
    digs := x.digs.map fun d => (d.1, { d.2 with items := d.2.items.filter fun i =>
      match i with
      | .seg (some k) _ _ _ => !x.xq.any fun t => t.id == k && !t.running
      | _ => true }) }

/-- The plot has issued its HALT word. -/
def haltIssued (s : State) (p : Nat) : Bool :=
  (plot s p).halted || ((plot s p).snap.isSome && ((plotWord s p (plot s p).pc.toNat).map fun w => wNxt w == 5).getD false)

/-- PLOT_STOP: after a HALT has issued it changes nothing and completes with PLOT_DONE (R236). -/
def plotStop (c : Cmd) (s : State) : State :=
  let p := c.u 0 1
  let x := plot s p
  if x.mode ≠ .running then cmdDone s c oPlotStop stOk
  else if haltIssued s p then modPlot s p fun x => { x with stops := x.stops ++ [c] }
  else modPlot s p fun x => { discard x with stopping := true, stops := x.stops ++ [c] }

def execPlotStop (c : Cmd) (s : State) : Out := onCmd oPlotStop c [(0, 1)] (decide (c.u 0 1 < 32)) s (plotStop c)

end Sys2Proof.Machine
end

