-- ==== Sys2Proof/Machine/PlotXfer.lean ====
section
/-!
DEFINITION. The fabric transfer queue of a plot and its receive bindings (07): granary transfers, movement
and collective sends, waybills, and what arrives for a plot.
-/

namespace Sys2Proof.Machine
open Sys2Proof

/-! ## Plots on the fabric -/

/-- Port field and address of a plot (11 Table 11-7). -/
def plotField (s : State) (p : Nat) : Nat :=
  (((planRecs s 0x03 0x02).find? fun r => bits (r.fld 0) 31 28 == 2 && bits (r.fld 0) 4 0 == p).map (·.index)).getD 0
def plotAddr (s : State) (p : Nat) : Addr := addr s.plan.deviceId.toNat (plotField s p)

/-- The plot at a port field. -/
def plotAt (s : State) (field : Nat) : Option Nat :=
  let k := localKind s field
  if k.1 = 2 then some k.2 else none

/-! ## Queueing (R217, R218) -/

/-- A transfer enters the queue with its AG3 stream. -/
def queueXfer (s : State) (p w : Nat) (t : Xfer) : State :=
  let x := plot s p
  if 4 ≤ x.xq.length then wordFault s p .seq fSeqXferIssue
  else
    match agStream x w 3 with
    | none => wordFault s p .seq fSeqConfig
    | some g =>
      let k := cdiv (fabricBytes x w) 128
      let ls := agLines g k
      if !inScratch ls then wordFault s p .array fScratchRange
      else
        let src := match t.kind with
          | .gstore => [3]
          | .msend => [2]
          | .csend => [2]
          | _ => []
        modPlot s p fun x =>
          let x := agUse x 3 g k
          { x with xq := x.xq ++ [{ t with addr := x.pc.toNat, lines := ls, id := x.nextId }], nextId := x.nextId + 1
                   hints := x.hints &&& 3
                   streams := x.streams ++ src.map fun i => (i, .seg (some x.nextId) [] false (wNmark w)) }

def granXfer (s : State) (p w : Nat) (kind : XferKind) : State :=
  queueXfer s p w { kind, addr := 0, lines := [], gaddr := bits w 187 150, count := wGlines w }

def furrowXfer (s : State) (p w : Nat) (kind : XferKind) : State :=
  queueXfer s p w { kind, addr := 0, lines := [], furrow := bits w 91 84, rb := wRb w, count := wCount w, etype := wEtype w }

def execGload (p : Fin 32) (s : State) : Out := part p 3 (fun w => wGop w == 1) s fun s w _ => granXfer s p w .gload
def execGstore (p : Fin 32) (s : State) : Out := part p 3 (fun w => wGop w == 2) s fun s w _ => granXfer s p w .gstore
def execMsend (p : Fin 32) (s : State) : Out := part p 4 (fun w => wFop w == 1) s fun s w _ => furrowXfer s p w .msend
def execWaybill (p : Fin 32) (s : State) : Out := part p 4 (fun w => wFop w == 2) s fun s w _ => furrowXfer s p w .waybill
def execCsend (p : Fin 32) (s : State) : Out := part p 4 (fun w => wFop w == 3) s fun s w _ => furrowXfer s p w .csend

/-- ARM (R219): a complete binding is armed again. -/
def armBind (s : State) (p b : Nat) : State := modBind s p b fun x => if x.complete then { tag := x.tag } else x

def execArm (p : Fin 32) (s : State) : Out := part p 4 (fun w => wFop w == 4) s fun s w _ => armBind s p (wRb w)

/-! ## Granary transfers (R217, 15 R444) -/

/-- The 128-byte granary line lies in a window of the plot; for a store in a read-write one. -/
def inWindow (s : State) (p : Nat) (store : Bool) (line : Nat) : Bool :=
  (plotTab s p 2).any fun e =>
    let w0 := e.getD 0 0
    (bit w0 31 || !store) && decide (32 * bits w0 25 0 ≤ line) && decide (line < 32 * (bits w0 25 0 + bits (e.getD 1 0) 25 0))

/-- The REGION that holds a granary line: the plots it names. -/
def regionOf (s : State) (line : Nat) : Option Nat :=
  ((planRecs s 0x0B 0x04).find? fun r => decide (r.fld 0 ≤ 128 * line) && decide (128 * line < r.fld 0 + r.fld 1 * 2 ^ 21)).map (·.fld 2)

/-- A granary stack answers nothing: its controller is fenced (18 R501). -/
def stackFenced (s : State) (k : Nat) : Bool := (Tab.get {} s.granCtl k).fenced

/-- ECC of a granary read (18 R501): corrected data is counted. -/
def granCe (s : State) (stack : Nat) : State :=
  raise s fGranaryCe uGranary stack

/-- An uncorrectable granary read counted. -/
def granUe (s : State) (stack : Nat) : State :=
  raise s fGranaryUe uGranary stack

/-- The head transfer leaves the queue; what taps its stream sees it end. -/
def popXfer (p : Nat) (s : State) : State :=
  match (plot s p).xq with
  | [] => s
  | t :: rest => digSettle p (modPlot s p fun x => tapEnd { x with xq := rest } t.id none)

/-- A transfer stopped by a fault, having moved nothing. -/
def failXfer (s : State) (p : Nat) (t : Xfer) (u : FaultUnit) (code : Half) : State :=
  popXfer p (plotAbort s p u code { addr := t.addr })

/-- The bytes and taint of stream `k` given to what taps it; it goes on running. -/
def DigItem.fed (k : Nat) (bs : List Byte) (tn : Bool) (i : DigItem) : DigItem :=
  match i with
  | .seg (some j) b t nm => if j = k then .seg (some j) bs tn nm else .seg (some j) b t nm
  | _ => i

def feedTap (s : State) (p : Nat) (t : Xfer) (bs : List Byte) (tn : Bool) : State :=
  modPlot s p fun x =>
    { x with streams := x.streams.map fun e => (e.1, e.2.fed t.id bs tn)
             digs := x.digs.map fun d => (d.1, { d.2 with items := d.2.items.map (·.fed t.id bs tn) }) }

/-- The stream of a transfer as it leaves the plot, zeros in place of tainted lines unless they may go, and
whether a line was withheld (15 R446). -/
def leaving (t : Xfer) (may : Nat → Bool) : List Byte × Bool :=
  let ls := enum t.cap
  let held (e : Nat × CapLine) : Bool := e.2.taint && !may e.1
  (ls.flatMap fun e => if held e then List.replicate 128 0 else e.2.bytes, ls.any held)

/-- A leak stops the plot (15 R446). -/
def leaked (s : State) (p : Nat) (t : Xfer) (leak : Bool) : State :=
  if leak then plotAbort s p .seq fCellarLeak { addr := t.addr } else s

/-- The head transfer changed. -/
def modHead (s : State) (p : Nat) (f : Xfer → Xfer) : State :=
  modPlot s p fun x => { x with xq := match x.xq with
    | t :: rest => f t :: rest
    | [] => [] }

/-- The head transfer runs: its lines move as the FABRIC port serves their banks. -/
def runsNow (s : State) (p : Nat) (errs : LineErrs) : State :=
  modHead s p fun t => { t with running := true, left := t.lines, cap := [], errs }

/-- Granary lines of a granary transfer. -/
def granLines (t : Xfer) : List Nat := (List.range t.count).map fun i => t.gaddr / 128 + i

/-- The plot is one that the REGION of a granary line names. -/
def regionNames (s : State) (p l : Nat) : Bool := match regionOf s l with
  | some m => bit m p
  | none => false

/-- A granary transfer at the head of the queue (R217, R220, 15 R444, 18 R501). -/
def startGran (s : State) (p : Nat) (t : Xfer) (errs : LineErrs) : State :=
  let store := t.kind == .gstore
  let ls := granLines t
  let stack := t.gaddr / 2 ^ 36
  let x := plot s p
  if ls.any fun l => !inWindow s p store l || ((regionOf s l).isSome && !regionNames s p l) then failXfer s p t .seq fPlotGranaryRange
  else if stackFenced s stack then failXfer (granUe s stack) p t .seq fGranaryUe
  else if store then runsNow s p errs
  else if x.bindsArmed && armedWrite s p t.lines then failXfer s p t .seq fSchedHazard
  else if errs.any (·.2) then failXfer (granUe s stack) p t .seq fGranaryUe
  else runsNow (errs.foldl (fun s _ => granCe s stack) s) p errs

/-- A GLOAD's next line written: tainted where the line's region is the plot's (R217, 15 R444). -/
def gloadLine (s : State) (p : Nat) (t : Xfer) (l : Nat) : State :=
  let q := t.gaddr / 128 + (t.lines.length - t.left.length)
  let bs := Mem.reads s.gran (128 * q) 128
  let tn := regionNames s p q
  modPlot s p fun x => shadeLines (taintLines { x with scratch := Mem.writes x.scratch (128 * l) bs } [l] tn fun _ => true) [l]

/-- A GSTORE has read its lines: they are written to the granary. -/
def gstoreDone (s : State) (p : Nat) (t : Xfer) : State :=
  let ls := granLines t
  let out := leaving t fun i => regionNames s p (ls.getD i 0)
  let s := { s with gran := Mem.writes s.gran t.gaddr out.1
                    granTaint := (enum ls).foldl (fun g q => Tab.set false g q.2 (regionNames s p q.2 && (t.cap.getD q.1 {}).taint)) s.granTaint }
  leaked (feedTap (provTouch s t.gaddr (128 * t.count)) p t out.1 (t.cap.any (·.taint))) p t out.2

/-! ## Movement and collective sends (R218, 03 R69 to R81) -/

/-- A packet of a plot passes the checks of its port (03 R70, R83, R87) and is sent. -/
def plotSend (s : State) (p : Nat) (k : Pkt) : State :=
  let r := portCol s (plotField s p) k
  if r.2 = .pass then send r.1 (1024 + p) k else r.1

/-- Where a member of a movement furrow sends (R69). -/
def moveDst (s : State) (f : Nat) (src : Addr) : Addr :=
  match (enum (furrowTab s f 0)).find? fun e => memberAddr (e.2.getD 0 0) == src with
  | none => 0
  | some (i, _) => memberAddr (destWord s f i)

/-- Bytes of elements in one MOVE_DATA packet: the largest payload, less its head. -/
abbrev moveBytes : Nat := 4080

/-- The MOVE_DATA packets of a transfer (03 R71, 11 Table 11-3). -/
def movePkts (s : State) (src dst : Addr) (f seq total et : Nat) (bs : List Byte) : List Pkt :=
  let per := moveBytes * 8 / etypeBits et
  (List.range (max 1 (cdiv total per))).map fun i =>
    let n := min per (total - per * i)
    mkPkt src dst 7 pMoveData (BitVec.ofNat 32 seq) (BitVec.ofNat 32 f) s.fault.epochMax
      (pack 16 [(0, 8, per * i), (8, 8, total + et * 2 ^ 40)] ++ slice bs (moveBytes * i) (cdiv (n * etypeBits et) 8))

/-- Transfer count of a sender on a furrow, taken (11 R332). -/
def takeMoveSeq (s : State) (sender f : Nat) : State × Nat :=
  let key := 256 * sender + f
  ({ s with coll := { s.coll with moveSeq := Tab.upd 0 s.coll.moveSeq key (· + 1) } }, (Tab.get 0 s.coll.moveSeq key).toNat)

/-- A movement transfer of a plot, with the provenance trailer its furrow and member may carry. -/
def plotTransfer (s : State) (p f total et : Nat) (bs : List Byte) : State :=
  let src := plotAddr s p
  let x := withTrailer s f (fun w => w == src.toNat) (plot s p).nmark total (etypeBits et) bs
  let (s, seq) := takeMoveSeq s (plotField s p) f
  (movePkts s src (moveDst s f src) f seq x.1 et x.2).foldl (fun s k => plotSend s p k) s

/-- An MSEND has read its lines: its transfer is sent. -/
def msendDone (s : State) (p : Nat) (t : Xfer) : State :=
  let out := leaving t fun _ => false
  let bs := out.1.take (cdiv (t.count * etypeBits t.etype) 8)
  leaked (feedTap (plotTransfer s p t.furrow t.count t.etype bs) p t bs out.2) p t out.2

/-- A WAYBILL has read its line: the waybill is sent, and the port keeps it (R219). -/
def waybillDone (s : State) (p : Nat) (t : Xfer) : State :=
  let out := leaving t fun _ => false
  let bs := out.1.take 64
  let f := t.furrow
  let devs := ((List.range (max 1 (furrowFld s f 4))).filterMap fun r => (leafNode s f r).map (·.device)).eraseDups
  let mk (d : Nat) := mkPkt (plotAddr s p) (addr d 0) 7 pColWaybill 0 (BitVec.ofNat 32 (wbColl bs)) s.fault.epochMax bs
  let r := portCol s (plotField s p) (mk (devs.headD 0))
  let s := if r.2 = .pass then
      modPlot (devs.foldl (fun s d => send s (1024 + p) (mk d)) r.1) p fun x =>
        { x with sentBills := (x.sentBills.filter fun b => b.1 != f) ++ [(f, bs)] }
    else r.1
  leaked s p t out.2

/-- The chunks of a raw member's dense or all-gather contribution. -/
def memberChunks (s : State) (owner : Nat) (src : Addr) (f : Nat) (b bs : List Byte) : List OutChunk :=
  let coll := wbColl b
  let w := etypeBits (wbIn b) / 8
  let chunk (n : NodeRec) (c lo len : Nat) : OutChunk :=
    { owner, sink := sinkOfSlot n.device (n.slotOf c), window := n.window
      pkts := chunkPkts s src (addr n.device 0) coll c (cutBytes 65536 (slice bs (lo * w) (len * w))) }
  if wbHalf b = 1 then
    match leafNode s f 0 with
    | none => []
    | some n => (List.range (cdiv (wbCount b) 1792)).map fun c => chunk n c (1792 * c) (chunkLen (wbCount b) c)
  else
    (List.range (furrowFld s f 4)).flatMap fun r =>
      match leafNode s f r with
      | none => []
      | some n =>
        let d := denseLen s f n b
        (List.range (cdiv d.2 1792)).map fun c => chunk n c (d.1 + 1792 * c) (chunkLen d.2 c)

/-- A waybill with a CSEND's own COUNT and ETYPE: what the word sends is cut by them (R218). -/
def billAs (b : List Byte) (count et : Nat) : List Byte :=
  let d := leAt b 8 4
  b.take 8 ++ leBytes 4 (d - 256 * bits d 11 8 + 256 * (et % 16)) ++ slice b 12 20 ++ leBytes 8 count ++ b.drop 40

/-- A CSEND has read its lines: its chunks leave on chunk credits. -/
def csendDone (s : State) (p : Nat) (t : Xfer) : State :=
  let x := plot s p
  let out := leaving t fun _ => false
  let coll := leAt (bindSt s p t.rb).grant 0 4
  let src := plotAddr s p
  let bill := ((x.sentBills.find? fun b => wbColl b.2 == coll).map (·.2)).filter fun _ =>
    !(bindSt s p t.rb).grant.isEmpty && s.coll.grants.contains (src.toNat, coll)
  let s := match bill with
    | none => askAbort (raise s fCollUngranted uPort (plotField s p)) (1024 + p) coll fCollUngranted
    | some b =>
      if wbSparse b then
        let prs := (List.range t.count).map fun i => slice out.1 (i * pairBytes t.etype) (pairBytes t.etype)
        streamPairsOut s (plotField s p) src (wbFurrow b) coll prs
      else (memberChunks s (plotField s p) src (wbFurrow b) (billAs b t.count t.etype) out.1).foldl sendChunk s
  let sparse := (bill.map wbSparse).getD false
  let size := if sparse then t.count * pairBytes t.etype else cdiv (t.count * etypeBits t.etype) 8
  leaked (feedTap s p t (out.1.take size) out.2) p t out.2

/-- A transfer that reads has read its last line. -/
def readDone (s : State) (p : Nat) (t : Xfer) : State :=
  match t.kind with
  | .gload => s
  | .gstore => gstoreDone s p t
  | .msend => msendDone s p t
  | .waybill => waybillDone s p t
  | .csend => csendDone s p t

/-- TRANSFER_START: the transfer at the head runs; one of no lines or elements is over (R217). `errs` are the errors its
reads meet, in the granary for a GLOAD and in the scratchpad for the others. -/
def transferStart (p : Nat) (errs : LineErrs) (s : State) : State :=
  match (plot s p).xq with
  | [] => s
  | t :: _ =>
    if t.running then s
    else if t.kind ≠ .waybill ∧ t.count = 0 then popXfer p s
    else if t.kind = .gload ∨ t.kind = .gstore then startGran s p t errs
    else runsNow s p errs

def execTransferStart (p : Fin 32) (e : LineErrs) (s : State) : Out := event s (transferStart p e)

/-- The FABRIC port's cycle (05 R159, R160): the next line of the running transfer moves when the cycle serves its bank. A read in a
shadow waits on a FLAGGED plot and stops a COUNTED one (R228). -/
def fabricCycle (p : Nat) (s : State) : State :=
  let x := plot s p
  match x.xq with
  | [] => s
  | t :: _ =>
    match t.left with
    | [] => s
    | l :: rest =>
      if !t.running || l % 16 ≠ x.cyc % 16 then s
      else if t.kind = .gload then modHead (gloadLine s p t l) p fun t => { t with left := rest }
      else if inShadow x l then (if flagged s p then s else failXfer s p t .seq fSchedHazard)
      else
        let i := t.lines.length - t.left.length
        if t.errs.contains (i, true) then failXfer s p t .array fScratchUe
        else
          let s := if t.errs.contains (i, false) then scratchCe s p else s
          let t := { t with left := rest, cap := t.cap ++ [{ bytes := readLine x l, taint := lineTaint x l }] }
          let s := modHead s p fun _ => t
          if rest.isEmpty then readDone s p t else s

/-! ## Arrivals at receive bindings (R219, R220, R577) -/

/-- A binding that takes arrivals: armed and not complete. -/
def bindOpen (s : State) (p b : Nat) : Bool := (plot s p).bindsArmed && !(bindSt s p b).complete

/-- Binding of a kind on a furrow. -/
def findBind (s : State) (p kind f : Nat) : Option (Nat × BindRec) :=
  (enum (bindRecs s p)).find? fun e => e.2.kind == kind && e.2.furrow == f

/-- Lines of a binding that bytes `[off, off + n)` touch. -/
def BindRec.touched (r : BindRec) (off n : Nat) : List Nat :=
  if n = 0 then [] else lineSpan (r.first + off / 128) ((off + n - 1) / 128 - off / 128 + 1)

/-- A running operation or transfer has still to read one of the lines (R220). -/
def stillRead (x : Plot) (ls : List Nat) : Bool :=
  (x.ops.any fun o => meets o.readsLeft ls) || x.xq.any fun t => t.running && meets (xferReads t) ls

/-- Bytes written into a binding's lines, with the taint they bring. -/
def bindWrite (s : State) (p : Nat) (r : BindRec) (off : Nat) (bs : List Byte) (tn : Bool) : State :=
  let a := 128 * r.first + off
  modPlot s p fun x =>
    shadeLines (taintLines { x with scratch := Mem.writes x.scratch a bs } (r.touched off bs.length) tn
      fun l => decide (a ≤ 128 * l) && decide (128 * l + 128 ≤ a + bs.length)) (r.touched off bs.length)

/-- A binding completes and sets its event flag, which is 1 from the next cycle and survives a clear of this one (R212). -/
def bindComplete (s : State) (p b : Nat) : State :=
  modPlot (modBind s p b fun x => { x with complete := true }) p fun x =>
    { x with came := x.came ||| BitVec.ofNat 64 (2 ^ (8 + b)), outside := true }

/-- The arrival hits lines a running operation reads: the plot stops, nothing is written. -/
def arrivalHazard (s : State) (p : Nat) : State :=
  if (plot s p).mode = .running then wordFault s p .seq fSchedHazard else s

/-- SEQ_PEER_ABORT (R221). -/
def peerAbort (s : State) (p remote : Nat) : State :=
  let x := plot s p
  if x.mode = .running then plotAbort s p .seq fSeqPeerAbort { addr := x.pc.toNat, remote } else s

/-- Completion or fault of a movement transfer told to its sender (R71). -/
def sendMoveDone (s : State) (unit : Nat) (k : Pkt) (code : Half) (crop : Nat) : State :=
  send s unit (mkPkt k.dst k.src 7 pMoveDone k.seq k.fcid s.fault.epochMax (pack 16 [(0, 2, code.toNat), (8, 8, crop)]))

/-- MOVE_DONE entry of a transfer ended here (17 Table 17-13). -/
def moveEntry (s : State) (k : Pkt) (ut : BitVec 4) (unit total et crop : Nat) (code : Half) : State :=
  tally s { kind := kMoveDone, utype := ut, unit, fault := code,
            body := pack 40 [(0, 1, k.fcid.toNat % 256), (4, 4, k.seq.toNat), (8, 8, total), (16, 8, crop), (24, 3, k.src.toNat), (27, 1, et)] }

def moveTotal (k : Pkt) : Nat := bits (leAt k.payload 8 8) 39 0
def moveEtype (k : Pkt) : Nat := bits (leAt k.payload 8 8) 43 40

/-- The movement transfer a packet belongs to, as begun or new. -/
def moveOf (s : State) (k : Pkt) : Move :=
  (s.coll.moves.find? fun m => m.dst == fieldOf k.dst && m.src == k.src && m.furrow == k.fcid.toNat % 256 && m.seq == k.seq).getD
    { dst := fieldOf k.dst, src := k.src, furrow := k.fcid.toNat % 256, seq := k.seq, total := moveTotal k, etype := moveEtype k, bytes := [],
      have_ := [], refused := false }

def putMove (s : State) (m : Move) : State :=
  { s with coll := { s.coll with moves :=
      (s.coll.moves.filter fun x => !(x.dst == m.dst && x.src == m.src && x.furrow == m.furrow && x.seq == m.seq)) ++ [m] } }

def dropMove (s : State) (m : Move) : State :=
  { s with coll := { s.coll with moves := s.coll.moves.filter fun x => !(x.dst == m.dst && x.src == m.src && x.furrow == m.furrow && x.seq == m.seq) } }

/-- A packet's elements put into its transfer; how many have come. -/
def Move.add (m : Move) (k : Pkt) : Move :=
  let off := leAt k.payload 0 8 % 2 ^ 40
  let n := min ((4 * k.len.toNat - 16) * 8 / etypeBits m.etype) (m.total - off)
  { m with bytes := Mem.writes m.bytes (off * etypeBits m.etype / 8) (slice k.payload 16 (cdiv (n * etypeBits m.etype) 8))
           have_ := if m.have_.contains (off, n) then m.have_ else m.have_ ++ [(off, n)] }

/-- Every element from 0 to TOTAL - 1 has come, however packets overlap (R71). -/
def Move.whole (m : Move) : Bool :=
  decide (m.total ≤ (m.have_.mergeSort fun a b => decide (a.1 ≤ b.1)).foldl (fun r e => if e.1 ≤ r then max r (e.1 + e.2) else r) 0)

/-- Bytes of a whole transfer. -/
def Move.all (m : Move) : List Byte := Mem.reads m.bytes 0 (cdiv (m.total * etypeBits m.etype) 8)

/-- A MOVE_DATA packet at a plot (R71, R219, R577). -/
def moveToPlot (s : State) (p : Nat) (k : Pkt) : State :=
  let f := k.fcid.toNat % 256
  let m := moveOf s k
  let et := m.etype
  let refuse (s : State) : State :=
    sendMoveDone (moveEntry (raise (putMove s { m with refused := true }) fFurrowRoute uPort (plotField s p)) k uPlot p m.total et 0 fFurrowRoute) (1024 + p)
      k fFurrowRoute 0
  if m.refused then taken s k
  else
    match findBind s p 0 f with
    | none => refuse (taken s k)
    | some (b, r) =>
      if isSealed s p r || !bindOpen s p b || (s.coll.moves.any fun x => x.dst == m.dst && x.furrow == f && !x.refused && x.seq != k.seq) then s
      else if 128 * r.lines < cdiv (m.total * etypeBits et) 8 then refuse (taken s k)
      else
        let m' := m.add k
        let off := leAt k.payload 0 8 % 2 ^ 40 * etypeBits et / 8
        let bs := slice k.payload 16 (min (4 * k.len.toNat - 16) (cdiv (m.total * etypeBits et) 8 - off))
        if stillRead (plot s p) (r.touched off bs.length) then arrivalHazard s p
        else
          let s := bindWrite (taken s k) p r off bs false
          if m'.whole then
            let c := (cropMove s f k.src m'.all).toNat
            bindComplete (sendMoveDone (moveEntry (dropMove s m') k uPlot p m.total et c 0) (1024 + p) k 0 c) p b
          else putMove s m'

/-- A grant at a plot: its GRANT binding (R219). -/
def grantToPlot (s : State) (p : Nat) (k : Pkt) : State :=
  let s0 := passMember (taken s k) k
  match (collPlace s k.fcid.toNat).bind fun c => findBind s p 1 c.1 with
  | none => s0
  | some (b, r) =>
    if !bindOpen s p b then s
    else if stillRead (plot s p) [r.first] then arrivalHazard s p
    else
      let bs := slice k.payload 0 32
      bindComplete (modBind (bindWrite s0 p r 0 bs false) p b fun x => { x with grant := bs }) p b

/-- A RANGE binding that holds every chunk of a COMPLETE outcome completes. -/
def rangeCheck (s : State) (p b : Nat) : State :=
  let x := bindSt s p b
  if x.outcome = some x.chunks.length ∧ !x.complete then bindComplete s p b else s

/-- An outcome at a plot (R219, R221): it waits while a binding that takes it is complete. -/
def outcomeToPlot (s : State) (p : Nat) (k : Pkt) : State :=
  let f := ((collPlace s k.fcid.toNat).map (·.1)).getD 256
  let status := leAt k.payload 6 1
  let range := if status = 0 then findBind s p 3 f else none
  let out := findBind s p 2 f
  if (range.any fun b => !bindOpen s p b.1) || (out.any fun b => !bindOpen s p b.1) then s
  else if out.any fun b => stillRead (plot s p) [b.2.first] then arrivalHazard s p
  else
    let s := passMember (taken s k) k
    let s := match range with
      | some (b, _) => rangeCheck (modBind s p b fun x => { x with outcome := some (leAt k.payload 12 4) }) p b
      | none => s
    match out with
    | none => s
    | some (b, r) =>
      let s := bindComplete (bindWrite s p r 0 (slice k.payload 0 32) false) p b
      if status = 1 then peerAbort s p (leAt k.payload 8 2) else s

/-- Byte offset and bytes of chunk `c` of a collective's output at a member: no fill byte (R219). -/
def outputChunk (s : State) (f : Nat) (b : List Byte) (total range c : Nat) (bs : List Byte) : Nat × List Byte :=
  let w := etypeBits (wbOut b) / 8
  if wbSparse b then (14336 * c, slice bs 0 (trimmedPairs (wbOut b) bs * pairBytes (wbOut b)))
  else
    let len := if wbHalf b = 1 then total
      else rangeLo (wbCount b) (furrowFld s f 4) (range + 1) - rangeLo (wbCount b) (furrowFld s f 4) range
    (1792 * c * w, slice bs 0 (chunkLen len c * w))

/-- A packet of a collective's output at a plot's RANGE binding (R219, R577). -/
def rangeToPlot (s : State) (p : Nat) (k : Pkt) : State :=
  let coll := k.fcid.toNat
  match (plot s p).sentBills.find? fun b => wbColl b.2 == coll with
  | none => taken s k
  | some (f, bill) =>
    match findBind s p 3 f with
    | none => taken s k
    | some (b, r) =>
      if !bindOpen s p b then s
      else
        let c := k.seq.toNat / 32
        let st := bindSt s p b
        if k.payload.isEmpty then taken s k
        else
          let ps := st.parts ++ [(c, k.seq.toNat % 32, k.op == pColDataEnd, k.payload)]
          match gathered ps c with
          | none => modBind (taken s k) p b fun x => { x with parts := ps }
          | some bs =>
            let total := ((((plot s p).binds.find? fun x => leAt x.2.grant 0 4 == coll && !x.2.grant.isEmpty).map fun x => leAt x.2.grant 16 8)).getD
              (wbMembers bill * wbCount bill)
            let range := rangeFrom s f (plotAddr s p) (devOf k.src)
            let o := outputChunk s f bill total range c bs
            if 128 * r.lines < o.1 + o.2.length then
              let s := raise (taken s k) fFurrowRoute uPort (plotField s p)
              sendCol s (1024 + p) (addr (devOf k.src) 0) pColAbort 0 coll (pack 8 [(0, 2, fFurrowRoute.toNat), (2, 2, wbIdx bill), (4, 2, range)])
            else if stillRead (plot s p) (r.touched o.1 o.2.length) then arrivalHazard s p
            else
              let s := bindWrite (taken s k) p r o.1 o.2 false
              rangeCheck (modBind s p b fun x => { x with parts := ps.filter fun e => e.1 != c,
                                                          chunks := if x.chunks.contains c then x.chunks else x.chunks ++ [c] }) p b

end Sys2Proof.Machine
end

