-- ==== Sys2Proof/Machine/PlotTime.lean ====
section
/-!
DEFINITION. The cycles of a plot (05 R148 to R161, 06 R199, 07 R202 to R237): in each the FABRIC port moves a line, the running
operations present theirs to the banks or stall, and what has reached its end ends. The next address, waits and the ends of
operations, transfers and programs move a plot's time.
-/

namespace Sys2Proof.Machine
open Sys2Proof

/-! ## Faults of a running operation (05 R175, 06 R201) -/

/-- An operation leaves its plot; its shadow tags stay as long as they are set. -/
def leaveOp (x : Plot) (o : PlotOp) : Plot :=
  { x with ops := x.ops.filter fun y => y.id != o.id, shadow := (x.shadow ++ o.wrote).filter fun w => decide (x.cyc < w.clear) }

/-- A running operation faults: the plot stops. An array operation's bank is +0, and the flags of the slabs it had added stay
(R573). What a harrow operation wrote is undone, but under SCRATCH_UE it stays with the operation's taint. -/
def opFault (s : State) (p : Nat) (o : PlotOp) (u : FaultUnit) (code : Half) (i : FaultInfo) : State :=
  let s := plotAbort s p u code i
  let s := modPlot s p fun x => tapEnd (leaveOp x o) o.id none
  let s := match o.bank with
    | some b => if o.unit = .harrow then s else zeroBank s p b o.bankWasTainted
    | none => s
  digSettle p (modPlot s p fun x =>
    match o.unit with
    | .mm => if o.taint then x else { x with aflags := x.aflags ||| BitVec.ofNat 8 o.flags }
    | .acc => x
    | .harrow => if code = fScratchUe then settleTaint x o else undoOp x o)

/-- The unit a fault of an operation is told under. -/
def PlotOp.faultUnit (o : PlotOp) : FaultUnit := if o.unit = .harrow then .harrow else .array

/-! ## One access (05 R158 to R162) -/

/-- A line is read: its data and taint are taken, and a bank that is being written takes the taint. -/
def readAcc (x : Plot) (o : PlotOp) (key line : Nat) : Plot :=
  let t := lineTaint x line
  let o := { o with cap := Tab.set {} o.cap key { bytes := readLine x line, taint := t }, nread := o.nread + 1
                    taint := o.taint || (t && o.unit != .harrow) }
  let x := putOp x o
  match o.bank with
  | some b => if o.unit = .harrow then x else setBank x b { bankOf x b with taint := (bankOf x b).taint || t }
  | none => x

/-- Operation `k` presents a line. An uncorrectable error of a read stops it and the plot (R161). -/
def doAcc (p k : Nat) (s : State) (a : LineAcc) : State :=
  let x := plot s p
  match x.ops.find? fun o => o.id == k with
  | none => s
  | some o =>
    match a.act with
    | .read key =>
      if o.errs.contains (o.nread, true) then opFault s p o o.faultUnit fScratchUe { addr := o.addr }
      else
        let s := if o.errs.contains (o.nread, false) then scratchCe s p else s
        modPlot s p fun x => readAcc x o key a.line
    | _ => modPlot s p fun x => opWrite x o a

/-! ## One cycle of an operation (R160, 07 R228) -/

/-- Lines that an operation presents in its present cycle. -/
def PlotOp.due (o : PlotOp) : List LineAcc := o.todo.takeWhile fun a => decide (a.at_ ≤ o.t)

def LineAcc.isRead (a : LineAcc) : Bool := match a.act with
  | .read _ => true
  | _ => false

def LineAcc.bank (a : LineAcc) : Nat := a.line % 16

/-- Of several lines in one bank the first, in port order; the others wait for a further cycle (log 49). -/
def onePerBank : List Nat → List LineAcc → List LineAcc
  | _, [] => []
  | used, a :: as => if used.contains a.bank then onePerBank used as else a :: onePerBank (a.bank :: used) as

/-- What an operation does in a cycle. -/
inductive Turn
  | stall
  | hazard
  | serve (now later : List LineAcc)
  deriving DecidableEq, Repr

/-- The turn of an operation when the banks `used` serve FABRIC or an earlier port: a read in a shadow is a hazard on a COUNTED
plot and a stall on a FLAGGED one, and a line in a used bank stalls the operation as a whole. -/
def turn (x : Plot) (flag : Bool) (used : List Nat) (o : PlotOp) : Turn :=
  let now := o.due
  if now.any fun a => a.isRead && inShadow x a.line then (if flag then .stall else .hazard)
  else if now.any fun a => used.contains a.bank then .stall
  else
    let go := onePerBank [] now
    .serve go (now.filter fun a => !go.contains a)

/-- A cycle of operation `k`, after those whose ports come before it; the banks that are now used. -/
def opCycle (p : Nat) (a : State × List Nat) (k : Nat) : State × List Nat :=
  let (s, used) := a
  let x := plot s p
  match x.ops.find? fun o => o.id == k with
  | none => a
  | some o =>
    match turn x (flagged s p) used o with
    | .stall => a
    | .hazard => (opFault s p o .seq fSchedHazard { addr := o.addr }, used)
    | .serve go later =>
      let o' := { o with todo := later ++ o.todo.drop o.due.length, t := if later.isEmpty then o.t + 1 else o.t }
      (go.foldl (doAcc p k) (modPlot s p fun x => putOp x o'), used ++ go.map (·.bank))

/-- Operations in the order of their ports: ARRAY_A and ARRAY_B, ACC, HARROW_RD and HARROW_WR (R160). -/
def portOrder (x : Plot) : List Nat :=
  ([OpUnit.mm, .acc, .harrow].flatMap fun u => x.ops.filter fun o => o.unit == u).map (·.id)

/-! ## What follows a cycle -/

/-- An XLOAD with a count line has read it: its list is read next (06 R183, Table 6-5). -/
def xloadList (s : State) (p : Nat) (o : PlotOp) : State :=
  let n := capElem o keyB 32 0
  let ls := elemLines (wSA o.word) n 16
  if 256 < n then opFault s p o .harrow fHarrowIndex { addr := o.addr }
  else if !inScratch ls then opFault s p o .harrow fScratchRange { addr := o.addr }
  else modPlot s p fun x => putOp x { o with slab := 1, todo := (enum ls).map fun e => { at_ := 1, act := .read e.1, line := e.2 } }

/-- SPARSIFY under STRICT has made its check pass (06 R193; the cycle is log 49's). -/
def strictCheck (s : State) (p : Nat) (o : PlotOp) : State :=
  match denseGroup o with
  | some (g, n) => opFault s p o .harrow fSparseDensity { addr := o.addr, slab := g / 32, group := g, col := n }
  | none => modPlot s p fun x => putOp x { o with slab := 1 }

/-- A slab has streamed: it joins the bank, or its first bad nibble stops the plot (05 R171). -/
def slabEnd (s : State) (p : Nat) (o : PlotOp) : State :=
  match if wAop o.word = 2 then badNibble o.word o.slabNo (capBytes o keyB (linesB o.word)) else none with
  | some (code, g, n) => opFault s p o .array code { addr := o.addr, slab := o.slabNo, group := g, col := n }
  | none => modPlot s p fun x => addSlab x o

/-- An operation that has run its cycles ends. -/
def endOp (s : State) (p : Nat) (o : PlotOp) : State :=
  modPlot s p fun x =>
    let x := leaveOp (if o.unit = .harrow then harrowEnd x o else arrayEnd x o) o
    tapEnd x o.id (if o.unit = .harrow then some (destBytes x o.word, opTaint x o) else none)

/-- What operation `k` does at the end of a cycle. -/
def settleOp (p : Nat) (s : State) (k : Nat) : State :=
  match (plot s p).ops.find? fun o => o.id == k with
  | none => s
  | some o =>
    let h := wHop o.word
    if o.slabDue then slabEnd s p o
    else if o.unit = .harrow ∧ o.slab = 0 ∧ h = 0x30 ∧ wVar o.word = 2 ∧ 1 ≤ o.t then xloadList s p o
    else if o.unit = .harrow ∧ o.slab = 0 ∧ hCheck o.word ≠ 0 ∧ hCheck o.word * hVectors o.word ≤ o.t then strictCheck s p o
    else if o.fin ≤ o.t then endOp s p o
    else s

/-! ## Cycles of a plot -/

/-- `n` cycles counted, in which a held word waits; a completion's flag is 1 from the next (07 R212, R238). -/
def countCycles (s : State) (p n : Nat) : State :=
  let held := wordHeld s p
  modPlot s p fun x =>
    { x with cyc := x.cyc + n, waitCycles := if held then x.waitCycles + BitVec.ofNat 64 n else x.waitCycles
             flags := x.flags ||| x.came, came := 0 }

/-- One TCLK cycle of a plot. -/
def plotTick (p : Nat) (s : State) : State :=
  let s := fabricCycle p s
  let ks := portOrder (plot s p)
  let s := (ks.foldl (opCycle p) (s, [(plot s p).cyc % 16])).1
  digSettle p (ks.foldl (settleOp p) (countCycles s p 1))

/-- Cycles in which nothing happens but counting: no line, no end of a slab or operation, no change of a flag. -/
def quietFor (x : Plot) (most : Nat) : Nat :=
  let before (t n : Nat) (m : Nat) : Nat := if t < n then min m (n - 1 - t) else m
  let fabric := match x.xq with
    | t :: _ => t.running && !t.left.isEmpty
    | [] => false
  if fabric || x.came != 0 then 0
  else
    let m := x.ops.foldl (fun m o =>
      let m := match o.todo with
        | a :: _ => min m (a.at_ - o.t)
        | [] => m
      let m := if o.unit = .mm ∧ o.slab < passes o.word * slabs o.word then min m ((o.slab + 1) * slabTime o.word - 1 - o.t) else m
      let m := if o.unit = .harrow ∧ o.slab = 0 ∧ hCheck o.word ≠ 0 then min m (hCheck o.word * hVectors o.word - 1 - o.t) else m
      if o.fin ≤ o.t then 0 else before o.t o.free (before o.t o.fin m)) most
    let m := x.tq.foldl (fun m e => before x.cyc e.ready m) m
    x.scLate.foldl (fun m e => before x.cyc (e.2 + 2) m) m

/-- Quiet cycles passed together. -/
def quietCycles (p n : Nat) (s : State) : State :=
  modPlot (countCycles s p n) p fun x => { x with ops := x.ops.map fun o => { o with t := o.t + n } }

/-- Time of plot `p` moves on, not past cycle `lim`, until `stop` holds; none if `bar` holds before. -/
def plotUntil (p lim : Nat) (bar stop : State → Bool) : Nat → State → Option State
  | 0, s => if stop s then some s else none
  | n + 1, s =>
    if stop s then some s
    else if bar s || decide (lim ≤ (plot s p).cyc) then none
    else
      let q := quietFor (plot s p) (lim - (plot s p).cyc)
      plotUntil p lim bar stop n (if q = 0 then plotTick p s else quietCycles p q s)

/-- Cycles after which every operation that runs has ended, stalls included. -/
def opsBound (x : Plot) : Nat := x.ops.foldl (fun n o => n + o.fin + 24 * (o.todo.length + 8)) 0

/-- Time moved on to where `stop` holds, no word issuing before; unchanged when that is not to come. -/
def passUntil (p n : Nat) (stop : State → Bool) (s : State) : State :=
  (plotUntil p ((plot s p).cyc + n) (wordReady · p) stop n s).getD s

/-- Time moved on to cycle `c`, no word issuing before. -/
def plotTo (p c : Nat) (s : State) : State := passUntil p (c - (plot s p).cyc) (fun s => decide (c ≤ (plot s p).cyc)) s

/-! ## Ends of operations (R148, R150, R171, 06 R199) -/

/-- Time moved on to the end of the first operation that `pick` takes. -/
def awaitOp (p : Nat) (pick : PlotOp → Bool) (s : State) : State :=
  match (plot s p).ops.find? pick with
  | none => s
  | some o => passUntil p (opsBound (plot s p)) (fun s => !(plot s p).ops.any fun y => y.id == o.id) s

def execAccDone (p : Fin 32) (b : Bool) (s : State) : Out := event s (awaitOp p.val fun o => o.unit == .mm && o.bank == some b)
def execAccPathEnd (p : Fin 32) (s : State) : Out := event s (awaitOp p.val fun o => o.unit == .acc)
def execHdone (p : Fin 32) (s : State) : Out := event s (awaitOp p.val fun o => o.unit == .harrow)

/-- SPARSE_META and SPARSE_INDEX: time moved on to the cycle in which a running MM_SP raises the fault. -/
def sparseFault (p : Nat) (code : Half) (s : State) : State :=
  let t := awaitOp p (fun o => o.unit == .mm && wAop o.word == 2) s
  if (plot t p).mode = .aborted ∧ (plot t p).lastFault = code then t else s

def execSparseMeta (p : Fin 32) (s : State) : Out := event s (sparseFault p fSparseMeta)
def execSparseIndex (p : Fin 32) (s : State) : Out := event s (sparseFault p fSparseIndex)

/-- TRANSFER_END: from `n` cycles on, as soon as every line has moved; a CSEND runs until its last chunk has its credit (R217, R218). -/
def transferEnd (p n : Nat) (s : State) : State :=
  match (plot s p).xq with
  | [] => s
  | t :: _ =>
    if !t.running then s
    else
      let c := (plot s p).cyc + n
      let s := passUntil p (n + 32 * (t.left.length + 1)) (fun s => decide (c ≤ (plot s p).cyc) &&
        !(plot s p).xq.any fun y => y.id == t.id && !y.left.isEmpty) s
      match (plot s p).xq with
      | [] => s
      | y :: _ =>
        if y.id ≠ t.id ∨ !y.left.isEmpty ∨ (y.kind = .csend ∧ s.coll.outbox.any fun o => o.owner == plotField s p) then s else popXfer p s

def execTransferEnd (p : Fin 32) (n : Nat) (s : State) : Out := event s (transferEnd p.val n)

/-! ## The next address (R205) -/

/-- The word's cycle ends; word `a` comes next. A stop lets no transfer that has not begun start (R236). -/
def goTo (s : State) (p a : Nat) (e : Ecc) : State :=
  let s := modPlot s p fun x => { (if x.stopping then discard x else x) with pc := BitVec.ofNat 14 a, streams := [] }
  let s := plotTick p s
  let s := modPlot s p fun x => { x with heldAt := x.cyc, snap := none, outside := false }
  if (plot s p).mode = .running ∧ !(plot s p).stopping then fetchEcc s p e else s

/-- A next-address part. -/
def nextPart (p : Fin 32) (k : Nat) (e : Ecc) (s : State) (f : State → Nat → Snap → State × Nat) : Out :=
  part p 14 (fun w => wNxt w == k) s fun s w n => let r := f s w n; goTo r.1 p r.2 e

/-- a + 1. -/
def seqAddr (s : State) (p : Nat) : Nat := (plot s p).pc.toNat + 1

def execSeq (p : Fin 32) (e : Ecc) (s : State) : Out := nextPart p 0 e s fun s _ _ => (s, seqAddr s p)
def execJump (p : Fin 32) (e : Ecc) (s : State) : Out := nextPart p 1 e s fun s w _ => (s, wTarget w)
def execBrt (p : Fin 32) (e : Ecc) (s : State) : Out :=
  nextPart p 2 e s fun s w n => (s, if comparator p n (bits w 745 743) then wTarget w else seqAddr s p)
def execBrf (p : Fin 32) (e : Ecc) (s : State) : Out :=
  nextPart p 3 e s fun s w n => (s, if comparator p n (bits w 745 743) then seqAddr s p else wTarget w)

/-- LOOP. -/
def loopNext (s : State) (p w : Nat) (n : Snap) : State × Nat :=
  let k := bits w 749 746
  let c := Tab.get 0 n.ctr k
  if 1 < c.toNat then (modPlot s p fun x => { x with ctr := Tab.set 0 x.ctr k (c - 1) }, wTarget w)
  else (modPlot s p fun x => { x with ctr := Tab.set 0 x.ctr k 0 }, seqAddr s p)

def execLoop (p : Fin 32) (e : Ecc) (s : State) : Out := nextPart p 4 e s fun s w n => loopNext s p w n

/-! ## Halt and the ends of a program (R236) -/

/-- HALT: no further word. -/
def halt (s : State) (p : Nat) : State := modPlot s p fun x => { x with halted := true, stopping := false, snap := none, streams := [] }

def execHalt (p : Fin 32) (s : State) : Out :=
  event s fun s =>
    match currentWord s p with
    | none => s
    | some w =>
      if wNxt w != 5 then s
      else
        let s := onPart p 14 (fun _ => true) s fun s _ _ => s
        if ((plot s p).snap.map fun n => n.done.contains 14).getD false then halt s p else s

/-- Time moved on until every operation has ended. -/
def awaitOps (p : Nat) (s : State) : State := passUntil p (opsBound (plot s p)) (fun s => (plot s p).ops.isEmpty) s

/-- PLOT_DONE (R236). -/
def plotDone (p : Nat) (s₀ : State) : State :=
  if (plot s₀ p).mode = .running ∧ (plot s₀ p).halted then
    let s := awaitOps p s₀
    let x := plot s p
    if x.mode = .running ∧ drained x then
      let s := modPlot s p fun x =>
        { x with mode := .idle, halted := false, stops := [], cyc := x.cyc + 1, cycles := BitVec.ofNat 64 (x.cyc + 1) }
      endEntry s p kPlotDone x.stops
    else s₀
  else s₀

def execPlotDone (p : Fin 32) (s : State) : Out := event s (plotDone p.val)

/-- PLOT_STOPPED (R236). -/
def plotStopped (p : Nat) (s₀ : State) : State :=
  if (plot s₀ p).mode = .running ∧ (plot s₀ p).stopping ∧ (plot s₀ p).snap.isNone then
    let s := awaitOps p s₀
    let x := plot s p
    if x.mode = .running ∧ x.ops.isEmpty ∧ x.xq.isEmpty then
      let s := match x.startCmd with
        | some c => cmdDone s c oPlotStart stOk
        | none => s
      let s := modPlot s p fun x =>
        { x with mode := .idle, stopping := false, stops := [], cycles := BitVec.ofNat 64 x.cyc, startCmd := none }
      endEntry s p kPlotStopped x.stops
    else s₀
  else s₀

def execPlotStopped (p : Fin 32) (s : State) : Out := event s (plotStopped p.val)

/-! ## Waits (R212, R237) -/

/-- A word whose issue cycle only its own plot decides: a static wait of a COUNTED plot (R233). -/
def staticWait (s : State) (p w : Nat) : Bool :=
  let dyn (i : Nat) : Bool := i == 5 || i == 6 || (decide (8 ≤ i) && decide (i < 32))
  !flagged s p && match wWkind w with
    | 0 => true
    | 1 => !dyn (bits w 699 694) && !(bit w 701 && dyn (bits w 693 688))
    | 2 => false
    | _ => !bit (Tab.get 0 (plot s p).cfg (bits w 686 684)).toNat 12

/-- The held word must issue in the first cycle in which it can: nothing came from outside in a cycle that is not known, or it
waits on nothing from outside. -/
def firstOnly (s : State) (p w : Nat) : Bool := !(plot s p).outside || staticWait s p w

/-- WAIT_END: the held word issues `n` cycles later, in the first cycle in which it can. -/
def waitEnd (p n : Nat) (s : State) : State :=
  match currentWord s p with
  | none => s
  | some w =>
    let c := (plot s p).cyc + n
    if n = 0 || (plot s p).snap.isSome then s
    else
      match plotUntil p c (fun t => firstOnly s p w && wordReady t p) (fun t => decide (c ≤ (plot t p).cyc)) n s with
      | some t => if (plot t p).mode = .running ∧ canIssue t p w then issueWord t p w else s
      | none => s

def execWaitEnd (p : Fin 32) (n : Nat) (s : State) : Out := event s (waitEnd p.val n)

/-- TCLK cycles in 16 microseconds at the running divisor (19 R534). -/
def waitUnit (s : State) : Nat := match s.clk.tclkDiv.toNat with
  | 0 => 25600
  | 1 => 19200
  | _ => 12800

/-- SEQ_WAIT_LIMIT: a word held for WAIT_LIMIT x 16 microseconds. -/
def seqWaitLimit (p : Nat) (s : State) : State :=
  match currentWord s p with
  | none => s
  | some w =>
    let x := plot s p
    let c := x.heldAt + waitLimit s p * waitUnit s
    if waitLimit s p = 0 || x.snap.isSome then s
    else
      match plotUntil p c (fun t => firstOnly s p w && wordReady t p) (fun t => decide (c ≤ (plot t p).cyc)) (c - x.cyc) s with
      | some t => if (plot t p).mode = .running then wordFault t p .seq fSeqWaitLimit else s
      | none => s

def execSeqWaitLimit (p : Fin 32) (s : State) : Out := event s (seqWaitLimit p.val)

end Sys2Proof.Machine
end

