-- ==== Sys2Proof/Machine/Update.lean ====
section
/-!
DEFINITION. The parameter update in the granary (04): shares, groups, feeds, the four rules, the
preconditioned rule and its roots, step close.
-/

namespace Sys2Proof.Machine
open Sys2Proof

/-! ## Shares (R108 to R111) -/

/-- Share descriptor word `i` of the plan. -/
def shareW (s : State) (sh i : Nat) : Nat := ((planRec s 0x0A 0x01 sh).map (·.fld i)).getD 0
def shareDefined (s : State) (sh : Nat) : Bool := (planRec s 0x0A 0x01 sh).isSome
def shRule (s : State) (sh : Nat) : Nat := bits (shareW s sh 0) 23 22
def shWout (s : State) (sh : Nat) : Nat := bits (shareW s sh 0) 21 18
def shWmode (s : State) (sh : Nat) : Nat := bits (shareW s sh 0) 17 16
def shBanked (s : State) (sh : Nat) : Bool := bit (shareW s sh 0) 15
def shGroups (s : State) (sh : Nat) : Nat := bits (shareW s sh 1) 12 0
def shLen (s : State) (sh : Nat) : Nat := shareW s sh 2 + bits (shareW s sh 3) 3 0 * 2 ^ 32

/-- Set bits of STACK_MASK. -/
def shStacks (s : State) (sh : Nat) : List Nat := setBits 4 (bits (shareW s sh 0) 14 11)

/-- Arrays of a state block (Table 4-2). -/
def shArrays (s : State) (sh : Nat) : Nat := if shRule s sh = 1 ∨ shRule s sh = 2 then 3 else 2

def shareSt (s : State) (sh : Nat) : ShareSt := Tab.get {} s.upd.shares sh
def modShare (s : State) (sh : Nat) (f : ShareSt → ShareSt) : State := { s with upd := { s.upd with shares := Tab.upd {} s.upd.shares sh f } }
def feedSt (s : State) (k : Nat) : FeedSt := Tab.get {} s.upd.feeds k
def modFeed (s : State) (k : Nat) (f : FeedSt → FeedSt) : State := { s with upd := { s.upd with feeds := Tab.upd {} s.upd.feeds k f } }

/-- Granary address in the stack that holds block `b`, at `base` 4 KiB units, with `per` bytes a block (R110, R111). -/
def blockAddr (s : State) (sh base per b : Nat) : Nat :=
  let ks := shStacks s sh
  let k := max ks.length 1
  ks.getD (b % k) 0 * 2 ^ 36 + base * 4096 + b / k * per

/-- Address of array `a` of share element `i` in a bank. -/
def stateAddr (s : State) (sh : Nat) (bank : Bool) (a i : Nat) : Nat :=
  let per := shArrays s sh * 7168
  let nb := cdiv (shLen s sh) 1792
  blockAddr s sh (bits (shareW s sh 4) 23 0) per (i / 1792) +
    (if bank then cdiv nb (max (shStacks s sh).length 1) * per else 0) + a * 7168 + 4 * (i % 1792)

/-- Address of an output weight in staging. -/
def outAddr (s : State) (sh i : Nat) : Nat :=
  let w := etypeBits (shWout s sh) / 8
  blockAddr s sh (bits (shareW s sh 6) 23 0) (1792 * w) (i / 1792) + i % 1792 * w

/-- Address of the gradient (0) or direction (1) of an element in the work region (R129). -/
def workAddr (s : State) (sh a i : Nat) : Nat := blockAddr s sh (bits (shareW s sh 7) 23 0) 14336 (i / 1792) + a * 7168 + 4 * (i % 1792)

/-- `[a, a + n)` meets `[b, b + m)`; an empty range meets nothing. -/
def rangeMeets (a n b m : Nat) : Bool := decide (0 < n) && decide (0 < m) && decide (a < b + m) && decide (b < a + n)

/-- An access meets one of the areas. -/
def meetsArea (xs : List (Nat × Nat)) (a n : Nat) : Bool := xs.any fun x => rangeMeets a n x.1 x.2

/-- State blocks in one stack of a share. -/
def shPerStack (s : State) (sh : Nat) : Nat := cdiv (cdiv (shLen s sh) 1792) (max (shStacks s sh).length 1)

/-- State, staging and group table areas of a share: address and bytes (R110, R111, R113). -/
def shareStateAreas (s : State) (sh : Nat) : List (Nat × Nat) :=
  let at_ (k i : Nat) : Nat := k * 2 ^ 36 + bits (shareW s sh i) 23 0 * 4096
  ((shStacks s sh).flatMap fun k =>
    [(at_ k 4, shPerStack s sh * (shArrays s sh * 7168) * (if shBanked s sh then 2 else 1)),
     (at_ k 6, shPerStack s sh * (1792 * (etypeBits (shWout s sh) / 8)))]) ++
  [(at_ ((shStacks s sh).headD 0) 5, 128 * shGroups s sh)]

/-- Those and the work areas. -/
def shareBaseAreas (s : State) (sh : Nat) : List (Nat × Nat) :=
  shareStateAreas s sh ++
    (if shRule s sh = 2 then (shStacks s sh).map fun k => (k * 2 ^ 36 + bits (shareW s sh 7) 23 0 * 4096, shPerStack s sh * 14336) else [])

/-- A running provenance hash reads the share's state, staging or group table (16 R466). -/
def hashHolds (s : State) (sh : Nat) : Bool :=
  s.audit.provQ.any fun j => provRuns s j && meetsArea (shareStateAreas s sh) (leAt j.cmd.body 0 8) (leAt j.cmd.body 8 8)

/-- An FP32 code in the granary. -/
def granF (s : State) (a : Nat) : Nat := leNat (Mem.reads s.gran a 4)

/-- The granary written. -/
def granPut (s : State) (a n v : Nat) : State := { s with gran := Mem.writes s.gran a (leBytes n v) }

/-! ## Groups (R113 to R115) -/

/-- Address of a group record. -/
def groupAddr (s : State) (sh g : Nat) : Nat := (shStacks s sh).headD 0 * 2 ^ 36 + bits (shareW s sh 5) 23 0 * 4096 + 128 * g

/-- A group record's 128 bytes. -/
def groupRec (s : State) (sh g : Nat) : List Byte := Mem.reads s.gran (groupAddr s sh g) 128

/-- CHECK of a record holds. -/
def groupOk (b : List Byte) : Bool := leAt b 124 4 == (crc32c (b.take 124)).toNat

/-- A record with bytes replaced from `off`. -/
def patch (b : List Byte) (off : Nat) (bs : List Byte) : List Byte := b.take off ++ bs ++ b.drop (off + bs.length)

/-- A record with CHECK recomputed. -/
def sealRec (b : List Byte) : List Byte := patch b 124 (leBytes 4 (crc32c (b.take 124)).toNat)

def gFirst (b : List Byte) : Nat := leAt b 0 8 % 2 ^ 36
def gLen (b : List Byte) : Nat := leAt b 8 8 % 2 ^ 36
def gF (b : List Byte) (off : Nat) : Nat := leAt b off 4
def gRows (b : List Byte) : Nat := leAt b 64 2 % 8192
def gCols (b : List Byte) : Nat := leAt b 66 2 % 8192
def gFlag (b : List Byte) (i : Nat) : Bool := bit (leAt b 88 4) i

/-- Group of a share element. -/
def groupOf (s : State) (sh i : Nat) : Nat :=
  ((List.range (shGroups s sh)).find? fun g => let b := groupRec s sh g; decide (gFirst b ≤ i) && decide (i < gFirst b + gLen b)).getD 0

/-- Every record of a share passes its CHECK. -/
def groupsOk (s : State) (sh : Nat) : Bool := (List.range (shGroups s sh)).all fun g => groupOk (groupRec s sh g)

/-! ## Feeds (R117) -/

/-- Word `i` of a feed. -/
def feedW (s : State) (k i : Nat) : Nat := ((planRec s 0x0A 0x02 k).map (·.fld i)).getD 0
def fdShare (s : State) (k : Nat) : Nat := bits (feedW s k 1) 31 24
def fdRange (s : State) (k : Nat) : Nat := bits (feedW s k 1) 11 0
def fdLen (s : State) (k : Nat) : Nat := feedW s k 4 + bits (feedW s k 1) 23 20 * 2 ^ 32
def fdFirst (s : State) (k : Nat) : Nat := feedW s k 2 + bits (feedW s k 3) 15 12 * 2 ^ 32
def fdIn (s : State) (k : Nat) : Nat × Nat := (bits (feedW s k 0) 4 0, bits (feedW s k 0) 31 16)
def fdOut (s : State) (k : Nat) : Nat × Nat := (bits (feedW s k 3) 4 0, bits (feedW s k 3) 31 16)

/-- Every feed of the plan. -/
def feedIds (s : State) : List Nat := (planRecs s 0x0A 0x02).map (·.index)

/-- The feed of a collective's range. -/
def feedFor (s : State) (f i r : Nat) : Option Nat := (feedIds s).find? fun k => fdIn s k == (f, i) && fdRange s k == r

/-- The feed whose weights leave in a collective. -/
def feedOut (s : State) (f i : Nat) : Option Nat := (feedIds s).find? fun k => fdOut s k == (f, i)

/-- The share's stack whose controller is fenced. -/
def shareStackFenced (s : State) (sh : Nat) : Bool := (shStacks s sh).any fun k => (Tab.get {} s.granCtl k).fenced

/-- Requester ID of the engine that sends for a share: that of its first stack (12 Table 12-3, log 98). -/
def shareUnit (s : State) (sh : Nat) : Nat := 1218 + (shStacks s sh).headD 0

/-- The update path's address. -/
def updAddr (s : State) : Addr := addr s.plan.deviceId.toNat 0

/-- A fault against a share (Table 4-5). -/
def shareFault (s : State) (sh : Nat) (code : Half) : State := raise (modShare s sh fun x => { x with lastFault := code }) code uUpdate sh

/-- An abort request to the root of one range (R119). -/
def askRoot (s : State) (unit f i r coll : Nat) (code : Half) : State :=
  match (rootsOf s f).find? fun n => n.range == r with
  | some n => sendCol s unit (addr n.device 0) pColAbort 0 coll (pack 8 [(0, 2, code.toNat), (2, 2, i), (4, 2, r)])
  | none => s

/-! ## The yoke (18 R513) -/

/-- The role is in effect and the share is paired. -/
def yoked (s : State) (r : Role) (sh : Nat) : Bool :=
  s.yoke.role == r && decide (s.yoke.start ≤ s.plan.headland) && s.yoke.pairs.any fun q => q.1 == sh

/-- A delivery to the update path replicated to the shadow's. -/
def yokeCopy (s : State) (sh : Nat) (k : Pkt) : State :=
  if yoked s .partner sh then
    let d := addr s.yoke.other.toNat 0
    let k := { k with dst := d, dstN := ~~~d }
    send s (shareUnit s sh) { k with hcrc := k.crc }
  else s

/-! ## Grants (R119, R121) -/

/-- COLL_ID of a feed's all-gather. -/
def outColl (s : State) (k : Nat) : Nat :=
  ((orderList s (fdOut s k).1).find? fun e => e.1 == (fdOut s k).2).map (·.2) |>.getD 0

/-- A waybill of the update path for an all-gather. -/
def updBill (s : State) (k h : Nat) : List Byte :=
  let o := fdOut s k
  let coll := outColl s k
  let desc := o.1 * 2 ^ 24 + 2 ^ 22 + 2 ^ 21 + shWout s (fdShare s k) * 256 + shWout s (fdShare s k) * 16
  let ord := ((enum (furrowTab s o.1 0)).find? fun e => bits (e.2.getD 0 0) 31 28 == 1 && bits (e.2.getD 0 0) 23 10 == s.plan.deviceId.toNat).map (·.1) |>.getD 0
  let n32 (v : Nat) : Nat := 0xFFFFFFFF - v
  let b := pack 64 [(0, 4, coll), (4, 4, n32 coll), (8, 4, desc), (12, 4, n32 desc), (16, 4, o.2), (20, 4, n32 o.2),
    (24, 4, furrowFld s o.1 1), (28, 4, ord), (32, 8, fdLen s k), (48, 8, h)]
  patch b 56 (leBytes 8 (descHash b))

/-- A waybill sent to the leaf slots of the furrow's trees. -/
def sendBill (s : State) (unit : Nat) (src : Addr) (f : Nat) (b : List Byte) : State :=
  let devs := ((List.range (max 1 (furrowFld s f 4))).filterMap fun r => (leafNode s f r).map (·.device)).eraseDups
  devs.foldl (fun s d => send s unit (mkPkt src (addr d 0) 7 pColWaybill 0 (BitVec.ofNat 32 (wbColl b)) s.fault.epochMax b)) s

/-- Why a share is lost (R108, R115, R140): its fault. -/
def shareLost (s : State) (sh : Nat) : Option Half :=
  let x := shareSt s sh
  if shareStackFenced s sh || x.granLost then some fGranaryFail else if x.lost then some fUpdShareCheck else none

/-- Why a share refuses feeds: the fault it answers with. A share whose TORN was cleared accepts them from the next
step (R135). -/
def shareRefuses (s : State) (sh : Nat) : Option Half :=
  (shareLost s sh).orElse fun _ => if (shareSt s sh).torn || (shareSt s sh).barred then some fUpdShareTorn else none

/-! ## The rules (R122 to R125) -/

abbrev one32 : Nat := 0x3F800000

def fmul (a b : Nat) : Nat := (fMul .rne a b).1
def fadd (a b : Nat) : Nat := (fAdd .rne a b).1
def fsub (a b : Nat) : Nat := (fSub .rne a b).1
def fdiv (a b : Nat) : Nat := (fDiv .rne a b).1

/-- The gradient gate (R124): none when the element is skipped. -/
def gate (b : List Byte) (g : Nat) : Option Nat :=
  if gFlag b 0 && (match decodeF fp32 g with | .fin _ _ _ => false | _ => true) then none
  else some (fMinMax fp32 true (fNeg (gF b 36)) (fMinMax fp32 false g (gF b 36)).1).1

/-- Bias powers of the step (R123). -/
def biasPow (b : List Byte) : Nat × Nat := (fmul (gF b 48) (gF b 24), fmul (gF b 52) (gF b 28))

/-- sign(c) of UPD_SIGNMOM. -/
def signOf (c : Nat) : Nat :=
  match decodeF fp32 c with
  | .nan => nan32
  | .inf n => if n then 0xBF800000 else one32
  | .fin n m _ => if m = 0 then 0 else if n then 0xBF800000 else one32

/-- UPD_ADAPTIVE from ob1 to u: (m', s', u). -/
def adaptive (b : List Byte) (g m sv : Nat) : Nat × Nat × Nat :=
  let p := biasPow b
  let m' := fadd (fmul (gF b 24) m) (fmul (fsub one32 (gF b 24)) g)
  let s' := fadd (fmul (gF b 28) sv) (fmul (fsub one32 (gF b 28)) (fmul g g))
  let mh := fdiv m' (fsub one32 p.1)
  let sh := fdiv s' (fsub one32 p.2)
  (m', s', fdiv mh (fadd (fSqrt sh).1 (gF b 32)))

/-- New state of an element under the rules without factors: w' and the moments. -/
def ruleStep (rule : Nat) (b : List Byte) (g w m sv : Nat) : Nat × Nat × Nat :=
  let eta := gF b 16
  let d := fmul (gF b 20) w
  match rule with
  | 0 =>
    let v := fadd (fmul (gF b 24) m) g
    (fsub w (fmul eta (fadd v d)), v, sv)
  | 1 =>
    let r := adaptive b g m sv
    (fsub w (fmul eta (fadd r.2.2 d)), r.1, r.2.1)
  | _ =>
    let c := fadd (fmul (gF b 24) m) (fmul (fsub one32 (gF b 24)) g)
    (fsub w (fmul eta (fadd (signOf c) d)), fadd (fmul (gF b 28) m) (fmul (fsub one32 (gF b 28)) g), sv)

/-- The output weight of an element (R122). -/
def outWeight (s : State) (sh : Nat) (b : List Byte) (i w : Nat) : Nat :=
  if shWout s sh = 0 then w
  else
    let mode : RMode := match shWmode s sh with
      | 0 => .rne
      | 1 => .rtz
      | _ => .ksr (ksrR (leAt b 40 8) ((leAt b 56 4 + 1) % 2 ^ 32) i)
    (cvtF (fmtOf (shWout s sh)) mode (decodeF fp32 w)).1

/-- The bank written, and the one read (R136). -/
def readBank (s : State) (sh : Nat) : Bool := shBanked s sh && (shareSt s sh).bank
def writeBank (s : State) (sh : Nat) : Bool := shBanked s sh && !(shareSt s sh).bank

/-- An element's new state written: master, moments, staging, counts. `v` is none for a skipped element. -/
def putElem' (s : State) (sh g : Nat) (b : List Byte) (i : Nat) (v : Option (Nat × Nat × Nat)) : State :=
  let rb := readBank s sh
  let wb := writeBank s sh
  let old (a : Nat) : Nat := granF s (stateAddr s sh rb a i)
  let new := v.getD (old 0, old 1, old 2)
  let three := shArrays s sh == 3
  let s := granPut s (stateAddr s sh wb 0 i) 4 new.1
  let s := granPut s (stateAddr s sh wb 1 i) 4 new.2.1
  let s := if three then granPut s (stateAddr s sh wb 2 i) 4 new.2.2 else s
  let s := granPut s (outAddr s sh i) (etypeBits (shWout s sh) / 8) (outWeight s sh b i new.1)
  let bad := match decodeF fp32 new.1 with | .fin _ _ _ => false | _ => true
  modShare s sh fun x =>
    { x with applied := x.applied + 1, hold := x.hold + (if v.isNone then 1 else 0), special := x.special + (if bad then 1 else 0)
             updated := Tab.upd 0 x.updated g (· + 1) }

/-- One element of a chunk applied. -/
def applyElem (s : State) (sh i g : Nat) : State :=
  let gr := groupOf s sh i
  let b := groupRec s sh gr
  if shRule s sh = 2 then
    modShare (granPut s (workAddr s sh 0 i) 4 g) sh fun x => { x with arrived := Tab.upd 0 x.arrived gr (· + 1) }
  else
    let rb := readBank s sh
    let v := (gate b g).map fun g =>
      ruleStep (shRule s sh) b g (granF s (stateAddr s sh rb 0 i)) (granF s (stateAddr s sh rb 1 i))
        (if shArrays s sh = 3 then granF s (stateAddr s sh rb 2 i) else 0)
    putElem' s sh gr b i v

/-! ## Weights out (R121) -/

/-- The chunks of a feed's contribution that are in staging and not yet sent. -/
def flushOut (s : State) (k : Nat) : State :=
  let x := feedSt s k
  let sh := fdShare s k
  match x.out with
  | none => s
  | some coll =>
    if !x.outGranted || x.aborted || yoked s .shadow sh then s
    else
      let w := etypeBits (shWout s sh) / 8
      match leafNode s (fdOut s k).1 0 with
      | none => s
      | some n =>
        let s := (List.range (x.ready - x.sent)).foldl (fun s j =>
          let c := x.sent + j
          let bs := (List.range (chunkLen (fdLen s k) c)).flatMap fun i => Mem.reads s.gran (outAddr s sh (fdFirst s k + 1792 * c + i)) w
          sendChunk s { owner := 2 ^ 25 + k, sink := sinkOfSlot n.device (n.slotOf c), window := n.window
                        stack := outAddr s sh (fdFirst s k + 1792 * c) / 2 ^ 36
                        pkts := chunkPkts s (ownAddr s) (addr n.device 0) coll c (cutBytes 65536 bs) }) s
        modFeed s k fun x => { x with sent := x.ready }

/-- Leading chunks whose every element has its output weight in staging. -/
def readyChunks (s : State) (k : Nat) : Nat :=
  let sh := fdShare s k
  let x := feedSt s k
  if shRule s sh ≠ 2 then x.chunks
  else
    let done (i : Nat) : Bool := let g := groupOf s sh i; Tab.get 0 (shareSt s sh).updated g == gLen (groupRec s sh g)
    ((List.range x.chunks).find? fun c => !((List.range (chunkLen (fdLen s k) c)).all fun i => done (fdFirst s k + 1792 * c + i))).getD x.chunks

/-- A feed's ready chunks counted and sent. -/
def pushOut (s : State) (k : Nat) : State := flushOut (modFeed s k fun x => { x with ready := readyChunks s k }) k

/-- A feed meets a group of its share. -/
def feedMeets (s : State) (k sh g : Nat) : Bool :=
  let b := groupRec s sh g
  fdShare s k == sh && rangeMeets (fdFirst s k) (fdLen s k) (gFirst b) (gLen b)

/-- The body of a feed's UPD_TORN entry (17 Table 17-12): the feed, the chunks applied, the step's headland. -/
def tornBody (s : State) (k : Nat) : List Byte := pack 40 [(0, 2, k), (4, 4, (feedSt s k).ready), (8, 8, now s)]

/-- A share torn (R134): UPD_SHARE_TORN is raised unless it is torn already, and every feed of the list that has no
UPD_TORN entry in the step gets one. -/
def tearShare (s : State) (sh : Nat) (ks : List Nat) : State :=
  let fresh := !(shareSt s sh).torn
  let ks := ks.filter fun k => !(feedSt s k).tornNoted
  let s := modShare s sh fun y => { y with torn := true, lastFault := if fresh then fUpdShareTorn else y.lastFault }
  let note (s : State) (k : Nat) : State :=
    tally (modFeed s k fun x => { x with tornNoted := true })
      { kind := kUpdTorn, utype := uUpdate, unit := sh, fault := fUpdShareTorn, body := tornBody s k }
  match fresh, ks with
  | true, [] => raise s fUpdShareTorn uUpdate sh
  | true, k :: ks => ks.foldl note (raiseBy (modFeed s k fun x => { x with tornNoted := true }) fUpdShareTorn uUpdate sh kUpdTorn (tornBody s k))
  | false, ks => ks.foldl note s

/-- An aborted feed (R133, R134): nothing more is applied, its all-gather is aborted, and an IN_PLACE share
that it had changed, or a group of which lies between its products and its passes (R129), is torn. -/
def abortFeed (s : State) (k : Nat) : State :=
  let sh := fdShare s k
  let x := feedSt s k
  let s := modFeed (shareFault s sh fUpdFeedAbort) k fun x => { x with aborted := true, parts := [] }
  let s := if yoked s .shadow sh then s else askRoot s (shareUnit s sh) (fdOut s k).1 (fdOut s k).2 0 (outColl s k) fUpdFeedAbort
  if !shBanked s sh && (decide (0 < x.ready) || (shareSt s sh).mid.any fun g => feedMeets s k sh g) then tearShare s sh [k] else s

/-- DEDUCED (log 95): the granted feeds of a lost share that still have weights to send are aborted as R133 gives. -/
def abortUnfinished (s : State) (sh : Nat) : State :=
  (feedIds s).foldl (fun s k =>
    let x := feedSt s k
    if fdShare s k == sh && x.granted && !x.aborted && decide (x.ready < cdiv (fdLen s k) 1792) then abortFeed s k else s) s

/-- A share lost under UPD_SHARE_CHECK (R108, R115). -/
def loseShare (s : State) (sh : Nat) : State :=
  abortUnfinished (shareFault (modShare s sh fun y => { y with lost := true }) sh fUpdShareCheck) sh

/-- A reduce-scatter grant at the update path. `bill` is the collective's waybill as the root holds it,
`chk` whether the descriptor and the feed entry pass their complements (R108, R117). With no matching feed there is
no share: DESIGN CHOICE (log 95), the fault is raised with UNIT 0 and no share's LAST_FAULT changes (R139). -/
def feedGrant (p : Pkt) (bill : List Byte) (chk : Bool) (s : State) : State :=
  match collPlace s p.fcid.toNat with
  | none => taken s p
  | some (f, i) =>
    let r := leAt p.payload 6 2 % 4096
    if ((feedFor s f i r).map fun k => hashHolds s (fdShare s k)).getD false then s
    else
    let s := taken s p
    let coll := p.fcid.toNat
    let refuse (s : State) (sh : Nat) (code : Half) : State :=
      let s := shareFault s sh code
      if yoked s .shadow sh then s else askRoot s (shareUnit s sh) f i r coll code
    match feedFor s f i r with
    | none => askRoot (raise s fUpdFeedCheck uUpdate 0) 1218 f i r coll fUpdFeedCheck
    | some k =>
      let sh := fdShare s k
      let s := yokeCopy s sh p
      if (feedSt s k).granted || (feedSt s k).outcome.isSome then s
      else if !chk || !groupsOk s sh then
        let s := loseShare s sh
        if yoked s .shadow sh then s else askRoot s (shareUnit s sh) f i r coll fUpdShareCheck
      else
        match shareRefuses s sh with
        | some code => refuse s sh code
        | none =>
          if leAt p.payload 16 8 != fdLen s k || wbRedop bill != 0 || wbOut bill != 0 then refuse s sh fUpdFeedCheck
          else
            let s := modFeed (modShare s sh fun x => { x with feedActive := true }) k fun _ => { granted := true }
            if yoked s .shadow sh then s
            else
              let b := updBill s k (leAt p.payload 24 8)
              modFeed (sendBill s (shareUnit s sh) (ownAddr s) (fdOut s k).1 b) k fun x => { x with out := some (wbColl b) }

def execUpdFeedGrant (p : Pkt) (bill : List Byte) (chk : Bool) (s : State) : Out := onPkt p s (feedGrant p bill chk)

/-- Data of a feed at the update path: held until applied (R120, R133). -/
def feedData (s : State) (k : Nat) (p : Pkt) : State :=
  let x := feedSt s k
  let s := yokeCopy (taken s p) (fdShare s k) p
  let e := (p.seq.toNat / 32, p.seq.toNat % 32, p.op == pColDataEnd, p.payload)
  if !x.granted || x.aborted || decide (p.seq.toNat / 32 < x.chunks) || x.parts.contains e then s
  else modFeed s k fun x => { x with parts := x.parts ++ [e] }

/-- UPD_CHUNK_APPLY: the next chunk in order, when it is whole (R120). `chk` is whether the descriptor and the feed entry
pass their complements, `e` the ECC of the state read. A failure of the complements loses the share whether or not a chunk is
whole: it stands for a failure that any read of the update engine meets (R108, log 63). -/
def chunkApply (k : Nat) (chk : Bool) (e : Ecc) (s : State) : State :=
  let x := feedSt s k
  let sh := fdShare s k
  let stack := (shStacks s sh).getD (((fdFirst s k + 1792 * x.chunks) / 1792) % max (shStacks s sh).length 1) 0
  if !chk && (planRec s 0x0A 0x02 k).isSome && (shareLost s sh).isNone then loseShare s sh
  else if !x.granted || x.aborted || decide (cdiv (fdLen s k) 1792 ≤ x.chunks) then s
  else
    match gathered x.parts x.chunks with
    | none => s
    | some bs =>
      if (shareLost s sh).isSome then abortFeed s k
      else if !groupsOk s sh then loseShare s sh
      else if e = .ue then abortFeed (raise s fGranaryUe uGranary stack) k
      else
        let s := if e = .ce then raise s fGranaryCe uGranary stack else s
        let s := (List.range (chunkLen (fdLen s k) x.chunks)).foldl (fun s i =>
          applyElem s sh (fdFirst s k + 1792 * x.chunks + i) (leAt bs (4 * i) 4)) s
        pushOut (modFeed s k fun y => { y with chunks := y.chunks + 1, parts := y.parts.filter fun q => q.1 != x.chunks }) k

def execUpdChunkApply (k : BitVec 12) (r : DescRead) (s : State) : Out := event s (chunkApply k.toNat r.chk r.e)

/-! ## The preconditioned rule (R127 to R131) -/

/-- A matrix as its rows of FP32 codes. -/
abbrev Mat := List (List Nat)

def Mat.at (m : Mat) (i j : Nat) : Nat := (m.getD i []).getD j 0
def mkMat (r c : Nat) (f : Nat → Nat → Nat) : Mat := (List.range r).map fun i => (List.range c).map fun j => f i j
def Mat.tr (m : Mat) (r c : Nat) : Mat := mkMat c r fun i j => m.at j i

/-- FP32X array product of an r x k by a k x c matrix (R57, R63). -/
def mmX (a b : Mat) (r k c : Nat) : Mat :=
  let hi (x : Nat) : FVal := if decodeF fp32 x = .nan then .nan else decodeF bf16 (hiPart x)
  let lo (x : Nat) : FVal := if decodeF fp32 x = .nan then .nan else decodeF bf16 (loPart x)
  mkMat r c fun i j =>
    ([(hi, hi), (hi, lo), (lo, hi)].foldl (fun acc f =>
      (List.range (cdiv k 128)).foldl (fun acc q =>
        let slab := slabWindow ((List.range (min 128 (k - 128 * q))).map fun t => fProd (f.1 (a.at i (128 * q + t))) (f.2 (b.at (128 * q + t) j)))
        (fAdd .rne acc slab.1).1) acc) 0)

/-- frob(X) (R128). -/
def frob (xs : List Nat) : Nat :=
  (fSqrt (if xs.isEmpty then 0 else ((xs.foldl (fun (a : Acc) x => a.raw (decodeF fp32 (fmul x x))) {}).round fp32 .rne).1)).1

/-- A matrix in the granary, and one written. -/
def granMat (s : State) (a r c : Nat) : Mat := mkMat r c fun i j => granF s (a + 4 * (i * c + j))
def putMat (s : State) (a : Nat) (m : Mat) : State := { s with gran := Mem.writes s.gran a (m.flatten.flatMap (leBytes 4)) }

/-- Offset in the factor area of A, B, SA, SB, RA0, RB0, RA1, RB1 (R127). -/
def factorOff (r c i : Nat) : Nat := 4 * ((i + 1) / 2 * r * r + i / 2 * c * c)
def factorAddr (b : List Byte) (i : Nat) : Nat := leAt b 80 8 % 2 ^ 38 + factorOff (gRows b) (gCols b) i

/-- Step 2 of R129: the plots' products. A, B and the direction buffer are written. -/
def precondProducts (s : State) (sh : Nat) (b : List Byte) : State :=
  let r := gRows b
  let c := gCols b
  let i0 := gFirst b
  let gm := mkMat r c fun i j => granF s (workAddr s sh 0 (i0 + i * c + j))
  let gt := gm.tr r c
  let fb := gF b 72
  let blend (old new : Mat) (n : Nat) : Mat := mkMat n n fun i j => fadd (fmul fb (old.at i j)) (fmul (fsub one32 fb) (new.at i j))
  let a' := blend (granMat s (factorAddr b 0) r r) (mmX gm gt r c r) r
  let b' := blend (granMat s (factorAddr b 1) c c) (mmX gt gm c r c) c
  let bank := if gFlag b 2 then 6 else 4
  let pm := mmX (mmX (granMat s (factorAddr b bank) r r) gm r r c) (granMat s (factorAddr b (bank + 1)) c c) r c c
  let s := putMat (putMat s (factorAddr b 0) a') (factorAddr b 1) b'
  (List.range (r * c)).foldl (fun s e => granPut s (workAddr s sh 1 (i0 + e)) 4 (pm.at (e / max c 1) (e % max c 1))) s

/-- Steps 3 to 5 of R129: passes A and B. DESIGN CHOICE (log 95): an element that HOLD skips (R124) keeps its gradient in G,
so in the products of step 2, and is left out of Na. -/
def precondPasses (s : State) (sh g : Nat) (b : List Byte) : State :=
  let n := gRows b * gCols b
  let i0 := gFirst b
  let pv (e : Nat) : Nat := granF s (workAddr s sh 1 (i0 + e))
  let rb := readBank s sh
  let elems := (List.range n).map fun e =>
    (gate b (granF s (workAddr s sh 0 (i0 + e)))).map fun gr =>
      adaptive b gr (granF s (stateAddr s sh rb 1 (i0 + e))) (granF s (stateAddr s sh rb 2 (i0 + e)))
  let na := frob (elems.filterMap fun v => v.map fun u => u.2.2)
  let np := frob ((List.range n).map pv)
  let f := if np % 2 ^ 31 = 0 then 0 else fdiv na np
  (enum elems).foldl (fun s e =>
    let w := granF s (stateAddr s sh rb 0 (i0 + e.1))
    let v := e.2.map fun u => (fsub w (fmul (gF b 16) (fadd (fmul (pv e.1) f) (fmul (gF b 20) w))), u.1, u.2.1)
    putElem' s sh g b (i0 + e.1) v) s

/-- PRECOND_PASS (R129): a group whose gradient is whole has its products computed by the first event, and passes A and B run
by the next; neither runs once a feed of the group has aborted. `chk` and `e` as in UPD_CHUNK_APPLY. -/
def precondPass (sh g : Nat) (chk : Bool) (e : Ecc) (s : State) : State :=
  let b := groupRec s sh g
  let x := shareSt s sh
  let fs := (feedIds s).filter fun k => feedMeets s k sh g
  if shRule s sh ≠ 2 || decide (shGroups s sh ≤ g) || (shareLost s sh).isSome || Tab.get 0 x.arrived g == 0 || Tab.get 0 x.updated g != 0 then s
  else if !chk || !groupOk b then loseShare s sh
  else if Tab.get 0 x.arrived g != gLen b || fs.any fun k => (feedSt s k).aborted then s
  else if e = .ue then fs.foldl abortFeed (raise s fGranaryUe uGranary (factorAddr b 0 / 2 ^ 36))
  else
    let s := if e = .ce then raise s fGranaryCe uGranary (factorAddr b 0 / 2 ^ 36) else s
    if !x.mid.contains g then modShare (precondProducts s sh b) sh fun y => { y with mid := y.mid ++ [g] }
    else
      let s := modShare (precondPasses s sh g b) sh fun y => { y with mid := y.mid.filter (· != g) }
      (feedIds s).foldl (fun s k => if fdShare s k = sh ∧ (feedSt s k).granted ∧ !(feedSt s k).aborted then pushOut s k else s) s

def execPrecondPass (g : ShareGroup) (r : DescRead) (s : State) : Out := event s (precondPass g.sh.toNat g.g.toNat r.chk r.e)

/-- The root of a factor's snapshot (R130). -/
def refreshRoot (sn : Mat) (n eps : Nat) : Mat :=
  let t0 := mkMat n n fun i j => fadd (sn.at i j) (if i = j then eps else 0)
  let z := frob t0.flatten
  let q := (fRsqrt (fSqrt z).1).1
  let rz := (fRcp z).1
  let x0 := mkMat n n fun i j => if i = j then q else 0
  let m0 := mkMat n n fun i j => fmul (t0.at i j) rz
  ((List.range 24).foldl (fun (a : Mat × Mat) _ =>
    let t := mkMat n n fun i j => fmul (fsub (if i = j then 0x40A00000 else 0) (a.2.at i j)) 0x3E800000
    let t2 := mmX t t n n n
    (mmX a.1 t n n n, mmX (mmX t2 t2 n n n) a.2 n n n)) (x0, m0)).1

/-- ROOT_REFRESH_DONE (R130, R131): the pending refresh of a group has written its roots, from the snapshots and the EPS_ROOT
it started with. `chk` as in UPD_CHUNK_APPLY. -/
def rootRefreshDone (sh g : Nat) (chk : Bool) (s : State) : State :=
  let b := groupRec s sh g
  if shRule s sh ≠ 2 || decide (shGroups s sh ≤ g) || (shareLost s sh).isSome || (shareSt s sh).refreshed.contains g then s
  else if !chk || !groupOk b then loseShare s sh
  else if !gFlag b 1 then s
  else
    let r := gRows b
    let c := gCols b
    let bank := if gFlag b 2 then 4 else 6
    let eps := Tab.get (gF b 76) (shareSt s sh).rootEps g
    let s' := putMat s (factorAddr b bank) (refreshRoot (granMat s (factorAddr b 2) r r) r eps)
    let s' := putMat s' (factorAddr b (bank + 1)) (refreshRoot (granMat s (factorAddr b 3) c c) c eps)
    modShare s' sh fun x => { x with refreshed := x.refreshed ++ [g] }

def execRootRefreshDone (g : ShareGroup) (chk : Bool) (s : State) : Out := event s (rootRefreshDone g.sh.toNat g.g.toNat chk)

/-! ## Group writes (R576, R116) -/

/-- UPD_GROUP_WRITE at acceptance. -/
def groupWrite (c : Cmd) (s : State) : State :=
  if c.u 8 8 < now s then cmdDone s c oUpdGroupWrite stStaleHeadland
  else if !shareDefined s (c.u 0 1) || decide (shGroups s (c.u 0 1) ≤ c.u 4 2) then cmdDone s c oUpdGroupWrite stRange
  else { s with upd := { s.upd with writes := s.upd.writes ++ [c] } }

def execUpdGroupWrite (c : Cmd) (s : State) : Out :=
  let o := c.u 1 1
  let n := c.u 2 1
  onCmd oUpdGroupWrite c [(0, 1), (1, 1), (2, 1), (4, 2), (8, 8), (16, 48)]
    (decide (1 ≤ n) && decide (n ≤ 48) && (decide (o + n ≤ 48) || (decide (68 ≤ o) && decide (o + n ≤ 80))) && decide (c.u 4 2 ≤ 4095))
    s (groupWrite c)

/-- What R114 and Table 4-3 reject in one group record, but for CHECK: the value word, and the code of 09 Table 9-7. -/
def groupErrs (rule : Nat) (b : List Byte) : List (Nat × Nat) :=
  let e (c : Bool) (w code : Nat) : List (Nat × Nat) := if c then [(w, code)] else []
  let fin (c : Nat) : Bool := match decodeF fp32 c with | .fin _ _ _ => true | _ => false
  let nonneg (c : Nat) : Bool := fin c && (decide (c < 2 ^ 31) || c == 2 ^ 31)
  let beta (c : Nat) : Bool := decide (c < one32)
  let pos (c : Nat) : Bool := decide (0 < c) && decide (c < 2 ^ 31) && fin c
  let pre := rule == 2
  let w (i : Nat) : Nat := leAt b (4 * i) 4
  e (w 1 / 16 != 0) 1 eReserved ++ e (leAt b 8 8 % 2 ^ 36 == 0) 2 eRange ++ e (w 3 / 16 != 0) 3 eReserved ++
    e (!nonneg (w 4)) 4 eRange ++ e (!nonneg (w 5)) 5 eRange ++ e (!beta (w 6)) 6 eRange ++
    e (!beta (w 7) || (rule == 0 && w 7 != 0)) 7 eRange ++
    e (if rule = 1 ∨ rule = 2 then !pos (w 8) else w 8 != 0) 8 eRange ++ e (w 9 == 0 || decide (inf32 < w 9)) 9 eRange ++
    e (w 15 != 0) 15 eReserved ++
    (if pre then
      e (w 16 % 65536 == 0 || decide (4096 < w 16 % 65536) || w 16 / 65536 == 0 || decide (4096 < w 16 / 65536)) 16 eRange ++
        e (w 16 % 65536 * (w 16 / 65536) != gLen b) 16 eRule ++
        e (w 17 % 65536 == 0 || w 17 / 65536 == 0 || decide (w 17 % 65536 < w 17 / 65536)) 17 eRange ++ e (!beta (w 18)) 18 eRange ++
        e (!(decide (2 ^ 23 ≤ w 19) && pos (w 19))) 19 eRange ++ e (w 21 / 64 != 0) 21 eReserved
     else [16, 17, 18, 19, 20, 21].flatMap fun i => e (w i != 0) i eRange) ++
    e (w 22 / 8 != 0) 22 eReserved ++ [24, 25, 26, 27, 28, 29, 30].flatMap fun i => e (w i != 0) i eReserved

/-- Where the groups do not tile the share (R114): the group and the value word. -/
def tileErrs (len : Nat) (gs : List (List Byte)) : List (Nat × Nat) :=
  let r := gs.foldl (fun (a : List (Nat × Nat) × Nat × Nat) b =>
    (if gFirst b = a.2.2 then a.1 else a.1 ++ [(a.2.1, 0)], a.2.1 + 1, gFirst b + gLen b)) ([], 0, 0)
  r.1 ++ if r.2.2 = len then [] else [(gs.length - 1, 2)]

/-- A group table passes R114 but for CHECK. -/
def tableOk (rule len : Nat) (gs : List (List Byte)) : Bool :=
  !gs.isEmpty && (tileErrs len gs).isEmpty && gs.all fun b => (groupErrs rule b).isEmpty

/-- Elements of [lo, lo + n) that the share's feeds cover. -/
def feedCover (s : State) (sh lo n : Nat) : Nat :=
  ((feedIds s).map fun k => if fdShare s k = sh then min (fdFirst s k + fdLen s k) (lo + n) - max (fdFirst s k) lo else 0).foldl (· + ·) 0

/-- R118 and R136: the groups are covered as a whole. -/
def coverOk (s : State) (sh rule : Nat) (banked : Bool) (gs : List (List Byte)) : Bool :=
  gs.all fun b =>
    let c := feedCover s sh (gFirst b) (gLen b)
    c == gLen b || (c == 0 && rule != 2 && !banked)

/-- R116: the group writes of a headland for one share. -/
def applyWrites (s : State) (sh h : Nat) : State :=
  let mine := s.upd.writes.filter fun c => c.u 0 1 == sh && c.u 8 8 == h
  let s := { s with upd := { s.upd with writes := s.upd.writes.filter fun c => !(c.u 0 1 == sh && c.u 8 8 == h) } }
  let (out, ins) := mine.partition fun c => decide (shGroups s sh ≤ c.u 4 2) || !shareDefined s sh
  let s := out.foldl (fun s c => cmdDone s c oUpdGroupWrite stRange) s
  if ins.isEmpty then s
  else
    let sorted := ins.mergeSort fun a b => !serialAbove a.seq b.seq
    let gs := (List.range (shGroups s sh)).map (groupRec s sh)
    let gs' := sorted.foldl (fun gs c => (enum gs).map fun e =>
      if e.1 = c.u 4 2 then sealRec (patch e.2 (c.u 1 1) (slice c.body 16 (c.u 2 1))) else e.2) gs
    if tableOk (shRule s sh) (shLen s sh) gs' && (gs ++ gs').all groupOk && coverOk s sh (shRule s sh) (shBanked s sh) gs' then
      let s := (enum gs').foldl (fun s e => { s with gran := Mem.writes s.gran (groupAddr s sh e.1) e.2 }) s
      sorted.foldl (fun s c => cmdDone s c oUpdGroupWrite stOk) s
    else sorted.foldl (fun s c => cmdDone s c oUpdGroupWrite stRange) s

/-! ## Step close (R132 to R136) -/

/-- A feed has received its reduce-scatter outcome, and what it accepted has been applied. -/
def feedSettled (s : State) (k : Nat) : Bool :=
  let x := feedSt s k
  match x.outcome with
  | some n => !x.granted || x.aborted || decide (n ≤ x.chunks)
  | none => false

/-- A block pass of a group has still to run (R129). -/
def passDue (s : State) (sh g : Nat) : Bool :=
  let n := gLen (groupRec s sh g)
  let x := shareSt s sh
  Tab.get 0 x.arrived g == n && Tab.get 0 x.updated g != n && (shareLost s sh).isNone &&
    !((feedIds s).any fun k => feedMeets s k sh g && (feedSt s k).aborted)

/-- A refresh that the close of the step needs has not finished (R131). -/
def refreshDue (s : State) (sh g : Nat) : Bool :=
  let b := groupRec s sh g
  let x := shareSt s sh
  gFlag b 1 && leAt b 92 4 == min (leAt b 56 4 + 1) 0xFFFFFFFF && Tab.get 0 x.updated g == gLen b && (shareLost s sh).isNone &&
    !x.refreshed.contains g

/-- What a step close waits for: outcomes, block passes, a refresh that is due (R131, R132). -/
def stepCloseReady (s : State) : Bool :=
  ((feedIds s).all (feedSettled s)) &&
    (planRecs s 0x0A 0x01).all fun r =>
      shRule s r.index != 2 || (List.range (shGroups s r.index)).all fun g => !passDue s r.index g && !refreshDue s r.index g

/-- An applied group advanced (R123, R130, R131): the record after. -/
def advanceGroup (s : State) (sh g : Nat) : State :=
  let b := groupRec s sh g
  let p := biasPow b
  let step := min (leAt b 56 4 + 1) 0xFFFFFFFF
  let b1 := patch (patch (patch b 48 (leBytes 4 p.1)) 52 (leBytes 4 p.2)) 56 (leBytes 4 step)
  if shRule s sh ≠ 2 then { s with gran := Mem.writes s.gran (groupAddr s sh g) (sealRec b1) }
  else
    let fl := leAt b1 88 4
    let swap := bit fl 1 && leAt b1 92 4 == step
    let fl := if swap then (fl ^^^ 4) &&& 5 else fl
    let s := if swap then modShare s sh fun x => { x with refreshed := x.refreshed.filter (· != g) } else s
    let start := step % max (leAt b1 68 2) 1 == 0
    let s := if start then
        let r := gRows b
        let c := gCols b
        putMat (putMat s (factorAddr b 2) (granMat s (factorAddr b 0) r r)) (factorAddr b 3) (granMat s (factorAddr b 1) c c)
      else s
    let s := if start then modShare s sh fun x =>
        { x with refreshed := x.refreshed.filter (· != g), rootEps := Tab.set 0 x.rootEps g (gF b1 76) } else s
    let b2 := patch b1 88 (leBytes 4 (if start then fl ||| 2 else fl))
    let b3 := if start then patch b2 92 (leBytes 4 ((step + leAt b1 70 2) % 2 ^ 32)) else b2
    { s with gran := Mem.writes s.gran (groupAddr s sh g) (sealRec b3) }

/-- YOKE_CRC of a share (18 R514): the crop digest of the output weights fed in the step. -/
def yokeCrc (s : State) (sh : Nat) : DWord :=
  let w := etypeBits (shWout s sh) / 8
  let fs := ((feedIds s).filter fun k => fdShare s k == sh && (feedSt s k).granted).mergeSort fun a b => decide (fdFirst s a ≤ fdFirst s b)
  crop (fs.flatMap fun k => (List.range (min (fdLen s k) (1792 * (feedSt s k).ready))).flatMap fun i => Mem.reads s.gran (outAddr s sh (fdFirst s k + i)) w)

/-- The group writes of a headland for one share. -/
def writesOf (s : State) (sh h : Nat) : List Cmd := s.upd.writes.filter fun c => c.u 0 1 == sh && c.u 8 8 == h

/-- Those writes completed without effect. -/
def endWrites (s : State) (sh h st : Nat) : State :=
  let mine := writesOf s sh h
  mine.foldl (fun s c => cmdDone s c oUpdGroupWrite st)
    { s with upd := { s.upd with writes := s.upd.writes.filter fun c => !(c.u 0 1 == sh && c.u 8 8 == h) } }

/-- A feed of the step ended COMPLETE with every chunk applied. -/
def feedComplete (s : State) (k : Nat) : Bool :=
  let x := feedSt s k
  x.granted && !x.aborted && x.outcome.isSome

/-- The step close of one share at headland `h` (R132).
DEDUCED (log 95): a lost share advances no group, inverts no bank, and its group writes complete as R116 and R136 give for a
step that does not apply them. -/
def closeShare (h : Nat) (s : State) (sh : Nat) : State :=
  let x := shareSt s sh
  let s := if !groupsOk s sh && !x.lost then shareFault (modShare s sh fun y => { y with lost := true }) sh fUpdShareCheck else s
  let alive := (shareLost s sh).isNone
  let gs := List.range (shGroups s sh)
  let full (g : Nat) : Bool := Tab.get 0 x.updated g == gLen (groupRec s sh g)
  let partly (g : Nat) : Bool := x.mid.contains g || (Tab.get 0 x.updated g != 0 && !full g)
  let feeds := (feedIds s).filter fun k => fdShare s k == sh
  let s := if shBanked s sh then
      if alive && feeds.all (feedComplete s) && gs.all full then
        applyWrites (modShare (gs.foldl (fun s g => advanceGroup s sh g) s) sh fun y => { y with bank := !y.bank }) sh h
      else endWrites s sh h stCancelled
    else
      let torn := gs.filter partly
      let hit := feeds.filter fun k => torn.any fun g => feedMeets s k sh g
      let s := if alive then gs.foldl (fun s g => if full g then advanceGroup s sh g else s) s else s
      let s := if torn.isEmpty then s else tearShare s sh hit
      if alive then applyWrites s sh h else endWrites s sh h stRange
  let s := tally s { kind := kUpdStep, utype := uUpdate, unit := sh,
                     body := pack 40 [(0, 8, h), (8, 8, x.applied), (16, 8, x.hold), (24, 8, x.special)] }
  modShare s sh fun y =>
    { y with feedActive := false, barred := false, applied := 0, hold := 0, special := 0, updated := [], arrived := [], mid := [] }

/-- Every share's step close of headland `h`; writes for shares that are gone complete with RANGE; the writes held for the
step's feeds are let go (R137). -/
def stepClose (h : Nat) (s : State) : State :=
  let s := ((planRecs s 0x0A 0x01).map (·.index)).foldl (closeShare h) s
  let s := { s with upd := { s.upd with feeds := [] }, mem := { s.mem with heldDue := s.mem.heldNext } }
  let gone := s.upd.writes.filter fun c => decide (c.u 8 8 ≤ h)
  let s := { s with upd := { s.upd with writes := s.upd.writes.filter fun c => !decide (c.u 8 8 ≤ h) } }
  gone.foldl (fun s c => cmdDone s c oUpdGroupWrite stRange) s

/-! ## Recovery and outcomes -/

/-- SHARE_CLEAR_TORN (R135). -/
def shareClearTorn (c : Cmd) (s : State) : State :=
  let sh := c.u 0 1
  if !shareDefined s sh then recoveryDone s c oShareClearTorn uUpdate sh stUnitState sh
  else recovery oShareClearTorn c uUpdate sh (objKey 2 sh) sh s fun s =>
    modShare s sh fun x => { x with torn := false, barred := x.barred || x.torn }

def execShareClearTorn (c : Cmd) (s : State) : Out := onCmd oShareClearTorn c [(0, 1)] true s (shareClearTorn c)

/-- An outcome the update path receives (R93, R132, R133): COLL_DONE, and an aborted feed ends. -/
def updOutcome (s : State) (p : Pkt) : State :=
  match collPlace s p.fcid.toNat with
  | none => taken s p
  | some (f, i) =>
    let b := p.payload
    let note (s : State) (sh : Nat) : State :=
      tally s { kind := kCollDone, utype := uUpdate, unit := sh, fault := BitVec.ofNat 16 (leAt b 8 2),
                body := pack 40 [(0, 4, leAt b 0 4), (4, 2, leAt b 4 2), (6, 1, leAt b 6 1), (7, 1, leAt b 7 1), (8, 2, leAt b 10 2), (10, 1, f),
                  (12, 4, leAt b 12 4), (16, 8, leAt b 16 8), (24, 8, leAt b 24 8)] }
    match feedFor s f i (leAt b 10 2 % 4096) with
    | some k =>
      let sh := fdShare s k
      let x := feedSt s k
      let s := note (yokeCopy (taken s p) sh p) sh
      if x.outcome.isSome then s
      else
        let ended := leAt b 6 1 == 1
        let s := modFeed s k fun y => { y with outcome := some (if ended then 0 else leAt b 12 4) }
        if ended && !x.aborted then abortFeed s k else s
    | none =>
      match feedOut s f i with
      | some k => note (taken s p) (fdShare s k)
      | none => taken s p

/-- The all-gather grant of a feed (R121). -/
def updOutGrant (s : State) (p : Pkt) : State :=
  match (collPlace s p.fcid.toNat).bind fun c => feedOut s c.1 c.2 with
  | none => s
  | some k => flushOut (modFeed (taken s p) k fun x => { x with outGranted := true }) k

/-- Data at the update path for the feed it belongs to (R119, R575). -/
def updData (s : State) (p : Pkt) : State :=
  match collPlace s p.fcid.toNat with
  | none => taken s p
  | some (f, i) =>
    match feedFor s f i (rangeFrom s f (updAddr s) (devOf p.src)) with
    | none => taken s p
    | some k => feedData s k p

end Sys2Proof.Machine
end

