-- ==== Sys2Proof/Machine/CollCmds.lean ====
section
/-!
DEFINITION. Commands that bring collective packets to slots, plots and update paths, and FURROW_RESET (03, 18).
-/

namespace Sys2Proof.Machine
open Sys2Proof

/-- The plot a packet is addressed to. -/
def plotOf (s : State) (p : Pkt) : Option Nat :=
  if devOf p.dst = s.plan.deviceId.toNat ∧ !toUnit s p then plotAt s (fieldOf p.dst) else none

/-! ## Data -/

/-- A data packet at a slot, from a segment slot of its set where `seg` names one, else at the plot or the update path it is
addressed to (R79, R102, R219, R133). -/
def colData (op : BitVec 5) (slot seg : Option Nat) (p : Pkt) (s : State) : State :=
  if p.op ≠ op then s
  else
    match slot with
    | some k => slotData k seg p s
    | none =>
      match plotOf s p with
      | some n => rangeToPlot s n p
      | none => updData s p

def execColData (place : ColPlace) (p : Pkt) (s : State) : Out :=
  onPkt p s (colData pColData (place.slot.map (·.toNat)) (place.seg.map (·.toNat)) p)

def execColDataEnd (place : ColPlace) (p : Pkt) (s : State) : Out :=
  onPkt p s (colData pColDataEnd (place.slot.map (·.toNat)) (place.seg.map (·.toNat)) p)

/-! ## Grants and outcomes -/

/-- COL_GRANT (R86, R219, R121): at a node on its way down, or at its member. -/
def colGrant (slot : Option Nat) (p : Pkt) (s : State) : State :=
  match slot with
  | some k => slotGrant k p s
  | none =>
    match plotOf s p with
    | some n => grantToPlot s n p
    | none => updOutGrant s p

def execColGrant (g : SlotPkt) (s : State) : Out := onPkt g.p s (colGrant (g.slot.map (·.toNat)) g.p)

/-- Senders of this device that an aborted outcome ends: a plot's port, an update path's feed. -/
def sendersOf (s : State) (p : Pkt) (f i : Nat) (owner : Nat) : Bool :=
  match plotOf s p with
  | some _ => owner == fieldOf p.dst
  | none => (feedOut s f i).any fun k => owner == 2 ^ 25 + k

/-- COL_OUTCOME (R89, R93, R96, R219, R133). -/
def colOutcome (slot : Option Nat) (p : Pkt) (s : State) : State :=
  match slot with
  | some k => slotOutcome k p s
  | none =>
    let s := match collPlace s p.fcid.toNat with
      | some (f, i) => if leAt p.payload 6 1 = 1 then endSenders s f p.fcid.toNat (sendersOf s p f i) else s
      | none => s
    match plotOf s p with
    | some n => outcomeToPlot s n p
    | none => updOutcome s p

def execColOutcome (slot : Option (BitVec 12)) (p : Pkt) (s : State) : Out := onPkt p s (colOutcome (slot.map (·.toNat)) p)

/-! ## FURROW_RESET (R90, 18 R510) -/

/-- The slots of a furrow discard what they serve and their waiting waybills, lose the fence and resume at a position. -/
def resetFurrow (s : State) (f h i : Nat) : State :=
  let s := { s with coll := { s.coll with fenced := s.coll.fenced.filter (· != f) } }
  (localNodes s f).foldl (fun s n =>
    let s := (served (nodeSt s n.lead)).head?.elim s fun b => dropColl s f n (wbColl b.bytes)
    modNode s n.lead fun _ => freshNode s f h i) s

/-- A 128-byte entry (17 Table 17-7). -/
def entryBytes (seq : Word) (op : Half) (epoch : Word) (body : List Byte) : List Byte :=
  let b := pack 24 [(0, 4, seq.toNat), (4, 4, (~~~seq).toNat), (8, 4, op.toNat), (12, 4, 2 ^ 32 - 1 - op.toNat), (16, 4, epoch.toNat)] ++
    slice body 0 100
  b ++ leBytes 4 (crc32c b).toNat

/-- A PEER command sent to a device, under a header SEQ (18 R510). -/
def sendPeer (s : State) (dev : Nat) (seq : Word) (op : Half) (epoch : Word) (body : List Byte) : State :=
  send s (ownUnit 0) (mkPkt (ownAddr s) (devAddr s dev) 0 pMgtCmd seq 0 s.fault.epochMax (entryBytes seq op epoch body))

/-- The body a peer gets: SCOPE 0. -/
def scopeOff (body : List Byte) : List Byte := body.take 1 ++ [0] ++ body.drop 2

/-- FURROW_RESET sent to every other device of the furrow's trees. -/
def resetPeers (s : State) (c : Cmd) (f : Nat) : State :=
  let devs := (((nodeRecs s f).map (·.device)).eraseDups).filter (· != s.plan.deviceId.toNat)
  devs.foldl (fun s d =>
    let seq := mgtSeq s pMgtCmd
    let s := sendPeer (mgtCount s pMgtCmd) d seq oFurrowReset c.epoch (scopeOff c.body)
    { s with coll := { s.coll with resets := s.coll.resets ++ [{ c := { c with seq, body := scopeOff c.body }, device := d, tries := 0 }] } }) s

def furrowReset (c : Cmd) (s : State) : State :=
  let f := c.u 0 1
  recovery oFurrowReset c uDevice 0 (objKey 1 f) f s fun s =>
    let s := resetFurrow s f (c.u 8 8) (c.u 2 2)
    if bit (c.u 1 1) 0 then resetPeers s c f else s

def execFurrowReset (c : Cmd) (s : State) : Out :=
  onCmd oFurrowReset c [(0, 1), (1, 1), (2, 2), (8, 8)] (decide (c.u 0 1 < 32) && decide (c.u 1 1 < 2)) s (furrowReset c)

/-- FURROW_RESET_RESEND: 50 microseconds have passed; every device that has not answered gets it again, up to
16 times. -/
def furrowResetResend (s : State) : State :=
  let due := s.coll.resets.filter fun r => decide (r.tries < 16)
  let s := due.foldl (fun s r => sendPeer s r.device r.c.seq oFurrowReset r.c.epoch r.c.body) s
  { s with coll := { s.coll with resets := due.map fun r => { r with tries := r.tries + 1 } } }

def execFurrowResetResend (s : State) : Out := event s furrowResetResend

end Sys2Proof.Machine
end

