-- ==== Sys2Proof/Machine/Stage.lean ====
section
/-!
DEFINITION. Sort engines and winnow filters (08), and where movement packets go (03 R71).
-/

namespace Sys2Proof.Machine
open Sys2Proof

/-! ## Power domains (19 Table 19-2) -/

/-- Reset entry of a domain (Table 19-13): FALLOW for graded plots, ON for granary domains, OFF otherwise. -/
def domReset (s : State) (d : Nat) : Domain :=
  if d < 56 ∧ d % 28 < 16 ∧ !bit s.part.plotPresent.toNat (16 * (d / 28) + d % 28) then { st := .fallow }
  else if d < 56 ∧ 26 ≤ d % 28 then { st := .on }
  else {}

def domain (s : State) (d : Nat) : Domain := Tab.get (domReset s d) s.dom d
def modDom (s : State) (d : Nat) (f : Domain → Domain) : State := { s with dom := Tab.set (domReset s d) s.dom d (f (domain s d)) }
def domOn (s : State) (d : Nat) : Bool := (domain s d).st == .on

/-! ## Stage entries (Table 8-1) -/

def stage (s : State) (n : Nat) : Stage := Tab.get {} s.stages n
def modStage (s : State) (n : Nat) (f : Stage → Stage) : State := { s with stages := Tab.upd {} s.stages n f }

def isWinnow (n : Nat) : Bool := decide (8 ≤ n)
def stageDie (n : Nat) : Nat := if n < 4 ∨ (8 ≤ n ∧ n < 16) then 0 else 1

/-- The stage runs: it has an entry and its die's domain is ON (R240). -/
def stageOn (s : State) (n : Nat) : Bool := (planRec s 0x07 0x02 n).isSome && domOn s (28 * stageDie n + 24)

def stSources (s : State) (n : Nat) : Nat := stFld s n 0
def stOut (s : State) (n : Nat) : Nat := stFld s n 1
def stOut2 (s : State) (n : Nat) : Nat := stFld s n 2
def stKtype (s : State) (n : Nat) : Nat := stFld s n 3
def stKw (s : State) (n : Nat) : Nat := stFld s n 4
def stPw (s : State) (n : Nat) : Nat := stFld s n 5
def stDesc (s : State) (n : Nat) : Bool := stFld s n 6 == 1
def stTag (s : State) (n : Nat) : Nat := stFld s n 7
def stPresorted (s : State) (n : Nat) : Bool := stFld s n 8 == 1
def stLimit (s : State) (n : Nat) : Nat := stFld s n 9
def stSpillBytes (s : State) (n : Nat) : Nat := stFld s n 11
def stRb (s : State) (n : Nat) : Nat := stFld s n 12
def stMode (s : State) (n : Nat) : Nat := stFld s n 13

/-- Record size of an input (R243). -/
def recSize (s : State) (n : Nat) : Nat := if isWinnow n then stRb s n else stKw s n + stPw s n

/-- A 64-bit table entry. -/
def entry64 (e : List Nat) : Nat := e.getD 0 0 + e.getD 1 0 * 2 ^ 32

/-! ## Aborts (R259) -/

/-- Where a stage sends on a furrow (R69, R241). -/
def stageDst (s : State) (n f : Nat) : Addr :=
  match (enum (furrowTab s f 0)).find? fun e => isStageWord s n (e.2.getD 0 0) with
  | none => 0
  | some (i, _) => memberAddr (destWord s f i)

/-- Output furrows of a stage. -/
def stOuts (s : State) (n : Nat) : List Nat := if isWinnow n && stMode s n == 1 then [stOut s n, stOut2 s n] else [stOut s n]

/-- The abort marker of an output transfer: MOVE_DONE with the fault, sent towards its destination (log 24); it has the SEQ of a
transfer that has begun. -/
def sendMarker (s : State) (n : Nat) (code : Half) (f : Nat) : State :=
  let (s, seq) := match (stage s n).begun with
    | some b => (s, b.1)
    | none => takeMoveSeq s (1024 + n) f
  send s (1222 + n) (mkPkt (ownAddr s) (stageDst s n f) 7 pMoveDone (BitVec.ofNat 32 seq) (BitVec.ofNat 32 f) s.fault.epochMax (pack 16 [(0, 2, code.toNat)]))

/-- Packets that wait for a stage are discarded. -/
def dropInputs (s : State) (n : Nat) : State :=
  { s with delivered := s.delivered.filter fun d => !(d.p.op == pMoveData && (toStage s d.p).any fun q => q.1 == n) }

/-- A job is aborted: its outputs end with a marker, one STAGE_ABORT entry, the stage is fenced, and what waits for it is
discarded. -/
def stageAbort (s : State) (n : Nat) (code : Half) : State :=
  let s := (stOuts s n).foldl (fun s f => sendMarker s n code f) s
  let job := (stage s n).jobs
  let s := modStage (dropInputs s n) n fun x => { fenced := true, ceCount := x.ceCount, lastFault := code, jobs := x.jobs, out := x.out }
  if code = fGranaryFail then
    tally s { kind := kStageAbort, utype := uStage, unit := n, fault := code, body := pack 40 [(0, 4, job.toNat)] }
  else raiseBy s code uStage n kStageAbort (pack 40 [(0, 4, job.toNat)])

/-- Running stages with a source member that is hedged lose it (Table 8-6). -/
def stageOnHedge (s : State) : State :=
  (List.range 24).foldl (fun s n =>
    let lost := (stTab s n 0).any fun e =>
      let f := e.getD 0 0 % 256
      (enum (furrowTab s f 0)).any fun m =>
        let src := (memberAddr (m.2.getD 0 0)).toNat
        isStageWord s n (destWord s f m.1) &&
          (targetHedged s src || (src / 1024 == s.plan.deviceId.toNat && portHedged s (src % 1024)))
    if (stage s n).running && lost then stageAbort s n fStageSourceLost else s) s

/-- The stack of a spill window is fenced during a job of its engine (R251). -/
def stageOnFence (s : State) (stack : Nat) : State :=
  (List.range 8).foldl (fun s n =>
    if (stage s n).running && decide (0 < stSpillBytes s n) && stFld s n 10 / 2 ^ 36 == stack then stageAbort s n fGranaryFail else s) s

/-! ## Sorting (R246 to R254) -/

/-- Bytes of a transfer that have come without a gap. -/
def Move.prefixLen (m : Move) : Nat :=
  let sorted := m.have_.mergeSort fun a b => decide (a.1 ≤ b.1)
  (sorted.foldl (fun a h => if h.1 ≤ a then max a (h.1 + h.2) else a) 0) * etypeBits m.etype / 8

/-- Byte length of a transfer. -/
def Move.len (m : Move) : Nat := m.total * etypeBits m.etype / 8

/-- Record `r` of a transfer. -/
def Move.record (m : Move) (rs r : Nat) : List Byte := Mem.reads m.bytes (r * rs) rs

/-- Order word of a key of `w` bytes (R247). -/
def orderWord (ktype w key : Nat) : Nat :=
  let top := 2 ^ (8 * w - 1)
  if ktype = 0 then key
  else if ktype = 1 then key ^^^ top
  else if key < top then key + top else 2 ^ (8 * w) - 1 - key

/-- A sort record: order word, source ordinal, sequence number, bytes. -/
abbrev SortRec := Nat × Nat × Nat × List Byte

/-- Record x does not come after record y (R248). -/
def sortLe (desc : Bool) (x y : SortRec) : Bool :=
  if x.1 ≠ y.1 then (if desc then decide (y.1 < x.1) else decide (x.1 < y.1))
  else decide (x.2.1 < y.2.1) || (x.2.1 == y.2.1 && decide (x.2.2.1 ≤ y.2.2.1))

/-- Records of source `i`. -/
def sourceRecs (s : State) (n i : Nat) (m : Move) (count : Nat) : List SortRec :=
  (List.range count).map fun r =>
    let b := m.record (recSize s n) r
    (orderWord (stKtype s n) (stKw s n) (leAt b 0 (stKw s n)), i, r, b)

/-- The first records, cut at LIMIT (R252). -/
def cutLimit (s : State) (n : Nat) (rs : List SortRec) : List SortRec := if stLimit s n = 0 then rs else rs.take (stLimit s n)

/-- An output record (R246). -/
def outRecord (s : State) (n : Nat) (r : SortRec) : List Byte :=
  if stTag s n = 1 then r.2.2.2 ++ leBytes 8 (r.2.1 * 2 ^ 56 + r.2.2.1) else r.2.2.2

/-- Records of a job in the order of R248. -/
def sortRecs (s : State) (n : Nat) (rs : List SortRec) : List SortRec := rs.mergeSort (sortLe (stDesc s n))

/-- The output of a sort job in the run buffer (R248, R252): its records in order, cut at LIMIT. -/
def sortOutput (s : State) (n : Nat) : List (List Byte) :=
  let all := (stage s n).srcs.flatMap fun e => sourceRecs s n e.1 e.2 (e.2.len / max (recSize s n) 1)
  (cutLimit s n (sortRecs s n all)).map (outRecord s n)

/-- Records of a job, when every source's transfer has begun. -/
def jobRecords (s : State) (n : Nat) : Option Nat :=
  let x := stage s n
  if x.srcs.length = stSources s n then some ((x.srcs.map fun e => e.2.len / max (recSize s n) 1).foldl (· + ·) 0) else none

/-- Runs of a job of `k` records, and the passes before its final merge (R250). -/
def sortRuns (k : Nat) : Nat := cdiv k 65536
def sortPasses (k : Nat) : Nat := ((List.range 40).find? fun p => decide (cdiv (sortRuns k) (64 ^ p) ≤ 64)).getD 40

/-- Every input transfer of the job has come whole. -/
def jobWhole (s : State) (n : Nat) : Bool := (stage s n).srcs.length == stSources s n && (stage s n).srcs.all fun e => e.2.whole

/-! ## The spill window (R249 to R251, log 83) -/

/-- Bytes of a spill record: the record and its origin tag. -/
def spillSize (s : State) (n : Nat) : Nat := stKw s n + stPw s n + 8

/-- First byte of a half of the window. -/
def spillBase (s : State) (n half : Nat) : Nat := stFld s n 10 + half % 2 * (stSpillBytes s n / 2)

/-- Records written to a half from record `at_` on. -/
def spillPut (s : State) (n half at_ : Nat) (rs : List SortRec) : State :=
  let bs := rs.flatMap fun r => r.2.2.2 ++ leBytes 8 (r.2.1 * 2 ^ 56 + r.2.2.1)
  { s with gran := Mem.writes s.gran (spillBase s n half + at_ * spillSize s n) bs }

/-- The records a half holds. -/
def spillRecs (s : State) (n half k : Nat) : List SortRec :=
  (List.range k).map fun i =>
    let b := Mem.reads s.gran (spillBase s n half + i * spillSize s n) (spillSize s n)
    let tag := leAt b (spillSize s n - 8) 8
    (orderWord (stKtype s n) (stKw s n) (leAt b 0 (stKw s n)), tag / 2 ^ 56, tag % 2 ^ 48, b.take (spillSize s n - 8))

/-- A list in blocks of `m`. -/
def blocksOf {α : Type} (m : Nat) (xs : List α) : List (List α) :=
  (List.range (cdiv xs.length m)).map fun i => (xs.drop (m * i)).take m

/-- Records of the job that have come without a gap, in ascending source ordinal and sequence number. -/
def arrivedRecs (s : State) (n : Nat) : Nat :=
  ((stage s n).srcs.foldl (fun (a : Nat × Bool) e =>
    if a.2 then (a.1 + e.2.prefixLen / max (recSize s n) 1, e.2.whole) else a) (0, true)).1

/-- The runs whose records have come are formed and written; with the last of them the job's merging begins (R250). -/
def formRuns (s : State) (n : Nat) : State :=
  let x := stage s n
  match jobRecords s n with
  | none => s
  | some k =>
    if !x.spill || x.pass != 0 then s
    else
      let have_ := arrivedRecs s n
      let upto := if have_ = k then sortRuns k else have_ / 65536
      let recs := x.srcs.flatMap fun e => sourceRecs s n e.1 e.2 (e.2.len / max (recSize s n) 1)
      let runs := (blocksOf 65536 recs).drop x.runs
      let s := (enum (runs.take (upto - x.runs))).foldl (fun s e => spillPut s n 0 (65536 * (x.runs + e.1)) (sortRecs s n e.2)) s
      modStage s n fun x => { x with runs := upto, pass := if have_ = k then 1 else 0 }

/-- A sort job's path, once its record count is known (R249); a spill onto a fenced stack is aborted (R251). -/
def sortStart (s : State) (n : Nat) : State :=
  match jobRecords s n with
  | none => s
  | some k =>
    if k ≤ 65536 ∨ (1 ≤ stLimit s n ∧ stLimit s n ≤ 65536) ∨ stPresorted s n then s
    else
      let need := k * spillSize s n * (if 64 < sortRuns k then 2 else 1)
      if stSpillBytes s n < need then stageAbort s n fSortSpill
      else if stackFenced s (stFld s n 10 / 2 ^ 36) then stageAbort s n fGranaryFail
      else modStage s n fun x => { x with spill := true }

/-- Two consecutive records of a source are out of order (R253). -/
def disordered (s : State) (n i : Nat) (m : Move) : Bool :=
  let rs := sourceRecs s n i m (m.prefixLen / max (recSize s n) 1)
  (rs.zip (rs.drop 1)).any fun p => !sortLe (stDesc s n) p.1 p.2

/-! ## Output transfers (R243, R253) -/

/-- The provenance trailer of a stage's transfer issued now. -/
def stageTrailer (s : State) (n f : Nat) : List Byte := (withTrailer s f (isStageWord s n) false 0 32 []).2

/-- The packets of an output transfer of UINT32 elements. -/
def stagePkts (s : State) (n f seq : Nat) (trailer : List Byte) (total : Nat) (bs : List Byte) : List Pkt :=
  movePkts s (ownAddr s) (stageDst s n f) f seq (total + trailer.length / 4) 32 bs

/-- A whole output transfer. -/
def stageSend (s : State) (n f : Nat) (bs : List Byte) : State :=
  let tr := stageTrailer s n f
  let (s, seq) := takeMoveSeq s (1024 + n) f
  (stagePkts s n f seq tr (bs.length / 4) (bs ++ tr)).foldl (fun s k => send s (1222 + n) k) s

/-- Bytes of an output record of a sort. -/
def outSize (s : State) (n : Nat) : Nat := recSize s n + 8 * stTag s n

/-- What a presorted job may emit: the records that every source has passed or ended before (R253). -/
def passedRecs (s : State) (n : Nat) : List SortRec :=
  let x := stage s n
  if x.srcs.length = stSources s n then
    let got := x.srcs.map fun e => (e.2, sourceRecs s n e.1 e.2 (e.2.prefixLen / max (recSize s n) 1))
    (sortRecs s n (got.flatMap (·.2))).takeWhile fun r => got.all fun g => g.1.whole || g.2.getLast?.any fun y => sortLe (stDesc s n) r y
  else []

/-- Output bytes of whole records in packets that have left. -/
def sentRecs (s : State) (n : Nat) (pkts : Nat) : Nat := moveBytes * pkts / max (outSize s n) 1

/-- A presorted job's output transfer goes on: the packets leave whose records have all been emitted. -/
def stageEmit (s : State) (n : Nat) : State :=
  let x := stage s n
  match jobRecords s n with
  | none => s
  | some k =>
    let bs := (cutLimit s n (passedRecs s n)).flatMap (outRecord s n)
    let ready := bs.length / moveBytes
    if isWinnow n || !stPresorted s n || decide (ready ≤ x.sent) then s
    else
      let total := (if stLimit s n = 0 then k else min k (stLimit s n)) * outSize s n / 4
      let (s, seq, tr) := match x.begun with
        | some b => (s, b.1, b.2)
        | none =>
          let tr := stageTrailer s n (stOut s n)
          let (s, q) := takeMoveSeq s (1024 + n) (stOut s n)
          (s, q, tr)
      let s := (((stagePkts s n (stOut s n) seq tr total bs).take ready).drop x.sent).foldl (fun s k => send s (1222 + n) k) s
      modStage s n fun y =>
        { y with begun := some (seq, tr), sent := ready, out := y.out + BitVec.ofNat 64 (sentRecs s n ready - sentRecs s n x.sent) }

/-- The output transfer of a job that ends: the whole of it, or what of it is left. -/
def stageFinish (s : State) (n : Nat) (bs : List Byte) : State :=
  match (stage s n).begun with
  | none => stageSend s n (stOut s n) bs
  | some (seq, tr) => ((stagePkts s n (stOut s n) seq tr (bs.length / 4) (bs ++ tr)).drop (stage s n).sent).foldl (fun s k => send s (1222 + n) k) s

/-! ## Movement packets at a stage (R243, R244) -/

/-- SEQ of the transfer of source `i` that the current job takes, or the next one; none where a STAGE_RESET left it open. -/
def stageDue (x : Stage) (i : Nat) : Option Word := (Tab.get none x.due i).orElse fun _ => if x.resync then none else some 0

/-- A MOVE_DATA packet of source `i` at a stage: of the job's transfer, or its first; one of a later job waits (R244). -/
def moveToStage (s : State) (n i : Nat) (k : Pkt) : State :=
  let x := stage s n
  let later (s : State) : State := if (stageDue x i).any fun w => serialAbove w k.seq then taken s k else s
  if !stageOn s n || x.fenced then taken s k
  else
    match x.srcs.find? fun e => e.1 == i with
    | some e =>
      if e.2.src = k.src ∧ e.2.seq = k.seq then
        if e.2.whole then taken s k else put (taken s k) e.2 false
      else later s
    | none => if (stageDue x i).all fun w => w == k.seq then put (taken s k) (moveOf s k) true else later s
where
  put (s : State) (m0 : Move) (first : Bool) : State :=
    let m := m0.add k
    let s := modStage s n fun x =>
      { x with running := true, due := Tab.set none x.due i (some (k.seq + 1))
               srcs := ((x.srcs.filter fun e => e.1 != i) ++ [(i, m)]).mergeSort fun a b => decide (a.1 ≤ b.1) }
    if m.len % max (recSize s n) 1 ≠ 0 then stageAbort s n fStageRecord
    else
      let s := if first && !isWinnow n && (stage s n).srcs.length == stSources s n then sortStart s n else s
      if (stage s n).fenced then s
      else if !isWinnow n && stPresorted s n && disordered s n i m then stageAbort s n fSortInputOrder
      else
        let s := if m.whole then
            let c := (cropMove s m.furrow k.src m.all).toNat
            sendMoveDone (moveEntry s k uStage n m.total m.etype c 0) (1222 + n) k 0 c
          else s
        stageEmit (formRuns s n) n

/-- MOVE_DATA (R71): to the stage of its furrow, or to a plot (11 R344). Packets of a sealed furrow wait for their
engine (15 R441). -/
def moveData (p : Pkt) (s : State) : State :=
  if p.op ≠ pMoveData then s
  else
    match toStage s p with
    | some (n, i) => moveToStage s n i p
    | none =>
      match plotOf s p with
      | some n => moveToPlot s n p
      | none => taken s p

def execMoveData (p : Pkt) (s : State) : Out := onPkt p s (moveData p)

/-- A transfer whose sender ended it with a fault at a plot that receives it (R259): what has come of it, or still comes, is
discarded, one entry is written, the binding stays armed. -/
def plotMarker (s : State) (n : Nat) (p : Pkt) (code : Half) : State :=
  let m := moveOf s p
  let s := putMove s { m with refused := true }
  let s := { s with delivered := s.delivered.filter fun d =>
    !(d.p.op == pMoveData && d.p.src == p.src && d.p.dst == p.dst && d.p.fcid == p.fcid && d.p.seq == p.seq) }
  moveEntry s p uPlot n m.total m.etype 0 code

/-- A marker of source `i` at a stage: it ends the job whose transfer it names, and one of a later job waits (R244, R260). -/
def stageMarker (s : State) (n i : Nat) (p : Pkt) (code : Half) : State :=
  let x := stage s n
  let cur := (x.srcs.find? fun e => e.1 == i).map (·.2)
  let mine := match cur with
    | some m => m.src == p.src && m.seq == p.seq
    | none => (stageDue x i).all fun w => w == p.seq
  if mine then
    let m := cur.getD (moveOf s p)
    stageAbort (moveEntry (taken s p) p uStage n m.total m.etype 0 code) n fStageSourceLost
  else if (stageDue x i).any fun w => serialAbove w p.seq then taken s p
  else s

/-- MOVE_DONE (R71, R221, R259): a transfer that a plot sent has ended, or a marker ends one that a plot or
stage receives. -/
def moveDone (p : Pkt) (s : State) : State :=
  let code := BitVec.ofNat 16 (leAt p.payload 0 2)
  if p.op ≠ pMoveDone then s
  else
    match toStage s p with
    | some (n, i) => if code = 0 ∨ (stage s n).fenced ∨ !stageOn s n then taken s p else stageMarker s n i p code
    | none =>
      let s := taken s p
      match plotOf s p with
      | some n =>
        if moveDst s (p.fcid.toNat % 256) p.dst = p.src then if code = 0 then s else peerAbort s n code.toNat
        else if code = 0 then s else plotMarker s n p code
      | none => s

def execMoveDone (p : Pkt) (s : State) : Out := onPkt p s (moveDone p)

/-! ## Winnow programs (R255 to R257) -/

/-- Registers and predicates of a winnow program. -/
structure WinnowRegs where
  g : List Nat
  p : List Bool
  deriving DecidableEq, Repr

/-- Signed value of 64 bits. -/
def s64 (x : Nat) : Int := (BitVec.ofNat 64 x).toInt

/-- The binary64 format. -/
abbrev fp64 : Fmt := { eb := 11, fb := 52, bias := 1023, sp := 2 }

/-- FP compare of two registers at width W: less, and equal. -/
def winFloat (w a b : Nat) : Bool × Bool :=
  let v (x : Nat) : FVal := if w = 2 then decodeF fp32 (x % 2 ^ 32) else decodeF fp64 x
  let key (x : Nat) : Int :=
    let (n, top) := if w = 2 then (x % 2 ^ 32, 2 ^ 31) else (x, 2 ^ 63)
    if n < top then n else -((n - top : Nat) : Int)
  if v a = .nan ∨ v b = .nan then (false, false) else (decide (key a < key b), decide (key a = key b))

/-- One instruction (Tables 8-3, 8-4) on a record. -/
def winnowStep (record : List Byte) (r : WinnowRegs) (ins : Nat) : WinnowRegs :=
  let d := bits ins 57 55
  let ga := r.g.getD (bits ins 54 52) 0
  let gb := r.g.getD (bits ins 51 49) 0
  let pa := r.p.getD (bits ins 54 52) false
  let pb := r.p.getD (bits ins 51 49) false
  let imm := bits ins 31 0
  let w := bits ins 48 47
  let setG (v : Nat) : WinnowRegs := { r with g := r.g.set d (v % 2 ^ 64) }
  let setP (b : Bool) : WinnowRegs := { r with p := r.p.set d b }
  match bits ins 63 58 with
  | 0x01 =>
    let n := 2 ^ w
    let v := leAt record (bits ins 45 40) n
    setG (if bit ins 46 && bit v (8 * n - 1) then v + (2 ^ 64 - 2 ^ (8 * n)) else v)
  | 0x02 => setG (if bit imm 31 then imm + (2 ^ 64 - 2 ^ 32) else imm)
  | 0x03 => setG (imm * 2 ^ 32 + (r.g.getD d 0) % 2 ^ 32)
  | 0x04 => setG ga
  | 0x08 => setG (ga + gb)
  | 0x09 => setG (ga + 2 ^ 64 - gb)
  | 0x0A => setG (ga &&& gb)
  | 0x0B => setG (ga ||| gb)
  | 0x0C => setG (ga ^^^ gb)
  | 0x0D => setG (ga <<< (imm % 64))
  | 0x0E => setG (ga >>> (imm % 64))
  | 0x0F => setG (mix64 (ga ^^^ gb))
  | 0x10 => setP (ga == gb)
  | 0x11 => setP (ga != gb)
  | 0x12 => setP (decide (ga < gb))
  | 0x13 => setP (decide (ga ≤ gb))
  | 0x14 => setP (decide (s64 ga < s64 gb))
  | 0x15 => setP (decide (s64 ga ≤ s64 gb))
  | 0x16 => setP (winFloat w ga gb).1
  | 0x17 => let c := winFloat w ga gb; setP (c.1 || c.2)
  | 0x18 =>
    let n := if w = 2 then 4 else 8
    setP (decide (orderWord 2 n (ga % 2 ^ (8 * n)) < orderWord 2 n (gb % 2 ^ (8 * n))))
  | 0x20 => setP (pa && pb)
  | 0x21 => setP (pa || pb)
  | 0x22 => setP (pa != pb)
  | 0x23 => setP (!pa)
  | 0x24 => setP (bit imm 0)
  | _ => r

/-- A record is kept (R255). -/
def winnowKeeps (consts prog : List Nat) (record : List Byte) : Bool :=
  ((prog.foldl (winnowStep record) { g := consts, p := List.replicate 8 false }).p.getD 0 false)

/-- WINNOW_RECORD: the next record that has come. -/
def winnowRecord (n : Nat) (s : State) : State :=
  let x := stage s n
  match x.srcs with
  | [] => s
  | e :: _ =>
    if !isWinnow n || !x.running || decide (e.2.prefixLen < (x.taken + 1) * stRb s n) || decide (stRb s n = 0) then s
    else
      let r := e.2.record (stRb s n) x.taken
      let keep := winnowKeeps ((stTab s n 1).map entry64) ((stTab s n 2).map entry64) r
      modStage s n fun x =>
        { x with taken := x.taken + 1, kept := if keep then x.kept ++ [r] else x.kept
                 rejected := if keep then x.rejected else x.rejected ++ [r] }

def execWinnowRecord (st : Fin 24) (s : State) : Out := event s (winnowRecord st.val)

/-! ## Ends of jobs (R250, R257, R262) -/

/-- A corrected bit of a buffer or spill read (Table 8-6). -/
def stageCe (s : State) (n : Nat) : State := raise (modStage s n fun x => { x with ceCount := satInc x.ceCount }) fStageCe uStage n

/-- MERGE_PASS: a merge pass before the final merge ends: groups of 64 runs are merged into runs of the next pass, in the other
half of the window. `e` is the ECC of its spill reads. -/
def mergePass (n : Nat) (e : Ecc) (s : State) : State :=
  let x := stage s n
  let k := (jobRecords s n).getD 0
  if !x.spill || x.pass == 0 || decide (sortPasses k < x.pass) then s
  else if e = .ue then stageAbort s n fStageUe
  else
    let m := 65536 * 64 ^ x.pass
    let s := (enum (blocksOf m (spillRecs s n (x.pass - 1) k))).foldl (fun s b => spillPut s n x.pass (m * b.1) (sortRecs s n b.2)) s
    modStage (if e = .ce then stageCe s n else s) n fun x => { x with pass := x.pass + 1 }

def execMergePass (st : Fin 24) (e : Ecc) (s : State) : Out := event s (mergePass st.val e)

/-- STAGE_DONE: every record has been taken and merged; the job's output leaves. `e` is the ECC of the run
buffer and the final merge's spill reads. -/
def stageDone (n : Nat) (e : Ecc) (s : State) : State :=
  let x := stage s n
  let k := (jobRecords s n).getD 0
  let passes := if x.spill then sortPasses k else 0
  if !x.running || x.fenced || !jobWhole s n || (isWinnow n && x.taken != k) || (x.spill && x.pass != passes + 1) then s
  else if e = .ue then stageAbort s n fStageUe
  else
    let s := if e = .ce then stageCe s n else s
    let recs := if isWinnow n then x.kept
      else if x.spill then (cutLimit s n (sortRecs s n (spillRecs s n passes k))).map (outRecord s n)
      else sortOutput s n
    let bs := if isWinnow n && stMode s n == 2 then [] else recs.flatten
    let s := stageFinish s n bs
    let s := if isWinnow n && stMode s n == 1 then stageSend s n (stOut2 s n) x.rejected.flatten else s
    let job := (stage s n).jobs
    let s := modStage s n fun y =>
      { ceCount := y.ceCount, lastFault := y.lastFault, jobs := y.jobs + 1, due := y.due, resync := y.resync
        out := y.out + BitVec.ofNat 64 (recs.length - sentRecs s n y.sent) }
    tally s { kind := kStageDone, utype := uStage, unit := n,
              body := pack 40 [(0, 4, job.toNat), (4, 1, passes), (8, 8, k), (16, 8, recs.length), (24, 8, (crop bs).toNat)] }

def execStageDone (st : Fin 24) (e : Ecc) (s : State) : Out := event s (stageDone st.val e)

/-- STAGE_RESET (R261): on a stage that is not fenced, one whose epoch was applied already changes nothing. -/
def stageReset (c : Cmd) (s : State) : State :=
  let n := c.u 0 1
  let k := Tab.get {} s.recov (objKey 3 n)
  let again := k.valid && k.epoch == c.epoch
  recovery oStageReset c uStage n (objKey 3 n) n s fun s =>
    if again && !(stage s n).fenced then s
    else modStage s n fun x => { ceCount := x.ceCount, lastFault := x.lastFault, out := x.out, resync := true }

def execStageReset (c : Cmd) (s : State) : Out := onCmd oStageReset c [(0, 1)] (decide (c.u 0 1 < 24)) s (stageReset c)

end Sys2Proof.Machine
end

