-- ==== Sys2Proof/Machine/Areas.lean ====
section
/-!
DEFINITION. Areas of the granary: a share's areas (04 R108 to R112, R137), the spill windows, the Cellar's regions, the
source state region and the plan loft (14 R395, R396).
-/

namespace Sys2Proof.Machine
open Sys2Proof

/-- Factor areas that group records name (R127). -/
def factorAreas (rule : Nat) (gs : List (List Byte)) : List (Nat × Nat) :=
  if rule = 2 then gs.map fun b => (factorAddr b 0, factorOff (gRows b) (gCols b) 8) else []

/-- Every area of a share, its group table as the granary holds it. -/
def shareAreas (s : State) (sh : Nat) : List (Nat × Nat) :=
  shareBaseAreas s sh ++ factorAreas (shRule s sh) ((List.range (shGroups s sh)).map fun g => groupRec s sh g)

/-- Shares whose feed is active (R137). -/
def activeShares (s : State) : List Nat :=
  ((planRecs s 0x0A 0x01).map (·.index)).filter fun sh => (shareSt s sh).feedActive

/-- The access meets an area of a share whose feed is active. -/
def inActiveShare (s : State) (a n : Nat) : Bool := (activeShares s).any fun sh => meetsArea (shareAreas s sh) a n

/-- The plan loft (09 R272) and the source state region (14 R396). -/
def loftArea : Nat × Nat := (0x3FC0000000, 2 ^ 30)
def sourceArea : Nat × Nat := (0x2F00000000, 2 ^ 32)

/-- Spill windows of the plan (08 R251). -/
def spillAreas (s : State) : List (Nat × Nat) := (planRecs s 0x07 0x02).map fun r => (r.fld 10, r.fld 11)

/-- Cellar regions of the plan (15 Table 15-3). -/
def regionAreas (s : State) : List (Nat × Nat) := (planRecs s 0x0B 0x04).map fun r => (r.fld 0, r.fld 1 * 2 ^ 21)

/-- What no fabric access reaches (R395). -/
def reservedAreas (s : State) : List (Nat × Nat) := [loftArea, sourceArea] ++ spillAreas s ++ regionAreas s

end Sys2Proof.Machine
end

