-- ==== Sys2Proof/Machine/Audit.lean ====
section
/-!
DEFINITION. Provenance hashes (16 R465, R466).
-/

namespace Sys2Proof.Machine
open Sys2Proof

/-- Recovery object of a provenance register. -/
def pregObj (r : Nat) : Nat := objKey 6 r

/-- A PROV_DONE entry (17 Table 17-13) that completes a command. -/
def provEntry (s : State) (c : Cmd) (code : Half) (hash : List Byte) (nm : Bool) : State :=
  complete s c { kind := kProvDone, utype := uProv, unit := c.u 16 1, fault := code, n := nm, body := pack 8 [(0, 8, c.u 24 8)] ++ slice hash 0 32 }

/-- A provenance fault (R466). -/
def provRaise (s : State) (c : Cmd) (code : Half) : State :=
  let s := raiseCount s code uProv (c.u 16 1)
  { s with audit := { s.audit with provFault := code } }

/-- The entry of a register's last hash once more (R465). -/
def provRepeat (s : State) (c : Cmd) : State :=
  let r := c.u 16 1
  let code := Tab.get 0 s.audit.provEnd r
  if code = 0 then provEntry s c 0 (preg s r).1 (preg s r).2 else provEntry s c code [] false

/-- Two entries of one command: the same key and body (17 R490). -/
def provSame (c d : Cmd) : Bool := d.body == c.body && d.epoch == c.epoch && d.auth == c.auth

/-- PROV_HASH: queued, refused, or repeated. -/
def provHash (c : Cmd) (s : State) : State :=
  let r := c.u 16 1
  let queue (s : State) : State := { s with audit := { s.audit with provQ := s.audit.provQ ++ [{ cmd := c }] } }
  if !s.clk.readyGranary then cmdDone s c oProvHash stUnitState
  else if 2 ^ 38 < c.u 0 8 + c.u 8 8 then cmdDone s c oProvHash stRange
  else if meetsArea (reservedAreas s) (c.u 0 8) (c.u 8 8) then provEntry (provRaise s c fProvRange) c fProvRange [] false
  else
    match rank s (Tab.get {} s.recov (pregObj r)) c with
    | .refusedWith st => cmdDone s c oProvHash st
    | .same => if (s.audit.provQ.any fun j => provSame c j.cmd) && decide (s.audit.provQ.length < 8) then queue s else provRepeat s c
    | .applied => if 8 ≤ s.audit.provQ.length then cmdDone s c oProvHash stUnitState else queue (keep s (pregObj r) c)

def execProvHash (c : Cmd) (s : State) : Out :=
  onCmd oProvHash c [(0, 8), (8, 8), (16, 1), (24, 8)] (decide (c.u 0 8 % 128 = 0) && decide (c.u 8 8 ≤ 2 ^ 36)) s (provHash c)

/-- A stack with bytes of the range is fenced. -/
def provFenced (s : State) (c : Cmd) : Bool :=
  (List.range 4).any fun k => rangeMeets (c.u 0 8) (c.u 8 8) (k * 2 ^ 36) (2 ^ 36) && (Tab.get {} s.granCtl k).fenced

/-- A hash has ended with `code`: its register, and the entries of its command and of every repeat that waits. -/
def provEnds (s : State) (j : ProvJob) (code : Half) : State :=
  let c := j.cmd
  let cs := (s.audit.provQ.filter fun x => provSame c x.cmd).map (·.cmd)
  let a := s.audit
  let a := { a with provQ := a.provQ.filter fun x => !provSame c x.cmd, provEnd := Tab.set 0 a.provEnd (c.u 16 1) code }
  let a := if code = 0 then { a with pregs := Tab.set (List.replicate 32 0, false) a.pregs (c.u 16 1) (sha256 (Mem.reads s.gran (c.u 0 8) (c.u 8 8)), j.n) } else a
  cs.foldl provRepeat { s with audit := a }

/-- PROV_DONE: the hash that runs on a die ends. `errs` are the errors of its reads, each the stack and whether it was a
double-bit one (18 R501). -/
def provDone (die : Nat) (errs : List (Fin 4 × Bool)) (s : State) : State :=
  match s.audit.provQ.find? fun j => provDie j == die with
  | none => s
  | some j =>
    let c := j.cmd
    if !provRuns s j then s
    else if meetsArea (reservedAreas s) (c.u 0 8) (c.u 8 8) then provEnds (provRaise s c fProvRange) j fProvRange
    else
      let s := errs.foldl (fun s x => if x.2 then granUe s x.1.val else granCe s x.1.val) s
      if provFenced s c || errs.any (·.2) then provEnds (provRaise s c fProvUe) j fProvUe else provEnds s j 0

def execProvDone (die : Fin 2) (errs : List (Fin 4 × Bool)) (s : State) : Out := event s (provDone die.val errs)

end Sys2Proof.Machine
end

