-- ==== Sys2Proof/Machine/Cellar.lean ====
section
/-!
DEFINITION. The Cellar (15): key commands, sealed chunks at the engines, the encrypt and keyed digest exit units.
-/

namespace Sys2Proof.Machine
open Sys2Proof

/-! ## Key slots (R433 to R437) -/

def keySlot (s : State) (k : Nat) : KeySlot := Tab.get {} s.cellar.slots k
def modCellar (s : State) (f : Cellar → Cellar) : State := { s with cellar := f s.cellar }

/-- Slot `k` set; its IV counters start anew. -/
def setKey (s : State) (k : Nat) (x : KeySlot) : State :=
  modCellar s fun c => { c with slots := Tab.set {} c.slots k x, used := c.used.filter fun e => e.1 % 1024 != k }

/-- Every slot EMPTY (R437). -/
def eraseKeys (s : State) : State := modCellar s fun c => { c with slots := [], used := [] }

/-- An uncorrectable or disagreeing slot: erased in both copies (R437). -/
def keyUe (s : State) (k : Nat) : State := raise (setKey s k {}) fCellarKeyUe uDevice 0

/-- Uses of a key: bits of USE. -/
abbrev useDecrypt : Nat := 0
abbrev useEncrypt : Nat := 1
abbrev useDigest : Nat := 2
abbrev useWrap : Nat := 3

/-- The key of a slot that is LOADED with a use. -/
def keyFor (s : State) (k use : Nat) : Option (List Byte) :=
  let x := keySlot s k
  if x.loaded && bit x.use.toNat use then some x.key else none

/-- Recovery object of a key slot. -/
def keyObj (k : Nat) : Nat := objKey 5 k

/-- A key command completes; VALUE0 is the slot's epoch (R453). -/
def keyDone (s : State) (c : Cmd) (op : Half) (k status : Nat) : State :=
  cmdDone s c op status (Tab.get {} s.recov (keyObj k)).epoch.toNat

/-- Fields of a KEY_LOAD body (Table 15-2). -/
def klSlot (c : Cmd) : Nat := bits (c.u 0 2) 9 0
def klWrapped (c : Cmd) : Bool := bit (c.u 0 2) 14
def klWrapSlot (c : Cmd) : Nat := bits (c.u 2 2) 9 0

/-- The key a load gives the slot; none when it does not unwrap (R435). -/
def loadedKey (s : State) (c : Cmd) : Option (List Byte) :=
  if klWrapped c then
    if klWrapSlot c = klSlot c then none
    else (keyFor s (klWrapSlot c) useWrap).bind fun kek => unwrap kek 4 (slice c.body 24 40)
  else some (slice c.body 24 32)

/-- KEY_LOAD in either form. -/
def keyLoad (c : Cmd) (s : State) : State :=
  let k := klSlot c
  match rank s (Tab.get {} s.recov (keyObj k)) c with
  | .refusedWith st => keyDone s c oKeyLoad k st
  | .same => keyDone s c oKeyLoad k stOk
  | .applied =>
    if (keySlot s k).loaded then keyDone s c oKeyLoad k stSlotState
    else
      match loadedKey s c with
      | none => keyDone s c oKeyLoad k stUnwrap
      | some key =>
        keyDone (setKey (keep s (keyObj k) c) k
          { loaded := true, use := BitVec.ofNat 4 (bits (c.u 0 2) 13 10), wrapped := klWrapped c, label := BitVec.ofNat 32 (c.u 4 4)
            ivBase := BitVec.ofNat 64 (c.u 8 8), key }) c oKeyLoad k stOk

/-- The format of a KEY_LOAD body (Table 15-2, R435). -/
def keyLoadOk (c : Cmd) : Bool :=
  bits (c.u 0 2) 13 10 != 0 && !bit (c.u 0 2) 15 && decide (c.u 2 2 < 1024) && c.u 16 4 == c.epoch.toNat &&
    (klWrapped c || (c.u 2 2 == 0 && c.u 56 8 == 0))

def keyLoadFields : List (Nat × Nat) := [(0, 20), (24, 40)]

def execKeyLoadClear (c : Cmd) (s : State) : Out := onCmd oKeyLoad c keyLoadFields (keyLoadOk c) s (keyLoad c)
def execKeyLoadWrapped (c : Cmd) (s : State) : Out := onCmd oKeyLoad c keyLoadFields (keyLoadOk c) s (keyLoad c)

/-- KEY_ERASE. -/
def keyErase (c : Cmd) (s : State) : State :=
  let k := c.u 0 2
  match rank s (Tab.get {} s.recov (keyObj k)) c with
  | .refusedWith st => keyDone s c oKeyErase k st
  | .same => keyDone s c oKeyErase k stOk
  | .applied => keyDone (setKey (keep s (keyObj k) c) k {}) c oKeyErase k stOk

def execKeyErase (c : Cmd) (s : State) : Out :=
  onCmd oKeyErase c [(0, 2), (16, 4)] (decide (c.u 0 2 < 1024) && c.u 16 4 == c.epoch.toNat) s (keyErase c)

def execKeyEraseAll (c : Cmd) (s : State) : Out :=
  onCmd oKeyEraseAll c [] true s fun s => cmdDone (eraseKeys s) c oKeyEraseAll stOk

/-! ## Sealed chunks (R440 to R442) -/

def sealMagic : Nat := 0x43454C31

/-- Decryption of ciphertext bytes `[a, a + n)` under GCM's counter stream. -/
def sealPlain (key iv ct : List Byte) (a n : Nat) : List Byte := slice (gcmXor key iv ct) a n

/-- The header checks of a first packet before its key slot is read: CELLAR_CHUNK or CELLAR_KEY, or the slot (R441). -/
def sealHeader (s : State) (r : BindRec) (total et : Nat) (h : List Byte) : Half ⊕ Nat :=
  let ct := leAt h 8 4
  let slot := leAt h 4 2 % 1024
  let sealed_ := planRec s 0x0B 0x02 r.furrow
  if decide (h.length < 32) || leAt h 0 4 != sealMagic || leAt h 4 2 / 1024 != 0 || leAt h 6 2 != 0 || leAt h 28 4 != 0 ||
      decide (ct % 4 ≠ 0) || decide (4194304 < ct) || et != 7 || total != (48 + ct) / 4 || decide (r.lines < cdiv ct 128) then .inl fCellarChunk
  else
    if (sealed_.map fun x => decide (x.fld 0 ≤ slot) && decide (slot ≤ x.fld 1)).getD false then .inr slot else .inl fCellarKey

/-- Engine that serves a port, and the port of an endpoint address. -/
def engineOf (s : State) (n : Nat) : Nat :=
  ((planRecs s 0x0B 0x01).find? fun r => (r.tab 0).any fun e => e.getD 0 0 % 1024 == n).map (·.index) |>.getD 0

def sameRun (x y : SealedRun) : Bool := x.src == y.src && x.furrow == y.furrow && x.seq == y.seq

/-- The run forgotten. -/
def endRun (s : State) (x : SealedRun) : State := modCellar s fun c => { c with runs := c.runs.filter (!sameRun · x) }

/-- The run kept. -/
def putRun (s : State) (x : SealedRun) : State := modCellar (endRun s x) fun c => { c with runs := c.runs ++ [x] }

/-- The packet is the last of its transfer. -/
def lastPacket (k : Pkt) : Bool := decide (4 * moveTotal k ≤ 4 * (leAt k.payload 0 8 % 2 ^ 40) + (4 * k.len.toNat - 16))

/-- The binding lines a chunk has written, to zero but still tainted. -/
def zeroRun (s : State) (x : SealedRun) (r : BindRec) : State :=
  let n := cdiv (min x.ctLen (x.bytes.length - 32)) 128
  if n = 0 then s else bindWrite s x.plot r 0 (List.replicate (128 * n) 0) true

/-- A chunk that fails a check (R442): as if it had never arrived. Its later packets, if `more` come, are discarded. -/
def dropChunk (s : State) (x : SealedRun) (r : BindRec) (k : Pkt) (more : Bool) (code : Half) : State :=
  let s := if more then putRun (zeroRun s x r) { x with dropped := true } else endRun (zeroRun s x r) x
  let s := modCellar s fun c => { c with dropped := satInc c.dropped }
  let n := fieldOf x.src
  let s := raiseBy s code uCellar (engineOf s n) kCellarDrop
    (pack 40 [(0, 1, x.furrow), (2, 2, n), (4, 2, x.slot), (8, 4, x.tag)])
  sendMoveDone s (1216 + x.plot / 16) k code 0

/-- A packet of another chunk of its sender's breaks a chunk that has not ended: its order is broken, CELLAR_CHUNK (R441, log 99). -/
def breakChunk (s : State) (p : Pkt) : State :=
  match s.cellar.runs.find? fun y => y.src == p.src && !y.dropped with
  | none => s
  | some y =>
    match (bindRecs s y.plot)[y.bind]? with
    | none => s
    | some r =>
      dropChunk s y r { p with dst := plotAddr s y.plot, seq := y.seq, fcid := BitVec.ofNat 32 y.furrow } true fCellarChunk

/-- A chunk whose tag holds completes its binding and its transfer (R442). -/
def chunkDone (s : State) (x : SealedRun) (b : Nat) (k : Pkt) (total : Nat) : State :=
  let s := modCellar (endRun s x) fun c => { c with chunks := satInc c.chunks }
  let c := (crop x.bytes).toNat
  let s := sendMoveDone (moveEntry s k uPlot x.plot total 7 c 0) (1216 + x.plot / 16) k 0 c
  bindComplete (modBind s x.plot b fun y => { y with tag := x.tag }) x.plot b

/-- A packet of a chunk joins it: its plaintext is written tainted, and the tag is checked at the last one. -/
def chunkBytes (s : State) (x : SealedRun) (b : Nat) (r : BindRec) (k : Pkt) (total : Nat) : State :=
  let off := 4 * (leAt k.payload 0 8 % 2 ^ 40)
  let bs := slice k.payload 16 (min (4 * k.len.toNat - 16) (4 * total - off))
  if off ≠ x.bytes.length then dropChunk s x r k (!lastPacket k) fCellarChunk
  else
    let y := { x with bytes := x.bytes ++ bs }
    let lo := x.bytes.length - 32
    let hi := min y.ctLen (y.bytes.length - 32)
    let iv := slice y.bytes 16 12
    let ct := (y.bytes.drop 32).take y.ctLen
    let plain := sealPlain y.key iv ct lo (hi - lo)
    let plain := if hi = y.ctLen then plain ++ List.replicate (cdiv hi 128 * 128 - hi) 0 else plain
    let s := if lo < hi then bindWrite s y.plot r lo plain true else s
    if y.bytes.length < 4 * total then putRun s y
    else if gcmTag y.key iv (y.bytes.take 32) ct = y.bytes.drop (32 + y.ctLen) then chunkDone s y b k total
    else dropChunk s y r k false fCellarTag

/-- SEALED_CHUNK_PACKET (R441): a delivered MOVE_DATA packet of a sealed binding passes its engine. `e` is how the read
of its key slot went. -/
def sealedPacket (p : Pkt) (e : Ecc) (s : State) : State :=
  let f := p.fcid.toNat % 256
  match (plotOf s p).bind fun pl => (findBind s pl 0 f).map fun b => (pl, b) with
  | none => s
  | some (pl, b, r) =>
    if !(s.delivered.any fun d => d.p == p) || p.op != pMoveData || !isSealed s pl r then s
    else
      let total := moveTotal p
      let new : SealedRun := { src := p.src, furrow := f, seq := p.seq, plot := pl, bind := b }
      match s.cellar.runs.find? (sameRun · new) with
      | some x => if x.dropped then (if lastPacket p then endRun (taken s p) x else taken s p) else chunkBytes (taken s p) x b r p total
      | none =>
        if !bindOpen s pl b || s.cellar.runs.any (fun y => y.plot == pl && y.bind == b && !y.dropped) then s
        else if stillRead (plot s pl) r.span then arrivalHazard s pl
        else
          let s := taken s p
          let h := slice p.payload 16 (4 * p.len.toNat - 16)
          let slot := leAt h 4 2 % 1024
          let s := breakChunk s p
          let x := { new with slot, tag := leAt h 12 4, ctLen := leAt h 8 4 }
          match (if leAt p.payload 0 8 % 2 ^ 40 = 0 then sealHeader s r total (moveEtype p) h else .inl fCellarChunk) with
          | .inl code => dropChunk s x r p (!lastPacket p) code
          | .inr k =>
            let s := if e = .ue then keyUe s k else s
            match keyFor s k useDecrypt with
            | none => dropChunk s x r p (!lastPacket p) fCellarKey
            | some key => chunkBytes s { x with key } b r p total

def execSealedChunkPacket (p : Pkt) (e : Ecc) (s : State) : Out := onPkt p s (sealedPacket p e)

/-! ## Exit units (R445 to R449) -/

/-- The EXIT record of a channel. -/
def exitRec (s : State) (p tag : Nat) : Option PlanRec := planRec s 0x0B 0x03 (64 * p + tag % 64)

/-- The Cellar entry at the head of a plot's tile queue, when its channel has a KIND. -/
def exitHead (s : State) (kind p : Nat) : Option (TileEntry × PlanRec) :=
  match (plot s p).tq with
  | [] => none
  | t :: _ => if t.tag < 128 then none else ((exitRec s p t.tag).filter fun r => r.fld 0 == kind).map fun r => (t, r)

/-- The plot an exit unit serves next: in rotation after the one served last. -/
def exitPlot (s : State) (kind die : Nat) : Option Nat :=
  let last := Tab.get 0 s.cellar.last (2 * die + kind)
  ((List.range 16).map fun i => 16 * die + (last + i) % 16).find? fun p => isCellar s p && (exitHead s kind p).isSome

/-- The unit has served the plot. -/
def exitServed (s : State) (kind p : Nat) : State :=
  modCellar s fun c => { c with last := Tab.set 0 c.last (2 * (p / 16) + kind) (p % 16 + 1) }

/-- The entry leaves its tile queue, its plot's time moved to its end, and the unit has served the plot. -/
def exitTake (s : State) (kind p : Nat) (t : TileEntry) : State :=
  let s := plotTo p t.ready s
  let s := modPlot s p fun x => { x with tq := x.tq.tail }
  exitServed s kind p

/-- An exit fault: the plot stops. -/
def exitFault (s : State) (p : Nat) (code : Half) : State := plotAbort s p .seq code { addr := (plot s p).pc.toNat }

/-- The chunk of an ENCRYPT channel (R447, Table 15-4). -/
def sealChunk (key : List Byte) (slot tag ivLo ctr : Nat) (plain : List Byte) : List Byte :=
  let head := pack 32 [(0, 4, sealMagic), (4, 2, slot), (8, 4, plain.length), (12, 4, tag), (16, 4, ivLo), (20, 8, ctr)]
  let iv := slice head 16 12
  let ct := gcmXor key iv plain
  head ++ ct ++ gcmTag key iv head ct

/-- ENCRYPT_EXIT: a die's encrypt unit seals one entry. -/
def encryptExit (die : Nat) (e : Ecc) (s : State) : State :=
  match (exitPlot s 0 die).bind fun p => (exitHead s 0 p).map fun h => (p, h) with
  | none => s
  | some (p, t, r) =>
    let k := r.fld 1
    let s := if e = .ue then keyUe s k else s
    let ch := 64 * p + t.tag % 64
    match keyFor s k useEncrypt with
    | none => exitFault (exitTake s 0 p t) p fCellarKey
    | some key =>
      let ctr := (keySlot s k).ivBase.toNat + Tab.get 0 s.cellar.used (1024 * ch + k)
      if 2 ^ 64 ≤ ctr then
        let s := exitServed s 0 p
        if (plot s p).mode = PlotMode.running then exitFault s p fCellarIv else s
      else
        let s := exitTake s 0 p t
        let ivLo := s.plan.deviceId.toNat * 2 ^ 18 + p * 2 ^ 13 + (t.tag % 64) * 2 ^ 7
        let bs := sealChunk key k t.chunkTag ivLo ctr (t.vals.flatMap (leBytes 4))
        let s := modCellar s fun c => { c with used := Tab.upd 0 c.used (1024 * ch + k) (· + 1), sealedOut := satInc c.sealedOut }
        plotTransfer s p (r.fld 2) (bs.length / 4) 7 bs

def execEncryptExit (die : Fin 2) (e : Ecc) (s : State) : Out := event s (encryptExit die.val e)

/-- The output records of a DIGEST channel (R448, Table 15-5). -/
def digestRecords (key : List Byte) (words dlen tag : Nat) (vals : List Nat) : List (List Byte) :=
  let l := 4 * 2 ^ dlen
  (List.range (vals.length / max words 1)).map fun i =>
    (hmac key (((vals.drop (words * i)).take words).flatMap (leBytes 4))).take l ++ leBytes 4 tag ++ leBytes 4 i

/-- DIGEST_EXIT: a die's keyed digest unit takes one entry. -/
def digestExit (die : Nat) (e : Ecc) (s : State) : State :=
  match (exitPlot s 1 die).bind fun p => (exitHead s 1 p).map fun h => (p, h) with
  | none => s
  | some (p, t, r) =>
    let k := r.fld 1
    let s := if e = .ue then keyUe s k else s
    match keyFor s k useDigest with
    | none => exitFault (exitTake s 1 p t) p fCellarKey
    | some key =>
      let s := exitTake s 1 p t
      let rs := digestRecords key (r.fld 4) (r.fld 5) t.chunkTag t.vals
      let s := modCellar s fun c => { c with digestsOut := rs.foldl (fun x _ => satInc x) c.digestsOut }
      plotTransfer s p (r.fld 2) (rs.flatten.length / 4) 7 rs.flatten

def execDigestExit (die : Fin 2) (e : Ecc) (s : State) : Out := event s (digestExit die.val e)

end Sys2Proof.Machine
end

