-- ==== Sys2Proof/Machine/MemSrc.lean ====
section
/-!
DEFINITION. Loads, stores and atomics at the source-side switch (14 R393 to R408, R424): formats, rights, the
tracker, answers.
-/

namespace Sys2Proof.Machine
open Sys2Proof

/-! ## Requests and answers (Tables 14-2, 14-3) -/

def rqAddr (p : Pkt) : Nat := leAt p.payload 0 8
def rqOff (p : Pkt) : Nat := rqAddr p % 2 ^ 40
def rqBytes (p : Pkt) : Nat := leAt p.payload 8 2 % 8192
def rqGen (p : Pkt) : Bool := bit (leAt p.payload 10 1) 0
def rqAop (p : Pkt) : Nat := bits (leAt p.payload 11 1) 3 0
def rqSigned (p : Pkt) : Bool := bit (leAt p.payload 11 1) 4
def rqPrior (p : Pkt) : Nat := leAt p.payload 12 4
def rqOrigin (p : Pkt) : Nat := leAt p.payload 16 3
def rqOperand (p : Pkt) : Nat := leAt p.payload 24 8
def rqCompare (p : Pkt) : Nat := leAt p.payload 32 8
def rqData (p : Pkt) : List Byte := slice p.payload 24 (rqBytes p)

/-- The line a request goes to: ADDR / 128. -/
def rqLine (p : Pkt) : Nat := rqAddr p / 128

/-- Tracked operations (R420). -/
def isTracked (op : BitVec 5) : Bool := op == pAtomic || op == pStoreRel

/-- Response status (Table 14-4). -/
abbrev rsOk : Nat := 0
abbrev rsFormat : Nat := 1
abbrev rsDenied : Nat := 2
abbrev rsDead : Nat := 3
abbrev rsRange : Nat := 4
abbrev rsPoison : Nat := 5
abbrev rsUnknown : Nat := 6
abbrev rsBusy : Nat := 7

/-- Operation of the answer to a request. -/
def rspOp (op : BitVec 5) : BitVec 5 := if op = pLoad then pLoadRsp else if op = pAtomic then pAtomicRsp else pStoreAck

/-- The answer's payload (R399): every LOAD answer but OK carries all ones. -/
def rspBytes (p : Pkt) (status : Nat) (code : Nat) (old : Nat) (data : List Byte) : List Byte :=
  let n := min (rqBytes p) 4032
  let head := pack 16 [(0, 1, status), (1, 1, leAt p.payload 10 1), (2, 2, if p.op = pLoad then n else 0), (4, 2, code),
    (8, 3, rqOrigin p), (12, 3, p.dst.toNat)]
  if p.op = pLoad then head ++ (if status = rsOk then slice data 0 n else List.replicate n 255)
  else if p.op = pAtomic then head ++ leBytes 8 (if status = rsOk then old else 0)
  else head

/-- An answer for a request, to `dst`. -/
def rspPkt (s : State) (p : Pkt) (dst : Addr) (status code old : Nat) (data : List Byte) : Pkt :=
  mkPkt (ownAddr s) dst 5 (rspOp p.op) p.seq 0 s.fault.epochMax (rspBytes p status code old data)

/-- Fields of an answer. -/
def rsStatus (p : Pkt) : Nat := leAt p.payload 0 1
def rsOrigin (p : Pkt) : Nat := leAt p.payload 8 3
def rsTarget (p : Pkt) : Nat := leAt p.payload 12 3

/-- An answer belongs to a request (R405). -/
def answers (a p : Pkt) : Bool := rsOrigin a == rqOrigin p && rsTarget a == p.dst.toNat && a.seq == p.seq && a.op == rspOp p.op

/-! ## Counters -/

def modCnt (s : State) (field : Nat) (f : MemCnt → MemCnt) : State := { s with mem := { s.mem with cnt := Tab.upd {} s.mem.cnt field f } }

/-! ## Format and rights (R397, R401 to R403) -/

/-- The checks of R397 and R401. -/
def reqFormatOk (p : Pkt) : Bool :=
  let n := rqBytes p
  let store := p.op == pStore || p.op == pStoreRel
  let atomic := p.op == pAtomic
  rqOrigin p == p.src.toNat && rqAddr p / 2 ^ 40 == p.dst.toNat &&
    p.len.toNat == (if p.op = pLoad then 6 else if atomic then 10 else 6 + cdiv n 4) &&
    (if atomic then n == 4 || n == 8 else if p.op = pStoreRel then n == 0 || n == 4 || n == 8 else decide (n ≤ 4032)) &&
    (if atomic then decide (rqAop p ≤ 7) && rqAddr p % max n 1 == 0 && !(rqAop p == 1 && n == 8) else rqAop p == 0) &&
    (!rqSigned p || (atomic && (rqAop p == 2 || rqAop p == 3))) && (!rqGen p || store) &&
    (if p.op = pStoreRel then decide (rqPrior p ≤ 65535) else rqPrior p == 0) &&
    leAt p.payload 8 2 / 8192 == 0 && leAt p.payload 10 1 / 4 == 0 && leAt p.payload 11 1 / 32 == 0 && leAt p.payload 19 5 == 0 &&
    (!(p.op == pLoad || p.op == pStore) || n == 0 || rqOff p / 2 ^ 21 == (rqOff p + n - 1) / 2 ^ 21)

/-- A port field that sources requests (R402). -/
def isSource (s : State) (f : Nat) : Bool :=
  let k := (localKind s f).1
  (k == 1 && endpointPort s f) || k == 3 || k == 4

/-- Entry of an RPT. -/
def rptEntry (s : State) (field i : Nat) : List Byte := Tab.get [] s.mem.rpt (4096 * field + i)

/-- Value word `k` of an entry (Table 14-5). -/
def rptW (e : List Byte) (k : Nat) : Nat := leAt e (8 * k) 4

/-- The complements of an entry hold. -/
def rptOk (e : List Byte) : Bool := (List.range 4).all fun k => leAt e (8 * k) 4 + leAt e (8 * k + 4) 4 == 2 ^ 32 - 1

/-- The entry covers a request (R403). -/
def rptCovers (e : List Byte) (p : Pkt) : Bool :=
  bit (rptW e 0) 31 && bits (rptW e 0) 23 0 == p.dst.toNat && decide (bits (rptW e 1) 18 0 ≤ rqOff p / 2 ^ 21) &&
    decide ((rqOff p + max (rqBytes p) 1 - 1) / 2 ^ 21 < bits (rptW e 1) 18 0 + bits (rptW e 2) 19 0)

/-- The entry grants the right the operation needs at the request's epoch. -/
def rptGrants (e : List Byte) (p : Pkt) : Bool :=
  bit (rptW e 0) (if p.op = pLoad then 30 else if p.op = pAtomic then 28 else 29) && !serialAbove (BitVec.ofNat 32 (rptW e 3)) p.epoch

/-- Entries of a port field that are set, ascending. -/
def rptList (s : State) (field : Nat) : List (Nat × List Byte) :=
  (s.mem.rpt.filter fun e => e.1 / 4096 == field).map fun e => (e.1 % 4096, e.2)

/-- The search of R403; `upset` are entries whose complement check fails in it. -/
def searchRpt (s : State) (field : Nat) (p : Pkt) (upset : List Nat) : State × Option (List Byte) :=
  let es := rptList s field
  let skip (i : Nat) : Bool := upset.contains i || s.mem.rptBad.contains (4096 * field + i)
  let hit := es.find? fun e => !skip e.1 && rptCovers e.2 p
  let met := es.filter fun e => upset.contains e.1 && !s.mem.rptBad.contains (4096 * field + e.1) &&
    (match hit with | some h => decide (e.1 < h.1) | none => true)
  (met.foldl (fun s e => raise { s with mem := { s.mem with rptBad := s.mem.rptBad ++ [4096 * field + e.1] } } fRptCheck uField field) s,
   hit.map (·.2))

/-- Why a request is not sent: its status and fault (R397, R401, R403, R407). -/
def checkReq (s : State) (field : Nat) (p : Pkt) (upset : List Nat) : State × Option (Nat × Half) :=
  if !reqFormatOk p then (s, some (rsFormat, fMemFormat))
  else
    let r := searchRpt s field p upset
    if !((r.2.map fun e => rptGrants e p).getD false) then (r.1, some (rsDenied, fMemDenied))
    else if targetHedged s p.dst.toNat then (r.1, some (if p.op = pLoad then (rsPoison, fMemPoison) else (rsDead, fMemDead)))
    else (r.1, none)

/-! ## Delivery to a source -/

/-- MEM_DONE of a MEM_REQUEST (17 Table 17-13). -/
def hostAnswer (s : State) (a : Pkt) : State :=
  match s.mem.hostReqs.find? fun h => h.2.1.toNat == rsTarget a && h.2.2 == a.seq with
  | none => s
  | some h =>
    let s := { s with mem := { s.mem with hostReqs := s.mem.hostReqs.filter fun x => x != h } }
    complete s h.1 { kind := kMemDone, utype := uField, unit := (fieldOfKind s 4).getD 0, body := slice a.payload 0 40 }

/-- A commanded run: the counts of its COACH_DONE entry (17 Table 17-13). -/
def runDone (s : State) (r : CmdRun) : State :=
  complete s r.c
    { kind := kCoachDone, utype := uField, unit := (fieldOfKind s 3).getD 0,
      body := pack 40 ([(0, 8, r.c.u 24 8), (8, 1, r.total)] ++ (List.range 8).map fun k => (16 + k, 1, Tab.get 0 r.status k)) }

/-- Pieces of a transfer (R430): remote address, local address, bytes; each ends at a 2,048-byte boundary of the
remote address or at the end. -/
def runPieces : Nat → Nat → Nat → Nat → List (Nat × Nat × Nat)
  | 0, _, _, _ => []
  | k + 1, r, l, n =>
    if n = 0 then []
    else
      let m := min n (2048 - r % 2048)
      (r, l, m) :: runPieces k (r + m) (l + m) (n - m)

/-- SEQ of the next request of a pair, taken (11 R332). -/
def takeReqSeq (s : State) (src dst : Addr) : State × Word :=
  let k := 2 ^ 24 * src.toNat + dst.toNat
  ({ s with mem := { s.mem with reqSeq := Tab.upd 0 s.mem.reqSeq k (· + 1) } }, Tab.get 0 s.mem.reqSeq k)

/-- Requester ID under which requests of a port field are lodged (12 Table 12-3): a plot, the host port, the port itself, else
the device. -/
def fieldUnit (s : State) (field : Nat) : Nat :=
  let k := localKind s field
  if k.1 = 2 then 1024 + k.2 else if k.1 = 4 then 1250 else if k.1 = 1 then field else ownUnit 0

/-- A request of the device lodged for its checks. -/
def issueReq (s : State) (field : Nat) (op : BitVec 5) (payload : List Byte) : State × Addr × Word :=
  let src := addr s.plan.deviceId.toNat field
  let dst := BitVec.ofNat 24 (leAt payload 0 8 / 2 ^ 40)
  let r := takeReqSeq s src dst
  (send r.1 (fieldUnit s field) (mkPkt src dst 1 op r.2 0 s.fault.epochMax payload), dst, r.2)

/-- A commanded run starts: its pieces are issued from the GRANARY port field. -/
def startRun (s : State) (c : Cmd) (get : Bool) : State :=
  let field := (fieldOfKind s 3).getD 0
  let pieces := runPieces 64 (c.u 8 8) (c.u 0 8) (c.u 16 4)
  let r := pieces.foldl (fun (a : State × List (Word × Nat × Nat × Nat)) x =>
    let head := pack 24 [(0, 8, x.1), (8, 2, x.2.2), (16, 3, s.plan.deviceId.toNat * 1024 + field)]
    let q := issueReq a.1 field (if get then pLoad else pStore) (if get then head else head ++ Mem.reads a.1.gran x.2.1 x.2.2)
    (q.1, a.2 ++ [(q.2.2, x.1, x.2.1, x.2.2)])) (s, [])
  let run : CmdRun := { c, get, total := pieces.length, open_ := r.2 }
  if pieces.isEmpty then runDone s run else { r.1 with mem := { r.1.mem with runs := r.1.mem.runs ++ [run] } }

/-- An answer to a piece of a commanded run. -/
def runAnswer (s : State) (a : Pkt) : State :=
  let mine (x : Word × Nat × Nat × Nat) : Bool := x.1 == a.seq && x.2.1 / 2 ^ 40 == rsTarget a
  match s.mem.runs.find? fun r => r.open_.any mine with
  | none => s
  | some r =>
    match r.open_.find? mine with
    | none => s
    | some x =>
      let s := if r.get then provTouch { s with gran := Mem.writes s.gran x.2.2.1 (if rsStatus a = rsOk then slice a.payload 16 x.2.2.2 else List.replicate x.2.2.2 255) } x.2.2.1 x.2.2.2 else s
      let r' := { r with open_ := r.open_.filter fun y => !mine y, status := Tab.upd 0 r.status (rsStatus a) (· + 1) }
      if r'.open_.isEmpty then
        let s := runDone { s with mem := { s.mem with runs := s.mem.runs.filter fun y => y != r } } r'
        match s.mem.runQueue with
        | [] => s
        | q :: qs => startRun { s with mem := { s.mem with runQueue := qs } } q.1 q.2
      else { s with mem := { s.mem with runs := s.mem.runs.map fun y => if y == r then r' else y } }

/-- An answer delivered to the source of a request. -/
def toSource (s : State) (field : Nat) (a : Pkt) : State :=
  let s := modCnt s field fun c =>
    if rsStatus a = rsPoison then { c with poison := satInc c.poison }
    else if rsStatus a = rsUnknown then { c with unknown := satInc c.unknown } else c
  let k := (localKind s field).1
  if k = 4 then hostAnswer s a
  else if k = 3 then runAnswer s a
  else { s with ingress := s.ingress ++ [{ port := none, unit := portUnit field, vl := a.vl, p := { a with dst := addr s.plan.deviceId.toNat field },
                                           looked := true, checked := true, served := true }] }

/-- An answer the source-side switch makes itself. -/
def selfAnswer (s : State) (field : Nat) (p : Pkt) (status : Nat) (code : Half) : State :=
  toSource s field (rspPkt s p p.src status code.toNat 0 [])

/-! ## The tracker (R405 to R408) -/

/-- Entries of a port field. -/
def tracked (s : State) (field : Nat) : List Track := s.mem.track.filter fun t => t.field == field

/-- A request must wait for the tracker (R405). -/
def trackerFull (s : State) (field : Nat) (p : Pkt) : Bool :=
  decide (1024 ≤ (tracked s field).length) ||
    (p.op == pStoreRel && (tracked s field).any fun t => t.p.op == pStoreRel && t.p.src == p.src && t.p.dst == p.dst)

/-- A quench holds a request back (R424). -/
def paced (s : State) (field : Nat) (p : Pkt) : Bool :=
  s.mem.quench.any fun q => q.field == field && q.line == rqLine p &&
    (match q.last with | some t => decide (s.clk.timebase.toNat < t.toNat + q.pace) | none => false)

/-- A request to a quenched line admitted now. -/
def noteAdmit (s : State) (field : Nat) (p : Pkt) : State :=
  { s with mem := { s.mem with quench := s.mem.quench.map fun q =>
      if q.field == field && q.line == rqLine p then { q with last := some s.clk.timebase } else q } }

/-- A refused request is reported (R432). -/
def countRefusal (s : State) (field : Nat) (code : Half) : State :=
  let s := if code = fMemFormat ∨ code = fMemDenied then modCnt s field fun c => { c with denied := satInc c.denied } else s
  raise s code uField field

/-- LOAD, STORE, STORE_REL and ATOMIC at the head of their VL, or in the device's own lodging: checked
before lookup, then tracked. -/
def memRequest (op : BitVec 5) (n : Option Nat) (p : Pkt) (upset : List Nat) (s : State) : State :=
  let at_ := match n with
    | some _ => headLodged s n p.vl 0
    | none => s.ingress.find? fun l => l.port.isNone && l.p == p && !l.checked
  match at_ with
  | none => s
  | some l =>
    let field := n.getD (fieldOf p.src)
    let fresh := match n with
      | some k => endpointPort s k && headerOk s k p && srcOk s k p
      | none => decide (p.vl.toNat ≤ 2)
    if l.p ≠ p ∨ p.op ≠ op ∨ l.checked = true ∨ !fresh then s
    else
      let r := checkReq s field p upset
      match r.2 with
      | some (st, code) => selfAnswer (countRefusal (dropLodged r.1 l) field code) field p st code
      | none =>
        if paced s field p || trackerFull s field p then s
        else
          let s := noteAdmit (setLodged r.1 l { l with checked := true }) field p
          { s with mem := { s.mem with
              track := s.mem.track ++ [{ field, p, ix := s.mem.checks, loadTo := s.mem.loadTo.toNat }]
              checks := s.mem.checks + 1 } }

def execLoad (n : Option (BitVec 10)) (p : Pkt) (upset : List (BitVec 12)) (s : State) : Out :=
  onPkt p s (memRequest pLoad (n.map (·.toNat)) p (upset.map (·.toNat)))
def execStore (n : Option (BitVec 10)) (p : Pkt) (upset : List (BitVec 12)) (s : State) : Out :=
  onPkt p s (memRequest pStore (n.map (·.toNat)) p (upset.map (·.toNat)))
def execStoreRel (n : Option (BitVec 10)) (p : Pkt) (upset : List (BitVec 12)) (s : State) : Out :=
  onPkt p s (memRequest pStoreRel (n.map (·.toNat)) p (upset.map (·.toNat)))
def execAtomic (n : Option (BitVec 10)) (p : Pkt) (upset : List (BitVec 12)) (s : State) : Out :=
  onPkt p s (memRequest pAtomic (n.map (·.toNat)) p (upset.map (·.toNat)))

/-- The entry closes. -/
def untrack (s : State) (t : Track) : State := { s with mem := { s.mem with track := s.mem.track.erase t } }

/-- The entry is closed with a final answer of the switch's own (R406, R407). -/
def finishTrack (s : State) (t : Track) (status : Nat) (code : Half) : State :=
  selfAnswer (raise (untrack s t) code uField t.field) t.field t.p status code

/-- What the tracker answers when nothing will (R406, R407). -/
def giveUp (s : State) (t : Track) : State :=
  if t.p.op = pLoad then finishTrack s t rsPoison fMemPoison else finishTrack s t rsUnknown fMemUnknown

/-- Entry of a port field by target and SEQ. -/
def findTrack (s : State) (field : Nat) (target : Addr) (seq : Word) : Option Track :=
  s.mem.track.find? fun t => t.field == field && t.p.dst == target && t.p.seq == seq

/-- TRACKER_RESEND (R406): an ATOMIC or STORE_REL resent with RETRY, at most three times. -/
def trackerResend (field : Nat) (target : Addr) (seq : Word) (s : State) : State :=
  match findTrack s field target seq with
  | none => s
  | some t =>
    if !isTracked t.p.op || decide (3 ≤ t.tries) then s
    else
      let s := { s with mem := { s.mem with track := s.mem.track.map fun x => if x == t then { t with tries := t.tries + 1, busy := false } else x } }
      let s := modCnt s field fun c => { c with retries := satInc c.retries }
      let q := { t.p with payload := t.p.payload.take 10 ++ [t.p.payload.getD 10 0 ||| 2] ++ t.p.payload.drop 11, hop := 0 }
      { s with ingress := s.ingress ++ [{ port := none, unit := fieldUnit s field, vl := q.vl, p := q, checked := true }] }

def execTrackerResend (field : BitVec 10) (target : Addr) (seq : Word) (s : State) : Out := event s (trackerResend field.toNat target seq)

/-- TRACKER_TIMEOUT (R406). -/
def trackerTimeout (field : Nat) (target : Addr) (seq : Word) (s : State) : State :=
  match findTrack s field target seq with
  | none => s
  | some t => if t.busy then selfAnswer (untrack s t) field t.p rsBusy 0 else giveUp s t

def execTrackerTimeout (field : BitVec 10) (target : Addr) (seq : Word) (s : State) : Out := event s (trackerTimeout field.toNat target seq)

/-- An answer that reaches the source-side switch: it closes its entry, waits as BUSY for a resend, or is late. -/
def trackAnswer (s : State) (a : Pkt) : State :=
  let field := fieldOf a.dst
  match s.mem.track.find? fun t => t.field == field && answers a t.p with
  | none => modCnt s field fun c => { c with late := satInc c.late }
  | some t =>
    if rsStatus a = rsBusy ∧ isTracked t.p.op ∧ t.tries < 3 then
      { s with mem := { s.mem with track := s.mem.track.map fun x => if x == t then { t with busy := true } else x } }
    else toSource (untrack s t) field a

/-! ## Quenches (R424) -/

/-- MGT_QUENCH: the line's entry is renewed, or one is installed in place of the one that expires first. -/
def mgtQuench (p : Pkt) (s : State) : State :=
  let s := { s with delivered := s.delivered.eraseP fun d => d.p == p }
  let field := leAt p.payload 8 3 % 1024
  let line := leAt p.payload 0 8 / 128
  let mine := s.mem.quench.filter fun q => q.field == field
  let others := s.mem.quench.filter fun q => q.field != field
  let old := mine.find? fun q => q.line == line
  let keep : List Quench := mine.filter fun q => q.line != line
  let keep : List Quench := if old.isNone && decide (8 ≤ keep.length) then keep.drop 1 else keep
  if leAt p.payload 8 3 / 1024 ≠ s.plan.deviceId.toNat ∨ isSource s field = false then s
  else { s with mem := { s.mem with
      quench := others ++ keep ++ [{ field, line, pace := leAt p.payload 12 4, last := (old.map (·.last)).getD none }] } }

def execMgtQuench (p : Pkt) (s : State) : Out := onPkt p s (mgtQuench p)

/-- QUENCH_EXPIRY: 20 microseconds after its last quench. -/
def execQuenchExpiry (field : BitVec 10) (line : BitVec 57) (s : State) : Out :=
  event s fun s => { s with mem := { s.mem with quench := s.mem.quench.filter fun q => !(q.field == field.toNat && q.line == line.toNat) } }

/-! ## RPT commands (R404) -/

/-- RPT_WRITE settled: at acceptance when refused, else by RPT_WRITTEN. -/
def rptWrite (c : Cmd) (s : State) : State :=
  let field := c.u 0 2
  let e := slice c.body 8 32
  let k := 4096 * field + c.u 2 2
  let wait (s : State) : State := { s with mem := { s.mem with rptWaits := s.mem.rptWaits ++ [(c, s.mem.checks)] } }
  if !rptOk e then cmdDone s c oRptWrite stComplement
  else if !isSource s field then cmdDone s c oRptWrite stRange
  else
    match rank s (Tab.get {} s.recov (objKey 4 k)) c with
    | .applied =>
      wait { keep s (objKey 4 k) c with mem := { s.mem with rpt := Tab.set [] s.mem.rpt k e, rptBad := s.mem.rptBad.filter (· != k) } }
    | .same => wait s
    | .refusedWith st => cmdDone s c oRptWrite st

/-- Reserved bits and ranges of an entry's value words (Table 14-5). -/
def rptFormatOk (e : List Byte) : Bool :=
  bits (rptW e 0) 27 24 == 0 && bits (rptW e 1) 31 19 == 0 && bits (rptW e 2) 31 20 == 0 &&
    (!bit (rptW e 0) 31 || (decide (1 ≤ bits (rptW e 2) 19 0) && decide (bits (rptW e 1) 18 0 + bits (rptW e 2) 19 0 ≤ 524288)))

def execRptWrite (c : Cmd) (s : State) : Out :=
  onCmd oRptWrite c [(0, 2), (2, 2), (8, 32)]
    (decide (c.u 0 2 < 1024) && decide (c.u 2 2 < 4096) && (!rptOk (slice c.body 8 32) || rptFormatOk (slice c.body 8 32))) s (rptWrite c)

/-- RPT_WRITTEN: every request of the port field checked before a write has left the tracker. -/
def rptWritten (s : State) : State :=
  match s.mem.rptWaits.find? fun w => !((tracked s (w.1.u 0 2)).any fun t => decide (t.ix < w.2)) with
  | none => s
  | some w =>
    complete { s with mem := { s.mem with rptWaits := s.mem.rptWaits.erase w } } w.1
      { kind := kRptWritten, utype := uField, unit := w.1.u 0 2, body := pack 8 [(0, 2, w.1.u 2 2)] ++ slice w.1.body 8 32 }

def execRptWritten (s : State) : Out := event s rptWritten

/-- RPT_READ. -/
def rptRead (c : Cmd) (s : State) : State :=
  complete s c { kind := kRptEntry, utype := uField, unit := c.u 0 2,
                 body := pack 8 [(0, 2, c.u 2 2)] ++ slice (rptEntry s (c.u 0 2) (c.u 2 2)) 0 32 }

def execRptRead (c : Cmd) (s : State) : Out :=
  onCmd oRptRead c [(0, 2), (2, 2)] (decide (c.u 0 2 < 1024) && decide (c.u 2 2 < 4096)) s (rptRead c)

/-- MEM_REQUEST (17 Table 17-10): a request of the HOST port field. -/
def memCommand (c : Cmd) (s : State) : State :=
  let op := BitVec.ofNat 5 (c.u 0 1)
  let n := c.u 16 2 % 8192
  match fieldOfKind s 4 with
  | none => cmdDone s c oMemRequest stUnitState
  | some f =>
    let data := if op = pLoad then [] else if op = pAtomic then slice c.body 32 16 else slice c.body 32 n
    let r := issueReq s f op (slice c.body 8 24 ++ data)
    { r.1 with mem := { r.1.mem with hostReqs := r.1.mem.hostReqs ++ [(c, r.2.1, r.2.2)] } }

def execMemRequest (c : Cmd) (s : State) : Out :=
  let n := c.u 16 2 % 8192
  onCmd oMemRequest c [(0, 1), (8, 24), (32, 64)]
    (decide (8 ≤ c.u 0 1) && decide (c.u 0 1 ≤ 0xB) && (c.u 0 1 != 8 || decide (n ≤ 24)) && decide (n ≤ 64)) s (memCommand c)

/-- A write to MEM_CTL: ignored outside 8 to 4,000 (Table 14-12). -/
def wrMemCtl (s : State) (w : RegW) : State × Wr :=
  let v := bits w.val.toNat 11 0
  if w.hi ∨ v < 8 ∨ 4000 < v then (s, .done) else ({ s with mem := { s.mem with loadTo := BitVec.ofNat 12 v } }, .done)

def execMemCtl (w : RegW) (s : State) : Out := always s fun s => (wrMemCtl s w).1

end Sys2Proof.Machine
end

