-- ==== Sys2Proof/Machine/MemTgt.lean ====
section
/-!
DEFINITION. Memory requests at their target (14 R409 to R424): the line serializers, release stores, atomics, the replay
table, hot lines, answers.
-/

namespace Sys2Proof.Machine
open Sys2Proof

/-! ## Per-source state and the replay table (R411, R420) -/

def srcKey (field origin : Nat) : Nat := 2 ^ 24 * field + origin
def srcSt (s : State) (field origin : Nat) : SrcState := Tab.get {} s.mem.src (srcKey field origin)
def modSrc (s : State) (field origin : Nat) (f : SrcState → SrcState) : State :=
  { s with mem := { s.mem with src := Tab.upd {} s.mem.src (srcKey field origin) f } }

/-- `seq` is not serially above a valid mark. -/
def notAbove (seq : Word) : Option Word → Bool
  | none => false
  | some m => !serialAbove seq m

def replayOf (s : State) (field origin : Nat) (seq : Word) : Option Replay :=
  s.mem.replay.find? fun e => e.field == field && e.origin == origin && e.seq == seq

def modReplay (s : State) (field origin : Nat) (seq : Word) (f : Replay → Replay) : State :=
  { s with mem := { s.mem with replay := s.mem.replay.map fun e => if e.field == field && e.origin == origin && e.seq == seq then f e else e } }

/-- An answer sent to the SRC of a request; an internal target's waits in the response room of its die (11 R347). -/
def respond (s : State) (p : Pkt) (status code old : Nat) (data : List Byte) : State :=
  let a := rspPkt s p p.src status code old data
  { s with ingress := s.ingress ++ [{ port := none, unit := 1246 + (targetDie s p).getD 0, vl := a.vl, p := a, room := targetDie s p }] }

/-- Store counts of a source by release generation (R416). -/
def modCntGen (gen : Bool) (f : Half → Half) (x : SrcState) : SrcState :=
  if gen then { x with cnt1 := f x.cnt1 } else { x with cnt0 := f x.cnt0 }
def cntGen (x : SrcState) (gen : Bool) : Half := if gen then x.cnt1 else x.cnt0

/-- A store counted in the generation it carries (R416). -/
def countStore (s : State) (p : Pkt) : State := modSrc s (fieldOf p.dst) (rqOrigin p) (modCntGen (rqGen p) (· + 1))

/-- What an answer leaves at the target: its replay entry DONE, its store counted when it was applied or refused with RANGE
(R416, R420). -/
def settle (s : State) (p : Pkt) (status code old : Nat) : State :=
  if isTracked p.op then
    modReplay s (fieldOf p.dst) (rqOrigin p) p.seq fun e => { e with answer := some (status, code, old), held := none, heldAt := none }
  else if p.op = pStore ∧ (status = rsOk ∨ status = rsRange) then countStore s p
  else s

/-- A request answered by this target. -/
def answerReq (s : State) (p : Pkt) (status : Nat) (code : Half) (old : Nat) (data : List Byte) : State :=
  respond (settle s p status code.toNat old) p status code.toNat old data

/-- RANGE (R394, R395, R413): counted and raised. -/
def refuseRange (s : State) (p : Pkt) (code : Half) : State :=
  let field := fieldOf p.dst
  let s := modCnt s field fun c => { c with range := satInc c.range }
  answerReq (raise s fMemRange uField field) p rsRange code 0 []

/-! ## TRACKED_ARRIVAL (R420) -/

def busyReplay (s : State) (field : Nat) : Bool := decide (2048 ≤ (s.mem.replay.filter fun e => e.field == field).length)

/-- Target kinds that keep source state: PORT, PLOT, GRANARY. -/
def keepsSource (s : State) (field : Nat) : Bool :=
  let k := (localKind s field).1
  k == 1 || k == 2 || k == 3

/-- The algorithm of R420 on a delivered ATOMIC or STORE_REL. -/
def trackedArrival (p : Pkt) (s : State) : State :=
  match s.delivered.find? fun d => d.p == p && !d.tracked with
  | none => s
  | some d =>
    let field := fieldOf p.dst
    let gone (s : State) : State := { s with delivered := s.delivered.erase d }
    if !isTracked p.op then s
    else if !keepsSource s field then refuseRange (gone s) p fMemRange
    else if s.mem.stateLost then respond (gone s) p rsDead fMemStateLost.toNat 0 []
    else
      let x := srcSt s field (rqOrigin p)
      if notAbove p.seq x.floor then respond (gone s) p rsUnknown 0 0 []
      else
        match replayOf s field (rqOrigin p) p.seq with
        | some e =>
          match e.answer with
          | some a => respond (modCnt (gone s) field fun c => { c with hits := satInc c.hits }) p a.1 a.2.1 a.2.2 []
          | none => gone s
        | none =>
          if notAbove p.seq x.low then respond (gone s) p rsUnknown 0 0 []
          else if busyReplay s field then respond (modCnt (gone s) field fun c => { c with busy := satInc c.busy }) p rsBusy 0 0 []
          else
            { s with
              mem := { s.mem with replay := s.mem.replay ++ [{ field, origin := rqOrigin p, seq := p.seq }] }
              delivered := s.delivered.map fun y => if y == d then { d with tracked := true } else y }

def execTrackedArrival (p : Pkt) (s : State) : Out := onPkt p s (trackedArrival p)

/-! ## Atomics (R418, R419) -/

/-- A value as its comparison key: signed values shifted up by half the range. -/
def orderKey (w : Nat) (signed : Bool) (v : Nat) : Nat := if signed then (v + 2 ^ (8 * w - 1)) % 2 ^ (8 * w) else v

/-- The new value of Table 14-6 at width `w` bytes. -/
def atomicNew (p : Pkt) (old : Nat) : Nat :=
  let w := rqBytes p
  let m := 2 ^ (8 * w)
  let x := rqOperand p % m
  match rqAop p with
  | 0 => (old + x) % m
  | 1 => (fAdd .rne old x).1
  | 2 => if orderKey w (rqSigned p) x < orderKey w (rqSigned p) old then x else old
  | 3 => if orderKey w (rqSigned p) old < orderKey w (rqSigned p) x then x else old
  | 4 => x
  | 5 => if old = rqCompare p % m then x else old
  | 6 => old &&& x
  | 7 => old ||| x
  | _ => old

/-- Marked Yes in Table 14-6. -/
def combines (aop : Nat) : Bool := aop == 0 || aop == 2 || aop == 3 || aop == 6 || aop == 7

/-- Two atomics that combine. -/
def together (a b : Pkt) : Bool :=
  a.op == pAtomic && b.op == pAtomic && rqAddr a == rqAddr b && rqBytes a == rqBytes b && rqAop a == rqAop b &&
    rqSigned a == rqSigned b && combines (rqAop a)

/-- The group at the head of a serializer: up to 64 atomics that wait consecutively. -/
def headGroup : List Deliv → List Deliv
  | [] => []
  | d :: ds => d :: (ds.take 63).takeWhile fun e => e.tracked && together d.p e.p

/-- One value's passage through a group: each member's OLD, and the value left. -/
def runGroup (ps : List Pkt) (old : Nat) : List (Pkt × Nat) × Nat :=
  ps.foldl (fun (a : List (Pkt × Nat) × Nat) p => (a.1 ++ [(p, a.2)], atomicNew p a.2)) ([], old)

/-- The OPERAND that stands for a group: 0, its members folded by the operation itself. -/
def groupOperand (ps : List Pkt) : Nat :=
  match ps with
  | [] => 0
  | p :: ps => ps.foldl (fun a q => atomicNew q a) (rqOperand p % 2 ^ (8 * rqBytes p))

/-! ## Lines (R409, R422, R423) -/

/-- The requests in one line serializer, in arrival order. -/
def lineQueue (s : State) (line : Nat) : List Deliv :=
  s.delivered.filter fun d => isRequest d.p.op && rqLine d.p == line && d.heldAt.isNone

/-- Die of a line's target (R409). -/
def lineDie (s : State) (p : Pkt) : Nat :=
  let k := localKind s (fieldOf p.dst)
  if k.1 = 1 then dieOf (fieldOf p.dst) else if k.1 = 2 then k.2 / 16 else rqOff p / 2 ^ 37 % 2

/-- STORE, SWAP or CAS. -/
def overwrites (p : Pkt) : Bool := p.op == pStore || (p.op == pAtomic && (rqAop p == 4 || rqAop p == 5))

/-- The line takes a hot-line entry at 32 waiting requests, or is counted in HOT_FULL (R422). -/
def hotTake (s : State) (die line w : Nat) : State :=
  if w < 32 ∨ (s.mem.hot.any fun h => h.line == line) then s
  else if (s.mem.hot.filter fun h => h.die == die).length < 256 then
    nFlag { s with mem := { s.mem with hot := s.mem.hot ++ [{ die, line }] } } 1
  else if s.mem.hotMiss.contains line then s
  else { s with mem := { s.mem with hotFull := satInc s.mem.hotFull, hotMiss := s.mem.hotMiss ++ [line] } }

/-- MGT_QUENCH to a source the line has not seen (R423). -/
def hotQuench (s : State) (line w : Nat) (p : Pkt) : State :=
  let o := rqOrigin p
  match s.mem.hot.find? fun h => h.line == line with
  | none => s
  | some h =>
    if h.set.contains o || decide (4096 ≤ h.set.length) then s
    else
      let s := { s with mem := { s.mem with hot := s.mem.hot.map fun x => if x.line == line then { x with set := x.set ++ [o] } else x } }
      originate (mgtCount s pMgtQuench) (ownUnit (line / 2 ^ 30 % 2)) (devAddr s (o / 1024)) 0 pMgtQuench (mgtSeq s pMgtQuench) 0
        (pack 16 [(0, 8, line * 128), (8, 3, o), (12, 4, max 100 (cdiv (5 * w) 6))])

/-- N marks that a waiting line shows (16 R459). -/
def lineMarks (s : State) (q : List Deliv) : State :=
  let os := ((q.filter fun d => overwrites d.p).map fun d => rqOrigin d.p).eraseDups
  if 2 ≤ os.length then nFlag s 1 else s

/-- Requests taken out of their serializer. -/
def takeReqs (s : State) (ds : List Deliv) : State := { s with delivered := ds.foldl (fun l d => l.erase d) s.delivered }

/-! ## Applying at a target -/

/-- The offset is one a GRANARY target serves (R394, R395). -/
def granAllowed (s : State) (p : Pkt) : Bool :=
  let n := max (rqBytes p) 1
  decide (rqOff p + n ≤ 2 ^ 38) && !meetsArea (reservedAreas s) (rqOff p) n

/-- Stack of a granary request. -/
def reqStack (p : Pkt) : Nat := rqOff p / 2 ^ 36

/-- A write that a feed holds back (04 R137); `due` once the step close has let it go. -/
def feedHolds (s : State) (due : Bool) (p : Pkt) : Bool := !due && p.op != pLoad && inActiveShare s (rqOff p) (rqBytes p)

/-- Places of the writes that the granary controllers hold. -/
def heldNos (s : State) : List Nat := s.delivered.filterMap (·.heldAt) ++ s.mem.replay.filterMap (·.heldAt)

/-- A held write's turn: the step has closed and no write held before it is left. DEDUCED (log 96): they arrive at the
controllers in the order in which their serializers present them. -/
def heldTurn (s : State) (n : Nat) : Bool := decide (n < s.mem.heldDue) && (heldNos s).all fun m => decide (n ≤ m)

/-- The next place among the held writes taken. -/
def takeHeldNo (s : State) : State := { s with mem := { s.mem with heldNext := s.mem.heldNext + 1 } }

/-- A delivered write that its controller holds from now on. -/
def holdWrite (s : State) (d : Deliv) : State :=
  takeHeldNo { s with delivered := s.delivered.map fun y => if y == d then { d with heldAt := some s.mem.heldNext } else y }

/-- Data of a store written to the granary. -/
def granStore (s : State) (p : Pkt) : State :=
  let bs := rqData p
  provTouch { s with gran := Mem.writes s.gran (rqOff p) bs } (rqOff p) bs.length

/-- A LOAD of the granary. -/
def granLoad (s : State) (p : Pkt) (rest : List Deliv) (e : Ecc) : State :=
  let n := rqBytes p
  let race := inActiveShare s (rqOff p) n || rest.any fun d => d.p.op != pLoad
  let s := if race then nFlag s 3 else s
  let bad (s : State) (code : Half) : State := answerReq (raise s fMemPoison uField (fieldOf p.dst)) p rsPoison code 0 []
  if stackFenced s (reqStack p) then bad s fGranaryFail
  else if e = .ue ∧ 0 < n then bad (granUe s (reqStack p)) fGranaryUe
  else
    let s := if e = .ce ∧ 0 < n then granCe s (reqStack p) else s
    answerReq s p rsOk 0 0 (Mem.reads s.gran (rqOff p) n)

/-- A group of atomics of the granary. -/
def granAtomics (s : State) (ps : List Pkt) (e : Ecc) : State :=
  match ps with
  | [] => s
  | p :: _ =>
    if e = .ue then ps.foldl (fun s q => answerReq s q rsUnknown fGranaryUe 0 []) (granUe s (reqStack p))
    else
      let s := if e = .ce then granCe s (reqStack p) else s
      let s := if rqAop p = 1 then nFlag s 2 else s
      let r := runGroup ps (leNat (Mem.reads s.gran (rqOff p) (rqBytes p)))
      let s := provTouch { s with gran := Mem.writes s.gran (rqOff p) (leBytes (rqBytes p) r.2) } (rqOff p) (rqBytes p)
      r.1.foldl (fun s q => answerReq s q.1 rsOk 0 q.2 []) s

/-- The plot of a PLOT target. -/
def plotTarget (s : State) (p : Pkt) : Nat := (localKind s (fieldOf p.dst)).2

/-- The STORE binding that holds every byte of a store (R413), when one does. -/
def storeBind (s : State) (p : Pkt) : Option (Nat × BindRec) :=
  let lo := rqOff p
  let hi := lo + max (rqBytes p) 1
  (enum (bindRecs s (plotTarget s p))).find? fun e =>
    e.2.kind == 4 && decide (128 * e.2.first ≤ lo) && decide (hi ≤ 128 * (e.2.first + e.2.lines))

/-- What a store to a plot meets. -/
inductive PlotStore
  | outside | waits | hazard (r : BindRec) | overlap | writes (b : Nat) (r : BindRec)
  deriving DecidableEq, Repr

def plotStoreFate (s : State) (p : Pkt) : PlotStore :=
  let pl := plotTarget s p
  match storeBind s p with
  | none => .outside
  | some (b, r) =>
    let ls := r.touched (rqOff p - 128 * r.first) (rqBytes p)
    if !bindOpen s pl b then .waits
    else if stillRead (plot s pl) ls then .hazard r
    else if !r.shared && (bindSt s pl b).writers.any fun w => ls.contains w.1 && w.2 != rqOrigin p then .overlap
    else .writes b r

/-- The data of a store written into its binding; the first source of each line is kept (07 R232). -/
def plotWrite (s : State) (p : Pkt) (b : Nat) (r : BindRec) : State :=
  let pl := plotTarget s p
  let off := rqOff p - 128 * r.first
  let ls := r.touched off (rqBytes p)
  modBind (bindWrite s pl r off (rqData p) false) pl b fun x =>
    { x with writers := x.writers ++ ((ls.filter fun l => !(x.writers.any fun w => w.1 == l)).map fun l => (l, rqOrigin p)) }

/-- One more release flag of a binding (07 R219). -/
def plotRelease (s : State) (p : Pkt) (b : Nat) (r : BindRec) : State :=
  let pl := plotTarget s p
  let s := modBind s pl b fun x => { x with releases := x.releases + 1 }
  if (bindSt s pl b).releases = r.sources then bindComplete s pl b else s

/-- SEQ_STORE_OVERLAP (07 R232, 14 R413): refused with RANGE, and the plot stops. -/
def storeOverlap (s : State) (p : Pkt) : State :=
  let pl := plotTarget s p
  let s := plotAbort s pl .seq fSeqStoreOverlap { addr := (plot s pl).pc.toNat, remote := rqOrigin p % 65536 }
  refuseRange s p fSeqStoreOverlap

/-- A request handed to an endpoint port; `group` are the requests it stands for (R414, R419). -/
def forwardReq (s : State) (field : Nat) (sent : Pkt) (group : List Pkt) : State :=
  { s with
    mem := { s.mem with fwd := s.mem.fwd ++ [{ field, sent, group }] }
    ingress := s.ingress ++ [{ port := none, unit := portUnit field, vl := mainVl sent.vl, p := { sent with vl := mainVl sent.vl }, looked := true,
                               checked := true, served := true }] }

/-- The endpoint's port cannot take a request: it is answered as R414 answers forwarded ones. -/
def portGone (s : State) (field : Nat) : Bool := (port s field).st != .up || portHedged s field

/-- POISON for a LOAD, OUTCOME_UNKNOWN for any other request (R414). -/
def unserved (s : State) (p : Pkt) : State :=
  if p.op = pLoad then answerReq s p rsPoison fPortDown 0 []
  else answerReq s p rsUnknown fPortDown 0 []

/-- The request that stands for a group of atomics (R419). -/
def combined (s : State) (ps : List Pkt) : Option Pkt :=
  match ps with
  | [] => none
  | [p] => some p
  | p :: _ =>
    let q := { p with src := ownAddr s, payload := p.payload.take 24 ++ leBytes 8 (groupOperand ps) ++ p.payload.drop 32 }
    some { q with hcrc := Pkt.crc q }

/-! ## Release stores (R415 to R417) -/

/-- What becomes of a release whose stores have been applied. -/
inductive RelFate
  | held | feed | applied (s : State)

/-- A STORE_REL applied or forwarded if its count has been reached and nothing holds it. -/
def tryRelease (s : State) (due : Bool) (p : Pkt) : RelFate :=
  let field := fieldOf p.dst
  let o := rqOrigin p
  let g := rqGen p
  let k := (localKind s field).1
  if (cntGen (srcSt s field o) g).toNat < rqPrior p then .held
  else
    let zero (s : State) : State := modSrc s field o (modCntGen g fun _ => 0)
    if k = 1 then
      if portGone s field then .applied (unserved s p)
      else .applied (forwardReq (modReplay s field o p.seq fun e => { e with held := none }) field p [p])
    else if k = 3 then
      if stackFenced s (reqStack p) then .applied (answerReq s p rsDead fGranaryFail 0 [])
      else if feedHolds s due p then .feed
      else .applied (answerReq (zero (granStore s p)) p rsOk 0 0 [])
    else
      match plotStoreFate s p with
      | .outside => .applied (refuseRange s p fMemRange)
      | .waits => .held
      | .hazard _ => .applied (arrivalHazard s (plotTarget s p))
      | .overlap => .applied (storeOverlap s p)
      | .writes b r =>
        let s := if rqBytes p = 0 then s else plotWrite s p b r
        .applied (answerReq (plotRelease (zero s) p b r) p rsOk 0 0 [])

/-- A release that must wait is held in its replay entry (R420), with its place where a feed holds it. -/
def releaseArrives (s : State) (due : Bool) (p : Pkt) : State :=
  let keep (s : State) (n : Option Nat) : State :=
    modReplay s (fieldOf p.dst) (rqOrigin p) p.seq fun e => { e with held := some p, heldAt := n }
  match tryRelease s due p with
  | .applied s => s
  | .held => keep s none
  | .feed => takeHeldNo (keep s (some s.mem.heldNext))

/-- Held releases tried again, those aside that a feed holds. -/
def retryHeld (mine : Pkt → Bool) (s : State) : State :=
  (s.mem.replay.filterMap fun e => if e.heldAt.isSome then none else e.held.filter mine).foldl (fun s p => releaseArrives s false p) s

/-- A source's held releases at a target, tried when one of its stores has been counted. -/
def retrySource (s : State) (field origin : Nat) : State := retryHeld (fun p => fieldOf p.dst == field && rqOrigin p == origin) s

/-! ## LINE_APPLY (R409) -/

/-- A STORE whose FLOOR does not refuse it. -/
def applyStore (s : State) (d : Deliv) (due : Bool) : State :=
  let p := d.p
  let field := fieldOf p.dst
  let k := (localKind s field).1
  let next (s : State) : State := retrySource s field (rqOrigin p)
  if k = 1 then
    let s := takeReqs s [d]
    if portGone s field then unserved s p else forwardReq s field p [p]
  else if k = 3 then
    if !granAllowed s p then next (refuseRange (takeReqs s [d]) p fMemRange)
    else if stackFenced s (reqStack p) then answerReq (takeReqs s [d]) p rsDead fGranaryFail 0 []
    else if feedHolds s due p then holdWrite s d
    else next (answerReq (granStore (takeReqs s [d]) p) p rsOk 0 0 [])
  else
    match plotStoreFate s p with
    | .outside => next (refuseRange (takeReqs s [d]) p fMemRange)
    | .waits => s
    | .hazard _ => arrivalHazard s (plotTarget s p)
    | .overlap => next (storeOverlap (takeReqs s [d]) p)
    | .writes b r =>
      let s := takeReqs s [d]
      let s := if rqBytes p = 0 then s else plotWrite s p b r
      next (answerReq s p rsOk 0 0 [])

/-- The head of a serializer applied or forwarded, or given to its controller to hold; a held write applied once it is `due`. -/
def applyHead (s : State) (d : Deliv) (rest : List Deliv) (due : Bool) (e : Ecc) : State :=
  let p := d.p
  let field := fieldOf p.dst
  let k := (localKind s field).1
  if k = 0 ∨ k = 4 ∨ k = 5 ∨ (k = 2 ∧ (p.op = pLoad ∨ p.op = pAtomic)) then refuseRange (takeReqs s [d]) p fMemRange
  else if s.mem.stateLost && p.op != pLoad then answerReq (takeReqs s [d]) p rsDead fMemStateLost 0 []
  else if p.op = pLoad then
    let s := takeReqs s [d]
    if k = 1 then (if portGone s field then unserved s p else forwardReq s field p [p])
    else if !granAllowed s p then refuseRange s p fMemRange
    else granLoad s p rest e
  else if p.op = pStore then
    if notAbove p.seq (srcSt s field (rqOrigin p)).floor then respond (takeReqs s [d]) p rsUnknown 0 0 []
    else applyStore s d due
  else if p.op = pStoreRel then
    if k = 3 && !granAllowed s p then refuseRange (takeReqs s [d]) p fMemRange
    else releaseArrives (takeReqs s [d]) due p
  else
    let ds := headGroup (d :: rest)
    let ps := ds.map (·.p)
    if k = 1 then
      let s := takeReqs s ds
      if portGone s field then ps.foldl unserved s
      else match combined s ps with
        | some q => forwardReq s field q ps
        | none => s
    else if !granAllowed s p then ps.foldl (fun s q => refuseRange s q fMemRange) (takeReqs s ds)
    else if stackFenced s (reqStack p) then ps.foldl (fun s q => answerReq s q rsDead fGranaryFail 0 []) (takeReqs s ds)
    else if feedHolds s due p then holdWrite s d
    else granAtomics (takeReqs s ds) ps e

/-- A line's held write whose turn it is applied (04 R137). -/
def applyDue (line : Nat) (e : Ecc) (s : State) : Option State :=
  match s.delivered.find? fun d => isRequest d.p.op && rqLine d.p == line && d.heldAt.any (heldTurn s) with
  | some d => some (applyHead s d [] true e)
  | none =>
    ((s.mem.replay.find? fun x => x.heldAt.any (heldTurn s) && x.held.any fun p => rqLine p == line).bind (·.held)).map fun p =>
      releaseArrives (modReplay s (fieldOf p.dst) (rqOrigin p) p.seq fun x => { x with heldAt := none }) true p

/-- A held write of a line has been let go and has not had its turn. -/
def dueWaits (s : State) (line : Nat) : Bool :=
  let due (n : Nat) : Bool := decide (n < s.mem.heldDue)
  (s.delivered.any fun d => isRequest d.p.op && rqLine d.p == line && d.heldAt.any due) ||
    s.mem.replay.any fun x => x.heldAt.any due && x.held.any fun p => rqLine p == line

/-- LINE_APPLY: a held write of the line that is due, the next request of the line, or with none waiting the releases held
there. -/
def lineApply (line : Nat) (e : Ecc) (s : State) : State :=
  if let some s' := applyDue line e s then s'
  else if dueWaits s line then s
  else match lineQueue s line with
  | [] => retryHeld (fun p => rqLine p == line) { s with mem := { s.mem with hotMiss := s.mem.hotMiss.filter (· != line) } }
  | d :: rest =>
    if isTracked d.p.op && !d.tracked then s
    else
      let w := rest.length + 1
      let s := lineMarks s (d :: rest)
      applyHead (hotQuench (hotTake s (lineDie s d.p) line w) line w d.p) d rest false e

def execLineApply (line : BitVec 57) (e : Ecc) (s : State) : Out := event s (lineApply line.toNat e)

/-- HOT_SET_CLEAR (R422). -/
def execHotSetClear (line : BitVec 57) (s : State) : Out :=
  event s fun s => { s with mem := { s.mem with hot := s.mem.hot.map fun h => if h.line == line.toNat then { h with set := [] } else h } }

/-- HOT_LINE_RETIRE (R422): only a line with no waiting request. -/
def execHotLineRetire (line : BitVec 57) (s : State) : Out :=
  event s fun s =>
    if (lineQueue s line.toNat).isEmpty then { s with mem := { s.mem with hot := s.mem.hot.filter fun h => h.line != line.toNat } } else s

/-! ## REPLAY_EXPIRY and SOURCE_RESET (R420, R421) -/

/-- 100 microseconds after it became DONE an entry is freed, and LOW_WATER advances. -/
def replayExpiry (field origin : Nat) (seq : Word) (s : State) : State :=
  match replayOf s field origin seq with
  | none => s
  | some e =>
    if e.answer.isNone then s
    else
      let s := { s with mem := { s.mem with replay := s.mem.replay.erase e } }
      modSrc s field origin fun x =>
        match x.low with
        | some l => if serialAbove l seq then x else { x with low := some seq }
        | none => { x with low := some seq }

def execReplayExpiry (field : BitVec 10) (origin : Addr) (seq : Word) (s : State) : Out :=
  event s (replayExpiry field.toNat origin.toNat seq)

/-- The request of a source that an entry at a target stands for: held, in its serializer, or forwarded to an endpoint. -/
def pendingOf (s : State) (field origin : Nat) : List Pkt :=
  let mine (p : Pkt) : Bool := fieldOf p.dst == field && rqOrigin p == origin
  ((s.mem.replay.filterMap (·.held)) ++ ((s.delivered.filter fun d => d.tracked && isTracked d.p.op).map (·.p)) ++
    ((s.mem.fwd.flatMap (·.group)).filter fun p => p.op == pStoreRel)).filter mine

/-- FLOOR raised, the counts zeroed, the pending release ended without being applied, and with it every atomic at or below FLOOR
that has not been applied (R421). -/
def resetSource (s : State) (field origin : Nat) (floor : Word) : State :=
  let x := srcSt s field origin
  let rises := match x.floor with
    | none => true
    | some f => serialAbove floor f
  if !rises then s
  else
    let ended := (pendingOf s field origin).filter fun p => p.op == pStoreRel || !serialAbove p.seq floor
    let s := modSrc s field origin fun x => { x with floor := some floor, cnt0 := 0, cnt1 := 0 }
    let s := { s with
      delivered := s.delivered.filter fun d => !(d.tracked && ended.contains d.p)
      mem := { s.mem with fwd := s.mem.fwd.filter fun f => !(f.group.length == 1 && f.group.any ended.contains) } }
    ended.foldl (fun s p => answerReq s p rsUnknown 0 0 []) s

def sourceReset (c : Cmd) (s : State) : State :=
  let field := c.u 0 2
  recovery oSourceReset c uField field (2 ^ 36 + srcKey field (c.u 4 3)) field s fun s =>
    resetSource s field (c.u 4 3) (BitVec.ofNat 32 (c.u 8 4))

def execSourceReset (c : Cmd) (s : State) : Out :=
  onCmd oSourceReset c [(0, 2), (4, 3), (8, 4)] (decide (c.u 0 2 < 1024)) s (sourceReset c)

/-! ## Answers (R405, R414, R416, R428) -/

/-- An endpoint's answer at its port: relayed and kept, a store counted when the answer echoes its generation (R416); a group's
members get their own. -/
def endpointAnswer (n : Nat) (a : Pkt) (s : State) : State :=
  match headLodged s (some n) a.vl 0 with
  | none => s
  | some l =>
    if l.p ≠ a ∨ l.checked = true ∨ !(endpointPort s n && headerOk s n a && srcOk s n a) then s
    else
      match s.mem.fwd.find? fun f => f.field == n && answers a f.sent with
      | none => dropLodged s l
      | some f =>
        let s := { s with mem := { s.mem with fwd := s.mem.fwd.erase f } }
        let st := rsStatus a
        let code := leAt a.payload 4 2
        let old := leAt a.payload 16 8
        let zeroed (s : State) (p : Pkt) : State :=
          if p.op = pStoreRel ∧ st = rsOk then modSrc s n (rqOrigin p) (modCntGen (rqGen p) fun _ => 0) else s
        let counted (s : State) (p : Pkt) : State :=
          if p.op = pStore then (if bit (leAt a.payload 1 1) 0 = rqGen p then countStore s p else s) else settle s p st code old
        match f.group with
        | [p] => retrySource (zeroed (counted (setLodged s l { l with checked := true }) p) p) n (rqOrigin p)
        | ps => (runGroup ps old).1.foldl (fun s q => answerReq s q.1 st (BitVec.ofNat 16 code) q.2 []) (dropLodged s l)

/-- A far gateway's record that an answer belongs to. -/
def recMatches (a : Pkt) (r : FarRec) : Bool := !r.answered && answers a r.p

/-- COACH_DONE once every record of a far room has been answered (R428). -/
def farDone (s : State) (n : Nat) (f : FarRun) : State :=
  if f.recs.all (·.answered) then
    let s := modGate s n fun g => { g with far := g.far.filter fun x => x.run != f.run }
    sendGate s n 5 pCoachDone 0 f.run (pack 16 [(0, 4, f.recs.length), (4, 4, f.byTarget), (8, 4, f.bySelf)])
  else modGate s n fun g => { g with far := g.far.map fun x => if x.run == f.run then f else x }

/-- Records of a far room answered: those for which `f` gives an answer are sent on to their ORIGIN as RSP packets. -/
def answerRecs (s : State) (n : Nat) (run : FarRun) (self : Bool) (f : FarRec → Option Pkt) : State :=
  let r := run.recs.foldl (fun (a : State × List FarRec × Nat) x =>
    match if x.answered then none else f x with
    | some k => (send a.1 (gateUnit a.1 n) k, a.2.1 ++ [{ x with answered := true }], a.2.2 + 1)
    | none => (a.1, a.2.1 ++ [x], a.2.2)) (s, [], 0)
  farDone r.1 n { run with
    recs := r.2.1
    byTarget := if self then run.byTarget else run.byTarget + r.2.2
    bySelf := if self then run.bySelf + r.2.2 else run.bySelf }

/-- An answer addressed to the DEVICE port field (R428): the gateway that holds its record sends it on. -/
def farAnswer (s : State) (a : Pkt) : State :=
  match (coachPorts s).findSome? fun n => ((gateway s n).far.find? fun f => f.recs.any (recMatches a)).map fun f => (n, f) with
  | none => s
  | some (n, f) =>
    let first := f.recs.find? (recMatches a)
    answerRecs s n f false fun r =>
      if some r == first then some (mkPkt (ownAddr s) (BitVec.ofNat 24 (rsOrigin a)) 5 a.op a.seq a.fcid a.epoch a.payload) else none

/-- A GET's answer waits while a feed holds writes to its range (R137). -/
def getHeld (s : State) (a : Pkt) : Bool :=
  s.mem.runs.any fun r => r.get && r.open_.any fun x =>
    x.1 == a.seq && x.2.1 / 2 ^ 40 == rsTarget a && inActiveShare s x.2.2.1 x.2.2.2

/-- LOAD_RSP, STORE_ACK and ATOMIC_RSP: at an endpoint's port, or delivered to this device. -/
def memAnswer (op : BitVec 5) (n : Option Nat) (a : Pkt) (s : State) : State :=
  if a.op ≠ op then s
  else
    match n with
    | some k => endpointAnswer k a s
    | none =>
      let k := (localKind s (fieldOf a.dst)).1
      match s.delivered.find? fun d => d.p == a with
      | none => s
      | some d =>
      let wait := match d.heldAt with
        | some n => !heldTurn s n
        | none => k == 3 && getHeld s a
      if wait then (if d.heldAt.isSome then s else holdWrite s d)
      else if k = 5 then farAnswer (taken s a) a
      else trackAnswer (taken s a) a

def execLoadRsp (n : Option (BitVec 10)) (p : Pkt) (s : State) : Out := onPkt p s (memAnswer pLoadRsp (n.map (·.toNat)) p)
def execStoreAck (n : Option (BitVec 10)) (p : Pkt) (s : State) : Out := onPkt p s (memAnswer pStoreAck (n.map (·.toNat)) p)
def execAtomicRsp (n : Option (BitVec 10)) (p : Pkt) (s : State) : Out := onPkt p s (memAnswer pAtomicRsp (n.map (·.toNat)) p)

/-! ## What a change of hedges or ports does (R407, R414, R429) -/

/-- A gateway whose port is down or hedged: rooms freed, credits forgotten, runs lost. -/
def dropGate (s : State) (n : Nat) : State :=
  let g := gateway s n
  let gone := g.near.length + g.far.length
  if g = { lost := g.lost } then s
  else
    let s := modGate s n fun g => { lost := g.lost + gone }
    { s with mem := { s.mem with runsLost := (List.range gone).foldl (fun x _ => satInc x) s.mem.runsLost } }

def memOnHedge (s : State) : State :=
  let s := (s.mem.track.filter fun t => targetHedged s t.p.dst.toNat).foldl giveUp s
  let lost := s.mem.fwd.filter fun f => portGone s f.field
  let s := { s with mem := { s.mem with fwd := s.mem.fwd.filter fun f => !portGone s f.field } }
  let s := lost.foldl (fun s f =>
    f.group.foldl unserved { s with ingress := s.ingress.filter fun l => !(l.served && l.p == f.sent) }) s
  ((coachPorts s).filter fun n => (port s n).st != .up || portHedged s n).foldl dropGate s

end Sys2Proof.Machine
end

