-- ==== Sys2Proof/Machine/Coach.lean ====
section
/-!
DEFINITION. Commanded runs and coach gateways (14 R425 to R430).
-/

namespace Sys2Proof.Machine
open Sys2Proof

/-- COACH_PUT and COACH_GET (R430): a commanded run starts, waits for one of the 64, or is refused. -/
def coachCommand (op : Half) (get : Bool) (c : Cmd) (s : State) : State :=
  let local_ := c.u 0 8
  let n := c.u 16 4
  if (fieldOfKind s 3).isNone || !s.clk.readyGranary then cmdDone s c op stUnitState
  else if decide (2 ^ 38 < local_ + n) || meetsArea (reservedAreas s) local_ n then cmdDone s c op stRange
  else if 64 ≤ s.mem.runs.length then { s with mem := { s.mem with runQueue := s.mem.runQueue ++ [(c, get)] } }
  else startRun s c get

def coachFields : List (Nat × Nat) := [(0, 8), (8, 8), (16, 4), (24, 8)]

def execCoachPut (c : Cmd) (s : State) : Out :=
  onCmd oCoachPut c coachFields (decide (c.u 16 4 ≤ 65536)) s (coachCommand oCoachPut false c)
def execCoachGet (c : Cmd) (s : State) : Out :=
  onCmd oCoachGet c coachFields (decide (c.u 16 4 ≤ 65536)) s (coachCommand oCoachGet true c)

/-- The run number after `r`, skipping 0xFFFFFFFF (R427). -/
def nextRunNo (r : Word) : Word := if r = 0xFFFFFFFE then 0 else r + 1

/-- COACH_RUN_CLOSE (R426, R427): the open run leaves as 1 to 32 COACH_RUN packets. -/
def coachRunClose (n : Nat) (s : State) : State :=
  let g := gateway s n
  if g.run.isEmpty then s
  else
    let ps := packRecords g.run
    let s := (enum ps).foldl (fun s e =>
      sendGate s n 3 pCoachRun (BitVec.ofNat 32 e.1) g.nextRun
        (pack 8 [(0, 2, e.2.length), (2, 2, ps.length), (4, 2, g.run.length)] ++ e.2.flatMap fun p => Pkt.header p ++ p.payload)) s
    modGate s n fun g => { g with run := [], nextRun := nextRunNo g.nextRun }

def execCoachRunClose (n : BitVec 10) (s : State) : Out := event s (coachRunClose n.toNat)

/-- Records of a COACH_RUN payload. -/
def unpackRecords : Nat → List Byte → List Pkt
  | 0, _ => []
  | k + 1, bs =>
    let p := parsePkt bs
    p :: unpackRecords k (bs.drop (recordLen p))

/-- A delivered packet that came in at a port. -/
def arrivedAt (s : State) (n : Nat) (p : Pkt) : Bool := s.delivered.any fun d => d.port == some n && d.p == p
def takeAt (s : State) (n : Nat) (p : Pkt) : State := { s with delivered := s.delivered.eraseP fun d => d.port == some n && d.p == p }

/-- COACH_RUN (R428): a whole run takes a far room, and its records leave as FWD packets; without a room it is lost. -/
def coachRun (n : Nat) (p : Pkt) (s : State) : State :=
  if !arrivedAt s n p || p.op != pCoachRun then s
  else
    let s := takeAt s n p
    let parts := ((gateway s n).parts ++ [p])
    let mine := parts.filter fun q => q.fcid == p.fcid
    if !hasGate s n then s
    else if mine.length < leAt p.payload 2 2 then modGate s n fun g => { g with parts }
    else
      let s := modGate s n fun g => { g with parts := parts.filter fun q => q.fcid != p.fcid }
      if gateRooms s n ≤ (gateway s n).far.length then
        let s := modGate s n fun g => { g with lost := g.lost + 1 }
        { s with mem := { s.mem with runsLost := satInc s.mem.runsLost } }
      else
        let order := (List.range mine.length).flatMap fun i => mine.filter fun q => q.seq.toNat == i
        let recs := order.flatMap fun q => unpackRecords (leAt q.payload 0 2) (q.payload.drop 8)
        let pkts := recs.map fun r => mkPkt (ownAddr s) r.dst 3 r.op r.seq r.fcid r.epoch (slice r.payload 0 (4 * r.len.toNat))
        let s := pkts.foldl (fun s k => send s (gateUnit s n) k) s
        let run : FarRun := { run := p.fcid, recs := pkts.map fun q => { p := q } }
        let s := modGate s n fun g => { g with far := g.far ++ [run] }
        if pkts.isEmpty then farDone s n run else s

def execCoachRun (n : BitVec 10) (p : Pkt) (s : State) : Out := onPkt p s (coachRun n.toNat p)

/-- COACH_TIMEOUT (R428): LOAD_TIMEOUT after unpacking, what is unanswered is answered here. -/
def coachTimeout (n : Nat) (run : Word) (s : State) : State :=
  match (gateway s n).far.find? fun f => f.run == run with
  | none => s
  | some f =>
    let s := if f.recs.any fun r => !r.answered && r.p.op == pLoad then raise s fMemPoison uField n else s
    answerRecs s n f true fun r =>
      let src := BitVec.ofNat 24 (rqOrigin r.p)
      some (if r.p.op = pLoad then rspPkt s r.p src rsPoison fMemPoison.toNat 0 [] else rspPkt s r.p src rsUnknown fMemUnknown.toNat 0 [])

def execCoachTimeout (n : BitVec 10) (run : Word) (s : State) : Out := event s (coachTimeout n.toNat run)

/-- COACH_DONE (R428): an announcement sets the credits, a completion returns one and frees the near room. -/
def coachDone (n : Nat) (p : Pkt) (s : State) : State :=
  if !arrivedAt s n p || p.op != pCoachDone then s
  else
    let s := takeAt s n p
    if p.fcid = 0xFFFFFFFF then modGate s n fun g => { g with credits := leAt p.payload 12 4 }
    else if (gateway s n).near.contains p.fcid then
      modGate s n fun g => { g with near := g.near.erase p.fcid, credits := g.credits + 1 }
    else s

def execCoachDone (n : BitVec 10) (p : Pkt) (s : State) : Out := onPkt p s (coachDone n.toNat p)

end Sys2Proof.Machine
end

