-- ==== Sys2Proof/Machine/Hedge.lean ====
section
/-!
DEFINITION. The hedge set (18 R505 to R509), its notices, and a port going down (10 R319).
-/

namespace Sys2Proof.Machine
open Sys2Proof

/-- Rank of a state at equal epoch (R506). -/
def HState.rank : HState → Nat
  | .hedged => 2
  | .lifted => 1
  | .opened => 0

/-- R506: a new state replaces a held one. -/
def supersedes (st : HState) (epoch : Word) (e : HEntry) : Bool :=
  serialAbove epoch e.epoch || (epoch == e.epoch && decide (HState.rank e.st < HState.rank st))

/-- Wire code of a state (Table 18-6). -/
def HState.code : HState → Nat
  | .hedged => 0
  | .opened => 1
  | .lifted => 2

def HState.ofCode (n : Nat) : Option HState :=
  if n = 0 then some .hedged else if n = 1 then some .opened else if n = 2 then some .lifted else none

/-- The 24 bytes of a notice (Table 18-6). -/
def noticeBytes (target : Nat) (st : HState) (cause : Nat) (epoch : Word) (origin headland : Nat) : List Byte :=
  pack 24 [(0, 4, target), (4, 1, HState.code st), (6, 2, cause), (8, 4, epoch.toNat), (12, 2, origin), (16, 8, headland)]

/-- TARGET of a device, an endpoint and a link. -/
def devTarget (d : Nat) : Nat := d * 1024
def epTarget (a : Nat) : Nat := 2 ^ 30 + a
def linkTarget (n : Nat) : Nat := 2 ^ 31 + n

/-- A notice sent on every port with a device peer but one (R507). -/
def forwardNotice (s : State) (except : Option Nat) (bytes : List Byte) : State :=
  ((devicePorts s).filter fun n => some n != except).foldl
    (fun s n => sendMgtOn s n ((port s n).peer.getD 0) pMgtHedge bytes) s

/-- EPOCH_MAX raised to an applied epoch (R505). -/
def seeEpoch (s : State) (e : Word) : State :=
  if serialAbove e s.fault.epochMax then { s with fault := { s.fault with epochMax := e } } else s

/-- The new entry of a hedge state. -/
def newEntry (st : HState) (epoch : Word) (headland cause : Nat) (body : List Byte) : HEntry :=
  { st, epoch, cause := BitVec.ofNat 16 cause, pend := if st = .lifted then some (BitVec.ofNat 64 headland) else none, body }

/-- A HEDGE tally entry (Table 18-10). -/
def hedgeEntry (s : State) (bytes : List Byte) (loc : Option Nat) : State :=
  tally s { kind := kHedge, body := bytes ++ pack 16 [(0, 1, if loc.isSome then 1 else 0), (2, 2, loc.getD 0)] }

/-- A local port entry changed under R506; local entries are not sent (R507). -/
def setLocal (s : State) (n : Nat) (st : HState) (epoch : Word) (headland : Nat) (cause : Nat) (body : List Byte) : State :=
  if supersedes st epoch (locEntry s n) then
    let s := seeEpoch s epoch
    let s := { s with hedge := { s.hedge with loc := Tab.set {} s.hedge.loc n (newEntry st epoch headland cause body) } }
    hedgeEntry s (noticeBytes (linkTarget n) st cause epoch s.plan.deviceId.toNat headland) (some n)
  else s

/-- A port that is hedged or not UP. -/
def portOut (s : State) (n : Nat) : Bool := (port s n).st != .up || portHedged s n

/-- What follows a change of hedges or port states from `old` on: queued packets of ports that have been hedged or gone down
are looked up again (11 R343), ESCAPE_LOST (11 R345), members lost (03 R94), requests to hedged targets
settled (14 R407). -/
def afterHedge (old s : State) : State :=
  let s := ((planPorts s).filter fun n => portOut s n && !(portOut old n && (port old n).st == (port s n).st)).foldl requeuePort s
  memOnHedge (stageOnHedge (collOnHedge (escapeLost s)))

/-- A device or endpoint entry changed under R506 by a notice, which is then forwarded and recorded
(R507); `orig` when this device originates it and repeats it 50 and 100 microseconds later. -/
def applyNotice (s : State) (except : Option Nat) (orig : Bool) (target : Nat) (st : HState) (epoch : Word)
    (headland cause origin : Nat) (body : List Byte) : State :=
  let old := s
  let isDev := decide (target < 2 ^ 30)
  let key := if isDev then bits target 23 10 else bits target 23 0
  let held := if isDev then devEntry s key else epEntry s key
  if !supersedes st epoch held then s
  else
    let s := seeEpoch s epoch
    let full := !isDev && decide (1024 ≤ s.hedge.ep.length) && decide (held = {})
    let s :=
      if isDev then { s with hedge := { s.hedge with dev := Tab.set {} s.hedge.dev key (newEntry st epoch headland cause body) } }
      else if full then { s with hedge := { s.hedge with overflow := satInc s.hedge.overflow } }
      else { s with hedge := { s.hedge with ep := Tab.set {} s.hedge.ep key (newEntry st epoch headland cause body) } }
    let s := if full && key / 1024 == s.plan.deviceId.toNat then setLocal s (key % 1024) st epoch headland cause body else s
    let bytes := noticeBytes target st cause epoch origin headland
    let s := hedgeEntry (forwardNotice s except bytes) bytes none
    let s := if orig then { s with hedge := { s.hedge with repeats := s.hedge.repeats ++ [{ bytes, left := 2 }] } } else s
    afterHedge old s

/-- A hedge the device raises itself takes EPOCH_MAX (R505). -/
def raiseHedge (s : State) (target cause : Nat) : State :=
  applyNotice s none true target .hedged s.fault.epochMax 0 cause s.plan.deviceId.toNat []

/-- A port goes down (10 R319): PORT_DOWN, every lane squelched, FENCED, hedged; a packet whose last
flits had not come is discarded (12 R357); an EDGE endpoint's own entry is hedged too (18 R509). -/
def portDown (s : State) (n : Nat) : State :=
  let old := s
  let s := raise s fPortDown uPort n
  let cut := (port s n).asm.length
  let s := modCore s (dieOf n) fun c => { c with truncated := (List.range cut).foldl (fun x _ => satInc x) c.truncated }
  let s := modPort s n fun p => { p with st := .fenced, restriping := false, asm := [], ctrlQ := [], paused := 0, pauseAll := false, xoff := 0 }
  let s := setLocal s n .hedged s.fault.epochMax 0 fPortDown.toNat []
  let s := if isEdge s n then raiseHedge s (epTarget (s.plan.deviceId.toNat * 1024 + n)) fPortDown.toNat else s
  afterHedge old s

/-- Pending lifts whose headland is reached take effect (R506, R515). -/
def liftEntries (t : Tab HEntry) (h : Nat) : Tab HEntry :=
  t.foldl (fun t e =>
    match e.2.pend with
    | some p => if p.toNat ≤ h then Tab.set {} t e.1 { e.2 with pend := none } else t
    | none => t) t

/-- A pending lift is due. -/
def HEntry.due (e : HEntry) (h : Nat) : Bool := (e.pend.map fun x => decide (x.toNat ≤ h)).getD false

/-- The epoch of a lift due at `h` that returns a port to full service: that of its peer device or of its endpoint (R515). -/
def portLift (s : State) (h n : Nat) : Option Word :=
  let d := ((peerDevice s n).map (devEntry s)).getD {}
  let a := epEntry s (s.plan.deviceId.toNat * 1024 + n)
  if HEntry.due d h then some d.epoch else if HEntry.due a h then some a.epoch else none

/-- The ports that a lift due at `h` returns to full service: a hedge of theirs below the lift's epoch goes (log 101). -/
def liftPorts (s : State) (h : Nat) : Tab HEntry :=
  (planPorts s).foldl (fun t n =>
    match portLift s h n with
    | some e => if HEntry.shut (Tab.get {} t n) && serialAbove e (Tab.get {} t n).epoch then Tab.set {} t n { st := .lifted, epoch := e } else t
    | none => t) s.hedge.loc

/-- Every pending lift of the hedge set settled at a headland. -/
def liftAll (s : State) : State :=
  let h := now s
  { s with hedge := { s.hedge with dev := liftEntries s.hedge.dev h, ep := liftEntries s.hedge.ep h, loc := liftEntries (liftPorts s h) h } }

/-- Entries counted in HSET_CRC, in ascending TARGET: those not LIFTED with epoch 0 (R507). -/
def hsetEntries (s : State) : List (Nat × HEntry) :=
  let live := fun (e : Nat × HEntry) => e.2.st != .lifted || e.2.epoch != 0
  ((s.hedge.dev.filter live).map fun e => (devTarget e.1, e.2)) ++ ((s.hedge.ep.filter live).map fun e => (epTarget e.1, e.2))

/-- HSET_CRC (R507). -/
def hsetCrc (s : State) : Word :=
  crc32c ((hsetEntries s).flatMap fun e => pack 12 [(0, 4, e.1), (4, 1, HState.code e.2.st), (8, 4, e.2.epoch.toNat)])

/-! ## Beacons -/

/-- The beacon payload (Table 18-4). -/
def beaconBytes (s : State) : List Byte :=
  pack 24 [(0, 2, s.plan.deviceId.toNat), (2, 1, if s.yoke.role = .shadow then 1 else 0), (4, 4, s.fault.epochMax.toNat),
    (8, 8, now s), (16, 4, (hsetCrc s).toNat), (20, 4, (hsetEntries s).length)]

/-- Peer devices of UP ports that have no counter yet. -/
def newPeers (s : State) : List Nat :=
  (((devicePorts s).filterMap (peerDevice s)).filter fun d => !(s.hedge.beacons.any fun b => b.device.toNat == d)).eraseDups

/-- BEACON_SEND (R504): a beacon on every UP port with a device peer, and one silent period counted for each peer that is not
idle; a peer that is new has its counter from here on. -/
def beaconSend (s : State) : State :=
  let b := beaconBytes s
  let new : List Beacon := (newPeers s).map fun d => { device := BitVec.ofNat 14 d, silent := 0, idle := false, mismatches := 0 }
  let s := (devicePorts s).foldl (fun s n => sendMgtOn s n ((port s n).peer.getD 0) pMgtBeacon b) s
  { s with hedge := { s.hedge with
    beacons := (s.hedge.beacons.map fun x => if x.idle then x else { x with silent := x.silent + 1 }) ++ new } }

def execBeaconSend (s : State) : Out := event s beaconSend

/-- A delivered packet taken. -/
def take (s : State) (p : Pkt) : State := { s with delivered := s.delivered.eraseP fun d => d.p == p }

/-- MGT_BEACON (R504, R507): it resets the peer's counter; four that disagree in HSET_CRC are answered
with one notice for each counted entry. -/
def mgtBeacon (n : Nat) (p : Pkt) (s : State) : State :=
  let s := take s p
  let d := leAt p.payload 0 2
  if !(devicePorts s).contains n || some d != peerDevice s n || decide (16384 ≤ d) then s
  else
    let old := (s.hedge.beacons.find? fun b => b.device.toNat == d).getD { device := BitVec.ofNat 14 d, silent := 0, idle := false, mismatches := 0 }
    let bad := leAt p.payload 16 4 != (hsetCrc s).toNat
    let m := if bad then old.mismatches + 1 else 0
    let new : Beacon := { old with silent := 0, idle := false, mismatches := if m = 4 then 0 else m }
    let s := { s with hedge := { s.hedge with
      beacons := (s.hedge.beacons.filter fun b => b.device.toNat != d) ++ [new] } }
    if m = 4 then
      (hsetEntries s).foldl (fun s e =>
        sendMgtOn s n ((port s n).peer.getD 0) pMgtHedge
          (noticeBytes e.1 e.2.st e.2.cause.toNat e.2.epoch s.plan.deviceId.toNat ((e.2.pend.map (·.toNat)).getD 0))) s
    else s

def execMgtBeacon (n : BitVec 10) (p : Pkt) (s : State) : Out := onPkt p s (mgtBeacon n.toNat p)

/-- BEACON_LOST (R504): 16 periods without a beacon; raised once, then the counter idles. -/
def beaconLost (d : BitVec 14) (s : State) : State :=
  match s.hedge.beacons.find? fun b => b.device == d with
  | none => s
  | some b =>
    if b.idle ∨ b.silent < 16 then s
    else
      let s := { s with hedge := { s.hedge with
        beacons := s.hedge.beacons.map fun x => if x.device == d then { x with idle := true } else x } }
      raiseHedge (raiseAt s fBeaconLost uDevice 0 d.toNat 0) (devTarget d.toNat) fBeaconLost.toNat

def execBeaconLost (d : BitVec 14) (s : State) : Out := event s (beaconLost d)

/-- MGT_HEDGE (R506, R507): a notice merged, recorded and forwarded when it changes an entry; the set holds the devices 0 to
16,382 (R505). -/
def mgtHedge (n : Nat) (p : Pkt) (s : State) : State :=
  let s := take s p
  let t := leAt p.payload 0 4
  match HState.ofCode (leAt p.payload 4 1) with
  | some st =>
    if (devicePorts s).contains n && decide (t < 2 ^ 31) && bits t 23 10 != 16383 then
      applyNotice s (some n) false t st (BitVec.ofNat 32 (leAt p.payload 8 4)) (leAt p.payload 16 8) (leAt p.payload 6 2)
        (leAt p.payload 12 2) []
    else s
  | none => s

def execMgtHedge (n : BitVec 10) (p : Pkt) (s : State) : Out := onPkt p s (mgtHedge n.toNat p)

/-- HEDGE_REPEAT (R507): the oldest notice with repeats left is sent again. -/
def hedgeRepeat (s : State) : State :=
  match s.hedge.repeats with
  | [] => s
  | r :: rs =>
    let rest := if r.left ≤ 1 then rs else rs ++ [{ r with left := r.left - 1 }]
    forwardNotice { s with hedge := { s.hedge with repeats := rest } } none r.bytes

def execHedgeRepeat (s : State) : Out := event s hedgeRepeat

end Sys2Proof.Machine
end

