-- ==== Sys2Proof/Machine/Link.lean ====
section
/-!
DEFINITION. The link layer (10): flits received, retry, bring-up, narrowing, EDGE frames.
-/

namespace Sys2Proof.Machine
open Sys2Proof

/-! ## Receiving flits -/

/-- A flit's FCRC is right and its codeword correctable (R311). -/
def flitGood (f : Flit) (cw : Ecc) : Bool := cw != .ue && f.fcrc == flitCrc f

/-- Flits acknowledged by an ACK_SEQ leave the retry buffer (R311): those before it, when it lies within
the window sent. -/
def ackTo (p : Port) (a : BitVec 11) : Port :=
  let rest := p.retryBuf.dropWhile fun f => f.txSeq != a
  if a = p.txSeq then
    { p with retryBuf := [], futile := if p.retryBuf.isEmpty then p.futile else 0, timedOut := none }
  else if rest.isEmpty then p
  else if rest.length < p.retryBuf.length then { p with retryBuf := rest, futile := 0, timedOut := none }
  else p

/-- FEC_CORRECTED counts a corrected codeword, FEC_UNCORRECTED one that could not be corrected (Table 10-13). -/
def countCw (s : State) (n : Nat) (cw : Ecc) : State :=
  match cw with
  | .ok => s
  | .ce => modPort s n fun p => { p with fecCorr := p.fecCorr + 1 }
  | .ue => modPort s n fun p => { p with fecUncorr := satInc p.fecUncorr }

/-- The port receives flits: it is up or in INIT, and no restriping is under way (R318). -/
def receives (s : State) (n : Nat) : Bool :=
  isFabric s n && ((port s n).st == .up || (port s n).st == .init) && !(port s n).restriping

/-- A flit in sequence is accepted. -/
def acceptFlit (s : State) (n : Nat) (f : Flit) : State :=
  modPort s n fun p => { (if f.ackValid then ackTo p f.ackSeq else p) with rxExpect := p.rxExpect + 1, nakSent := false }

/-- A numbered flit received (R311, R312): in sequence it is accepted and `k` runs; otherwise it is
discarded and one NAK names the sequence number expected. -/
def rxFlit (s : State) (n : Nat) (f : Flit) (cw : Ecc) (k : State → State) : State :=
  let p := port s n
  if receives s n then
    let s := countCw s n cw
    if flitGood f cw && f.txSeq == p.rxExpect then k (acceptFlit s n f)
    else if p.nakSent then s
    else
      queueCtrl (modPort s n fun p => { p with nakSent := true }) n
        (pack 256 [(0, 1, 3), (2, 2, p.rxExpect.toNat)])
  else s

/-- A packet reassembled from its flits joins the ingress lodging (R307, 11 R340). -/
def lodge (s : State) (n : Nat) (vl : BitVec 4) (bytes : List Byte) : State :=
  let p := parsePkt bytes
  glean { s with ingress := s.ingress ++ [{ port := some n, vl, p }] } n 0 vl.toNat
    (slice bytes 0 (32 + 4 * p.len.toNat))

/-- A DATA flit accepted: a VL with no credit outstanding raises LINK_CREDIT, and the port goes down
(R309); otherwise its body joins its packet. -/
def dataFlit (n : Nat) (f : Flit) (s : State) : State :=
  let p := port s n
  let v := f.vl.toNat
  if Tab.get 0 p.granted v = 0 then portDown (raise s fLinkCredit uPort n) n
  else
    let bytes := (if bit f.pos.toNat 0 then [] else Tab.get [] p.asm v) ++ f.body
    let last := f.pos == 3 || f.pos == 2
    let s := modPort s n fun p =>
      { p with granted := Tab.upd 0 p.granted v (· - 1), asm := Tab.set [] p.asm v (if last then [] else bytes) }
    if last then lodge s n f.vl bytes else s

def execDataFlit (n : BitVec 10) (f : Flit) (cw : Ecc) (s : State) : Out :=
  event s fun s => if f.ftype = 1 then rxFlit s n.toNat f cw (dataFlit n.toNat f) else s

/-- A CTRL flit of a given CKIND. -/
def onCtrl (ck : Nat) (n : Nat) (f : Flit) (cw : Ecc) (s : State) (k : State → State) : State :=
  if f.ftype = 2 ∧ leAt f.body 0 1 = ck then rxFlit s n f cw k else s

/-- CREDIT: returned credits are added (R309). -/
def creditIn (n : Nat) (f : Flit) (s : State) : State :=
  modPort s n fun p =>
    { p with credits := (List.range 10).foldl (fun t v => Tab.upd 0 t v (· + leAt f.body (12 + 2 * v) 2)) p.credits }

def execCredit (n : BitVec 10) (f : Flit) (cw : Ecc) (s : State) : Out :=
  event s fun s => onCtrl 2 n.toNat f cw s (creditIn n.toNat f)

/-- CREDIT_TIMER (R309): 64 flit times after the oldest unreturned credit. -/
def creditTimer (n : Nat) (s : State) : State :=
  if (port s n).st == .up && !(port s n).owed.isEmpty then creditFlit s n else s

def execCreditTimer (n : BitVec 10) (s : State) : Out := event s (creditTimer n.toNat)

/-- A resend of every kept flit from a sequence number, in order; sixteen that advance nothing raise
LINK_RETRY_EXHAUST, and the port goes down (R312, R313). -/
def resend (s : State) (n : Nat) (fro : BitVec 11) : State :=
  let p := ackTo (port s n) fro
  let out := p.retryBuf.map (stampFlit p)
  let s := transmit s (out.map (.flit n))
  let s := { modPort s n (fun _ => { p with retries := p.retries + 1, futile := p.futile + 1 }) with
    audit := { s.audit with retries := s.audit.retries + 1 } }
  if 16 ≤ (port s n).futile then portDown (raise s fLinkRetryExhaust uPort n) n else s

/-- NAK: the sender resends from EXPECT_SEQ; a NAK and a timeout for one flit cause one resend (R312). -/
def nakIn (n : Nat) (a : BitVec 11) (s : State) : State :=
  let again := (ackTo (port s n) a).timedOut == some a
  let s := modPort s n fun p => { p with timedOut := none }
  if again then s else resend s n a

def execNak (n : BitVec 10) (f : Flit) (cw : Ecc) (s : State) : Out :=
  event s fun s => onCtrl 3 n.toNat f cw s (nakIn n.toNat (BitVec.ofNat 11 (leAt f.body 2 2)))

/-- RETRY_TO: the oldest unacknowledged flit timed out (R312). -/
def retryTo (n : Nat) (s : State) : State :=
  match (port s n).retryBuf with
  | [] => s
  | f :: _ => if receives s n then resend (modPort s n fun p => { p with timedOut := some f.txSeq }) n f.txSeq else s

def execRetryTo (n : BitVec 10) (s : State) : Out := event s (retryTo n.toNat)

/-- IDLE_FLIT: an IDLE flit with ACK_VALID acknowledges flits (R311). -/
def idleFlit (n : Nat) (f : Flit) (cw : Ecc) (s : State) : State :=
  let s := if receives s n then countCw s n cw else s
  if receives s n = true ∧ f.ftype = 0 ∧ flitGood f cw = true ∧ f.ackValid = true then modPort s n fun p => ackTo p f.ackSeq else s

def execIdleFlit (n : BitVec 10) (f : Flit) (cw : Ecc) (s : State) : Out := event s (idleFlit n.toNat f cw)

/-! ## Bring-up -/

/-- A port enters TRAINING with a fresh link layer (R314). -/
def startTraining (p : Port) : Port :=
  { p with st := .training, restriping := false, lost := 0, unlocked := 0, mapSent := false, peerMap := none, txSeq := 0,
           retryBuf := [], futile := 0, timedOut := none, ctrlQ := [], rxExpect := 0, nakSent := false, credits := [], granted := [],
           owed := [], asm := [], paused := 0, pauseAll := false, xoff := 0 }

/-- The INIT flit body of a port (Table 10-7). -/
def initBody (s : State) (n : Nat) : List Byte :=
  pack 12 [(0, 1, 1), (1, 1, 0), (2, 1, personality s n), (3, 1, portWidth s n), (4, 1, portFld s n 3),
    (5, 1, (goodMask s n).toNat), (8, 4, s.plan.deviceId.toNat * 1024 + n)] ++
  ((List.range 10).flatMap fun v => leBytes 2 (if carries s n (BitVec.ofNat 4 v) then vlFld s (BitVec.ofNat 4 v) 3 else 0)) ++
  List.replicate 224 0

/-- CREDIT_INIT granted to the peer for each enabled VL (R309). -/
def grantInit (s : State) (n : Nat) : Tab Nat :=
  (List.range 9).foldl (fun t v => if carries s n (BitVec.ofNat 4 v) then Tab.set 0 t v (vlFld s (BitVec.ofNat 4 v) 3) else t) []

/-- TRAINING_DONE: every lane is locked, and the port enters INIT on a FABRIC or COACH port, UP on an EDGE port (R314). -/
def trainingDone (n : Nat) (s : State) : State :=
  if (port s n).st == .training && s.pins.coldResetN then
    if isEdge s n then modPort s n fun p => { p with st := .up, unlocked := 0 }
    else
      let b := initBody s n
      let g := grantInit s n
      modPort s n fun p => { p with st := .init, unlocked := 0, ctrlQ := p.ctrlQ ++ [b], granted := g }
  else s

def execTrainingDone (n : BitVec 10) (s : State) : Out := event s (trainingDone n.toNat)

/-- TRAINING_TIMEOUT: 500 ms without lock (R314). -/
def execTrainingTimeout (n : BitVec 10) (s : State) : Out :=
  event s fun s =>
    if (port s n.toNat).st == .training then modPort s n.toNat fun p => { p with st := .down, attempts := p.attempts + 1 } else s

/-- DOWN_RETRY: 1 s after a failed attempt (R314). -/
def execDownRetry (n : BitVec 10) (s : State) : Out :=
  event s fun s => if (port s n.toNat).st == .down then modPort s n.toNat startTraining else s

/-- INIT_RESEND: every 10 microseconds until an INIT has come (R315). -/
def execInitResend (n : BitVec 10) (s : State) : Out :=
  event s fun s => if (port s n.toNat).st == .init then queueCtrl s n.toNat (initBody s n.toNat) else s

/-- The checks of R315 on a peer's INIT body. -/
def initOk (s : State) (n : Nat) (b : List Byte) : Bool :=
  (leAt b 2 1 == 0 || leAt b 2 1 == 2) && leAt b 3 1 == portWidth s n && leAt b 4 1 == portFld s n 3 &&
    (personality s n != 2 || leAt b 1 1 == 0) &&
    (portFld s n 8 / 1024 == 16383 || bits (leAt b 8 4) 23 0 == portFld s n 8)

/-- INIT received: the port becomes UP with the peer's credits, or FENCED (R315). -/
def initIn (n : Nat) (f : Flit) (s : State) : State :=
  let old := s
  if (port s n).st == .init then
    let b := f.body
    let s := modPort s n fun p =>
      { p with peer := some (BitVec.ofNat 24 (leAt b 8 4)), peerEndpoint := leAt b 1 1 == 1, peerCoach := leAt b 2 1 == 2
               credits := (List.range 10).foldl (fun t v => Tab.set 0 t v (leAt b (12 + 2 * v) 2)) [] }
    if initOk s n b then
      let s := announce (modPort s n fun p => { p with st := .up }) n
      match peerDevice s n with
      | some d =>
        if s.hedge.beacons.any fun x => x.device.toNat == d then s
        else { s with hedge := { s.hedge with beacons := s.hedge.beacons ++ [{ device := BitVec.ofNat 14 d, silent := 0, idle := false, mismatches := 0 }] } }
      | none => s
    else afterHedge old (raise (modPort s n fun p => { p with st := .fenced }) fLinkPeerMismatch uPort n)
  else s

def execInit (n : BitVec 10) (f : Flit) (cw : Ecc) (s : State) : Out :=
  event s fun s => onCtrl 1 n.toNat f cw s (initIn n.toNat f)

/-! ## Lane loss -/

/-- LOSS_OF_LOCK: a lane loses lock, and its 2 microseconds begin (R305); lock is tracked on a FENCED port too (Table 10-11). -/
def execLossOfLock (n : BitVec 10) (lane : Fin 8) (s : State) : Out :=
  event s fun s =>
    if ((port s n.toNat).st == .up || (port s n.toNat).st == .init || (port s n.toNat).st == .fenced) &&
        decide (lane.val < portWidth s n.toNat) && !bit (port s n.toNat).lost.toNat lane.val then
      modPort s n.toNat fun p => { p with unlocked := p.unlocked ||| BitVec.ofNat 8 (2 ^ lane.val) }
    else s

/-- REGAINS_LOCK: the count ends; a lane already removed stays removed (R305, R318). -/
def execRegainsLock (n : BitVec 10) (lane : Fin 8) (s : State) : Out :=
  event s fun s => modPort s n.toNat fun p => { p with unlocked := p.unlocked &&& ~~~BitVec.ofNat 8 (2 ^ lane.val) }

/-- Lanes of a mask taken out of service; below MIN_LANES the port goes down, otherwise it restripes
(R318 steps 1 and 2, R319, R320). -/
def loseLanes (s : State) (n : Nat) (mask : Byte) : State :=
  let s := modPort s n fun p =>
    { p with lost := p.lost ||| mask, restriping := true, mapSent := false, peerMap := none }
  if activeLanes s n < portFld s n 3 then portDown s n else s

/-- LANE_DOWN: a lane without lock for 2 microseconds (R305, R316, R318). -/
def laneDown (n : Nat) (lane : Nat) (s : State) : State :=
  let p := port s n
  if p.st == .up && bit p.unlocked.toNat lane then
    let s := raise (modPort s n fun p => { p with unlocked := p.unlocked &&& ~~~BitVec.ofNat 8 (2 ^ lane) }) fLaneDown uPort n
    loseLanes s n (BitVec.ofNat 8 (2 ^ lane))
  else s

def execLaneDown (n : BitVec 10) (lane : Fin 8) (s : State) : Out := event s (laneDown n.toNat lane.val)

/-- The masks of both sides are compared (R318 steps 3 and 4): equal, each side resends from the peer's
ACK_SEQ and traffic resumes; otherwise step 2 repeats with the AND. -/
def matchMaps (s : State) (n : Nat) : State :=
  match (port s n).peerMap with
  | none => s
  | some (m, a) =>
    if !(port s n).mapSent then s
    else if goodMask s n &&& m = goodMask s n then
      let s := modPort s n fun p => { p with restriping := false, mapSent := false, peerMap := none }
      if (ackTo (port s n) a).retryBuf.isEmpty then modPort s n fun p => ackTo p a else resend s n a
    else loseLanes s n (goodMask s n &&& ~~~m)

/-- RESTRIPE_DONE: this side sends LANE_MAP with its good-lane mask (R318 step 3), once its retry buffer has room for it (R311). -/
def restripeDone (n : Nat) (s : State) : State :=
  if (port s n).restriping && !(port s n).mapSent && !retryFull s n then
    let s := sendFlit s n { ftype := 2, body := pack 256 [(0, 1, 4), (5, 1, (goodMask s n).toNat)] }
    matchMaps (modPort s n fun p => { p with mapSent := true }) n
  else s

def execRestripeDone (n : BitVec 10) (s : State) : Out := event s (restripeDone n.toNat)

/-- LANE_MAP received (R318 step 3). On a restriping port it tells its mask and ACK_SEQ also out of sequence, since the flits
before it may be lost and step 4 resends them; it is accepted, as a numbered flit, in sequence only (log 92). -/
def laneMap (n : Nat) (f : Flit) (cw : Ecc) (s : State) : State :=
  let p := port s n
  if isFabric s n && p.restriping then
    let s := countCw s n cw
    if flitGood f cw then
      let s := if f.txSeq == p.rxExpect then acceptFlit s n f else s
      matchMaps (modPort s n fun p => { p with peerMap := some (BitVec.ofNat 8 (leAt f.body 5 1), f.ackSeq) }) n
    else s
  else rxFlit s n f cw fun s => s

def execLaneMap (n : BitVec 10) (f : Flit) (cw : Ecc) (s : State) : Out :=
  event s fun s => if f.ftype = 2 ∧ leAt f.body 0 1 = 4 then laneMap n.toNat f cw s else s

/-! ## Lane conditions (R325, Table 10-11) -/

/-- A lane's transmitter. -/
inductive LaneTx
  | noSignal | squelched | training | carrying
  deriving DecidableEq, Repr

/-- A lane's receiver. -/
inductive LaneRx
  | notGuaranteed | terminated
  deriving DecidableEq, Repr

/-- The port whose lanes include a lane: the octet's record splits it (R297). -/
def portOfLane (s : State) (lane : Nat) : Option Nat := (planPorts s).find? fun n => decide (n ≤ lane) && decide (lane < n + portWidth s n)

/-- The lane's link chiplet is powered (19 Table 19-2). -/
def chipletOn (s : State) (lane : Nat) : Bool := domOn s (56 + lane / 128)

/-- What a lane transmits (R325, 01 R24). -/
def laneTx (s : State) (lane : Nat) : LaneTx :=
  if !s.pins.coldResetN || !s.plan.planned || s.fault.fatal then .squelched
  else if !chipletOn s lane then .noSignal
  else
    match portOfLane s lane with
    | none => .noSignal
    | some n =>
      match (port s n).st with
      | .unused => .noSignal
      | .fenced => .squelched
      | .down | .training => .training
      | .init | .up => if bit (port s n).lost.toNat (lane - n) then .squelched else .carrying

/-- What a lane's receiver is. -/
def laneRx (s : State) (lane : Nat) : LaneRx :=
  if !s.pins.coldResetN || !s.plan.planned || chipletOn s lane then .terminated else .notGuaranteed

/-! ## EDGE frames -/

/-- A discarded frame counted. -/
def edgeDrop (s : State) (n : Nat) : State := modPort s n fun p => { p with edgeDrops := satInc p.edgeDrops }

/-- A refused packet counted. -/
def edgeRefuse (s : State) (n : Nat) : State := modPort s n fun p => { p with edgeRefused := satInc p.edgeRefused }

/-- The pause frame's effect (R323): a PFC frame (opcode 0x0101) stops the priorities it gives quanta, a
quantum of 0 resumes them; an 802.3 pause frame (0x0001) stops every queue. -/
def pauseIn (s : State) (n : Nat) (f : List Byte) : State :=
  let o := 14 + tagLen f
  if beAt f o 2 = 0x0101 then
    let en := beAt f (o + 2) 2
    modPort s n fun p =>
      { p with paused := (List.range 8).foldl (fun m i =>
          if bit en i then
            if beAt f (o + 4 + 2 * i) 2 = 0 then m &&& ~~~BitVec.ofNat 8 (2 ^ i) else m ||| BitVec.ofNat 8 (2 ^ i)
          else m) p.paused }
  else if beAt f o 2 = 1 then modPort s n fun p => { p with pauseAll := decide (beAt f (o + 2) 2 ≠ 0) }
  else s

/-- Cells lodged for a frame or packet of an EDGE port, or none when the account cannot take them
(12 R364, R365). -/
def lodgeEdge (s : State) (n pcp cells : Nat) : Option State :=
  if edgeFits s (8 * n + pcp) cells then
    some { s with core := { s.core with edge := Tab.upd 0 s.core.edge (8 * n + pcp) (· + cells) } }
  else none

/-- A frame that cannot lodge (Table 12-5). -/
def edgeFull (s : State) (n pcp : Nat) : State :=
  let s := edgeDrop s n
  let s := if bit (portFld s n 14) pcp then nFlag s 5 else s
  if bit (portFld s n 13) pcp then modCore s (dieOf n) fun c => { c with refused := satInc c.refused } else s

/-- Ports a layer-2 frame goes to (R324): the port that holds its destination, or every other EDGE port of
the VLAN; a port that is down or hedged carries none (R317). -/
def l2Targets (s : State) (n vlan da : Nat) : List Nat :=
  let stat := (((planRec s 0x02 0x02 0).map fun r => r.tab 0).getD []).find? fun e =>
    bits (e.getD 0 0) 21 10 == vlan && e.getD 1 0 + 2 ^ 32 * (e.getD 2 0 % 65536) == da
  let known := match stat with
    | some e => some (bits (e.getD 0 0) 9 0)
    | none => (s.mac.find? fun m => m.mac == da && m.vlan == vlan).map (·.port)
  match (if bit (da >>> 40) 0 then none else known) with
  | some q => if q = n || portOut s q then [] else [q]
  | none => (planPorts s).filter fun q => q != n && isEdge s q && portFld s q 12 == vlan && !portOut s q

/-- The source address learned (R324), unless a static entry holds it or the table of 65,536 is full. -/
def learn (s : State) (n vlan sa : Nat) : State :=
  let stat := ((planRec s 0x02 0x02 0).map fun r => r.tab 0).getD []
  if stat.any fun e => bits (e.getD 0 0) 21 10 == vlan && e.getD 1 0 + 2 ^ 32 * (e.getD 2 0 % 65536) == sa then s
  else if s.mac.any fun m => m.mac == sa && m.vlan == vlan then
    { s with mac := s.mac.map fun m => if m.mac == sa && m.vlan == vlan then { m with port := n } else m }
  else if 65536 ≤ s.mac.length + stat.length then { s with macFull := satInc s.macFull }
  else { s with mac := s.mac ++ [{ mac := sa, vlan, port := n }] }

/-- A layer-2 frame forwarded among the device's EDGE ports on VL9 (R324, 13 R377, R388); a flooded one is stored once (12 R368). -/
def l2Frame (s : State) (n pcp colour : Nat) (f : List Byte) : State :=
  let vlan := frameVlan f (portFld s n 12)
  let s := nFlag (learn s n vlan (beAt f 6 6)) 5
  let body := f.take (f.length - 4)
  match l2Targets s n vlan (beAt f 0 6) with
  | [] => s
  | t :: ts =>
    let cells := cdiv f.length 256
    match lodgeEdge s n pcp cells with
    | none => edgeFull s n pcp
    | some s =>
      let id := s.core.nextCopy
      let many := !ts.isEmpty
      let s := if many then { s with core := { s.core with
          nextCopy := id + 1, copies := s.core.copies ++ [{ id, refs := ts.length + 1, bytes := withFcs body }] } } else s
      let put (s : State) (q : Nat) : State :=
        { modPort s q (fun p => { p with demoted := if colour = 2 then satInc p.demoted else p.demoted }) with
          outq := s.outq ++ [{ port := q, queue := if colour = 2 then 15 else bits (portFld s q 15) (4 * pcp + 3) (4 * pcp),
                               vl := 9, item := .frame (if many then [] else withFcs body) vlan pcp, src := some (n, 9), pcp, colour,
                               copy := if many then some id else none }] }
      settleDie ((t :: ts).foldl put s) (dieOf n)

/-- A Selnan packet taken from an EDGE frame (R322): MGT and foreign sources are refused, the latter with HDR_CHECK too (11 R333). -/
def edgePkt (s : State) (n pcp colour : Nat) (bytes : List Byte) : State :=
  let p := parsePkt bytes
  if p.vl = 0 ∨ opClass p.op = some 0 then edgeRefuse s n
  else if p.src ≠ addr s.plan.deviceId.toNat n then
    raise (modRoute (edgeRefuse s n) (dieOf n) fun r => { r with hdr := satInc r.hdr }) fHdrCheck uPort n
  else
    match lodgeEdge s n pcp (cellsOf p) with
    | none => edgeFull s n pcp
    | some s => settleDie { s with ingress := s.ingress ++ [{ port := some n, vl := p.vl, p, colour, pcp }] } (dieOf n)

/-- EDGE_FRAME (R321): a received frame classified in the order of the rule, then policed (13 R386). A hedged port carries
VL0 only, which no frame is (R317). -/
def edgeFrame (n : Nat) (f : List Byte) (s : State) : State :=
  if !(isEdge s n && (port s n).st == .up) then s
  else if !fcsOk f || decide (f.length < 64) || decide (portFld s n 11 < f.length) then edgeDrop s n
  else if beAt f 0 6 = 0x0180C2000001 ∧ etherType f = 0x8808 then pauseIn s n f
  else if 0x0180C2000000 ≤ beAt f 0 6 ∧ beAt f 0 6 ≤ 0x0180C200000F then edgeDrop s n
  else if portHedged s n then s
  else
    let udp := udpAt f (portFld s n 19) (l2Fld s 1)
    let o := 14 + tagLen f
    let sel : Option (List Byte) :=
      let g := f.take (f.length - 4)
      if etherType f = l2Fld s 0 then some (g.drop o) else udp.map fun u => g.drop (u.1 + 8)
    if etherType f ≠ l2Fld s 0 ∧ (udp.map fun u => udpSumOk f u.1 u.2) = some false then edgeDrop s n
    else
      let pcp := framePcp f
      let dei := if bit (tci f) 12 then 1 else 0
      let pc := (Tab.get {} s.sched.pol (16 * n + pcp)).fields.getD 7 0
      let pre := if tagLen f = 4 then bits pc (2 * (2 * pcp + dei) + 1) (2 * (2 * pcp + dei)) else 0
      let s := glean s n 0 (match sel with | some b => (parsePkt b).vl.toNat | none => 9)
        (match sel with | some b => slice b 0 (32 + 4 * (parsePkt b).len.toNat) | none => f)
      let (s, col) := police s n pcp pre f.length
      if col = 2 ∧ bit (portFld s n 14) pcp = true ∧ redDrop s n pcp = true then edgeDrop (nFlag s 5) n
      else
        match sel with
        | some b => edgePkt s n pcp col b
        | none => l2Frame s n pcp col f

def execEdgeFrame (n : BitVec 10) (f : List Byte) (s : State) : Out := event s (edgeFrame n.toNat f)

/-- PAUSE_EXPIRY: the quanta of a received frame run out for a priority, or for every queue (R323). -/
def execPauseExpiry (n : BitVec 10) (pcp : Option (Fin 8)) (s : State) : Out :=
  event s fun s => modPort s n.toNat fun p =>
    match pcp with
    | some i => { p with paused := p.paused &&& ~~~BitVec.ofNat 8 (2 ^ i.val) }
    | none => { p with pauseAll := false }

/-- XOFF_REFRESH: XOFF is repeated every half pause time while the lodging stays above WARN (R323). -/
def xoffRefresh (n : Nat) (s : State) : State :=
  let s := settlePfc s n
  sendPfc s n (port s n).xoff.toNat true

def execXoffRefresh (n : BitVec 10) (s : State) : Out := event s (xoffRefresh n.toNat)

/-- MAC_AGE: a learned entry ages out (R324). -/
def execMacAge (mac : BitVec 48) (vlan : BitVec 12) (s : State) : Out :=
  event s fun s =>
    if l2Fld s 2 = 0 then s
    else { s with mac := s.mac.filter fun m => !(m.mac == mac.toNat && m.vlan == vlan.toNat) }

end Sys2Proof.Machine
end

