-- ==== Sys2Proof/Machine/PlanImage.lean ====
section
/-!
DEFINITION. The plan image as the loft holds it (09 R263 to R271): header, directory, sections, records with
their fields and tables, and the first three phases of validation (R275). An error is (section, offset, code).
-/

namespace Sys2Proof.Machine
open Sys2Proof

abbrev PErr := Nat × Nat × Nat

/-- Marks on a code while the rules run: a condition of phase 5 (R275), and one that reads another section, which is not asked while
a section is skipped. -/
abbrev inPhase5 : Nat := 256
abbrev readsOther : Nat := 512

/-- One error when `c` holds. -/
def bad (c : Bool) (sect off code : Nat) : List PErr := if c then [(sect, off, code)] else []

/-! ## Value words (R263) -/

def slotBase (slot : Bool) : Nat := 0x3FC0000000 + slot.toNat * 2 ^ 28

/-- Value word `k` of a slot and the word that should complement it. -/
def imgWord (s : State) (slot : Bool) (k : Nat) : Nat := leNat (Mem.reads s.gran (slotBase slot + 8 * k) 4)
def imgComp (s : State) (slot : Bool) (k : Nat) : Nat := leNat (Mem.reads s.gran (slotBase slot + 8 * k + 4) 4)

def imgWords (w : Nat → Nat) : Nat := w 2
def imgDelta (w : Nat → Nat) : Bool := bits (w 3) 31 30 == 1
def imgCount (w : Nat → Nat) : Nat := bits (w 3) 3 0
def imgDevice (w : Nat → Nat) : Nat := bits (w 5) 13 0

/-- Eight hash words as 32 bytes in FIPS 180-4 output order (R265). -/
def hashBytes (w : Nat → Nat) (k : Nat) : List Byte := (List.range 8).flatMap fun i => (leBytes 4 (w (k + i))).reverse

/-- DIGEST as computed over the image (R265). -/
def imgDigest (s : State) (slot : Bool) : List Byte :=
  let b := slotBase slot
  sha256 (Mem.reads s.gran b 48 ++ List.replicate 64 0 ++ Mem.reads s.gran (b + 112) (8 * imgWord s slot 2 - 112))

/-! ## Record layouts (R269, R270) -/

/-- An item of a record body: a field of a width with its range, or a table whose entries have this many words and
at most this many entries. -/
inductive LItem
  | fld (width lo hi : Nat)
  | tab (words most : Nat)
  deriving DecidableEq, Repr

/-- A field of any value. -/
def fw (width : Nat) : LItem := .fld width 0 (2 ^ width - 1)

/-- Where R269 and R270 put each item: its body word and its first bit; and the number of body words. -/
def place : List LItem → Nat → Nat → List (LItem × Nat × Nat) × Nat
  | [], w, b => ([], if b = 0 then w else w + 1)
  | .tab n m :: is, w, b =>
    let w := if b = 0 then w else w + 1
    let r := place is (w + 2) 0
    ((.tab n m, w, 0) :: r.1, r.2)
  | .fld n lo hi :: is, w, b =>
    if 32 < n then
      let w := if b = 0 then w else w + 1
      let r := place is (w + cdiv n 32) 0
      ((.fld n lo hi, w, 0) :: r.1, r.2)
    else if b + n ≤ 32 then
      let r := place is w (b + n)
      ((.fld n lo hi, w, b) :: r.1, r.2)
    else
      let r := place is (w + 1) n
      ((.fld n lo hi, w + 1, 0) :: r.1, r.2)

/-- Record types of the sections: INDEX range and body (Tables 3-2, 4-1, 4-4, 8-1, 9-4, 10-2 to 10-4, 11-5 to 11-7,
12-2, 12-4, 13-2, 15-3, 16-5, 19-3, R372). -/
def layoutOf (sect rtype : Nat) : Option (Nat × Nat × List LItem) :=
  match sect, rtype with
  | 1, 1 => some (0, 127, [fw 8, fw 8, fw 8])
  | 2, 1 => some (0, 1023, [.fld 2 0 2, .fld 2 0 2, fw 4, fw 4, fw 1, fw 1, .fld 3 0 4, fw 16, fw 24, fw 10, .fld 2 0 2, fw 14,
      .fld 12 0 4094, fw 8, fw 8, fw 32, fw 30, fw 48, fw 48, fw 128, fw 128])
  | 2, 2 => some (0, 0, [.fld 16 0x600 0xFFFF, .fld 16 1 65535, fw 16, .tab 3 4096])
  | 3, 1 => some (0, 16383, [fw 32, fw 32, fw 32, fw 32, fw 32])
  | 3, 2 => some (0, 1023, [fw 32])
  | 4, 1 => some (0, 9, [fw 6, fw 6, fw 4, fw 16, fw 16])
  | 5, 1 => some (0, 127, [.fld 21 0 1572608, .fld 21 0 1572864, .fld 19 0 393216, .fld 17 0 98304, .fld 15 0 24576,
      .fld 13 0 6144, .fld 21 1 1572864, .fld 21 1 1572864, .fld 21 1 1572864])
  | 5, 2 => some (0, 10007, [fw 6, .fld 5 1 31, fw 21, .fld 21 1 1572864])
  | 5, 3 => some (0, 1023, [.fld 16 1 65535, .fld 2 1 3, fw 10])
  | 5, 4 => some (0, 0, [fw 38, .fld 5 10 16])
  | 6, 1 => some (0, 16383, [fw 1, fw 13, .fld 21 0 1600000, .fld 25 0 16777216])
  | 6, 2 => some (0, 1023, [.fld 21 0 1600000, .fld 25 1 16777216])
  | 6, 3 => some (0, 16383, [fw 1, fw 1, fw 1, .fld 21 1 1600000, .fld 25 1 16777216, .fld 21 0 1600000, .fld 25 1 16777216, fw 32])
  | 7, 1 => some (0, 255, [fw 2, .fld 25 0 (2 ^ 24), .tab 1 (2 ^ 24), fw 24, .tab 1 (2 ^ 24), fw 16, .fld 13 0 4096, .tab 1 4096,
      .tab 4 (2 ^ 24), fw 16, fw 4, .tab 2 65536])
  | 7, 2 => some (0, 23, [.fld 7 1 64, .tab 1 64, .fld 8 32 255, fw 8, .fld 2 0 2, fw 5, fw 4, fw 1, fw 1, fw 1, fw 40, fw 38,
      .fld 37 0 (2 ^ 36), fw 7, .fld 2 0 2, .tab 2 8, fw 7, .tab 2 64])
  | 8, 1 => some (0, 4095, [fw 5, fw 12, fw 16, fw 6])
  | 8, 2 => some (0, 0, [fw 6, fw 6, fw 32])
  | 9, 1 => some (0, 31, [fw 32, .tab 24 16384, .tab 3 24, .tab 2 8])
  | 10, 1 => some (0, 255, [fw 32, fw 32, fw 32, fw 32, fw 32, fw 32, fw 32, fw 32, .tab 32 4096])
  | 10, 2 => some (0, 4095, [fw 32, fw 32, fw 32, fw 32, fw 32])
  | 10, 3 => some (0, 255, [fw 32, fw 14, fw 14])
  | 11, 1 => some (0, 15, [.tab 1 16])
  | 11, 2 => some (32, 255, [fw 10, fw 10])
  | 11, 3 => some (0, 2047, [fw 1, fw 10, fw 8, fw 5, fw 7, fw 2, fw 32])
  | 11, 4 => some (0, 15, [fw 38, .fld 13 1 4096, fw 32])
  | 12, 1 => some (0, 63, [.fld 8 32 255, fw 24, fw 8, fw 8])
  | 13, 1 => some (0, 63, [fw 1])
  | 13, 2 => some (0, 0, [.fld 2 0 1, .fld 2 0 2, .fld 2 0 2, fw 12])
  | _, _ => none

/-- Items of a type with their places. -/
def placed (sect rtype : Nat) : List (LItem × Nat × Nat) := ((layoutOf sect rtype).map fun l => (place l.2.2 0 0).1).getD []

/-- Body words of a type. -/
def bodyWords (sect rtype : Nat) : Nat := ((layoutOf sect rtype).map fun l => (place l.2.2 0 0).2).getD 0

/-- Value of a placed field; `w` reads body words. -/
def fieldAt (w : Nat → Nat) (n wd b : Nat) : Nat :=
  if 32 < n then ((List.range (cdiv n 32)).foldl (fun a i => a + w (wd + i) * 2 ^ (32 * i)) 0) % 2 ^ n
  else bits (w wd) (b + n - 1) b

/-! ## Records in the image -/

/-- A record of an image: its contents, the section-relative offset of its header word, the OFFSET of each table.
A record of the running plan that a DELTA keeps lies at 0. -/
structure ImgRec where
  r : PlanRec
  pos : Nat := 0
  offs : List Nat := []
  deriving DecidableEq, Repr

/-- The record whose header lies at `pos`; `w` reads words of the section. -/
def imgRec (w : Nat → Nat) (sect pos : Nat) : ImgRec :=
  let h := w pos
  let rt := bits h 31 26
  let body (i : Nat) := w (pos + 1 + i)
  let items := if bits h 11 0 = 0 then [] else placed sect rt
  let fields := items.filterMap fun e => match e with | (.fld n _ _, wd, b) => some (fieldAt body n wd b) | _ => none
  let tabs := items.filterMap fun e => match e with | (.tab n _, wd, _) => some (n, body wd, body (wd + 1)) | _ => none
  { r := { sect, rtype := rt, index := bits h 25 12, fields,
           tables := tabs.map fun t => (List.range t.2.2).map fun j => (List.range t.1).map fun k => w (t.2.1 + t.1 * j + k) }
    pos, offs := tabs.map (·.2.1) }

/-- Field `i` of a record, the offset of its value word, its tables. -/
def ImgRec.f (x : ImgRec) (i : Nat) : Nat := x.r.fld i
def ImgRec.at_ (x : ImgRec) (i : Nat) : Nat :=
  if x.pos = 0 then 0
  else x.pos + 1 + (((placed x.r.sect x.r.rtype).filter fun e => match e.1 with | .fld _ _ _ => true | _ => false)[i]?.map (·.2.1)).getD 0
def ImgRec.t (x : ImgRec) (i : Nat) : List (List Nat) := x.r.tab i
def ImgRec.tpos (x : ImgRec) (i : Nat) : Nat := x.offs.getD i 0

/-- Errors of a record at a field, at its header, at word `k` of entry `j` of a table. -/
def ImgRec.bad (x : ImgRec) (c : Bool) (i code : Nat) : List PErr := Sys2Proof.Machine.bad c x.r.sect (x.at_ i) code
def ImgRec.badH (x : ImgRec) (c : Bool) (code : Nat) : List PErr := Sys2Proof.Machine.bad c x.r.sect x.pos code
def ImgRec.badT (x : ImgRec) (c : Bool) (i words j k code : Nat) : List PErr :=
  Sys2Proof.Machine.bad c x.r.sect (if x.pos = 0 then 0 else x.tpos i + words * j + k) code

/-- An error at the COUNT of a table reference. -/
def ImgRec.badC (x : ImgRec) (c : Bool) (i code : Nat) : List PErr :=
  let at_ := (((placed x.r.sect x.r.rtype).filter fun e => match e.1 with | .tab _ _ => true | _ => false)[i]?.map (·.2.1)).getD 0
  Sys2Proof.Machine.bad c x.r.sect (if x.pos = 0 then 0 else x.pos + 2 + at_) code

/-! ## Phase 1: the header -/

def headerErrs (s : State) (w : Nat → Nat) : List PErr :=
  let kind := bits (w 3) 31 30
  let baseZero := (List.range 8).all fun i => w (14 + i) == 0
  bad (w 0 != 0x4D46504C) 0 0 eMagic ++ bad (w 1 != 0x00010000) 0 1 eVersion ++
    bad (decide (w 2 < 24) || decide (33554432 < w 2)) 0 2 eLength ++
    bad (decide (2 ≤ kind) || bits (w 3) 29 4 != 0) 0 3 eReserved ++
    bad ((kind == 0 && imgCount w != 13) || (kind == 1 && decide (3 < imgCount w))) 0 3 eDirectory ++
    bad (w 4 &&& s.part.plotPresent.toNat != w 4) 0 4 eTarget ++
    bad (bits (w 5) 31 14 != 0) 0 5 eReserved ++ bad (imgDevice w == 0x3FFF) 0 5 eTarget ++
    bad (kind == 1 && hashBytes w 14 != s.plan.digest) 0 14 eBase ++ bad (kind == 0 && !baseZero) 0 14 eReserved ++
    bad (w 22 != 0) 0 22 eReserved ++ bad (w 23 != 0) 0 23 eReserved

/-! ## Phase 2: digest and complements -/

def complementErrs (s : State) (slot : Bool) : List PErr :=
  ((List.range (imgWord s slot 2)).filter fun k => imgWord s slot k + imgComp s slot k != 0xFFFFFFFF).map fun k => (0, k, eComplement)

def digestErrs (s : State) (slot : Bool) : List PErr :=
  bad (imgDigest s slot != hashBytes (imgWord s slot) 6) 0 6 eDigest ++ complementErrs s slot

/-! ## Phase 3: structure -/

/-- Where directory entry `k`'s section must start (R266). -/
def sectStart (w : Nat → Nat) : Nat → Nat
  | 0 => 24 + 2 * imgCount w
  | k + 1 => w (25 + 2 * k) + w (w (25 + 2 * k) + 1)

/-- Errors of directory entry `k`. -/
def entryErrs (w : Nat → Nat) (k : Nat) : List PErr :=
  let id := bits (w (24 + 2 * k)) 31 24
  let off := w (25 + 2 * k)
  let idBad := if imgDelta w then !([3, 6, 10].contains id) || (k != 0 && decide (id ≤ bits (w (22 + 2 * k)) 31 24)) else id != k + 1
  bad idBad 0 (24 + 2 * k) eDirectory ++ bad (bits (w (24 + 2 * k)) 23 0 != 0) 0 (24 + 2 * k) eReserved ++
    bad (off != sectStart w k || decide (imgWords w < off + 4) ||
      (k + 1 == imgCount w && off + w (off + 1) != imgWords w)) 0 (25 + 2 * k) eDirectory

/-- The directory's errors; an image with no section ends after its header. -/
def directoryErrs (w : Nat → Nat) : List PErr :=
  (List.range (imgCount w)).flatMap (entryErrs w) ++ bad (imgCount w == 0 && imgWords w != 24) 0 2 eDirectory

/-- Walks `n` records from `pos`; `prev` is one above the key of the record before (R268). -/
def walk (w : Nat → Nat) (sect heap : Nat) (delta : Bool) : Nat → Nat → Nat → List ImgRec × List PErr
  | 0, pos, _ => ([], bad (pos != heap) sect 3 eSection)
  | n + 1, pos, prev =>
    if heap ≤ pos then ([], [(sect, 2, eSection)])
    else
      let h := w pos
      let rt := bits h 31 26
      let ix := bits h 25 12
      let key := h / 4096
      let rw := bits h 11 0
      let gone := delta && sect == 10 && decide (rt ≤ 2) && rw == 0
      let wrong := match layoutOf sect rt with
        | none => true
        | some l => decide (ix < l.1) || decide (l.2.1 < ix) || decide (key + 1 ≤ prev) || (rw != bodyWords sect rt && !gone) || decide (heap < pos + 1 + rw)
      let r := walk w sect heap delta n (pos + 1 + rw) (max prev (key + 1))
      (if wrong then r.1 else imgRec w sect pos :: r.1, bad wrong sect pos eRecord ++ r.2)

/-- Table references of records in order; `used` are the heap ranges taken (R270). -/
def refErrs (heap size : Nat) : List (Nat × Nat) → List ImgRec → List PErr
  | _, [] => []
  | used, x :: xs =>
    let tabs := (placed x.r.sect x.r.rtype).filterMap fun e => match e with | (.tab n _, wd, _) => some (n, wd) | _ => none
    let refs := (enum tabs).map fun e => (x.pos + 1 + e.2.2, x.tpos e.1, e.2.1 * (x.t e.1).length)
    let step (a : List (Nat × Nat) × List PErr) (r : Nat × Nat × Nat) : List (Nat × Nat) × List PErr :=
      let wrong := if r.2.2 = 0 then r.2.1 != 0
        else decide (r.2.1 < heap) || decide (size < r.2.1 + r.2.2) || meetsArea a.1 r.2.1 r.2.2
      ((r.2.1, r.2.2) :: a.1, a.2 ++ bad wrong x.r.sect r.1 eReference)
    let a := if x.r.fields.isEmpty && x.r.tables.isEmpty then (used, []) else refs.foldl step (used, [])
    a.2 ++ refErrs heap size a.1 xs

/-- One section: its number, its records, its errors of phase 3. -/
def parseSection (w : Nat → Nat) (delta : Bool) (k : Nat) : Nat × List ImgRec × List PErr :=
  let off := w (25 + 2 * k)
  let id := bits (w (24 + 2 * k)) 31 24
  let sw (i : Nat) := w (off + i)
  let size := sw 1
  let heap := sw 3
  let head := bad (bits (sw 0) 31 24 != id || bits (sw 0) 23 16 != 1) id 0 eSection ++ bad (bits (sw 0) 15 0 != 0) id 0 eReserved ++
    bad (decide (size < 4) || decide (imgWords w < off + size)) id 1 eSection ++ bad (decide (heap < 4) || decide (size < heap)) id 3 eSection
  if head.isEmpty then
    let r := walk sw id heap delta (sw 2) 4 0
    (id, r.1, r.2 ++ refErrs heap size [] r.1)
  else (id, [], head)

/-- Phase 3: every section whose directory entry stands, and all errors. -/
def structureOf (w : Nat → Nat) : List (Nat × List ImgRec × List PErr) × List PErr :=
  let good := (List.range (imgCount w)).filter fun k => (entryErrs w k).isEmpty
  let secs := good.map (parseSection w (imgDelta w))
  (secs, directoryErrs w ++ secs.flatMap (·.2.2))

/-- Records of the sections that pass phase 3. -/
def goodRecs (w : Nat → Nat) : List ImgRec := ((structureOf w).1.filter fun x => x.2.2.isEmpty).flatMap (·.2.1)

/-- Order of records. -/
def PlanRec.key (r : PlanRec) : Nat := (r.sect * 64 + r.rtype) * 2 ^ 14 + r.index

/-- A deleting record of a DELTA (R292). -/
def ImgRec.gone (x : ImgRec) : Bool := x.r.fields.isEmpty && x.r.tables.isEmpty

/-- The records of the plan that the image would produce (R275, R292). -/
def candidate (s : State) (w : Nat → Nat) : List ImgRec :=
  let rs := goodRecs w
  if imgDelta w then
    let keep := (s.plan.cur.filter fun r => !rs.any fun x => x.r.key == r.key).map fun r => ({ r } : ImgRec)
    (keep ++ rs.filter fun x => !x.gone).mergeSort fun a b => decide (a.r.key ≤ b.r.key)
  else rs

/-- The state under that plan, which the rules of phases 4 and 5 are read in. -/
def planned (s : State) (w : Nat → Nat) : State :=
  { s with plan := { s.plan with cur := (candidate s w).map (·.r)
                                 deviceId := if imgDelta w then s.plan.deviceId else BitVec.ofNat 14 (imgDevice w) } }

/-! ## Fields in their ranges (phase 4) -/

/-- Reserved bits of the body words, fields outside their ranges, tables longer than their bounds. Zero has a code of its own where the
field's rule names zero: the sizes and limit of an account, the depth of a bucket (R360, R391). -/
def fieldErrs (w : Nat → Nat) (x : ImgRec) : List PErr :=
  let items := placed x.r.sect x.r.rtype
  let body (i : Nat) := w (x.pos + 1 + i)
  let used (i : Nat) : Nat := (items.map fun e => match e with
    | (.fld n _ _, wd, b) =>
      if 32 < n then (if wd + cdiv n 32 = i + 1 ∧ n % 32 ≠ 0 then 2 ^ (n % 32) - 1 else if wd ≤ i ∧ i < wd + cdiv n 32 then 2 ^ 32 - 1 else 0)
      else if wd = i then (2 ^ n - 1) * 2 ^ b else 0
    | (.tab _ _, wd, _) => if i = wd ∨ i = wd + 1 then 2 ^ 32 - 1 else 0).foldl (· + ·) 0
  if x.gone then []
  else (List.range (bodyWords x.r.sect x.r.rtype)).flatMap fun i =>
    bad (body i &&& used i != body i) x.r.sect (x.pos + 1 + i) eReserved ++
      items.flatMap fun e => match e with
        | (.fld n lo hi, wd, b) =>
          let v := fieldAt body n wd b
          if wd ≠ i then [] else bad (decide (v < lo) || decide (hi < v)) x.r.sect (x.pos + 1 + i) 
            (if v = 0 ∧ ((x.r.sect = 6 ∧ n = 25) ∨ (x.r.sect = 5 ∧ x.r.rtype = 2)) then eZero + inPhase5 else eRange)
        | (.tab _ most, wd, _) => if wd ≠ i then [] else bad (decide (most < body (wd + 1))) x.r.sect (x.pos + 2 + i) eCapacity

end Sys2Proof.Machine
end

