-- ==== Sys2Proof/Machine/PlanRules.lean ====
section
/-!
DEFINITION. Phases 4 and 5 of validation (09 R275, R292, R293): the rejection conditions of the owning chapters.
Every rule reads the state `s` under the candidate plan. A condition takes the most specific code of Table 9-7 that
fits it (R276); which one is DEDUCED (log 25).
-/

namespace Sys2Proof.Machine
open Sys2Proof

/-- Records of a section and type among the candidates. -/
def ofType (xs : List ImgRec) (sect rtype : Nat) : List ImgRec := xs.filter fun x => x.r.sect == sect && x.r.rtype == rtype

/-- The first record of `xs` before `x` that meets it. -/
def earlier (xs : List ImgRec) (x : ImgRec) (p : ImgRec → Bool) : Bool := xs.any fun y => decide (y.r.index < x.r.index) && p y

/-- Every two distinct positions of a list differ. -/
def nodup (xs : List Nat) : Bool := (enum xs).all fun e => !(xs.take e.1).contains e.2

/-! ## LANES and PORTS (10 R297, R301) -/

/-- (start lane, width) of the ports of a SPLIT. -/
def splitPorts (split : Nat) : List (Nat × Nat) :=
  (setBits 8 split).map fun i => (i, (((List.range 8).filter fun j => decide (i < j) && bit split j).headD 8) - i)

def splitOk (split : Nat) : Bool :=
  split == 0 || (bit split 0 && (splitPorts split).all fun p => [1, 2, 4, 8].contains p.2 && p.1 % p.2 == 0)

/-- Width of the port that starts at a lane; none when no port does. -/
def startWidth (s : State) (n : Nat) : Option Nat :=
  (planRec s 1 1 (n / 8)).bind fun r => ((splitPorts (r.fld 0)).find? fun p => p.1 == n % 8).map (·.2)

/-- The chiplet domain of an octet is ON in the plan. -/
def domPlanned (s : State) (d : Nat) : Bool := ((planRec s 13 1 d).map fun r => r.fld 0 == 1).getD false

def lanesErrs (s : State) (x : ImgRec) : List PErr :=
  x.bad (!splitOk (x.f 0)) 0 eRange ++
    x.badH (x.f 0 != 0 && !domPlanned s (56 + x.r.index / 16)) (eRule + readsOther)

/-- Every port of a SPLIT has its record; one that is missing is reported at the section's start. -/
def portsErrs (s : State) : List PErr :=
  (planRecs s 1 1).flatMap fun r => (splitPorts (r.fld 0)).flatMap fun p => bad ((planRec s 2 1 (8 * r.index + p.1)).isNone) 2 0 eUndefined

def portErrs (s : State) (all : List ImgRec) (x : ImgRec) : List PErr :=
  let edge := x.f 0 == 1
  let n := x.r.index
  x.bad (decide (x.f 3 < 1) || decide (x.f 2 < x.f 3) || (edge && x.f 3 != x.f 2)) 3 eRange ++
    x.bad (x.f 1 == 2 && x.f 4 != 0) 4 eRange ++ x.bad (x.f 5 != 0 && (!edge || x.f 1 == 2)) 5 eRange ++
    x.bad (!edge && x.f 7 == 0) 7 eRange ++ x.bad (edge && x.f 7 != 0) 7 eRange ++ x.bad (edge && x.f 8 != 0) 8 eRange ++
    x.bad (if edge then !bit (x.f 9) 9 else !bit (x.f 9) 0 || bit (x.f 9) 9) 9 eRange ++
    (if edge then
      x.bad (decide (x.f 11 < 1518) || decide (9216 < x.f 11)) 11 eRange ++ x.bad (x.f 13 ^^^ x.f 14 != 0xFF) 13 eRule ++
        x.bad (x.f 10 == 1 && decide (2 ^ 32 ≤ x.f 19)) 19 eRange ++ x.bad (x.f 10 == 1 && decide (2 ^ 32 ≤ x.f 20)) 20 eRange
     else ((List.range 11).map (· + 10)).flatMap fun i => x.bad (x.f i != 0) i eRange) ++
    x.badH (x.f 0 == 2 && (ofType all 2 1).countP (fun y => y.f 0 == 2 && dieOf y.r.index == dieOf n && decide (y.r.index < n)) == 16) eCapacity ++
    (match startWidth s n with
     | none => x.badH true (eRule + readsOther)
     | some w => x.bad (w != x.f 2) 2 (eRange + readsOther))

def l2Errs (s : State) (x : ImgRec) : List PErr :=
  let key (e : List Nat) : Nat := bits (e.getD 0 0) 21 10 * 2 ^ 48 + e.getD 1 0 + bits (e.getD 2 0) 15 0 * 2 ^ 32
  x.bad ([0x0800, 0x86DD, 0x8100, 0x8808].contains (x.f 0)) 0 eRange ++
    (enum (x.t 0)).flatMap fun e =>
      x.badT (bits (e.2.getD 0 0) 31 22 != 0) 0 3 e.1 0 eReserved ++ x.badT (decide (4094 < bits (e.2.getD 0 0) 21 10)) 0 3 e.1 0 eRange ++
        x.badT (bits (e.2.getD 2 0) 31 16 != 0) 0 3 e.1 2 eReserved ++
        x.badT (!isEdge s (bits (e.2.getD 0 0) 9 0)) 0 3 e.1 0 (if (portRec s (bits (e.2.getD 0 0) 9 0)).isSome then eRule else eUndefined) ++
        x.badT (((x.t 0).take e.1).any fun d => key d == key e.2) 0 3 e.1 0 eRule

/-! ## SIGNPOSTS (11 R337) and CLASSES (R335, 13 R378) -/

/-- The candidate ports of a signpost record. -/
def candPorts (x : ImgRec) : List Nat := (List.range (bits (x.f 0) 29 26)).map fun c => bits (x.f (1 + c / 2)) (16 * (c % 2) + 9) (16 * (c % 2))

def signpostErrs (s : State) (x : ImgRec) : List PErr :=
  let kind := bits (x.f 0) 31 30
  let nc := bits (x.f 0) 29 26
  let hop := bits (x.f 0) 25 22
  let esc := bits (x.f 0) 9 0
  let ps := candPorts x
  let own := x.r.index == s.plan.deviceId.toNat
  let port (n i : Nat) : List PErr := x.bad (kind == 1 && !isFabric s n) i (eRule + readsOther)
  x.bad (kind == 3 || bits (x.f 0) 21 10 != 0) 0 eReserved ++ x.bad (decide (8 < nc)) 0 eRange ++
    x.bad (kind == 1 && (hop == 0 || decide (14 < hop))) 0 eRange ++ x.bad (kind != 1 && hop != 0) 0 eRange ++
    ((List.range 8).flatMap fun c => x.bad (decide (nc ≤ c) && bits (x.f (1 + c / 2)) (16 * (c % 2) + 9) (16 * (c % 2)) != 0) (1 + c / 2) eReserved) ++
    ((List.range 4).flatMap fun i => x.bad (bits (x.f (1 + i)) 31 26 != 0 || bits (x.f (1 + i)) 15 10 != 0) (1 + i) eReserved) ++
     x.bad ((own && kind != 2) || (!own && kind == 2) || (x.r.index == 16383 && kind != 0)) 0 eRule ++
    port esc 0 ++ ((enum ps).flatMap fun e => port e.2 (1 + e.1 / 2) ++
      x.bad (kind == 1 && decide (nc ≤ 8) && (ps.take e.1).contains e.2) (1 + e.1 / 2) eRule)

def localErrs (s : State) (all : List ImgRec) (x : ImgRec) : List PErr :=
  let k := bits (x.f 0) 31 28
  let u := bits (x.f 0) 4 0
  let n := x.r.index
  let before (p : Nat → Bool) : Bool := earlier (ofType all 3 2) x fun y => p (y.f 0)
  x.bad (decide (5 < k) || bits (x.f 0) 27 5 != 0) 0 eReserved ++ x.bad (k != 2 && u != 0) 0 eRange ++ x.bad (k == 2 && fallow s u) 0 eFallow ++
    x.bad ((k == 3 || k == 4 || k == 5) && before fun v => bits v 31 28 == k) 0 eRule ++ x.bad (k == 2 && before fun v => v == x.f 0) 0 eRule ++
    x.bad (k == 1 && (startWidth s n).isNone) 0 (eRule + readsOther) ++ x.bad (isEdge s n && k != 1) 0 (eRule + readsOther)

/-- The section as a whole. -/
def signpostsErrs (s : State) (all : List ImgRec) : List PErr :=
  bad (!(ofType all 3 1).any fun x => x.r.index == s.plan.deviceId.toNat) 3 0 eRule ++
    bad (!(ofType all 3 2).any fun x => bits (x.f 0) 31 28 == 5) 3 0 eRule ++
    bad ((planPorts s).any fun n => isEdge s n && (planRec s 3 2 n).isNone) 3 0 (eRule + readsOther)

/-- An inn that a derived account of 256 B rooms names (R360, R362): it exists and has such rooms. -/
def derivedInn (s : State) (x : ImgRec) (d : Nat) (named : Bool) : List PErr :=
  match innRec s d (x.f d) with
  | none => x.bad named d eUndefined
  | some r => x.bad (named && innRooms r 0 == 0) d (eRule + readsOther)

def classErrs (s : State) (x : ImgRec) : List PErr :=
  let v := BitVec.ofNat 4 x.r.index
  let esc := v == 2 || v == 4 || v == 6 || v == 8
  x.bad ((v == 0 && x.f 2 != 0) || (v != 0 && x.f 2 == 0)) 2 eRule ++ x.bad (esc && x.f 4 != 0) 4 eRange ++
    ((List.range 2).flatMap fun d => x.bad ((v == 7 || v == 8) && ((planRec s 8 2 0).map fun r => r.fld d != x.f d).getD false) d (eRule + readsOther) ++
      derivedInn s x d (v == 5 || (planPorts s).any fun n => isFabric s n && dieOf n == d && carries s n v)) ++
    x.bad (decide (x.f 3 < 17) && (planPorts s).any fun n => isFabric s n && carries s n v) 3 (eRange + readsOther)

def classesErrs (all : List ImgRec) : List PErr :=
  (List.range 9).flatMap fun v => bad (!(ofType all 4 1).any fun x => x.r.index == v) 4 0 eRule

/-! ## INNS (12 R359 to R362, R372, 14 R426) -/

/-- Cells an inn's reserves take of one room size (R362). -/
def reserveOf (s : State) (ix z : Nat) : Nat :=
  (((acctsOf s (ix / 64)).filter fun a => a.inn == ix % 64 && a.sizes == 2 ^ z).map (·.reserve)).foldl (· + ·) 0

def innErrs (s : State) (all : List ImgRec) (x : ImgRec) : List PErr :=
  let cells := innCells x.r
  let die := x.r.index / 64
  let cap : Int := (cells : Int) - (((acctsOf s die).filter fun a => a.inn == x.r.index % 64).map fun a => (a.reserve : Int)).foldl (· + ·) 0
  let quad := (List.range 4).any fun q => rangeMeets (x.f 0) cells (q * 393216) 393216 && !domPlanned s (28 * die + 16 + q)
  x.bad (x.f 0 % 256 != 0) 0 eRange ++ x.bad (decide (1572864 < x.f 0 + cells)) 0 eRange ++
    x.bad (earlier (ofType all 5 1) x fun y => y.r.index / 64 == die && rangeMeets (x.f 0) cells (y.f 0) (innCells y.r)) 0 eOverlap ++
    x.bad quad 0 (eRule + readsOther) ++
    ((List.range 5).flatMap fun z => x.bad (decide (innRooms x.r z * roomCells z < reserveOf s x.r.index z)) (z + 1) eCapacity) ++
    x.bad (decide (x.f 7 ≤ x.f 6)) 6 eRange ++ x.bad (decide (x.f 8 ≤ x.f 7)) 7 eRange ++ x.bad (decide (cap < (x.f 8 : Int))) 8 (eRange + readsOther)

/-- The account is derived, not a record's (R360, Table 12-3). -/
def derivedAcct (s : State) (ix : Nat) : Bool :=
  let q := ix / 8
  if q < 1024 then isFabric s q
  else decide (1056 ≤ q) && decide (q ≤ 1183) || q == 1246 || q == 1247

/-- The n-th COACH port has this account. -/
def coachAcct (q : Nat) : Bool := decide (1184 ≤ q) && decide (q ≤ 1215)

def accountErrs (s : State) (x : ImgRec) : List PErr :=
  let q := x.r.index / 8
  let die := reqDie s q
  x.badH (derivedAcct s x.r.index && q < 1024) (eRule + readsOther) ++
    x.badH ((derivedAcct s x.r.index && decide (1024 ≤ q)) || decide (1250 < q) || (decide (1024 ≤ q) && x.r.index % 8 != 0)) eRule ++
    x.bad ((innRec s die (x.f 0)).isNone) 0 eUndefined ++
    x.bad (x.f 2 != 0 && (setBits 5 (x.f 1)).length != 1) 1 eRule ++
    x.bad (((innRec s die (x.f 0)).map fun r => (setBits 5 (x.f 1)).any fun z => innRooms r z == 0).getD false) 1 eRule ++
    x.bad (decide (x.f 3 < x.f 2)) 2 eRange ++
    x.bad (coachAcct q && (x.f 1 != 16 || x.f 2 % 1024 != 0 || x.f 2 == 0)) 2 eCapacity

def gleanerErrs (s : State) (x : ImgRec) : List PErr :=
  x.badH ((planRec s 5 4 0).isNone) eRule ++ x.badH ((portRec s x.r.index).isNone) eUndefined

/-- Accounts that the plan's units need (R362, Table 12-3). -/
def neededAccts (s : State) : List Nat :=
  let cellarDie (d : Nat) : Bool := (planRecs s 11 1).any (fun r => r.index / 8 == d) || (planRecs s 11 3).any fun r => r.index / 1024 == d
  ((planPorts s).filter (isEdge s)).flatMap (fun n => (List.range 8).map (8 * n + ·)) ++
    (planRecs s 9 1).map (fun r => 8 * (1024 + r.index)) ++ (enum (coachPorts s)).map (fun e => 8 * (1184 + e.1)) ++
    ((List.range 2).filter cellarDie).map (fun d => 8 * (1216 + d)) ++
    ((List.range 4).filter fun k => (planRecs s 10 1).any fun r => bit (bits (r.fld 0) 14 11) k).map (fun k => 8 * (1218 + k)) ++
    (planRecs s 7 2).map (fun r => 8 * (1222 + r.index)) ++ [8 * 1248, 8 * 1249, 8 * 1250]

def innsErrs (s : State) : List PErr := (neededAccts s).flatMap fun a => bad ((planRec s 5 2 a).isNone) 5 0 eUndefined

/-! ## SCHED (13 R390, R391) -/

/-- QUEUE record of a port's queue. -/
def queueRec (s : State) (n q : Nat) : Option PlanRec := planRec s 6 1 (16 * n + q)
def queueShaped (s : State) (n q : Nat) : Bool := ((queueRec s n q).map fun r => r.fld 0 == 1).getD false

/-- VLs and, on an EDGE port, PCPs that use a queue of a port. -/
def queueVls (s : State) (n q : Nat) : List Nat := (List.range 9).filter fun v => carries s n (BitVec.ofNat 4 v) && vlFld s (BitVec.ofNat 4 v) 2 == q
def queuePcps (s : State) (n q : Nat) : List Nat := (List.range 8).filter fun p => isEdge s n && bits (portFld s n 15) (4 * p + 3) (4 * p) == q

/-- Some policer leaves packets red and alive, which may reach any port. -/
def redAnywhere (s : State) : Bool := (planRecs s 6 3).any fun r => r.fld 2 == 0

def queueErrs (s : State) (x : ImgRec) : List PErr :=
  let q := x.r.index % 16
  let n := x.r.index / 16
  let shaped := x.f 0 == 1
  x.bad (if q < 4 then x.f 1 != 0 else x.f 1 == 0 || decide (4096 < x.f 1)) 1 eRange ++
    x.bad (!shaped && x.f 2 != 0) 2 eRange ++ x.bad (!shaped && x.f 3 != 0) 3 eRange ++ x.bad (shaped && x.f 3 == 0) 3 (eZero + inPhase5) ++
    x.badH ((portRec s n).isNone) eUndefined ++
    x.bad (shaped && x.f 2 == 0 && ((q == 15 && redAnywhere s) || (queueVls s n q).any fun v => v == 2 || v == 4 || v == 6 || v == 8)) 2 (eRule + readsOther)

def shaperErrs (s : State) (x : ImgRec) : List PErr := x.badH ((portRec s x.r.index).isNone) eUndefined

def policerErrs (s : State) (x : ImgRec) : List PErr :=
  let n := x.r.index / 16
  let sel := x.r.index % 16
  let edge := isEdge s n
  let pre := (List.range 16).any fun i => bits (x.f 7) (2 * i + 1) (2 * i) == 3
  x.bad (if x.f 0 = 1 then decide (x.f 5 < x.f 3) else x.f 5 != 0) 5 eRange ++ x.bad pre 7 eReserved ++ x.bad (x.f 1 == 0 && x.f 7 != 0) 7 eRange ++
    x.badH ((portRec s n).isNone) eUndefined ++
    x.badH ((portRec s n).isSome && (if edge then decide (7 < sel) else sel == 0 || decide (8 < sel))) (eRule + readsOther) ++
    x.bad (x.f 1 == 1 && !edge) 1 (eRule + readsOther) ++ x.bad (x.f 2 == 1 && !(edge && bit (portFld s n 14) sel)) 2 (eRule + readsOther)

/-- Rules over a port's queues, reported at the section's start. -/
def schedErrs (s : State) : List PErr :=
  (planPorts s).flatMap fun n =>
    let uses (q : Nat) : Bool := !(queueVls s n q).isEmpty || !(queuePcps s n q).isEmpty
    let loose := [1, 2, 3].any (fun q => uses q && !queueShaped s n q) || (!(queuePcps s n 0).isEmpty && !queueShaped s n 0)
    let more (q : Nat) : Bool := queueShaped s n q && (!(queuePcps s n q).isEmpty || (queueVls s n q).any (· != 0))
    let sum : Nat := (((List.range 4).filter more).map fun q => ((queueRec s n q).map (·.fld 2)).getD 0).foldl (· + ·) 0
    bad loose 6 0 (eRule + readsOther) ++ bad (decide (portFld s n 3 * 200000 ≤ sum)) 6 0 (eRule + readsOther)

/-! ## FURROWS (03 R68, R575, 09 Table 9-5) -/

/-- Whether the member word has a legal form for the furrow's kind. -/
def memberErr (reduce : Bool) (w : Nat) : Option Nat :=
  let k := bits w 31 28
  if 2 < k ∨ bits w 27 24 ≠ 0 ∨ (k = 1 ∧ bits w 9 0 ≠ 0) ∨ (k = 2 ∧ bits w 9 5 ≠ 0) then some eReserved
  else if k = 2 ∧ 24 ≤ bits w 4 0 then some eRange
  else if (reduce && k == 2) || (!reduce && k == 1) then some eRule
  else none

def slotSetErrs (s : State) (x : ImgRec) : List PErr :=
  let f := x.r.index
  let ns := nodeRecs s f
  (enum (ns.zip (x.t 3))).flatMap fun e =>
    let n := e.2.1
    let w (i : Nat) := e.2.2.getD i 0
    let b (c : Bool) (k code : Nat) : List PErr := x.badT c 3 4 e.1 k code
    let kids := childNodesOf s f n
    b (bits (w 0) 31 28 != 0) 0 eReserved ++ b (decide (x.f 4 ≤ n.range)) 0 eRange ++
      b ((ns.take e.1).any fun m => m.range == n.range && m.node == n.node) 0 eRule ++
      b (bits (w 1) 31 26 != 0) 1 eReserved ++ b (n.device == 16383) 1 eRange ++ b (decide (4095 < n.lead + 32 * (n.stripe - 1))) 1 eRange ++
      b (bits (w 2) 31 23 != 0) 2 eReserved ++ b (n.stripe == 0 || decide (64 < n.stripe)) 2 eRange ++
      b (n.fanin == 0 || decide (1024 < n.fanin)) 2 eRange ++ b (n.window == 0 || decide (16 < n.window)) 2 eRange ++
      b (decide (n.fanin < kids.length)) 2 eRule ++ b (!nodup (kids.map (·.device))) 0 eRule ++
      b (bits (w 3) 31 16 != 0) 3 eReserved ++ b (!n.isRoot && (parentOf s f n).isNone) 3 eUndefined ++
      b (n.isRoot && (ns.take e.1).any fun m => m.isRoot && m.range == n.range) 3 eRule

/-- One sink takes at most one range whose root lies on a given device (R575). -/
def sinkClash (s : State) (f r : Nat) : Bool :=
  let root (r : Nat) : Option Nat := ((rootsOf s f).find? fun n => n.range == r).map (·.device)
  let sink (r : Nat) : Nat := ((furrowTab s f 2).getD r []).getD 0 0
  (List.range r).any fun q => sink q == sink r && (root r).isSome && root q == root r

def furrowErrs (s : State) (all : List ImgRec) (x : ImgRec) : List PErr :=
  let kind := x.f 0
  let red := kind == 3
  let move := kind == 1 || kind == 2
  let mem := x.f 1
  let no (c : Bool) (i : Nat) : List PErr := x.bad (!c && x.f i != 0) i eRange
  let need (c : Bool) (i : Nat) : List PErr := x.bad (c && x.f i == 0) i eRange
  let noT (c : Bool) (i : Nat) : List PErr := x.badC (!c && !(x.t i).isEmpty) i eRange
  let order := (x.t 4).map fun e => (e.getD 0 0, e.getD 1 0)
  let perm := (x.t 1).map fun e => e.getD 0 0
  let before (y : ImgRec) : List (Nat × Nat) := if y.r.index < x.r.index then (y.t 4).map fun e => (e.getD 0 0, e.getD 1 0) else []
  let others := (ofType all 7 1).flatMap before
  x.bad (if x.r.index < 32 then move else red) 0 eRange ++ no (kind != 0) 1 ++ need (kind != 0) 1 ++
    x.badC ((x.t 0).length != if kind = 0 then 0 else mem) 0 eRange ++
    ((enum (x.t 0)).flatMap fun e => match memberErr red (e.2.getD 0 0) with | some c => x.badT true 0 1 e.1 0 c | none => []) ++
    no (kind == 1) 2 ++ x.bad (kind == 1 && (x.f 2 == 0 || decide (mem ≤ x.f 2))) 2 eRange ++
    x.badC (perm.length != if kind = 2 then mem else 0) 1 eRange ++
    ((enum perm).flatMap fun e => x.badT (decide (2 ^ 24 ≤ e.2)) 1 1 e.1 0 eReserved ++
      x.badT ((decide (e.2 < 2 ^ 24) && decide (mem ≤ e.2)) || (perm.take e.1).contains e.2) 1 1 e.1 0 eRange) ++
    no move 3 ++ need move 3 ++ no red 4 ++ need red 4 ++ x.badC ((x.t 2).length != if red then x.f 4 else 0) 2 eRange ++
    ((enum (x.t 2)).flatMap fun e =>
      let v := e.2.getD 0 0
      x.badT (decide (1 < bits v 31 28) || bits v 27 24 != 0 || (bits v 31 28 == 1 && bits v 9 0 != 0)) 2 1 e.1 0 eReserved ++
        x.badT (bits v 31 28 == 0 && decide (mem ≤ bits v 23 0)) 2 1 e.1 0 eRange ++ x.badT (sinkClash s x.r.index e.1) 2 1 e.1 0 eRule) ++
    noT red 3 ++ slotSetErrs s x ++
    ((List.range (if red then x.f 4 else 0)).flatMap fun r => x.badH (!(rootsOf s x.r.index).any fun n => n.range == r) eUndefined) ++
    no red 5 ++ need red 5 ++ no red 6 ++ need red 6 ++ noT red 4 ++
    (enum order).flatMap fun e =>
      x.badT (decide (65536 ≤ e.2.1)) 4 2 e.1 0 eReserved ++
        x.badT (((order.take e.1).any fun d => decide (e.2.1 ≤ d.1)) || others.any fun d => d.1 == e.2.1) 4 2 e.1 0 eRule ++
        x.badT ((order.take e.1 ++ others).any fun d => d.2 == e.2.2) 4 2 e.1 1 eRule

/-! ## Stage entries (08 R242, Tables 8-1, 8-3, 8-4) -/

/-- The winnow instruction breaks Table 8-3 or 8-4: its code. -/
def winnowErr (rb w : Nat) : Option Nat :=
  let op := bits w 63 58
  let cmpF := op == 0x16 || op == 0x17 || op == 0x18
  let known := decide (op ≤ 4) || (decide (8 ≤ op) && decide (op ≤ 0x18)) || (decide (0x20 ≤ op) && decide (op ≤ 0x24))
  if !known || bits w 39 32 ≠ 0 || (cmpF && decide (bits w 48 47 < 2)) then some eReserved
  else if op = 1 ∧ rb < bits w 45 40 + 2 ^ bits w 48 47 then some eRule
  else none

/-- The furrow is a movement furrow that names the stage. -/
def namesStage (s : State) (f n : Nat) : Bool :=
  (furrowFld s f 0 == 1 || furrowFld s f 0 == 2) && (furrowTab s f 0).any fun e =>
    bits (e.getD 0 0) 31 28 == 2 && bits (e.getD 0 0) 23 10 == s.plan.deviceId.toNat && bits (e.getD 0 0) 4 0 == n

def furrowCode (s : State) (f : Nat) : Nat := if (planRec s 7 1 f).isNone then eUndefined else eRule

def stageErrs (s : State) (all : List ImgRec) (x : ImgRec) : List PErr :=
  let n := x.r.index
  let win := isWinnow n
  let ins (y : ImgRec) : List Nat := (y.t 0).map fun e => e.getD 0 0
  let furrow (f i : Nat) : List PErr := x.bad (!namesStage s f n) i (furrowCode s f)
  (if win then x.bad (x.f 0 != 1) 0 eRange ++ ([3, 4, 5, 6, 7, 8, 9, 10, 11].flatMap fun i => x.bad (x.f i != 0) i eRange) ++
      x.bad (x.f 12 % 4 != 0 || decide (x.f 12 < 4) || decide (64 < x.f 12)) 12 eRange ++ x.bad (x.f 14 == 0 || decide (64 < x.f 14)) 14 eRange ++ x.badC ((x.t 1).length != 8) 1 eRule ++ x.badC ((x.t 2).length != x.f 14) 2 eRule ++
      ((enum (x.t 2)).flatMap fun e => match winnowErr (x.f 12) (entry64 e.2) with | some c => x.badT true 2 2 e.1 0 c | none => []) ++
      x.bad (x.f 2 != 0 && decide (x.f 2 < 32)) 2 eRange ++ x.bad (x.f 13 == 1 && x.f 2 == 0) 2 eZero ++
      (if x.f 2 = 0 then [] else furrow (x.f 2) 2)
    else ([2, 12, 13, 14].flatMap fun i => x.bad (x.f i != 0) i eRange) ++ x.badC (!(x.t 1).isEmpty) 1 eRule ++ x.badC (!(x.t 2).isEmpty) 2 eRule ++
      x.bad (!([4, 8, 16].contains (x.f 4)) || (x.f 3 == 2 && x.f 4 == 16)) 4 eRange ++ x.bad (!([0, 4, 8].contains (x.f 5))) 5 eRange ++
      x.bad (x.f 10 % 4096 != 0 || (x.f 11 == 0 && x.f 10 != 0)) 10 eRange ++ x.bad (x.f 11 % 4096 != 0) 11 eRange ++
      x.bad (decide (2 ^ 36 < x.f 10 % 2 ^ 36 + x.f 11)) 11 eRange) ++
    x.badC ((x.t 0).length != x.f 0) 0 eRule ++
    ((enum (ins x)).flatMap fun e =>
      x.badT (decide (255 < e.2)) 0 1 e.1 0 eReserved ++ x.badT (decide (e.2 < 32)) 0 1 e.1 0 eRange ++
        x.badT (!namesStage s e.2 n) 0 1 e.1 0 (furrowCode s e.2) ++
        x.badT (((ins x).take e.1).contains e.2 || earlier (ofType all 7 2) x fun y => (ins y).contains e.2) 0 1 e.1 0 eRule) ++
    furrow (x.f 1) 1

/-! ## THRESHERS (09 R275, Table 9-4) -/

def slotErrs (s : State) (x : ImgRec) : List PErr :=
  match (nodeRecs s (x.f 0)).find? fun n => n.range == x.f 1 && n.node == x.f 2 && n.device == s.plan.deviceId.toNat with
  | none => x.badH true eRule
  | some n => x.badH (decide (n.stripe ≤ x.f 3) || x.r.index != n.lead + 32 * x.f 3) eRule

def threshersErrs (s : State) : List PErr :=
  let need := (List.range 32).flatMap fun f => (localNodes s f).flatMap fun n => (List.range n.stripe).map fun i => (f, n, i)
  (need.flatMap fun e => bad (match planRec s 8 1 (e.2.1.lead + 32 * e.2.2) with
      | some r => !(r.fld 0 == e.1 && r.fld 1 == e.2.1.range && r.fld 2 == e.2.1.node && r.fld 3 == e.2.2)
      | none => true) 8 0 eRule) ++
    bad (!(planRecs s 8 1).isEmpty && (planRec s 8 2 0).isNone) 8 0 eUndefined

def colInnErrs (s : State) (x : ImgRec) : List PErr :=
  (List.range 2).flatMap fun d => derivedInn s x d ((planRecs s 8 1).any fun r => r.index / 2048 == d)

/-! ## PLOTS (07 R234, R227, 15 R438, 09 Table 9-5) -/

def bindErrs (s : State) (x : ImgRec) : List PErr :=
  let bs := bindRecs s x.r.index
  (enum (bs.zip (x.t 1))).flatMap fun e =>
    let r := e.2.1
    let w (i : Nat) := e.2.2.getD i 0
    let b (c : Bool) (k code : Nat) : List PErr := x.badT c 1 3 e.1 k code
    let store := r.kind == 4
    b (decide (4 < r.kind) || bits (w 0) 19 16 != 0 || (!store && r.shared)) 0 eReserved ++
      b ((store && r.furrow != 0) || (!store && r.sources != 0)) 0 eRange ++ b (store && r.sources == 0) 0 eRange ++
      b (r.kind == 0 && !(furrowFld s r.furrow 0 == 1 || furrowFld s r.furrow 0 == 2)) 0 (furrowCode s r.furrow + readsOther) ++
      b (decide (1 ≤ r.kind) && decide (r.kind ≤ 3) && !isReduce s r.furrow) 0 (furrowCode s r.furrow + readsOther) ++
      b (bits (w 1) 31 17 != 0) 1 eReserved ++ b (bits (w 2) 31 18 != 0) 2 eReserved ++ b (r.lines == 0 || decide (131072 < r.first + r.lines)) 2 eRange ++
      b ((bs.take e.1).any fun q => rangeMeets q.first q.lines r.first r.lines) 1 eOverlap

/-- Granary windows of a plot: write right, base, bytes. -/
def windowsOf (r : PlanRec) : List (Bool × Nat × Nat) :=
  (r.tab 2).map fun e => (bit (e.getD 0 0) 31, bits (e.getD 0 0) 25 0 * 4096, bits (e.getD 1 0) 25 0 * 4096)

def windowErrs (x : ImgRec) : List PErr :=
  (enum ((windowsOf x.r).zip (x.t 2))).flatMap fun e =>
    let (_, a, n) := e.2.1
    let w (i : Nat) := e.2.2.getD i 0
    let b (c : Bool) (k code : Nat) : List PErr := x.badT c 2 2 e.1 k code
    b (bits (w 0) 30 26 != 0) 0 eReserved ++ b (bits (w 1) 31 26 != 0) 1 eReserved ++ b (n == 0) 1 eZero ++
      b (decide (2 ^ 36 < a % 2 ^ 36 + n)) 1 eRange ++ b (meetsArea [loftArea, sourceArea] a n) 0 (eOverlap + inPhase5)

def plotErrs (s : State) (mask : Nat) (all : List ImgRec) (x : ImgRec) : List PErr :=
  let p := x.r.index
  let tw := bits (x.f 0) 14 0
  let cellar := isCellar s p
  x.badH (fallow s p || (x.pos != 0 && !bit mask p)) eFallow ++ x.bad (bits (x.f 0) 28 24 != 0 || bit (x.f 0) 15) 0 eReserved ++ x.bad (tw == 0) 0 (eZero + inPhase5) ++
    x.bad (decide (16384 < tw)) 0 eRange ++ x.badC ((x.t 0).length != tw) 0 eRule ++ x.bad (cellar && bound s p) 0 (eRule + readsOther) ++
    x.badH (cellar && (ofType all 9 1).countP (fun y => bit (y.f 0) 29 && y.r.index / 16 == p / 16 && decide (y.r.index < p)) == 8) eCapacity ++
    x.badC (!flagged s p && !(x.t 1).isEmpty) 1 eRule ++
    ((enum (x.t 0)).flatMap fun e =>
      (wordErrs s p e.1 (wordOf e.2)).flatMap fun q => x.badT true 0 24 e.1 (q.1 / 32) q.2) ++
    bindErrs s x ++ windowErrs x

/-! ## GRANARY (04 R112, R114, R118, R129, R136) -/

/-- Group table of a share in the candidate plan: the image's, or the running one. -/
def candGroups (s : State) (x : ImgRec) : List (List Byte) :=
  if x.pos = 0 then (List.range (shGroups s x.r.index)).map (groupRec s x.r.index)
  else (x.t 0).map fun e => e.flatMap (leBytes 4)

/-- Areas of a share in the candidate plan. -/
def candAreas (s : State) (x : ImgRec) : List (Nat × Nat) :=
  shareBaseAreas s x.r.index ++ factorAreas (shRule s x.r.index) (candGroups s x)

/-- The areas of a share with where a fault of each is reported: a field of its descriptor, or a group's FACTOR_ADDR. -/
def areasAt (s : State) (x : ImgRec) : List ((Nat ⊕ Nat) × Nat × Nat) :=
  let sh := x.r.index
  let of (i : Nat) (xs : List (Nat × Nat)) : List ((Nat ⊕ Nat) × Nat × Nat) := xs.map fun a => (.inl i, a)
  let base (i bytes : Nat) : List (Nat × Nat) := (shStacks s sh).map fun k => (k * 2 ^ 36 + bits (shareW s sh i) 23 0 * 4096, bytes)
  of 4 (base 4 (shPerStack s sh * (shArrays s sh * 7168) * (if shBanked s sh then 2 else 1))) ++
    of 6 (base 6 (shPerStack s sh * (1792 * (etypeBits (shWout s sh) / 8)))) ++
    of 5 ((base 5 (128 * shGroups s sh)).take 1) ++
    (if shRule s sh = 2 then of 7 (base 7 (shPerStack s sh * 14336)) else []) ++
    (enum (factorAreas (shRule s sh) (candGroups s x))).map fun e => (.inr e.1, e.2)

/-- Areas of one list that meet each other or those of another list. -/
def clash (own others : List (Nat × Nat)) : Bool := (enum own).any fun e => meetsArea (own.take e.1 ++ others) e.2.1 e.2.2

def shareErrs (s : State) (all : List ImgRec) (x : ImgRec) : List PErr :=
  let sh := x.r.index
  let rule := shRule s sh
  let gs := candGroups s x
  let areas := areasAt s x
  let before (y : ImgRec) : List (Nat × Nat) := if y.r.index < sh then candAreas s y else []
  let others := (ofType all 10 1).flatMap before ++ [loftArea, sourceArea] ++ spillAreas s
  let hi (i b : Nat) : List PErr := x.bad (decide (2 ^ b ≤ x.f i)) i eReserved
  let at_ (p : Nat ⊕ Nat) (c : Bool) (code : Nat) : List PErr := match p with
    | .inl i => x.bad c i code
    | .inr g => x.badT c 0 32 g 20 code
  x.bad (bits (x.f 0) 31 24 != sh) 0 eRule ++ x.bad (bits (x.f 0) 10 0 != 0) 0 eReserved ++ x.bad (shWmode s sh == 3) 0 eRange ++
    x.bad (decide (4 < shWout s sh)) 0 eRange ++ x.bad ((shStacks s sh).isEmpty) 0 eZero ++ hi 1 13 ++ x.bad (shGroups s sh == 0) 1 eZero ++
    x.bad (decide (4096 < shGroups s sh)) 1 eRange ++ x.bad (shLen s sh == 0) 2 eZero ++ hi 3 4 ++ hi 4 24 ++ hi 5 24 ++ hi 6 24 ++ hi 7 24 ++
    x.bad (rule != 2 && x.f 7 != 0) 7 eRange ++ x.badC (x.pos != 0 && (x.t 0).length != shGroups s sh) 0 eRule ++
    ((enum gs).flatMap fun g => (groupErrs rule g.2).flatMap (fun e => x.badT true 0 32 g.1 e.1 e.2) ++ x.badT (!groupOk g.2) 0 32 g.1 31 eRule) ++
    ((tileErrs (shLen s sh) gs).flatMap fun e => x.badT (!gs.isEmpty) 0 32 e.1 e.2 eRule) ++
    (areas.flatMap fun a => at_ a.1 (decide (2 ^ 36 < a.2.1 % 2 ^ 36 + a.2.2)) eRange) ++
    ((enum areas).flatMap fun e =>
      at_ e.2.1 (meetsArea ((areas.take e.1).map (·.2) ++ others) e.2.2.1 e.2.2.2) (eOverlap + inPhase5)) ++
    ((enum gs).flatMap fun g => x.badT (!coverOk s sh rule (shBanked s sh) [g.2]) 0 32 g.1 0 eRule) ++
    x.badH (rule == 2 && (planRec s 10 3 sh).isNone) eUndefined

def feedErrs (s : State) (all : List ImgRec) (x : ImgRec) : List PErr :=
  let k := x.r.index
  let sh := fdShare s k
  let hasUpd := (furrowTab s (fdOut s k).1 0).any fun e => bits (e.getD 0 0) 31 28 == 1 && bits (e.getD 0 0) 23 10 == s.plan.deviceId.toNat
  let listed (c : Nat × Nat) : Bool := (orderList s c.1).any fun e => e.1 == c.2
  x.bad (bits (x.f 0) 15 5 != 0) 0 eReserved ++ x.bad (bits (x.f 1) 19 12 != 0) 1 eReserved ++ x.bad (bits (x.f 3) 11 5 != 0) 3 eReserved ++
    x.bad (earlier (ofType all 10 2) x fun y => fdIn s y.r.index == fdIn s k && fdRange s y.r.index == fdRange s k) 0 eRule ++
    x.bad (!shareDefined s sh) 1 eUndefined ++
    x.bad (earlier (ofType all 10 2) x fun y => fdShare s y.r.index == sh && rangeMeets (fdFirst s y.r.index) (fdLen s y.r.index) (fdFirst s k) (fdLen s k)) 2 eOverlap ++
    x.bad (shareDefined s sh && decide (shLen s sh < fdFirst s k + fdLen s k)) 4 eRange ++ x.bad (decide ((fdOut s k).2 ≤ (fdIn s k).2)) 3 eRule ++
    x.bad (!isReduce s (fdIn s k).1) 0 (furrowCode s (fdIn s k).1 + readsOther) ++ x.bad (!isReduce s (fdOut s k).1) 3 (furrowCode s (fdOut s k).1 + readsOther) ++
    x.bad (isReduce s (fdIn s k).1 && !listed (fdIn s k)) 0 eUndefined ++ x.bad (isReduce s (fdOut s k).1 && !listed (fdOut s k)) 3 eUndefined ++
    x.bad (isReduce s (fdIn s k).1 && decide (furrowFld s (fdIn s k).1 4 ≤ fdRange s k)) 1 (eRange + readsOther) ++ x.bad (isReduce s (fdOut s k).1 && !hasUpd) 3 (eRule + readsOther)

def precondErrs (s : State) (x : ImgRec) : List PErr :=
  let ps := setBits 32 (x.f 0)
  x.badH (!shareDefined s x.r.index) eUndefined ++ x.badH (shareDefined s x.r.index && shRule s x.r.index != 2) eRule ++
    x.bad (x.f 0 == 0) 0 eZero ++ x.bad (ps.any (fallow s)) 0 eFallow ++ x.bad (ps.any fun p => (planRec s 9 1 p).isNone) 0 eUndefined ++
    x.bad (ps.any (isCellar s)) 0 (eRule + readsOther) ++ x.bad (ps.any fun p => decide (tableWords s p ≤ x.f 1)) 1 (eRange + readsOther) ++
    x.bad (ps.any fun p => decide (tableWords s p ≤ x.f 2)) 2 (eRange + readsOther)

/-! ## CELLAR (15 R438, R439), DIGESTS (16 R467), POWER (19 R535, R536) -/

def engineErrs (s : State) (all : List ImgRec) (x : ImgRec) : List PErr :=
  let ports (y : ImgRec) : List Nat := (y.t 0).map fun e => e.getD 0 0
  (enum (ports x)).flatMap fun e =>
    x.badT (decide (1024 ≤ e.2)) 0 1 e.1 0 eReserved ++
      x.badT (!isEdge s e.2 || dieOf e.2 != x.r.index / 8) 0 1 e.1 0 (if (portRec s e.2).isNone then eUndefined else eRule + readsOther) ++
      x.badT (((ports x).take e.1).contains e.2 || earlier (ofType all 11 1) x fun y => (ports y).contains e.2) 0 1 e.1 0 eRule

/-- Member ordinal that member `i` of a movement furrow sends to (03 R69). -/
def sendsTo (s : State) (f i : Nat) : Nat :=
  if furrowFld s f 0 = 1 then (i + furrowFld s f 2) % max (furrowFld s f 1) 1 else ((furrowTab s f 1).getD i []).getD 0 0

/-- The plot that a member word of this device names. -/
def plotOfWord (s : State) (w : Nat) : Option Nat :=
  if bits w 31 28 = 0 ∧ bits w 23 10 = s.plan.deviceId.toNat ∧ (localKind s (bits w 9 0)).1 = 2 then some (localKind s (bits w 9 0)).2 else none

def sealedErrs (s : State) (x : ImgRec) : List PErr :=
  let f := x.r.index
  let engPorts := (planRecs s 11 1).flatMap fun r => (r.tab 0).map fun e => e.getD 0 0
  let words := (furrowTab s f 0).map fun e => e.getD 0 0
  let here (w : Nat) : Bool := bits w 23 10 == s.plan.deviceId.toNat
  let pairs := (enum words).map fun e => (e.2, words.getD (sendsTo s f e.1) 0)
  let toPlot (w : Nat) : Bool := ((plotOfWord s w).map fun p => isCellar s p && (bindRecs s p).any fun b => b.kind == 0 && b.furrow == f).getD false
  x.bad (decide (x.f 1 < x.f 0)) 1 eRange ++ x.badH (!(furrowFld s f 0 == 1 || furrowFld s f 0 == 2)) (furrowCode s f + readsOther) ++
    x.badH (pairs.any fun q => here q.2 && here q.1 && !(bits q.1 31 28 == 0 && engPorts.contains (bits q.1 9 0))) (eRule + readsOther) ++
    x.badH (pairs.any fun q => here q.2 && !toPlot q.2) (eRule + readsOther)

/-- A MOVE binding of a Cellar plot on an unsealed furrow, a STORE binding of one. -/
def cellarPlotErrs (s : State) (x : ImgRec) : List PErr :=
  let p := x.r.index
  (enum (bindRecs s p)).flatMap fun e =>
    x.badT (isCellar s p && ((e.2.kind == 0 && (planRec s 11 2 e.2.furrow).isNone) || e.2.kind == 4)) 1 3 e.1 0 (eRule + readsOther)

def exitErrs (s : State) (x : ImgRec) : List PErr :=
  let p := x.r.index / 64
  let b := (bindRecs s p)[x.f 3]?
  let f := x.f 2
  let mine := (furrowTab s f 0).any fun e => plotOfWord s (e.getD 0 0) == some p
  x.badH (!isCellar s p) (eRule + readsOther) ++ x.bad (!((b.map (isSealed s p)).getD false)) 3 (eRule + readsOther) ++
    x.bad (!(furrowFld s f 0 == 1 || furrowFld s f 0 == 2) || !mine) 2 (furrowCode s f + readsOther) ++
    (if x.f 0 = 0 then x.bad (x.f 4 != 0) 4 eRange ++ x.bad (x.f 5 != 0) 5 eRange
     else x.bad (x.f 4 == 0 || decide (64 < x.f 4)) 4 eRange ++ x.bad (x.f 6 != 0) 6 eRange)

def regionErrs (s : State) (all : List ImgRec) (x : ImgRec) : List PErr :=
  let area (y : ImgRec) : Nat × Nat := (y.f 0, y.f 1 * 2 ^ 21)
  let plotWin := (planRecs s 9 1).flatMap fun r => if bit (x.f 2) r.index then [] else (windowsOf r).map fun w => (w.2.1, w.2.2)
  let ring := match planRec s 5 4 0 with | some r => [(r.fld 0, 160 * 2 ^ r.fld 1)] | none => []
  let shares := (ofType all 10 1).flatMap (candAreas s)
  let sum : Nat := (((ofType all 11 4).filter fun y => decide (y.r.index ≤ x.r.index)).map fun y => y.f 1 * 2 ^ 21).foldl (· + ·) 0
  x.bad (x.f 0 % 2 ^ 21 != 0) 0 eRange ++ x.bad (decide (2 ^ 36 < x.f 0 % 2 ^ 36 + x.f 1 * 2 ^ 21)) 1 eRange ++
    x.bad (earlier (ofType all 11 4) x (fun y => meetsArea [area y] (area x).1 (area x).2) ||
      meetsArea ([loftArea, sourceArea] ++ spillAreas s ++ shares ++ ring ++ plotWin) (area x).1 (area x).2) 0 (eOverlap + inPhase5) ++
    x.bad (decide (2 ^ 34 < sum)) 1 eCapacity ++ x.bad ((setBits 32 (x.f 2)).any fun p => !isCellar s p) 2 (eRule + readsOther)

def provErrs (s : State) (all : List ImgRec) (x : ImgRec) : List PErr :=
  let f := x.f 0
  let w := memberWord s f (x.f 1)
  let ok := decide (x.f 1 < furrowFld s f 1) && ((plotOfWord s w).isSome || (bits w 31 28 == 2 && bits w 23 10 == s.plan.deviceId.toNat))
  x.bad (!(furrowFld s f 0 == 1 || furrowFld s f 0 == 2) || (planRec s 11 2 f).isSome) 0 (eRule + readsOther) ++ x.bad (!ok) 1 (eRule + readsOther) ++
    x.badH (earlier (ofType all 12 1) x fun y => y.f 0 == f && y.f 1 == x.f 1) eRule

def domainErrs (s : State) (x : ImgRec) : List PErr :=
  let d := x.r.index
  x.bad (decide (d < 56) && decide (d % 28 < 16) && x.f 0 == 1 && fallow s (16 * (d / 28) + d % 28)) 0 eFallow

def settingsErrs (x : ImgRec) : List PErr :=
  x.bad (decide (x.f 2 < x.f 1) || (x.f 0 == 0 && x.f 2 != x.f 1)) 2 eRange ++
    x.bad (if x.f 0 = 0 then x.f 3 != 0 else decide (x.f 3 < 600) || decide (2400 < x.f 3)) 3 eRange

/-- Domains that the plan's units need (R536). -/
def neededDoms (s : State) : List Nat :=
  (planRecs s 9 1).map (fun r => 28 * (r.index / 16) + r.index % 16) ++
    (planRecs s 8 1).map (fun r => 28 * (r.index / 2048) + 20 + r.index / 512 % 4) ++
    (planRecs s 7 2).map (fun r => 28 * stageDie r.index + 24) ++
    (planRecs s 11 1).map (fun r => 28 * (r.index / 8) + 25) ++ (planRecs s 11 3).map (fun r => 28 * (r.index / 1024) + 25)

def powerErrs (s : State) : List PErr :=
  ((neededDoms s).flatMap fun d => bad (!domPlanned s d) 13 0 eUndefined) ++
    ([26, 27, 54, 55].flatMap fun d => bad (!domPlanned s d) 13 0 eRule) ++ bad ((planRec s 13 2 0).isNone) 13 0 eRule

/-! ## Areas across sections (R242, R372) -/

def spillErrs (s : State) (all : List ImgRec) (x : ImgRec) : List PErr :=
  let others := [loftArea, sourceArea] ++ (ofType all 10 1).flatMap (candAreas s) ++
    ((ofType all 7 2).flatMap fun y => if y.r.index < x.r.index then [(y.f 10, y.f 11)] else []) ++
    (planRecs s 9 1).flatMap fun r => (windowsOf r).map fun w => (w.2.1, w.2.2)
  x.bad (meetsArea others (x.f 10) (x.f 11)) 10 (eOverlap + inPhase5)

def ringErrs (s : State) (all : List ImgRec) (x : ImgRec) : List PErr :=
  let n := 160 * 2 ^ x.f 1
  x.bad (x.f 0 % 4096 != 0) 0 eRange ++ x.bad (decide (2 ^ 36 < x.f 0 % 2 ^ 36 + n)) 1 eRange ++
    x.bad (meetsArea (reservedAreas s ++ (ofType all 10 1).flatMap (candAreas s)) (x.f 0) n) 0 (eOverlap + inPhase5)

/-! ## What a DELTA may change (R292) -/

def frozenErrs (s : State) (cand : State) (x : ImgRec) : List PErr :=
  let old := planRec s x.r.sect x.r.rtype x.r.index
  let oldAreas := (planRecs s 10 1).flatMap fun r => shareAreas s r.index
  match x.r.sect, x.r.rtype with
  | 3, 1 => x.bad (match old with
      | none => true
      | some r => bits (r.fld 0) 31 30 != bits (x.f 0) 31 30 || bits (r.fld 0) 9 0 != bits (x.f 0) 9 0) 0 eFrozen
  | 3, 2 => x.badH (old.map (·.fields) != some x.r.fields) eFrozen
  | 10, 1 => x.badH ((old.map fun r => bits (r.fld 0) 23 22 == 2).getD false || (!x.gone && bits (x.f 0) 23 22 == 2)) eFrozen ++
      x.badH (x.gone && old.isNone) eUndefined ++ x.badH (!x.gone && clash (candAreas cand x) oldAreas) eOverlap
  | 10, 2 => x.badH (x.gone && old.isNone) eUndefined
  | 10, 3 => x.badH true eFrozen
  | _, _ => []

/-! ## The five phases (R275) -/

/-- Every rule of a record. -/
def crossErrs (s : State) (mask : Nat) (all : List ImgRec) (x : ImgRec) : List PErr :=
  match x.r.sect, x.r.rtype with
  | 1, 1 => lanesErrs s x
  | 2, 1 => portErrs s all x
  | 2, 2 => l2Errs s x
  | 3, 1 => signpostErrs s x
  | 3, 2 => localErrs s all x
  | 4, 1 => classErrs s x
  | 5, 1 => innErrs s all x
  | 5, 2 => accountErrs s x
  | 5, 3 => gleanerErrs s x
  | 5, 4 => ringErrs s all x
  | 6, 1 => queueErrs s x
  | 6, 2 => shaperErrs s x
  | 6, 3 => policerErrs s x
  | 7, 1 => furrowErrs s all x
  | 7, 2 => stageErrs s all x ++ spillErrs s all x
  | 8, 1 => slotErrs s x
  | 8, 2 => colInnErrs s x
  | 9, 1 => plotErrs s mask all x ++ cellarPlotErrs s x
  | 10, 1 => shareErrs s all x
  | 10, 2 => feedErrs s all x
  | 10, 3 => precondErrs s x
  | 11, 1 => engineErrs s all x
  | 11, 2 => sealedErrs s x
  | 11, 3 => exitErrs s x
  | 11, 4 => regionErrs s all x
  | 12, 1 => provErrs s all x
  | 13, 1 => domainErrs s x
  | 13, 2 => settingsErrs x
  | _, _ => []

/-- Rules of a section as a whole. -/
def wholeErrs (s : State) (all : List ImgRec) (sect : Nat) : List PErr :=
  match sect with
  | 2 => portsErrs s
  | 3 => signpostsErrs s all
  | 4 => classesErrs all
  | 5 => innsErrs s
  | 6 => schedErrs s
  | 8 => threshersErrs s
  | 13 => powerErrs s
  | _ => []

/-- A condition of phase 5 (R275): a unit that the plan does not define, work or a role on a plot outside PLOT_PRESENT, a reservation
that does not fit, granary areas that meet, the agreement of THRESHERS with FURROWS, a zero that the phase names. The owning
chapters' other conditions belong to phase 4. -/
def crossPhase (e : PErr) : Bool :=
  let code := e.2.2 % 256
  e.2.2 / inPhase5 % 2 == 1 || code == eUndefined || code == eCapacity || code == eFallow || (e.1 == 8 && code == eRule)

/-- Errors with their marks off. -/
def plainErrs (es : List PErr) : List PErr := es.map fun e => (e.1, e.2.1, e.2.2 % 256)

/-- Errors of phase 4 among those of a section; a condition that reads other sections is asked when none is skipped. -/
def phase4 (skipped : Bool) (es : List PErr) : List PErr :=
  plainErrs (es.filter fun e => !crossPhase e && !(skipped && e.2.2 / readsOther % 2 == 1))

/-- Every error of an image, in the order in which the phases find them (R275, R276). -/
def validate (s : State) (slot : Bool) : List PErr :=
  let w := imgWord s slot
  let e1 := headerErrs s w
  if !e1.isEmpty then e1
  else
    let e2 := digestErrs s slot
    if !e2.isEmpty then e2
    else
      let st := structureOf w
      let all := candidate s w
      let c := planned s w
      let skipped := !st.2.isEmpty
      let start (sect : Nat) : Nat := w (25 + 2 * (((List.range (imgCount w)).find? fun k => bits (w (24 + 2 * k)) 31 24 == sect).getD 0))
      let field (x : ImgRec) : List PErr := if x.pos = 0 then [] else fieldErrs (fun i => w (start x.r.sect + i)) x
      let fields := st.1.flatMap fun sec =>
        if sec.2.2.isEmpty then
          (sec.2.1.flatMap fun x => phase4 skipped (field x ++ (if x.gone then [] else crossErrs c (w 4) all x)) ++
              (if imgDelta w then frozenErrs s c x else [])) ++
            phase4 skipped (wholeErrs c all sec.1)
        else []
      let e34 := st.2 ++ fields
      if !e34.isEmpty then e34
      else plainErrs ((List.range 14).flatMap fun sect =>
        ((all.filter fun x => x.r.sect == sect).flatMap fun x => field x ++ crossErrs c (w 4) all x) ++ wholeErrs c all sect)

end Sys2Proof.Machine
end

