-- ==== Sys2Proof/Machine/PlanCmds.lean ====
section
/-!
DEFINITION. Staging, validation, headlands and commits (09 R272 to R293), step reports (16 R461, R462) and the
yoke's judgement at a step close (18 R513, R514).
-/

namespace Sys2Proof.Machine
open Sys2Proof

/-! ## Authority over the slots (R273) -/

/-- OPERATOR works on slot 0, OWNER on slot 1; OWNER may also cancel slot 0. -/
def slotAuth (op : Half) (c : Cmd) : Bool :=
  match c.auth with
  | .operator => c.u 0 1 == 0
  | .owner => c.u 0 1 == 1 || op == oPlanCancel
  | _ => true

/-- A plan command that names a slot: its authority over the slot comes before its format. -/
def onSlot (op : Half) (c : Cmd) (fmt : List (Nat × Nat)) (ok : Bool) (s : State) (f : State → State) : Out :=
  if !s.testMode && decide (c.body.length = 100) && mayIssue op c.auth && decide (c.u 0 1 ≤ 1) && !slotAuth op c then
    .next (cmdDone s c op stAuthority)
  else onCmd op c fmt (ok && decide (c.u 0 1 ≤ 1)) s f

def cmdSlot (c : Cmd) : Bool := c.u 0 1 == 1

def modPlan (s : State) (f : Plan → Plan) : State := { s with plan := f s.plan }

/-! ## Staging (R274, 17 R481, R579) -/

/-- PLAN_STAGE: the bytes that landed, and how the read of host memory ended. -/
def planStage (c : Cmd) (bytes : List Byte) (e : ReadEnd) (s : State) : State :=
  let off := c.u 12 4
  let len := c.u 8 4
  if 2 ^ 28 < off + len then cmdDone s c oPlanStage stRange
  else if !loftUp s then cmdDone s c oPlanStage stUnitState
  else if slotLocked s.plan.slot0 then cmdDone (slotWrite s false off []) c oPlanStage stSlotState
  else
    let s := slotWrite s false off (bytes.take len)
    cmdDone s c oPlanStage (match e with | .done => stOk | .perst => stHostReset | .error => stRange)

def execPlanStage (c : Cmd) (bytes : List Byte) (e : ReadEnd) (s : State) : Out :=
  onCmd oPlanStage c [(0, 8), (8, 4), (12, 4)]
    (c.u 0 8 % 8 == 0 && c.u 8 4 % 8 == 0 && decide (8 ≤ c.u 8 4) && decide (c.u 8 4 ≤ 268435456) && c.u 12 4 % 8 == 0)
    s (planStage c bytes e)

/-- PLAN_WRITE, into slot 1. -/
def planWrite (c : Cmd) (s : State) : State :=
  if 2 ^ 28 < c.u 0 4 + c.u 4 2 then cmdDone s c oPlanWrite stRange
  else if !loftUp s then cmdDone s c oPlanWrite stUnitState
  else if slotLocked s.plan.slot1 then cmdDone (slotWrite s true (c.u 0 4) []) c oPlanWrite stSlotState
  else cmdDone (slotWrite s true (c.u 0 4) (c.data.take (c.u 4 2))) c oPlanWrite stOk

def execPlanWrite (c : Cmd) (s : State) : Out :=
  onCmd oPlanWrite c [(0, 4), (4, 2)]
    (c.u 0 4 % 8 == 0 && c.u 4 2 % 8 == 0 && decide (8 ≤ c.u 4 2) && decide (c.u 4 2 ≤ 3968) && decide (c.data.length = c.u 4 2))
    s (planWrite c)

/-! ## Validation (R274 to R278) -/

def planValidate (c : Cmd) (s : State) : State :=
  let k := cmdSlot c
  if !loftUp s then cmdDone s c oPlanValidate stUnitState
  else if [SlotState.staged, .valid, .invalid, .committed].contains (slotSt s.plan k) then
    modPlan s fun p => { setSlot p k .validating with validating := p.validating ++ [(k, c)] }
  else cmdDone s c oPlanValidate stSlotState

def execPlanValidate (c : Cmd) (s : State) : Out := onSlot oPlanValidate c [(0, 1)] true s (planValidate c)

/-- Entries of a validation and the slot's new state (R276). -/
def planValidated (k : Bool) (s : State) : State :=
  match s.plan.validating.find? fun v => v.1 == k with
  | none => s
  | some (_, c) =>
    let w := imgWord s k
    let errs := validate s k
    let kind := bits (w 3) 31 30
    let unit := k.toNat + (kind % 2) * 2
    let digest := hashBytes w 6
    let n := min errs.length 255
    let first := errs.headD (0, 0, 0)
    let s := modPlan s fun p =>
      { setSlot p k (if errs.isEmpty then .valid else .invalid) with
        validating := p.validating.filter fun v => v.1 != k
        errors := BitVec.ofNat 8 n, errSlot := k
        firstSect := BitVec.ofNat 8 first.1, firstOff := BitVec.ofNat 25 first.2.1, firstErr := BitVec.ofNat 8 first.2.2
        slotInfo := (p.slotInfo.filter fun x => x.1 != k) ++ [(k, kind == 1, digest)] }
    let s := (errs.take 64).foldl (fun s e => tally s { kind := kPlanError, utype := uPlan, unit,
                                                         body := pack 40 [(0, 1, e.1), (1, 1, e.2.2), (4, 4, e.2.1)] }) s
    complete s c { kind := kPlanValidated, utype := uPlan, unit,
                   body := pack 8 [(0, 1, if errs.isEmpty then 0 else 1), (1, 1, n)] ++ digest }

def execPlanValidated (slot : Bool) (s : State) : Out := event s (planValidated slot)

/-! ## Headlands: what they wait for (R279 to R282) -/

def armed (s : State) (h : Nat) : Bool := s.plan.arms.any fun a => a.headland == h

/-- The commit pending for a headland. -/
def commitFor (s : State) (h : Nat) : Option Commit :=
  if s.plan.phase = .apply then none else s.plan.commit.filter fun c => c.headland == h

/-- The headland is quiesced, by an arm or by a FULL commit pending for it (R280). -/
def quiesced (s : State) (h : Nat) : Bool :=
  (s.plan.arms.any fun a => a.headland == h && a.quiesce) || ((commitFor s h).map fun c => !c.delta).getD false

/-- Every collective whose waybill carries HEADLAND_NOW, or an earlier one, has ended here. -/
def collsEnded (s : State) : Bool := s.coll.nodes.all fun n => n.2.bills.all fun b => decide (now s < wbHeadland b.bytes)

/-- The first three conditions of R279 for the next headland. -/
def stepEnded (s : State) : Bool := armed s (now s + 1) && collsEnded s && stepCloseReady s

/-- The record of an octet or port that a plan holds. -/
def recOf (rs : List PlanRec) (sect rtype ix : Nat) : Option PlanRec := rs.find? fun r => r.sect == sect && r.rtype == rtype && r.index == ix

/-- Ports of either plan whose LANES or PORTS record differs. -/
def changedPorts (old new : List PlanRec) : List Nat :=
  let ports := ((old ++ new).filterMap fun r => if r.sect = 2 ∧ r.rtype = 1 then some r.index else none).eraseDups
  ports.filter fun n => recOf old 2 1 n != recOf new 2 1 n || recOf old 1 1 (n / 8) != recOf new 1 1 (n / 8)

/-- Inns of either plan whose INN record differs. -/
def changedInns (old new : List PlanRec) : List Nat :=
  let inns := ((old ++ new).filterMap fun r => if r.sect = 5 ∧ r.rtype = 1 then some r.index else none).eraseDups
  inns.filter fun n => recOf old 5 1 n != recOf new 5 1 n

/-- No queue holds anything for the port and no cell is lodged for it. -/
def portEmpty (s : State) (n : Nat) : Bool :=
  !(s.outq.any fun u => u.port == n || (u.src.map (·.1)) == some n) && !(s.ingress.any fun l => l.port == some n) && (port s n).asm.isEmpty

/-- The eight conditions of R281, in their order. -/
def quiet (s : State) (h : Nat) : List Bool :=
  let bank := ((commitFor s h).map (·.bank)).getD s.plan.cur
  [ s.plots.all fun p => p.2.mode != .running && p.2.xq.isEmpty,
    s.stages.all fun x => !x.2.running,
    s.coll.nodes.all fun n => n.2.bills.isEmpty,
    s.coll.moves.isEmpty,
    s.mem.gates.all (fun g => g.2.near.isEmpty && g.2.run.isEmpty && g.2.parts.isEmpty && g.2.far.isEmpty),
    s.upd.shares.all fun x => !x.2.feedActive,
    (changedPorts s.plan.cur bank).all (portEmpty s),
    (changedInns s.plan.cur bank).all fun i => innHeld s (i / 64) (i % 64) == 0 && !(s.core.rooms.any fun r => 64 * r.die + r.inn == i && !r.leaked) ]

/-- Whether every condition of R279 holds for the next headland. -/
def headlandReady (s : State) : Bool :=
  let h := now s + 1
  stepEnded s && (!quiesced s h || (quiet s h).all id) && !((commitFor s h).isSome && s.plan.phase == .load)

/-- HEADLAND_ARM (R280); VALUE0 is h. -/
def headlandArm (c : Cmd) (s : State) : State :=
  let h := c.u 8 8
  let q := c.u 0 1 == 1
  if h ≤ now s then cmdDone s c oHeadlandArm stStaleHeadland h
  else
    let s := modPlan s fun p =>
      { p with arms := if p.arms.any fun a => a.headland == h then p.arms.map fun a => if a.headland = h then { a with quiesce := a.quiesce || q } else a
                       else p.arms ++ [{ headland := h, quiesce := q }] }
    cmdDone s c oHeadlandArm stOk h

def execHeadlandArm (c : Cmd) (s : State) : Out :=
  onCmd oHeadlandArm c [(0, 1), (8, 8)] (decide (c.u 0 1 ≤ 1)) s (headlandArm c)

/-- QUIESCING: the interval of R282 begins. -/
def quiescing (s : State) : State :=
  if quiesced s (now s + 1) && stepEnded s then modPlan s fun p => { p with quiescing := true } else s

def execQuiescing (s : State) : Out := event s quiescing

/-! ## Commit, cancel and abandonment (R283, R287, R288, R291) -/

/-- The interval of R282 lasts while the next headland is quiesced. -/
def settleQuiesce (s : State) : State := modPlan s fun p => { p with quiescing := p.quiescing && quiesced s (now s + 1) }

/-- The pending commit withdrawn: its inactive banks discarded, its slot in `st`; its mark on the headland goes with it. -/
def withdraw (s : State) (c : Commit) (st : SlotState) : State :=
  settleQuiesce (modPlan s fun p => { setSlot p c.slot st with commit := none, phase := .none, pendHeadland := BitVec.allOnes 64 })

/-- PLAN_COMMIT: the first status that applies, or acceptance. -/
def planCommit (c : Cmd) (s : State) : State :=
  let k := cmdSlot c
  let h := c.u 8 8
  let info : Option (Bool × List Byte) := (s.plan.slotInfo.find? fun x => x.1 == k).map (·.2)
  let delta := imgDelta (imgWord s k)
  let busy : Bool := match s.plan.commit with
    | none => false
    | some p => !(c.auth == Auth.owner && !p.owner && s.plan.phase != Phase.apply)
  if !s.plan.planned && (h != 1 || delta) then cmdDone s c oPlanCommit stFormat
  else if slotSt s.plan k != .valid then cmdDone s c oPlanCommit stSlotState
  else if h ≤ now s then cmdDone s c oPlanCommit stStaleHeadland
  else if busy then cmdDone s c oPlanCommit stPlanBusy
  else if delta && hashBytes (imgWord s k) 14 != s.plan.digest then
    cmdDone (modPlan s fun p => setSlot p k .staged) c oPlanCommit stBadBase
  else
    let s := match s.plan.commit with
      | some p => cmdDone (withdraw s p .valid) p.cmd oPlanCommit stPreempted
      | none => s
    let first := !s.plan.planned
    let one := s.plan.arms.map fun (a : Arm) => if a.headland = 1 then { a with quiesce := true } else a
    modPlan s fun p =>
      { setSlot p k .pending with
        phase := .load, pendHeadland := BitVec.ofNat 64 h
        commit := some { slot := k, delta, headland := h, limitMs := c.u 2 2, owner := c.auth == Auth.owner, cmd := c,
                         digest := (info.map (·.2)).getD [] }
        arms := if !first then p.arms else if armed s 1 then one else p.arms ++ [{ headland := 1, quiesce := true }] }

def execPlanCommit (c : Cmd) (s : State) : Out :=
  onSlot oPlanCommit c [(0, 1), (2, 2), (8, 8)] (decide (1 ≤ c.u 2 2)) s (planCommit c)

/-- Group tables of share records written to their places (R286, R292). -/
def loadGroups (s : State) (rs : List PlanRec) : State :=
  let at_ (r : PlanRec) : Nat := (((setBits 4 (bits (r.fld 0) 14 11)).headD 0) * 2 ^ 36) + bits (r.fld 5) 23 0 * 4096
  rs.foldl (fun s r => if r.sect = 10 ∧ r.rtype = 1 then
    { s with gran := Mem.writes s.gran (at_ r) ((r.tab 0).flatMap fun e => e.flatMap (leBytes 4)) } else s) s

/-- COMMIT_LOAD_END: the inactive banks hold the new plan; a DELTA's group tables are in place. -/
def commitLoadEnd (s : State) : State :=
  match s.plan.commit with
  | none => s
  | some c =>
    if s.plan.phase = .load then
      let w := imgWord s c.slot
      let bank := (candidate s w).map (·.r)
      let s := if c.delta then loadGroups s ((goodRecs w).map (·.r)) else s
      modPlan s fun p => { p with phase := .armed, commit := some { c with bank } }
    else s

def execCommitLoadEnd (s : State) : Out := event s commitLoadEnd

/-- The commit ends: its marks dropped, one PLAN_ABANDONED entry that completes the command (R287). -/
def abandon (s : State) (c : Commit) (st : SlotState) (code : Half) (cond : Nat) : State :=
  let s := withdraw s c st
  let s := settleQuiesce (modPlan s fun p =>
    { p with arms := p.arms.map fun a => if a.headland = c.headland then { a with quiesce := false } else a })
  complete s c.cmd { kind := kPlanAbandoned, utype := uPlan, unit := c.slot.toNat + c.delta.toNat * 2, fault := code,
                     body := pack 40 [(0, 8, c.headland), (8, 1, cond)] }

/-- PLAN_ABANDONED: LIMIT_MS has passed in the interval of R282 without R281 holding. -/
def planAbandoned (s : State) : State :=
  let h := now s + 1
  match commitFor s h with
  | none => s
  | some c =>
    match (enum (quiet s h)).find? fun e => !e.2 with
    | some (i, _) => if s.plan.phase = .armed && s.plan.quiescing then abandon s c .valid 0 (i + 1) else s
    | none => s

def execPlanAbandoned (s : State) : Out := event s planAbandoned

/-- PLAN_LOFT_UE: an uncorrectable error of controller 3 during LOAD. -/
def planLoftUe (s : State) : State :=
  match s.plan.commit with
  | none => s
  | some c =>
    if s.plan.phase = .load then
      let s := raiseCount s fPlanLoftUe uPlan (c.slot.toNat + c.delta.toNat * 2)
      abandon (modPlan s fun p => { p with lastFault := fPlanLoftUe }) c .invalid fPlanLoftUe 0
    else s

def execPlanLoftUe (s : State) : Out := event s planLoftUe

/-- PLAN_CANCEL: before FLIP it withdraws the slot's pending commit; otherwise it changes nothing. -/
def planCancel (c : Cmd) (s : State) : State :=
  match s.plan.commit with
  | some p =>
    if p.slot == cmdSlot c && s.plan.phase != .apply then
      cmdDone (cmdDone (withdraw s p .valid) p.cmd oPlanCommit stCancelled) c oPlanCancel stOk
    else cmdDone s c oPlanCancel stOk
  | none => cmdDone s c oPlanCancel stOk

def execPlanCancel (c : Cmd) (s : State) : Out := onSlot oPlanCancel c [(0, 1)] true s (planCancel c)

/-! ## Step reports (16 R461, R462) -/

/-- A 32-bit difference that stays at all ones. -/
def satDiff (a b : DWord) : Nat := min (a - b).toNat 0xFFFFFFFF

/-- DEV_REFRESH brought up to date: a free value of waits more. -/
def countRefresh (s : State) : State :=
  { s with freeIx := s.freeIx + 1
           audit := { s.audit with refresh := s.audit.refresh + (Config.refreshWaits s.freeIx).setWidth 64 } }

/-- PLAN of a report: H_1 above H_0. -/
def planWord (digest : List Byte) : Nat := leNat ((digest.take 4).reverse) + leNat (((digest.drop 4).take 4).reverse) * 2 ^ 32

/-- The report of the step that ends, and the samples of the next one. -/
def stepReport (s : State) : State :=
  let s := countRefresh s
  let a := s.audit
  let s := if now s = 0 then s else
    tally s { kind := kStepReport, n := a.nStep != 0,
              body := pack 40 [(0, 8, now s), (8, 8, planWord s.plan.digest), (16, 8, (s.clk.timebase - a.stepStart).toNat),
                (24, 4, satDiff a.refresh a.refreshAt), (28, 4, satDiff a.retries a.retriesAt), (32, 2, a.ce.toNat), (34, 2, a.ue.toNat),
                (36, 2, a.nStep.toNat)] }
  { s with audit := { s.audit with refreshAt := a.refresh, retriesAt := a.retries, nStep := 0, ce := 0, ue := 0, stepStart := s.clk.timebase } }

/-! ## The yoke at a step close (18 R514) -/

/-- A YOKE_STEP entry: RESULT 0 CLEAN, 1 MISMATCH, 2 MISSING, 3 EXCLUDED; CLEAN_STEPS moves with it. -/
def yokeStep (s : State) (h result pair : Nat) (mine theirs : DWord) : State :=
  let clean := if result = 0 then satInc s.yoke.cleanSteps else if result = 3 then s.yoke.cleanSteps else 0
  let s := { s with yoke := { s.yoke with cleanSteps := clean, wait := none, report := none } }
  let body := pack 40 [(0, 8, h), (8, 1, result), (10, 2, clean.toNat), (12, 1, pair), (16, 8, mine.toNat), (24, 8, theirs.toNat)]
  if result = 1 ∨ result = 2 then raiseBy s fYokeMismatch uDevice 0 kYokeStep body else tally s { kind := kYokeStep, body }

/-- The waiting step judged against the report for it, when both are there. -/
def yokeJudge (s : State) : State :=
  match s.yoke.wait, s.yoke.report with
  | some (h, excl, mine), some (h', dirty, theirs) =>
    if h = h' then
      let diff := (List.range mine.length).find? fun i => mine.getD i 0 != theirs.getD i 0
      let result := if excl || dirty then 3 else if diff.isSome then 1 else 0
      let i := diff.getD 0
      yokeStep s h result i (mine.getD i 0) (theirs.getD i 0)
    else s
  | _, _ => s

/-- The step that closes, at a partner or a shadow; before the close has changed anything. -/
def yokeClose (s : State) : State :=
  if s.yoke.start ≤ s.plan.headland ∧ 0 < now s then
    let crcs := s.yoke.pairs.map fun q => yokeCrc s q.1
    let dirty := s.audit.nStep != 0
    match s.yoke.role with
    | .none => s
    | .partner =>
      let aborted := (feedIds s).any fun k => (feedSt s k).aborted && s.yoke.pairs.any fun q => q.1 == fdShare s k
      let s := match s.yoke.wait with
        | some (h, _, mine) => yokeStep s h 2 0 (mine.getD 0 0) 0
        | none => s
      yokeJudge { s with yoke := { s.yoke with wait := some (now s, aborted || dirty, crcs) } }
    | .shadow =>
      let seq := mgtSeq s pMgtCmd
      let flags := (if dirty then 1 else 0) + (if s.audit.ue != 0 then 2 else 0)
      let body := pack 16 [(0, 8, now s), (8, 1, flags)] ++ crcs.flatMap (fun c => leBytes 8 c.toNat) ++ List.replicate (84 - 8 * crcs.length) 0
      sendPeer (mgtCount s pMgtCmd) s.yoke.other.toNat seq oYokeReport s.fault.epochMax body
  else s

/-- The lifts that take effect at headland `h`, and the yoke roles they end (R506, R513, R515). -/
def liftAt (s : State) : State :=
  let h := now s
  let due (d : Nat) : Bool := HEntry.due (devEntry s d) h
  let ends := s.yoke.role != .none && (due s.yoke.other.toNat || due s.plan.deviceId.toNat)
  let s := liftAll s
  if ends then { s with yoke := {} } else s

/-! ## The flip (R284, R285, R290) -/

/-- Sections held in two banks on each die (R285). -/
def banked (sect : Nat) : Bool := [3, 4, 6, 7, 8, 10, 12].contains sect

/-- CURRENT_DIGEST after a commit. -/
def newDigest (p : Plan) (c : Commit) : List Byte := if c.delta then sha256 (p.digest ++ c.digest) else c.digest

/-- Port fields whose PORTS record or local record the commit changes: their RPT and their sources' state are
cleared (14 R402, R411). -/
def clearFields (s : State) (old new : List PlanRec) : State :=
  let cells := ((old ++ new).filterMap fun r => if r.sect = 3 ∧ r.rtype = 2 ∨ r.sect = 2 ∧ r.rtype = 1 then some r.index else none).eraseDups
  let gone (f : Nat) : Bool := cells.contains f && (recOf old 3 2 f != recOf new 3 2 f || recOf old 2 1 f != recOf new 2 1 f)
  { s with mem := { s.mem with
      rpt := s.mem.rpt.filter fun e => !gone (e.1 / 4096), rptBad := s.mem.rptBad.filter fun e => !gone (e / 4096)
      src := s.mem.src.filter fun e => !gone (e.1 / 2 ^ 24) } }

/-- Counters that count from the last plan commit, the transfer counts of 11 R332 among them. -/
def clearCounts (s : State) : State :=
  { s with
    route := { s.route with die := [] }, core := { s.core with die := [] }, glean := { s.glean with lost := 0 }
    sched := { s.sched with ptr := [] }
    mem := { s.mem with cnt := [], hotFull := 0, runsLost := 0 }
    coll := { s.coll with moveSeq := [], moves := s.coll.moves.filter fun m => !m.refused }
    cellar := { s.cellar with chunks := 0, dropped := 0, leaks := 0, sealedOut := 0, digestsOut := 0 }
    plots := s.plots.foldl (fun t e => Tab.set {} t e.1 { e.2 with ceCount := 0, scLate := [] }) []
    stages := s.stages.foldl (fun t e => Tab.set {} t e.1 { e.2 with ceCount := 0, jobs := 0, due := [], resync := false }) [] }

/-- A share's state when a commit defines it: torn until it is cleared; the bank kept while its record stays. -/
def sharesAt (s : State) (old : List PlanRec) (mine : Nat → Bool) : Tab ShareSt :=
  s.upd.shares.foldl (fun t e =>
    if mine e.1 then
      Tab.set {} t e.1 (if shareDefined s e.1 then
        { torn := e.2.torn, lastFault := e.2.lastFault, bank := e.2.bank && (recOf old 10 1 e.1).map (·.fields) == (planRec s 10 1 e.1).map (·.fields) }
        else {})
    else Tab.set {} t e.1 e.2) []

/-- What every flip does: the new banks, digest, counters, shared counters (07 R209), slots with VALID DELTA images
back to STAGED (R278), entries of unreadable signposts rewritten (11 R339). -/
def flip (s : State) (c : Commit) : State :=
  let old := s.plan.cur
  let cur := if c.delta then c.bank
    else ((old.filter fun r => !banked r.sect) ++ c.bank.filter fun r => banked r.sect).mergeSort fun a b => decide (a.key ≤ b.key)
  let touched (d : Nat) : Bool := recOf old 3 1 d != recOf c.bank 3 1 d
  let stale (k : Bool) (st : SlotState) : SlotState :=
    if st == .valid && (((s.plan.slotInfo.find? fun x => x.1 == k).map fun x => x.2.1).getD false) then .staged else st
  let s := clearCounts s
  let s := modPlan s fun p =>
    { setSlot p c.slot (if c.delta then .committed else .applying) with
      cur, digest := newDigest p c, quiescing := false
      phase := if c.delta then .none else .apply, commit := if c.delta then none else some c }
  let s := modPlan s fun p => { p with slot0 := stale false p.slot0, slot1 := stale true p.slot1 }
  let s := { s with sc := [], route := { s.route with
    bad := s.route.bad.filter fun d => c.delta && !touched d, badLocal := if c.delta then s.route.badLocal else [] } }
  if c.delta then
    let defined (sh : Nat) : Bool := recOf old 10 1 sh != recOf c.bank 10 1 sh
    { s with upd := { s.upd with shares := sharesAt s old defined } }
  else
    let s := modPlan s fun p => { p with planned := true, deviceId := BitVec.ofNat 14 (imgDevice (imgWord s c.slot)) }
    let s := collRestart s c.headland
    let s := clearFields s old c.bank
    { s with
      upd := { s.upd with shares := sharesAt s old fun _ => true }
      stages := s.stages.foldl (fun t e => Tab.set {} t e.1 { fenced := e.2.fenced, lastFault := e.2.lastFault, out := e.2.out }) []
      audit := { s.audit with pregs := [] }, route := { s.route with escLost := [] } }

/-- The end of a commit: PLAN_COMMITTED, its slot and PENDING_HEADLAND. -/
def committed (s : State) (c : Commit) : State :=
  let s := modPlan s fun p =>
    { setSlot p c.slot .committed with commits := p.commits + 1, pendHeadland := BitVec.allOnes 64, phase := .none, commit := none }
  complete s c.cmd { kind := kPlanCommitted, utype := uPlan, unit := c.slot.toNat + c.delta.toNat * 2,
                     body := pack 8 [(0, 8, c.headland)] ++ s.plan.digest }

/-- HEADLAND_PASS: step close, report, headland, flip, lifts (R279). -/
def headlandPass (s₀ : State) : State :=
  let s := s₀
  if !headlandReady s then s
  else
    let h := now s + 1
    let c := commitFor s h
    let s := stepReport (stepClose (now s) (yokeClose s))
    let s := modPlan s fun p =>
      { p with headland := BitVec.ofNat 64 h, quiescing := false, arms := p.arms.filter fun a => decide (h < a.headland) }
    let s := match c with
      | some k => if k.delta then committed (flip s k) k else flip s k
      | none => s
    afterHedge s₀ (liftAt s)

def execHeadlandPass (s : State) : Out := event s headlandPass

/-! ## APPLY (R286) -/

/-- A plot zeroised (15 R450): nothing of an earlier program is left in it, in a running operation or a transfer either (R21). -/
def zeroise (x : Plot) : Plot :=
  { x with scratch := [], taint := [], bank0 := {}, bank1 := {}, tq := [], xregs := [], keys := [], digs := [], shadow := []
           ops := [], xq := [], streams := [] }

/-- What a plot keeps when its domain goes off or comes on: the registers that lie outside it (05 R176, R573, 06 R200, 07 R238). -/
def Plot.unpowered (x : Plot) : Plot :=
  { ceCount := x.ceCount, lastFault := x.lastFault, aflags := x.aflags, hflags := x.hflags, hLastFault := x.hLastFault
    ctr := x.ctr, flags := x.flags, pc := x.pc, nmark := x.nmark, faultPc := x.faultPc, seqFault := x.seqFault
    cycles := if x.mode = .running then BitVec.ofNat 64 x.cyc else x.cycles, waitCycles := x.waitCycles, ctrlBad := x.ctrlBad }

/-- A domain switched on or off as the new plan asks (19 R534, R537). -/
def applyDomain (s : State) (d : Nat) : State :=
  let want := domPlanned s d
  let x := domain s d
  if x.st == .fallow then modDom s d fun x => { x with planned := want }
  else if want then modDom s d fun x => { st := .on, planned := true, transitions := if x.st == .on then x.transitions else satInc x.transitions }
  else modDom s d fun x => { x with st := .off, planned := false }

/-- Domains whose state APPLY changes. -/
def switched (s : State) : List Nat := (List.range 64).filter fun d =>
  (domain s d).st != .fallow && domPlanned s d != domOn s d

/-- Contents lost by a domain that was switched (R534). -/
def domainLost (s : State) (d : Nat) : State :=
  if d < 56 then
    let die := d / 28
    let i := d % 28
    if i < 16 then modPlot s (16 * die + i) Plot.unpowered
    else if i = 24 then { s with stages := s.stages.filter fun e => stageDie e.1 != die }
    else if i = 25 && !domOn s d then eraseKeys s
    else s
  else s

/-- The unit that an image word configures is fenced when the word fails as APPLY reads it (R286): one fault, DETAIL0 the section,
DETAIL1 the offset. An inn has no UTYPE: its fault is the device's. -/
def applyFault (k : Bool) (s : State) (iw : Nat) : State :=
  let w := imgWord s k
  let i := ((List.range (imgCount w)).filter fun i => decide (w (25 + 2 * i) ≤ iw)).length
  let sect := bits (w (24 + 2 * (i - 1))) 31 24
  let off := iw - w (25 + 2 * (i - 1))
  let covers (x : ImgRec) : Bool := x.r.sect == sect &&
    ((decide (x.pos ≤ off) && decide (off ≤ x.pos + bodyWords x.r.sect x.r.rtype)) ||
      (enum x.r.tables).any fun t => decide (x.tpos t.1 ≤ off) && decide (off < x.tpos t.1 + (t.2.map (·.length)).foldl (· + ·) 0))
  let report (s : State) (ut : BitVec 4) (n : Nat) : State :=
    modPlan (raiseAt s fPlanApplyFault ut n sect off) fun p => { p with lastFault := fPlanApplyFault }
  let plot (s : State) (p : Nat) : State := report (modPlot s p fun x => { x with ctrlBad := true }) uPlot p
  let fence (s : State) (die inn : Nat) : State :=
    report { s with core := { s.core with fencedInns := (s.core.fencedInns.filter (· != 64 * die + inn)) ++ [64 * die + inn] } } uDevice 0
  if i = 0 then s
  else match (goodRecs w).find? covers with
  | none => report s uDevice 0
  | some x =>
    let u := x.r.index
    match sect, x.r.rtype with
    | 9, _ => plot s u
    | 11, 3 => plot s (u / 64)
    | 2, 1 => report (modPort s u fun p => { p with st := .fenced }) uPort u
    | 1, _ =>
      report ((List.range 8).foldl (fun s j => if (portRec s (8 * u + j)).isSome then modPort s (8 * u + j) fun p => { p with st := .fenced } else s) s)
        uPort (8 * u)
    | 10, _ => report (modShare s (if x.r.rtype = 2 then fdShare s u else u) fun x => { x with lost := true, lastFault := fPlanApplyFault })
        uUpdate (if x.r.rtype = 2 then fdShare s u else u)
    | 5, 1 => fence s (u / 64) (u % 64)
    | 5, 2 => fence s (reqDie s (u / 8)) (x.f 0)
    | _, _ => report s uDevice 0

/-- APPLY of a FULL commit, in the order of R286. -/
def applyPlan (s : State) (c : Commit) : State :=
  let old := s.plan.cur
  let oldCellar := (List.range 32).filter (isCellar s)
  let oldRegions := (planRecs s 11 4).map fun r => (r.fld 0, r.fld 1 * 2 ^ 21)
  let ports := changedPorts old c.bank
  -- what a plot's operations still had to do is done long before APPLY writes it
  let s := (List.range 32).foldl (fun s p => awaitOps p s) s
  let s := modPlan s fun p => { p with cur := c.bank }
  -- 1: ports
  let s := ports.foldl (fun s n => modPort s n fun _ => if (portRec s n).isSome then startTraining {} else {}) s
  let s := { s with mac := s.mac.filter fun e => !ports.contains e.port, mem := { s.mem with gates := s.mem.gates.filter fun g => !ports.contains g.1 } }
  -- 2: inns
  let inns := changedInns old c.bank
  let s := { s with core := { s.core with fencedInns := [], rooms := s.core.rooms.filter fun r => !(r.leaked && inns.contains (64 * r.die + r.inn)) } }
  -- 3: power
  let moved := switched s
  let s := (List.range 64).foldl applyDomain s
  let s := moved.foldl domainLost s
  let set (i : Nat) : Nat := ((planRec s 13 2 0).map (·.fld i)).getD 0
  let s := { s with clk := { s.clk with mode := BitVec.ofNat 2 (set 0), tclkDiv := BitVec.ofNat 2 (set 1), coolSamples := 0 } }
  -- 4: the Cellar's plots and removed regions
  let s := (List.range 32).foldl (fun s p => if oldCellar.contains p != isCellar s p then modPlot s p zeroise else s) s
  let gone := oldRegions.filter fun a => !(regionAreas s).contains a
  let s := gone.foldl (fun s a => { s with gran := Mem.zero s.gran a.1 a.2
                                           granTaint := s.granTaint.filter fun t => !rangeMeets (128 * t.1) 128 a.1 a.2 }) s
  -- 5: plots; a PLOTS record written clears the harrow's X and key registers (06, Masks, index lists)
  let s := { s with plots := s.plots.foldl (fun t e =>
    let x := { e.2 with mode := .idle, binds := [], bindsArmed := false, ctrlBad := false, sentBills := [], snap := none, halted := false }
    Tab.set {} t e.1 (if (planRec s 9 1 e.1).isSome then { x with xregs := [], keys := [] } else x)) [] }
  -- 6: group tables
  loadGroups s c.bank

/-- PLAN_COMMITTED: APPLY ends; `bad` lists the image words that failed their check as APPLY read them. -/
def planCommitted (bad : List Nat) (s : State) : State :=
  match s.plan.commit with
  | none => s
  | some c =>
    if s.plan.phase = .apply then committed (bad.foldl (applyFault c.slot) (applyPlan s c)) c else s

def execPlanCommitted (bad : List Nat) (s : State) : Out := event s (planCommitted bad)

end Sys2Proof.Machine
end

