-- ==== Sys2Proof/Machine/Recover.lean ====
section
/-!
DEFINITION. Recovery commands (18 R510 to R516): links, hedges, readmission, the yoke, self-test, and granary controllers
that fail and return (18 R501, 19 R538, R544).
-/

namespace Sys2Proof.Machine
open Sys2Proof

/-! ## PORT_RETRAIN (10 R317) -/

def retrain (c : Cmd) (s : State) : State :=
  let n := c.u 0 2
  recovery oPortRetrain c uPort n (objKey 7 n) n s fun s => if (port s n).st == .fenced then modPort s n startTraining else s

def execPortRetrain (c : Cmd) (s : State) : Out := onCmd oPortRetrain c [(0, 2)] (decide (c.u 0 2 < 1024)) s (retrain c)

/-! ## Targets (Table 18-6, R510) -/

def tgtKind (t : Nat) : Nat := bits t 31 30

/-- A TARGET of a kind the command takes, with no reserved bit and no device 16,383. -/
def targetOk (kinds : List Nat) (t : Nat) : Bool :=
  kinds.contains (tgtKind t) &&
    match tgtKind t with
    | 0 => bits t 29 24 == 0 && bits t 9 0 == 0 && bits t 23 10 != 16383
    | 1 => bits t 29 24 == 0 && bits t 23 10 != 16383
    | _ => bits t 29 10 == 0

/-- The hedge set's entry of a target. -/
def targetEntry (s : State) (t : Nat) : HEntry :=
  match tgtKind t with
  | 0 => devEntry s (bits t 23 10)
  | 1 => epEntry s (bits t 23 0)
  | _ => locEntry s (bits t 9 0)

/-- A link target names the start of a FABRIC or COACH port of the plan. -/
def linkOk (s : State) (t : Nat) : Bool := tgtKind t != 2 || isFabric s (bits t 9 0)

/-- A target's new state: a link's stays local, the others are sent as a notice (R507). -/
def setTarget (s : State) (t : Nat) (st : HState) (epoch : Word) (headland : Nat) (op : Half) (body : List Byte) : State :=
  if tgtKind t = 2 then afterHedge s (setLocal s (bits t 9 0) st epoch headland op.toNat body)
  else applyNotice s none true t st epoch headland op.toNat s.plan.deviceId.toNat body

/-! ## HEDGE_ADD and ADMIT_OPEN (R506, R509, Table 18-7) -/

def hedgeAdd (c : Cmd) (s : State) : State :=
  let t := c.u 0 4
  if !linkOk s t then cmdDone s c oHedgeAdd stUnitState
  else if serialAbove (targetEntry s t).epoch c.epoch then recoveryDone s c oHedgeAdd uDevice 0 stStaleEpoch t
  else recoveryDone (setTarget s t .hedged c.epoch 0 oHedgeAdd c.body) c oHedgeAdd uDevice 0 stOk t

def execHedgeAdd (c : Cmd) (s : State) : Out := onCmd oHedgeAdd c [(0, 4)] (targetOk [0, 1, 2] (c.u 0 4)) s (hedgeAdd c)

/-- ADMIT_OPEN: only at a higher epoch. A repeat finds its own entry and changes nothing. -/
def admitOpen (c : Cmd) (s : State) : State :=
  let t := c.u 0 4
  let e := targetEntry s t
  if e.st == .opened && e.epoch == c.epoch && e.body == c.body then recoveryDone s c oAdmitOpen uDevice 0 stOk t
  else if serialAbove c.epoch e.epoch then
    recoveryDone (setTarget s t .opened c.epoch 0 oAdmitOpen c.body) c oAdmitOpen uDevice 0 stOk t
  else recoveryDone s c oAdmitOpen uDevice 0 stStaleEpoch t

def execAdmitOpen (c : Cmd) (s : State) : Out := onCmd oAdmitOpen c [(0, 4)] (targetOk [0] (c.u 0 4)) s (admitOpen c)

/-! ## ADMIT (R515) -/

/-- Domains that hold the units a SELF_TEST bit names (Table 18-7, 19 Table 19-2); the bridge has none. -/
def testDomains (u : Nat) : List Nat :=
  [0, 28].flatMap fun b =>
    match u with
    | 0 => (List.range 16).map (b + ·)
    | 1 => (List.range 4).map (b + 20 + ·)
    | 2 => [b + 24]
    | 3 => [b + 26, b + 27]
    | 4 => (List.range 4).map (b + 16 + ·)
    | 5 => [b + 25]
    | _ => []

/-- Units the committed plan uses: those of a domain that it powers, and the bridge. -/
def usedUnits (s : State) : List Nat := (List.range 7).filter fun u => u == 6 || (testDomains u).any (domPlanned s)

/-- The conditions of a path beyond headland and rank. -/
def admitHolds (s : State) (c : Cmd) (t path : Nat) : Bool :=
  let e := targetEntry s t
  let open_ := tgtKind t == 0 && e.st == .opened && e.epoch == c.epoch
  if path = 0 then
    open_ && s.yoke.role == .partner && s.yoke.other.toNat == bits t 23 10 && decide (s.yoke.k ≤ s.yoke.cleanSteps)
  else if path = 1 then
    open_ && bits t 23 10 == s.plan.deviceId.toNat && s.selfTest.done && (usedUnits s).all fun u => !bit s.selfTest.failed.toNat u
  else if tgtKind t = 1 then bits t 23 10 == s.plan.deviceId.toNat && (port s (bits t 9 0)).st == .up
  else tgtKind t == 2 && linkOk s t && (port s (bits t 9 0)).st == .up

def admitCmd (c : Cmd) (s : State) : State :=
  let t := c.u 0 4
  let e := targetEntry s t
  let byAdmit := e.st == .lifted && !e.body.isEmpty
  if c.u 8 8 ≤ now s then cmdDone s c oAdmit stStaleHeadland
  else if serialAbove e.epoch c.epoch then recoveryDone s c oAdmit uDevice 0 stStaleEpoch t
  else if e.epoch == c.epoch && e.st == .hedged then recoveryDone s c oAdmit uDevice 0 stOutranked t
  else if e.epoch == c.epoch && byAdmit then
    recoveryDone s c oAdmit uDevice 0 (if e.body = c.body then stOk else stConflict) t
  else if !admitHolds s c t (c.u 4 1) then cmdDone s c oAdmit stUnitState
  else recoveryDone (setTarget s t .lifted c.epoch (c.u 8 8) oAdmit c.body) c oAdmit uDevice 0 stOk t

/-- An ADMIT command whose PATH is `path`. -/
def onAdmit (path : Nat) (c : Cmd) (s : State) : Out :=
  onCmd oAdmit c [(0, 4), (4, 1), (8, 8)] (targetOk [0, 1, 2] (c.u 0 4) && c.u 4 1 == path) s (admitCmd c)

def execAdmitNative (c : Cmd) (s : State) : Out := onAdmit 0 c s
def execAdmitCompatibility (c : Cmd) (s : State) : Out := onAdmit 1 c s
def execAdmitDirect (c : Cmd) (s : State) : Out := onAdmit 2 c s

/-! ## YOKE (R513, R514) -/

/-- PAIRS of a YOKE body: unused pairs are 0xFFFF. -/
def yokePairs (c : Cmd) : List (Nat × Nat) :=
  ((List.range 8).map fun i => (c.u (16 + 2 * i) 1, c.u (17 + 2 * i) 1)).filter fun q => q != (255, 255)

/-- The role taken; START must lie ahead. -/
def yokeRole (role : Role) (c : Cmd) (s : State) : State :=
  let other := c.u 2 2
  let done (s : State) (st : Nat) : State := recoveryDone s c oYoke uDevice 0 st (devTarget other)
  match rank s (Tab.get {} s.recov (objKey 9 0)) c with
  | .same => done s stOk
  | .refusedWith st => done s st
  | .applied =>
    if role != .none && decide (c.u 8 8 ≤ now s) then cmdDone s c oYoke stStaleHeadland
    else
      let y : Yoke := if role = .none then {} else
        { role, other := BitVec.ofNat 14 other, k := BitVec.ofNat 16 (c.u 4 2), start := BitVec.ofNat 64 (c.u 8 8), pairs := yokePairs c }
      done { keep s (objKey 9 0) c with yoke := y } stOk

/-- A YOKE command whose ROLE is `code`. -/
def onYoke (code : Nat) (role : Role) (c : Cmd) (s : State) : Out :=
  onCmd oYoke c [(0, 1), (2, 2), (4, 2), (8, 8), (16, 16)]
    (c.u 0 1 == code && decide (c.u 2 2 < 16383) && (code == 0 || decide (1 ≤ c.u 4 2))) s (yokeRole role c)

def execYokePartner (c : Cmd) (s : State) : Out := onYoke 1 .partner c s
def execYokeShadow (c : Cmd) (s : State) : Out := onYoke 2 .shadow c s
def execYokeEnd (c : Cmd) (s : State) : Out := onYoke 0 .none c s

/-- YOKE_REPORT of the shadow, judged when the step it reports has closed here. -/
def yokeReport (c : Cmd) (s : State) : State :=
  if s.yoke.role = .partner ∧ devOf c.src = s.yoke.other.toNat then
    let crcs := (List.range 8).map fun i => BitVec.ofNat 64 (c.u (16 + 8 * i) 8)
    let s := yokeJudge { seeEpoch s c.epoch with yoke := { s.yoke with report := some (c.u 0 8, decide (c.u 8 1 ≠ 0), crcs) } }
    recoveryDone s c oYokeReport uDevice 0 stOk (devTarget (devOf c.src))
  else cmdDone s c oYokeReport stUnitState

def execYokeReport (c : Cmd) (s : State) : Out :=
  onCmd oYokeReport c [(0, 8), (8, 1), (16, 64)] (decide (c.u 8 1 < 4)) s (yokeReport c)

/-! ## SELF_TEST (R516, 19 R538) -/

/-- Domains a test powers: those of its units, fallow plots left out. -/
def testedDomains (s : State) (c : Cmd) : List Nat :=
  ((List.range 7).filter fun u => bit (c.u 0 4) u).flatMap fun u => (testDomains u).filter fun d => (domain s d).st != .fallow

/-- The test begins: its domains are in TEST. -/
def testStart (c : Cmd) (s : State) : State :=
  (testedDomains s c).foldl (fun s d =>
    modDom s d fun x => { x with st := .test, transitions := if x.st = .on then x.transitions else satInc x.transitions }) s

/-- SELF_TEST. It runs again when it is repeated; one that comes while another runs waits for it. -/
def selfTest (c : Cmd) (s : State) : State :=
  let go (s : State) : State :=
    let s' := { s with selfTest := { s.selfTest with running := s.selfTest.running ++ [c] } }
    if s.selfTest.running.isEmpty then testStart c s' else s'
  if s.plan.planned then cmdDone s c oSelfTest stUnitState
  else
    match rank s (Tab.get {} s.recov (objKey 8 0)) c with
    | .applied => go (keep s (objKey 8 0) c)
    | .same => go s
    | .refusedWith st => cmdDone s c oSelfTest st

def execSelfTest (c : Cmd) (s : State) : Out := onCmd oSelfTest c [(0, 4)] (decide (c.u 0 4 < 128)) s (selfTest c)

/-- A tested domain left: the granary's stay ON, every other goes OFF; every store of it holds zeros. -/
def testEnd (s : State) (d : Nat) : State :=
  let s := modDom s d fun x => { x with st := if 26 ≤ d % 28 then .on else .off }
  if 26 ≤ d % 28 then
    let a := (2 * (d / 28) + (d % 28 - 26)) * 2 ^ 36
    { s with gran := Mem.zero s.gran a (2 ^ 36), granTaint := s.granTaint.filter fun t => !rangeMeets (128 * t.1) 128 a (2 ^ 36) }
  else domainLost s d

/-- SELFTEST_DONE; `failed` names the units that failed. -/
def selfTestDone (failed : BitVec 7) (s : State) : State :=
  match s.selfTest.running with
  | [] => s
  | c :: rest =>
    let units := BitVec.ofNat 7 (c.u 0 4)
    let bad := failed &&& units
    let s := (testedDomains s c).foldl testEnd s
    let s := { s with freeIx := s.freeIx + 1, selfTest := { running := rest, done := true, failed := bad, tested := units } }
    let detail := (Config.selfTestDetail (s.freeIx - 1)).toNat
    let s := if bad = 0 then s else raiseCount s fSelftestFail uDevice 0
    let s := complete s c { kind := kSelftestDone, fault := if bad = 0 then 0 else fSelftestFail,
                            body := pack 40 [(0, 4, units.toNat), (4, 4, bad.toNat), (8, 8, detail)] }
    match rest with
    | n :: _ => testStart n s
    | [] => s

def execSelftestDone (failed : BitVec 7) (s : State) : Out := event s (selfTestDone failed)

/-! ## Granary controllers (R501, R510, 04 R140, 08 R251, 09 R272, 14 R411) -/

def modGran (s : State) (k : Nat) (f : GranCtl → GranCtl) : State := { s with granCtl := Tab.upd {} s.granCtl k f }

/-- The shares with a block in a stack are lost until a commit redefines them. -/
def losesShares (s : State) (k : Nat) : State :=
  ((planRecs s 10 1).map (·.index)).foldl (fun s sh =>
    if (shStacks s sh).contains k then abortUnfinished (modShare s sh fun x => { x with granLost := true }) sh else s) s

/-- Controller 2: the per-source state of every target port field. -/
def losesSources (s : State) : State :=
  let fields := ((planRecs s 3 2).filter fun r => 1 ≤ bits (r.fld 0) 31 28 ∧ bits (r.fld 0) 31 28 ≤ 3).map (·.index)
  fields.foldl (fun s f => raise s fMemStateLost uField f) { s with mem := { s.mem with stateLost := true, src := [] } }

/-- Controller 3: the plan loft. A validation and a commit before its flip end with it. -/
def losesLoft (s : State) : State :=
  let s := planLoftUe s
  let s := match s.plan.commit with
    | some c => if s.plan.phase = Phase.armed then cmdDone (withdraw s c .empty) c.cmd oPlanCommit stUnitState else s
    | none => s
  let s := s.plan.validating.foldl (fun (s : State) (v : Bool × Cmd) => cmdDone s v.2 oPlanValidate stUnitState) s
  modPlan s fun p => { p with slot0 := .empty, slot1 := .empty, validating := [], slotInfo := [] }

/-- GRANARY_FAIL: the controller is fenced. -/
def granaryFail (k : Nat) (s : State) : State :=
  if (Tab.get {} s.granCtl k).fenced then s
  else
    let s := modGran (raise s fGranaryFail uGranary k) k fun g => { g with fenced := true }
    let s := stageOnFence (losesShares s k) k
    if k = 2 then losesSources s else if k = 3 then losesLoft s else s

def execGranaryFail (k : Fin 4) (s : State) : Out := event s (granaryFail k.val)

/-- GRANARY_READY: every stack is trained and holds zeros (19 R544). -/
def granaryReady (s : State) : State :=
  if s.clk.readyGranary then s
  else { s with gran := [], granTaint := [], clk := { s.clk with readyGranary := true } }

def execGranaryReady (s : State) : Out := event s granaryReady

def granaryReadmit (c : Cmd) (s : State) : State :=
  let k := c.u 0 1
  match rank s (Tab.get {} s.recov (objKey 10 k)) c with
  | .same => recoveryDone s c oGranaryReadmit uGranary k stOk k
  | .refusedWith st => recoveryDone s c oGranaryReadmit uGranary k st k
  | .applied =>
    if (Tab.get {} s.granCtl k).fenced then modGran (keep s (objKey 10 k) c) k fun g => { g with readmit := g.readmit ++ [c] }
    else cmdDone s c oGranaryReadmit stUnitState

def execGranaryReadmit (c : Cmd) (s : State) : Out := onCmd oGranaryReadmit c [(0, 1)] (decide (c.u 0 1 < 4)) s (granaryReadmit c)

/-- GRANARY_READMIT_DONE: the stack holds zeros, and the fence is gone. -/
def granaryReadmitDone (k : Nat) (s : State) : State :=
  match (Tab.get {} s.granCtl k).readmit with
  | [] => s
  | c :: rest =>
    let s := modGran s k fun g => { g with fenced := false, readmit := rest }
    let s := modDom s (28 * (k / 2) + 26 + k % 2) fun x => { x with transitions := satInc x.transitions }
    let s := { s with
      gran := Mem.zero s.gran (k * 2 ^ 36) (2 ^ 36)
      granTaint := s.granTaint.filter fun t => !rangeMeets (128 * t.1) 128 (k * 2 ^ 36) (2 ^ 36)
      mem := if k = 2 then { s.mem with stateLost := false } else s.mem }
    recoveryDone s c oGranaryReadmit uGranary k stOk k

def execGranaryReadmitDone (k : Fin 4) (s : State) : Out := event s (granaryReadmitDone k.val)

/-- STACK_CASE_TEMPERATURE: the refresh rate of a stack doubles above 85 degrees (20 R568). -/
def execStackCaseTemperature (k : Fin 4) (hot : Bool) (s : State) : Out :=
  event s fun s => modGran s k.val fun g => { g with doubled := hot }

end Sys2Proof.Machine
end

