-- ==== Sys2Proof/Machine/Regs.lean ====
section
/-!
DEFINITION. The BAR0 register map (17 R472 to R476 and the tables of every chapter): what each register reads, what a
write does to it by its access code (00 R12 to R14), and the Steward's register and tally commands.
-/

namespace Sys2Proof.Machine
open Sys2Proof

/-- A value placed at bit `lo` of a register. -/
def at_ (lo v : Nat) : Nat := v * 2 ^ lo

/-- A Boolean field. -/
def fb (lo : Nat) (b : Bool) : Nat := if b then 2 ^ lo else 0

/-- Half `hi` of a 64-bit value. -/
def half (v : Nat) (hi : Bool) : Nat := if hi then v / 2 ^ 32 % 2 ^ 32 else v % 2 ^ 32

/-- A CW register: the value below its complement. -/
def cwHalf (v : Nat) (hi : Bool) : Nat := if hi then 2 ^ 32 - 1 - v % 2 ^ 32 else v % 2 ^ 32

/-- Word `k` of 32 hash bytes: H_k, most significant byte first (09 R290, 16 Table 16-7). -/
def hashWord (h : List Byte) (k : Nat) : Nat := leNat (slice h (4 * k) 4).reverse

/-! ## Blocks read -/

/-- Identity (00 Tables 0-2, 0-3). -/
def rdIdentity (s : State) (o : Nat) : Nat :=
  match o with
  | 0 => at_ 16 0x1024 + at_ 8 0xB0 + at_ 6 s.part.grade.toNat + (setBits 32 s.part.plotPresent.toNat).length
  | 4 => s.part.plotPresent.toNat
  | _ => 0

/-- Host (17 Tables 17-3 to 17-6). -/
def rdHost (s : State) (o : Nat) : Nat :=
  let h := s.host
  match o with
  | 0x00 => h.doorbell.toNat
  | 0x04 => cwHalf h.doorbell.toNat true
  | 0x08 => h.tallySeen.toNat
  | 0x0C => cwHalf h.tallySeen.toNat true
  | 0x10 => h.accepted.toNat
  | 0x14 => h.completed.toNat
  | 0x18 => h.next.toNat
  | 0x1C => h.oldest.toNat
  | 0x20 => fb 0 h.overrun
  | 0x24 => h.pend.length + at_ 16 h.gen.toNat
  | 0x28 => at_ 4 h.tallyLog2.toNat + h.ledgerLog2.toNat
  | 0x2C => cwHalf (at_ 4 h.tallyLog2.toNat + h.ledgerLog2.toNat) true
  | 0x30 => at_ 16 h.timeUs.toNat + h.thresh.toNat
  | 0x34 => h.intMask.toNat
  | 0x38 => h.intStatus.toNat
  | 0x3C => h.rejects.toNat
  | 0x40 => h.preempts.toNat
  | 0x44 => h.bads.toNat
  | 0x48 => h.resets.toNat
  | 0x4C => h.authLast.toNat
  | 0x50 => fb 31 s.stew.linkUp + fb 30 s.stew.fec
  | 0x54 => s.stew.sseq.toNat
  | _ => 0

def SlotState.code : SlotState → Nat
  | .empty => 0 | .staged => 1 | .validating => 2 | .valid => 3 | .invalid => 4 | .pending => 5 | .applying => 6 | .committed => 7

def Phase.code : Phase → Nat
  | .none => 0 | .load => 1 | .armed => 2 | .apply => 3

/-- Plan (09 Tables 9-9, 9-10). -/
def rdPlan (s : State) (o : Nat) : Nat :=
  let p := s.plan
  match o with
  | 0x00 => at_ 29 (SlotState.code p.slot1) + at_ 26 (SlotState.code p.slot0) + fb 25 p.planned + fb 24 p.quiescing +
      at_ 16 p.errors.toNat + fb 15 p.errSlot + at_ 12 (Phase.code p.phase)
  | 0x04 => at_ 24 p.firstSect.toNat + at_ 16 p.firstErr.toNat
  | 0x08 => p.firstOff.toNat
  | 0x0C => p.lastFault.toNat
  | 0x10 => half p.headland.toNat false
  | 0x14 => half p.headland.toNat true
  | 0x18 => half p.pendHeadland.toNat false
  | 0x1C => half p.pendHeadland.toNat true
  | 0x40 => p.commits.toNat
  | 0x44 => p.lockedWrites.toNat
  | _ => if 0x20 ≤ o ∧ o < 0x40 then hashWord p.digest ((o - 0x20) / 4) else 0

def DomState.code : DomState → Nat
  | .off => 0 | .powering => 1 | .on => 2 | .fallow => 3 | .test => 4

/-- A SETTINGS field of the POWER section (19 Table 19-3). -/
def powerSet (s : State) (i : Nat) : Nat := ((planRec s 13 2 0).map (·.fld i)).getD 0

/-- A signed value in 24 bits, saturating (19 Table 19-9). -/
def sat24 (x : Int) : Nat := (BitVec.ofInt 24 (max (-8388608) (min 8388607 x))).toNat

/-- TB_CTL (19 Table 19-11). -/
def tbCtlVal (c : Clk) : Nat :=
  fb 31 c.tbMaster + fb 30 c.tickOutEn + fb 29 c.allowStep + fb 28 c.armed + c.tickDelay.toNat

/-- Clock and power (19 Tables 19-9 to 19-13). -/
def rdClock (s : State) (o : Nat) : Nat :=
  let c := s.clk
  match o with
  | 0x00 => fb 31 c.pllLock + fb 30 c.hotW + fb 29 c.hotE + at_ 24 c.tclkDiv.toNat + at_ 22 c.mode.toNat
  | 0x08 => half c.timebase.toNat false
  | 0x0C => half c.timebase.toNat true
  | 0x10 => half c.tbNext.toNat false
  | 0x14 => half c.tbNext.toNat true
  | 0x18 => tbCtlVal c
  | 0x1C => cwHalf (tbCtlVal c) true
  | 0x20 => c.tbPeriod.toNat
  | 0x24 => fb 31 c.locked + fb 30 c.tickLost + fb 29 c.armed + fb 28 (c.slew != 0) + sat24 c.lastErr
  | 0x28 => c.ticks.toNat
  | 0x30 => at_ 30 (powerSet s 0) + at_ 28 (powerSet s 1) + at_ 26 (powerSet s 2) + powerSet s 3
  | 0x34 => c.throttle.toNat
  | 0x38 => c.pkgPower.toNat
  | 0x3C => at_ 24 c.tempW.toNat + at_ 16 c.tempE.toNat + at_ 8 c.tempH.toNat
  | 0x40 => fb 31 c.powerOn + fb 30 c.coldPin + fb 29 c.warm + fb 28 c.wasFatal + c.warmCount.toNat
  | 0x44 => fb 31 c.bootBank + c.fwVersion.toNat
  | 0x48 => fb 3 c.readySteward + fb 2 c.readyGranary + fb 1 c.readyReeves + fb 0 c.readyAlmanac
  | _ =>
    if 0x100 ≤ o ∧ o < 0x200 then
      let d := domain s ((o - 0x100) / 4)
      at_ 29 (DomState.code d.st) + fb 28 d.planned + d.transitions.toNat
    else 0

/-- Audit (16 Table 16-7). -/
def rdAudit (s : State) (o : Nat) : Nat :=
  let a := s.audit
  match o with
  | 0x00 => half a.refresh.toNat false
  | 0x04 => half a.refresh.toNat true
  | 0x08 => half a.retries.toNat false
  | 0x0C => half a.retries.toNat true
  | 0x10 => a.nStep.toNat
  | 0x14 => a.nAll.toNat
  | 0x18 =>
    let run := a.provQ.filter (provRuns s)
    fb 31 (!run.isEmpty) + at_ 16 (a.provQ.length - run.length) + a.provFault.toNat
  | _ =>
    if 0x100 ≤ o ∧ o < 0x2100 then hashWord (preg s ((o - 0x100) / 32)).1 ((o - 0x100) % 32 / 4)
    else if 0x2100 ≤ o ∧ o < 0x2500 then fb 0 (preg s ((o - 0x2100) / 4)).2
    else 0

/-- Cellar (15 Tables 15-8, 15-9). -/
def rdCellar (s : State) (o : Nat) : Nat :=
  let c := s.cellar
  match o with
  | 0x00 => c.chunks.toNat
  | 0x04 => c.dropped.toNat
  | 0x08 => c.leaks.toNat
  | 0x0C => c.sealedOut.toNat
  | 0x10 => c.digestsOut.toNat
  | _ =>
    if 0x1000 ≤ o ∧ o < 0x3000 then
      let k := keySlot s ((o - 0x1000) / 8)
      if o % 8 = 0 then fb 31 k.loaded + at_ 27 k.use.toNat + fb 26 k.wrapped else k.label.toNat
    else 0

def Role.code : Role → Nat
  | .none => 0 | .partner => 1 | .shadow => 2

/-- The device's entry is HEDGED or acts as OPEN. -/
def devHeld (s : State) (d : Nat) : Bool := (devEntry s d).st == .hedged || HEntry.isOpen (devEntry s d)

/-- Bit map of 32 entries of which `f` tells. -/
def map32 (k : Nat) (f : Nat → Bool) : Nat := ((List.range 32).map fun i => fb i (f (32 * k + i))).foldl (· + ·) 0

/-- FAULT_SUMMARY (18 Table 18-9). -/
def summary (b : FaultBlk) : Nat :=
  fb 31 b.fatal + fb 30 b.fenced + fb 29 b.contained + fb 28 b.corrected + b.fatalCode.toNat

/-- Fault (18 Tables 18-8, 18-9). -/
def rdFault (s : State) (o : Nat) : Nat :=
  let b := s.fault
  match o with
  | 0x00 => summary b
  | 0x10 => b.cntCorrected.toNat
  | 0x14 => b.cntContained.toNat
  | 0x18 => b.cntFenced.toNat
  | 0x1C => b.cntFatal.toNat
  | 0x20 => at_ 16 b.lastType.toNat + b.lastCode.toNat
  | 0x24 => b.lastUnit.toNat
  | 0x30 => b.epochMax.toNat
  | 0x34 => (hsetCrc s).toNat
  | 0x38 => at_ 16 s.hedge.ep.length + (s.hedge.dev.filter fun e => devHeld s e.1).length
  | 0x3C => s.hedge.overflow.toNat
  | 0x40 => at_ 30 (Role.code s.yoke.role) + at_ 16 s.yoke.other.toNat + s.yoke.cleanSteps.toNat
  | 0x44 => s.yoke.k.toNat
  | 0x48 => fb 31 (!s.selfTest.running.isEmpty) + fb 30 s.selfTest.done + at_ 8 s.selfTest.failed.toNat + s.selfTest.tested.toNat
  | 0x4C => fb 31 (!s.dossier.busy.isEmpty) + fb 30 s.dossier.valid + s.dossier.size.toNat
  | _ =>
    if 0x400 ≤ o ∧ o < 0x480 then map32 ((o - 0x400) / 4) (portHedged s)
    else if 0x480 ≤ o ∧ o < 0x500 then map32 ((o - 0x480) / 4) fun n => ((peerDevice s n).map (devOpen s)).getD false
    else if 0x1000 ≤ o ∧ o < 0x2000 then (Tab.get 0 b.portFault ((o - 0x1000) / 4)).toNat
    else if 0x2000 ≤ o ∧ o < 0x2800 then map32 ((o - 0x2000) / 4) (devHeld s)
    else 0

/-- UPD_SHARE_STATUS (04 Table 4-5). -/
def rdUpdate (s : State) (o : Nat) : Nat :=
  if 0x100 ≤ o ∧ o < 0x500 then
    let sh := (o - 0x100) / 4
    let x := shareSt s sh
    let pending := shareDefined s sh && shRule s sh == 2 && (List.range (shGroups s sh)).any fun g => gFlag (groupRec s sh g) 1
    fb 31 x.torn + fb 30 (shareDefined s sh && (x.torn || (shareLost s sh).isSome)) + fb 29 x.feedActive + fb 28 x.bank + fb 27 pending +
      fb 26 (shareDefined s sh) + x.lastFault.toNat
  else 0

/-- A STORE_REL entry that is PENDING (14 R414, R420): held here, or forwarded to an endpoint. -/
def relPending (s : State) (e : Replay) : Bool :=
  e.answer.isNone && (e.held.isSome || s.mem.fwd.any fun f =>
    f.field == e.field && f.group.any fun p => p.op == pStoreRel && rqOrigin p == e.origin && p.seq == e.seq)

/-- Memory (14 Tables 14-11, 14-12). -/
def rdMem (s : State) (o : Nat) : Nat :=
  if o < 0x10000 then
    let f := o / 0x40
    let c := Tab.get {} s.mem.cnt f
    match o % 0x40 with
    | 0x00 => (tracked s f).length
    | 0x04 => (s.mem.replay.filter fun e => e.field == f).length
    | 0x08 => (s.mem.replay.filter fun e => e.field == f && relPending s e).length
    | 0x0C => c.denied.toNat
    | 0x10 => c.poison.toNat
    | 0x14 => c.unknown.toNat
    | 0x18 => c.range.toNat
    | 0x1C => c.retries.toNat
    | 0x20 => c.late.toNat
    | 0x24 => c.hits.toNat
    | 0x28 => c.busy.toNat
    | 0x2C => (s.mem.quench.filter fun q => q.field == f).length
    | _ => 0
  else
    match o with
    | 0x10000 => s.mem.loadTo.toNat
    | 0x10004 => at_ 16 (s.mem.hot.filter fun h => h.die == 1).length + (s.mem.hot.filter fun h => h.die == 0).length
    | 0x10008 => s.mem.hotFull.toNat
    | 0x1000C => s.mem.runsLost.toNat
    | 0x10010 => fb 0 s.mem.stateLost
    | _ => 0

/-- STATE of a plot (05 Table 5-10). -/
def plotStateCode (s : State) (p : Nat) : Nat :=
  if fallow s p then 0 else match (plot s p).mode with
    | .idle => 1 | .running => 2 | .aborted => 3

/-- A plot block (05 Table 5-10, 06 Table 6-4, 07 Tables 7-11 to 7-14). -/
def rdPlot (s : State) (p o : Nat) : Nat :=
  let x := plot s p
  let held := match currentWord s p with
    | some w => if x.snap.isNone && !canIssue s p w then some w else none
    | none => none
  let cycles := if x.mode = .running then x.cyc else x.cycles.toNat
  match o with
  | 0x00 => plotCtl s p
  | 0x40 => at_ 30 (plotStateCode s p) + fb 29 (bankBusy x true) + fb 28 (bankBusy x false) + at_ 24 x.tq.length +
      at_ 16 x.ceCount.toNat + x.lastFault.toNat
  | 0x44 => fb 31 (!harrowFree x) + fb 30 (bound s p) + at_ 16 x.hflags.toNat + x.hLastFault.toNat
  | 0x48 => fb 31 held.isSome + fb 30 x.nmark +
      at_ 24 ((held.map fun w => if wWkind w = 1 ∧ !waitHolds s p w then bits w 699 694 else 0).getD 0) + x.pc.toNat
  | 0x4C => at_ 16 x.faultPc.toNat + x.seqFault.toNat
  | 0x50 => half cycles false
  | 0x54 => half cycles true
  | 0x58 => half x.waitCycles.toNat false
  | 0x5C => half x.waitCycles.toNat true
  | 0x60 => map32 0 (flagAt x (x.flags ||| x.came))
  | 0x64 => map32 1 (flagAt x (x.flags ||| x.came))
  | 0x68 => x.aflags.toNat
  | _ =>
    if 0x80 ≤ o ∧ o < 0xC0 then (Tab.get 0 x.ctr ((o - 0x80) / 4)).toNat
    else if 0xC0 ≤ o ∧ o < 0x100 then (sharedCtr s.sc p ((o - 0xC0) / 4)).toNat
    else 0

/-- Stages (08 Table 8-7); a stage whose domain is off reads 0 (17 R475). -/
def rdStage (s : State) (o : Nat) : Nat :=
  let n := o / 16
  if 24 ≤ n ∨ domOn s (28 * stageDie n + 24) = false then 0
  else
    let x := stage s n
    let code := if !stageOn s n then 0 else if x.fenced then 3 else if x.running then 2 else 1
    match o % 16 with
    | 0 => at_ 30 code + fb 29 (x.running && x.spill) + at_ 24 (x.pass % 32) + at_ 16 x.ceCount.toNat + x.lastFault.toNat
    | 4 => x.jobs.toNat
    | 8 => half x.out.toNat false
    | _ => half x.out.toNat true

/-- Routing of a die (11 Table 11-9). -/
def rdRoute (s : State) (k o : Nat) : Nat :=
  let r := Tab.get {} s.route.die k
  match o with
  | 0x00 => r.hdr.toNat
  | 0x04 => r.disc.toNat
  | 0x08 => r.mgt.toNat
  | 0x0C => half r.escapes.toNat false
  | 0x10 => half r.escapes.toNat true
  | 0x14 => (s.route.escLost.filter fun n => dieOf n == k).length
  | _ => 0

/-- Core of a die (12 Tables 12-8, 12-9). -/
def rdCore (s : State) (k o : Nat) : Nat :=
  let c := Tab.get {} s.core.die k
  match o with
  | 0x00 => c.refused.toNat
  | 0x04 => c.badRelease.toNat
  | 0x08 => ((s.core.rooms.filter fun r => r.leaked && r.die == k).map fun r => roomCells r.size).foldl (· + ·) 0
  | 0x0C => c.truncated.toNat
  | 0x10 => c.cellCe.toNat
  | 0x14 => c.cellUe.toNat
  | 0x20 => s.glean.head.toNat
  | 0x24 => s.glean.tail.toNat
  | 0x28 => s.glean.lost.toNat
  | _ =>
    if 0x100 ≤ o ∧ o < 0x200 then
      let i := (o - 0x100) / 4
      if (innRec s k i).isSome then at_ 30 (innLevel s k i) + fb 29 true + innShared s k i else 0
    else if 0x200 ≤ o ∧ o < 0x300 then
      if (innRec s k ((o - 0x200) / 4)).isSome then innHeld s k ((o - 0x200) / 4) else 0
    else 0

def PortSt.code : PortSt → Nat
  | .unused => 0 | .training => 1 | .init => 2 | .up => 3 | .down => 4 | .fenced => 5

/-- A port block (10 Tables 10-13, 10-14, 13 Tables 13-3, 13-4); a port of an unpowered chiplet reads 0 (17 R475). -/
def rdPort (s : State) (n o : Nat) : Nat :=
  if domOn s (56 + n / 128) = false then 0
  else
    let p := port s n
    match o with
    | 0x00 => at_ 29 (PortSt.code p.st) + at_ 25 (activeLanes s n) + at_ 21 (portWidth s n) + at_ 19 (personality s n) +
        fb 18 p.peerEndpoint + fb 17 p.restriping + at_ 8 p.lost.toNat
    | 0x04 => (p.peer.map (·.toNat)).getD 0xFFFFFF
    | 0x08 => half p.retries.toNat false
    | 0x0C => half p.retries.toNat true
    | 0x10 => half p.fecCorr.toNat false
    | 0x14 => half p.fecCorr.toNat true
    | 0x18 => p.fecUncorr.toNat
    | 0x1C => p.edgeDrops.toNat
    | 0x20 => p.edgeRefused.toNat
    | 0x24 => s.macFull.toNat
    | 0x80 => p.demoted.toNat
    | 0x84 => p.yellow.toNat
    | 0x88 => p.red.toNat
    | 0x8C => let q := pShaper s n; fb 31 q.shaped + fb 30 (q.shaped && decide (q.t < 0))
    | _ =>
      if 0x40 ≤ o ∧ o < 0x80 then
        let k := (o - 0x40) / 4
        let q := qSt s n k
        fb 31 q.shaped + fb 30 (q.shaped && q.rate == 0) + fb 29 (q.shaped && decide (q.t < 0)) + fb 28 (queueReady s n k) +
          (if 4 ≤ k && (portRec s n).isSome then QState.w q else 0)
      else 0

/-! ## The map (17 Table 17-2) -/

/-- One 32-bit register, at an offset that is a multiple of 4; reserved offsets read 0 (00 R13). -/
def readReg (s : State) (off : Nat) : Nat :=
  if off < 0x1000 then rdIdentity s off
  else if off < 0x2000 then rdHost s (off - 0x1000)
  else if off < 0x3000 then rdPlan s (off - 0x2000)
  else if off < 0x4000 then rdClock s (off - 0x3000)
  else if off < 0x8000 then rdAudit s (off - 0x4000)
  else if off < 0xC000 then rdCellar s (off - 0x8000)
  else if off < 0x10000 then rdFault s (off - 0xC000)
  else if off < 0x20000 then rdUpdate s (off - 0x10000)
  else if off < 0x40000 then rdMem s (off - 0x20000)
  else if off < 0x60000 then rdPlot s ((off - 0x40000) / 0x1000) ((off - 0x40000) % 0x1000)
  else if off < 0x61000 then rdStage s (off - 0x60000)
  else if off < 0x63000 then rdRoute s ((off - 0x61000) / 0x1000) ((off - 0x61000) % 0x1000)
  else if off < 0x65000 then rdCore s ((off - 0x63000) / 0x1000) ((off - 0x63000) % 0x1000)
  else if 0x100000 ≤ off ∧ off < 0x140000 then rdPort s ((off - 0x100000) / 0x100) ((off - 0x100000) % 0x100)
  else 0

/-- An access of `width` bytes: 4 or 8, aligned; any other reads 0 (R473). -/
def readAccess (s : State) (off width : Nat) : Nat :=
  if width = 4 ∧ off % 4 = 0 then readReg s off
  else if width = 8 ∧ off % 8 = 0 then readReg s off + 2 ^ 32 * readReg s (off + 4)
  else 0

/-! ## Writes (00 R12 to R14, 17 R473, R488) -/

def modClk (s : State) (f : Clk → Clk) : State := { s with clk := f s.clk }

/-- TB_CTL written (19 R532, Table 19-11); the master has no edge to arm for. -/
def wrTbCtl (s : State) (w : RegW) : State × Wr :=
  settleWrite 0x3018 w <|
    if !cwOk w then (s, .badComplement)
    else
      let v := (loW w).toNat
      (modClk s fun c => { c with
        tbMaster := bit v 31, tickOutEn := bit v 30, allowStep := bit v 29, armed := bit v 28 && !bit v 31
        tickDelay := BitVec.ofNat 16 v }, .done)

/-- Offsets of the CW registers' lower halves. -/
def isCw (base : Nat) : Bool := base == 0x1000 || base == 0x1008 || base == 0x1028 || base == 0x3018

/-- A write to a CW register. -/
def writeCw (s : State) (base : Nat) (w : RegW) : State × Wr :=
  if base = 0x1000 then wrDoorbell s w
  else if base = 0x1008 then wrTallySeen s w
  else if base = 0x1028 then wrRingCfg s w
  else wrTbCtl s w

/-- A write to a 32-bit register by its access code; RO and reserved ones ignore it. -/
def write32 (s : State) (off v : Nat) (stew : Bool) : State :=
  let w : RegW := { stew, width := 4, val := BitVec.ofNat 64 (v % 2 ^ 32) }
  match off with
  | 0x1020 => (wrTallyStatus s w).1
  | 0x1030 => (wrIntCtl s w).1
  | 0x1034 => (wrIntMask s w).1
  | 0x1038 => (wrIntStatus s w).1
  | 0x3010 => modClk s fun c => { c with tbNext := BitVec.ofNat 64 (c.tbNext.toNat / 2 ^ 32 * 2 ^ 32 + v % 2 ^ 32) }
  | 0x3014 => modClk s fun c => { c with tbNext := BitVec.ofNat 64 (c.tbNext.toNat % 2 ^ 32 + v % 2 ^ 32 * 2 ^ 32) }
  | 0x3020 => if 100 ≤ v % 2 ^ 20 ∧ v % 2 ^ 20 ≤ 1000000 then modClk s fun c => { c with tbPeriod := BitVec.ofNat 20 v } else s
  | 0x4014 => { s with audit := { s.audit with nAll := s.audit.nAll &&& ~~~BitVec.ofNat 16 v } }
  | 0xC000 => { s with fault := { s.fault with
      fenced := s.fault.fenced && !bit v 30, contained := s.fault.contained && !bit v 29, corrected := s.fault.corrected && !bit v 28 } }
  | 0x30000 => (wrMemCtl s w).1
  | 0x63024 => (wrGleanTail s w).1
  | 0x64024 => (wrGleanTail s w).1
  | _ => s

/-- A write to BAR0; an access of another size or alignment writes nothing (R473). -/
def writeReg (s : State) (off : Nat) (w : RegW) : State × Wr :=
  if !((w.width == 4 || w.width == 8) && off % w.width == 0) then (s, .done)
  else
    let base := off / 8 * 8
    if isCw base then writeCw s base { w with hi := off != base }
    else if w.width = 8 then (write32 (write32 s off (half w.val.toNat false) w.stew) (off + 4) (half w.val.toNat true) w.stew, .done)
    else (write32 s off w.val.toNat w.stew, .done)

def execRegisterWrite (off : BitVec 32) (w : RegW) (s : State) : Out := always s fun s => (writeReg s off.toNat w).1

def execTbCtl (w : RegW) (s : State) : Out := always s fun s => (wrTbCtl s w).1

/-! ## REG_READ, REG_WRITE, TALLY_READ (17 R481, R488, R492) -/

/-- WIDTH is 4 or 8, OFFSET is aligned to it and lies in BAR0. -/
def regFormat (c : Cmd) : Bool :=
  (c.u 4 1 == 4 || c.u 4 1 == 8) && c.u 0 4 % c.u 4 1 == 0 && decide (c.u 0 4 + c.u 4 1 ≤ 2 ^ 21)

/-- DEV_REFRESH counts up to the read (16 R461). -/
def regRead (c : Cmd) (s : State) : State :=
  let s := if c.u 0 4 / 8 = 0x800 then countRefresh s else s
  cmdDone s c oRegRead stOk (readAccess s (c.u 0 4) (c.u 4 1))

def execRegRead (c : Cmd) (s : State) : Out := onCmd oRegRead c [(0, 4), (4, 1)] (regFormat c) s (regRead c)

/-- A host write to the register the Steward writes in the same cycle: discarded, counted and reported (R488). -/
def preempt (s : State) (off : Nat) (v : DWord) : State :=
  let s := { s with host := { s.host with preempts := satInc s.host.preempts } }
  tally s { kind := kRegPreempted, utype := uHost, body := pack 40 [(0, 4, off), (8, 8, v.toNat)] }

/-- Status of a REG_WRITE (R488). -/
def wrStatus : Wr → Nat
  | .done => stOk
  | .badComplement => stComplement
  | .badValue => stFormat

/-- REG_WRITE; `clash` is the value of a host write to the same register in the same SCLK cycle. -/
def regWrite (c : Cmd) (clash : Option DWord) (s : State) : State :=
  let s := match clash with
    | some v => preempt s (c.u 0 4) v
    | none => s
  let r := writeReg s (c.u 0 4) { stew := true, width := c.u 4 1, val := BitVec.ofNat 64 (c.u 8 8) }
  cmdDone r.1 c oRegWrite (wrStatus r.2)

def execRegWrite (c : Cmd) (clash : Option DWord) (s : State) : Out :=
  onCmd oRegWrite c [(0, 4), (4, 1), (8, 8)] (regFormat c) s (regWrite c clash)

/-- TALLY_READ: the entries the ring holds from FROM onwards, at most COUNT. -/
def tallyRead (c : Cmd) (s : State) : State :=
  let fro := BitVec.ofNat 32 (c.u 0 4)
  if serialAbove s.host.oldest fro then cmdDone s c oTallyRead stSlotState
  else
    let es := (s.host.tally.drop (fro - s.host.oldest).toNat).take (c.u 4 1)
    cmdDone s c oTallyRead stOk 0 0 (es.flatMap Tally.bytes)

def execTallyRead (c : Cmd) (s : State) : Out :=
  onCmd oTallyRead c [(0, 4), (4, 1)] (decide (1 ≤ c.u 4 1) && decide (c.u 4 1 ≤ 60)) s (tallyRead c)

end Sys2Proof.Machine
end

