-- ==== Sys2Proof/Machine/Mgt.lean ====
section
/-!
DEFINITION. Management frames from the Steward and from device peers (17 R489 to R492, 18 R510), and the commands only the
Steward may give: firmware, warm reset, test entry, dossiers (17 R579, 18 R521, R523, 19 R546).
-/

namespace Sys2Proof.Machine
open Sys2Proof

/-! ## Firmware and warm reset -/

/-- FW_UPDATE: a chunk into the bank that is not booting; with LAST the image is verified, `sigOk` its verdict. -/
def fwUpdate (c : Cmd) (sigOk : Bool) (s : State) : State :=
  let last := c.u 6 1 == 1
  if 2 ^ 24 < c.u 0 4 + c.u 4 2 then cmdDone s c oFwUpdate stRange
  else
    let put (m : Mem) : Mem := Mem.writes m (c.u 0 4) c.data
    let f := if s.fw.boot then { s.fw with bank0 := put s.fw.bank0 } else { s.fw with bank1 := put s.fw.bank1 }
    cmdDone { s with fw := { f with marked := last && sigOk } } c oFwUpdate (if last && !sigOk then stFormat else stOk)

def execFwUpdate (c : Cmd) (sigOk : Bool) (s : State) : Out :=
  onCmd oFwUpdate c [(0, 4), (4, 2), (6, 1)]
    (c.u 0 4 % 256 == 0 && c.u 4 2 % 256 == 0 && decide (256 ≤ c.u 4 2) && decide (c.u 4 2 ≤ 3840) && decide (c.u 6 1 < 2) &&
      decide (c.data.length = c.u 4 2)) s (fwUpdate c sigOk)

/-- WARM_RESET: it completes, and the reset begins after it; an FW_UPDATE write is over when its command is. -/
def warmCmd (c : Cmd) (s : State) : State :=
  if !s.dossier.busy.isEmpty then cmdDone s c oWarmReset stUnitState
  else cmdDone { s with pins := { s.pins with warmPending := true } } c oWarmReset stOk

def execWarmReset (c : Cmd) (s : State) : Out := onCmd oWarmReset c [] true s (warmCmd c)

/-! ## Test entry (18 R521) -/

/-- TEST_ENTRY: every key slot erased, then a test mode, which the manual leaves out, its completion with it. -/
def execTestEntry (c : Cmd) (s : State) : Out := onCmd oTestEntry c [] true s fun s => { eraseKeys s with testMode := true }

/-! ## Dossiers (18 R523) -/

def dossierFields : List (Nat × Nat) := [(0, 1), (4, 4), (8, 2)]

/-- CAPTURE begins; one that comes during another follows it. -/
def execDossierCapture (c : Cmd) (s : State) : Out :=
  onCmd oDossier c dossierFields (c.u 0 1 == 0) s fun s => { s with dossier := { s.dossier with busy := s.dossier.busy ++ [c] } }

/-- Bytes of capture `n`, whose layout the spec does not give: free values. -/
def dossierBytes (n off len : Nat) : List Byte := (List.range len).map fun i => Config.dossierByte n (off + i)

/-- DOSSIER_DONE: the flash holds the new dossier. -/
def dossierDone (s : State) : State :=
  match s.dossier.busy with
  | [] => s
  | c :: rest =>
    let n := s.dossier.capture + 1
    let len := min (Config.dossierLen n).toNat (2 ^ 24)
    complete { s with dossier := { busy := rest, valid := true, size := BitVec.ofNat 25 len, capture := n } } c
      { kind := kDossierDone, body := pack 8 [(0, 4, len)] ++ sha256 (dossierBytes n 0 len) }

def execDossierDone (s : State) : Out := always s dossierDone

/-- READ: bytes from OFFSET, fewer past the end. -/
def dossierRead (c : Cmd) (s : State) : State :=
  let held := if s.dossier.valid then s.dossier.size.toNat else 0
  cmdDone s c oDossier stOk 0 0 (dossierBytes s.dossier.capture (c.u 4 4) (min (c.u 8 2) (held - c.u 4 4)))

def execDossierRead (c : Cmd) (s : State) : Out :=
  onCmd oDossier c dossierFields (c.u 0 1 == 1 && decide (1 ≤ c.u 8 2) && decide (c.u 8 2 ≤ 3840)) s (dossierRead c)

/-! ## Frames -/

/-- A command by its opcode (17 Table 17-9, 18 Table 18-7). -/
def runOp (op : Half) (c : Cmd) (sigOk : Bool) (s : State) : Out :=
  match op.toNat with
  | 0x01 => execNop c s
  | 0x10 => execPlanStage c [] .done s
  | 0x11 => execPlanWrite c s
  | 0x12 => execPlanValidate c s
  | 0x13 => execPlanCommit c s
  | 0x14 => execPlanCancel c s
  | 0x15 => execHeadlandArm c s
  | 0x20 => execPlotStart c .ok s
  | 0x21 => execPlotStop c s
  | 0x30 => execUpdGroupWrite c s
  | 0x40 => execRptWrite c s
  | 0x41 => execRptRead c s
  | 0x42 => execMemRequest c s
  | 0x50 => execCoachPut c s
  | 0x51 => execCoachGet c s
  | 0x60 => execProvHash c s
  | 0x70 => execFurrowReset c s
  | 0x71 => execShareClearTorn c s
  | 0x72 => execStageReset c s
  | 0x73 => execPortRetrain c s
  | 0x74 => execSourceReset c s
  | 0x75 => execHedgeAdd c s
  | 0x76 => execAdmitOpen c s
  | 0x77 => if c.u 0 1 = 1 then execYokePartner c s else if c.u 0 1 = 2 then execYokeShadow c s else execYokeEnd c s
  | 0x78 => if c.u 4 1 = 0 then execAdmitNative c s else if c.u 4 1 = 1 then execAdmitCompatibility c s else execAdmitDirect c s
  | 0x79 => execSelfTest c s
  | 0x7A => execGranaryReadmit c s
  | 0x7D => execYokeReport c s
  | 0x80 => if klWrapped c then execKeyLoadWrapped c s else execKeyLoadClear c s
  | 0x81 => execKeyErase c s
  | 0x82 => execKeyEraseAll c s
  | 0x90 => execRegRead c s
  | 0x91 => execRegWrite c none s
  | 0x92 => execTallyRead c s
  | 0xA0 => execFwUpdate c sigOk s
  | 0xA1 => execWarmReset c s
  | 0xA2 => execTestEntry c s
  | 0xA3 => if c.u 0 1 = 1 then execDossierRead c s else execDossierCapture c s
  | _ => .next (cmdDone s c op stFormat)

/-- An entry executed: opcode, authority, then its head's reserved bits (17 R480, R489). -/
def runEntry (c : Cmd) (e : List Byte) (sigOk : Bool) (s : State) : Out :=
  let op := entryOp e
  if opKnown op && mayIssue op c.auth && entryReserved e then .next (cmdDone s c op stFormat) else runOp op c sigOk s

/-- The header checks of R330 and the addresses of R491 for a Steward frame of at most 4,150 bytes. -/
def stewFrameOk (s : State) (p : Pkt) : Bool :=
  s.stew.linkUp && p.op == pMgtCmd && p.vl == 0 && p.dstN == ~~~p.dst && p.seqN == ~~~p.seq && p.hcrc == p.crc &&
    p.src == 0xFFFFFF && (!s.plan.planned || p.dst == ownAddr s) && decide (p.payload.length ≤ 4100) && decide (128 ≤ p.payload.length)

/-- MGT_CMD from the Steward: executed once for each SSEQ, or answered from the kept completions (R492). -/
def mgtSteward (mac : BitVec 48) (p : Pkt) (sigOk : Bool) (s : State) : Out :=
  let e := p.payload.take 128
  let c := entryCmd .owner 0 e (p.payload.drop 128)
  if !stewFrameOk s p || (entryFault e).isSome then .next s
  else
    match s.stew.kept.find? fun r => r.seq == c.seq with
    | some r => .next { s with stew := { s.stew with out := s.stew.out ++ [{ r with mac }] } }
    | none =>
      if s.stew.running.any fun r => r.1 == c.seq then .next s
      else
        let st := { s.stew with sseq := c.seq, lastMac := some mac, running := s.stew.running ++ [(c.seq, mac)] }
        runEntry c e sigOk { s with stew := st }

/-- MGT_CMD from a device peer: HSEQ holds the header's SEQ (18 R510). -/
def mgtPeer (n : Nat) (p : Pkt) (s : State) : Out :=
  let s := take s p
  let e := p.payload.take 128
  if !(devicePorts s).contains n || decide (p.payload.length < 128) || (entryFault e).isSome || leAt e 0 4 != p.seq.toNat then .next s
  else runEntry (entryCmd .peer p.src e []) e false s

def execMgtCmd (stew : Bool) (port : BitVec 10) (mac : BitVec 48) (p : Pkt) (sigOk : Bool) (s : State) : Out :=
  if s.testMode then .refused .testMode
  else if p.payload.length ≠ 4 * p.len.toNat then .fault .illFormed
  else if stew then mgtSteward mac p sigOk s
  else if s.fault.fatal then .next s
  else mgtPeer port.toNat p s

/-- MGT_RESP: the FURROW_RESET it answers is resent no more (18 R510). -/
def mgtResp (n : Nat) (p : Pkt) (s : State) : State :=
  let s := take s p
  if (devicePorts s).contains n then
    { s with coll := { s.coll with resets := s.coll.resets.filter fun r => !(r.c.seq == p.seq && r.device == devOf p.src) } }
  else s

def execMgtResp (port : BitVec 10) (p : Pkt) (s : State) : Out := onPkt p s (mgtResp port.toNat p)

end Sys2Proof.Machine
end

