-- ==== Sys2Proof/Machine/Power.lean ====
section
/-!
DEFINITION. The Almanac, resets, power and FATAL faults (19, 17 R493, R494, 18 R502, 20 R541, R556).
-/

namespace Sys2Proof.Machine
open Sys2Proof

/-! ## The clock tick (19 R526, R529, R532) -/

/-- One CCLK edge: 2.5 ns of root PLL time; an error that is slewed moves the timebase 1 ns in each 64. -/
def cclk (c : Clk) : Clk :=
  if !c.pllLock then c
  else
    let f := c.rootFrac + 25
    let ns := f / 10
    let phase := c.slewPhase + ns
    let turn := decide (64 ≤ phase) && c.slew != 0
    let d : Int := if !turn then 0 else if 0 < c.slew then 1 else -1
    { c with
      rootFrac := f % 10, timebase := c.timebase + BitVec.ofNat 64 (ns + d).toNat, slew := c.slew - d
      slewPhase := if c.slew = 0 then 0 else if 64 ≤ phase then phase - 64 else phase }

/-- What an idle step does: the next CCLK edge (log 1). -/
def tick (s : State) : State := { s with clk := cclk s.clk }

/-! ## Ticks between devices (R531, R532) -/

/-- A TICK_IN edge at a device that is not the master. -/
def tickIn (c : Clk) : Clk :=
  let c := { c with ticks := c.ticks + 1, tickLost := false, tickOuts := if c.tickOutEn then c.tickOuts + 1 else c.tickOuts }
  if !c.armed then c
  else
    let err : Int := ((c.tbNext.toNat + c.tickDelay.toNat : Nat) : Int) - (c.timebase.toNat : Int)
    let near := decide (-100 ≤ err) && decide (err ≤ 100)
    let n := if near then c.goodEdges + 1 else 0
    let jump := decide (1000 < err) && c.allowStep
    { c with
      tbNext := c.tbNext + BitVec.ofNat 64 (c.tbPeriod.toNat * 1000), lastErr := err, goodEdges := n
      locked := near && (c.locked || decide (2 ≤ n))
      timebase := if jump then c.timebase + BitVec.ofNat 64 err.toNat else c.timebase
      slew := if jump then 0 else err, slewPhase := 0 }

/-- TICK_IN; the master ignores it, and so does a device held in cold reset (Table 19-8). -/
def execTickIn (s : State) : Out := always s fun s => if s.clk.tbMaster || !s.pins.coldResetN then s else modClk s tickIn

/-- TICK_OUT: the master's timebase passes a multiple of the period. -/
def execTickOut (s : State) : Out :=
  always s fun s => if s.clk.tbMaster && s.clk.tickOutEn then modClk s fun c => { c with tickOuts := c.tickOuts + 1 } else s

/-- TICK_LOST: 1.5 periods without an edge; what is left of an error is still slewed. -/
def execTickLost (s : State) : Out := always s fun s => if s.clk.tbMaster then s else modClk s fun c => { c with tickLost := true }

/-! ## FATAL faults (18 R502) -/

/-- THERMTRIP switches every switched domain off (19 R547), and its contents are lost (R534). -/
def domainsOff (s : State) : State :=
  let s := (List.range 64).foldl (fun s d =>
    if (domain s d).st = .fallow then s else domainLost (modDom s d fun x => { x with st := .off }) d) s
  { s with gran := [], granTaint := [] }

/-- THERMTRIP: the pin is driven under every reset; the fault is raised once the device is out of cold reset. -/
def thermtrip (s : State) : State :=
  if s.pins.thermtrip && s.fault.fatal then s
  else
    let s := { s with pins := { s.pins with thermtrip := true } }
    if s.pins.coldResetN then domainsOff (raise s fThermtrip uDevice 0) else s

def execThermtrip (s : State) : Out := always s thermtrip

/-- PWRGD_LOST: a PWRGD input low for 2 microseconds with COLD_RESET_N released (20 R556). -/
def execPwrgdLost (s : State) : Out := always s fun s => if s.pins.coldResetN then raise s fPwrgdLost uDevice 0 else s

/-- PLL_UNLOCK: a clock that was locked loses lock. -/
def execPllUnlock (s : State) : Out :=
  always s fun s => if s.clk.pllLock then raise (modClk s fun c => { c with pllLock := false }) fPllUnlock uDevice 0 else s

/-- BRIDGE_DOWN: 16 resends of one transfer failed (18 Table 18-3). -/
def execBridgeDown (s : State) : Out := event s fun s => raise s fBridgeDown uDevice 0

/-- REEVE_HALT, DETAIL0 the die. -/
def reeveHalt (die : Nat) (s : State) : State :=
  raiseAt { s with freeIx := s.freeIx + 1 } fReeveHalt uDevice 0 die (Config.faultDetail s.freeIx).toNat

def execReeveHalt (die : Fin 2) (s : State) : Out := always s (reeveHalt die.val)

/-! ## Voltage and the governor (R540, R541, 20 R553) -/

/-- A setpoint within 0.60 to 0.80 V, in tenths of a millivolt. -/
def clampV (v : Nat) : Nat := max 6000 (min 8000 v)

/-- Both rails at the fused setpoint of a divisor. -/
def avsAt (c : Clk) (div : BitVec 2) : Clk :=
  { c with vddW := clampV (Config.avsFuse false div), vddE := clampV (Config.avsFuse true div) }

/-- AVS_STEP: at most 10 mV on each rail; a regulator that does not acknowledge keeps its setting. -/
def avsStep (ackW ackE : Bool) (s : State) : State :=
  let go (v want : Nat) : Nat := clampV (max (v - 100) (min (v + 100) want))
  if !s.clk.readyReeves then s
  else
    modClk { s with freeIx := s.freeIx + 2 } fun c =>
      { c with vddW := if ackW then go c.vddW (Config.avsWant s.freeIx) else c.vddW
               vddE := if ackE then go c.vddE (Config.avsWant (s.freeIx + 1)) else c.vddE }

def execAvsStep (ackW ackE : Bool) (s : State) : Out := always s (avsStep ackW ackE)

/-- GOVERNOR_SAMPLE: power in watts, the dies' and the hottest stack's temperature, and whether both regulators have read
back the faster setpoint (Table 19-4). -/
def governor (watts : Half) (tw te th : Byte) (backed : Bool) (s : State) : State :=
  let s := modClk s fun c => { c with pkgPower := watts, tempW := tw, tempE := te, tempH := th }
  if s.clk.mode ≠ 1 then s
  else
    let cap := powerSet s 3
    let t := max tw.toNat te.toNat
    let step (c : Clk) (d : BitVec 2) : Clk := avsAt { c with tclkDiv := d, throttle := satInc c.throttle, coolSamples := 0 } d
    if cap < watts.toNat ∨ 105 ≤ t then
      modClk s fun c => if c.tclkDiv.toNat < powerSet s 2 then step c (c.tclkDiv + 1) else { c with coolSamples := 0 }
    else if 10 * watts.toNat < 9 * cap ∧ t < 100 then
      modClk s fun c =>
        if 10 ≤ c.coolSamples + 1 ∧ backed = true ∧ powerSet s 1 < c.tclkDiv.toNat then step c (c.tclkDiv - 1)
        else { c with coolSamples := c.coolSamples + 1 }
    else modClk s fun c => { c with coolSamples := 0 }

def execGovernorSample (watts : Half) (tw te th : Byte) (backed : Bool) (s : State) : Out :=
  always s (governor watts tw te th backed)

/-- DIE_HOT: a die's Tj crosses 105 degrees (R539). -/
def execDieHot (die : Fin 2) (hot : Bool) (s : State) : Out :=
  always s fun s => modClk s fun c => if die.val = 0 then { c with hotW := hot } else { c with hotE := hot }

/-! ## Resets (R545 to R548, 17 R493, R494) -/

/-- COLD_RESET: everything but the part, the flash, the pins and the commands that wait outside; `power` when it
follows a power-up. -/
def coldReset (power : Bool) (s : State) : State :=
  { State.reset with
    part := s.part, fw := s.fw, dossier := { s.dossier with busy := [] }, pending := s.pending, freeIx := s.freeIx
    pins := { s.pins with coldResetN := false, warmPending := false, thermtrip := s.pins.thermtrip && !power }
    clk := { State.reset.clk with powerOn := power, coldPin := !power, wasFatal := s.fault.fatal && !power } }

/-- It also ends a test mode (18 R521). -/
def execColdReset (power : Bool) (s : State) : Out := .next (coldReset power s)

/-- COLD_RESET_RELEASE: TMODE sampled (18 R522), the timebase 0; `cool` when Tj is below 115 degrees (R546), and with it not
THERMTRIP's condition holds as before. -/
def coldRelease (tmode : BitVec 3) (cool : Bool) (s : State) : State :=
  if s.pins.coldResetN then s
  else
    let s := { s with
      pins := { s.pins with coldResetN := true, tmode, thermtrip := s.pins.thermtrip && !cool }
      clk := { s.clk with timebase := 0, rootFrac := 0 } }
    let s := if s.pins.thermtrip then domainsOff (raise s fThermtrip uDevice 0) else s
    if tmode = 0 then s else raise s fTmodeSet uDevice 0

def execColdResetRelease (tmode : BitVec 3) (cool : Bool) (s : State) : Out := always s (coldRelease tmode cool)

/-- PLL_LOCK: the root PLL and its dividers lock. -/
def execPllLock (s : State) : Out :=
  always s fun s => if s.pins.coldResetN then modClk s fun c => { c with pllLock := true, readyAlmanac := true } else s

/-- Bytes written to a firmware bank. -/
def Fw.bank (f : Fw) (b : Bool) : List Host.Cell := if b then f.bank1 else f.bank0

/-- The Reeves run the firmware of bank `b`. -/
def booted (s : State) (b : Bool) : State :=
  { s with
    fw := { s.fw with boot := b, marked := false }
    clk := avsAt { s.clk with bootBank := b, fwVersion := Config.firmwareVersion b (s.fw.bank b), readyReeves := true } s.clk.tclkDiv }

/-- REEVE_BOOT: the bank marked bootable, else the other one, if its signature verifies; with neither a Reeve halts.
`ok0` and `ok1` are the verdicts on the banks, `die` the Reeve that reports. -/
def reeveBoot (ok0 ok1 : Bool) (die : Nat) (s : State) : State :=
  let first := s.fw.boot != s.fw.marked
  let ok (b : Bool) : Bool := if b then ok1 else ok0
  if s.clk.readyReeves then s
  else if ok first then booted s first
  else if ok (!first) then booted s (!first)
  else reeveHalt die s

def execReeveBoot (ok0 ok1 : Bool) (die : Fin 2) (s : State) : Out := always s (reeveBoot ok0 ok1 die.val)

/-- WARM_RESET_BEGIN: every unit but the clocks, the timebase, the PCIe link and the flash; counters that count from
cold reset go on. -/
def warmReset (s : State) : State :=
  let t := { State.reset with
    part := s.part, fw := s.fw, dossier := { s.dossier with busy := [] }, pending := s.pending, freeIx := s.freeIx
    pins := { s.pins with warmPending := false }
    stew := { linkUp := s.stew.linkUp, fec := s.stew.fec }
    fault := { cntCorrected := s.fault.cntCorrected, cntContained := s.fault.cntContained, cntFenced := s.fault.cntFenced,
               cntFatal := s.fault.cntFatal }
    audit := { refresh := s.audit.refresh, retries := s.audit.retries, refreshAt := s.audit.refresh, retriesAt := s.audit.retries }
    plan := { commits := s.plan.commits }
    clk := { s.clk with mode := 0, coolSamples := 0, powerOn := false, coldPin := false, warm := true, wasFatal := s.fault.fatal
                        warmCount := s.clk.warmCount + 1, readyReeves := false, readyGranary := false } }
  s.dom.foldl (fun t e => modDom t e.1 fun x => { x with transitions := e.2.transitions }) t

def execWarmResetBegin (s : State) : Out := always s fun s => if s.pins.warmPending then warmReset s else s

/-- PERST_N asserted or released (Table 17-15). -/
def perst (asserted : Bool) (s : State) : State :=
  if asserted then
    let edge := s.pins.perstN
    { s with
      pins := { s.pins with perstN := false }
      host := { s.host with thresh := 0x40, timeUs := 0x10, timeUp := false, intMask := 0xF, intStatus := 0
                            resets := if edge then s.host.resets + 1 else s.host.resets } }
  else { s with pins := { s.pins with perstN := true } }

def execPerstN (asserted : Bool) (s : State) : Out := always s (perst asserted)

/-! ## The Steward link (17 R491, 19 Table 19-7) -/

def execStewardLinkUp (fec : Bool) (s : State) : Out :=
  always s fun s => modClk { s with stew := { s.stew with linkUp := true, fec } } fun c => { c with readySteward := true }

def execStewardLinkDown (s : State) : Out := always s fun s => { s with stew := { s.stew with linkUp := false, fec := false } }

end Sys2Proof.Machine
end

