-- ==== Sys2Proof/Machine/Rooms.lean ====
section
/-!
DEFINITION. Requests for rooms (12 R363, R364).
-/

namespace Sys2Proof.Machine
open Sys2Proof

/-- ROOM_REQUEST (R363, R364): granted, made to wait, or refused with INN_SIZE, on which a running plot
stops as any contained fault stops it (05 R175). `refs` is the number of targets of the packet (R368). -/
def roomRequest (req sub bytes refs : Nat) (s : State) : State :=
  let die := reqDie s req
  let ix := 8 * req + sub
  match findAcct s die ix with
  | none => refuse die s
  | some a =>
    if bytes = 0 ∨ roomFor a.sizes bytes = none then refuse die s
    else
      let w : RoomWait := { die, inn := a.inn, acct := ix, bytes, refs }
      let queued := s.core.waits.any fun x => x.acct == ix
      match (if queued then none else tryRoom s w) with
      | some s => settleDie s die
      | none => { s with core := { s.core with waits := s.core.waits ++ [w] } }
where
  refuse (die : Nat) (s : State) : State :=
    let s := modCore s die fun c => { c with refused := satInc c.refused }
    let (ut, unit) : BitVec 4 × Nat :=
      if req < 1024 then (uPort, req) else if req < 1056 then (uPlot, req - 1024)
      else if req < 1184 then (uSlot, 32 * (req - 1056)) else if req < 1218 then (uDevice, 0)
      else if req < 1222 then (uGranary, req - 1218) else if req < 1246 then (uStage, req - 1222)
      else (uDevice, 0)
    if 1024 ≤ req && decide (req < 1056) && (plot s unit).mode == .running then
      plotAbort s unit .seq fInnSize { addr := (plot s unit).pc.toNat }
    else raise s fInnSize ut unit

def execRoomRequest (req : BitVec 11) (sub : BitVec 3) (bytes : Nat) (refs : BitVec 16) (s : State) : Out :=
  event s (roomRequest req.toNat sub.toNat bytes refs.toNat)

end Sys2Proof.Machine
end

