-- ==== Sys2Proof/Machine/Dispatch.lean ====
section
/-!
DEFINITION. One arm per command: its meaning, called by its full name.
-/

namespace Sys2Proof.Machine

/-- The effect of a command on everything but the queue. -/
def exec (i : Instr) (s : State) : Host.Outcome State Fault Refusal :=
  match i with
  | .registerWrite off w => Sys2Proof.Machine.execRegisterWrite off w s
  | .ledgerDoorbell slots w => Sys2Proof.Machine.execLedgerDoorbell slots w s
  | .ledgerAccept => Sys2Proof.Machine.execLedgerAccept s
  | .tallySeen w => Sys2Proof.Machine.execTallySeen w s
  | .tallyStatus w => Sys2Proof.Machine.execTallyStatus w s
  | .ringCfg w => Sys2Proof.Machine.execRingCfg w s
  | .intMask w => Sys2Proof.Machine.execIntMask w s
  | .intTime => Sys2Proof.Machine.execIntTime s
  | .bar4Write off bytes => Sys2Proof.Machine.execBar4Write off bytes s
  | .gleanTail w => Sys2Proof.Machine.execGleanTail w s
  | .memCtl w => Sys2Proof.Machine.execMemCtl w s
  | .tbCtl w => Sys2Proof.Machine.execTbCtl w s
  | .nop c => Sys2Proof.Machine.execNop c s
  | .planStage c bytes e => Sys2Proof.Machine.execPlanStage c bytes e s
  | .planWrite c => Sys2Proof.Machine.execPlanWrite c s
  | .planValidate c => Sys2Proof.Machine.execPlanValidate c s
  | .planValidated slot => Sys2Proof.Machine.execPlanValidated slot s
  | .planCommit c => Sys2Proof.Machine.execPlanCommit c s
  | .commitLoadEnd => Sys2Proof.Machine.execCommitLoadEnd s
  | .planLoftUe => Sys2Proof.Machine.execPlanLoftUe s
  | .planCancel c => Sys2Proof.Machine.execPlanCancel c s
  | .headlandArm c => Sys2Proof.Machine.execHeadlandArm c s
  | .quiescing => Sys2Proof.Machine.execQuiescing s
  | .planAbandoned => Sys2Proof.Machine.execPlanAbandoned s
  | .headlandPass => Sys2Proof.Machine.execHeadlandPass s
  | .planCommitted bad => Sys2Proof.Machine.execPlanCommitted bad s
  | .plotStart c e => Sys2Proof.Machine.execPlotStart c e s
  | .plotStop c => Sys2Proof.Machine.execPlotStop c s
  | .plotStopped p => Sys2Proof.Machine.execPlotStopped p s
  | .updGroupWrite c => Sys2Proof.Machine.execUpdGroupWrite c s
  | .rptWrite c => Sys2Proof.Machine.execRptWrite c s
  | .rptWritten => Sys2Proof.Machine.execRptWritten s
  | .rptRead c => Sys2Proof.Machine.execRptRead c s
  | .memRequest c => Sys2Proof.Machine.execMemRequest c s
  | .coachPut c => Sys2Proof.Machine.execCoachPut c s
  | .coachGet c => Sys2Proof.Machine.execCoachGet c s
  | .provHash c => Sys2Proof.Machine.execProvHash c s
  | .provDone die errs => Sys2Proof.Machine.execProvDone die errs s
  | .keyLoadClear c => Sys2Proof.Machine.execKeyLoadClear c s
  | .keyLoadWrapped c => Sys2Proof.Machine.execKeyLoadWrapped c s
  | .keyErase c => Sys2Proof.Machine.execKeyErase c s
  | .keyEraseAll c => Sys2Proof.Machine.execKeyEraseAll c s
  | .regRead c => Sys2Proof.Machine.execRegRead c s
  | .regWrite c clash => Sys2Proof.Machine.execRegWrite c clash s
  | .tallyRead c => Sys2Proof.Machine.execTallyRead c s
  | .fwUpdate c sigOk => Sys2Proof.Machine.execFwUpdate c sigOk s
  | .warmReset c => Sys2Proof.Machine.execWarmReset c s
  | .testEntry c => Sys2Proof.Machine.execTestEntry c s
  | .dossierCapture c => Sys2Proof.Machine.execDossierCapture c s
  | .dossierRead c => Sys2Proof.Machine.execDossierRead c s
  | .dossierDone => Sys2Proof.Machine.execDossierDone s
  | .furrowReset c => Sys2Proof.Machine.execFurrowReset c s
  | .furrowResetResend => Sys2Proof.Machine.execFurrowResetResend s
  | .shareClearTorn c => Sys2Proof.Machine.execShareClearTorn c s
  | .stageReset c => Sys2Proof.Machine.execStageReset c s
  | .portRetrain c => Sys2Proof.Machine.execPortRetrain c s
  | .sourceReset c => Sys2Proof.Machine.execSourceReset c s
  | .hedgeAdd c => Sys2Proof.Machine.execHedgeAdd c s
  | .admitOpen c => Sys2Proof.Machine.execAdmitOpen c s
  | .yokePartner c => Sys2Proof.Machine.execYokePartner c s
  | .yokeShadow c => Sys2Proof.Machine.execYokeShadow c s
  | .yokeEnd c => Sys2Proof.Machine.execYokeEnd c s
  | .admitNative c => Sys2Proof.Machine.execAdmitNative c s
  | .admitCompatibility c => Sys2Proof.Machine.execAdmitCompatibility c s
  | .admitDirect c => Sys2Proof.Machine.execAdmitDirect c s
  | .selfTest c => Sys2Proof.Machine.execSelfTest c s
  | .selftestDone failed => Sys2Proof.Machine.execSelftestDone failed s
  | .granaryReadmit c => Sys2Proof.Machine.execGranaryReadmit c s
  | .yokeReport c => Sys2Proof.Machine.execYokeReport c s
  | .mgtCmd stew port mac p sigOk => Sys2Proof.Machine.execMgtCmd stew port mac p sigOk s
  | .mgtResp port p => Sys2Proof.Machine.execMgtResp port p s
  | .mgtBeacon port p => Sys2Proof.Machine.execMgtBeacon port p s
  | .beaconSend => Sys2Proof.Machine.execBeaconSend s
  | .beaconLost dev => Sys2Proof.Machine.execBeaconLost dev s
  | .mgtHedge port p => Sys2Proof.Machine.execMgtHedge port p s
  | .hedgeRepeat => Sys2Proof.Machine.execHedgeRepeat s
  | .mgtQuench p => Sys2Proof.Machine.execMgtQuench p s
  | .quenchExpiry field line => Sys2Proof.Machine.execQuenchExpiry field line s
  | .packetLookup n q chk => Sys2Proof.Machine.execPacketLookup n q chk s
  | .dispatch n q e => Sys2Proof.Machine.execDispatch n q e s
  | .escAfter n q => Sys2Proof.Machine.execEscAfter n q s
  | .serveUnit n e => Sys2Proof.Machine.execServeUnit n e s
  | .refill => Sys2Proof.Machine.execRefill s
  | .roomRequest req sub bytes refs => Sys2Proof.Machine.execRoomRequest req sub bytes refs s
  | .roomRelease ptr => Sys2Proof.Machine.execRoomRelease ptr s
  | .gleanWrite east => Sys2Proof.Machine.execGleanWrite east s
  | .dataFlit n f cw => Sys2Proof.Machine.execDataFlit n f cw s
  | .credit n f cw => Sys2Proof.Machine.execCredit n f cw s
  | .creditTimer n => Sys2Proof.Machine.execCreditTimer n s
  | .nak n f cw => Sys2Proof.Machine.execNak n f cw s
  | .retryTo n => Sys2Proof.Machine.execRetryTo n s
  | .init n f cw => Sys2Proof.Machine.execInit n f cw s
  | .initResend n => Sys2Proof.Machine.execInitResend n s
  | .trainingDone n => Sys2Proof.Machine.execTrainingDone n s
  | .trainingTimeout n => Sys2Proof.Machine.execTrainingTimeout n s
  | .downRetry n => Sys2Proof.Machine.execDownRetry n s
  | .laneDown n lane => Sys2Proof.Machine.execLaneDown n lane s
  | .restripeDone n => Sys2Proof.Machine.execRestripeDone n s
  | .laneMap n f cw => Sys2Proof.Machine.execLaneMap n f cw s
  | .edgeFrame n f => Sys2Proof.Machine.execEdgeFrame n f s
  | .pauseExpiry n pcp => Sys2Proof.Machine.execPauseExpiry n pcp s
  | .xoffRefresh n => Sys2Proof.Machine.execXoffRefresh n s
  | .macAge mac vlan => Sys2Proof.Machine.execMacAge mac vlan s
  | .colWaybill slot p => Sys2Proof.Machine.execColWaybill slot p s
  | .colGrant g => Sys2Proof.Machine.execColGrant g s
  | .colData place p => Sys2Proof.Machine.execColData place p s
  | .colDataEnd place p => Sys2Proof.Machine.execColDataEnd place p s
  | .colCredit p => Sys2Proof.Machine.execColCredit p s
  | .colOutcome slot p => Sys2Proof.Machine.execColOutcome slot p s
  | .colAbort slot p => Sys2Proof.Machine.execColAbort slot p s
  | .moveData p => Sys2Proof.Machine.execMoveData p s
  | .moveDone p => Sys2Proof.Machine.execMoveDone p s
  | .updFeedGrant p bill chk => Sys2Proof.Machine.execUpdFeedGrant p bill chk s
  | .updChunkApply k r => Sys2Proof.Machine.execUpdChunkApply k r s
  | .precondPass g r => Sys2Proof.Machine.execPrecondPass g r s
  | .rootRefreshDone g chk => Sys2Proof.Machine.execRootRefreshDone g chk s
  | .arm p => Sys2Proof.Machine.execArm p s
  | .mm p e => Sys2Proof.Machine.execMm p e s
  | .mmSp p e => Sys2Proof.Machine.execMmSp p e s
  | .sparseMeta p => Sys2Proof.Machine.execSparseMeta p s
  | .sparseIndex p => Sys2Proof.Machine.execSparseIndex p s
  | .accDone p b => Sys2Proof.Machine.execAccDone p b s
  | .accLoad p e => Sys2Proof.Machine.execAccLoad p e s
  | .accStore p => Sys2Proof.Machine.execAccStore p s
  | .accRelease p => Sys2Proof.Machine.execAccRelease p s
  | .accZero p => Sys2Proof.Machine.execAccZero p s
  | .accPathEnd p => Sys2Proof.Machine.execAccPathEnd p s
  | .harrowAdd p e => Sys2Proof.Machine.execHarrowAdd p e s
  | .harrowSub p e => Sys2Proof.Machine.execHarrowSub p e s
  | .harrowMul p e => Sys2Proof.Machine.execHarrowMul p e s
  | .harrowFma p e => Sys2Proof.Machine.execHarrowFma p e s
  | .harrowDiv p e => Sys2Proof.Machine.execHarrowDiv p e s
  | .harrowMin p e => Sys2Proof.Machine.execHarrowMin p e s
  | .harrowMax p e => Sys2Proof.Machine.execHarrowMax p e s
  | .harrowAbs p e => Sys2Proof.Machine.execHarrowAbs p e s
  | .harrowNeg p e => Sys2Proof.Machine.execHarrowNeg p e s
  | .harrowSqrt p e => Sys2Proof.Machine.execHarrowSqrt p e s
  | .harrowRcp p e => Sys2Proof.Machine.execHarrowRcp p e s
  | .harrowRsqrt p e => Sys2Proof.Machine.execHarrowRsqrt p e s
  | .harrowExp2 p e => Sys2Proof.Machine.execHarrowExp2 p e s
  | .harrowLog2 p e => Sys2Proof.Machine.execHarrowLog2 p e s
  | .harrowCvt p e => Sys2Proof.Machine.execHarrowCvt p e s
  | .harrowMov p e => Sys2Proof.Machine.execHarrowMov p e s
  | .harrowCmp p e => Sys2Proof.Machine.execHarrowCmp p e s
  | .harrowIadd p e => Sys2Proof.Machine.execHarrowIadd p e s
  | .harrowAnd p e => Sys2Proof.Machine.execHarrowAnd p e s
  | .harrowOr p e => Sys2Proof.Machine.execHarrowOr p e s
  | .harrowXor p e => Sys2Proof.Machine.execHarrowXor p e s
  | .harrowRsum p e => Sys2Proof.Machine.execHarrowRsum p e s
  | .harrowRmin p e => Sys2Proof.Machine.execHarrowRmin p e s
  | .harrowRmax p e => Sys2Proof.Machine.execHarrowRmax p e s
  | .compress p e => Sys2Proof.Machine.execCompress p e s
  | .expand p e => Sys2Proof.Machine.execExpand p e s
  | .gather p e => Sys2Proof.Machine.execGather p e s
  | .scatter p e => Sys2Proof.Machine.execScatter p e s
  | .xload p e => Sys2Proof.Machine.execXload p e s
  | .xstore p e => Sys2Proof.Machine.execXstore p e s
  | .xlist p e => Sys2Proof.Machine.execXlist p e s
  | .sparsify p e => Sys2Proof.Machine.execSparsify p e s
  | .prune2d p e => Sys2Proof.Machine.execPrune2d p e s
  | .keyset p e => Sys2Proof.Machine.execKeyset p e s
  | .hdone p => Sys2Proof.Machine.execHdone p s
  | .seq p e => Sys2Proof.Machine.execSeq p e s
  | .jump p e => Sys2Proof.Machine.execJump p e s
  | .brt p e => Sys2Proof.Machine.execBrt p e s
  | .brf p e => Sys2Proof.Machine.execBrf p e s
  | .loop p e => Sys2Proof.Machine.execLoop p e s
  | .halt p => Sys2Proof.Machine.execHalt p s
  | .plotDone p => Sys2Proof.Machine.execPlotDone p s
  | .set p => Sys2Proof.Machine.execSet p s
  | .copAdd p => Sys2Proof.Machine.execCopAdd p s
  | .setlim p => Sys2Proof.Machine.execSetlim p s
  | .setcfg p => Sys2Proof.Machine.execSetcfg p s
  | .waitEnd p n => Sys2Proof.Machine.execWaitEnd p n s
  | .sset p => Sys2Proof.Machine.execSset p s
  | .sclr p => Sys2Proof.Machine.execSclr p s
  | .scinc p => Sys2Proof.Machine.execScinc p s
  | .seqWaitLimit p => Sys2Proof.Machine.execSeqWaitLimit p s
  | .gload p => Sys2Proof.Machine.execGload p s
  | .gstore p => Sys2Proof.Machine.execGstore p s
  | .tqDrop p => Sys2Proof.Machine.execTqDrop p s
  | .msend p => Sys2Proof.Machine.execMsend p s
  | .waybill p => Sys2Proof.Machine.execWaybill p s
  | .csend p => Sys2Proof.Machine.execCsend p s
  | .transferStart p e => Sys2Proof.Machine.execTransferStart p e s
  | .transferEnd p n => Sys2Proof.Machine.execTransferEnd p n s
  | .dtap p => Sys2Proof.Machine.execDtap p s
  | .dlog p => Sys2Proof.Machine.execDlog p s
  | .phArray p => Sys2Proof.Machine.execPhArray p s
  | .phHarrow p => Sys2Proof.Machine.execPhHarrow p s
  | .phFabric p => Sys2Proof.Machine.execPhFabric p s
  | .winnowRecord st => Sys2Proof.Machine.execWinnowRecord st s
  | .mergePass st e => Sys2Proof.Machine.execMergePass st e s
  | .stageDone st e => Sys2Proof.Machine.execStageDone st e s
  | .load n p upset => Sys2Proof.Machine.execLoad n p upset s
  | .store n p upset => Sys2Proof.Machine.execStore n p upset s
  | .storeRel n p upset => Sys2Proof.Machine.execStoreRel n p upset s
  | .atomic n p upset => Sys2Proof.Machine.execAtomic n p upset s
  | .trackedArrival p => Sys2Proof.Machine.execTrackedArrival p s
  | .lineApply line e => Sys2Proof.Machine.execLineApply line e s
  | .hotSetClear line => Sys2Proof.Machine.execHotSetClear line s
  | .hotLineRetire line => Sys2Proof.Machine.execHotLineRetire line s
  | .loadRsp n p => Sys2Proof.Machine.execLoadRsp n p s
  | .storeAck n p => Sys2Proof.Machine.execStoreAck n p s
  | .atomicRsp n p => Sys2Proof.Machine.execAtomicRsp n p s
  | .trackerResend field target seq => Sys2Proof.Machine.execTrackerResend field target seq s
  | .trackerTimeout field target seq => Sys2Proof.Machine.execTrackerTimeout field target seq s
  | .replayExpiry field origin seq => Sys2Proof.Machine.execReplayExpiry field origin seq s
  | .coachRunClose n => Sys2Proof.Machine.execCoachRunClose n s
  | .coachRun n p => Sys2Proof.Machine.execCoachRun n p s
  | .coachTimeout n run => Sys2Proof.Machine.execCoachTimeout n run s
  | .coachDone n p => Sys2Proof.Machine.execCoachDone n p s
  | .sealedChunkPacket p e => Sys2Proof.Machine.execSealedChunkPacket p e s
  | .encryptExit die e => Sys2Proof.Machine.execEncryptExit die e s
  | .digestExit die e => Sys2Proof.Machine.execDigestExit die e s
  | .granaryFail k => Sys2Proof.Machine.execGranaryFail k s
  | .granaryReady => Sys2Proof.Machine.execGranaryReady s
  | .coldReset power => Sys2Proof.Machine.execColdReset power s
  | .coldResetRelease tmode cool => Sys2Proof.Machine.execColdResetRelease tmode cool s
  | .pllLock => Sys2Proof.Machine.execPllLock s
  | .reeveBoot ok0 ok1 die => Sys2Proof.Machine.execReeveBoot ok0 ok1 die s
  | .warmResetBegin => Sys2Proof.Machine.execWarmResetBegin s
  | .perstN asserted => Sys2Proof.Machine.execPerstN asserted s
  | .pwrgdLost => Sys2Proof.Machine.execPwrgdLost s
  | .thermtrip => Sys2Proof.Machine.execThermtrip s
  | .pllUnlock => Sys2Proof.Machine.execPllUnlock s
  | .bridgeDown => Sys2Proof.Machine.execBridgeDown s
  | .reeveHalt die => Sys2Proof.Machine.execReeveHalt die s
  | .tickIn => Sys2Proof.Machine.execTickIn s
  | .tickOut => Sys2Proof.Machine.execTickOut s
  | .tickLost => Sys2Proof.Machine.execTickLost s
  | .governorSample watts tw te th backed => Sys2Proof.Machine.execGovernorSample watts tw te th backed s
  | .avsStep ackW ackE => Sys2Proof.Machine.execAvsStep ackW ackE s
  | .lossOfLock n lane => Sys2Proof.Machine.execLossOfLock n lane s
  | .regainsLock n lane => Sys2Proof.Machine.execRegainsLock n lane s
  | .idleFlit n f cw => Sys2Proof.Machine.execIdleFlit n f cw s
  | .stewardLinkUp fec => Sys2Proof.Machine.execStewardLinkUp fec s
  | .stewardLinkDown => Sys2Proof.Machine.execStewardLinkDown s
  | .granaryReadmitDone k => Sys2Proof.Machine.execGranaryReadmitDone k s
  | .dieHot die hot => Sys2Proof.Machine.execDieHot die hot s
  | .stackCaseTemperature k hot => Sys2Proof.Machine.execStackCaseTemperature k hot s

end Sys2Proof.Machine
end

