-- ==== Sys2Proof/Safety.lean ====
section
/-!
DEFINITION. What the claims call a sound state: the fused identity agrees with itself (00 R8), and the granary is in its
one canonical form.
-/

namespace Sys2Proof.Machine
open Sys2Proof

/-- Enabled plots of a grade (00 Table 0-2, R8). -/
def gradePlots : BitVec 2 → Option Nat
  | 0 => some 32
  | 1 => some 28
  | 2 => some 24
  | 3 => none

/-- Bits set in `w` from bit `lo`, 16 of them. -/
def halfCount (w : Word) (lo : Nat) : Nat := ((List.range 16).filter fun i => bit w.toNat (lo + i)).length

/-- R8: each half of PLOT_PRESENT holds half of the grade's plots. -/
def Part.sound (p : Part) : Bool :=
  match gradePlots p.grade with
  | some n => halfCount p.plotPresent 0 == n / 2 && halfCount p.plotPresent 16 == n / 2
  | none => false

/-- A sound state. -/
def State.sound (s : State) : Prop := Part.sound s.part = true ∧ Memory.wf s.gran = true

/-- Outside a test mode, with no FATAL fault. -/
def State.live (s : State) : Prop := s.testMode = false ∧ s.fault.fatal = false

/-- The entry written last to the tally. -/
def newest (s : State) : Option Tally := s.host.tally.getLast?

end Sys2Proof.Machine

namespace Sys2Proof
open Sys2Proof.Machine

/-- The command passes the checks that every command of opcode `op` gets, whose body uses the bytes `fmt`
(17 R480, R489). -/
def Cmd.passes (c : Cmd) (op : Half) (fmt : List (Nat × Nat)) : Prop :=
  c.body.length = 100 ∧ c.auth ≠ .none ∧ mayIssue op c.auth = true ∧ onlyIn c.body fmt = true ∧ (takesEpoch op = true ∨ c.epoch = 0)

/-- A packet whose payload is LEN words. -/
def Pkt.whole (p : Pkt) : Prop := p.payload.length = 4 * p.len.toNat

/-- One 64-bit access that writes a value and its complement (00 R14). -/
def RegW.cw (v : Word) : RegW := { width := 8, val := ~~~v ++ v }

end Sys2Proof
end

