-- ==== Sys2Proof/WellFormed.lean ====
section
/-!
DEFINITION. Well-formed commands: what their operands must be for the device to see them at all. A meaning stops with
`Fault.illFormed` where a command body or a packet breaks its width; the other widths are the sender's.
-/

namespace Sys2Proof
open Sys2Proof.Machine

/-- An operand whose width the spec fixes. -/
inductive Operand
  | cmd (c : Cmd)
  | pkt (p : Pkt)
  | flit (f : Flit)
  | reg (w : RegW)
  | slots (ws : List (Nat × Byte))
  | frame (bytes : List Byte)
  | bill (bytes : List Byte)
  | window (off : BitVec 29) (bytes : List Byte)
  deriving DecidableEq, Repr

/-- A command body is 100 bytes (17 Table 17-7), a payload LEN words (11 Table 11-1), a flit body 256 bytes
(10 Table 10-6), a register access 4 or 8 bytes (17 R473), a ledger write within its region (17 Table 17-1), an Ethernet
frame at least its head and FCS (10 R320), a waybill 64 bytes (03 R81), and a BAR4 write lies in its window. -/
def Operand.ok : Operand → Bool
  | .cmd c => c.body.length == 100
  | .pkt p => p.payload.length == 4 * p.len.toNat
  | .flit f => f.body.length == 256
  | .reg w => w.width == 4 || w.width == 8
  | .slots ws => ws.all fun w => decide (w.1 < 8388608)
  | .frame b => decide (18 ≤ b.length)
  | .bill b => b.length == 64
  | .window off b => decide (off.toNat + b.length ≤ 536870912)

/-- The operands of a command that have a width. -/
def Instr.parts : Instr → List Operand
  | .registerWrite _ w => [.reg w]
  | .ledgerDoorbell slots w => [.slots slots, .reg w]
  | .ledgerAccept => []
  | .tallySeen w => [.reg w]
  | .tallyStatus w => [.reg w]
  | .ringCfg w => [.reg w]
  | .intMask w => [.reg w]
  | .intTime => []
  | .bar4Write off bytes => [.window off bytes]
  | .gleanTail w => [.reg w]
  | .memCtl w => [.reg w]
  | .tbCtl w => [.reg w]
  | .nop c => [.cmd c]
  | .planStage c _ _ => [.cmd c]
  | .planWrite c => [.cmd c]
  | .planValidate c => [.cmd c]
  | .planValidated _ => []
  | .planCommit c => [.cmd c]
  | .commitLoadEnd => []
  | .planLoftUe => []
  | .planCancel c => [.cmd c]
  | .headlandArm c => [.cmd c]
  | .quiescing => []
  | .planAbandoned => []
  | .headlandPass => []
  | .planCommitted _ => []
  | .plotStart c _ => [.cmd c]
  | .plotStop c => [.cmd c]
  | .plotStopped _ => []
  | .updGroupWrite c => [.cmd c]
  | .rptWrite c => [.cmd c]
  | .rptWritten => []
  | .rptRead c => [.cmd c]
  | .memRequest c => [.cmd c]
  | .coachPut c => [.cmd c]
  | .coachGet c => [.cmd c]
  | .provHash c => [.cmd c]
  | .provDone _ _ => []
  | .keyLoadClear c => [.cmd c]
  | .keyLoadWrapped c => [.cmd c]
  | .keyErase c => [.cmd c]
  | .keyEraseAll c => [.cmd c]
  | .regRead c => [.cmd c]
  | .regWrite c _ => [.cmd c]
  | .tallyRead c => [.cmd c]
  | .fwUpdate c _ => [.cmd c]
  | .warmReset c => [.cmd c]
  | .testEntry c => [.cmd c]
  | .dossierCapture c => [.cmd c]
  | .dossierRead c => [.cmd c]
  | .dossierDone => []
  | .furrowReset c => [.cmd c]
  | .furrowResetResend => []
  | .shareClearTorn c => [.cmd c]
  | .stageReset c => [.cmd c]
  | .portRetrain c => [.cmd c]
  | .sourceReset c => [.cmd c]
  | .hedgeAdd c => [.cmd c]
  | .admitOpen c => [.cmd c]
  | .yokePartner c => [.cmd c]
  | .yokeShadow c => [.cmd c]
  | .yokeEnd c => [.cmd c]
  | .admitNative c => [.cmd c]
  | .admitCompatibility c => [.cmd c]
  | .admitDirect c => [.cmd c]
  | .selfTest c => [.cmd c]
  | .selftestDone _ => []
  | .granaryReadmit c => [.cmd c]
  | .yokeReport c => [.cmd c]
  | .mgtCmd _ _ _ p _ => [.pkt p]
  | .mgtResp _ p => [.pkt p]
  | .mgtBeacon _ p => [.pkt p]
  | .beaconSend => []
  | .beaconLost _ => []
  | .mgtHedge _ p => [.pkt p]
  | .hedgeRepeat => []
  | .mgtQuench p => [.pkt p]
  | .quenchExpiry _ _ => []
  | .packetLookup _ _ _ => []
  | .dispatch _ _ _ => []
  | .escAfter _ _ => []
  | .serveUnit _ _ => []
  | .refill => []
  | .roomRequest _ _ _ _ => []
  | .roomRelease _ => []
  | .gleanWrite _ => []
  | .dataFlit _ f _ => [.flit f]
  | .credit _ f _ => [.flit f]
  | .creditTimer _ => []
  | .nak _ f _ => [.flit f]
  | .retryTo _ => []
  | .init _ f _ => [.flit f]
  | .initResend _ => []
  | .trainingDone _ => []
  | .trainingTimeout _ => []
  | .downRetry _ => []
  | .laneDown _ _ => []
  | .restripeDone _ => []
  | .laneMap _ f _ => [.flit f]
  | .edgeFrame _ f => [.frame f]
  | .pauseExpiry _ _ => []
  | .xoffRefresh _ => []
  | .macAge _ _ => []
  | .colWaybill _ p => [.pkt p]
  | .colGrant g => [.pkt g.p]
  | .colData _ p => [.pkt p]
  | .colDataEnd _ p => [.pkt p]
  | .colCredit p => [.pkt p]
  | .colOutcome _ p => [.pkt p]
  | .colAbort _ p => [.pkt p]
  | .moveData p => [.pkt p]
  | .moveDone p => [.pkt p]
  | .updFeedGrant p bill _ => [.pkt p, .bill bill]
  | .updChunkApply _ _ => []
  | .precondPass _ _ => []
  | .rootRefreshDone _ _ => []
  | .arm _ => []
  | .mm _ _ => []
  | .mmSp _ _ => []
  | .sparseMeta _ => []
  | .sparseIndex _ => []
  | .accDone _ _ => []
  | .accLoad _ _ => []
  | .accStore _ => []
  | .accRelease _ => []
  | .accZero _ => []
  | .accPathEnd _ => []
  | .harrowAdd _ _ => []
  | .harrowSub _ _ => []
  | .harrowMul _ _ => []
  | .harrowFma _ _ => []
  | .harrowDiv _ _ => []
  | .harrowMin _ _ => []
  | .harrowMax _ _ => []
  | .harrowAbs _ _ => []
  | .harrowNeg _ _ => []
  | .harrowSqrt _ _ => []
  | .harrowRcp _ _ => []
  | .harrowRsqrt _ _ => []
  | .harrowExp2 _ _ => []
  | .harrowLog2 _ _ => []
  | .harrowCvt _ _ => []
  | .harrowMov _ _ => []
  | .harrowCmp _ _ => []
  | .harrowIadd _ _ => []
  | .harrowAnd _ _ => []
  | .harrowOr _ _ => []
  | .harrowXor _ _ => []
  | .harrowRsum _ _ => []
  | .harrowRmin _ _ => []
  | .harrowRmax _ _ => []
  | .compress _ _ => []
  | .expand _ _ => []
  | .gather _ _ => []
  | .scatter _ _ => []
  | .xload _ _ => []
  | .xstore _ _ => []
  | .xlist _ _ => []
  | .sparsify _ _ => []
  | .prune2d _ _ => []
  | .keyset _ _ => []
  | .hdone _ => []
  | .seq _ _ => []
  | .jump _ _ => []
  | .brt _ _ => []
  | .brf _ _ => []
  | .loop _ _ => []
  | .halt _ => []
  | .plotDone _ => []
  | .set _ => []
  | .copAdd _ => []
  | .setlim _ => []
  | .setcfg _ => []
  | .waitEnd _ _ => []
  | .sset _ => []
  | .sclr _ => []
  | .scinc _ => []
  | .seqWaitLimit _ => []
  | .gload _ => []
  | .gstore _ => []
  | .tqDrop _ => []
  | .msend _ => []
  | .waybill _ => []
  | .csend _ => []
  | .transferStart _ _ => []
  | .transferEnd _ _ => []
  | .dtap _ => []
  | .dlog _ => []
  | .phArray _ => []
  | .phHarrow _ => []
  | .phFabric _ => []
  | .winnowRecord _ => []
  | .mergePass _ _ => []
  | .stageDone _ _ => []
  | .load _ p _ => [.pkt p]
  | .store _ p _ => [.pkt p]
  | .storeRel _ p _ => [.pkt p]
  | .atomic _ p _ => [.pkt p]
  | .trackedArrival p => [.pkt p]
  | .lineApply _ _ => []
  | .hotSetClear _ => []
  | .hotLineRetire _ => []
  | .loadRsp _ p => [.pkt p]
  | .storeAck _ p => [.pkt p]
  | .atomicRsp _ p => [.pkt p]
  | .trackerResend _ _ _ => []
  | .trackerTimeout _ _ _ => []
  | .replayExpiry _ _ _ => []
  | .coachRunClose _ => []
  | .coachRun _ p => [.pkt p]
  | .coachTimeout _ _ => []
  | .coachDone _ p => [.pkt p]
  | .sealedChunkPacket p _ => [.pkt p]
  | .encryptExit _ _ => []
  | .digestExit _ _ => []
  | .granaryFail _ => []
  | .granaryReady => []
  | .coldReset _ => []
  | .coldResetRelease _ _ => []
  | .pllLock => []
  | .reeveBoot _ _ _ => []
  | .warmResetBegin => []
  | .perstN _ => []
  | .pwrgdLost => []
  | .thermtrip => []
  | .pllUnlock => []
  | .bridgeDown => []
  | .reeveHalt _ => []
  | .tickIn => []
  | .tickOut => []
  | .tickLost => []
  | .governorSample _ _ _ _ _ => []
  | .avsStep _ _ => []
  | .lossOfLock _ _ => []
  | .regainsLock _ _ => []
  | .idleFlit _ f _ => [.flit f]
  | .stewardLinkUp _ => []
  | .stewardLinkDown => []
  | .granaryReadmitDone _ => []
  | .dieHot _ _ => []
  | .stackCaseTemperature _ _ => []

/-- A command whose operands all have their width. -/
def Instr.wf (i : Instr) : Bool := (Instr.parts i).all Operand.ok

end Sys2Proof
end

