-- ==== Sys2Proof/Certificates/Slice0/Obligations.lean ====
section
/-!
DEFINITION. The statements for the provers. Each docstring names the rules of spec/ it formalises, or says that it is a
choice of the model and names the log entry.
-/

open Sys2Proof Sys2Proof.Machine

/-! ## The queue and the clock -/

/-- The command at the front of the queue runs, with the rest of the queue behind it. -/
def Obligations.StepRunsTheFrontCommand : Prop :=
  ∀ (c : Instr) (rest : List Instr) (s : State),
    step { s with pending := c :: rest } = exec c { s with pending := rest }

/-- With nothing waiting a step is one CCLK edge, 2.5 ns (19 R526): two of them move TIMEBASE by 5 ns, or by 4 or 6 where an
error is slewed; while the root PLL is unlocked TIMEBASE stands. The idle step is the model's choice (log 1). -/
def Claims.IdleStepIsAClockEdge : Prop :=
  ∀ s : State, s.pending = [] →
    (s.clk.pllLock = false → step s = .next s) ∧
    (s.clk.pllLock = true → s.clk.slew = 0 → s.clk.rootFrac = 0 →
      ∃ t u, step s = .next t ∧ step t = .next u ∧ u.clk.timebase = s.clk.timebase + 5 ∧ u.clk.rootFrac = 0 ∧
        { u with clk := s.clk } = s) ∧
    (s.clk.pllLock = true → s.clk.rootFrac < 10 → ∃ t, step s = .next t ∧ { t with clk := s.clk } = s ∧
      t.clk.timebase - s.clk.timebase ≤ 4 ∧ 1 ≤ t.clk.timebase - s.clk.timebase)

/-- What reset leaves (the reset column of the register tables of 00, 04, 09, 14 to 19): the host block's counts at 0, NEXT and
OLDEST at 1, INT_CTL 0x0010_0040, INT_MASK 0xF, LOAD_TO 64, TB_PERIOD 1,000, PLAN_PENDING all ones, no fault, no plan. -/
def Obligations.ResetValues : Prop :=
  let s := State.reset
  readReg s 0x1010 = 0 ∧ readReg s 0x1014 = 0 ∧ readReg s 0x1018 = 1 ∧ readReg s 0x101C = 1 ∧ readReg s 0x1024 = 0 ∧
    readReg s 0x1028 = 0xC0 ∧ readReg s 0x1030 = 0x00100040 ∧ readReg s 0x1034 = 0xF ∧ readReg s 0x1038 = 0 ∧
    readReg s 0x2000 = 0 ∧ readReg s 0x2018 = 0xFFFFFFFF ∧ readReg s 0x201C = 0xFFFFFFFF ∧
    readReg s 0x3020 = 1000 ∧ readReg s 0x30000 = 64 ∧ readReg s 0xC000 = 0 ∧ readReg s 0xC040 = 0 ∧
    s.pending = [] ∧ s.gran = [] ∧ s.cellar.slots = [] ∧ s.testMode = false

/-! ## The host port -/

/-- Register writes that are taken: LEDGER_DOORBELL (R476), TALLY_SEEN not above NEXT - 1 (R485), which may make the overrun of R485 or
the threshold of R487 hold, TALLY_STATUS clearing the overrun once its condition is gone (R485), RING_CFG with nothing pending (R477). -/
def Claims.HostRegistersWritten : Prop :=
  ∀ (s : State) (v : Word), s.testMode = false →
    (∀ ws, exec (.ledgerDoorbell ws (RegW.cw v)) s =
      .next { s with host := { slotWrites s.host ws with doorbell := v, waitBad := false } }) ∧
    (serialAbove v (s.host.next - 1) = false → ∃ t, exec (.tallySeen (RegW.cw v)) s = .next t ∧ { t with host := s.host } = s ∧
      t.host.tallySeen = v ∧ t.host.next = s.host.next ∧ t.host.oldest = s.host.oldest ∧ t.host.tally = s.host.tally ∧ t.host.pend = s.host.pend ∧
      (t.host.overrun = true ↔ s.host.overrun = true ∨ serialAbove s.host.oldest (v + 1) = true) ∧
      (s.host.overrun = false → serialAbove s.host.oldest (v + 1) = true → t.host.intStatus.getLsbD 3 = true) ∧
      (tallyHolds s.host = false → s.host.thresh ≠ 0 → s.host.thresh.toNat ≤ (s.host.next - 1 - v).toNat → t.host.intStatus.getLsbD 0 = true)) ∧
    (overrunCond s.host = false →
      exec (.tallyStatus { width := 4, val := 1 }) s = .next { s with host := { s.host with overrun := false } }) ∧
    (∀ t l : Nat, 12 ≤ t → t ≤ 15 → l ≤ 6 → v = BitVec.ofNat 32 (16 * t + l) → s.host.pend = [] → s.host.doorbell = s.host.accepted →
      ∃ u, exec (.ringCfg (RegW.cw v)) s = .next u ∧ { u with host := s.host } = s ∧
        u.host.slots = [] ∧ u.host.tally = [] ∧ u.host.oldest = s.host.next ∧
        u.host.tallyLog2.toNat = t ∧ u.host.ledgerLog2.toNat = l ∧ u.host.accepted = s.host.accepted ∧
        u.host.completed = s.host.completed ∧ u.host.next = s.host.next ∧ u.host.tallySeen = s.host.tallySeen)

/-- A CW write whose halves are no complements, a TALLY_SEEN write above NEXT - 1 (R485) and a RING_CFG write while a
command is pending (R477) are rejected (R488): the register keeps its value, REG_REJECTS counts, and the newest tally entry is
a REG_REJECT. -/
def Claims.RejectedWritesKeepTheRegister : Prop :=
  ∀ (s : State) (w : RegW) (c : Instr), s.testMode = false →
    (c = .ledgerDoorbell [] w ∨ c = .tallySeen w ∨ c = .ringCfg w ∨ c = .tbCtl w) →
    (cwOk w = false ∨ (c = .tallySeen w ∧ serialAbove (loW w) (s.host.next - 1) = true) ∨ (c = .ringCfg w ∧ s.host.pend ≠ [])) →
    ∃ t, exec c s = .next t ∧
      t.host.doorbell = s.host.doorbell ∧ t.host.tallySeen = s.host.tallySeen ∧ t.host.tallyLog2 = s.host.tallyLog2 ∧
        t.host.ledgerLog2 = s.host.ledgerLog2 ∧ t.host.slots = s.host.slots ∧ t.clk = s.clk ∧ t.gran = s.gran ∧
        t.host.rejects = satInc s.host.rejects ∧
        ∃ e, newest t = some e ∧ e.kind = kRegReject ∧ e.dseq = s.host.next ∧ e.utype = if w.stew then uSteward else uHost

/-- INT_MASK sends a message for each vector unmasked while its status bit is set; INT_STATUS is cleared by the bits
written; INT_TIME sets vector 0 while entries stay unread (R487). -/
def Obligations.InterruptCommands : Prop :=
  ∀ (s : State) (m : BitVec 4), s.testMode = false →
    (∃ t, exec (.intMask { width := 4, val := m.setWidth 64 }) s = .next t ∧ t.host.intMask = m ∧
      t.host.intStatus = s.host.intStatus ∧
      ∃ new, t.host.msgs = s.host.msgs ++ new ∧
        ∀ v : Fin 4, v.val ∈ new ↔ s.host.intMask.getLsbD v = true ∧ m.getLsbD v = false ∧ s.host.intStatus.getLsbD v = true) ∧
    exec (.registerWrite 0x1038 { width := 4, val := m.setWidth 64 }) s =
      .next { s with host := { s.host with intStatus := s.host.intStatus &&& ~~~m } } ∧
    (unread s.host ≠ 0 → s.host.timeUs ≠ 0 → tallyHolds s.host = false →
      ∃ t, exec .intTime s = .next t ∧ { t with host := s.host } = s ∧ t.host.timeUp = true ∧ t.host.intStatus = s.host.intStatus ||| 1#4 ∧
        t.host.msgs = s.host.msgs ++ (if s.host.intStatus.getLsbD 0 || s.host.intMask.getLsbD 0 then [] else [0]))

/-- MEM_CTL takes a LOAD_TO from 8 to 4,000 (14 R405), GLEAN_TAIL an entry the ring holds (12 R374), TB_CTL its fields
(19 R532), and a write to an unnamed or read-only offset does nothing (00 R12, R13). -/
def Claims.UnitRegistersWritten : Prop :=
  ∀ (s : State) (v : Word), s.testMode = false →
    (8 ≤ v.toNat → v.toNat ≤ 4000 → exec (.memCtl { width := 4, val := v.setWidth 64 }) s =
      .next { s with mem := { s.mem with loadTo := v.setWidth 12 } }) ∧
    (planRec s 0x05 0x04 0 = none → v.toNat < 65536 →
      (v.toNat + 65536 - s.glean.tail.toNat) % 65536 ≤ (s.glean.head.toNat + 65536 - s.glean.tail.toNat) % 65536 →
      exec (.gleanTail { width := 4, val := v.setWidth 64 }) s = .next { s with glean := { s.glean with tail := v.setWidth 16 } }) ∧
    exec (.tbCtl (RegW.cw v)) s = .next { s with clk := { s.clk with
      tbMaster := v.getLsbD 31, tickOutEn := v.getLsbD 30, allowStep := v.getLsbD 29
      armed := v.getLsbD 28 && !v.getLsbD 31, tickDelay := v.setWidth 16 } } ∧
    exec (.registerWrite 0x1010 { width := 4, val := v.setWidth 64 }) s = .next s ∧
    exec (.registerWrite 0x0 { width := 4, val := v.setWidth 64 }) s = .next s

/-- LEDGER_ACCEPT of a good slot: the command is accepted, listed as pending and the LEDGER vector set (R478, R479, R487); of
a slot that fails a check: LEDGER_BADS counts and the newest entry is a LEDGER_BAD, after which nothing is taken until the
doorbell is written. -/
def Claims.LedgerAcceptance : Prop :=
  ∀ (s : State) (e : List Byte), s.testMode = false → s.host.waitBad = false →
    serialAbove s.host.doorbell s.host.accepted = true → s.host.pend.length < 4096 →
    e = Mem.reads s.host.slots (slotOff s.host (s.host.accepted + 1)) 128 → leAt e 0 4 = (s.host.accepted + 1).toNat →
    (entryFault e = none → opKnown (entryOp e) = true → mayIssue (entryOp e) .operator = true → entryReserved e = false →
      ∃ t, exec .ledgerAccept s = .next t ∧ t.host.accepted = s.host.accepted + 1 ∧ t.host.gen = s.host.gen + 1 ∧
        t.host.pend = s.host.pend ++ [{ op := entryOp e, c := entryCmd .operator 0 e [] }] ∧
        t.host.intStatus = s.host.intStatus ||| 2#4 ∧ { t with host := s.host } = s) ∧
    (∀ r, entryFault e = some r →
      ∃ t u x, exec .ledgerAccept s = .next t ∧ t.host.bads = satInc s.host.bads ∧ t.host.accepted = s.host.accepted ∧
        t.host.pend = s.host.pend ∧ newest t = some x ∧ x.kind = kLedgerBad ∧ exec .ledgerAccept t = .next u ∧ u = t)

/-- A write through the BAR4 window to a slot that may be written lands there and makes it STAGED; to a locked slot it is
discarded and counted (09 R274, 17 R472). Every byte of the granary outside the write reads as before. -/
def Claims.WindowWrites : Prop :=
  ∀ (s : State) (off : BitVec 29) (bs : List Byte), s.live → loftUp s = true → off.toNat + bs.length ≤ 0x10000000 → bs ≠ [] →
    Memory.wf s.gran = true →
    (slotLocked s.plan.slot0 = false → ∃ t, exec (.bar4Write off bs) s = .next t ∧ t.plan = { s.plan with slot0 := .staged } ∧
      (∀ i (h : i < bs.length), Mem.read t.gran (0x3FC0000000 + off.toNat + i) = bs[i]) ∧
      (∀ a, a < 0x3FC0000000 + off.toNat ∨ 0x3FC0000000 + off.toNat + bs.length ≤ a → Mem.read t.gran a = Mem.read s.gran a) ∧
      { t with plan := s.plan, gran := s.gran } = s) ∧
    (slotLocked s.plan.slot0 = true →
      exec (.bar4Write off bs) s = .next { s with plan := { s.plan with lockedWrites := satInc s.plan.lockedWrites } })

/-! ## Commands and the tally -/

/-- R484: once NEXT - OLDEST equals the ring size each new entry overwrites the one at OLDEST, and OLDEST advances; before
that OLDEST stays. The entry has the DSEQ that NEXT held (Table 17-11). -/
def Obligations.TallyRing : Prop :=
  ∀ (s : State) (e : Entry), s.host.tally.length = (s.host.next - s.host.oldest).toNat →
    (s.host.next - s.host.oldest).toNat ≤ 2 ^ s.host.tallyLog2.toNat → s.host.tallyLog2 ≠ 0 →
    let t := tally s e
    t.host.next = s.host.next + 1 ∧ newest t = some (e.make s) ∧ (e.make s).dseq = s.host.next ∧
      t.host.tally.length = (t.host.next - t.host.oldest).toNat ∧
      (t.host.next - t.host.oldest).toNat ≤ 2 ^ s.host.tallyLog2.toNat ∧
      t.host.oldest = (if (s.host.next - s.host.oldest).toNat = 2 ^ s.host.tallyLog2.toNat then s.host.oldest + 1 else s.host.oldest)

/-- A command of the host completes once, with one entry that has CMD set and its HSEQ as reference; it leaves the pending
table, and COMPLETED stands just below the lowest command still pending (R479, R480). -/
def Claims.CommandsCompleteOnce : Prop :=
  ∀ (s : State) (c : Cmd) (op : Half) (st v0 v1 : Nat), c.auth = .operator →
    let t := cmdDone s c op st v0 v1
    (∃ e, newest t = some e ∧ e.kind = kCmdDone ∧ e.cmd = true ∧ e.ref = c.seq ∧ leAt e.body 0 1 = st % 256 ∧
      leAt e.body 2 2 = op.toNat ∧ leAt e.body 8 8 = v0 % 2 ^ 64 ∧ leAt e.body 16 8 = v1 % 2 ^ 64) ∧
      t.host.next = s.host.next + 1 ∧ t.host.pend = (s.host.pend.filter fun p => p.c.seq != c.seq) ∧
      (t.host.pend ≠ s.host.pend → t.host.completed = completedOf t.host ∧ t.host.gen = s.host.gen + 1) ∧
      t.gran = s.gran ∧ t.plan = s.plan ∧ t.clk = s.clk ∧ t.cellar = s.cellar ∧ t.fault = s.fault

/-- Commands of each opcode: the pairs of a command and the opcode it carries. -/
def commandOps (c : Cmd) : List (Instr × Half) :=
  [(.nop c, oNop), (.planStage c [] .done, oPlanStage), (.planWrite c, oPlanWrite), (.planValidate c, oPlanValidate),
   (.planCommit c, oPlanCommit), (.planCancel c, oPlanCancel), (.headlandArm c, oHeadlandArm), (.plotStart c .ok, oPlotStart),
   (.plotStop c, oPlotStop), (.updGroupWrite c, oUpdGroupWrite), (.rptWrite c, oRptWrite), (.rptRead c, oRptRead),
   (.memRequest c, oMemRequest), (.coachPut c, oCoachPut), (.coachGet c, oCoachGet), (.provHash c, oProvHash),
   (.furrowReset c, oFurrowReset), (.shareClearTorn c, oShareClearTorn), (.stageReset c, oStageReset),
   (.portRetrain c, oPortRetrain), (.sourceReset c, oSourceReset), (.hedgeAdd c, oHedgeAdd), (.admitOpen c, oAdmitOpen),
   (.yokePartner c, oYoke), (.yokeShadow c, oYoke), (.yokeEnd c, oYoke), (.admitNative c, oAdmit),
   (.admitCompatibility c, oAdmit), (.admitDirect c, oAdmit), (.selfTest c, oSelfTest), (.granaryReadmit c, oGranaryReadmit),
   (.yokeReport c, oYokeReport), (.keyLoadClear c, oKeyLoad), (.keyLoadWrapped c, oKeyLoad), (.keyErase c, oKeyErase),
   (.keyEraseAll c, oKeyEraseAll), (.regRead c, oRegRead), (.regWrite c none, oRegWrite), (.tallyRead c, oTallyRead),
   (.fwUpdate c true, oFwUpdate), (.warmReset c, oWarmReset), (.testEntry c, oTestEntry), (.dossierCapture c, oDossier),
   (.dossierRead c, oDossier)]

/-- R489: a command that the authority of its port may not issue completes with AUTHORITY, has no other effect on the units, and
is recorded in AUTH_LAST. -/
def Claims.AuthorityIsChecked : Prop :=
  ∀ (s : State) (c : Cmd) (i : Instr) (op : Half), (i, op) ∈ commandOps c → s.testMode = false → c.body.length = 100 →
    c.auth ≠ .none → mayIssue op c.auth = false →
      ∃ t, exec i s = .next t ∧ t = cmdDone s c op stAuthority ∧
        t.host.authLast = BitVec.ofNat 32 (c.auth.code * 2 ^ 28 + op.toNat) ∧
        t.gran = s.gran ∧ t.plan = s.plan ∧ t.plots = s.plots ∧ t.mem = s.mem ∧ t.cellar = s.cellar ∧ t.hedge = s.hedge ∧
        t.upd = s.upd ∧ t.stages = s.stages ∧ t.coll = s.coll ∧ t.ports = s.ports ∧ t.fault = s.fault ∧ t.recov = s.recov

/-- Register and tally access by command (R481, R492), and NOP (R480). REG_READ of DEV_REFRESH counts its waits first. -/
def Claims.AccessCommands : Prop :=
  ∀ (s : State) (c : Cmd), s.live →
    (c.passes oNop [] → exec (.nop c) s = .next (cmdDone s c oNop stOk)) ∧
    (c.passes oRegRead [(0, 4), (4, 1)] → regFormat c = true → c.u 0 4 / 8 ≠ 0x800 →
      exec (.regRead c) s = .next (cmdDone s c oRegRead stOk (readAccess s (c.u 0 4) (c.u 4 1)))) ∧
    (c.passes oRegWrite [(0, 4), (4, 1), (8, 8)] → regFormat c = true → c.u 0 4 = 0x1034 → c.u 4 1 = 4 →
      ∃ t, exec (.regWrite c none) s = .next (cmdDone t c oRegWrite stOk) ∧ t.host.intMask.toNat = c.u 8 8 % 16) ∧
    (c.passes oTallyRead [(0, 4), (4, 1)] → 1 ≤ c.u 4 1 → c.u 4 1 ≤ 60 →
      serialAbove s.host.oldest (BitVec.ofNat 32 (c.u 0 4)) = false →
      exec (.tallyRead c) s = .next (cmdDone s c oTallyRead stOk 0 0
        (((s.host.tally.drop (BitVec.ofNat 32 (c.u 0 4) - s.host.oldest).toNat).take (c.u 4 1)).flatMap Tally.bytes))) ∧
    (c.passes oTallyRead [(0, 4), (4, 1)] → 1 ≤ c.u 4 1 → c.u 4 1 ≤ 60 →
      serialAbove s.host.oldest (BitVec.ofNat 32 (c.u 0 4)) = true → exec (.tallyRead c) s = .next (cmdDone s c oTallyRead stSlotState))

/-! ## Resets, clocks and power -/

/-- COLD_RESET (R545, R494) ends a test mode and a FATAL fault and leaves every register of the device at its reset value; the
fused identity, the flash and the commands that wait outside the device are not its registers. -/
def Claims.ColdResetClears : Prop :=
  ∀ (s : State) (power : Bool), ∃ t, exec (.coldReset power) s = .next t ∧ t.testMode = false ∧ t.fault = {} ∧ t.host = {} ∧
    t.plan = {} ∧ t.plots = [] ∧ t.ports = [] ∧ t.mem = {} ∧ t.cellar = {} ∧ t.hedge = {} ∧ t.recov = [] ∧ t.gran = [] ∧
    t.stages = [] ∧ t.upd = {} ∧ t.coll = {} ∧ t.audit = {} ∧ t.yoke = {} ∧ t.part = s.part ∧ t.fw = s.fw ∧
    t.clk.powerOn = power ∧ t.clk.coldPin = !power ∧ t.clk.wasFatal = (s.fault.fatal && !power) ∧ t.clk.timebase = 0 ∧
    t.clk.readyAlmanac = false ∧ t.clk.readyReeves = false ∧ t.clk.readyGranary = false ∧ t.clk.readySteward = false

/-- WARM_RESET (R546): the command completes and the reset is due; when it begins, every unit is reset but the clocks,
TIMEBASE, the Steward's link and the flash go on, WARM_COUNT counts, and the fault counters keep counting. -/
def Claims.WarmReset : Prop :=
  (∀ (s : State) (c : Cmd), s.testMode = false → c.passes oWarmReset [] → s.dossier.busy = [] →
    exec (.warmReset c) s = .next (cmdDone { s with pins := { s.pins with warmPending := true } } c oWarmReset stOk)) ∧
  (∀ s : State, s.testMode = false → s.pins.warmPending = true →
    ∃ t, exec .warmResetBegin s = .next t ∧ t.fault.fatal = false ∧ t.fault.cntFatal = s.fault.cntFatal ∧
      t.fault.cntFenced = s.fault.cntFenced ∧ t.host = {} ∧ t.plots = [] ∧ t.mem = {} ∧ t.cellar = {} ∧ t.gran = [] ∧
      t.plan.cur = [] ∧ t.plan.commits = s.plan.commits ∧ t.clk.timebase = s.clk.timebase ∧ t.clk.pllLock = s.clk.pllLock ∧
      t.clk.warm = true ∧ t.clk.warmCount = s.clk.warmCount + 1 ∧ t.clk.wasFatal = s.fault.fatal ∧ t.pins.warmPending = false ∧
      t.stew.linkUp = s.stew.linkUp ∧ t.fw = s.fw ∧ t.part = s.part)

/-- The clock tree and its pins: PLL_LOCK (R526), COLD_RESET_RELEASE (R522, R545; still hot, it trips
again: R546), DIE_HOT (R539), TICK_OUT (R531), TICK_LOST
(R532), PERST_N (R493) and the Steward's link (R491). Each changes nothing but what it says. -/
def Claims.ClockAndPinEvents : Prop :=
  ∀ s : State, s.testMode = false →
    (s.pins.coldResetN = true → exec .pllLock s = .next { s with clk := { s.clk with pllLock := true, readyAlmanac := true } }) ∧
    (s.pins.coldResetN = false → ∀ cool, (s.pins.thermtrip = false ∨ cool = true) → exec (.coldResetRelease 0 cool) s = .next { s with
      pins := { s.pins with coldResetN := true, tmode := 0, thermtrip := false }
      clk := { s.clk with timebase := 0, rootFrac := 0 } }) ∧
    (s.pins.coldResetN = false → s.pins.thermtrip = true → s.fault.fatal = false → ∃ t, exec (.coldResetRelease 0 false) s = .next t ∧
      t.pins.coldResetN = true ∧ t.pins.thermtrip = true ∧ t.fault.fatal = true ∧ t.fault.fatalCode = fThermtrip ∧ t.clk.timebase = 0) ∧
    (∀ hot, exec (.dieHot 0 hot) s = .next { s with clk := { s.clk with hotW := hot } } ∧
      exec (.dieHot 1 hot) s = .next { s with clk := { s.clk with hotE := hot } }) ∧
    (s.clk.tbMaster = true → s.clk.tickOutEn = true →
      exec .tickOut s = .next { s with clk := { s.clk with tickOuts := s.clk.tickOuts + 1 } }) ∧
    (s.clk.tbMaster = false → exec .tickLost s = .next { s with clk := { s.clk with tickLost := true } }) ∧
    exec (.perstN true) s = .next { s with
      pins := { s.pins with perstN := false }
      host := { s.host with thresh := 0x40, timeUs := 0x10, timeUp := false, intMask := 0xF, intStatus := 0
                            resets := if s.pins.perstN then s.host.resets + 1 else s.host.resets } } ∧
    exec (.perstN false) s = .next { s with pins := { s.pins with perstN := true } } ∧
    (∀ fec, exec (.stewardLinkUp fec) s = .next { s with
      stew := { s.stew with linkUp := true, fec }, clk := { s.clk with readySteward := true } }) ∧
    exec .stewardLinkDown s = .next { s with stew := { s.stew with linkUp := false, fec := false } }

/-- A TICK_IN edge at an armed device (R532): the error is TB_NEXT + TICK_DELAY - TIMEBASE; TB_NEXT moves one period on; TB_LAST_ERR
holds the error; within 100 ns twice running the device is LOCKED, beyond 100 ns it is not; TIMEBASE jumps only over 1 microsecond
with ALLOW_STEP, and is slewed otherwise. -/
def Claims.TickInDisciplinesTheTimebase : Prop :=
  ∀ (s : State) (err : Int), s.testMode = false → s.clk.tbMaster = false → s.pins.coldResetN = true → s.clk.armed = true →
    err = ((s.clk.tbNext.toNat + s.clk.tickDelay.toNat : Nat) : Int) - (s.clk.timebase.toNat : Int) →
    ∃ t, exec .tickIn s = .next t ∧ { t with clk := s.clk } = s ∧ t.clk.ticks = s.clk.ticks + 1 ∧ t.clk.tickLost = false ∧
      t.clk.lastErr = err ∧ t.clk.tbNext = s.clk.tbNext + BitVec.ofNat 64 (s.clk.tbPeriod.toNat * 1000) ∧
      ((err < -100 ∨ 100 < err) → t.clk.locked = false ∧ t.clk.goodEdges = 0) ∧
      (-100 ≤ err → err ≤ 100 → 1 ≤ s.clk.goodEdges → t.clk.locked = true) ∧
      (1000 < err → s.clk.allowStep = true → t.clk.timebase = s.clk.timebase + BitVec.ofNat 64 err.toNat ∧ t.clk.slew = 0) ∧
      ((err ≤ 1000 ∨ s.clk.allowStep = false) → t.clk.timebase = s.clk.timebase ∧ t.clk.slew = err)

/-- The governor (R540, Table 19-4): a sample is recorded; in BOOST mode above the cap or at 105 degrees the divisor steps towards
the slowest one allowed and THROTTLE_EVENTS counts. AVS_STEP (R541, 20 R553) moves a rail by at most 10 mV and keeps it from 0.60
to 0.80 V, and a rail whose regulator does not acknowledge stands. The setpoints themselves are free values (the log of AVS). -/
def Claims.GovernorAndVoltage : Prop :=
  ∀ (s : State) (watts : Half) (tw te th : Byte), s.testMode = false →
    (∀ backed, s.clk.mode ≠ 1 → exec (.governorSample watts tw te th backed) s =
      .next { s with clk := { s.clk with pkgPower := watts, tempW := tw, tempE := te, tempH := th } }) ∧
    (∀ backed, s.clk.mode = 1 → (powerSet s 3 < watts.toNat ∨ 105 ≤ tw.toNat ∨ 105 ≤ te.toNat) →
      s.clk.tclkDiv.toNat < powerSet s 2 →
      ∃ t, exec (.governorSample watts tw te th backed) s = .next t ∧ t.clk.tclkDiv = s.clk.tclkDiv + 1 ∧
        t.clk.throttle = satInc s.clk.throttle ∧ t.clk.coolSamples = 0 ∧ t.clk.pkgPower = watts ∧ { t with clk := s.clk } = s) ∧
    (∀ ackW ackE, s.clk.readyReeves = true → 6000 ≤ s.clk.vddW → s.clk.vddW ≤ 8000 →
      ∃ t, exec (.avsStep ackW ackE) s = .next t ∧ 6000 ≤ t.clk.vddW ∧ t.clk.vddW ≤ 8000 ∧
        t.clk.vddW ≤ s.clk.vddW + 100 ∧ s.clk.vddW ≤ t.clk.vddW + 100 ∧ (ackW = false → t.clk.vddW = s.clk.vddW) ∧
        (ackE = false → t.clk.vddE = s.clk.vddE) ∧ t.clk.tclkDiv = s.clk.tclkDiv)

/-- REEVE_BOOT (R546 to R548): the Reeves boot the bank marked bootable when its signature verifies, else the other one; with neither
a Reeve halts, which is FATAL (18 R502). -/
def Claims.ReeveBoot : Prop :=
  ∀ (s : State) (ok0 ok1 : Bool) (die : Fin 2), s.testMode = false → s.clk.readyReeves = false →
    let want := s.fw.boot != s.fw.marked
    let ok (b : Bool) : Bool := if b then ok1 else ok0
    (ok want = true → ∃ t, exec (.reeveBoot ok0 ok1 die) s = .next t ∧ t.clk.readyReeves = true ∧ t.clk.bootBank = want ∧
      t.fw.boot = want ∧ t.fw.marked = false ∧ t.fault = s.fault ∧ t.host = s.host) ∧
    (ok want = false → ok (!want) = true → ∃ t, exec (.reeveBoot ok0 ok1 die) s = .next t ∧ t.clk.readyReeves = true ∧
      t.clk.bootBank = !want) ∧
    (ok0 = false → ok1 = false → ∃ t, exec (.reeveBoot ok0 ok1 die) s = .next t ∧ t.fault.fatal = true ∧ t.clk.readyReeves = false)

/-- The events that raise a FATAL fault, and its code (18 Table 18-1). -/
def fatalEvents (die : Fin 2) : List (Instr × Half) :=
  [(.thermtrip, fThermtrip), (.pwrgdLost, fPwrgdLost), (.pllUnlock, fPllUnlock), (.bridgeDown, fBridgeDown), (.reeveHalt die, fReeveHalt)]

/-- A FATAL fault sets FAULT_SUMMARY.FATAL, records the code of the first one in FATAL_CODE, counts in CNT_FATAL and the
FAULT_LAST registers name it; FAULT_N is asserted (R502, R503). -/
def Claims.FatalEvents : Prop :=
  ∀ (s : State) (die : Fin 2) (i : Instr) (code : Half), (i, code) ∈ fatalEvents die → s.live → s.pins.coldResetN = true →
    s.pins.thermtrip = false → s.clk.pllLock = true →
      ∃ t, exec i s = .next t ∧ t.fault.fatal = true ∧ t.fault.fatalCode = code ∧ t.fault.cntFatal = satInc s.fault.cntFatal ∧
        t.fault.lastCode = code ∧ faultN t = true ∧ t.plan = s.plan ∧ t.hedge = s.hedge ∧ t.recov = s.recov

/-- The commands that may end the FATAL state (R502). -/
def leavesFatal : Instr → Bool
  | .coldReset _ => true
  | .warmResetBegin => true
  | _ => false

/-- R502: only a cold reset, or WARM_RESET from the Steward, leaves the FATAL state; until then FATAL_CODE stands and no plot, stage,
port, collective, share or memory unit of a device out of cold reset changes but by the loss of power that THERMTRIP brings and the LOAD_TO
register. -/
def Claims.FatalUntilReset : Prop :=
  ∀ (c : Instr) (s t : State), s.fault.fatal = true → leavesFatal c = false → exec c s = .next t →
    t.fault.fatal = true ∧ t.fault.fatalCode = s.fault.fatalCode ∧
      (s.pins.coldResetN = true → c ≠ .thermtrip → t.plots = s.plots ∧ t.stages = s.stages ∧ t.ports = s.ports ∧ t.coll = s.coll ∧ t.upd = s.upd ∧
        t.gran = s.gran ∧ t.cellar = s.cellar ∧ t.hedge = s.hedge ∧ { t.mem with loadTo := s.mem.loadTo } = s.mem)

/-- R521: a test mode ends only at a cold reset. Until then the model answers every other command with the refusal testMode (what a test
mode does lies outside the manual). TEST_ENTRY is the Steward's, and erases every key slot first. -/
def Claims.TestMode : Prop :=
  (∀ (c : Instr) (s : State), s.testMode = true → (∀ p, c ≠ .coldReset p) → exec c s = .refused .testMode) ∧
  (∀ (s : State) (c : Cmd), s.live → c.passes oTestEntry [] → ∃ t, exec (.testEntry c) s = .next t ∧ t.testMode = true ∧
    t.cellar.slots = [] ∧ c.auth = .owner ∧ t.gran = s.gran ∧ t.plan = s.plan)

/-! ## Granary controllers -/

/-- GRANARY_READY (19 R544), GRANARY_FAIL (18 R501), GRANARY_READMIT and its end (18 R510), STACK_CASE_TEMPERATURE (20 R568). -/
def Obligations.GranaryControllers : Prop :=
  ∀ (s : State) (k : Fin 4), s.live →
    (s.clk.readyGranary = false → ∃ t, exec .granaryReady s = .next t ∧ t.gran = [] ∧ t.clk.readyGranary = true ∧ t.plan = s.plan) ∧
    (∀ hot, ∃ t, exec (.stackCaseTemperature k hot) s = .next t ∧
      (Tab.get {} t.granCtl k.val).doubled = hot ∧ { t with granCtl := s.granCtl } = s) ∧
    ((Tab.get {} s.granCtl k.val).fenced = false → ∃ t, exec (.granaryFail k) s = .next t ∧
      (Tab.get {} t.granCtl k.val).fenced = true ∧ t.fault.fenced = true ∧ s.fault.cntFenced.toNat ≤ t.fault.cntFenced.toNat ∧
      t.gran = s.gran ∧ faultN t = true) ∧
    (∀ c : Cmd, c.passes oGranaryReadmit [(0, 1)] → c.u 0 1 = k.val → (Tab.get {} s.granCtl k.val).fenced = true →
      rank s (Tab.get {} s.recov (objKey 10 k.val)) c = .applied →
      ∃ t, exec (.granaryReadmit c) s = .next t ∧ (Tab.get {} t.granCtl k.val).readmit = (Tab.get {} s.granCtl k.val).readmit ++ [c] ∧
        (Tab.get {} t.granCtl k.val).fenced = true ∧ t.gran = s.gran ∧ t.host = s.host) ∧
    (∀ c rest, (Tab.get {} s.granCtl k.val).readmit = c :: rest →
      ∃ t, exec (.granaryReadmitDone k) s = .next t ∧ (Tab.get {} t.granCtl k.val).fenced = false ∧
        (∀ a, k.val * 2 ^ 36 ≤ a → a < (k.val + 1) * 2 ^ 36 → Mem.read t.gran a = 0) ∧
        (∀ a, a < k.val * 2 ^ 36 ∨ (k.val + 1) * 2 ^ 36 ≤ a → Mem.read t.gran a = Mem.read s.gran a))

/-! ## Recovery commands -/

/-- R490: how a command stands to the key and body kept for its object: first one, higher epoch, higher authority or lower device ID
apply; an equal key repeats with the same body and conflicts with another; a lower epoch is stale, a lower rank outranked. -/
def Claims.RecoveryRanking : Prop :=
  ∀ (s : State) (k : Kept) (c : Cmd),
    (k.valid = false → rank s k c = .applied) ∧
    (k.valid = true → serialAbove c.epoch k.epoch = true → rank s k c = .applied) ∧
    (k.valid = true → serialAbove c.epoch k.epoch = false → c.epoch ≠ k.epoch → rank s k c = .refusedWith stStaleEpoch) ∧
    (k.valid = true → c.epoch = k.epoch → k.auth.code < c.auth.code → rank s k c = .applied) ∧
    (k.valid = true → c.epoch = k.epoch → c.auth.code < k.auth.code → rank s k c = .refusedWith stOutranked) ∧
    (k.valid = true → c.epoch = k.epoch → c.auth.code = k.auth.code → (rankDev s c).toNat < k.dev.toNat → rank s k c = .applied) ∧
    (k.valid = true → c.epoch = k.epoch → c.auth.code = k.auth.code → k.dev.toNat < (rankDev s c).toNat →
      rank s k c = .refusedWith stOutranked) ∧
    (k.valid = true → c.epoch = k.epoch → c.auth.code = k.auth.code → rankDev s c = k.dev → c.body = k.body → rank s k c = .same) ∧
    (k.valid = true → c.epoch = k.epoch → c.auth.code = k.auth.code → rankDev s c = k.dev → c.body ≠ k.body →
      rank s k c = .refusedWith stConflict)

/-- The recovery objects that a command of the table settles against, its field in the completion, and its unit. -/
def recoveryObject (c : Cmd) : List (Instr × Half × List (Nat × Nat) × Nat × BitVec 4 × Nat × Nat) :=
  [(.portRetrain c, oPortRetrain, [(0, 2)], objKey 7 (c.u 0 2), uPort, c.u 0 2, c.u 0 2),
   (.stageReset c, oStageReset, [(0, 1)], objKey 3 (c.u 0 1), uStage, c.u 0 1, c.u 0 1),
   (.sourceReset c, oSourceReset, [(0, 2), (4, 3), (8, 4)], 2 ^ 36 + srcKey (c.u 0 2) (c.u 4 3), uField, c.u 0 2, c.u 0 2),
   (.furrowReset c, oFurrowReset, [(0, 1), (1, 1), (2, 2), (8, 8)], objKey 1 (c.u 0 1), uDevice, 0, c.u 0 1)]

/-- A recovery command whose key is not above the kept one has no effect: it completes with what R490 says, and a repeat with OK
(R490, R511). -/
def Claims.RecoveryRepeatsAndRefusals : Prop :=
  ∀ (s : State) (c : Cmd) (i : Instr) (op : Half) (fmt : List (Nat × Nat)) (obj : Nat) (ut : BitVec 4) (unit field : Nat),
    (i, op, fmt, obj, ut, unit, field) ∈ recoveryObject c → s.live → c.passes op fmt →
    (c.u 0 2 < 1024 ∧ (i = .stageReset c → c.u 0 1 < 24) ∧ (i = .furrowReset c → c.u 0 1 < 32 ∧ c.u 1 1 < 2)) →
      (rank s (Tab.get {} s.recov obj) c = .same → exec i s = .next (recoveryDone s c op ut unit stOk field)) ∧
      (∀ st, rank s (Tab.get {} s.recov obj) c = .refusedWith st → exec i s = .next (recoveryDone s c op ut unit st field))

/-- The effects of recovery commands that apply: PORT_RETRAIN trains a FENCED port (10 R317), STAGE_RESET ends the fence and the job
of a stage (08 R261), SOURCE_RESET raises a floor and zeroes the source's counts (14 R421), FURROW_RESET ends the furrow's fence and
starts its nodes afresh (03 R90), SHARE_CLEAR_TORN clears TORN (04 R135). Key and body are kept, and EPOCH_MAX follows (18 R505). -/
def Claims.RecoveryEffects : Prop :=
  ∀ (s : State) (c : Cmd), s.live →
    (∀ n, n = c.u 0 2 → n < 1024 → c.passes oPortRetrain [(0, 2)] → (port s n).st = .fenced →
      rank s (Tab.get {} s.recov (objKey 7 n)) c = .applied →
      ∃ t, exec (.portRetrain c) s = .next (recoveryDone t c oPortRetrain uPort n stOk n) ∧ (port t n).st = .training ∧
        (port t n).txSeq = 0 ∧ (port t n).attempts = (port s n).attempts ∧
        Tab.get {} t.recov (objKey 7 n) = { valid := true, epoch := c.epoch, auth := c.auth, dev := rankDev s c, body := c.body } ∧
        t.fault.epochMax = (if serialAbove c.epoch s.fault.epochMax then c.epoch else s.fault.epochMax)) ∧
    (∀ n, n = c.u 0 1 → n < 24 → c.passes oStageReset [(0, 1)] →
      rank s (Tab.get {} s.recov (objKey 3 n)) c = .applied →
      ((stage s n).fenced = true ∨ (Tab.get {} s.recov (objKey 3 n)).valid = false ∨ (Tab.get {} s.recov (objKey 3 n)).epoch ≠ c.epoch) →
      ∃ t, exec (.stageReset c) s = .next (recoveryDone t c oStageReset uStage n stOk n) ∧ (stage t n).fenced = false ∧
        (stage t n).running = false ∧ (stage t n).srcs = [] ∧ (stage t n).jobs = 0 ∧ (stage t n).lastFault = (stage s n).lastFault ∧
        t.gran = s.gran) ∧
    (∀ f o, f = c.u 0 2 → o = c.u 4 3 → f < 1024 → c.passes oSourceReset [(0, 2), (4, 3), (8, 4)] →
      rank s (Tab.get {} s.recov (2 ^ 36 + srcKey f o)) c = .applied → (srcSt s f o).floor = none → pendingOf s f o = [] →
      ∃ t, exec (.sourceReset c) s = .next (recoveryDone t c oSourceReset uField f stOk f) ∧
        (srcSt t f o).floor = some (BitVec.ofNat 32 (c.u 8 4)) ∧ (srcSt t f o).cnt0 = 0 ∧ (srcSt t f o).cnt1 = 0 ∧
        t.mem.replay = s.mem.replay ∧ t.delivered = s.delivered ∧ t.gran = s.gran) ∧
    (∀ f, f = c.u 0 1 → f < 32 → c.u 1 1 = 0 → c.passes oFurrowReset [(0, 1), (1, 1), (2, 2), (8, 8)] →
      rank s (Tab.get {} s.recov (objKey 1 f)) c = .applied →
      ∃ t, exec (.furrowReset c) s = .next (recoveryDone t c oFurrowReset uDevice 0 stOk f) ∧ f ∉ t.coll.fenced ∧
        (∀ g, g ≠ f → (g ∈ t.coll.fenced ↔ g ∈ s.coll.fenced)) ∧ t.coll.resets = s.coll.resets ∧ t.plots = s.plots ∧
        t.gran = s.gran) ∧
    (∀ n, n = c.u 0 1 → c.passes oShareClearTorn [(0, 1)] → shareDefined s n = true →
      rank s (Tab.get {} s.recov (objKey 2 n)) c = .applied →
      ∃ t, exec (.shareClearTorn c) s = .next (recoveryDone t c oShareClearTorn uUpdate n stOk n) ∧ (shareSt t n).torn = false ∧
        ((shareSt s n).torn = true → (shareSt t n).barred = true) ∧ (shareSt t n).lost = (shareSt s n).lost ∧ t.gran = s.gran)

/-- R506: a hedge state replaces a held one when its epoch is serially higher, or equal and its state ranks above in the order HEDGED,
LIFTED, OPEN; otherwise the entry stands and nothing else happens. A replaced device entry is forwarded and recorded in a HEDGE entry, repeated
when the device originated it (R507), and what follows from a change of hedges is settled after it. -/
def Obligations.HedgeMerging : Prop :=
  ∀ (s : State) (d : BitVec 14) (orig : Bool) (st : HState) (epoch : Word) (h cause origin : Nat) (body : List Byte),
    (supersedes st epoch (devEntry s d.toNat) = true ↔
      serialAbove epoch (devEntry s d.toNat).epoch = true ∨
        (epoch = (devEntry s d.toNat).epoch ∧ HState.rank (devEntry s d.toNat).st < HState.rank st)) ∧
    (supersedes st epoch (devEntry s d.toNat) = false → applyNotice s none orig (devTarget d.toNat) st epoch h cause origin body = s) ∧
    (supersedes st epoch (devEntry s d.toNat) = true →
      ∃ u, applyNotice s none orig (devTarget d.toNat) st epoch h cause origin body = afterHedge s u ∧
        devEntry u d.toNat = { st, epoch, cause := BitVec.ofNat 16 cause, pend := if st = .lifted then some (BitVec.ofNat 64 h) else none, body } ∧
        u.hedge.ep = s.hedge.ep ∧ u.hedge.loc = s.hedge.loc ∧
        (∃ e, newest u = some e ∧ e.kind = kHedge ∧ leAt e.body 0 4 = devTarget d.toNat ∧ leAt e.body 8 4 = epoch.toNat) ∧
        u.fault.epochMax = (if serialAbove epoch s.fault.epochMax then epoch else s.fault.epochMax) ∧
        u.hedge.repeats.length = s.hedge.repeats.length + orig.toNat ∧ u.plots = s.plots ∧ u.gran = s.gran ∧ u.ingress = s.ingress ∧
        ∀ n, (port u n).st = (port s n).st)

/-- HEDGE_ADD, ADMIT_OPEN and the three paths of ADMIT (R509, R510, R515): the target takes the new state at the command's epoch, and the
command completes with RECOVERY_DONE. NATIVE needs the yoke's clean steps, COMPATIBILITY a self-test of this device in which no used unit
failed, DIRECT an UP port. -/
def Claims.HedgeCommands : Prop :=
  ∀ (s : State) (c : Cmd) (t : Nat), s.live → t = c.u 0 4 → linkOk s t = true →
    (c.passes oHedgeAdd [(0, 4)] → targetOk [0, 1, 2] t = true → serialAbove (targetEntry s t).epoch c.epoch = false →
      exec (.hedgeAdd c) s =
        .next (recoveryDone (setTarget s t .hedged c.epoch 0 oHedgeAdd c.body) c oHedgeAdd uDevice 0 stOk t)) ∧
    (c.passes oHedgeAdd [(0, 4)] → targetOk [0, 1, 2] t = true → serialAbove (targetEntry s t).epoch c.epoch = true →
      exec (.hedgeAdd c) s = .next (recoveryDone s c oHedgeAdd uDevice 0 stStaleEpoch t)) ∧
    (c.passes oAdmitOpen [(0, 4)] → targetOk [0] t = true → serialAbove c.epoch (targetEntry s t).epoch = true →
      exec (.admitOpen c) s =
        .next (recoveryDone (setTarget s t .opened c.epoch 0 oAdmitOpen c.body) c oAdmitOpen uDevice 0 stOk t)) ∧
    (c.passes oAdmit [(0, 4), (4, 1), (8, 8)] → targetOk [0, 1, 2] t = true → now s < c.u 8 8 →
      serialAbove (targetEntry s t).epoch c.epoch = false →
      (c.u 4 1 = 0 → tgtKind t = 0 → (targetEntry s t).st = .opened → (targetEntry s t).epoch = c.epoch → s.yoke.role = .partner →
        s.yoke.other.toNat = bits t 23 10 → s.yoke.k ≤ s.yoke.cleanSteps →
        exec (.admitNative c) s =
          .next (recoveryDone (setTarget s t .lifted c.epoch (c.u 8 8) oAdmit c.body) c oAdmit uDevice 0 stOk t)) ∧
      (c.u 4 1 = 1 → tgtKind t = 0 → (targetEntry s t).st = .opened → (targetEntry s t).epoch = c.epoch →
        bits t 23 10 = s.plan.deviceId.toNat → s.selfTest.done = true → (∀ n ∈ usedUnits s, s.selfTest.failed.getLsbD n = false) →
        exec (.admitCompatibility c) s =
          .next (recoveryDone (setTarget s t .lifted c.epoch (c.u 8 8) oAdmit c.body) c oAdmit uDevice 0 stOk t)) ∧
      (c.u 4 1 = 2 → tgtKind t = 2 → (targetEntry s t).epoch ≠ c.epoch → (port s (bits t 9 0)).st = .up →
        exec (.admitDirect c) s =
          .next (recoveryDone (setTarget s t .lifted c.epoch (c.u 8 8) oAdmit c.body) c oAdmit uDevice 0 stOk t)))

/-- Beacons and notices (R504, R507): BEACON_SEND counts one silent period for every peer whose counter runs and starts those of new
peers, MGT_BEACON of the peer
behind the port ends its silence, BEACON_LOST after 16 silent periods raises the fault once and hedges the device, MGT_HEDGE merges a notice, HEDGE_REPEAT sends the
oldest repeat. -/
def Claims.BeaconsAndNotices : Prop :=
  ∀ s : State, s.live →
    (∃ t, exec .beaconSend s = .next t ∧ t.hedge.dev = s.hedge.dev ∧ t.plots = s.plots ∧
      t.hedge.beacons = (s.hedge.beacons.map fun b => if b.idle then b else { b with silent := b.silent + 1 }) ++
        (newPeers s).map fun d => { device := BitVec.ofNat 14 d, silent := 0, idle := false, mismatches := 0 }) ∧
    (∀ (n : BitVec 10) (p : Pkt) (d : BitVec 14), p.whole → d.toNat = leAt p.payload 0 2 → n.toNat ∈ devicePorts s →
      peerDevice s n.toNat = some d.toNat → leAt p.payload 16 4 = (hsetCrc s).toNat →
      ∃ t, exec (.mgtBeacon n p) s = .next t ∧ t.hedge.dev = s.hedge.dev ∧
        (∃ b ∈ t.hedge.beacons, b.device = d ∧ b.silent = 0 ∧ b.idle = false ∧ b.mismatches = 0) ∧
        t.delivered = s.delivered.eraseP fun x => x.p == p) ∧
    (∀ (d : BitVec 14) (b : Beacon), (s.hedge.beacons.find? fun b => b.device == d) = some b → b.idle = false → 16 ≤ b.silent →
      ∃ u, exec (.beaconLost d) s = .next (raiseHedge (raiseAt u fBeaconLost uDevice 0 d.toNat 0) (devTarget d.toNat) fBeaconLost.toNat) ∧
        (∀ x ∈ u.hedge.beacons, x.device = d → x.idle = true) ∧ { u with hedge := s.hedge } = s) ∧
    (∀ (n : BitVec 10) (p : Pkt), p.whole → n.toNat ∈ devicePorts s → leAt p.payload 0 4 < 2 ^ 31 →
      bits (leAt p.payload 0 4) 23 10 ≠ 16383 → leAt p.payload 4 1 = 0 →
      exec (.mgtHedge n p) s = .next (applyNotice (Sys2Proof.Machine.take s p) (some n.toNat) false (leAt p.payload 0 4) .hedged
        (BitVec.ofNat 32 (leAt p.payload 8 4)) (leAt p.payload 16 8) (leAt p.payload 6 2) (leAt p.payload 12 2) [])) ∧
    (∀ (r : Notice) (rs : List Notice), s.hedge.repeats = r :: rs →
      ∃ t, exec .hedgeRepeat s = .next t ∧ t.hedge.dev = s.hedge.dev ∧ t.hedge.repeats =
        (if r.left ≤ 1 then rs else rs ++ [{ r with left := r.left - 1 }]) ∧
        ((devicePorts s).Nodup → (∀ n ∈ devicePorts s, 1 ≤ Tab.get 0 (port s n).credits 0) →
          t.outq.length = s.outq.length + (devicePorts s).length))

/-- YOKE (R513): an applied command sets ROLE, OTHER, K, START and the pairs, or ends the yoke; YOKE_REPORT (R514) of the shadow is kept
until the step it reports closes here, and a report for the step that waits is judged at once: equal CRCs count a clean step. -/
def Claims.YokeCommands : Prop :=
  ∀ (s : State) (c : Cmd), s.live →
    (∀ code role, (code = 1 ∧ role = Role.partner) ∨ (code = 2 ∧ role = Role.shadow) →
      c.passes oYoke [(0, 1), (2, 2), (4, 2), (8, 8), (16, 16)] → c.u 0 1 = code → c.u 2 2 < 16383 → 1 ≤ c.u 4 2 → now s < c.u 8 8 →
      rank s (Tab.get {} s.recov (objKey 9 0)) c = .applied →
      ∃ t, exec (if code = 1 then .yokePartner c else .yokeShadow c) s =
          .next (recoveryDone t c oYoke uDevice 0 stOk (devTarget (c.u 2 2))) ∧
        t.yoke.role = role ∧ t.yoke.other.toNat = c.u 2 2 ∧ t.yoke.k.toNat = c.u 4 2 ∧ t.yoke.start.toNat = c.u 8 8 ∧
        t.yoke.cleanSteps = 0 ∧ t.upd = s.upd ∧ t.gran = s.gran) ∧
    (c.passes oYoke [(0, 1), (2, 2), (4, 2), (8, 8), (16, 16)] → c.u 0 1 = 0 → c.u 2 2 < 16383 →
      rank s (Tab.get {} s.recov (objKey 9 0)) c = .applied →
      ∃ t, exec (.yokeEnd c) s = .next (recoveryDone t c oYoke uDevice 0 stOk (devTarget (c.u 2 2))) ∧ t.yoke = {} ∧ t.upd = s.upd) ∧
    (c.passes oYokeReport [(0, 8), (8, 1), (16, 64)] → c.u 8 1 < 4 → s.yoke.role = .partner → devOf c.src = s.yoke.other.toNat →
      (s.yoke.wait = none → ∃ t, exec (.yokeReport c) s =
        .next (recoveryDone t c oYokeReport uDevice 0 stOk (devTarget (devOf c.src))) ∧ t.yoke.cleanSteps = s.yoke.cleanSteps ∧
        ∃ crcs, t.yoke.report = some (c.u 0 8, decide (c.u 8 1 ≠ 0), crcs)) ∧
      (∀ mine, s.yoke.wait = some (c.u 0 8, false, mine) → c.u 8 1 = 0 →
        (∀ i (hi : i < mine.length), i < 8 ∧ mine[i].toNat = c.u (16 + 8 * i) 8) →
        ∃ t, exec (.yokeReport c) s = .next (recoveryDone t c oYokeReport uDevice 0 stOk (devTarget (devOf c.src))) ∧
          t.yoke.cleanSteps = satInc s.yoke.cleanSteps ∧ t.yoke.wait = none ∧ t.fault.cntContained = s.fault.cntContained ∧
          ∃ e, newest t = some e ∧ e.kind = kYokeStep ∧ e.fault = 0))

/-- SELF_TEST (R516): only without a plan; it is ranked, and its units' domains are in TEST (19 Table 19-2). SELFTEST_DONE ends it: the
results stand in SELFTEST and the command completes; units not tested cannot fail. -/
def Claims.SelfTests : Prop :=
  ∀ (s : State) (c : Cmd), s.live →
    (c.passes oSelfTest [(0, 4)] → c.u 0 4 < 128 → s.plan.planned = true →
      exec (.selfTest c) s = .next (cmdDone s c oSelfTest stUnitState)) ∧
    (c.passes oSelfTest [(0, 4)] → c.u 0 4 < 128 → s.plan.planned = false → s.selfTest.running = [] →
      rank s (Tab.get {} s.recov (objKey 8 0)) c = .applied →
      ∃ t, exec (.selfTest c) s = .next t ∧ t.selfTest.running = [c] ∧ t.host = s.host ∧ t.gran = s.gran ∧
        (∀ d ∈ testedDomains s c, (domain t d).st = .test)) ∧
    (∀ failed, s.selfTest.running = [c] → c.auth = .owner →
      ∃ t, exec (.selftestDone failed) s = .next t ∧ t.selfTest.running = [] ∧ t.selfTest.done = true ∧
        t.selfTest.tested = BitVec.ofNat 7 (c.u 0 4) ∧ t.selfTest.failed = failed &&& BitVec.ofNat 7 (c.u 0 4) ∧
        ∃ e, newest t = some e ∧ e.kind = kSelftestDone ∧ e.ref = c.seq ∧
          e.fault = (if failed &&& BitVec.ofNat 7 (c.u 0 4) = 0 then 0 else fSelftestFail))

/-! ## The Steward's commands and frames -/

/-- FW_UPDATE (R548): a chunk lands in the bank that does not boot, which is marked only by a last chunk whose signature verifies; a bank
that boots is never written. DOSSIER (R523): a capture begins, ends with its length in DOSSIER and its completion, and is read in pieces. -/
def Claims.FirmwareAndDossiers : Prop :=
  ∀ (s : State) (c : Cmd), s.live →
    (∀ sigOk, c.passes oFwUpdate [(0, 4), (4, 2), (6, 1)] → c.u 0 4 % 256 = 0 → c.u 4 2 % 256 = 0 → 256 ≤ c.u 4 2 → c.u 4 2 ≤ 3840 →
      c.u 6 1 < 2 → c.data.length = c.u 4 2 → c.u 0 4 + c.u 4 2 ≤ 2 ^ 24 →
      ∃ f : Fw, exec (.fwUpdate c sigOk) s =
          .next (cmdDone { s with fw := f } c oFwUpdate (if c.u 6 1 = 1 ∧ sigOk = false then stFormat else stOk)) ∧
        f.boot = s.fw.boot ∧ f.bank s.fw.boot = s.fw.bank s.fw.boot ∧ f.bank (!s.fw.boot) = Mem.writes (s.fw.bank (!s.fw.boot)) (c.u 0 4) c.data ∧
        (f.marked = true ↔ c.u 6 1 = 1 ∧ sigOk = true)) ∧
    (c.passes oDossier dossierFields → c.u 0 1 = 0 → exec (.dossierCapture c) s =
      .next { s with dossier := { s.dossier with busy := s.dossier.busy ++ [c] } }) ∧
    (∀ rest, s.dossier.busy = c :: rest → c.auth = .owner →
      ∃ t, exec .dossierDone s = .next t ∧ t.dossier.busy = rest ∧ t.dossier.valid = true ∧ t.dossier.capture = s.dossier.capture + 1 ∧
        t.dossier.size.toNat ≤ 2 ^ 24 ∧ (∃ e, newest t = some e ∧ e.kind = kDossierDone ∧ e.ref = c.seq) ∧ t.gran = s.gran) ∧
    (c.passes oDossier dossierFields → c.u 0 1 = 1 → 1 ≤ c.u 8 2 → c.u 8 2 ≤ 3840 → s.dossier.valid = true →
      c.u 4 4 + c.u 8 2 ≤ s.dossier.size.toNat →
      ∃ data, exec (.dossierRead c) s = .next (cmdDone s c oDossier stOk 0 0 data) ∧ data.length = c.u 8 2 ∧
        ∀ i (h : i < data.length), data[i] = Config.dossierByte s.dossier.capture (c.u 4 4 + i))

/-- MGT_CMD (R491, R492, 18 R510): a good frame of the Steward runs its command once, under OWNER, and a repeat of a completed SSEQ is
answered from the kept completions and runs nothing; a PEER frame runs its command under PEER. MGT_RESP ends a FURROW_RESET's resends. -/
def Claims.ManagementFrames : Prop :=
  ∀ (s : State) (p : Pkt) (mac : BitVec 48) (port : BitVec 10) (c : Cmd), s.live → p.whole →
    (stewFrameOk s p = true → entryFault (p.payload.take 128) = none →
      c = entryCmd .owner 0 (p.payload.take 128) (p.payload.drop 128) → entryOp (p.payload.take 128) = oNop →
      entryReserved (p.payload.take 128) = false → c.passes oNop [] → (s.stew.running.any fun r => r.1 == c.seq) = false →
      ((s.stew.kept.find? fun r => r.seq == c.seq) = none →
        exec (.mgtCmd true port mac p true) s = .next (cmdDone { s with
          stew := { s.stew with sseq := c.seq, lastMac := some mac, running := s.stew.running ++ [(c.seq, mac)] } } c oNop stOk)) ∧
      (∀ r, (s.stew.kept.find? fun r => r.seq == c.seq) = some r →
        exec (.mgtCmd true port mac p true) s = .next { s with stew := { s.stew with out := s.stew.out ++ [{ r with mac }] } })) ∧
    (port.toNat ∈ devicePorts (Sys2Proof.Machine.take s p) → 128 ≤ p.payload.length → entryFault (p.payload.take 128) = none →
      leAt (p.payload.take 128) 0 4 = p.seq.toNat → c = entryCmd .peer p.src (p.payload.take 128) [] →
      entryOp (p.payload.take 128) = oPortRetrain → entryReserved (p.payload.take 128) = false →
      exec (.mgtCmd false port mac p true) s = exec (.portRetrain c) (Sys2Proof.Machine.take s p)) ∧
    (port.toNat ∈ devicePorts (Sys2Proof.Machine.take s p) →
      ∃ t, exec (.mgtResp port p) s = .next t ∧ (∀ r ∈ t.coll.resets, ¬(r.c.seq = p.seq ∧ r.device = devOf p.src)) ∧
        (∀ r ∈ s.coll.resets, ¬(r.c.seq = p.seq ∧ r.device = devOf p.src) → r ∈ t.coll.resets) ∧
        t.delivered = s.delivered.eraseP fun x => x.p == p)

/-- FURROW_RESET_RESEND (18 R510): every reset not answered is sent again, at most 16 times. -/
def Claims.FurrowResetsAreResent : Prop :=
  ∀ s : State, s.live →
    ∃ t, exec .furrowResetResend s = .next t ∧
      t.coll.resets = ((s.coll.resets.filter fun r => decide (r.tries < 16)).map fun r => { r with tries := r.tries + 1 }) ∧
      t.ingress.length = s.ingress.length + (s.coll.resets.filter fun r => decide (r.tries < 16)).length ∧
      t.plots = s.plots ∧ t.gran = s.gran ∧ t.hedge = s.hedge

/-! ## Links -/

/-- Commands that bring a numbered flit (10 R311): the flit is of the kind the command names. -/
def numbered (n : BitVec 10) (f : Flit) (cw : Ecc) (i : Instr) : Prop :=
  (f.ftype = 1 ∧ i = .dataFlit n f cw) ∨
    (f.ftype = 2 ∧ ((leAt f.body 0 1 = 1 ∧ i = .init n f cw) ∨ (leAt f.body 0 1 = 2 ∧ i = .credit n f cw) ∨
      (leAt f.body 0 1 = 3 ∧ i = .nak n f cw) ∨ (leAt f.body 0 1 = 4 ∧ i = .laneMap n f cw)))

/-- A numbered flit whose FCRC is wrong or whose TX_SEQ is not the next one is discarded, and one NAK naming the sequence number expected
is queued until a flit is accepted (10 R311, R312). A flit at a port that is neither in INIT nor UP does nothing, nor does one but LANE_MAP
at a port that restripes (R318). A corrected codeword counts in FEC_CORRECTED (Table 10-13). -/
def Claims.FlitsRefused : Prop :=
  ∀ (s : State) (n : BitVec 10) (f : Flit) (cw : Ecc) (i : Instr), s.live → numbered n f cw i →
    ((port s n.toNat).st ≠ .up → (port s n.toNat).st ≠ .init → exec i s = .next s) ∧
    ((port s n.toNat).restriping = true → (∀ e, i ≠ .laneMap n f e) → exec i s = .next s) ∧
    (isFabric s n.toNat = true → (port s n.toNat).st = .up ∨ (port s n.toNat).st = .init → (port s n.toNat).restriping = false →
      cw = .ue ∨ f.fcrc ≠ flitCrc f ∨ f.txSeq ≠ (port s n.toNat).rxExpect →
      ∃ t, exec i s = .next t ∧ { t with ports := s.ports } = s ∧ (∀ m, m ≠ n.toNat → port t m = port s m) ∧
        (port t n.toNat).nakSent = true ∧ (port t n.toNat).rxExpect = (port s n.toNat).rxExpect ∧
        (port t n.toNat).retryBuf = (port s n.toNat).retryBuf ∧ (port t n.toNat).credits = (port s n.toNat).credits ∧
        (port t n.toNat).fecUncorr = (if cw = .ue then satInc (port s n.toNat).fecUncorr else (port s n.toNat).fecUncorr) ∧
        (port t n.toNat).fecCorr = (if cw = .ce then (port s n.toNat).fecCorr + 1 else (port s n.toNat).fecCorr) ∧
        (port t n.toNat).ctrlQ = (port s n.toNat).ctrlQ ++
          (if (port s n.toNat).nakSent then [] else [pack 256 [(0, 1, 3), (2, 2, (port s n.toNat).rxExpect.toNat)]]))

/-- A DATA flit in sequence uses one of the credits granted for its VL and joins its packet (10 R307, R309, R311); the flit that ends a
packet lodges it; with no credit outstanding LINK_CREDIT is raised and the port goes down. CREDIT adds the credits it returns. -/
def Claims.DataAndCreditFlits : Prop :=
  ∀ (s : State) (n : BitVec 10) (f : Flit) (p : Port), s.live → p = port s n.toNat → isFabric s n.toNat = true → p.st = .up →
    p.restriping = false → f.fcrc = flitCrc f → f.txSeq = p.rxExpect →
    (f.ftype = 1 → 0 < Tab.get 0 p.granted f.vl.toNat → ∀ bytes,
      bytes = (if f.pos = 1 ∨ f.pos = 3 then [] else Tab.get [] p.asm f.vl.toNat) ++ f.body →
      ∃ t, exec (.dataFlit n f .ok) s = .next t ∧ (port t n.toNat).rxExpect = p.rxExpect + 1 ∧ (port t n.toNat).nakSent = false ∧
        Tab.get 0 (port t n.toNat).granted f.vl.toNat = Tab.get 0 p.granted f.vl.toNat - 1 ∧
        (∀ m, m ≠ n.toNat → port t m = port s m) ∧ t.gran = s.gran ∧ t.fault = s.fault ∧
        (f.pos = 0 ∨ f.pos = 1 → t.ingress = s.ingress ∧ Tab.get [] (port t n.toNat).asm f.vl.toNat = bytes) ∧
        (f.pos = 2 ∨ f.pos = 3 → t.ingress = s.ingress ++ [{ port := some n.toNat, vl := f.vl, p := parsePkt bytes }] ∧
          Tab.get [] (port t n.toNat).asm f.vl.toNat = [])) ∧
    (f.ftype = 1 → Tab.get 0 p.granted f.vl.toNat = 0 →
      ∃ u, exec (.dataFlit n f .ok) s = .next (portDown (raise u fLinkCredit uPort n.toNat) n.toNat) ∧ u.ingress = s.ingress ∧
        (port u n.toNat).rxExpect = p.rxExpect + 1 ∧ { u with ports := s.ports } = s) ∧
    (f.ftype = 2 → leAt f.body 0 1 = 2 → ∃ t, exec (.credit n f .ok) s = .next t ∧ { t with ports := s.ports } = s ∧
      (port t n.toNat).rxExpect = p.rxExpect + 1 ∧ (∀ m, m ≠ n.toNat → port t m = port s m) ∧
      ∀ v, v < 10 → Tab.get 0 (port t n.toNat).credits v = Tab.get 0 p.credits v + leAt f.body (12 + 2 * v) 2)

/-- Acknowledgement and retry (10 R311 to R313): an IDLE flit's ACK_SEQ frees the flits before it; NAK and RETRY_TO resend every kept flit
in order, bodies and sequence numbers unchanged, once when both name one flit; the sixteenth resend that frees nothing raises LINK_RETRY_EXHAUST and takes the port down.
CREDIT_TIMER returns what is owed (R309). -/
def Claims.LinkRetry : Prop :=
  ∀ (s : State) (n : BitVec 10) (f : Flit) (p : Port), s.live → p = port s n.toNat → p.st = .up → isFabric s n.toNat = true →
    p.restriping = false → s.pins.coldResetN = true →
    (f.ftype = 0 → f.fcrc = flitCrc f → f.ackValid = true → ∃ t, exec (.idleFlit n f .ok) s = .next t ∧ { t with ports := s.ports } = s ∧
      (f.ackSeq = p.txSeq → (port t n.toNat).retryBuf = []) ∧
      (∀ a g b, p.retryBuf = a ++ g :: b → (∀ x ∈ a, x.txSeq ≠ f.ackSeq) → g.txSeq = f.ackSeq → f.ackSeq ≠ p.txSeq →
        (port t n.toNat).retryBuf = g :: b)) ∧
    (f.fcrc = flitCrc f → f.txSeq = p.rxExpect → f.ftype = 2 → leAt f.body 0 1 = 3 → p.futile < 15 → p.timedOut = none →
      ∃ (t : State) (out : List Flit), exec (.nak n f .ok) s = .next t ∧ t.wire = s.wire ++ out.map (.flit n.toNat) ∧
        out.map (fun x => (x.txSeq, x.body)) = (port t n.toNat).retryBuf.map (fun x => (x.txSeq, x.body)) ∧
        (∀ x ∈ out, x.ackSeq = p.rxExpect + 1 ∧ x.fcrc = flitCrc x) ∧ (port t n.toNat).retries = p.retries + 1 ∧
        (port t n.toNat).st = .up ∧ t.gran = s.gran ∧ t.ingress = s.ingress) ∧
    (f.fcrc = flitCrc f → f.txSeq = p.rxExpect → f.ftype = 2 → leAt f.body 0 1 = 3 → f.ackValid = false →
      ∀ g rest, p.retryBuf = g :: rest → g.txSeq ≠ p.txSeq → g.txSeq = BitVec.ofNat 11 (leAt f.body 2 2) → p.timedOut = some g.txSeq →
      ∃ t, exec (.nak n f .ok) s = .next t ∧ t.wire = s.wire ∧ (port t n.toNat).retries = p.retries ∧ (port t n.toNat).retryBuf = p.retryBuf ∧
        (port t n.toNat).timedOut = none) ∧
    (∀ g rest, p.retryBuf = g :: rest → g.txSeq ≠ p.txSeq →
      (p.futile < 15 → ∃ (t : State) (out : List Flit), exec (.retryTo n) s = .next t ∧ t.wire = s.wire ++ out.map (.flit n.toNat) ∧
        out.map (fun x => (x.txSeq, x.body)) = p.retryBuf.map (fun x => (x.txSeq, x.body)) ∧
        (port t n.toNat).retryBuf = p.retryBuf ∧ (port t n.toNat).futile = p.futile + 1 ∧ (port t n.toNat).timedOut = some g.txSeq) ∧
      (15 ≤ p.futile → ∃ u, exec (.retryTo n) s = .next (portDown (raise u fLinkRetryExhaust uPort n.toNat) n.toNat) ∧
        (port u n.toNat).futile = p.futile + 1)) ∧
    (p.owed ≠ [] → ∃ t, exec (.creditTimer n) s = .next t ∧ { t with ports := s.ports } = s ∧ (port t n.toNat).owed = [] ∧
      (port t n.toNat).ctrlQ = p.ctrlQ ++ [pack 12 [(0, 1, 2)] ++ credBytes p.owed ++ List.replicate 224 0] ∧
      ∀ v, v < 10 → Tab.get 0 (port t n.toNat).granted v = Tab.get 0 p.granted v + Tab.get 0 p.owed v)

/-- Bring-up (10 R314, R315): training ends in INIT with the port's INIT queued, or UP on an EDGE port; it fails to DOWN, and starts afresh
a second later; an INIT that passes the checks brings the port UP with the peer's credits, one that fails them fences it. -/
def Claims.PortBringUp : Prop :=
  ∀ (s : State) (n : BitVec 10) (f : Flit) (p : Port), s.live → p = port s n.toNat →
    (p.st = .training → s.pins.coldResetN = true → ∃ t, exec (.trainingDone n) s = .next t ∧ { t with ports := s.ports } = s ∧
      (isEdge s n.toNat = true → (port t n.toNat).st = .up) ∧
      (isEdge s n.toNat = false → (port t n.toNat).st = .init ∧ (port t n.toNat).ctrlQ = p.ctrlQ ++ [initBody s n.toNat] ∧
        ∀ v, v < 9 → carries s n.toNat (BitVec.ofNat 4 v) = true → Tab.get 0 (port t n.toNat).granted v = vlFld s (BitVec.ofNat 4 v) 3)) ∧
    (p.st = .training → ∃ t, exec (.trainingTimeout n) s = .next t ∧ (port t n.toNat).st = .down ∧
      (port t n.toNat).attempts = p.attempts + 1 ∧ { t with ports := s.ports } = s) ∧
    (p.st = .down → ∃ t, exec (.downRetry n) s = .next t ∧ (port t n.toNat).st = .training ∧ (port t n.toNat).retryBuf = [] ∧
      (port t n.toNat).txSeq = 0 ∧ (port t n.toNat).rxExpect = 0 ∧ (port t n.toNat).lost = 0 ∧ (port t n.toNat).attempts = p.attempts ∧
      { t with ports := s.ports } = s) ∧
    (p.st = .init → ∃ t, exec (.initResend n) s = .next t ∧ (port t n.toNat).ctrlQ = p.ctrlQ ++ [initBody s n.toNat] ∧
      { t with ports := s.ports } = s) ∧
    (p.st ≠ .training → p.st ≠ .down → p.st ≠ .init → exec (.trainingDone n) s = .next s ∧ exec (.trainingTimeout n) s = .next s ∧
      exec (.downRetry n) s = .next s ∧ exec (.initResend n) s = .next s) ∧
    (isFabric s n.toNat = true → p.st = .init → p.restriping = false → f.fcrc = flitCrc f → f.txSeq = p.rxExpect → f.ftype = 2 → leAt f.body 0 1 = 1 →
      (initOk s n.toNat f.body = true → ∃ t, exec (.init n f .ok) s = .next t ∧ (port t n.toNat).st = .up ∧
        (port t n.toNat).peer = some (BitVec.ofNat 24 (leAt f.body 8 4)) ∧ (port t n.toNat).peerEndpoint = (leAt f.body 1 1 == 1) ∧
        (∀ v, v < 10 → Tab.get 0 (port t n.toNat).credits v = leAt f.body (12 + 2 * v) 2) ∧
        (leAt f.body 1 1 ≠ 1 → leAt f.body 8 4 % 2 ^ 24 / 1024 ≠ 16383 → ∃ b ∈ t.hedge.beacons, b.device.toNat = leAt f.body 8 4 % 2 ^ 24 / 1024) ∧ t.gran = s.gran) ∧
      (initOk s n.toNat f.body = false → ∃ v u, exec (.init n f .ok) s = .next (afterHedge v (raise u fLinkPeerMismatch uPort n.toNat)) ∧
        (port v n.toNat).st = .init ∧ { v with ports := s.ports } = s ∧ (port u n.toNat).st = .fenced ∧ { u with ports := s.ports } = s))

/-- Lane loss and restriping (10 R305, R316, R318, R319): a lane that stays without lock is removed; at MIN_LANES the port restripes, below
them it goes down. Each side sends its mask in LANE_MAP, and equal masks end the restriping. -/
def Claims.LaneLoss : Prop :=
  ∀ (s : State) (n : BitVec 10) (lane : Fin 8) (p : Port), s.live → p = port s n.toNat → p.st = .up →
    (lane.val < portWidth s n.toNat → p.lost.getLsbD lane.val = false →
      ∃ t, exec (.lossOfLock n lane) s = .next t ∧ (port t n.toNat).unlocked = p.unlocked ||| BitVec.ofNat 8 (2 ^ lane.val) ∧
        (port t n.toNat).lost = p.lost ∧ { t with ports := s.ports } = s) ∧
    (∃ t, exec (.regainsLock n lane) s = .next t ∧ (port t n.toNat).unlocked.getLsbD lane.val = false ∧ (port t n.toNat).lost = p.lost ∧
      { t with ports := s.ports } = s) ∧
    (p.unlocked.getLsbD lane.val = false → exec (.laneDown n lane) s = .next s) ∧
    (p.unlocked.getLsbD lane.val = true → ∀ left,
      left = ((List.range (portWidth s n.toNat)).filter fun i => !(p.lost ||| BitVec.ofNat 8 (2 ^ lane.val)).getLsbD i).length →
      (portFld s n.toNat 3 ≤ left → ∃ t, exec (.laneDown n lane) s = .next t ∧ (port t n.toNat).st = .up ∧
        (port t n.toNat).lost = p.lost ||| BitVec.ofNat 8 (2 ^ lane.val) ∧ (port t n.toNat).restriping = true ∧
        t.fault.lastCode = fLaneDown ∧ t.fault.lastUnit = BitVec.ofNat 16 n.toNat ∧ t.gran = s.gran) ∧
      (left < portFld s n.toNat 3 → ∃ u, exec (.laneDown n lane) s = .next (portDown u n.toNat) ∧
        (port u n.toNat).lost = p.lost ||| BitVec.ofNat 8 (2 ^ lane.val) ∧ u.fault.lastCode = fLaneDown)) ∧
    (p.restriping = true → p.mapSent = false → p.peerMap = none → retryFull s n.toNat = false → s.pins.coldResetN = true →
      ∃ (t : State) (f : Flit), exec (.restripeDone n) s = .next t ∧ t.wire = s.wire ++ [.flit n.toNat f] ∧ f.ftype = 2 ∧ f.txSeq = p.txSeq ∧
        f.body = pack 256 [(0, 1, 4), (5, 1, (goodMask s n.toNat).toNat)] ∧ (port t n.toNat).mapSent = true ∧
        (port t n.toNat).restriping = true) ∧
    (p.restriping = true → retryFull s n.toNat = true → exec (.restripeDone n) s = .next s) ∧
    (∀ f : Flit, isFabric s n.toNat = true → f.fcrc = flitCrc f → f.txSeq = p.rxExpect → f.ftype = 2 → leAt f.body 0 1 = 4 →
      p.restriping = true →
      (p.mapSent = false → ∃ t, exec (.laneMap n f .ok) s = .next t ∧
        (port t n.toNat).peerMap = some (BitVec.ofNat 8 (leAt f.body 5 1), f.ackSeq) ∧ (port t n.toNat).restriping = true) ∧
      (p.mapSent = true → p.retryBuf = [] → leAt f.body 5 1 = (goodMask s n.toNat).toNat →
        ∃ t, exec (.laneMap n f .ok) s = .next t ∧ (port t n.toNat).restriping = false ∧ (port t n.toNat).mapSent = false ∧
          (port t n.toNat).lost = p.lost ∧ { t with ports := s.ports } = s))

/-- EDGE ports (10 R321 to R324): a frame with a wrong FCS or length is discarded and counted, PFC stops and starts priorities, a Selnan
packet is lodged when its account has room, and another source is refused. Pauses expire, XOFF is repeated, MAC entries age out. -/
def Obligations.EdgeFrames : Prop :=
  ∀ (s : State) (n : BitVec 10) (f : List Byte), s.live →
    (isEdge s n.toNat = true → (port s n.toNat).st = .up →
      (fcsOk f = false ∨ f.length < 64 ∨ portFld s n.toNat 11 < f.length →
        ∃ t, exec (.edgeFrame n f) s = .next t ∧ (port t n.toNat).edgeDrops = satInc (port s n.toNat).edgeDrops ∧
          { t with ports := s.ports } = s) ∧
      (fcsOk f = true → 64 ≤ f.length → f.length ≤ portFld s n.toNat 11 → beAt f 0 6 = 0x0180C2000001 → etherType f = 0x8808 →
        beAt f (14 + tagLen f) 2 = 0x0101 →
        ∃ t, exec (.edgeFrame n f) s = .next t ∧ { t with ports := s.ports } = s ∧
          ∀ i, i < 8 → (port t n.toNat).paused.getLsbD i =
            (if bit (beAt f (14 + tagLen f + 2) 2) i then decide (beAt f (14 + tagLen f + 4 + 2 * i) 2 ≠ 0)
             else (port s n.toNat).paused.getLsbD i)) ∧
      (∀ p, p = parsePkt ((f.take (f.length - 4)).drop (14 + tagLen f)) → portHedged s n.toNat = false → fcsOk f = true → 64 ≤ f.length → f.length ≤ portFld s n.toNat 11 →
        beAt f 0 6 < 0x0180C2000000 ∨ 0x0180C200000F < beAt f 0 6 → etherType f = l2Fld s 0 → planRec s 0x05 0x03 n.toNat = none →
        (Tab.get {} s.sched.pol (16 * n.toNat + framePcp f)).on = false → p.vl ≠ 0 → opClass p.op ≠ some 0 →
        (p.src ≠ addr s.plan.deviceId.toNat n.toNat → ∃ t, exec (.edgeFrame n f) s = .next t ∧
          (port t n.toNat).edgeRefused = satInc (port s n.toNat).edgeRefused ∧ t.fault.lastCode = fHdrCheck ∧ t.ingress = s.ingress ∧
          (Tab.get {} t.route.die (dieOf n.toNat)).hdr = satInc (Tab.get {} s.route.die (dieOf n.toNat)).hdr ∧ t.gran = s.gran) ∧
        (p.src = addr s.plan.deviceId.toNat n.toNat → edgeFits s (8 * n.toNat + framePcp f) (cellsOf p) = true →
          ∃ t, exec (.edgeFrame n f) s = .next t ∧
            t.ingress = s.ingress ++ [{ port := some n.toNat, vl := p.vl, p, colour := 0, pcp := framePcp f }] ∧
            Tab.get 0 t.core.edge (8 * n.toNat + framePcp f) = Tab.get 0 s.core.edge (8 * n.toNat + framePcp f) + cellsOf p))) ∧
    (∀ i : Fin 8, ∃ t, exec (.pauseExpiry n (some i)) s = .next t ∧ { t with ports := s.ports } = s ∧
      (port t n.toNat).pauseAll = (port s n.toNat).pauseAll ∧
      ∀ j, (port t n.toNat).paused.getLsbD j = ((port s n.toNat).paused.getLsbD j && decide (j ≠ i.val))) ∧
    (∃ t, exec (.pauseExpiry n none) s = .next t ∧ { t with ports := s.ports } = s ∧ (port t n.toNat).pauseAll = false ∧
      (port t n.toNat).paused = (port s n.toNat).paused) ∧
    ((port s n.toNat).st = .up → s.pins.coldResetN = true → (port s n.toNat).xoff ≠ 0 → (∀ i, i < 8 → (port s n.toNat).xoff.getLsbD i = true → acctLevel s (8 * n.toNat + i) ≠ 0) →
      (∀ i, i < 8 → bit (portFld s n.toNat 13) i = true → (port s n.toNat).xoff.getLsbD i = false → acctLevel s (8 * n.toNat + i) < 2) →
      ∃ t, exec (.xoffRefresh n) s = .next t ∧ { t with ports := s.ports, wire := s.wire } = s ∧ (∀ m, port t m = port s m) ∧
        t.wire = s.wire ++
          [.frame n.toNat (pfcFrame (portFld s n.toNat 18) (port s n.toNat).xoff.toNat Config.pauseQuanta.toNat)]) ∧
    (∀ (mac : BitVec 48) (vlan : BitVec 12), l2Fld s 2 ≠ 0 → ∃ t, exec (.macAge mac vlan) s = .next t ∧ { t with mac := s.mac } = s ∧
      ∀ m, m ∈ t.mac ↔ m ∈ s.mac ∧ ¬ (m.mac = mac.toNat ∧ m.vlan = vlan.toNat))

/-! ## Lookup, dispatch, queues, rooms -/

/-- PACKET_LOOKUP (11 R330, R333, R340) and ESC_AFTER (R341): a packet of a port that is not whole is discarded with HDR_CHECK; one that
is passes into dispatch where it stands, and nothing else changes; a head of a main VL that has waited may take the escape port. -/
def Claims.PacketLookup : Prop :=
  ∀ (s : State) (n : BitVec 10) (vl : BitVec 4) (k : Nat) (l : Lodged), s.live → headLodged s (some n.toNat) vl k = some l → l.copy = none →
    (l.looked = false → l.p.dstN ≠ ~~~l.p.dst ∨ l.p.seqN ≠ ~~~l.p.seq ∨ l.p.hcrc ≠ Pkt.crc l.p ∨ 1024 < l.p.len.toNat ∨ 8 < l.p.vl.toNat ∨
        carries s n.toNat l.p.vl = false ∨ classOk s n.toNat l.p = false ∨
        (endpointPort s n.toNat = true ∧ l.p.src ≠ addr s.plan.deviceId.toNat n.toNat) →
      ∀ chk, ∃ t, exec (.packetLookup (some n) ⟨vl, k⟩ chk) s = .next t ∧ t.ingress = s.ingress.erase l ∧ t.fault.lastCode = fHdrCheck ∧
        t.fault.lastUnit = BitVec.ofNat 16 n.toNat ∧ t.delivered = s.delivered ∧ t.outq = s.outq ∧ t.gran = s.gran ∧
        (Tab.get {} t.route.die (dieOf n.toNat)).hdr = satInc (Tab.get {} s.route.die (dieOf n.toNat)).hdr) ∧
    (l.looked = false → l.vl = l.p.vl → headerOk s n.toNat l.p = true → endpointPort s n.toNat = false →
      (Tab.get {} s.sched.pol (16 * n.toNat + l.p.vl.toNat)).on = false →
      exec (.packetLookup (some n) ⟨vl, k⟩ {}) s =
        .next { s with ingress := s.ingress.map fun x => if x = l then { l with looked := true, colour := 0 } else x }) ∧
    (l.looked = true → vl = 1 ∨ vl = 3 ∨ vl = 5 ∨ vl = 7 → exec (.escAfter (some n) ⟨vl, k⟩) s =
      .next { s with ingress := s.ingress.map fun x => if x = l then { l with escaped := true } else x })

/-- DISPATCH (11 R340 to R344, R347, 12 R356): a packet for an internal target of this device is handed to it, a request once its die has
response room, one for another device takes the chosen
output's queue and credits when its account's turn has come, one whose signpost is NONE is discarded, and one that no output takes now stays.
The output chosen is an UP candidate or the escape port, and carries no hedge unless the packet is MGT. -/
def Claims.PacketDispatch : Prop :=
  ∀ (s : State) (n : Option (BitVec 10)) (vl : BitVec 4) (k : Nat) (l : Lodged), s.live → headLodged s (n.map (·.toNat)) vl k = some l →
    l.looked = true → l.via = none → l.copy = none →
    (devOf l.p.dst = s.plan.deviceId.toNat → s.route.bad.contains (devOf l.p.dst) = false → 2 ≤ (localKind s (fieldOf l.p.dst)).1 →
      vlClass l.p.vl ≠ some 4 → s.route.badLocal.contains (fieldOf l.p.dst) = false →
      (hasRoom s l.p = true → ∃ t, exec (.dispatch n ⟨vl, k⟩ .ok) s = .next t ∧ t.ingress = s.ingress.erase l ∧
        t.delivered = s.delivered ++ [{ port := l.port, p := l.p }] ∧ t.outq = s.outq ∧ t.gran = s.gran ∧ t.fault = s.fault) ∧
      (hasRoom s l.p = false → exec (.dispatch n ⟨vl, k⟩ .ok) s = .next s)) ∧
    (devOf l.p.dst = s.plan.deviceId.toNat → s.route.bad.contains (devOf l.p.dst) = false → (localKind s (fieldOf l.p.dst)).1 ≠ 1 →
      vlClass l.p.vl = some 4 →
      (colNamed s l.p = true → (l.p.op = pMoveData → windowFits s l.p = true) → ∃ t, exec (.dispatch n ⟨vl, k⟩ .ok) s = .next t ∧
        t.ingress = s.ingress.erase l ∧ t.delivered = s.delivered ++ [{ port := l.port, p := l.p }] ∧ t.outq = s.outq ∧ t.fault = s.fault) ∧
      (colNamed s l.p = true → l.p.op = pMoveData → windowFits s l.p = false → exec (.dispatch n ⟨vl, k⟩ .ok) s = .next s)) ∧
    (devOf l.p.dst ≠ s.plan.deviceId.toNat → ∀ r, signpost s (devOf l.p.dst) = some r →
      (∀ m v, chooseOutput s r l = some (m, v) →
        (m = escPort r ∨ m ∈ candidates r) ∧ (port s m).st = .up ∧ (l.p.vl ≠ 0 → portHedged s m = false) ∧
        (itsTurn s l m v = false → exec (.dispatch n ⟨vl, k⟩ .ok) s = .next s) ∧
        (itsTurn s l m v = true → gated s m l.p = false → isEdge s m = true ∨ l.p.hop.toNat < 14 →
          ∃ t, exec (.dispatch n ⟨vl, k⟩ .ok) s = .next t ∧ t.ingress = s.ingress.erase l ∧ t.delivered = s.delivered ∧ t.gran = s.gran ∧
            t.outq = s.outq ++ [{ port := m, queue := queueOf s v l.colour, vl := v, item := .pkt { l.p with vl := v }, src := l.port.map (·, l.vl), unit := l.unit, pcp := l.pcp, colour := l.colour, room := l.room }] ∧
            creditsHeld t m v = (if isEdge s m then creditsHeld s m v else creditsHeld s m v - flitsOf l.p))) ∧
      (chooseOutput s r l = none → vl ≠ 0 → noWay s r = false → exec (.dispatch n ⟨vl, k⟩ .ok) s = .next s)) ∧
    (devOf l.p.dst ≠ s.plan.deviceId.toNat → signpost s (devOf l.p.dst) = none →
      ∃ t, exec (.dispatch n ⟨vl, k⟩ .ok) s = .next t ∧ t.ingress = s.ingress.erase l ∧ t.outq = s.outq ∧ t.delivered = s.delivered ∧
        (vl ≠ 0 → (Tab.get {} t.route.die (lodgedDie s l)).disc = satInc (Tab.get {} s.route.die (lodgedDie s l)).disc) ∧
        (vl = 0 → (Tab.get {} t.route.die (lodgedDie s l)).mgt = satInc (Tab.get {} s.route.die (lodgedDie s l)).mgt))

/-- SERVE_UNIT (10 R308, R311, 13 R379, R380): a FABRIC port sends a CTRL flit first, then the head of the lowest strict queue that may send,
an IDLE flit when nothing may, or while the retry buffer is full; an EDGE port sends the head of the queue as one frame. -/
def Claims.PortService : Prop :=
  ∀ (s : State) (n : BitVec 10) (p : Port), s.live → p = port s n.toNat → s.pins.coldResetN = true → p.st = .up →
    (isFabric s n.toNat = true → p.restriping = false → retryFull s n.toNat = true →
      ∃ (t : State) (f : Flit), exec (.serveUnit n .ok) s = .next t ∧ { t with wire := s.wire } = s ∧
        t.wire = s.wire ++ [.flit n.toNat f] ∧ f.ftype = 0 ∧ f.ackValid = true ∧ f.ackSeq = p.rxExpect) ∧
    (isFabric s n.toNat = true → p.restriping = false → retryFull s n.toNat = false → ∀ b bs, p.ctrlQ = b :: bs →
      ∃ (t : State) (f : Flit), exec (.serveUnit n .ok) s = .next t ∧ t.wire = s.wire ++ [.flit n.toNat f] ∧ f.ftype = 2 ∧ f.body = b ∧
        f.txSeq = p.txSeq ∧ (port t n.toNat).ctrlQ = bs ∧ (port t n.toNat).txSeq = p.txSeq + 1 ∧
        (port t n.toNat).retryBuf = p.retryBuf ++ [f] ∧ t.outq = s.outq) ∧
    (isFabric s n.toNat = true → p.restriping = false → retryFull s n.toNat = false → p.ctrlQ = [] → (∀ q, headOf s n.toNat q = none) →
      ∃ (t : State) (f : Flit), exec (.serveUnit n .ok) s = .next t ∧ t.wire = s.wire ++ [.flit n.toNat f] ∧ f.ftype = 0 ∧ t.outq = s.outq) ∧
    (isFabric s n.toNat = true → p.restriping = false → retryFull s n.toNat = false → p.ctrlQ = [] → ∀ q u pk, q < 4 →
      (∀ r, r < q → queueReady s n.toNat r = false) → queueReady s n.toNat q = true → eligible s n.toNat q = true →
      headOf s n.toNat q = some u → u.item = .pkt pk → u.sent = 0 → u.copy = none →
      ∃ (t : State) (f : Flit) (more : List Sent), exec (.serveUnit n .ok) s = .next t ∧ t.wire = s.wire ++ .flit n.toNat f :: more ∧
        f.ftype = 1 ∧ f.vl = u.vl ∧ f.body = slice (Pkt.header { pk with hop := pk.hop + 1 } ++ pk.payload) 0 256 ∧ f.txSeq = p.txSeq ∧
        (flitsOf pk = 1 → f.pos = 3 ∧ t.outq = s.outq.erase u) ∧
        (flitsOf pk ≠ 1 → f.pos = 1 ∧ more = [] ∧ t.outq = s.outq.map fun x => if x = u then { u with sent := 1 } else x)) ∧
    (isEdge s n.toNat = true → ∀ q u pk, q < 4 → (∀ r, r < q → queueReady s n.toNat r = false) → queueReady s n.toNat q = true →
      eligible s n.toNat q = true → headOf s n.toNat q = some u → u.item = .pkt pk → u.sent = 0 → u.copy = none →
      (selnanFrame s n.toNat u pk).length ≤ portFld s n.toNat 11 →
      ∃ (t : State) (more : List Sent), exec (.serveUnit n .ok) s = .next t ∧ t.outq = s.outq.erase u ∧
        t.wire = s.wire ++ more ++ [.frame n.toNat (selnanFrame s n.toNat u pk)])

/-- REFILL (13 R382, R384, R385, R387): every shaper gains its rate up to its burst under the record in force, and one that is new starts
full; a two-rate policer gains CIR and PIR up to CBS and PBS. Nothing else changes. -/
def Claims.Refill : Prop :=
  ∀ s : State, s.live → ∃ t, exec .refill s = .next t ∧ { t with sched := s.sched } = s ∧ t.sched.ptr = s.sched.ptr ∧
    (∀ pre r post, planRecs s 0x06 0x02 = pre ++ r :: post → (∀ x ∈ pre ++ post, x.index ≠ r.index) → ∀ x, x = pShaper s r.index →
      pShaper t r.index = { x with shaped := true, rate := r.fld 0, burst := r.fld 1, t := if x.shaped then min (x.t + r.fld 0 * 8) (r.fld 1 * 600) else r.fld 1 * 600 }) ∧
    (∀ n, (∀ x ∈ planRecs s 0x06 0x02, x.index ≠ n) → pShaper t n = {}) ∧
    (∀ pre r post, planRecs s 0x06 0x03 = pre ++ r :: post → (∀ x ∈ pre ++ post, x.index ≠ r.index) → r.fld 0 ≠ 0 →
      ∀ x y, x = Tab.get {} s.sched.pol r.index → y = Tab.get {} t.sched.pol r.index → y.on = true ∧ y.fields = r.fields ∧
        (x.on = true → y.c = min (x.c + r.fld 3 * 8) (r.fld 4 * 600) ∧ y.e = min (x.e + r.fld 5 * 8) (r.fld 6 * 600)) ∧
        (x.on = false → y.c = r.fld 4 * 600 ∧ y.e = r.fld 6 * 600))

/-- ROOM_REQUEST (12 R363, R364): the smallest room of the account that holds the bytes is granted when the account and its inn may grant
it, else the request waits behind the earlier ones; a request that no room size holds is refused with INN_SIZE. -/
def Claims.RoomRequests : Prop :=
  ∀ (s : State) (req : BitVec 11) (sub : BitVec 3) (bytes : Nat) (refs : BitVec 16) (die ix : Nat) (a : Acct), s.live →
    die = reqDie s req.toNat → ix = 8 * req.toNat + sub.toNat → findAcct s die ix = some a →
    (bytes = 0 ∨ roomFor a.sizes bytes = none → ∃ t, exec (.roomRequest req sub bytes refs) s = .next t ∧ t.core.rooms = s.core.rooms ∧
      t.core.waits = s.core.waits ∧ t.fault.lastCode = fInnSize ∧
      (Tab.get {} t.core.die die).refused = satInc (Tab.get {} s.core.die die).refused) ∧
    (∀ r z, bytes ≠ 0 → roomFor a.sizes bytes = some z → innRec s die a.inn = some r →
      (∀ c, (∀ w ∈ s.core.waits, w.acct ≠ ix) → mayGrant s die a r z (roomCells z) = true → freeRoom s r die a.inn z = some c →
        ∃ (t : State) (more : List Room), exec (.roomRequest req sub bytes refs) s = .next t ∧
          { t with core := s.core, ports := s.ports, wire := s.wire } = s ∧
          t.core.rooms = s.core.rooms ++ { die, inn := a.inn, size := z, cell := c, acct := ix, refs := refs.toNat } :: more ∧
          ((∀ w ∈ s.core.waits, w.die ≠ die) → more = [] ∧ t.core.waits = s.core.waits)) ∧
      ((∃ w ∈ s.core.waits, w.acct = ix) ∨ mayGrant s die a r z (roomCells z) = false ∨ freeRoom s r die a.inn z = none →
        exec (.roomRequest req sub bytes refs) s = .next { s with core := { s.core with
          waits := s.core.waits ++ [{ die, inn := a.inn, acct := ix, bytes, refs := refs.toNat }] } }))

/-- ROOM_RELEASE (12 R368, R369): a pointer of a held room takes one reference; at the last one the room is free again, and requests that wait on
the die are tried. A pointer that names no room of its sub-pool raises INN_POINTER and frees nothing, one of a room without references INN_REFCOUNT. -/
def Claims.RoomReleases : Prop :=
  ∀ (s : State) (ptr : Word) (v die inn size cell : Nat) (r : PlanRec), s.live → v = ptr.toNat → die = bits v 25 25 → inn = bits v 31 26 →
    size = bits v 23 21 → cell = bits v 20 0 → innRec s die inn = some r →
    (∀ x, bit v 24 = false → size ≤ 4 → cell % roomCells size = 0 → poolBase r size ≤ cell →
      cell + roomCells size ≤ poolBase r size + innRooms r size * roomCells size →
      (s.core.rooms.find? fun x => x.die == die && x.inn == inn && x.size == size && x.cell == cell && !x.leaked) = some x →
      (2 ≤ x.refs → exec (.roomRelease ptr) s = .next { s with core := { s.core with
        rooms := s.core.rooms.map fun y => if y = x then { x with refs := x.refs - 1 } else y } }) ∧
      (x.refs = 1 → ∃ (t : State) (more : List Room), exec (.roomRelease ptr) s = .next t ∧
        { t with core := s.core, ports := s.ports, wire := s.wire } = s ∧ t.core.rooms = s.core.rooms.erase x ++ more ∧
        ((∀ w ∈ s.core.waits, w.die ≠ die) → more = [] ∧ t.core.waits = s.core.waits)) ∧
      (x.refs = 0 → ∃ t, exec (.roomRelease ptr) s = .next t ∧ t.core.rooms.length = s.core.rooms.length ∧ t.fault.lastCode = fInnRefcount ∧
        t.core.waits = s.core.waits ∧ (Tab.get {} t.core.die die).badRelease = satInc (Tab.get {} s.core.die die).badRelease)) ∧
    (bit v 24 = true ∨ 4 < size ∨ cell % roomCells size ≠ 0 ∨ cell < poolBase r size →
      ∃ t, exec (.roomRelease ptr) s = .next t ∧ t.core.rooms.length = s.core.rooms.length ∧ t.fault.lastCode = fInnPointer ∧
        t.core.waits = s.core.waits ∧ (Tab.get {} t.core.die die).badRelease = satInc (Tab.get {} s.core.die die).badRelease)

/-- GLEAN_WRITE (12 R374): the oldest sample of a die goes into the ring of the granary at GLEAN_HEAD, which advances; when the ring is full
it is lost and counted. -/
def Obligations.GleanedSamples : Prop :=
  ∀ (s : State) (east : Bool) (e : List Byte) (es : List (List Byte)) (r : PlanRec) (size head : Nat), s.live →
    (if east then s.glean.bufE else s.glean.bufW) = e :: es → e.length = 160 → planRec s 0x05 0x04 0 = some r → size = 2 ^ r.fld 1 →
    head = s.glean.head.toNat →
    ∃ t, exec (.gleanWrite east) s = .next t ∧ (if east then t.glean.bufE else t.glean.bufW) = es ∧ t.glean.tail = s.glean.tail ∧
      t.fault = s.fault ∧
      ((head + 1) % size = s.glean.tail.toNat % size → t.gran = s.gran ∧ t.glean.head = s.glean.head ∧ t.glean.lost = satInc s.glean.lost) ∧
      ((head + 1) % size ≠ s.glean.tail.toNat % size → t.glean.head = BitVec.ofNat 16 ((head + 1) % size) ∧ t.glean.lost = s.glean.lost ∧
        t.glean.lostSince = 0 ∧
        (∀ i (h : i < e.length), i < 20 ∨ 24 ≤ i → Mem.read t.gran (r.fld 0 + 160 * head + i) = e[i]) ∧
        (∀ a, a < r.fld 0 + 160 * head ∨ r.fld 0 + 160 * head + 160 ≤ a → Mem.read t.gran a = Mem.read s.gran a))

/-! ## Memory -/

/-- The four requests at the head of their VL. -/
def requests (n : Option (BitVec 10)) (p : Pkt) (upset : List (BitVec 12)) : List (Instr × BitVec 5) :=
  [(.load n p upset, pLoad), (.store n p upset, pStore), (.storeRel n p upset, pStoreRel), (.atomic n p upset, pAtomic)]

/-- A request before its checks: at the head of its VL at an endpoint's port, or among the device's own packets (14 R401). -/
def unchecked (s : State) (n : Option (BitVec 10)) (p : Pkt) (l : Lodged) : Prop :=
  (∀ m, n = some m → headLodged s (some m.toNat) p.vl 0 = some l ∧ l.p = p ∧ l.checked = false ∧ endpointPort s m.toNat = true ∧
    headerOk s m.toNat p = true ∧ srcOk s m.toNat p = true) ∧
  (n = none → (s.ingress.find? fun l => l.port.isNone && l.p == p && !l.checked) = some l ∧ p.vl.toNat ≤ 2)

/-- LOAD, STORE, STORE_REL and ATOMIC at the source-side switch (14 R397, R401 to R405, R407): a request of a wrong format, without rights
or to a hedged target is not sent and gets its answer here; any other is tracked and goes on to lookup. -/
def Claims.SourceChecks : Prop :=
  ∀ (s : State) (n : Option (BitVec 10)) (f : Nat) (p : Pkt) (l : Lodged) (i : Instr) (op : BitVec 5), s.live → p.whole →
    (i, op) ∈ requests n p [] → p.op = op → f = (n.map (·.toNat)).getD (fieldOf p.src) → unchecked s n p l → l.copy = none →
    (∀ e, (searchRpt s f p []).2 = some e → rptCovers e p = true ∧ ∃ k, (k, e) ∈ rptList s f) ∧
    (reqFormatOk p = false → ∃ u, exec i s = .next (selfAnswer u f p rsFormat fMemFormat) ∧ u.ingress = s.ingress.erase l ∧
      u.mem.track = s.mem.track ∧ u.gran = s.gran) ∧
    (reqFormatOk p = true → (∀ e, (searchRpt s f p []).2 = some e → rptGrants e p = false) →
      ∃ u, exec i s = .next (selfAnswer u f p rsDenied fMemDenied) ∧ u.ingress = s.ingress.erase l ∧ u.mem.track = s.mem.track ∧
        (Tab.get {} u.mem.cnt f).denied = satInc (Tab.get {} s.mem.cnt f).denied) ∧
    (reqFormatOk p = true → ∀ e, (searchRpt s f p []).2 = some e → rptGrants e p = true →
      (targetHedged s p.dst.toNat = true → ∃ u, u.ingress = s.ingress.erase l ∧ u.mem.track = s.mem.track ∧
        exec i s = .next (selfAnswer u f p (if op = pLoad then rsPoison else rsDead) (if op = pLoad then fMemPoison else fMemDead))) ∧
      (targetHedged s p.dst.toNat = false → paced s f p = false → trackerFull s f p = false →
        ∃ t, exec i s = .next t ∧ t.ingress = s.ingress.map (fun x => if x = l then { l with checked := true } else x) ∧
          t.mem.track = s.mem.track ++ [{ field := f, p, ix := s.mem.checks, loadTo := s.mem.loadTo.toNat }] ∧ t.gran = s.gran ∧
          t.fault = s.fault) ∧
      (targetHedged s p.dst.toNat = false → paced s f p = true ∨ trackerFull s f p = true → exec i s = .next s))

/-- The answer of an internal target, in the response room of its die (11 R347, 14 R399). -/
def answerOf (s : State) (p : Pkt) (status code old : Nat) (data : List Byte) : Lodged :=
  { port := none, unit := 1246 + (targetDie s p).getD 0, vl := 5, p := rspPkt s p p.src status code old data, room := targetDie s p }

/-- LINE_APPLY on a granary line with one request (14 R395, R409, R413, R416, R418): a LOAD is answered with the bytes, a STORE and an ATOMIC
write theirs and no other byte, the ATOMIC's answer holds the old value, and an area that no access reaches answers RANGE. -/
def Claims.GranaryAccess : Prop :=
  ∀ (s : State) (d : Deliv) (line : BitVec 57) (p : Pkt), s.live → p = d.p → lineQueue s line.toNat = [d] →
    (localKind s (fieldOf p.dst)).1 = 3 → s.mem.stateLost = false → (∀ h ∈ s.mem.hot, h.line ≠ line.toNat) → activeShares s = [] →
    stackFenced s (reqStack p) = false → (∀ e ∈ s.mem.replay, e.held = none) → (∀ x ∈ s.delivered, x.heldAt = none) →
    (granAllowed s p = true →
      (p.op = pLoad → exec (.lineApply line .ok) s = .next { s with
        delivered := s.delivered.erase d,
        ingress := s.ingress ++ [answerOf s p rsOk 0 0 (Mem.reads s.gran (rqOff p) (rqBytes p))] }) ∧
      (p.op = pStore → notAbove p.seq (srcSt s (fieldOf p.dst) (rqOrigin p)).floor = false →
        ∃ t, exec (.lineApply line .ok) s = .next t ∧ t.delivered = s.delivered.erase d ∧ t.fault = s.fault ∧
          t.ingress = s.ingress ++ [answerOf s p rsOk 0 0 []] ∧
          cntGen (srcSt t (fieldOf p.dst) (rqOrigin p)) (rqGen p) = cntGen (srcSt s (fieldOf p.dst) (rqOrigin p)) (rqGen p) + 1 ∧
          (∀ i (h : i < (rqData p).length), Mem.read t.gran (rqOff p + i) = (rqData p)[i]) ∧
          (∀ a, a < rqOff p ∨ rqOff p + rqBytes p ≤ a → Mem.read t.gran a = Mem.read s.gran a)) ∧
      (p.op = pAtomic → d.tracked = true → ∀ old, old = leNat (Mem.reads s.gran (rqOff p) (rqBytes p)) →
        ∃ t, exec (.lineApply line .ok) s = .next t ∧ t.delivered = s.delivered.erase d ∧ t.fault = s.fault ∧
          t.ingress = s.ingress ++ [answerOf s p rsOk 0 old []] ∧
          Mem.reads t.gran (rqOff p) (rqBytes p) = leBytes (rqBytes p) (atomicNew p old) ∧
          (∀ a, a < rqOff p ∨ rqOff p + rqBytes p ≤ a → Mem.read t.gran a = Mem.read s.gran a))) ∧
    (granAllowed s p = false → p.op = pLoad → ∃ t, exec (.lineApply line .ok) s = .next t ∧ t.gran = s.gran ∧
      t.ingress = s.ingress ++ [answerOf s p rsRange fMemRange.toNat 0 []] ∧
      (Tab.get {} t.mem.cnt (fieldOf p.dst)).range = satInc (Tab.get {} s.mem.cnt (fieldOf p.dst)).range)

/-- The new value of an atomic (14 R418, Table 14-6), at both widths. -/
def Claims.AtomicValues : Prop :=
  ∀ (p : Pkt) (w : Nat) (old : BitVec w), (w = 32 ∧ rqBytes p = 4) ∨ (w = 64 ∧ rqBytes p = 8) →
    ∀ x : BitVec w, x = BitVec.ofNat w (rqOperand p) →
      (rqAop p = 0 → BitVec.ofNat w (atomicNew p old.toNat) = old + x) ∧
      (rqAop p = 2 → BitVec.ofNat w (atomicNew p old.toNat) =
        (if rqSigned p then (if x.toInt < old.toInt then x else old) else if x.toNat < old.toNat then x else old)) ∧
      (rqAop p = 3 → BitVec.ofNat w (atomicNew p old.toNat) =
        (if rqSigned p then (if old.toInt < x.toInt then x else old) else if old.toNat < x.toNat then x else old)) ∧
      (rqAop p = 4 → BitVec.ofNat w (atomicNew p old.toNat) = x) ∧
      (rqAop p = 5 → BitVec.ofNat w (atomicNew p old.toNat) = (if old = BitVec.ofNat w (rqCompare p) then x else old)) ∧
      (rqAop p = 6 → BitVec.ofNat w (atomicNew p old.toNat) = old &&& x) ∧
      (rqAop p = 7 → BitVec.ofNat w (atomicNew p old.toNat) = old ||| x) ∧ (rqAop p ≠ 1 → atomicNew p old.toNat < 2 ^ w)

/-- TRACKED_ARRIVAL (14 R420) at a target that keeps source state, REPLAY_EXPIRY, and the hot-line events (R422). -/
def Claims.ReplayTable : Prop :=
  ∀ (s : State) (p : Pkt) (d : Deliv) (field origin : Nat), s.live → p.whole → field = fieldOf p.dst → origin = rqOrigin p →
    (isTracked p.op = true → (s.delivered.find? fun d => d.p == p && !d.tracked) = some d → keepsSource s field = true →
      s.mem.stateLost = false →
      (notAbove p.seq (srcSt s field origin).floor = true → exec (.trackedArrival p) s =
        .next (respond { s with delivered := s.delivered.erase d } p rsUnknown 0 0 [])) ∧
      (notAbove p.seq (srcSt s field origin).floor = false →
        (∀ e, replayOf s field origin p.seq = some e → e.answer = none →
          exec (.trackedArrival p) s = .next { s with delivered := s.delivered.erase d }) ∧
        (∀ e st code old, replayOf s field origin p.seq = some e → e.answer = some (st, code, old) →
          ∃ u, exec (.trackedArrival p) s = .next (respond u p st code old []) ∧ u.delivered = s.delivered.erase d ∧
            u.mem.replay = s.mem.replay ∧ u.gran = s.gran ∧
            (Tab.get {} u.mem.cnt field).hits = satInc (Tab.get {} s.mem.cnt field).hits) ∧
        (replayOf s field origin p.seq = none → notAbove p.seq (srcSt s field origin).low = true →
          exec (.trackedArrival p) s = .next (respond { s with delivered := s.delivered.erase d } p rsUnknown 0 0 [])) ∧
        (replayOf s field origin p.seq = none → notAbove p.seq (srcSt s field origin).low = false → busyReplay s field = true →
          ∃ u, exec (.trackedArrival p) s = .next (respond u p rsBusy 0 0 []) ∧ u.mem.replay = s.mem.replay ∧
            u.delivered = s.delivered.erase d) ∧
        (replayOf s field origin p.seq = none → notAbove p.seq (srcSt s field origin).low = false → busyReplay s field = false →
          ∃ t, exec (.trackedArrival p) s = .next t ∧ t.mem.replay = s.mem.replay ++ [{ field, origin, seq := p.seq }] ∧
            t.delivered = s.delivered.map (fun y => if y = d then { d with tracked := true } else y) ∧ t.gran = s.gran))) ∧
    (∀ (f : BitVec 10) (o : Addr) (seq : Word) (e : Replay), replayOf s f.toNat o.toNat seq = some e →
      (e.answer = none → exec (.replayExpiry f o seq) s = .next s) ∧
      (e.answer ≠ none → ∃ t l, exec (.replayExpiry f o seq) s = .next t ∧ t.mem.replay = s.mem.replay.erase e ∧
        (srcSt t f.toNat o.toNat).low = some l ∧ (l = seq ∨ serialAbove l seq = true) ∧ t.gran = s.gran)) ∧
    (∀ line : BitVec 57, ∃ t, exec (.hotSetClear line) s = .next t ∧ (∀ h ∈ t.mem.hot, h.line = line.toNat → h.set = []) ∧
      t.mem.hot.length = s.mem.hot.length ∧ t.gran = s.gran) ∧
    (∀ line : BitVec 57, lineQueue s line.toNat = [] → ∃ t, exec (.hotLineRetire line) s = .next t ∧
      (∀ h, h ∈ t.mem.hot ↔ h ∈ s.mem.hot ∧ h.line ≠ line.toNat) ∧ t.gran = s.gran)

/-- The tracker (14 R405, R406): a tracked request is resent at most three times with RETRY set; a timeout answers BUSY after a BUSY answer,
else POISON to a LOAD and OUTCOME_UNKNOWN to another; an answer closes the entry it belongs to, and one that belongs to none is late.
An endpoint's answer at its port (R414) closes the request forwarded to it and goes on, or is discarded when it belongs to none. -/
def Claims.Tracker : Prop :=
  ∀ (s : State) (f : BitVec 10) (dst : Addr) (seq : Word), s.live →
    (∀ e, findTrack s f.toNat dst seq = some e →
      (isTracked e.p.op = true → e.tries < 3 → ∃ t, exec (.trackerResend f dst seq) s = .next t ∧
        (∃ l, t.ingress = s.ingress ++ [l] ∧ l.p.op = e.p.op ∧ l.p.seq = e.p.seq ∧ l.p.dst = e.p.dst ∧
          (11 ≤ e.p.payload.length → bit (leAt l.p.payload 10 1) 1 = true)) ∧
        t.mem.track.length = s.mem.track.length ∧ t.gran = s.gran) ∧
      (isTracked e.p.op = false ∨ 3 ≤ e.tries → exec (.trackerResend f dst seq) s = .next s) ∧
      (e.busy = true → exec (.trackerTimeout f dst seq) s = .next (selfAnswer { s with mem := { s.mem with track := s.mem.track.erase e } }
        f.toNat e.p rsBusy 0)) ∧
      (e.busy = false → ∃ u, u.mem.track = s.mem.track.erase e ∧ u.gran = s.gran ∧ exec (.trackerTimeout f dst seq) s =
        .next (selfAnswer u f.toNat e.p (if e.p.op = pLoad then rsPoison else rsUnknown) (if e.p.op = pLoad then fMemPoison else fMemUnknown)))) ∧
    (∀ (a : Pkt) (i : Instr), a.whole →
      (i = .loadRsp none a ∧ a.op = pLoadRsp) ∨ (i = .storeAck none a ∧ a.op = pStoreAck) ∨ (i = .atomicRsp none a ∧ a.op = pAtomicRsp) →
      ∀ d, (s.delivered.find? fun d => d.p == a) = some d → d.heldAt = none → (localKind s (fieldOf a.dst)).1 = 1 →
      (∀ e, (s.mem.track.find? fun t => t.field == fieldOf a.dst && answers a t.p) = some e → rsStatus a ≠ rsBusy →
        ∃ t l, exec i s = .next t ∧ t.mem.track = s.mem.track.erase e ∧ t.ingress = s.ingress ++ [l] ∧
          l.p.payload = a.payload ∧ l.p.op = a.op ∧ l.p.dst = addr s.plan.deviceId.toNat (fieldOf a.dst) ∧ t.gran = s.gran) ∧
      ((∀ e ∈ s.mem.track, e.field = fieldOf a.dst → answers a e.p = false) → ∃ t, exec i s = .next t ∧ t.mem.track = s.mem.track ∧
        t.ingress = s.ingress ∧ (Tab.get {} t.mem.cnt (fieldOf a.dst)).late = satInc (Tab.get {} s.mem.cnt (fieldOf a.dst)).late)) ∧
    (∀ (a : Pkt) (n : BitVec 10) (i : Instr) (l : Lodged), a.whole →
      (i = .loadRsp (some n) a ∧ a.op = pLoadRsp) ∨ (i = .storeAck (some n) a ∧ a.op = pStoreAck) ∨ (i = .atomicRsp (some n) a ∧ a.op = pAtomicRsp) →
      headLodged s (some n.toNat) a.vl 0 = some l → l.p = a → l.checked = false → endpointPort s n.toNat = true →
      headerOk s n.toNat a = true → srcOk s n.toNat a = true → (∀ e ∈ s.mem.replay, e.held = none) →
      (∀ f q, (s.mem.fwd.find? fun f => f.field == n.toNat && answers a f.sent) = some f → f.group = [q] →
        ∃ t, exec i s = .next t ∧ t.ingress = s.ingress.map (fun x => if x = l then { l with checked := true } else x) ∧
          t.mem.fwd = s.mem.fwd.erase f ∧ t.gran = s.gran ∧ t.fault = s.fault) ∧
      (l.copy = none → (∀ f ∈ s.mem.fwd, f.field = n.toNat → answers a f.sent = false) →
        ∃ t, exec i s = .next t ∧ t.ingress = s.ingress.erase l ∧ t.mem = s.mem ∧ t.gran = s.gran))

/-- RPT commands (14 R404, 17 R490): RPT_WRITE that applies sets the entry, and completes when what was checked before it has left the
tracker; RPT_READ completes with the entry. MEM_REQUEST issues a request of the HOST port field and waits for its answer (17 Table 17-10). -/
def Claims.RightsCommands : Prop :=
  ∀ (s : State) (c : Cmd), s.live →
    (∀ f k e, c.passes oRptWrite [(0, 2), (2, 2), (8, 32)] → f = c.u 0 2 → k = c.u 2 2 → e = slice c.body 8 32 → f < 1024 → k < 4096 →
      (rptOk e = false → exec (.rptWrite c) s = .next (cmdDone s c oRptWrite stComplement)) ∧
      (rptOk e = true → rptFormatOk e = true → isSource s f = false → exec (.rptWrite c) s = .next (cmdDone s c oRptWrite stRange)) ∧
      (rptOk e = true → rptFormatOk e = true → isSource s f = true → rank s (Tab.get {} s.recov (objKey 4 (4096 * f + k))) c = .applied →
        ∃ t, exec (.rptWrite c) s = .next t ∧ rptEntry t f k = e ∧ t.mem.rptWaits = s.mem.rptWaits ++ [(c, s.mem.checks)] ∧
          t.host = s.host ∧ t.gran = s.gran ∧ ∀ f' k', k' < 4096 → f' ≠ f ∨ k' ≠ k → rptEntry t f' k' = rptEntry s f' k')) ∧
    (∀ ix rest, s.mem.rptWaits = (c, ix) :: rest → (∀ t ∈ s.mem.track, t.field = c.u 0 2 → ix ≤ t.ix) → c.auth = .owner →
      ∃ t e, exec .rptWritten s = .next t ∧ t.mem.rptWaits = rest ∧ newest t = some e ∧ e.kind = kRptWritten ∧ e.ref = c.seq ∧
        e.body = pack 8 [(0, 2, c.u 2 2)] ++ slice c.body 8 32) ∧
    (c.passes oRptRead [(0, 2), (2, 2)] → c.u 0 2 < 1024 → c.u 2 2 < 4096 → ∃ t e, exec (.rptRead c) s = .next t ∧ newest t = some e ∧
      e.kind = kRptEntry ∧ e.unit = BitVec.ofNat 16 (c.u 0 2) ∧
      e.body = pack 8 [(0, 2, c.u 2 2)] ++ slice (rptEntry s (c.u 0 2) (c.u 2 2)) 0 32 ∧ t.mem = s.mem ∧ t.gran = s.gran) ∧
    (c.passes oMemRequest [(0, 1), (8, 24), (32, 64)] → c.u 0 1 = 8 → c.u 16 2 % 8192 ≤ 24 →
      (fieldOfKind s 4 = none → exec (.memRequest c) s = .next (cmdDone s c oMemRequest stUnitState)) ∧
      (∀ f, fieldOfKind s 4 = some f → ∃ t l, exec (.memRequest c) s = .next t ∧ t.ingress = s.ingress ++ [l] ∧ l.p.op = pLoad ∧
        l.p.src = addr s.plan.deviceId.toNat f ∧ l.checked = false ∧ t.host = s.host ∧
        t.mem.hostReqs = s.mem.hostReqs ++ [(c, l.p.dst, l.p.seq)] ∧ t.gran = s.gran))

/-- Quenches (14 R424): MGT_QUENCH installs the line's pace at a source field of this device, keeping the last admission; eight are held
for a field; QUENCH_EXPIRY takes it away. -/
def Obligations.Quenches : Prop :=
  ∀ (s : State), s.live →
    (∀ (p : Pkt) (f line : Nat), p.whole → f = leAt p.payload 8 3 % 1024 → line = leAt p.payload 0 8 / 128 →
      leAt p.payload 8 3 / 1024 = s.plan.deviceId.toNat → isSource s f = true →
      ∃ t last, exec (.mgtQuench p) s = .next t ∧ { field := f, line, pace := leAt p.payload 12 4, last } ∈ t.mem.quench ∧
        (∀ q ∈ t.mem.quench, q.field = f → q.line = line → q.pace = leAt p.payload 12 4) ∧
        (∀ q ∈ s.mem.quench, q.field ≠ f → q ∈ t.mem.quench) ∧
        ((s.mem.quench.filter fun q => q.field == f).length ≤ 8 → (t.mem.quench.filter fun q => q.field == f).length ≤ 8) ∧
        t.gran = s.gran ∧ t.fault = s.fault) ∧
    (∀ (f : BitVec 10) (line : BitVec 57), ∃ t, exec (.quenchExpiry f line) s = .next t ∧ t.gran = s.gran ∧ t.mem.track = s.mem.track ∧
      ∀ q, q ∈ t.mem.quench ↔ q ∈ s.mem.quench ∧ ¬ (q.field = f.toNat ∧ q.line = line.toNat))

/-- Gateways (14 R425 to R429): a run that closes leaves as COACH_RUN packets and the next run number is taken; a whole run takes a far room
and its records leave as FWD packets, or is lost without a room; a timeout answers what is unanswered and frees the room; COACH_DONE sets or
returns credits. -/
def Claims.CoachRuns : Prop :=
  ∀ (s : State) (n : BitVec 10) (g : Gateway), s.live → g = gateway s n.toNat →
    (g.run = [] → exec (.coachRunClose n) s = .next s) ∧
    (g.run ≠ [] → ∃ (t : State) (ls : List Lodged), exec (.coachRunClose n) s = .next t ∧ t.ingress = s.ingress ++ ls ∧
      ls.length = (packRecords g.run).length ∧
      (∀ l ∈ ls, l.p.op = pCoachRun ∧ l.p.fcid = g.nextRun ∧ l.vl = 3 ∧ l.via = some n.toNat) ∧
      gateway t n.toNat = { g with run := [], nextRun := nextRunNo g.nextRun } ∧ t.gran = s.gran) ∧
    (∀ p : Pkt, p.whole → arrivedAt s n.toNat p = true → p.op = pCoachRun → hasGate s n.toNat = true → leAt p.payload 2 2 = 1 → p.seq = 0 →
      1 ≤ leAt p.payload 0 2 → (∀ q ∈ g.parts, q.fcid ≠ p.fcid) →
      (g.far.length < gateRooms s n.toNat → ∃ (t : State) (ls : List Lodged) (f : FarRun), exec (.coachRun n p) s = .next t ∧
        t.ingress = s.ingress ++ ls ∧ ls.length = leAt p.payload 0 2 ∧ (∀ l ∈ ls, l.vl = 3 ∧ l.p.src = ownAddr s) ∧
        (gateway t n.toNat).far = g.far ++ [f] ∧ f.run = p.fcid ∧ f.recs.length = leAt p.payload 0 2 ∧ t.gran = s.gran) ∧
      (gateRooms s n.toNat ≤ g.far.length → ∃ t, exec (.coachRun n p) s = .next t ∧ t.ingress = s.ingress ∧
        (gateway t n.toNat).far = g.far ∧ (gateway t n.toNat).lost = g.lost + 1 ∧ t.mem.runsLost = satInc s.mem.runsLost)) ∧
    (∀ (run : Word) (f : FarRun), (g.far.find? fun f => f.run == run) = some f → ∃ (t : State) (ls : List Lodged) (l : Lodged),
      exec (.coachTimeout n run) s = .next t ∧ t.ingress = s.ingress ++ ls ++ [l] ∧ ls.length = (f.recs.filter fun r => !r.answered).length ∧
      l.p.op = pCoachDone ∧ l.p.fcid = run ∧ (∀ x ∈ (gateway t n.toNat).far, x.run ≠ run) ∧ t.gran = s.gran) ∧
    (∀ p : Pkt, p.whole → arrivedAt s n.toNat p = true → p.op = pCoachDone →
      (p.fcid = 0xFFFFFFFF → ∃ t, exec (.coachDone n p) s = .next t ∧ gateway t n.toNat = { g with credits := leAt p.payload 12 4 }) ∧
      (p.fcid ≠ 0xFFFFFFFF → p.fcid ∈ g.near → ∃ t, exec (.coachDone n p) s = .next t ∧
        gateway t n.toNat = { g with near := g.near.erase p.fcid, credits := g.credits + 1 }) ∧
      (p.fcid ≠ 0xFFFFFFFF → p.fcid ∉ g.near → ∃ t, exec (.coachDone n p) s = .next t ∧ gateway t n.toNat = g))

/-- COACH_PUT and COACH_GET (14 R430): a commanded run of the GRANARY port field begins with one request for each piece, waits behind 64
others, or is refused. -/
def Claims.CommandedRuns : Prop :=
  ∀ (s : State) (c : Cmd) (i : Instr) (op : Half) (get : Bool), s.live →
    (i = .coachPut c ∧ op = oCoachPut ∧ get = false) ∨ (i = .coachGet c ∧ op = oCoachGet ∧ get = true) → c.passes op coachFields →
    c.u 16 4 ≤ 65536 →
    (fieldOfKind s 3 = none ∨ s.clk.readyGranary = false → exec i s = .next (cmdDone s c op stUnitState)) ∧
    (∀ f, fieldOfKind s 3 = some f → s.clk.readyGranary = true →
      (2 ^ 38 < c.u 0 8 + c.u 16 4 ∨ meetsArea (reservedAreas s) (c.u 0 8) (c.u 16 4) = true → exec i s = .next (cmdDone s c op stRange)) ∧
      (c.u 0 8 + c.u 16 4 ≤ 2 ^ 38 → meetsArea (reservedAreas s) (c.u 0 8) (c.u 16 4) = false →
        (64 ≤ s.mem.runs.length → exec i s = .next { s with mem := { s.mem with runQueue := s.mem.runQueue ++ [(c, get)] } }) ∧
        (s.mem.runs.length < 64 → 0 < c.u 16 4 → ∃ (t : State) (r : CmdRun) (ls : List Lodged), exec i s = .next t ∧
          t.mem.runs = s.mem.runs ++ [r] ∧ r.c = c ∧ r.get = get ∧ r.open_.length = r.total ∧ ls.length = r.total ∧
          (r.open_.map fun x => x.2.2.2).sum = c.u 16 4 ∧ t.ingress = s.ingress ++ ls ∧
          (∀ l ∈ ls, l.p.op = (if get then pLoad else pStore) ∧ l.p.src = addr s.plan.deviceId.toNat f) ∧ t.gran = s.gran ∧
          t.host = s.host)))

/-! ## Plots -/

/-- The word `w` at the PC of plot `p` has issued with the scalar state `n`, and part `k` of it is the next to start (07 R225). -/
def partAt (s : State) (p : Fin 32) (k w : Nat) (n : Snap) : Prop :=
  currentWord s p.val = some w ∧ (plot s p.val).snap = some n ∧ ((wordParts w).filter fun j => !n.done.contains j).head? = some k

/-- Part `k` of the word has started: nothing else of the snapshot changes. -/
def partDone (s t : State) (p : Fin 32) (k : Nat) : Prop :=
  (plot t p.val).snap = (plot s p.val).snap.map fun n => { n with done := n.done ++ [k] }

/-- Harrow commands with the HOP code each names (06 Table 6-2). -/
def harrowCommands (p : Fin 32) (e : LineErrs) : List (Instr × Nat) :=
  [(.harrowAdd p e, 0x01), (.harrowSub p e, 0x02), (.harrowMul p e, 0x03), (.harrowFma p e, 0x04), (.harrowDiv p e, 0x05),
   (.harrowMin p e, 0x06), (.harrowMax p e, 0x07), (.harrowAbs p e, 0x08), (.harrowNeg p e, 0x09), (.harrowSqrt p e, 0x0A),
   (.harrowRcp p e, 0x0B), (.harrowRsqrt p e, 0x0C), (.harrowExp2 p e, 0x0D), (.harrowLog2 p e, 0x0E), (.harrowCvt p e, 0x10),
   (.harrowMov p e, 0x11), (.harrowCmp p e, 0x12), (.harrowIadd p e, 0x18), (.harrowAnd p e, 0x19), (.harrowOr p e, 0x1A),
   (.harrowXor p e, 0x1B), (.harrowRsum p e, 0x20), (.harrowRmin p e, 0x21), (.harrowRmax p e, 0x22), (.compress p e, 0x28),
   (.expand p e, 0x29), (.gather p e, 0x2A), (.scatter p e, 0x2B), (.xload p e, 0x30), (.xstore p e, 0x31), (.xlist p e, 0x32),
   (.sparsify p e, 0x38), (.prune2d p e, 0x39), (.keyset p e, 0x3F)]

/-- Commands that start a part of a word: the part, and whether the word holds it. -/
def partCommands (p : Fin 32) (e : Ecc) (le : LineErrs) : List (Instr × Nat × (Nat → Bool)) :=
  [(.mm p le, 0, fun w => wAop w == 1), (.mmSp p le, 0, fun w => wAop w == 2), (.accLoad p le, 0, fun w => wAop w == 3),
   (.accStore p, 0, fun w => wAop w == 4), (.accRelease p, 0, fun w => wAop w == 5), (.accZero p, 0, fun w => wAop w == 6),
   (.tqDrop p, 2, fun _ => true), (.gload p, 3, fun w => wGop w == 1), (.gstore p, 3, fun w => wGop w == 2),
   (.msend p, 4, fun w => wFop w == 1), (.waybill p, 4, fun w => wFop w == 2), (.csend p, 4, fun w => wFop w == 3),
   (.arm p, 4, fun w => wFop w == 4), (.set p, 5, fun w => wCop w == 1), (.copAdd p, 5, fun w => wCop w == 2),
   (.setlim p, 5, fun w => wCop w == 3), (.setcfg p, 5, fun w => wCop w == 4), (.sset p, 6, fun _ => true), (.sclr p, 7, fun _ => true),
   (.scinc p, 8, fun _ => true), (.dtap p, 9, fun _ => true), (.dlog p, 10, fun _ => true), (.phArray p, 11, fun _ => true),
   (.phHarrow p, 12, fun _ => true), (.phFabric p, 13, fun _ => true), (.seq p e, 14, fun w => wNxt w == 0),
   (.jump p e, 14, fun w => wNxt w == 1), (.brt p e, 14, fun w => wNxt w == 2), (.brf p e, 14, fun w => wNxt w == 3),
   (.loop p e, 14, fun w => wNxt w == 4)] ++
  (harrowCommands p le).map fun x => (x.1, 1, fun w => wHop w == x.2)

/-- Nothing of the plot moves but its cycle count: no operation, transfer or tile entry, no completion or SCINC on its way. -/
def atRest (x : Plot) : Prop := x.ops = [] ∧ x.xq = [] ∧ x.tq = [] ∧ x.scLate = [] ∧ x.came = 0

/-- No tap or log of the plot waits in a digest accumulator. -/
def noDigests (x : Plot) : Prop := ∀ k, k < 8 → (Tab.get {} x.digs k).items = []

/-- A word issues only when it can, with its first part, and only if it is well formed; otherwise its plot stops with the fault (07 R212,
R225, R234). A part whose turn it is not, or that the word does not hold, does nothing. -/
def Claims.WordIssue : Prop :=
  ∀ (s : State) (p : Fin 32) (e : Ecc) (le : LineErrs) (i : Instr) (k : Nat) (mine : Nat → Bool), s.live → (i, k, mine) ∈ partCommands p e le →
    (currentWord s p.val = none → exec i s = .next s) ∧
    (∀ w, currentWord s p.val = some w →
      (mine w = false → exec i s = .next s) ∧
      ((plot s p.val).snap = none → canIssue s p.val w = false → exec i s = .next s) ∧
      ((plot s p.val).snap = none → (wordParts w).head? ≠ some k → exec i s = .next s) ∧
      (∀ n, (plot s p.val).snap = some n → ((wordParts w).filter fun j => !n.done.contains j).head? ≠ some k → exec i s = .next s) ∧
      (mine w = true → (plot s p.val).snap = none → canIssue s p.val w = true → (wordParts w).head? = some k →
        exec i s = exec i (issueWord s p.val w) ∧
        (wordOk s p.val (plot s p.val).pc.toNat w = true → contOk (plot s p.val) w = true → nmarkBreach s p.val w (wordReads (plot s p.val) w) = false →
          armedWrite s p.val (wordWrites (plot s p.val) w) = false →
          (plot (issueWord s p.val w) p.val).snap = some (scalars s p.val) ∧ (plot (issueWord s p.val w) p.val).scratch = (plot s p.val).scratch ∧
          (plot (issueWord s p.val w) p.val).pc = (plot s p.val).pc ∧ (issueWord s p.val w).gran = s.gran) ∧
        (wordOk s p.val (plot s p.val).pc.toNat w = false ∨ contOk (plot s p.val) w = false →
          ∃ t, exec i s = .next t ∧ (plot t p.val).mode = .aborted ∧ (plot t p.val).seqFault = fSeqConfig ∧ (plot t p.val).snap = none ∧
            (plot t p.val).pc = (plot s p.val).pc ∧ (plot t p.val).faultPc = (plot s p.val).pc ∧ (plot t p.val).scratch = (plot s p.val).scratch ∧
            t.gran = s.gran)))

/-- The next address (07 R205, R206, R208, R236): one cycle later the PC is a + 1, the target, or the one a comparator or the loop counter
chooses; the word's snapshot ends, completions of the cycle show their flags, and nothing else changes. HALT lets no further word issue. -/
def Claims.NextAddresses : Prop :=
  ∀ (s : State) (p : Fin 32) (w : Nat) (n : Snap) (i : Instr) (a : Nat) (x : Plot), s.live → partAt s p 14 w n → x = plot s p.val →
    ((i = .seq p .ok ∧ wNxt w = 0 ∧ a = x.pc.toNat + 1) ∨ (i = .jump p .ok ∧ wNxt w = 1 ∧ a = wTarget w) ∨
      (i = .brt p .ok ∧ wNxt w = 2 ∧ a = if comparator p.val n (bits w 745 743) then wTarget w else x.pc.toNat + 1) ∨
      (i = .brf p .ok ∧ wNxt w = 3 ∧ a = if comparator p.val n (bits w 745 743) then x.pc.toNat + 1 else wTarget w) ∨
      (i = .loop p .ok ∧ wNxt w = 4 ∧ a = if 1 < (Tab.get 0 n.ctr (bits w 749 746)).toNat then wTarget w else x.pc.toNat + 1) →
      x.stopping = false → x.ops = [] → x.xq = [] → noDigests x →
      ∃ t, exec i s = .next t ∧ { t with plots := s.plots } = s ∧ (∀ q, q ≠ p.val → plot t q = plot s q) ∧
        { plot t p.val with ctr := x.ctr } =
          { x with pc := BitVec.ofNat 14 a, cyc := x.cyc + 1, heldAt := x.cyc + 1, snap := none, streams := []
                   flags := x.flags ||| x.came, came := 0, outside := false } ∧
        (∀ k, Tab.get 0 (plot t p.val).ctr k = if wNxt w = 4 ∧ k = bits w 749 746 then
            (if 1 < (Tab.get 0 n.ctr k).toNat then Tab.get 0 n.ctr k - 1 else 0) else Tab.get 0 x.ctr k)) ∧
    (wNxt w = 5 → ∃ t, exec (.halt p) s = .next t ∧ { t with plots := s.plots } = s ∧ (∀ q, q ≠ p.val → plot t q = plot s q) ∧
      plot t p.val = { x with halted := true, stopping := false, snap := none, streams := [] } ∧ currentWord t p.val = none)

/-- Counters, limits, comparators, software flags and shared counters (07 R206, R207, R209, R211): each part writes its one register from the
word, ADD from the counter as the word's cycle began; every other register of every plot stays. Every running plot of the die sees a SCINC
from the second cycle after. -/
def Claims.CountersAndFlags : Prop :=
  ∀ (s : State) (p : Fin 32) (w : Nat) (n : Snap) (x : Plot), s.live → x = plot s p.val →
    (∀ (i : Instr) (v : Word), partAt s p 5 w n →
      (i = .set p ∧ wCop w = 1 ∧ v = wImm w) ∨ (i = .copAdd p ∧ wCop w = 2 ∧ v = Tab.get 0 n.ctr (bits w 739 736) + wImm w) →
      ∃ t, exec i s = .next t ∧ { t with plots := s.plots } = s ∧ partDone s t p 5 ∧ (∀ q, q ≠ p.val → plot t q = plot s q) ∧
        { plot t p.val with ctr := x.ctr, snap := x.snap } = x ∧
        ∀ k, Tab.get 0 (plot t p.val).ctr k = if k = bits w 739 736 then v else Tab.get 0 x.ctr k) ∧
    (partAt s p 5 w n → wCop w = 3 → ∃ t, exec (.setlim p) s = .next t ∧ { t with plots := s.plots } = s ∧ partDone s t p 5 ∧
      { plot t p.val with lim := x.lim, snap := x.snap } = x ∧
      ∀ k, Tab.get 0 (plot t p.val).lim k = if k = bits w 745 743 then wImm w else Tab.get 0 x.lim k) ∧
    (partAt s p 5 w n → wCop w = 4 → ∃ t, exec (.setcfg p) s = .next t ∧ { t with plots := s.plots } = s ∧ partDone s t p 5 ∧
      { plot t p.val with cfg := x.cfg, snap := x.snap } = x ∧
      ∀ k, Tab.get 0 (plot t p.val).cfg k = if k = bits w 745 743 then wImm w else Tab.get 0 x.cfg k) ∧
    (partAt s p 6 w n → ∃ t, exec (.sset p) s = .next t ∧ { t with plots := s.plots } = s ∧ partDone s t p 6 ∧
      { plot t p.val with flags := x.flags, snap := x.snap } = x ∧
      ∀ j, j < 64 → (plot t p.val).flags.getLsbD j = (x.flags.getLsbD j || decide (j = bits w 678 673))) ∧
    (partAt s p 7 w n → ∃ t, exec (.sclr p) s = .next t ∧ { t with plots := s.plots } = s ∧ partDone s t p 7 ∧
      { plot t p.val with flags := x.flags, snap := x.snap } = x ∧
      ∀ j, j < 64 → (plot t p.val).flags.getLsbD j = (x.flags.getLsbD j && decide (j ≠ bits w 671 666))) ∧
    (partAt s p 8 w n → ∃ t, exec (.scinc p) s = .next t ∧ { t with plots := s.plots, sc := s.sc } = s ∧ partDone s t p 8 ∧
      { plot t p.val with scLate := x.scLate, snap := x.snap } = x ∧
      (∀ q, q < 32 → q / 16 = p.val / 16 → (plot s q).mode = .running → (plot s q).scLate = [] → ∀ k,
        Tab.get 0 (sharedSeen t q) k = Tab.get 0 s.sc k ∧
        Tab.get 0 (sharedSeen (modPlot t q fun y => { y with cyc := y.cyc + 1 }) q) k = Tab.get 0 s.sc k ∧
        Tab.get 0 (sharedSeen (modPlot t q fun y => { y with cyc := y.cyc + 2 }) q) k = Tab.get 0 t.sc k) ∧
      ∀ k, Tab.get 0 t.sc k = if k = 16 * (p.val / 16) + bits w 664 661 then Tab.get 0 s.sc k + 1 else Tab.get 0 s.sc k)

/-- Digest taps and logs (07 R223), power hints (07 R224), TQ_DROP (07 R216, 06 R196) and ARM (07 R219). -/
def Claims.TapsHintsAndDrops : Prop :=
  ∀ (s : State) (p : Fin 32) (w : Nat) (n : Snap) (x : Plot), s.live → x = plot s p.val →
    (partAt s p 9 w n → ∀ d a b tn nm, (x.streams.find? fun e => e.1 == bits w 26 24) = some (d, .seg a b tn nm) →
      ∃ t, exec (.dtap p) s = .next t ∧ { t with plots := s.plots } = s ∧ partDone s t p 9 ∧ (plot t p.val).scratch = x.scratch ∧
        (Tab.get {} (plot t p.val).digs (bits w 30 28)).items = (Tab.get {} x.digs (bits w 30 28)).items ++ [.seg a b tn (wNmark w)]) ∧
    (partAt s p 10 w n → noDigests x → ∀ d, d = Tab.get {} x.digs (bits w 30 28) → d.taint = false →
      ∃ t e, exec (.dlog p) s = .next t ∧ partDone s t p 10 ∧ Tab.get {} (plot t p.val).digs (bits w 30 28) = {} ∧ t.gran = s.gran ∧
        newest t = some e ∧ e.kind = kPlotDigest ∧ e.unit = BitVec.ofNat 16 p.val ∧ e.n = d.nm ∧
        e.body = pack 40 [(0, 1, bits w 30 28), (2, 2, x.pc.toNat), (8, 8, (cropEnd d.crc).toNat), (16, 8, now s)]) ∧
    (∀ (i : Instr) (k b : Nat) (idle : Prop), partAt s p k w n →
      (i = .phArray p ∧ k = 11 ∧ b = 0 ∧ (idle ↔ ∀ o ∈ x.ops, o.unit = .harrow)) ∨
        (i = .phHarrow p ∧ k = 12 ∧ b = 1 ∧ (idle ↔ ∀ o ∈ x.ops, o.unit ≠ .harrow)) ∨
        (i = .phFabric p ∧ k = 13 ∧ b = 2 ∧ (idle ↔ x.xq = [])) →
      ∃ t, exec i s = .next t ∧ { t with plots := s.plots } = s ∧ partDone s t p k ∧ { plot t p.val with hints := x.hints, snap := x.snap } = x ∧
        (idle → (plot t p.val).hints = x.hints ||| BitVec.ofNat 3 (2 ^ b)) ∧ (¬ idle → (plot t p.val).hints = x.hints)) ∧
    (partAt s p 2 w n →
      (∀ e, tqHead x = some e → ∃ t, exec (.tqDrop p) s = .next t ∧ { t with plots := s.plots } = s ∧
        partDone s t p 2 ∧ { plot t p.val with tq := x.tq, snap := x.snap } = x ∧ x.tq = e :: (plot t p.val).tq) ∧
      (tqHead x = none → ∃ t, exec (.tqDrop p) s = .next t ∧ (plot t p.val).mode = .aborted ∧
        (plot t p.val).hLastFault = fHarrowIssue ∧ (plot t p.val).tq = x.tq ∧ t.gran = s.gran)) ∧
    (partAt s p 4 w n → wFop w = 4 → ∃ t, exec (.arm p) s = .next t ∧ { t with plots := s.plots } = s ∧ partDone s t p 4 ∧
      (plot t p.val).scratch = x.scratch ∧ ∀ b, bindSt t p.val b =
        if b = wRb w ∧ (bindSt s p.val b).complete = true then { tag := (bindSt s p.val b).tag } else bindSt s p.val b)

/-- MM and MM_SP (05 R145 to R157, R168): on a busy array the plot stops with ARRAY_ISSUE and the bank at +0; else the operation enters the
array for its stream time and 260 cycles with the lines of its streams, the bank at +0 under INIT, and nothing else changes. -/
def Claims.TileProducts : Prop :=
  ∀ (s : State) (p : Fin 32) (w : Nat) (n : Snap) (e : LineErrs) (i : Instr) (x : Plot) (b : Bool), s.live →
    x = plot s p.val → partAt s p 0 w n → (i = .mm p e ∧ wAop w = 1) ∨ (i = .mmSp p e ∧ wAop w = 2) → b = wBank w →
    (mmFree x = false → ∃ t, exec i s = .next t ∧ (plot t p.val).mode = .aborted ∧ (plot t p.val).lastFault = fArrayIssue ∧
      (∀ k, Tab.get 0 (bankOf (plot t p.val) b).vals k = 0) ∧ bankOf (plot t p.val) (!b) = bankOf x (!b) ∧
      (plot t p.val).scratch = x.scratch ∧ t.gran = s.gran) ∧
    (mmFree x = true → bankBusyBy x b .acc = true ∨ bankBusyBy x b .harrow = true → ∃ t, exec i s = .next t ∧
      (plot t p.val).mode = .aborted ∧ (plot t p.val).lastFault = fArrayBankBusy ∧ (∀ k, Tab.get 0 (bankOf (plot t p.val) b).vals k = 0) ∧
      bankOf (plot t p.val) (!b) = bankOf x (!b) ∧ (plot t p.val).scratch = x.scratch ∧ t.gran = s.gran) ∧
    (∀ ga gb, mmFree x = true → bankBusyBy x b .acc = false → bankBusyBy x b .harrow = false →
      mmStream x w 0 = some ga → mmStream x w 1 = some gb →
      inScratch (agLines ga (slabs w * linesA w)) = true → inScratch (agLines gb (slabs w * linesB w)) = true →
      ∃ (t : State) (o : PlotOp), exec i s = .next t ∧ { t with plots := s.plots } = s ∧ partDone s t p 0 ∧
        (∀ q, q ≠ p.val → plot t q = plot s q) ∧ (plot t p.val).ops = x.ops ++ [o] ∧ o.id = x.nextId ∧ o.unit = .mm ∧ o.bank = some b ∧
        o.word = w ∧ o.t = 0 ∧ o.fin = (if slabs w = 0 then 1 else streamTime w + 260) ∧ o.todo = mmTodo w ga gb ∧ o.slab = 0 ∧ o.errs = e ∧
        bankOf (plot t p.val) b = (if bit w 626 then {} else bankOf x b) ∧ bankOf (plot t p.val) (!b) = bankOf x (!b) ∧
        { plot t p.val with ops := x.ops, nextId := x.nextId, ags := x.ags, hints := x.hints, snap := x.snap, bank0 := x.bank0, bank1 := x.bank1 } = x)

/-- The sum a slab adds (02 R61, 05 R147, R168): each cell of the bank is the FP32 sum of its old value and its slab's, of the lines the
operation has read; no cell outside M x N and no other bank or line changes. -/
def Claims.SlabSums : Prop :=
  ∀ (x : Plot) (o : PlotOp) (b : Bool), b = wBank o.word → o.unit = .mm →
    (∀ r c, r < wM o.word → c < wN o.word → Tab.get 0 (bankOf (addSlab x o) b).vals (128 * r + c) =
      (fAdd .rne (Tab.get 0 (bankOf x b).vals (128 * r + c))
        (cellSlab o.word (o.slab / max (slabs o.word) 1) o.slabNo (capBytes o 0 (linesA o.word)) (capBytes o keyB (linesB o.word)) r c).1).1) ∧
    (∀ k, wM o.word ≤ k / 128 ∨ wN o.word ≤ k % 128 → Tab.get 0 (bankOf (addSlab x o) b).vals k = Tab.get 0 (bankOf x b).vals k) ∧
    bankOf (addSlab x o) (!b) = bankOf x (!b) ∧ (addSlab x o).scratch = x.scratch ∧ (addSlab x o).aflags = x.aflags ∧
    (bankOf (addSlab x o) b).taint = (bankOf x b).taint

/-- The accumulator path (05 R150, R153): ACC_STORE starts to write the bank's M x N values to its lines, ACC_LOAD to read them,
ACC_RELEASE puts them in a tile queue entry, ACC_ZERO makes the bank +0; each holds the path for its cycles. A busy path stops the plot. -/
def Claims.AccumulatorPath : Prop :=
  ∀ (s : State) (p : Fin 32) (w : Nat) (n : Snap) (e : LineErrs) (x : Plot) (b : Bool), s.live → x = plot s p.val → partAt s p 0 w n → b = wBank w →
    (accFree x = true → bankBusy x b = false →
      (wAop w = 6 → ∃ (t : State) (o : PlotOp), exec (.accZero p) s = .next t ∧ { t with plots := s.plots } = s ∧ partDone s t p 0 ∧
        bankOf (plot t p.val) b = {} ∧ bankOf (plot t p.val) (!b) = bankOf x (!b) ∧ (plot t p.val).scratch = x.scratch ∧
        (plot t p.val).ops = x.ops ++ [o] ∧ o.unit = .acc ∧ o.bank = some b ∧ o.t = 0 ∧ o.fin = 1 ∧ o.todo = []) ∧
      (wAop w = 5 → cellarRefuses s p.val w = false → x.tq.length < 8 → ∃ (t : State) (q : TileEntry) (o : PlotOp),
        exec (.accRelease p) s = .next t ∧
        { t with plots := s.plots } = s ∧ partDone s t p 0 ∧ (plot t p.val).tq = x.tq ++ [q] ∧ q.vals = bankVals (bankOf x b) (wM w) (wN w) ∧
        q.m = wM w ∧ q.n = wN w ∧ q.tag = bits w 587 580 ∧ q.taint = (bankOf x b).taint ∧ q.ready = x.cyc + accCycles w ∧
        bankOf (plot t p.val) b = bankOf x b ∧ (plot t p.val).scratch = x.scratch ∧
        (plot t p.val).ops = x.ops ++ [o] ∧ o.unit = .acc ∧ o.fin = accCycles w) ∧
      (wAop w = 5 → cellarRefuses s p.val w = false → 8 ≤ x.tq.length → ∃ t, exec (.accRelease p) s = .next t ∧
        (plot t p.val).mode = .aborted ∧ (plot t p.val).lastFault = fArrayIssue ∧ (plot t p.val).tq = x.tq) ∧
      (∀ g ls, agStream x w 2 = some g → ls = agLines g (cdiv (4 * wM w * wN w) 128) → inScratch ls = true →
        (wAop w = 4 → ∃ (t : State) (o : PlotOp), exec (.accStore p) s = .next t ∧ { t with plots := s.plots } = s ∧ partDone s t p 0 ∧
          (plot t p.val).bank0 = x.bank0 ∧ (plot t p.val).bank1 = x.bank1 ∧ (plot t p.val).scratch = x.scratch ∧
          (plot t p.val).ops = x.ops ++ [o] ∧ o.unit = .acc ∧ o.fin = accCycles w ∧ o.src = bankVals (bankOf x b) (wM w) (wN w) ∧
          o.todo.map (·.line) = ls ∧ ∀ a ∈ o.todo, a.isRead = false) ∧
        (wAop w = 3 → ∃ (t : State) (o : PlotOp), exec (.accLoad p e) s = .next t ∧ { t with plots := s.plots } = s ∧
          partDone s t p 0 ∧ (plot t p.val).bank0 = x.bank0 ∧ (plot t p.val).bank1 = x.bank1 ∧ (plot t p.val).scratch = x.scratch ∧
          (plot t p.val).ops = x.ops ++ [o] ∧ o.unit = .acc ∧ o.fin = accCycles w ∧ o.todo.map (·.line) = ls ∧ o.errs = e ∧
          ∀ a ∈ o.todo, a.isRead = true))) ∧
    (accFree x = false → ∀ i, (i = .accLoad p e ∧ wAop w = 3) ∨ (i = .accStore p ∧ wAop w = 4) ∨ (i = .accRelease p ∧ wAop w = 5) ∨
        (i = .accZero p ∧ wAop w = 6) →
      ∃ t, exec i s = .next t ∧ (plot t p.val).mode = .aborted ∧ (plot t p.val).lastFault = fArrayIssue ∧
        (∀ k, Tab.get 0 (bankOf (plot t p.val) b).vals k = 0) ∧ (plot t p.val).scratch = x.scratch ∧ t.gran = s.gran)

/-- A line that ACC_STORE writes (05 R150): 32 values of the bank, no byte past the last, and no byte outside the line. -/
def Claims.StoredAccumulators : Prop :=
  ∀ (x : Plot) (o : PlotOp) (a : LineAcc) (i : Nat), o.unit = .acc → a.act = .write i →
    (∀ j (h : j < o.src.length), 32 * i ≤ j → j < 32 * i + 32 →
      Mem.reads (opWrite x o a).scratch (128 * a.line + 4 * (j - 32 * i)) 4 = leBytes 4 o.src[j]) ∧
    (∀ d, d < 128 * a.line ∨ 128 * a.line + 4 * min 32 (o.src.length - 32 * i) ≤ d →
      Mem.read (opWrite x o a).scratch d = Mem.read x.scratch d) ∧ (opWrite x o a).bank0 = x.bank0 ∧ (opWrite x o a).bank1 = x.bank1

/-- A harrow operation may start now (06 R191, R195 to R201): its registers are of the right kind, the harrow and its bank are free, its queue
entry is there, its lines lie in the scratchpad, and its list names no element past the source. -/
def harrowMay (s : State) (x : Plot) (p : Fin 32) (w : Nat) : Prop :=
  harrowPlotOk s p.val w = true ∧ wrongKind x w = false ∧ harrowFree x = true ∧ (wSrck w = 1 → bankBusy x false = false) ∧
    (wSrck w = 2 → bankBusy x true = false) ∧ (wSrck w = 3 → (tqHead x).isSome = true) ∧ inScratch (harrowWrites x w) = true ∧
    inScratch (if wHop w = 0x30 ∧ wVar w = 2 then [wSB w] else harrowReads x w) = true ∧
    (wHop w = 0x2A ∨ wHop w = 0x2B → ∀ i ∈ xEntries x w, i < wElems w)

/-- Harrow operations at issue (06 R191, R195 to R201): one that may start enters the harrow with its lines and sources, and changes nothing
else of its plot or of another; on a busy harrow the plot stops with HARROW_ISSUE, with a register of the wrong kind with HARROW_CONFIG. -/
def Claims.HarrowOperations : Prop :=
  ∀ (s : State) (p : Fin 32) (w : Nat) (n : Snap) (e : LineErrs) (i : Instr) (h : Nat) (x : Plot), s.live → x = plot s p.val → partAt s p 1 w n →
    wHop w = h → (i, h) ∈ harrowCommands p e →
    (harrowMay s x p w → ∃ t, exec i s = .next t ∧ { t with plots := s.plots } = s ∧ partDone s t p 1 ∧
      (∀ q, q ≠ p.val → plot t q = plot s q) ∧ (plot t p.val).ops = x.ops ++ [harrowOp x w e] ∧
      { plot t p.val with ops := x.ops, nextId := x.nextId, hints := x.hints, streams := x.streams, snap := x.snap } = x) ∧
    (harrowPlotOk s p.val w = true → wrongKind x w = false → harrowFree x = false → ∃ t, exec i s = .next t ∧ (plot t p.val).mode = .aborted ∧
      (plot t p.val).hLastFault = fHarrowIssue ∧ (plot t p.val).scratch = x.scratch ∧ (plot t p.val).ops = x.ops ∧ t.gran = s.gran) ∧
    (harrowPlotOk s p.val w = false ∨ wrongKind x w = true → ∃ t, exec i s = .next t ∧ (plot t p.val).mode = .aborted ∧
      (plot t p.val).hLastFault = fHarrowConfig ∧ (plot t p.val).scratch = x.scratch ∧ (plot t p.val).ops = x.ops ∧ t.gran = s.gran)

/-- Element-wise operations with a 32-bit destination (06 R178, R180, R184): with a line of the destination every active element in it becomes
the operation's value of the elements it has read, and every other byte of the scratchpad stays; on FP32 elements that value is the FP32
operation's. -/
def Claims.HarrowElements : Prop :=
  ∀ (x : Plot) (o : PlotOp) (a : LineAcc) (v : Nat) (mine : Nat → Prop), o.unit = .harrow → a.act = .write v → hWidth o.word = 32 →
    (1 ≤ wHop o.word ∧ wHop o.word ≤ 0x0E) ∨ wHop o.word = 0x10 ∨ wHop o.word = 0x11 ∨ (0x18 ≤ wHop o.word ∧ wHop o.word ≤ 0x1B) →
    (∀ i, mine i ↔ 256 * v ≤ i ∧ i < 256 * v + 256 ∧ i < hCount o.word ∧ i / 32 = a.line - wSD o.word ∧ hActive x o i = true) →
    (∀ i, mine i → Mem.reads (opWrite x o a).scratch (128 * wSD o.word + 4 * i) 4 = leBytes 4 (laneVal x o i).1) ∧
    (∀ d, (∀ i, mine i → d < 128 * wSD o.word + 4 * i ∨ 128 * wSD o.word + 4 * i + 4 ≤ d) →
      Mem.read (opWrite x o a).scratch d = Mem.read x.scratch d) ∧
    (wHop o.word ≤ 0x0E → wEs o.word = 0 → wEd o.word = 0 → ∀ i, laneVal x o i =
      fpOp (wHop o.word) (hMode x o.word i) (hSrcA o i) (if readsB (wHop o.word) then hSrcB o i else 0) (if wHop o.word = 4 then hSrcC o i else 0))

/-- The plot issues no word, and one operation runs in it that has presented all its lines: only its last cycles are to come. -/
def lastOp (x : Plot) (o : PlotOp) : Prop :=
  x.mode = .running ∧ x.halted = true ∧ x.ops = [o] ∧ x.xq = [] ∧ x.tq = [] ∧ x.scLate = [] ∧ x.came = 0 ∧ noDigests x ∧ o.todo = [] ∧ o.t < o.fin

/-- ACC_DONE, ACC_PATH_END and HDONE (05 R148, R150, R573, 06 R188, R199): the plot's time moves on to the operation's end; it leaves the list
of running ones, its flags are recorded where no taint forbids it, ACC_LOAD's values are in the bank, and KEYSET, XLIST and an XLOAD of a mask
have written their register. -/
def Claims.OperationEnds : Prop :=
  ∀ (s : State) (p : Fin 32) (x : Plot) (o : PlotOp), s.live → x = plot s p.val → lastOp x o →
    (∀ b, o.unit = .mm → o.bank = some b → passes o.word * slabs o.word ≤ o.slab → wAop o.word ≠ 3 →
      ∃ t, exec (.accDone p b) s = .next t ∧ { t with plots := s.plots } = s ∧ (plot t p.val).ops = [] ∧
        (plot t p.val).cyc = x.cyc + (o.fin - o.t) ∧ (plot t p.val).scratch = x.scratch ∧ (plot t p.val).bank0 = x.bank0 ∧
        (plot t p.val).bank1 = x.bank1 ∧ (plot t p.val).aflags = (if o.taint then x.aflags else x.aflags ||| BitVec.ofNat 8 o.flags)) ∧
    (o.unit = .acc → ∃ t, exec (.accPathEnd p) s = .next t ∧ { t with plots := s.plots } = s ∧ (plot t p.val).ops = [] ∧
      (plot t p.val).cyc = x.cyc + (o.fin - o.t) ∧ (plot t p.val).scratch = x.scratch ∧ (plot t p.val).aflags = x.aflags ∧
      (wAop o.word ≠ 3 → (plot t p.val).bank0 = x.bank0 ∧ (plot t p.val).bank1 = x.bank1) ∧
      (wAop o.word = 3 → bankOf (plot t p.val) (!wBank o.word) = bankOf x (!wBank o.word) ∧
        ∀ r c, r < wM o.word → c < wN o.word → Tab.get 0 (bankOf (plot t p.val) (wBank o.word)).vals (128 * r + c) =
          leAt (capBytes o 0 (cdiv (accBytes o.word) 128)) (4 * (r * wN o.word + c)) 4)) ∧
    (o.unit = .harrow → hCheck o.word = 0 ∨ o.slab ≠ 0 → ¬ (wHop o.word = 0x30 ∧ wVar o.word = 2 ∧ o.slab = 0) →
      ∃ t, exec (.hdone p) s = .next t ∧ { t with plots := s.plots } = s ∧ (plot t p.val).ops = [] ∧
        (plot t p.val).cyc = x.cyc + (o.fin - o.t) ∧ (plot t p.val).scratch = x.scratch ∧ (plot t p.val).bank0 = x.bank0 ∧
        (plot t p.val).bank1 = x.bank1 ∧ (plot t p.val).hflags = (if opTaint x o then x.hflags else x.hflags ||| BitVec.ofNat 8 o.flags) ∧
        (wHop o.word ≠ 0x3F → (plot t p.val).keys = x.keys) ∧ (wHop o.word ≠ 0x30 → wHop o.word ≠ 0x32 → (plot t p.val).xregs = x.xregs) ∧
        (wHop o.word = 0x3F → Tab.get (0, 0) (plot t p.val).keys (bits o.word 311 310) = (bits o.word 287 224, bits o.word 223 192)) ∧
        (wHop o.word = 0x32 → (Tab.get {} (plot t p.val).xregs (wXreg o.word)).isList = true ∧
          (Tab.get {} (plot t p.val).xregs (wXreg o.word)).list = setBits 256 (Tab.get {} x.xregs (wMreg o.word)).mask) ∧
        (wHop o.word = 0x30 → wVar o.word = 0 → (Tab.get {} (plot t p.val).xregs (wXreg o.word)).mask = leNat ((Tab.get {} o.cap 0).bytes.take 32)))

/-- SPARSE_META and SPARSE_INDEX (05 R169 to R171, R175): the plot's time moves on to the end of the slab whose metadata fails, where it stops
with the bank at +0; without a running MM_SP neither happens. -/
def Claims.SparseFaults : Prop :=
  ∀ (s : State) (p : Fin 32) (x : Plot) (o : PlotOp) (b : Bool) (i : Instr) (code : Half) (g c : Nat), s.live → x = plot s p.val →
    (i = .sparseMeta p ∧ code = fSparseMeta) ∨ (i = .sparseIndex p ∧ code = fSparseIndex) →
    ((∀ y ∈ x.ops, y.unit = .mm → wAop y.word ≠ 2) → exec i s = .next s) ∧
    (lastOp x o → o.unit = .mm → wAop o.word = 2 → o.bank = some b → o.slab < passes o.word * slabs o.word →
      o.t < (o.slab + 1) * slabTime o.word → (o.slab + 1) * slabTime o.word ≤ o.fin →
      badNibble o.word o.slabNo (capBytes o keyB (linesB o.word)) = some (code, g, c) →
      ∃ t, exec i s = .next t ∧ (plot t p.val).mode = .aborted ∧ (plot t p.val).lastFault = code ∧ (plot t p.val).ops = [] ∧
        (plot t p.val).cyc = x.cyc + ((o.slab + 1) * slabTime o.word - o.t) ∧ (∀ k, Tab.get 0 (bankOf (plot t p.val) b).vals k = 0) ∧
        bankOf (plot t p.val) (!b) = bankOf x (!b) ∧ (plot t p.val).scratch = x.scratch ∧ t.gran = s.gran)

/-- The fabric transfer queue (07 R217, R218): GLOAD, GSTORE, MSEND, WAYBILL and CSEND enter it with the lines of AG3; a full queue stops the
plot. -/
def Claims.TransfersQueue : Prop :=
  ∀ (s : State) (p : Fin 32) (w : Nat) (n : Snap) (i : Instr) (k : Nat) (kind : XferKind) (x : Plot), s.live → x = plot s p.val →
    partAt s p k w n →
    (k = 3 ∧ ((i = .gload p ∧ wGop w = 1 ∧ kind = .gload) ∨ (i = .gstore p ∧ wGop w = 2 ∧ kind = .gstore))) ∨
      (k = 4 ∧ ((i = .msend p ∧ wFop w = 1 ∧ kind = .msend) ∨ (i = .waybill p ∧ wFop w = 2 ∧ kind = .waybill) ∨
        (i = .csend p ∧ wFop w = 3 ∧ kind = .csend))) →
    (∀ g ls, x.xq.length < 4 → agStream x w 3 = some g → ls = agLines g (cdiv (fabricBytes x w) 128) → inScratch ls = true →
      ∃ (t : State) (y : Xfer), exec i s = .next t ∧ { t with plots := s.plots } = s ∧ partDone s t p k ∧ (plot t p.val).xq = x.xq ++ [y] ∧
        y.kind = kind ∧ y.lines = ls ∧ y.running = false ∧ (k = 3 → y.gaddr = bits w 187 150 ∧ y.count = wGlines w) ∧
        (k = 4 → y.furrow = bits w 91 84 ∧ y.count = wCount w ∧ y.etype = wEtype w) ∧ (plot t p.val).scratch = x.scratch) ∧
    (4 ≤ x.xq.length → ∃ t, exec i s = .next t ∧ (plot t p.val).mode = .aborted ∧ (plot t p.val).seqFault = fSeqXferIssue ∧
      (plot t p.val).xq = x.xq ∧ t.gran = s.gran)

/-- TRANSFER_START of the head transfer (07 R217, R220): it runs, and its lines are still to move; one of no lines or elements is over; a
granary line outside the plot's windows moves nothing and stops the plot. TRANSFER_END of a transfer whose lines have moved takes it off the queue. -/
def Claims.TransfersRun : Prop :=
  ∀ (s : State) (p : Fin 32) (e : LineErrs) (x : Plot) (y : Xfer) (rest : List Xfer), s.live → x = plot s p.val → x.xq = y :: rest →
    (y.running = true → exec (.transferStart p e) s = .next s) ∧
    (y.running = false → y.kind ≠ .waybill → y.count = 0 → noDigests x → ∃ t, exec (.transferStart p e) s = .next t ∧
      { t with plots := s.plots } = s ∧ (plot t p.val).xq = rest ∧ (plot t p.val).scratch = x.scratch) ∧
    (y.running = false → (y.kind = .waybill ∨ ((y.kind = .msend ∨ y.kind = .csend) ∧ 1 ≤ y.count) ∨
        (1 ≤ y.count ∧ (∀ l ∈ granLines y, inWindow s p.val (y.kind == .gstore) l = true ∧ regionOf s l = none) ∧
          stackFenced s (y.gaddr / 2 ^ 36) = false ∧ (y.kind = .gstore ∨ (y.kind = .gload ∧ e = [] ∧ armedWrite s p.val y.lines = false)))) →
      ∃ t, exec (.transferStart p e) s = .next t ∧ { t with plots := s.plots } = s ∧ (∀ q, q ≠ p.val → plot t q = plot s q) ∧
        plot t p.val = { x with xq := { y with running := true, left := y.lines, cap := [], errs := e } :: rest }) ∧
    (y.running = false → 1 ≤ y.count → y.kind = .gload ∨ y.kind = .gstore → noDigests x →
      (∃ l ∈ granLines y, inWindow s p.val (y.kind == .gstore) l = false) →
      ∃ t, exec (.transferStart p e) s = .next t ∧ (plot t p.val).mode = .aborted ∧ (plot t p.val).seqFault = fPlotGranaryRange ∧
        (plot t p.val).xq = rest ∧ (plot t p.val).scratch = x.scratch ∧ t.gran = s.gran) ∧
    (y.running = true → y.left = [] → y.kind ≠ .csend → noDigests x → ∃ t, exec (.transferEnd p 0) s = .next t ∧
      { t with plots := s.plots } = s ∧ (plot t p.val).xq = rest ∧ (plot t p.val).scratch = x.scratch ∧ (plot t p.val).cyc = x.cyc) ∧
    (y.running = false → ∀ n, exec (.transferEnd p n) s = .next s)

/-- TRANSFER_END of a granary transfer in a plot that has halted (05 R159, 07 R217): its lines move one in a cycle that serves their bank; a
GLOAD has then copied its granary lines to its scratchpad lines, a GSTORE has written its lines to the granary, and no other byte has changed. -/
def Claims.GranaryTransfers : Prop :=
  ∀ (s : State) (p : Fin 32) (x : Plot) (y : Xfer), s.live → x = plot s p.val → x.mode = .running → x.halted = true → x.xq = [y] → x.ops = [] →
    x.shadow = [] → noDigests x → y.running = true → y.left = y.lines → y.cap = [] → y.errs = [] → y.lines.Nodup → y.lines.length = y.count →
    y.gaddr % 128 = 0 →
    (y.kind = .gload → ∃ t, exec (.transferEnd p 0) s = .next t ∧ { t with plots := s.plots } = s ∧ (plot t p.val).xq = [] ∧
      (∀ j (h : j < y.lines.length) k, k < 128 → Mem.read (plot t p.val).scratch (128 * y.lines[j] + k) = Mem.read s.gran (y.gaddr + 128 * j + k)) ∧
      (∀ a, a / 128 ∉ y.lines → Mem.read (plot t p.val).scratch a = Mem.read x.scratch a)) ∧
    (y.kind = .gstore → y.lines ≠ [] → (∀ l ∈ y.lines, lineTaint x l = false) → ∃ t, exec (.transferEnd p 0) s = .next t ∧ (plot t p.val).xq = [] ∧
      (plot t p.val).scratch = x.scratch ∧ t.fault = s.fault ∧
      (∀ j (h : j < y.lines.length) k, k < 128 → Mem.read t.gran (y.gaddr + 128 * j + k) = Mem.read x.scratch (128 * y.lines[j] + k)) ∧
      (∀ a, a < y.gaddr ∨ y.gaddr + 128 * y.count ≤ a → Mem.read t.gran a = Mem.read s.gran a))

/-- PLOT_START, PLOT_STOP and the ends of a program (07 R235, R236, 17 Table 17-9): a start runs the word at its address with counters, flags,
generators and digests clear; a stop lets running work end; PLOT_DONE and PLOT_STOPPED report cycles and waits. -/
def Obligations.PlotStartAndEnd : Prop :=
  ∀ (s : State) (c : Cmd) (p : Fin 32) (x : Plot), s.live → p.val = c.u 0 1 → x = plot s p.val →
    (c.passes oPlotStart [(0, 1), (2, 2)] → ∀ e,
      (fallow s p.val = true ∨ x.mode = .running ∨ x.ctrlBad = true ∨ tableWords s p.val = 0 →
        exec (.plotStart c e) s = .next (cmdDone s c oPlotStart stUnitState)) ∧
      (fallow s p.val = false → x.mode ≠ .running → x.ctrlBad = false → 0 < tableWords s p.val → tableWords s p.val ≤ c.u 2 2 →
        exec (.plotStart c e) s = .next (cmdDone s c oPlotStart stRange)) ∧
      (fallow s p.val = false → x.mode ≠ .running → x.ctrlBad = false → c.u 2 2 < tableWords s p.val → s.plan.quiescing = true ∨ s.plan.phase = .apply →
        exec (.plotStart c e) s = .next (cmdDone s c oPlotStart stPlanBusy)) ∧
      (fallow s p.val = false → x.mode ≠ .running → x.ctrlBad = false → c.u 2 2 < tableWords s p.val → s.plan.quiescing = false → s.plan.phase ≠ .apply → e = .ok →
        ∃ t, exec (.plotStart c e) s = .next t ∧ { t with plots := s.plots } = s ∧ (plot t p.val).mode = .running ∧
          (plot t p.val).pc = BitVec.ofNat 14 (c.u 2 2) ∧ (plot t p.val).cyc = 0 ∧ (plot t p.val).ctr = [] ∧ (plot t p.val).flags = 0 ∧
          (plot t p.val).ags = [] ∧ (plot t p.val).digs = [] ∧ (plot t p.val).snap = none ∧ (plot t p.val).startCmd = some c ∧
          (plot t p.val).bindsArmed = true ∧ (plot t p.val).scratch = x.scratch ∧ (plot t p.val).bank0 = x.bank0 ∧
          (plot t p.val).xregs = x.xregs ∧ (plot t p.val).keys = x.keys)) ∧
    (c.passes oPlotStop [(0, 1)] →
      (x.mode ≠ .running → exec (.plotStop c) s = .next (cmdDone s c oPlotStop stOk)) ∧
      (x.mode = .running → haltIssued s p.val = true → ∃ t, exec (.plotStop c) s = .next t ∧ { t with plots := s.plots } = s ∧
        plot t p.val = { x with stops := x.stops ++ [c] }) ∧
      (x.mode = .running → haltIssued s p.val = false → ∃ t, exec (.plotStop c) s = .next t ∧ { t with plots := s.plots } = s ∧
        (plot t p.val).stopping = true ∧ (plot t p.val).stops = x.stops ++ [c] ∧ (plot t p.val).ops = x.ops ∧
        (∀ y ∈ (plot t p.val).xq, y.running = true))) ∧
    (x.mode = .running → x.halted = true → x.ops = [] → drained x = true → x.stops = [] → ∃ t e, exec (.plotDone p) s = .next t ∧
      (plot t p.val).mode = .idle ∧ (plot t p.val).cycles = BitVec.ofNat 64 (x.cyc + 1) ∧ newest t = some e ∧ e.kind = kPlotDone ∧
      e.unit = BitVec.ofNat 16 p.val ∧ e.body = pack 40 [(0, 2, x.pc.toNat), (8, 8, (x.cyc + 1) % 2 ^ 64), (16, 8, x.waitCycles.toNat)] ∧
      t.gran = s.gran) ∧
    (x.mode = .running → x.stopping = true → x.snap = none → x.ops = [] → x.xq = [] → x.stops = [c] → c.auth = .owner → x.startCmd = none →
      ∃ t e, exec (.plotStopped p) s = .next t ∧ (plot t p.val).mode = .idle ∧ newest t = some e ∧ e.kind = kPlotStopped ∧ e.ref = c.seq ∧
        (plot t p.val).stops = [] ∧ t.gran = s.gran)

/-- Waits (07 R212, R237): in a plot where nothing else moves, WAIT_END issues a held word in a later cycle in which it can, and counts the
cycles waited, but none past the first when only its own plot decides; SEQ_WAIT_LIMIT stops the plot at the limit. -/
def Claims.Waits : Prop :=
  ∀ (s : State) (p : Fin 32) (w : Nat) (x : Plot), s.live → x = plot s p.val → currentWord s p.val = some w → x.snap = none →
    exec (.waitEnd p 0) s = .next s ∧
    (atRest x → ∀ d, 1 ≤ d →
      (canIssue s p.val w = false → exec (.waitEnd p d) s = .next s) ∧
      (canIssue s p.val w = true → firstOnly s p.val w = true → exec (.waitEnd p d) s = .next s) ∧
      (canIssue s p.val w = true → firstOnly s p.val w = false → exec (.waitEnd p d) s = .next (issueWord (quietCycles p.val d s) p.val w) ∧
        (plot (quietCycles p.val d s) p.val).cyc = x.cyc + d ∧
        (plot (quietCycles p.val d s) p.val).waitCycles = x.waitCycles + BitVec.ofNat 64 d)) ∧
    (waitLimit s p.val = 0 → exec (.seqWaitLimit p) s = .next s) ∧
    (atRest x → 0 < waitLimit s p.val → canIssue s p.val w = false → ∃ t, exec (.seqWaitLimit p) s = .next t ∧ (plot t p.val).mode = .aborted ∧
      (plot t p.val).seqFault = fSeqWaitLimit ∧ (plot t p.val).pc = x.pc ∧ (plot t p.val).scratch = x.scratch ∧ t.gran = s.gran ∧
      (plot t p.val).cycles = BitVec.ofNat 64 (max x.cyc (x.heldAt + waitLimit s p.val * waitUnit s)))

/-! ## Exact sums -/

/-- R33, R34: the root's rounded sum of a chunk and its flags depend neither on the order in which parts arrive nor on how they were
grouped at the tiers below. -/
def Obligations.SumsDoNotDependOnArrival : Prop :=
  ∀ (b : List Byte) (base n : Nat),
    (∀ ps qs : List SumPart, List.Perm ps qs → rootSum b base (joinParts n ps) = rootSum b base (joinParts n qs)) ∧
    (∀ ps qs : List SumPart, (∀ p ∈ ps ++ qs, p.accs.length = n ∧ p.flags.length = n) →
      rootSum b base (joinParts n [joinParts n ps, joinParts n qs]) = rootSum b base (joinParts n (ps ++ qs)))

/-- R42: an integer SUM at the root is the exact sum of the raw addends modulo 2^n, or clamped once with IOVF 1, and IOVF is flagged when the
exact sum is out of range, however the addends were grouped at the tier below. -/
def Claims.IntegerSums : Prop :=
  ∀ (b : List Byte) (et w base n : Nat) (groups : List (List (List Byte))), et = 5 ∧ w = 32 ∨ et = 6 ∧ w = 64 → wbIn b = et → wbOut b = et →
    ∀ r, r = rootSum b base (joinParts n (groups.map fun g => joinParts n (g.map (rawPart et n)))) →
    (∀ i, i < n → ∀ total : Int, total = (groups.flatten.map fun p => (BitVec.ofNat w (codeAt et p i)).toInt).sum →
      (wbDesc b 20 20 = 0 → BitVec.ofNat w (codeAt et r.1 i) = BitVec.ofInt w total) ∧
      (wbDesc b 20 20 = 1 → (BitVec.ofNat w (codeAt et r.1 i)).toInt = max (-2 ^ (w - 1)) (min (2 ^ (w - 1) - 1) total)) ∧
      (total < -2 ^ (w - 1) ∨ 2 ^ (w - 1) - 1 < total → r.2 &&& flIOVF = flIOVF)) ∧
    ((∀ i, i < n → ∀ total : Int, total = (groups.flatten.map fun p => (BitVec.ofNat w (codeAt et p i)).toInt).sum →
      -2 ^ (w - 1) ≤ total ∧ total ≤ 2 ^ (w - 1) - 1) → r.2 = 0)

/-- R43: MIN and MAX over any number of parts give the addend that no other lies below, or above, as signed values in INT32 and INT64 and as
unsigned ones in UINT32; AND, OR and XOR act bit by bit. -/
def Obligations.MinMaxAndBitwise : Prop :=
  ∀ (b : List Byte) (et w n : Nat) (p : List Byte) (ps : List (List Byte)), et = 5 ∧ w = 32 ∨ et = 6 ∧ w = 64 ∨ et = 7 ∧ w = 32 →
    wbIn b = et → ∀ i, i < n → ∀ v : List Byte → BitVec w, (∀ q, v q = BitVec.ofNat w (codeAt et q i)) →
    ∃ r, (reduceCodes b n (p :: ps))[i]? = some (r, 0) ∧
      (wbRedop b = 1 ∨ wbRedop b = 2 → ∃ q ∈ p :: ps, BitVec.ofNat w r = v q ∧
        (wbRedop b = 1 → et ≠ 7 → ∀ x ∈ p :: ps, (v q).toInt ≤ (v x).toInt) ∧ (wbRedop b = 2 → et ≠ 7 → ∀ x ∈ p :: ps, (v x).toInt ≤ (v q).toInt) ∧
        (wbRedop b = 1 → et = 7 → ∀ x ∈ p :: ps, (v q).toNat ≤ (v x).toNat) ∧ (wbRedop b = 2 → et = 7 → ∀ x ∈ p :: ps, (v x).toNat ≤ (v q).toNat)) ∧
      (wbRedop b = 3 → BitVec.ofNat w r = ps.foldl (fun a q => a &&& v q) (v p)) ∧
      (wbRedop b = 4 → BitVec.ofNat w r = ps.foldl (fun a q => a ||| v q) (v p)) ∧
      (wbRedop b = 5 → BitVec.ofNat w r = ps.foldl (fun a q => a ^^^ v q) (v p))

/-- R47, R48: an element that fits an XP64 word comes out of it with the same result in every format and mode. -/
def Claims.PartialsAreExact : Prop :=
  ∀ (a : Acc), (emit a).2 = [] → (emit a).1 < 2 ^ 64 ∧ ∃ a', readXp64 (emit a).1 = some a' ∧
    ∀ (f : Fmt) (mode : RMode), (Acc.round a' f mode).1 = (Acc.round a f mode).1

/-! ## Collectives and movements -/

/-- COL_WAYBILL at a slot (03 R84, R89, R90): a fenced furrow refuses it with an ABORTED outcome; one before the position served, of an
earlier headland than service started at, or too far ahead, fences the furrow; one of an ended collective and a copy of a held one
are only taken; one that differs from what is held is forwarded and then aborts the collective; a new one is held, and a node
below the root forwards it unchanged to its parent. -/
def Obligations.WaybillsAtASlot : Prop :=
  ∀ (s : State) (slot : BitVec 12) (p : Pkt) (f k child : Nat) (n : NodeRec) (st : Node) (pos : Nat × Nat) (u : State), s.live → p.whole →
    slotNode s slot.toNat = some (f, n, k) → n.lead = slot.toNat → wbFurrow p.payload = f → st = nodeSt s slot.toNat →
    pos = (wbHeadland p.payload, wbIdx p.payload) → u = { s with delivered := s.delivered.eraseP fun d => d.p == p } →
    billChild s f n p.payload p.src = some child →
    (f ∈ s.coll.fenced → exec (.colWaybill slot p) s = .next (refuseBill u slot.toNat p)) ∧
    (f ∉ s.coll.fenced → s.plan.quiescing = false →
      (posBefore pos (st.h, st.idx) = true ∨ pos.1 < st.fresh ∨ 16 < posDistance s (st.h, st.idx) pos →
        exec (.colWaybill slot p) s = .next (refuseBill (collOrder u f slot.toNat) slot.toNat p) ∧
        f ∈ (collOrder u f slot.toNat).coll.fenced) ∧
      (st.fresh ≤ pos.1 → posBefore pos (st.h, st.idx) = false → posDistance s (st.h, st.idx) pos ≤ 16 →
        (pos ∈ st.aborted → exec (.colWaybill slot p) s = .next u) ∧
        (pos ∉ st.aborted → ∀ same : List Bill,
          same = st.bills.filter (fun x => wbColl x.bytes == wbColl p.payload && wbHeadland x.bytes == wbHeadland p.payload) →
          ((∃ x ∈ same, wbOrd x.bytes = wbOrd p.payload) → (∀ x ∈ same, wbOrd x.bytes = wbOrd p.payload → x.bytes = p.payload) →
            exec (.colWaybill slot p) s = .next u) ∧
          (memberHedged s f n = false → ∀ m, parentOf s f n = some m →
            ((∃ x ∈ same, wbOrd x.bytes = wbOrd p.payload) → (∀ x ∈ same, wbOrd x.bytes = wbOrd p.payload → x.bytes ≠ p.payload) →
              ∃ (t : State) (l r : Lodged) (ls : List Lodged), exec (.colWaybill slot p) s = .next t ∧ t.ingress = s.ingress ++ l :: r :: ls ∧
                l.p.op = pColWaybill ∧ l.p.dst = addr m.device 0 ∧ l.p.payload = p.payload ∧ r.p.op = pColAbort ∧ r.p.dst = addr m.device 0 ∧
                leAt r.p.payload 0 2 = fWaybillMismatch.toNat ∧ leAt r.p.payload 2 2 = wbIdx p.payload ∧
                t.fault.lastCode = fWaybillMismatch ∧ (nodeSt t slot.toNat).bills = st.bills ∧ t.gran = s.gran) ∧
            ((∀ x ∈ same, wbOrd x.bytes ≠ wbOrd p.payload) → (∀ x ∈ same, wbHash x.bytes = wbHash p.payload) →
              (wbIdx p.payload, wbColl p.payload) ∈ orderList s f →
              targetHedged s (memberAddr (memberWord s f (wbOrd p.payload))).toNat = false →
              portHedged s ((memberAddr (memberWord s f (wbOrd p.payload))).toNat % 1024) = false →
              ∃ (t : State) (l : Lodged) (x : Bill), exec (.colWaybill slot p) s = .next t ∧
                (nodeSt t slot.toNat).bills = st.bills ++ [x] ∧ x.child = child ∧ x.bytes = p.payload ∧ x.arrived = s.clk.timebase ∧
                t.ingress = s.ingress ++ [l] ∧ l.p.op = pColWaybill ∧ l.p.dst = addr m.device 0 ∧ l.p.payload = p.payload ∧
                t.delivered = u.delivered ∧ t.fault = s.fault ∧ t.gran = s.gran)))))

/-- COL_DATA and COL_DATA_END at a slot (03 R79, R89): a packet of a collective that the slot does not serve yet stays, and one of a
collective it holds no waybill of is dropped; a packet of a dense reduce-scatter in the window that ends no child's part is held, and
nothing else changes but the lag record. COL_CREDIT gives back chunk credits of its slot to its sender alone (R80). -/
def Claims.ChunksAndCredits : Prop :=
  ∀ (s : State) (p : Pkt), s.live → p.whole →
    (∀ (slot : BitVec 12) (seg : Option (BitVec 12)) (f k : Nat) (n : NodeRec) (st : Node) (i : Instr) (op : BitVec 5),
      slotNode s slot.toNat = some (f, n, k) → st = nodeSt s n.lead →
      (i = .colData ⟨some slot, seg⟩ p ∧ op = pColData) ∨ (i = .colDataEnd ⟨some slot, seg⟩ p ∧ op = pColDataEnd) → p.op = op →
      ((∀ b ∈ served st, wbColl b.bytes ≠ p.fcid.toNat) →
        ((∃ b ∈ st.bills, wbColl b.bytes = p.fcid.toNat) → exec i s = .next s) ∧
        ((∀ b ∈ st.bills, wbColl b.bytes ≠ p.fcid.toNat) →
          exec i s = .next { s with delivered := s.delivered.eraseP fun d => d.p == p })) ∧
      (∀ (b : Bill) (bs : List Bill) (child c : Nat), served st = b :: bs → wbColl b.bytes = p.fcid.toNat → wbHalf b.bytes = 0 →
        wbRedop b.bytes ≠ 6 → seg = none → childOf s f n p.src = some child → memberHedged s f n = false →
        (n.isRoot = false ∨ st.granted = true) → st.chunksDone = [] → 1 ≤ n.stripe → c = p.seq.toNat / 32 → c % n.stripe = k →
        c < n.window * n.stripe → c < cdiv (denseLen s f n b.bytes).2 1792 →
        ∀ q, q = { child, src := p.src, pos := k, chunk := c, pkt := p.seq.toNat % 32, last := p.op == pColDataEnd, payload := p.payload } →
        partTakes st q = true → partOf { st with pkts := st.pkts ++ [q] } q.child q.chunk = none →
        ∃ t, exec i s = .next t ∧ (nodeSt t n.lead).pkts = st.pkts ++ [q] ∧ t.ingress = s.ingress ∧
          (nodeSt t n.lead).bills = st.bills ∧ (nodeSt t n.lead).out = st.out ∧
          t.delivered = s.delivered.eraseP (fun d => d.p == p) ∧ t.gran = s.gran ∧ t.fault = s.fault ∧ t.host = s.host)) ∧
    (∀ (owner sink count : Nat), owner = fieldOf p.dst → sink = sinkOfSlot (devOf p.src) (leAt p.payload 0 2 % 4096) →
      count = leAt p.payload 2 2 → s.coll.outbox = [] → 0 < creditsUsed s owner sink →
      ∃ t, exec (.colCredit p) s = .next t ∧ creditsUsed t owner sink = creditsUsed s owner sink - count ∧
        (∀ o k, o ≠ owner ∨ k ≠ sink → creditsUsed t o k = creditsUsed s o k) ∧ t.ingress = s.ingress ∧ t.gran = s.gran)

/-- COL_OUTCOME at a node below the root (03 R89, R96): one from its parent goes to every child node unchanged, and the node's service of
that position ends. COL_ABORT (R93, R96): a node below the root passes the request to its parent; at the root every packet that
leaves is an ABORTED outcome, and the next position is served. -/
def Claims.OutcomesAndAborts : Prop :=
  ∀ (s : State) (slot : BitVec 12) (p : Pkt) (f k : Nat) (n : NodeRec) (st : Node), s.live → p.whole →
    slotNode s slot.toNat = some (f, n, k) → n.lead = slot.toNat → st = nodeSt s slot.toNat → st.aborted = [] →
    (fromParent s f n p.src = true → memberHedged s f n = false → leAt p.payload 6 1 = 0 →
      (leAt p.payload 24 8, leAt p.payload 4 2) = (st.h, st.idx) → (st.idx, p.fcid.toNat) ∈ orderList s f →
      ∃ (t : State) (ls : List Lodged), exec (.colOutcome (some slot) p) s = .next t ∧ t.ingress = s.ingress ++ ls ∧
        ls.map (fun l => l.p.dst) = (childNodesOf s f n).map (fun c => addr c.device 0) ∧
        (∀ l ∈ ls, l.p.op = pColOutcome ∧ l.p.payload = p.payload ∧ l.p.fcid = p.fcid) ∧ (nodeSt t slot.toNat).pkts = [] ∧
        (nodeSt t slot.toNat).bills = st.bills.filter (fun b => !(wbHeadland b.bytes == st.h && wbIdx b.bytes == st.idx)) ∧
        posBefore (st.h, st.idx) ((nodeSt t slot.toNat).h, (nodeSt t slot.toNat).idx) = true ∧ t.gran = s.gran) ∧
    (∀ m, parentOf s f n = some m → abortFrom s f p.src = true → (leAt p.payload 2 2, p.fcid.toNat) ∈ orderList s f →
      abortPos st (leAt p.payload 2 2) ≠ none →
      ∃ (t : State) (l : Lodged), exec (.colAbort slot p) s = .next t ∧ t.ingress = s.ingress ++ [l] ∧ l.p.op = pColAbort ∧
        l.p.dst = addr m.device 0 ∧ l.p.fcid = p.fcid ∧ leAt l.p.payload 0 2 = leAt p.payload 0 2 ∧
        leAt l.p.payload 2 2 = leAt p.payload 2 2 ∧ t.coll = s.coll ∧ t.gran = s.gran) ∧
    (n.isRoot = true → abortFrom s f p.src = true → leAt p.payload 2 2 = st.idx → (st.idx, p.fcid.toNat) ∈ orderList s f →
      st.bills ≠ [] → (∀ x ∈ st.bills, wbHeadland x.bytes = st.h ∧ wbIdx x.bytes = st.idx) →
      ∃ (t : State) (ls : List Lodged), exec (.colAbort slot p) s = .next t ∧ t.ingress = s.ingress ++ ls ∧
        (∀ l ∈ ls, l.p.op = pColOutcome ∧ leAt l.p.payload 6 1 = 1 ∧ leAt l.p.payload 8 2 = leAt p.payload 0 2) ∧
        (nodeSt t slot.toNat).bills = [] ∧
        posBefore (st.h, st.idx) ((nodeSt t slot.toNat).h, (nodeSt t slot.toNat).idx) = true ∧ t.gran = s.gran)

/-- COL_GRANT at a plot (07 R219) writes the payload into its GRANT binding, which completes with its flag set from the next cycle; at the
update path it opens the all-gather's data (04 R121); at a node it waits until one has come for every waybill held, and the grant of
a single waybill goes on unchanged to its member (03 R86). -/
def Claims.GrantsArrive : Prop :=
  ∀ (s : State) (p : Pkt) (f i : Nat), s.live → p.whole → collPlace s p.fcid.toNat = some (f, i) →
    (p.op = pColGrant → ∀ (q b : Nat) (r : BindRec), plotOf s p = some q → findBind s q 1 f = some (b, r) →
      (bindOpen s q b = false → exec (.colGrant ⟨none, p⟩) s = .next s) ∧
      (bindOpen s q b = true → stillRead (plot s q) [r.first] = false →
        ∃ t, exec (.colGrant ⟨none, p⟩) s = .next t ∧ (bindSt t q b).complete = true ∧ (bindSt t q b).grant = slice p.payload 0 32 ∧
          (plot t q).came = (plot s q).came ||| BitVec.ofNat 64 (2 ^ (8 + b)) ∧ (plot t q).flags = (plot s q).flags ∧
          Mem.reads (plot t q).scratch (128 * r.first) 32 = slice p.payload 0 32 ∧
          (∀ a, a < 128 * r.first ∨ 128 * r.first + 32 ≤ a → Mem.read (plot t q).scratch a = Mem.read (plot s q).scratch a) ∧
          (p.dst.toNat, p.fcid.toNat) ∈ t.coll.grants ∧ t.delivered = s.delivered.eraseP (fun d => d.p == p) ∧ t.gran = s.gran)) ∧
    (plotOf s p = none → ∀ d, feedOut s f i = some d →
      ∃ t, exec (.colGrant ⟨none, p⟩) s = .next t ∧ (feedSt t d).outGranted = true ∧ (feedSt t d).chunks = (feedSt s d).chunks ∧
        t.delivered = s.delivered.eraseP (fun d => d.p == p) ∧ t.gran = s.gran) ∧
    (plotOf s p = none → feedOut s f i = none → exec (.colGrant ⟨none, p⟩) s = .next s) ∧
    (∀ (slot : BitVec 12) (k : Nat) (n : NodeRec) (b : Bill) (bs : List Bill), slotNode s slot.toNat = some (f, n, k) → n.lead = slot.toNat →
      fromParent s f n p.src = true → served (nodeSt s n.lead) = b :: bs → wbColl b.bytes = p.fcid.toNat →
      wbHeadland b.bytes = leAt p.payload 24 8 →
      ((nodeSt s n.lead).grantsIn.length < bs.length → ∃ t, exec (.colGrant ⟨some slot, p⟩) s = .next t ∧
        (nodeSt t n.lead).grantsIn = (nodeSt s n.lead).grantsIn ++ [p.payload] ∧ (nodeSt t n.lead).granted = (nodeSt s n.lead).granted ∧
        t.ingress = s.ingress ∧ t.delivered = s.delivered.eraseP (fun d => d.p == p) ∧ t.gran = s.gran) ∧
      (bs = [] → (nodeSt s n.lead).grantsIn = [] → wbSparse b.bytes = false → b.child < 2 ^ 24 →
        homeRange s f (wbOrd b.bytes) (wbHalf b.bytes) = n.range →
        ∃ (t : State) (l : Lodged), exec (.colGrant ⟨some slot, p⟩) s = .next t ∧ t.ingress = s.ingress ++ [l] ∧ l.p.op = pColGrant ∧
          l.p.dst = memberAddr (memberWord s f (wbOrd b.bytes)) ∧ l.p.payload = p.payload ∧ (nodeSt t n.lead).granted = true ∧ t.gran = s.gran))

/-- MOVE_DATA and MOVE_DONE at a plot (03 R71, 07 R219): a transfer of one packet is written into its binding, which completes, and its
completion and crop digest go back to the sender and to the tally; without a binding the transfer is refused and no plot changes; a
binding not armed leaves the packet. A fenced stage only takes its packets (08 R259). A completion told to the plot that sent is
taken, and a marker ends a transfer that the plot receives: one entry, nothing written. -/
def Claims.MovementsArrive : Prop :=
  ∀ (s : State) (p : Pkt), s.live → p.whole →
    (p.op = pMoveData ∨ p.op = pMoveDone → ∀ st i, toStage s p = some (st, i) → (stage s st).fenced = true →
      exec (if p.op = pMoveData then .moveData p else .moveDone p) s = .next { s with delivered := s.delivered.eraseP fun x => x.p == p }) ∧
    (toStage s p = none → ∀ q f total, plotOf s p = some q → f = p.fcid.toNat % 256 → s.coll.moves = [] → total = moveTotal p →
      (p.op = pMoveData → findBind s q 0 f = none → ∃ (t : State) (l : Lodged), exec (.moveData p) s = .next t ∧ t.ingress = s.ingress ++ [l] ∧
        l.p.op = pMoveDone ∧ l.p.dst = p.src ∧ l.p.seq = p.seq ∧ leAt l.p.payload 0 2 = fFurrowRoute.toNat ∧
        t.fault.lastCode = fFurrowRoute ∧ t.plots = s.plots ∧ t.gran = s.gran) ∧
      (p.op = pMoveData → ∀ (b : Nat) (r : BindRec), findBind s q 0 f = some (b, r) → isSealed s q r = false →
        (bindOpen s q b = false → exec (.moveData p) s = .next s) ∧
        (bindOpen s q b = true → moveEtype p = 0 → leAt p.payload 0 8 % 2 ^ 40 = 0 → 4 * total + 16 = p.payload.length → total ≤ 32 * r.lines →
          stillRead (plot s q) (r.touched 0 (4 * total)) = false →
          ∃ (t : State) (l : Lodged) (e : Tally), exec (.moveData p) s = .next t ∧ t.ingress = s.ingress ++ [l] ∧ l.p.op = pMoveDone ∧
            l.p.dst = p.src ∧ l.p.seq = p.seq ∧ leAt l.p.payload 0 2 = 0 ∧ newest t = some e ∧ e.kind = kMoveDone ∧ e.fault = 0 ∧
            (bindSt t q b).complete = true ∧ t.coll.moves = [] ∧
            Mem.reads (plot t q).scratch (128 * r.first) (4 * total) = slice p.payload 16 (4 * total) ∧
            (∀ a, a < 128 * r.first ∨ 128 * r.first + 4 * total ≤ a → Mem.read (plot t q).scratch a = Mem.read (plot s q).scratch a) ∧
            t.delivered = s.delivered.eraseP (fun d => d.p == p) ∧ t.gran = s.gran)) ∧
      (p.op = pMoveDone →
        (leAt p.payload 0 2 = 0 → exec (.moveDone p) s = .next { s with delivered := s.delivered.eraseP fun x => x.p == p }) ∧
        (leAt p.payload 0 2 ≠ 0 → moveDst s f p.dst ≠ p.src →
          ∃ (t : State) (e : Tally), exec (.moveDone p) s = .next t ∧ newest t = some e ∧ e.kind = kMoveDone ∧
            e.fault = BitVec.ofNat 16 (leAt p.payload 0 2) ∧ t.plots = s.plots ∧ t.ingress = s.ingress ∧ t.gran = s.gran)))

/-! ## Sort engines and winnow filters -/

/-- R248, R252: the output of a sort job is its input records in the order of R248 and no other, cut after LIMIT records, with their origin
tags when TAG is 1. Order words of UINT and SINT keys rise with the keys (from R247). -/
def Obligations.SortOrder : Prop :=
  (∀ (s : State) (n : Nat), ∃ rs : List SortRec,
    List.Perm rs ((stage s n).srcs.flatMap fun e => sourceRecs s n e.1 e.2 (e.2.len / max (recSize s n) 1)) ∧
    List.Pairwise (fun x y => sortLe (stDesc s n) x y = true) rs ∧
    sortOutput s n = (if stLimit s n = 0 then rs else rs.take (stLimit s n)).map fun r =>
      if stTag s n = 1 then r.2.2.2 ++ leBytes 8 (r.2.1 * 2 ^ 56 + r.2.2.1) else r.2.2.2) ∧
  (∀ (desc : Bool) (x y : SortRec), sortLe desc x y = true ↔
    (desc = false ∧ x.1 < y.1) ∨ (desc = true ∧ y.1 < x.1) ∨ (x.1 = y.1 ∧ x.2.1 < y.2.1) ∨ (x.1 = y.1 ∧ x.2.1 = y.2.1 ∧ x.2.2.1 ≤ y.2.2.1)) ∧
  (∀ w k l : Nat, 1 ≤ w → k < 2 ^ (8 * w) → l < 2 ^ (8 * w) →
    (orderWord 0 w k < orderWord 0 w l ↔ k < l) ∧
    (orderWord 1 w k < orderWord 1 w l ↔ (BitVec.ofNat (8 * w) k).toInt < (BitVec.ofNat (8 * w) l).toInt))

/-- WINNOW_RECORD (08 R255, R257): the next record that has come is kept when the program leaves P0 set, rejected otherwise. MERGE_PASS (R250):
a pass merges every group of 64 runs into one run in the other half of the window and writes nothing else, or an uncorrectable spill
read aborts the job with one STAGE_ABORT entry and the stage is fenced (R259). -/
def Claims.StageSteps : Prop :=
  ∀ (s : State) (st : Fin 24) (x : Stage), s.live → x = stage s st.val →
    (∀ e es, 8 ≤ st.val → x.srcs = e :: es → x.running = true → (x.taken + 1) * stRb s st.val ≤ e.2.prefixLen → stRb s st.val ≠ 0 →
      ∃ t, exec (.winnowRecord st) s = .next t ∧ (stage t st.val).taken = x.taken + 1 ∧ (stage t st.val).srcs = x.srcs ∧
        (∀ r, r = Mem.reads e.2.bytes (x.taken * stRb s st.val) (stRb s st.val) → ∀ keep, keep =
          ((((stTab s st.val 2).map entry64).foldl (winnowStep r)
            { g := (stTab s st.val 1).map entry64, p := List.replicate 8 false }).p.getD 0 false) →
          (keep = true → (stage t st.val).kept = x.kept ++ [r] ∧ (stage t st.val).rejected = x.rejected) ∧
          (keep = false → (stage t st.val).kept = x.kept ∧ (stage t st.val).rejected = x.rejected ++ [r])) ∧
        (∀ m, m ≠ st.val → stage t m = stage s m) ∧ t.ingress = s.ingress ∧ t.gran = s.gran) ∧
    (∀ k m, x.spill = true → k = (jobRecords s st.val).getD 0 → x.pass ≠ 0 → x.pass ≤ sortPasses k → m = 65536 * 64 ^ x.pass →
      (∃ t, exec (.mergePass st .ok) s = .next t ∧ stage t st.val = { x with pass := x.pass + 1 } ∧ (∀ m, m ≠ st.val → stage t m = stage s m) ∧
        t.ingress = s.ingress ∧
        (∀ i, m * i < k → ((spillRecs t st.val x.pass k).drop (m * i)).take m =
          sortRecs s st.val (((spillRecs s st.val (x.pass - 1) k).drop (m * i)).take m)) ∧
        (∀ a, a < spillBase s st.val x.pass ∨ spillBase s st.val x.pass + k * spillSize s st.val ≤ a → Mem.read t.gran a = Mem.read s.gran a)) ∧
      (∃ t e, exec (.mergePass st .ue) s = .next t ∧ (stage t st.val).fenced = true ∧ (stage t st.val).running = false ∧
        (stage t st.val).lastFault = fStageUe ∧ newest t = some e ∧ e.kind = kStageAbort ∧ e.fault = fStageUe ∧
        e.unit = BitVec.ofNat 16 st.val ∧ t.gran = s.gran))

/-- STAGE_DONE (08 R244, R250, R254, R257, R262): the job's records, those of a spilled job merged from the last pass's runs, leave as one output transfer, the job count and the record count advance, the
stage is ready for its next job, and the STAGE_DONE entry has the stage, the job number, the counts and the crop digest. -/
def Claims.StageJobsEnd : Prop :=
  ∀ (s : State) (st : Fin 24) (x : Stage) (k passes : Nat) (recs : List (List Byte)), s.live → x = stage s st.val → x.running = true →
    x.fenced = false → jobWhole s st.val = true → jobRecords s st.val = some k → x.begun = none → x.sent = 0 →
    (st.val < 8 ∧ x.spill = false ∧ passes = 0 ∧ recs = sortOutput s st.val ∨
      st.val < 8 ∧ x.spill = true ∧ passes = sortPasses k ∧ x.pass = passes + 1 ∧
        recs = (cutLimit s st.val (sortRecs s st.val (spillRecs s st.val passes k))).map (outRecord s st.val) ∨
      8 ≤ st.val ∧ x.spill = false ∧ passes = 0 ∧ x.taken = k ∧ stMode s st.val = 0 ∧ recs = x.kept) →
    ∃ (t : State) (e : Tally) (ls : List Lodged), exec (.stageDone st .ok) s = .next t ∧ t.ingress = s.ingress ++ ls ∧
      (∀ l ∈ ls, l.p.op = pMoveData ∧ l.p.dst = stageDst s st.val (stOut s st.val)) ∧ ls ≠ [] ∧
      (stage t st.val).jobs = x.jobs + 1 ∧ (stage t st.val).running = false ∧ (stage t st.val).srcs = [] ∧
      (stage t st.val).due = x.due ∧ (stage t st.val).resync = x.resync ∧
      (stage t st.val).out = x.out + BitVec.ofNat 64 recs.length ∧ newest t = some e ∧ e.kind = kStageDone ∧ e.unit = BitVec.ofNat 16 st.val ∧
      e.body = pack 40 [(0, 4, x.jobs.toNat), (4, 1, passes), (8, 8, k), (16, 8, recs.length), (24, 8, (crop recs.flatten).toNat)] ∧
      t.fault = s.fault ∧ t.gran = s.gran

/-! ## The parameter update -/

/-- UPD_GROUP_WRITE (04 R116, R576): a write for a headland that has passed is stale, one for no group is out of range, any other waits for
its step close with no effect before it. -/
def Claims.GroupWrites : Prop :=
  ∀ (s : State) (c : Cmd), s.live → c.passes oUpdGroupWrite [(0, 1), (1, 1), (2, 1), (4, 2), (8, 8), (16, 48)] →
    1 ≤ c.u 2 1 → c.u 2 1 ≤ 48 → c.u 1 1 + c.u 2 1 ≤ 48 ∨ 68 ≤ c.u 1 1 ∧ c.u 1 1 + c.u 2 1 ≤ 80 → c.u 4 2 ≤ 4095 →
    (c.u 8 8 < now s → exec (.updGroupWrite c) s = .next (cmdDone s c oUpdGroupWrite stStaleHeadland)) ∧
    (now s ≤ c.u 8 8 → shareDefined s (c.u 0 1) = false ∨ shGroups s (c.u 0 1) ≤ c.u 4 2 →
      exec (.updGroupWrite c) s = .next (cmdDone s c oUpdGroupWrite stRange)) ∧
    (now s ≤ c.u 8 8 → shareDefined s (c.u 0 1) = true → c.u 4 2 < shGroups s (c.u 0 1) →
      exec (.updGroupWrite c) s = .next { s with upd := { s.upd with writes := s.upd.writes ++ [c] } })

/-- UPD_FEED_GRANT (04 R108, R114, R117, R119): a grant for a feed of a sound share is taken, and the feed's own all-gather waybill leaves; a
descriptor or a group record that fails its check loses the share, and the root is asked to abort. UPD_CHUNK_APPLY leaves a chunk that is
not whole (R120); an uncorrectable read, or a share that is lost, aborts the feed (R133), and a failed check loses the share (R108). -/
def Claims.Feeds : Prop :=
  ∀ s : State, s.live →
    (∀ (p : Pkt) (bill : List Byte) (chk : Bool) (f i k sh : Nat), p.whole → collPlace s p.fcid.toNat = some (f, i) →
      feedFor s f i (leAt p.payload 6 2 % 4096) = some k → sh = fdShare s k → hashHolds s sh = false → s.yoke.role = .none →
      (feedSt s k).granted = false → (feedSt s k).outcome = none →
      (chk = false ∨ groupsOk s sh = false → ∃ t, exec (.updFeedGrant p bill chk) s = .next t ∧ (shareSt t sh).lost = true ∧ t.gran = s.gran ∧
        t.delivered = s.delivered.eraseP (fun d => d.p == p) ∧
        ((∀ q ∈ feedIds s, fdShare s q = sh → (feedSt s q).granted = false) → (shareSt t sh).lastFault = fUpdShareCheck ∧
          t.fault.lastCode = fUpdShareCheck ∧ t.upd.feeds = s.upd.feeds)) ∧
      (chk = true → groupsOk s sh = true → shareRefuses s sh = none → leAt p.payload 16 8 = fdLen s k → wbRedop bill = 0 → wbOut bill = 0 →
        ∃ (t : State) (ls : List Lodged), exec (.updFeedGrant p bill chk) s = .next t ∧ (feedSt t k).granted = true ∧
          (feedSt t k).chunks = 0 ∧ (shareSt t sh).feedActive = true ∧ t.ingress = s.ingress ++ ls ∧ ((leafNode s (fdOut s k).1 0).isSome = true → ls ≠ []) ∧
          (∀ l ∈ ls, l.p.op = pColWaybill ∧ l.p.payload = updBill s k (leAt p.payload 24 8)) ∧ t.fault = s.fault ∧ t.gran = s.gran)) ∧
    (∀ (k : BitVec 12) (r : DescRead) (x : FeedSt), x = feedSt s k.toNat →
      (gathered x.parts x.chunks = none → r.chk = true → exec (.updChunkApply k r) s = .next s) ∧
      ((planRec s 0x0A 0x02 k.toNat).isSome = true → shareLost s (fdShare s k.toNat) = none → r.chk = false →
        ∃ t, exec (.updChunkApply k r) s = .next t ∧ (shareSt t (fdShare s k.toNat)).lost = true ∧
          (feedSt t k.toNat).chunks = x.chunks ∧ t.gran = s.gran) ∧
      (∀ (bs : List Byte) (sh : Nat), x.granted = true → x.aborted = false → x.chunks < cdiv (fdLen s k.toNat) 1792 →
        gathered x.parts x.chunks = some bs → sh = fdShare s k.toNat →
        ((shareLost s sh).isSome = true ∨ r.chk = true ∧ groupsOk s sh = true ∧ r.e = .ue →
          ∃ t, exec (.updChunkApply k r) s = .next t ∧ (feedSt t k.toNat).aborted = true ∧ (feedSt t k.toNat).parts = [] ∧
            (feedSt t k.toNat).chunks = x.chunks ∧ t.gran = s.gran) ∧
        (shareLost s sh = none → r.chk = false ∨ groupsOk s sh = false →
          ∃ t, exec (.updChunkApply k r) s = .next t ∧ (shareSt t sh).lost = true ∧ (feedSt t k.toNat).chunks = x.chunks ∧ t.gran = s.gran)))

/-- UPD_CHUNK_APPLY on a whole chunk (04 R120): the feed's count of chunks advances and its packets are let go. One element of an IN_PLACE share
with FP32 output under rule 0 (R122, R125) writes v' = beta1 * v + g and w' = w - eta * (v' + lambda * w), sends w' to staging, and changes no
other byte of the granary. -/
def Obligations.ChunksApplied : Prop :=
  ∀ (s : State), s.live →
    (∀ (k : BitVec 12) (bs : List Byte) (sh : Nat), sh = fdShare s k.toNat → (feedSt s k.toNat).granted = true →
      (feedSt s k.toNat).aborted = false → (feedSt s k.toNat).chunks < cdiv (fdLen s k.toNat) 1792 →
      gathered (feedSt s k.toNat).parts (feedSt s k.toNat).chunks = some bs → shareLost s sh = none → groupsOk s sh = true →
      ∃ t, exec (.updChunkApply k {}) s = .next t ∧ (feedSt t k.toNat).chunks = (feedSt s k.toNat).chunks + 1 ∧
        (feedSt t k.toNat).granted = true ∧ t.fault = s.fault ∧ t.plots = s.plots ∧
        (∀ q ∈ (feedSt t k.toNat).parts, q ∈ (feedSt s k.toNat).parts ∧ q.1 ≠ (feedSt s k.toNat).chunks)) ∧
    (∀ (sh i g : Nat) (b : List Byte) (gr w m : Nat), b = groupRec s sh (groupOf s sh i) → shRule s sh = 0 → shBanked s sh = false →
      shWout s sh = 0 → gate b g = some gr → w = granF s (stateAddr s sh false 0 i) → m = granF s (stateAddr s sh false 1 i) →
      (∀ a, a ∈ [stateAddr s sh false 0 i, stateAddr s sh false 1 i] → a + 4 ≤ outAddr s sh i ∨ outAddr s sh i + 4 ≤ a) →
      ∀ v x, v = fadd (fmul (gF b 24) m) gr → x = fsub w (fmul (gF b 16) (fadd v (fmul (gF b 20) w))) →
        leNat (Mem.reads (applyElem s sh i g).gran (stateAddr s sh false 0 i) 4) = x % 2 ^ 32 ∧
        leNat (Mem.reads (applyElem s sh i g).gran (stateAddr s sh false 1 i) 4) = v % 2 ^ 32 ∧
        leNat (Mem.reads (applyElem s sh i g).gran (outAddr s sh i) 4) = x % 2 ^ 32 ∧
        (shareSt (applyElem s sh i g) sh).applied = (shareSt s sh).applied + 1 ∧
        (∀ a, (∀ b, b ∈ [stateAddr s sh false 0 i, stateAddr s sh false 1 i, outAddr s sh i] → a < b ∨ b + 4 ≤ a) →
          Mem.read (applyElem s sh i g).gran a = Mem.read s.gran a))

/-- PRECOND_PASS (04 R129) does nothing before every gradient of its group has come, or once a feed of the group has aborted; on a group
that is due, the first event computes the products and the second counts its elements as updated. ROOT_REFRESH_DONE (R130) marks a
pending refresh as finished, once. A record that fails its check loses the share (R115). -/
def Obligations.PreconditionedRule : Prop :=
  ∀ (s : State) (sh : BitVec 8) (g : BitVec 12) (b : List Byte) (x : ShareSt) (met : List Nat), s.live → b = groupRec s sh.toNat g.toNat →
    x = shareSt s sh.toNat → met = (feedIds s).filter (fun k => feedMeets s k sh.toNat g.toNat) →
    (shRule s sh.toNat ≠ 2 ∨ shGroups s sh.toNat ≤ g.toNat ∨ (shareLost s sh.toNat).isSome = true →
      (∀ r, exec (.precondPass ⟨sh, g⟩ r) s = .next s) ∧ ∀ chk, exec (.rootRefreshDone ⟨sh, g⟩ chk) s = .next s) ∧
    (shRule s sh.toNat = 2 → g.toNat < shGroups s sh.toNat → shareLost s sh.toNat = none →
      (Tab.get 0 x.arrived g.toNat ≠ 0 → Tab.get 0 x.updated g.toNat = 0 → ∀ r : DescRead, r.chk = false ∨ groupOk b = false →
        ∃ t, exec (.precondPass ⟨sh, g⟩ r) s = .next t ∧ (shareSt t sh.toNat).lost = true ∧ t.gran = s.gran) ∧
      (g.toNat ∉ x.refreshed → ∀ chk, chk = false ∨ groupOk b = false →
        ∃ t, exec (.rootRefreshDone ⟨sh, g⟩ chk) s = .next t ∧ (shareSt t sh.toNat).lost = true ∧ t.gran = s.gran) ∧
      (groupOk b = true →
        (Tab.get 0 x.arrived g.toNat ≠ gLen b ∨ (∃ k ∈ met, (feedSt s k).aborted = true) → ∀ e, exec (.precondPass ⟨sh, g⟩ { e }) s = .next s) ∧
        (Tab.get 0 x.arrived g.toNat = gLen b → gLen b ≠ 0 → Tab.get 0 x.updated g.toNat = 0 → (∀ k ∈ met, (feedSt s k).aborted = false) →
          (g.toNat ∉ x.mid → ∃ t, exec (.precondPass ⟨sh, g⟩ {}) s = .next t ∧ (shareSt t sh.toNat).mid = x.mid ++ [g.toNat] ∧
            (shareSt t sh.toNat).updated = x.updated ∧ t.fault = s.fault ∧ t.plots = s.plots ∧ t.ingress = s.ingress) ∧
          (g.toNat ∈ x.mid → ∃ t, exec (.precondPass ⟨sh, g⟩ {}) s = .next t ∧ g.toNat ∉ (shareSt t sh.toNat).mid ∧
            Tab.get 0 (shareSt t sh.toNat).updated g.toNat = gRows b * gCols b ∧
            (shareSt t sh.toNat).applied = x.applied + gRows b * gCols b ∧ t.fault = s.fault ∧ t.plots = s.plots)) ∧
        (gFlag b 1 = false ∨ g.toNat ∈ x.refreshed → exec (.rootRefreshDone ⟨sh, g⟩ true) s = .next s) ∧
        (gFlag b 1 = true → g.toNat ∉ x.refreshed →
          ∃ t, exec (.rootRefreshDone ⟨sh, g⟩ true) s = .next t ∧ (shareSt t sh.toNat).refreshed = x.refreshed ++ [g.toNat] ∧
            t.fault = s.fault ∧ t.plots = s.plots ∧ t.upd.feeds = s.upd.feeds)))

/-! ## Keys, sealed chunks, exits, provenance -/

/-- KEY_LOAD in both forms, KEY_ERASE and KEY_ERASE_ALL (15 R433 to R437, R453): a load fills an EMPTY slot with the key, its use, label and IV
base, one into a LOADED slot answers SLOT_STATE, one that does not unwrap UNWRAP; an erase empties its slot, the third every slot. No other
slot changes. -/
def Obligations.KeyCommands : Prop :=
  ∀ (s : State) (c : Cmd), s.live →
    (∀ (i : Instr) (k : Nat), i = .keyLoadClear c ∨ i = .keyLoadWrapped c → c.passes oKeyLoad keyLoadFields → keyLoadOk c = true → k = klSlot c →
      rank s (Tab.get {} s.recov (objKey 5 k)) c = .applied →
      ((keySlot s k).loaded = true → exec i s = .next (keyDone s c oKeyLoad k stSlotState)) ∧
      ((keySlot s k).loaded = false → loadedKey s c = none → exec i s = .next (keyDone s c oKeyLoad k stUnwrap)) ∧
      (∀ key, (keySlot s k).loaded = false → loadedKey s c = some key → ∃ u, exec i s = .next (keyDone u c oKeyLoad k stOk) ∧
        keySlot u k = { loaded := true, use := BitVec.ofNat 4 (bits (c.u 0 2) 13 10), wrapped := bit (c.u 0 2) 14,
                        label := BitVec.ofNat 32 (c.u 4 4), ivBase := BitVec.ofNat 64 (c.u 8 8), key } ∧
        (∀ j, j ≠ k → keySlot u j = keySlot s j) ∧ (Tab.get {} u.recov (objKey 5 k)).epoch = c.epoch ∧ u.gran = s.gran ∧ u.host = s.host) ∧
      (bit (c.u 0 2) 14 = false → loadedKey s c = some (slice c.body 24 32))) ∧
    (∀ k : Nat, c.passes oKeyErase [(0, 2), (16, 4)] → k = c.u 0 2 → k < 1024 → c.u 16 4 = c.epoch.toNat →
      rank s (Tab.get {} s.recov (objKey 5 k)) c = .applied →
      ∃ u, exec (.keyErase c) s = .next (keyDone u c oKeyErase k stOk) ∧ (keySlot u k).loaded = false ∧ (keySlot u k).key = [] ∧
        (∀ j, j ≠ k → keySlot u j = keySlot s j) ∧ u.gran = s.gran ∧ u.host = s.host) ∧
    (c.passes oKeyEraseAll [] → ∃ u, exec (.keyEraseAll c) s = .next (cmdDone u c oKeyEraseAll stOk) ∧ (∀ j, keySlot u j = {}) ∧
      u.recov = s.recov ∧ u.gran = s.gran)

/-- SEALED_CHUNK_PACKET (15 R441, R442): a chunk of one packet whose header holds is written as plaintext into tainted lines of its binding,
zeros to the end of the last one; with a good tag the binding and the transfer complete, otherwise the binding's lines are zeroed, CELLAR_TAG is raised and the binding stays open.
Another packet is left alone. -/
def Obligations.SealedChunks : Prop :=
  ∀ (s : State) (p : Pkt) (e : Ecc), s.live → p.whole →
    ((∀ d ∈ s.delivered, d.p ≠ p) → exec (.sealedChunkPacket p e) s = .next s) ∧
    (∀ (pl b slot total : Nat) (r : BindRec) (h key iv ct : List Byte), (∃ d ∈ s.delivered, d.p = p) → p.op = pMoveData →
      plotOf s p = some pl → findBind s pl 0 (p.fcid.toNat % 256) = some (b, r) → isSealed s pl r = true → s.cellar.runs = [] →
      bindOpen s pl b = true → stillRead (plot s pl) r.span = false → leAt p.payload 0 8 % 2 ^ 40 = 0 → total = moveTotal p →
      p.payload.length = 16 + 4 * total → h = slice p.payload 16 (4 * total) → sealHeader s r total (moveEtype p) h = .inr slot → keyFor s slot 0 = some key →
      iv = slice h 16 12 → ct = (h.drop 32).take (leAt h 8 4) →
      (gcmTag key iv (h.take 32) ct = h.drop (32 + leAt h 8 4) →
        ∃ (t : State) (l : Lodged) (x : Tally), exec (.sealedChunkPacket p .ok) s = .next t ∧ (bindSt t pl b).complete = true ∧
          Mem.reads (plot t pl).scratch (128 * r.first) (leAt h 8 4) = slice (gcmXor key iv ct) 0 (leAt h 8 4) ∧
          (∀ a, a < 128 * r.first ∨ 128 * (r.first + cdiv (leAt h 8 4) 128) ≤ a →
            Mem.read (plot t pl).scratch a = Mem.read (plot s pl).scratch a) ∧
          (∀ j, j < cdiv (leAt h 8 4) 128 → Tab.get false (plot t pl).taint (r.first + j) = true) ∧
          t.ingress = s.ingress ++ [l] ∧ l.p.op = pMoveDone ∧ leAt l.p.payload 0 2 = 0 ∧ newest t = some x ∧ x.kind = kMoveDone ∧
          t.cellar.chunks = satInc s.cellar.chunks ∧ t.cellar.runs = [] ∧ t.fault = s.fault ∧ t.gran = s.gran) ∧
      (gcmTag key iv (h.take 32) ct ≠ h.drop (32 + leAt h 8 4) →
        ∃ (t : State) (l : Lodged) (x : Tally), exec (.sealedChunkPacket p .ok) s = .next t ∧ (bindSt t pl b).complete = false ∧
          Mem.reads (plot t pl).scratch (128 * r.first) (leAt h 8 4) = List.replicate (leAt h 8 4) 0 ∧
          t.ingress = s.ingress ++ [l] ∧ l.p.op = pMoveDone ∧ leAt l.p.payload 0 2 = fCellarTag.toNat ∧ newest t = some x ∧
          x.kind = kCellarDrop ∧ x.fault = fCellarTag ∧ t.fault.lastCode = fCellarTag ∧ t.cellar.dropped = satInc s.cellar.dropped ∧
          t.gran = s.gran))

/-- ENCRYPT_EXIT and DIGEST_EXIT (15 R445 to R449): with nothing queued they do nothing; else the plot next in rotation loses the head of its
tile queue, here one that has ended, and its chunk or digests leave and are counted; without a LOADED key of the use the plot stops with CELLAR_KEY. -/
def Obligations.ExitUnits : Prop :=
  ∀ (s : State) (die : Fin 2), s.live →
    (exitPlot s 0 die.val = none → exec (.encryptExit die .ok) s = .next s) ∧ (exitPlot s 1 die.val = none → exec (.digestExit die .ok) s = .next s) ∧
    (∀ (i : Instr) (kind use p : Nat) (x : TileEntry) (r : PlanRec),
      i = .encryptExit die .ok ∧ kind = 0 ∧ use = 1 ∨ i = .digestExit die .ok ∧ kind = 1 ∧ use = 2 →
      exitPlot s kind die.val = some p → exitHead s kind p = some (x, r) → x.ready ≤ (plot s p).cyc →
      (keyFor s (r.fld 1) use = none → ∃ t, exec i s = .next t ∧ (plot t p).mode = .aborted ∧ (plot t p).tq = (plot s p).tq.tail ∧
        (plot t p).seqFault = fCellarKey ∧ t.fault.lastCode = fCellarKey ∧ t.gran = s.gran) ∧
      (∀ key, keyFor s (r.fld 1) use = some key →
        (keySlot s (r.fld 1)).ivBase.toNat + Tab.get 0 s.cellar.used (1024 * (64 * p + x.tag % 64) + r.fld 1) < 2 ^ 64 →
        ∃ t, exec i s = .next t ∧ (plot t p).tq = (plot s p).tq.tail ∧ (plot t p).mode = (plot s p).mode ∧
          (kind = 0 → t.cellar.sealedOut = satInc s.cellar.sealedOut ∧
            Tab.get 0 t.cellar.used (1024 * (64 * p + x.tag % 64) + r.fld 1) =
              Tab.get 0 s.cellar.used (1024 * (64 * p + x.tag % 64) + r.fld 1) + 1) ∧
          (kind = 1 → t.cellar.used = s.cellar.used ∧ t.cellar.sealedOut = s.cellar.sealedOut) ∧ t.cellar.slots = s.cellar.slots ∧
          t.gran = s.gran))

/-- PROV_HASH and PROV_DONE (16 R465, R466): a hash over memory is queued, refused outside the granary or with eight queued, and ended at once
with PROV_RANGE over a private area; when it runs and ends, its register holds SHA-256 of the bytes, which its entry carries. -/
def Obligations.ProvenanceHashes : Prop :=
  ∀ (s : State), s.live →
    (∀ (c : Cmd) (r : Nat), c.passes oProvHash [(0, 8), (8, 8), (16, 1), (24, 8)] → c.u 0 8 % 128 = 0 → c.u 8 8 ≤ 2 ^ 36 → r = c.u 16 1 →
      (s.clk.readyGranary = false → exec (.provHash c) s = .next (cmdDone s c oProvHash stUnitState)) ∧
      (s.clk.readyGranary = true →
      (2 ^ 38 < c.u 0 8 + c.u 8 8 → exec (.provHash c) s = .next (cmdDone s c oProvHash stRange)) ∧
      (c.u 0 8 + c.u 8 8 ≤ 2 ^ 38 → meetsArea (reservedAreas s) (c.u 0 8) (c.u 8 8) = true → c.auth = .operator →
        ∃ t e, exec (.provHash c) s = .next t ∧ newest t = some e ∧ e.kind = kProvDone ∧ e.ref = c.seq ∧ e.fault = fProvRange ∧
          t.audit.provFault = fProvRange ∧ t.audit.provQ = s.audit.provQ ∧ t.fault.lastCode = fProvRange ∧ t.gran = s.gran) ∧
      (c.u 0 8 + c.u 8 8 ≤ 2 ^ 38 → meetsArea (reservedAreas s) (c.u 0 8) (c.u 8 8) = false →
        rank s (Tab.get {} s.recov (objKey 6 r)) c = .applied →
        (8 ≤ s.audit.provQ.length → exec (.provHash c) s = .next (cmdDone s c oProvHash stUnitState)) ∧
        (s.audit.provQ.length < 8 → ∃ t, exec (.provHash c) s = .next t ∧ t.audit.provQ = s.audit.provQ ++ [{ cmd := c }] ∧
          (Tab.get {} t.recov (objKey 6 r)).body = c.body ∧ t.audit.pregs = s.audit.pregs ∧ t.host = s.host ∧ t.gran = s.gran)))) ∧
    (∀ (die : Fin 2) (errs : List (Fin 4 × Bool)), (∀ j ∈ s.audit.provQ, provDie j ≠ die.val) → exec (.provDone die errs) s = .next s) ∧
    (∀ (die : Fin 2) (j : ProvJob) (js : List ProvJob), s.audit.provQ = j :: js → provDie j = die.val → j.cmd.u 24 8 ≤ now s →
      provFenced s j.cmd = false → meetsArea (reservedAreas s) (j.cmd.u 0 8) (j.cmd.u 8 8) = false → j.cmd.auth = .operator →
      (∀ y ∈ js, provSame j.cmd y.cmd = false) →
      ∃ t x, exec (.provDone die []) s = .next t ∧ t.audit.provQ = js ∧
        preg t (j.cmd.u 16 1) = (sha256 (Mem.reads s.gran (j.cmd.u 0 8) (j.cmd.u 8 8)), j.n) ∧
        (∀ r, r ≠ j.cmd.u 16 1 → preg t r = preg s r) ∧ newest t = some x ∧ x.kind = kProvDone ∧ x.n = j.n ∧ x.ref = j.cmd.seq ∧
        x.body = pack 8 [(0, 8, j.cmd.u 24 8)] ++ slice (sha256 (Mem.reads s.gran (j.cmd.u 0 8) (j.cmd.u 8 8))) 0 32 ∧ t.gran = s.gran)

/-! ## The plan -/

/-- PLAN_STAGE and PLAN_WRITE (09 R274, 17 R481): bytes that land stand in the slot, no other byte of the granary changes, and the slot is STAGED;
a locked slot takes none of them, counts the command and answers SLOT_STATE; the loft out of reach answers UNIT_STATE. -/
def Obligations.PlanStaging : Prop :=
  ∀ (s : State) (c : Cmd) (bytes : List Byte) (i : Instr) (op : Half) (slot : Bool) (off : Nat) (bs : List Byte) (st : Nat), s.live →
    (i = .planStage c bytes .done ∧ op = oPlanStage ∧ slot = false ∧ off = c.u 12 4 ∧ bs = bytes.take (c.u 8 4) ∧
      c.passes oPlanStage [(0, 8), (8, 4), (12, 4)] ∧ c.u 0 8 % 8 = 0 ∧ c.u 8 4 % 8 = 0 ∧ 8 ≤ c.u 8 4 ∧ c.u 12 4 % 8 = 0 ∧
      c.u 12 4 + c.u 8 4 ≤ 2 ^ 28 ∧ st = stOk) ∨
    (i = .planWrite c ∧ op = oPlanWrite ∧ slot = true ∧ off = c.u 0 4 ∧ bs = c.data.take (c.u 4 2) ∧ c.passes oPlanWrite [(0, 4), (4, 2)] ∧
      c.u 0 4 % 8 = 0 ∧ c.u 4 2 % 8 = 0 ∧ 8 ≤ c.u 4 2 ∧ c.u 4 2 ≤ 3968 ∧ c.data.length = c.u 4 2 ∧ c.u 0 4 + c.u 4 2 ≤ 2 ^ 28 ∧ st = stOk) →
    (loftUp s = false → exec i s = .next (cmdDone s c op stUnitState)) ∧
    (loftUp s = true → slotLocked (slotSt s.plan slot) = true → ∃ u, exec i s = .next (cmdDone u c op stSlotState) ∧ u.gran = s.gran ∧
      u.plan = { s.plan with lockedWrites := satInc s.plan.lockedWrites } ∧ u.host = s.host) ∧
    (loftUp s = true → slotLocked (slotSt s.plan slot) = false → ∃ u, exec i s = .next (cmdDone u c op st) ∧
      slotSt u.plan slot = .staged ∧ slotSt u.plan (!slot) = slotSt s.plan (!slot) ∧
      (∀ j (h : j < bs.length), Mem.read u.gran (loftBase slot + off + j) = bs[j]) ∧
      (∀ a, a < loftBase slot + off ∨ loftBase slot + off + bs.length ≤ a → Mem.read u.gran a = Mem.read s.gran a) ∧
      u.plan.cur = s.plan.cur ∧ u.host = s.host)

/-- PLAN_VALIDATE and PLAN_VALIDATED (09 R273 to R276, R278): a validation begins from STAGED, VALID, INVALID or COMMITTED and from no other
state; it ends with the slot VALID when no error was found and INVALID otherwise, one PLAN_VALIDATED entry, and the running plan as it was. An
OPERATOR has no authority over slot 1. -/
def Obligations.PlanValidation : Prop :=
  ∀ (s : State) (c : Cmd) (k : Bool), s.live → k = decide (c.u 0 1 = 1) →
    (c.passes oPlanValidate [(0, 1)] → c.u 0 1 ≤ 1 → loftUp s = true →
      (c.auth = .operator → k = true → exec (.planValidate c) s = .next (cmdDone s c oPlanValidate stAuthority)) ∧
      ((c.auth = .operator ∧ k = false) ∨ (c.auth = .owner ∧ k = true) →
        (slotSt s.plan k ∈ [SlotState.staged, .valid, .invalid, .committed] → ∃ t, exec (.planValidate c) s = .next t ∧
          slotSt t.plan k = .validating ∧ slotSt t.plan (!k) = slotSt s.plan (!k) ∧ t.plan.validating = s.plan.validating ++ [(k, c)] ∧
          t.plan.cur = s.plan.cur ∧ t.host = s.host ∧ t.gran = s.gran) ∧
        (slotSt s.plan k ∉ [SlotState.staged, .valid, .invalid, .committed] →
          exec (.planValidate c) s = .next (cmdDone s c oPlanValidate stSlotState)))) ∧
    (∀ slot : Bool, (∀ v ∈ s.plan.validating, v.1 ≠ slot) → exec (.planValidated slot) s = .next s) ∧
    (∀ rest, s.plan.validating = (k, c) :: rest → c.auth = .operator ∨ c.auth = .owner →
      ∃ t e, exec (.planValidated k) s = .next t ∧ newest t = some e ∧ e.kind = kPlanValidated ∧ e.ref = c.seq ∧
        (validate s k = [] → slotSt t.plan k = .valid ∧ e.body.getD 0 1 = 0 ∧ t.plan.errors = 0) ∧
        (validate s k ≠ [] → slotSt t.plan k = .invalid ∧ e.body.getD 0 0 = 1 ∧
          t.plan.errors.toNat = min (validate s k).length 255) ∧
        t.plan.cur = s.plan.cur ∧ t.plan.digest = s.plan.digest ∧ t.gran = s.gran)

/-- PLAN_COMMIT, COMMIT_LOAD_END, PLAN_LOFT_UE and PLAN_CANCEL (09 R283, R284, R287, R288, R291): the statuses in their order, what an
accepted commit sets, the end of LOAD, abandonment with PLAN_LOFT_UE, and withdrawal before the flip. The running plan never changes. -/
def Obligations.CommitLife : Prop :=
  ∀ (s : State) (c : Cmd) (k : Bool), s.live → k = decide (c.u 0 1 = 1) → c.u 0 1 ≤ 1 → (c.auth = .operator ∧ k = false) ∨ (c.auth = .owner ∧ k = true) →
    (c.passes oPlanCommit [(0, 1), (2, 2), (8, 8)] → 1 ≤ c.u 2 2 →
      (s.plan.planned = false → c.u 8 8 ≠ 1 ∨ imgDelta (imgWord s k) = true → exec (.planCommit c) s = .next (cmdDone s c oPlanCommit stFormat)) ∧
      (s.plan.planned = true → slotSt s.plan k ≠ .valid → exec (.planCommit c) s = .next (cmdDone s c oPlanCommit stSlotState)) ∧
      (s.plan.planned = true → slotSt s.plan k = .valid → c.u 8 8 ≤ now s →
        exec (.planCommit c) s = .next (cmdDone s c oPlanCommit stStaleHeadland)) ∧
      (s.plan.planned = true → slotSt s.plan k = .valid → now s < c.u 8 8 → s.plan.commit.isSome = true → c.auth = .operator →
        exec (.planCommit c) s = .next (cmdDone s c oPlanCommit stPlanBusy)) ∧
      (∀ dg, s.plan.planned = true → slotSt s.plan k = .valid → now s < c.u 8 8 → s.plan.commit = none → s.plan.slotInfo = [(k, false, dg)] →
        imgDelta (imgWord s k) = false →
        ∃ t m, exec (.planCommit c) s = .next t ∧ slotSt t.plan k = .pending ∧ t.plan.phase = .load ∧ t.plan.commit = some m ∧ m.slot = k ∧
          m.headland = c.u 8 8 ∧ m.limitMs = c.u 2 2 ∧ m.delta = false ∧ m.digest = dg ∧ t.plan.pendHeadland.toNat = c.u 8 8 ∧
          t.plan.arms = s.plan.arms ∧ t.plan.cur = s.plan.cur ∧ t.host = s.host ∧ t.gran = s.gran)) ∧
    (s.plan.commit = none → exec .commitLoadEnd s = .next s ∧ exec .planLoftUe s = .next s) ∧
    (∀ m, s.plan.commit = some m → s.plan.phase = .load → m.delta = false →
      (∃ t b, exec .commitLoadEnd s = .next t ∧ t.plan.phase = .armed ∧ t.plan.commit = some { m with bank := b } ∧ t.plan.cur = s.plan.cur ∧
        t.gran = s.gran ∧ t.host = s.host) ∧
      (m.cmd.auth = .operator → ∃ t e, exec .planLoftUe s = .next t ∧ t.plan.phase = .none ∧ t.plan.commit = none ∧
        slotSt t.plan m.slot = .invalid ∧ newest t = some e ∧ e.kind = kPlanAbandoned ∧ e.fault = fPlanLoftUe ∧ e.ref = m.cmd.seq ∧
        t.plan.cur = s.plan.cur ∧ t.fault.lastCode = fPlanLoftUe)) ∧
    (c.passes oPlanCancel [(0, 1)] →
      (s.plan.commit = none → exec (.planCancel c) s = .next (cmdDone s c oPlanCancel stOk)) ∧
      (∀ m, s.plan.commit = some m → m.slot = k → s.plan.phase ≠ .apply →
        ∃ u, exec (.planCancel c) s = .next (cmdDone (cmdDone u m.cmd oPlanCommit stCancelled) c oPlanCancel stOk) ∧
          slotSt u.plan k = .valid ∧ u.plan.commit = none ∧ u.plan.cur = s.plan.cur ∧ u.host = s.host))

/-- HEADLAND_ARM, QUIESCING, HEADLAND_PASS, PLAN_ABANDONED and PLAN_COMMITTED (09 R279 to R287): an arm for a headland not passed is kept, its
QUIESCE bit ORed; a headland passes only when its conditions hold, and then HEADLAND_NOW is its number; a commit that its quiescence holds up
is abandoned naming the first condition that fails; the end of APPLY makes the slot COMMITTED. -/
def Obligations.Headlands : Prop :=
  ∀ s : State, s.live →
    (∀ c : Cmd, c.passes oHeadlandArm [(0, 1), (8, 8)] → c.u 0 1 ≤ 1 →
      (c.u 8 8 ≤ now s → exec (.headlandArm c) s = .next (cmdDone s c oHeadlandArm stStaleHeadland (c.u 8 8))) ∧
      (now s < c.u 8 8 → ∃ u, exec (.headlandArm c) s = .next (cmdDone u c oHeadlandArm stOk (c.u 8 8)) ∧
        (∃ a ∈ u.plan.arms, a.headland = c.u 8 8) ∧
        (c.u 0 1 = 1 → ∀ a ∈ u.plan.arms, a.headland = c.u 8 8 → a.quiesce = true) ∧
        (c.u 0 1 = 0 → (∃ a ∈ s.plan.arms, a.headland = c.u 8 8) → u.plan.arms = s.plan.arms) ∧
        (c.u 0 1 = 0 → (∀ a ∈ s.plan.arms, a.headland ≠ c.u 8 8) → { headland := c.u 8 8, quiesce := false } ∈ u.plan.arms) ∧
        (∀ a, a.headland ≠ c.u 8 8 → (a ∈ u.plan.arms ↔ a ∈ s.plan.arms)) ∧ u.plan.headland = s.plan.headland ∧ u.host = s.host)) ∧
    (∃ t, exec .quiescing s = .next t ∧ (quiesced s (now s + 1) = true → stepEnded s = true → t.plan.quiescing = true) ∧
      (quiesced s (now s + 1) = false ∨ stepEnded s = false → t = s) ∧ t.host = s.host ∧ t.gran = s.gran) ∧
    (headlandReady s = false → exec .headlandPass s = .next s) ∧
    (headlandReady s = true → commitFor s (now s + 1) = none →
      ∃ t, exec .headlandPass s = .next t ∧ t.plan.headland = BitVec.ofNat 64 (now s + 1) ∧ t.plan.cur = s.plan.cur ∧
        t.plan.digest = s.plan.digest ∧ t.plan.arms = s.plan.arms.filter fun a => decide (now s + 1 < a.headland)) ∧
    (commitFor s (now s + 1) = none → exec .planAbandoned s = .next s) ∧
    (∀ m i, commitFor s (now s + 1) = some m → s.plan.phase = .armed → s.plan.quiescing = true → m.cmd.auth = .operator →
      (quiet s (now s + 1))[i]? = some false → (∀ j, j < i → (quiet s (now s + 1))[j]? = some true) →
      ∃ t e, exec .planAbandoned s = .next t ∧ t.plan.commit = none ∧ slotSt t.plan m.slot = .valid ∧ newest t = some e ∧
        e.kind = kPlanAbandoned ∧ e.ref = m.cmd.seq ∧ e.body.getD 8 0 = BitVec.ofNat 8 (i + 1) ∧ t.plan.cur = s.plan.cur ∧ t.gran = s.gran) ∧
    (∀ bad, s.plan.commit = none ∨ s.plan.phase ≠ .apply → exec (.planCommitted bad) s = .next s) ∧
    (∀ m, s.plan.commit = some m → s.plan.phase = .apply → m.cmd.auth = .operator →
      ∃ t e, exec (.planCommitted []) s = .next t ∧ t.plan.commit = none ∧ t.plan.phase = .none ∧ slotSt t.plan m.slot = .committed ∧
        t.plan.commits = s.plan.commits + 1 ∧ t.plan.cur = m.bank ∧ newest t = some e ∧ e.kind = kPlanCommitted ∧ e.ref = m.cmd.seq)

/-! ## The invariant -/

/-- Every step keeps a sound state: the fused identity keeps agreeing with itself (00 R8), and the granary stays in its one canonical form, so
that equal memories are equal data (the model's choice of representation: docstring of `State.sound`). -/
def Obligations.SoundIsKept : Prop := ∀ s t : State, s.sound → step s = .next t → t.sound

/-- The state after reset is sound. -/
def Obligations.ResetIsSound : Prop := State.reset.sound

/-- Outside a test mode every well-formed command completes: exec answers a next state, which has the same fused identity (00 R8) and, if
the granary was in its canonical form, a granary in canonical form again. What a command does is said by the statements above. -/
def Obligations.EveryCommandCompletes : Prop :=
  ∀ (c : Instr) (s : State), c.wf = true → s.testMode = false →
    ∃ t, exec c s = .next t ∧ t.part = s.part ∧ (Memory.wf s.gran = true → Memory.wf t.gran = true)

/-! ## The merged statements -/

/-- Clocks, TIMEBASE, TICK_IN and the pins (idle tick: the model's choice, log 1): the claims `Claims.IdleStepIsAClockEdge`, `Claims.ClockAndPinEvents`, `Claims.TickInDisciplinesTheTimebase` together. -/
def Obligations.ClocksAndPins : Prop := Claims.IdleStepIsAClockEdge ∧ Claims.ClockAndPinEvents ∧ Claims.TickInDisciplinesTheTimebase

/-- Host registers: writes that are taken and writes that are rejected: the claims `Claims.HostRegistersWritten`, `Claims.RejectedWritesKeepTheRegister` together. -/
def Obligations.RegisterWrites : Prop := Claims.HostRegistersWritten ∧ Claims.RejectedWritesKeepTheRegister

/-- Registers of other units, and register, tally and NOP commands: the claims `Claims.UnitRegistersWritten`, `Claims.AccessCommands` together. -/
def Obligations.UnitRegistersAndAccessCommands : Prop := Claims.UnitRegistersWritten ∧ Claims.AccessCommands

/-- The ledger accepts and refuses commands; the BAR4 window writes slot 0: the claims `Claims.LedgerAcceptance`, `Claims.WindowWrites` together. -/
def Obligations.LedgerAndWindow : Prop := Claims.LedgerAcceptance ∧ Claims.WindowWrites

/-- Commands complete once, and without authority have no effect: the claims `Claims.CommandsCompleteOnce`, `Claims.AuthorityIsChecked` together. -/
def Obligations.AuthorityAndCompletion : Prop := Claims.CommandsCompleteOnce ∧ Claims.AuthorityIsChecked

/-- Cold and warm reset: the claims `Claims.ColdResetClears`, `Claims.WarmReset` together. -/
def Obligations.ResetsClear : Prop := Claims.ColdResetClears ∧ Claims.WarmReset

/-- The governor, rail steps and Reeve boots (AVS setpoints: free values, log 82): the claims `Claims.GovernorAndVoltage`, `Claims.ReeveBoot` together. -/
def Obligations.PowerAndReeves : Prop := Claims.GovernorAndVoltage ∧ Claims.ReeveBoot

/-- FATAL faults and test modes last until reset (testMode refusal: the model's choice, log 14): the claims `Claims.FatalEvents`, `Claims.FatalUntilReset`, `Claims.TestMode` together. -/
def Obligations.FatalAndTestModes : Prop := Claims.FatalEvents ∧ Claims.FatalUntilReset ∧ Claims.TestMode

/-- Recovery commands are ranked; losers and repeats change nothing: the claims `Claims.RecoveryRanking`, `Claims.RecoveryRepeatsAndRefusals` together. -/
def Obligations.RecoveryCommandsAreRanked : Prop := Claims.RecoveryRanking ∧ Claims.RecoveryRepeatsAndRefusals

/-- What recovery commands that apply do: the claims `Claims.RecoveryEffects`, `Claims.FurrowResetsAreResent` together. -/
def Obligations.RecoveryCommandsApply : Prop := Claims.RecoveryEffects ∧ Claims.FurrowResetsAreResent

/-- Hedge commands, admission, beacons and notices: the claims `Claims.HedgeCommands`, `Claims.BeaconsAndNotices` together. -/
def Obligations.HedgesAndBeacons : Prop := Claims.HedgeCommands ∧ Claims.BeaconsAndNotices

/-- The yoke and the self-test (self-test details: free values, log 66): the claims `Claims.YokeCommands`, `Claims.SelfTests` together. -/
def Obligations.YokeAndSelfTest : Prop := Claims.YokeCommands ∧ Claims.SelfTests

/-- Firmware, dossiers, Steward and PEER frames: the claims `Claims.FirmwareAndDossiers`, `Claims.ManagementFrames` together. -/
def Obligations.FirmwareAndManagement : Prop := Claims.FirmwareAndDossiers ∧ Claims.ManagementFrames

/-- Flits in sequence are taken, others refused, and kept ones resent: the claims `Claims.FlitsRefused`, `Claims.DataAndCreditFlits`, `Claims.LinkRetry` together. -/
def Obligations.FlitsOfALink : Prop := Claims.FlitsRefused ∧ Claims.DataAndCreditFlits ∧ Claims.LinkRetry

/-- Bring-up, lane loss and restriping: the claims `Claims.PortBringUp`, `Claims.LaneLoss` together. -/
def Obligations.PortsComeUpAndRestripe : Prop := Claims.PortBringUp ∧ Claims.LaneLoss

/-- Lookup and dispatch of packets: the claims `Claims.PacketLookup`, `Claims.PacketDispatch` together. -/
def Obligations.LookupAndDispatch : Prop := Claims.PacketLookup ∧ Claims.PacketDispatch

/-- Port service and shaper refill: the claims `Claims.PortService`, `Claims.Refill` together. -/
def Obligations.ServiceAndShaping : Prop := Claims.PortService ∧ Claims.Refill

/-- Rooms of an inn are granted and released: the claims `Claims.RoomRequests`, `Claims.RoomReleases` together. -/
def Obligations.InnRooms : Prop := Claims.RoomRequests ∧ Claims.RoomReleases

/-- Requests at the source switch, and the commands of its rights: the claims `Claims.SourceChecks`, `Claims.RightsCommands` together. -/
def Obligations.SourceAndRights : Prop := Claims.SourceChecks ∧ Claims.RightsCommands

/-- Loads, stores and atomics on a granary line: the claims `Claims.GranaryAccess`, `Claims.AtomicValues` together. -/
def Obligations.GranaryAccessAndAtomics : Prop := Claims.GranaryAccess ∧ Claims.AtomicValues

/-- Tracked requests at target and source: the claims `Claims.ReplayTable`, `Claims.Tracker` together. -/
def Obligations.ReplayAndTracker : Prop := Claims.ReplayTable ∧ Claims.Tracker

/-- Coach runs between gateways and commanded runs: the claims `Claims.CoachRuns`, `Claims.CommandedRuns` together. -/
def Obligations.CoachesAndCommandedRuns : Prop := Claims.CoachRuns ∧ Claims.CommandedRuns

/-- Control words issue once and give the next address: the claims `Claims.WordIssue`, `Claims.NextAddresses` together. -/
def Obligations.WordsIssue : Prop := Claims.WordIssue ∧ Claims.NextAddresses

/-- Counters, flags, taps, hints, TQ_DROP and ARM: the claims `Claims.CountersAndFlags`, `Claims.TapsHintsAndDrops` together. -/
def Obligations.SequencerParts : Prop := Claims.CountersAndFlags ∧ Claims.TapsHintsAndDrops

/-- Matrix products and the accumulator path: the claims `Claims.TileProducts`, `Claims.SlabSums`, `Claims.AccumulatorPath`, `Claims.StoredAccumulators` together. -/
def Obligations.ArrayOperations : Prop := Claims.TileProducts ∧ Claims.SlabSums ∧ Claims.AccumulatorPath ∧ Claims.StoredAccumulators

/-- Harrow operations start and their element values: the claims `Claims.HarrowOperations`, `Claims.HarrowElements` together. -/
def Obligations.HarrowOperationsAndValues : Prop := Claims.HarrowOperations ∧ Claims.HarrowElements

/-- Ends of operations, waits and the wait limit: the claims `Claims.OperationEnds`, `Claims.SparseFaults`, `Claims.Waits` together. -/
def Obligations.OperationEndsAndWaits : Prop := Claims.OperationEnds ∧ Claims.SparseFaults ∧ Claims.Waits

/-- The fabric transfer queue and granary transfers: the claims `Claims.TransfersQueue`, `Claims.TransfersRun`, `Claims.GranaryTransfers` together. -/
def Obligations.FabricTransfers : Prop := Claims.TransfersQueue ∧ Claims.TransfersRun ∧ Claims.GranaryTransfers

/-- Integer sums are exact, and partials carry values unchanged: the claims `Claims.IntegerSums`, `Claims.PartialsAreExact` together. -/
def Obligations.ExactSums : Prop := Claims.IntegerSums ∧ Claims.PartialsAreExact

/-- Chunks, credits, outcomes and aborts of a collective: the claims `Claims.ChunksAndCredits`, `Claims.OutcomesAndAborts` together. -/
def Obligations.ChunksAndOutcomes : Prop := Claims.ChunksAndCredits ∧ Claims.OutcomesAndAborts

/-- Grants and movement transfers arrive at their bindings: the claims `Claims.GrantsArrive`, `Claims.MovementsArrive` together. -/
def Obligations.GrantsAndMovementsArrive : Prop := Claims.GrantsArrive ∧ Claims.MovementsArrive

/-- Winnow records, merge passes and the end of a stage job: the claims `Claims.StageSteps`, `Claims.StageJobsEnd` together. -/
def Obligations.StageJobs : Prop := Claims.StageSteps ∧ Claims.StageJobsEnd

/-- Group writes, feed grants and chunks that cannot be applied: the claims `Claims.GroupWrites`, `Claims.Feeds` together. -/
def Obligations.GroupWritesAndFeeds : Prop := Claims.GroupWrites ∧ Claims.Feeds
end

