-- ==== Sys2Proof/Laws/Tab.lean ====
section
/-!
SUPPORT. Laws of canonical tables and memories: what a read gives after a write, whatever the list, and that every
operation keeps the one canonical form.
-/

namespace Sys2Proof.Laws
open Sys2Proof Sys2Proof.Machine

variable {α : Type}

theorem tab_get_put (d : α) (t : Tab α) (k : Nat) (v : α) : Tab.get d (Tab.put k v t) k = v := by
  induction t with
  | nil => simp [Tab.put, Tab.get]
  | cons x t ih =>
    unfold Tab.put
    split
    · simp [Tab.get]
    · split <;> simp [Tab.get, *]

theorem tab_get_put_ne (d : α) (t : Tab α) (k i : Nat) (v : α) (h : i ≠ k) :
    Tab.get d (Tab.put k v t) i = Tab.get d t i := by
  induction t with
  | nil => simp [Tab.put, Tab.get, h]
  | cons x t ih =>
    unfold Tab.put
    split
    · simp [Tab.get, h]
    · split
      · subst_vars; simp [Tab.get, h]
      · simp only [Tab.get, ih]

theorem tab_get_del (d : α) (t : Tab α) (k : Nat) : Tab.get d (Tab.del k t) k = d := by
  unfold Tab.del
  induction t with
  | nil => rfl
  | cons x t ih =>
    rw [List.filter_cons]
    split
    · rename_i h
      have : ¬ x.1 = k := by simpa using h
      simp only [Tab.get]
      rw [if_neg (by omega)]
      exact ih
    · exact ih

theorem tab_get_del_ne (d : α) (t : Tab α) (k i : Nat) (h : i ≠ k) : Tab.get d (Tab.del k t) i = Tab.get d t i := by
  unfold Tab.del
  induction t with
  | nil => rfl
  | cons x t ih =>
    rw [List.filter_cons]
    split
    · simp only [Tab.get, ih]
    · rename_i hx
      have : x.1 = k := by simpa using hx
      simp only [Tab.get]
      rw [if_neg (by omega)]
      exact ih

variable [DecidableEq α]

/-- An entry set reads as set. -/
theorem tab_get_set (d : α) (t : Tab α) (k : Nat) (v : α) : Tab.get d (Tab.set d t k v) k = v := by
  unfold Tab.set
  split
  · subst_vars; exact tab_get_del _ t k
  · exact tab_get_put d t k v

/-- Every other entry reads as before. -/
theorem tab_get_set_ne (d : α) (t : Tab α) (k i : Nat) (v : α) (h : i ≠ k) :
    Tab.get d (Tab.set d t k v) i = Tab.get d t i := by
  unfold Tab.set
  split
  · exact tab_get_del_ne d t k i h
  · exact tab_get_put_ne d t k i v h

/-- An entry changed reads as changed. -/
theorem tab_get_upd (d : α) (t : Tab α) (k : Nat) (f : α → α) : Tab.get d (Tab.upd d t k f) k = f (Tab.get d t k) :=
  tab_get_set d t k _

/-- Every other entry reads as before. -/
theorem tab_get_upd_ne (d : α) (t : Tab α) (k i : Nat) (f : α → α) (h : i ≠ k) :
    Tab.get d (Tab.upd d t k f) i = Tab.get d t i :=
  tab_get_set_ne d t k i _ h

/-! ## The canonical form -/

theorem tab_above_mono (d : α) (t : Tab α) {a b : Nat} (h : a ≤ b) (w : Tab.above d b t = true) :
    Tab.above d a t = true := by
  cases t with
  | nil => rfl
  | cons x t => obtain ⟨j, v⟩ := x; simp [Tab.above] at *; exact ⟨⟨by omega, w.1.2⟩, w.2⟩

theorem tab_above_put (d : α) (t : Tab α) (k : Nat) (v : α) (b : Nat) (hv : v ≠ d) (hb : b ≤ k) (w : Tab.above d b t = true) :
    Tab.above d b (Tab.put k v t) = true := by
  induction t generalizing b with
  | nil => simp [Tab.put, Tab.above, hv, hb]
  | cons x t ih =>
    obtain ⟨j, a⟩ := x
    simp [Tab.above] at w
    unfold Tab.put
    split
    · simp [Tab.above, hv, hb, w]; omega
    · split
      · subst_vars; simp [Tab.above, hv, hb, w]
      · simp [Tab.above, w]; exact ih _ (by omega) w.2

theorem tab_above_filter (d : α) (t : Tab α) (f : Nat × α → Bool) (b : Nat) (w : Tab.above d b t = true) :
    Tab.above d b (t.filter f) = true := by
  induction t generalizing b with
  | nil => rfl
  | cons x t ih =>
    obtain ⟨j, a⟩ := x
    simp [Tab.above] at w
    by_cases hf : f (j, a) = true
    · simp [List.filter, hf, Tab.above, w]; exact ih _ w.2
    · simp [List.filter, hf]; exact tab_above_mono d _ (by omega) (ih _ w.2)

/-- Leaving entries out keeps the canonical form. -/
theorem tab_wf_filter (d : α) (t : Tab α) (f : Nat × α → Bool) (w : Tab.wf d t = true) : Tab.wf d (t.filter f) = true :=
  tab_above_filter d t f 0 w

/-- Setting an entry keeps the canonical form. -/
theorem tab_wf_set (d : α) (t : Tab α) (k : Nat) (v : α) (w : Tab.wf d t = true) : Tab.wf d (Tab.set d t k v) = true := by
  unfold Tab.set
  split
  · exact tab_above_filter d t _ 0 w
  · exact tab_above_put d t k v 0 ‹_› (by omega) w

/-- Changing an entry keeps the canonical form. -/
theorem tab_wf_upd (d : α) (t : Tab α) (k : Nat) (f : α → α) (w : Tab.wf d t = true) : Tab.wf d (Tab.upd d t k f) = true :=
  tab_wf_set d t k _ w

/-! ## Memories -/

theorem mem_wf_nil : Memory.wf [] = true := rfl

theorem mem_wf_write (m : Mem) (a : Nat) (b : Byte) (w : Memory.wf m = true) : Memory.wf (Mem.write m a b) = true :=
  tab_wf_set 0 m a b w

theorem mem_wf_writes (m : Mem) (a : Nat) (bs : List Byte) (w : Memory.wf m = true) : Memory.wf (Mem.writes m a bs) = true := by
  induction bs generalizing m a with
  | nil => exact w
  | cons b bs ih => exact ih _ _ (mem_wf_write m a b w)

theorem mem_wf_zero (m : Mem) (a n : Nat) (w : Memory.wf m = true) : Memory.wf (Mem.zero m a n) = true :=
  tab_wf_filter 0 m _ w

theorem mem_read_write (m : Mem) (a : Nat) (b : Byte) : Mem.read (Mem.write m a b) a = b :=
  tab_get_set 0 m a b

theorem mem_read_write_ne (m : Mem) (a i : Nat) (b : Byte) (h : i ≠ a) : Mem.read (Mem.write m a b) i = Mem.read m i :=
  tab_get_set_ne 0 m a i b h

/-- Bytes outside a write read as before. -/
theorem mem_read_writes_out (m : Mem) (a i : Nat) (bs : List Byte) (h : i < a ∨ a + bs.length ≤ i) :
    Mem.read (Mem.writes m a bs) i = Mem.read m i := by
  induction bs generalizing m a with
  | nil => rfl
  | cons b bs ih =>
    simp at h
    rw [Mem.writes, ih _ _ (by omega), mem_read_write_ne _ _ _ _ (by omega)]

/-- Bytes written read as written. -/
theorem mem_read_writes (m : Mem) (a i : Nat) (bs : List Byte) (h : i < bs.length) :
    Mem.read (Mem.writes m a bs) (a + i) = bs[i] := by
  induction bs generalizing m a i with
  | nil => simp at h
  | cons b bs ih =>
    rw [Mem.writes]
    cases i with
    | zero => rw [mem_read_writes_out _ _ _ _ (by omega)]; exact mem_read_write m a b
    | succ i =>
      have := ih (Mem.write m a b) (a + 1) i (by simpa using h)
      rw [show a + (i + 1) = a + 1 + i by omega, this]; rfl

/-- A zeroed stretch reads 0. -/
theorem mem_read_zero (m : Mem) (a n i : Nat) (h : a ≤ i) (h2 : i < a + n) : Mem.read (Mem.zero m a n) i = 0 := by
  unfold Mem.read Mem.zero
  induction m with
  | nil => rfl
  | cons x t ih =>
    rw [List.filter_cons]
    split
    · rename_i hx
      simp only [Tab.get]
      rw [if_neg (by simp at hx; omega)]
      exact ih
    · exact ih

/-- Outside a zeroed stretch every byte reads as before. -/
theorem mem_read_zero_out (m : Mem) (a n i : Nat) (h : i < a ∨ a + n ≤ i) : Mem.read (Mem.zero m a n) i = Mem.read m i := by
  unfold Mem.read Mem.zero
  induction m with
  | nil => rfl
  | cons x t ih =>
    rw [List.filter_cons]
    split
    · simp only [Tab.get, ih]
    · rename_i hx
      simp at hx
      simp only [Tab.get]
      rw [if_neg (by omega)]
      exact ih

end Sys2Proof.Laws
end

