-- ==== Sys2Proof/Laws/Keeps.lean ====
section
/-!
SUPPORT. What no operation of the device changes: the fused identity (00 R8) and the canonical form of the granary. `Keeps s t`
says that `t` keeps both; the files Laws/Keeps*.lean say it of every operation and of every command.
-/

set_option linter.unusedTactic false
set_option linter.unreachableTactic false
set_option linter.unusedVariables false
set_option linter.unusedSimpArgs false

namespace Sys2Proof.Laws
open Sys2Proof Sys2Proof.Machine

/-- `t` has the identity of `s`, and a canonical granary if `s` has one. -/
def Keeps (s t : State) : Prop := t.part = s.part ∧ (Memory.wf s.gran = true → Memory.wf t.gran = true)
theorem mem_wf_none {P : Prop} : P → Memory.wf [] = true := fun _ => Eq.refl _
theorem Keeps.rfl {s : State} : Keeps s s := ⟨Eq.refl _, id⟩
theorem Keeps.ite {c : Prop} [Decidable c] {s a b : State} (ha : Keeps s a) (hb : Keeps s b) : Keeps s (if c then a else b) := by
    split <;> assumption
theorem Keeps.cut {s x : State} {P : Prop} (h : Keeps s x) (f : Keeps s x → P) : P := f h
theorem Keeps.pair {α : Type} {s x : State} {y : State × α} {b : α} (e : y = (x, b)) (h : Keeps s y.1) : Keeps s x := by subst e; exact h
theorem Keeps.foldl {α : Type} {s u : State} {f : State → α → State} {xs : List α} (h : Keeps s u) (hf : ∀ v x, Keeps s v → Keeps
    s (f v x)) :
    Keeps s (xs.foldl f u) := by
  induction xs generalizing u with
  | nil => exact h
  | cons x xs ih => exact ih (hf _ _ h)
theorem Keeps.foldl1 {α β : Type} {s : State} {u : State × β} {f : State × β → α → State × β} {xs : List α} (h : Keeps s u.1) (hf
    : ∀ v x, Keeps s v.1 → Keeps s (f v x).1) :
    Keeps s (xs.foldl f u).1 := by
  induction xs generalizing u with
  | nil => exact h
  | cons x xs ih => exact ih (hf _ _ h)

/-- A record update elsewhere changes nothing here. -/
theorem Keeps.mk_eq {s u : State} {ports_} {mac_} {macFull_} {wire_} {ingress_} {outq_} {delivered_} {route_} {core_} {glean_}
    {sched_} {granCtl_} {audit_} {coll_} {plots_} {sc_} {granTaint_} {upd_} {stages_} {mem_} {cellar_} {clk_} {dom_} {pins_} {host_}
    {stew_} {plan_} {fault_} {hedge_} {recov_} {yoke_} {selfTest_} {dossier_} {testMode_} {fw_} {pending_} {freeIx_} :
    Keeps s (State.mk ports_ mac_ macFull_ wire_ ingress_ outq_ delivered_ route_ core_ glean_ sched_ granCtl_ audit_ coll_ plots_
    sc_ granTaint_ upd_ stages_ mem_ cellar_ u.part clk_ dom_ pins_ host_ stew_ plan_ u.gran fault_ hedge_ recov_ yoke_ selfTest_
    dossier_ testMode_ fw_ pending_ freeIx_) = Keeps s u := propext Iff.rfl

/-- A record update of the granary. -/
theorem Keeps.mkGran {s u : State} {ports_} {mac_} {macFull_} {wire_} {ingress_} {outq_} {delivered_} {route_} {core_} {glean_}
    {sched_} {granCtl_} {audit_} {coll_} {plots_} {sc_} {granTaint_} {upd_} {stages_} {mem_} {cellar_} {clk_} {dom_} {pins_} {host_}
    {stew_} {plan_} {fault_} {hedge_} {recov_} {yoke_} {selfTest_} {dossier_} {testMode_} {fw_} {pending_} {freeIx_} {gran_} (h :
    Keeps s u) (hg : Memory.wf u.gran = true → Memory.wf gran_ = true) :
    Keeps s (State.mk ports_ mac_ macFull_ wire_ ingress_ outq_ delivered_ route_ core_ glean_ sched_ granCtl_ audit_ coll_ plots_
    sc_ granTaint_ upd_ stages_ mem_ cellar_ u.part clk_ dom_ pins_ host_ stew_ plan_ gran_ fault_ hedge_ recov_ yoke_ selfTest_
    dossier_ testMode_ fw_ pending_ freeIx_) := ⟨h.1, fun w => hg (h.2 w)⟩

end Sys2Proof.Laws
end

