-- ==== Sys2Proof/Laws/KeepsOps.lean ====
section
/-!
SUPPORT. Every operation keeps the identity and the canonical granary: shared operations, the host port, ports, inns, furrows and routing.
-/

set_option linter.unusedTactic false
set_option linter.unreachableTactic false
set_option linter.unusedVariables false
set_option linter.unusedSimpArgs false

namespace Sys2Proof.Laws
open Sys2Proof Sys2Proof.Machine

theorem keeps_always {s u : State} {f1 : _} {t : State} (h : Keeps s u) (hf1 : ∀ y0, Keeps s y0 → Keeps s (f1 y0)) (ht : always u f1 = .next t) :
    Keeps s t := by
  unfold always at ht
  repeat' first
    | split at ht
    | cases ht
    | with_reducible assumption
    | with_reducible exact mem_wf_writes _ _ _
    | with_reducible exact mem_wf_zero _ _ _
    | with_reducible exact mem_wf_none
    | (intros; with_reducible assumption)
    | with_reducible apply hf1
    | unfold x
    | simp -zeta only [Keeps.mk_eq]
    | with_reducible refine Keeps.foldl ?_ (fun v y hv => ?_)
    | with_reducible refine Keeps.foldl1 ?_ (fun v y hv => ?_)
    | (intro (x : State); refine Keeps.cut (s := s) (x := x) ?_ ?_)
    | (intro (x : State × _); refine Keeps.cut (s := s) (x := x.1) ?_ ?_)
    | (intro (hx : Keeps _ _); try clear_value x)
    | intro (x : State → _)
    | intro (x : _ → State → _)
    | (intro x; clear_value x)
    | intro x
    | (lift_lets; fail_if_success with_reducible assumption; intro (x : State); refine Keeps.cut (s := s) (x := x) ?_ ?_)
    | (lift_lets; intro (x : State → _))
    | (lift_lets; intro (x : _ → State → _))
    | (lift_lets; intro x; clear_value x)
    | (lift_lets; intro x)
    | (with_reducible apply Keeps.pair; with_reducible assumption)
    | split
    | with_reducible apply Keeps.mkGran

theorem keeps_nFlag {s u : State} {a1} (h : Keeps s u) : Keeps s (nFlag u a1) := h

theorem keeps_auditFault {s u : State} {a1} (h : Keeps s u) : Keeps s (auditFault u a1) := by
  unfold auditFault
  dsimp only
  repeat' first
    | with_reducible assumption
    | with_reducible apply keeps_nFlag
    | simp -zeta only [Keeps.mk_eq]
    | split

theorem keeps_tally {s u : State} {a1} (h : Keeps s u) : Keeps s (tally u a1) := by
  unfold tally
  dsimp only
  repeat' first
    | with_reducible assumption
    | simp -zeta only [Keeps.mk_eq]
    | split

theorem keeps_send {s u : State} {a1} {a2} (h : Keeps s u) : Keeps s (send u a1 a2) := h

theorem keeps_originate {s u : State} {a1} {a2} {a3} {a4} {a5} {a6} {a7} (h : Keeps s u) : Keeps s (originate u a1 a2 a3 a4 a5 a6 a7) := h

theorem keeps_complete {s u : State} {a1} {a2} {a3} (h : Keeps s u) : Keeps s (complete u a1 a2 a3) := by
  unfold complete
  dsimp only
  repeat' first
    | with_reducible assumption
    | with_reducible apply keeps_tally
    | with_reducible apply keeps_originate
    | simp -zeta only [Keeps.mk_eq]
    | split

theorem keeps_cmdDone {s u : State} {a1} {a2} {a3} {a4} {a5} {a6} (h : Keeps s u) : Keeps s (cmdDone u a1 a2 a3 a4 a5 a6) := by
  unfold cmdDone
  repeat' first
    | with_reducible assumption
    | with_reducible apply keeps_complete
    | split
    | simp -zeta only [Keeps.mk_eq]

theorem keeps_event {s u : State} {f1 : _} {t : State} (h : Keeps s u) (hf1 : ∀ y0, Keeps s y0 → Keeps s (f1 y0)) (ht : event u f1 = .next t) :
    Keeps s t := by
  unfold event at ht
  repeat' first
    | split at ht
    | cases ht
    | with_reducible assumption
    | with_reducible exact mem_wf_writes _ _ _
    | with_reducible exact mem_wf_zero _ _ _
    | with_reducible exact mem_wf_none
    | (intros; with_reducible assumption)
    | with_reducible apply hf1
    | unfold x
    | simp -zeta only [Keeps.mk_eq]
    | with_reducible refine Keeps.foldl ?_ (fun v y hv => ?_)
    | with_reducible refine Keeps.foldl1 ?_ (fun v y hv => ?_)
    | (intro (x : State); refine Keeps.cut (s := s) (x := x) ?_ ?_)
    | (intro (x : State × _); refine Keeps.cut (s := s) (x := x.1) ?_ ?_)
    | (intro (hx : Keeps _ _); try clear_value x)
    | intro (x : State → _)
    | intro (x : _ → State → _)
    | (intro x; clear_value x)
    | intro x
    | (lift_lets; fail_if_success with_reducible assumption; intro (x : State); refine Keeps.cut (s := s) (x := x) ?_ ?_)
    | (lift_lets; intro (x : State → _))
    | (lift_lets; intro (x : _ → State → _))
    | (lift_lets; intro x; clear_value x)
    | (lift_lets; intro x)
    | (with_reducible apply Keeps.pair; with_reducible assumption)
    | split
    | with_reducible apply Keeps.mkGran

theorem keeps_keep {s u : State} {a1} {a2} (h : Keeps s u) : Keeps s (keep u a1 a2) := h

theorem keeps_mgtCount {s u : State} {a1} (h : Keeps s u) : Keeps s (mgtCount u a1) := h

theorem keeps_onCmd {s u : State} {a0 : _} {a1 : _} {a2 : _} {a3 : _} {f5 : _} {t : State} (h : Keeps s u) (hf5 : ∀ y0, Keeps s y0 → Keeps s (f5 y0)) (ht : onCmd a0 a1 a2 a3 u f5 = .next t) :
    Keeps s t := by
  unfold onCmd at ht
  repeat' first
    | split at ht
    | cases ht
    | with_reducible assumption
    | with_reducible exact mem_wf_writes _ _ _
    | with_reducible exact mem_wf_zero _ _ _
    | with_reducible exact mem_wf_none
    | (intros; with_reducible assumption)
    | with_reducible apply hf5
    | with_reducible apply keeps_cmdDone
    | unfold x
    | simp -zeta only [Keeps.mk_eq]
    | with_reducible refine Keeps.foldl ?_ (fun v y hv => ?_)
    | with_reducible refine Keeps.foldl1 ?_ (fun v y hv => ?_)
    | (intro (x : State); refine Keeps.cut (s := s) (x := x) ?_ ?_)
    | (intro (x : State × _); refine Keeps.cut (s := s) (x := x.1) ?_ ?_)
    | (intro (hx : Keeps _ _); try clear_value x)
    | intro (x : State → _)
    | intro (x : _ → State → _)
    | (intro x; clear_value x)
    | intro x
    | (lift_lets; fail_if_success with_reducible assumption; intro (x : State); refine Keeps.cut (s := s) (x := x) ?_ ?_)
    | (lift_lets; intro (x : State → _))
    | (lift_lets; intro (x : _ → State → _))
    | (lift_lets; intro x; clear_value x)
    | (lift_lets; intro x)
    | (with_reducible apply Keeps.pair; with_reducible assumption)
    | split
    | with_reducible apply Keeps.mkGran

theorem keeps_onPkt {s u : State} {a0 : _} {f2 : _} {t : State} (h : Keeps s u) (hf2 : ∀ y0, Keeps s y0 → Keeps s (f2 y0)) (ht : onPkt a0 u f2 = .next t) :
    Keeps s t := by
  unfold onPkt at ht
  repeat' first
    | (with_reducible refine keeps_event h (fun y0 hy => ?_) ht; clear ht)
    | split at ht
    | cases ht
    | with_reducible assumption
    | with_reducible exact mem_wf_writes _ _ _
    | with_reducible exact mem_wf_zero _ _ _
    | with_reducible exact mem_wf_none
    | (intros; with_reducible assumption)
    | with_reducible apply hf2
    | unfold x
    | simp -zeta only [Keeps.mk_eq]
    | with_reducible refine Keeps.foldl ?_ (fun v y hv => ?_)
    | with_reducible refine Keeps.foldl1 ?_ (fun v y hv => ?_)
    | (intro (x : State); refine Keeps.cut (s := s) (x := x) ?_ ?_)
    | (intro (x : State × _); refine Keeps.cut (s := s) (x := x.1) ?_ ?_)
    | (intro (hx : Keeps _ _); try clear_value x)
    | intro (x : State → _)
    | intro (x : _ → State → _)
    | (intro x; clear_value x)
    | intro x
    | (lift_lets; fail_if_success with_reducible assumption; intro (x : State); refine Keeps.cut (s := s) (x := x) ?_ ?_)
    | (lift_lets; intro (x : State → _))
    | (lift_lets; intro (x : _ → State → _))
    | (lift_lets; intro x; clear_value x)
    | (lift_lets; intro x)
    | (with_reducible apply Keeps.pair; with_reducible assumption)
    | split
    | with_reducible apply Keeps.mkGran

theorem keeps_provTouch {s u : State} {a1} {a2} (h : Keeps s u) : Keeps s (provTouch u a1 a2) := by
  unfold provTouch
  dsimp only
  repeat' first
    | with_reducible assumption
    | with_reducible apply keeps_nFlag
    | simp -zeta only [Keeps.mk_eq]
    | split

theorem keeps_raiseAt {s u : State} {a1} {a2} {a3} {a4} {a5} (h : Keeps s u) : Keeps s (raiseAt u a1 a2 a3 a4 a5) := by
  unfold raiseAt
  dsimp only
  repeat' first
    | with_reducible assumption
    | with_reducible apply keeps_auditFault
    | with_reducible apply keeps_tally
    | simp -zeta only [Keeps.mk_eq]
    | split

theorem keeps_raise {s u : State} {a1} {a2} {a3} (h : Keeps s u) : Keeps s (raise u a1 a2 a3) := keeps_raiseAt h

theorem keeps_raiseCount {s u : State} {a1} {a2} {a3} (h : Keeps s u) : Keeps s (raiseCount u a1 a2 a3) := keeps_auditFault h

theorem keeps_raiseBy {s u : State} {a1} {a2} {a3} {a4} {a5} {a6} (h : Keeps s u) : Keeps s (raiseBy u a1 a2 a3 a4 a5 a6) := by
  unfold raiseBy
  repeat' first
    | with_reducible assumption
    | with_reducible apply keeps_tally
    | with_reducible apply keeps_raiseCount
    | simp -zeta only [Keeps.mk_eq]

theorem keeps_recoveryDone {s u : State} {a1} {a2} {a3} {a4} {a5} {a6} (h : Keeps s u) : Keeps s (recoveryDone u a1 a2 a3 a4 a5 a6) := keeps_complete h

theorem keeps_recovery {s u : State} {a0} {a1} {a2} {a3} {a4} {a5} {f7} (h : Keeps s u) (hf7 : ∀ y0, Keeps s y0 → Keeps s (f7 y0)) : Keeps s (recovery a0 a1 a2 a3 a4 a5 u f7) := by
  unfold recovery
  repeat' first
    | with_reducible assumption
    | with_reducible apply hf7
    | with_reducible apply keeps_recoveryDone
    | with_reducible apply keeps_keep
    | split

theorem keeps_acceptEntry {s u : State} {a1} (h : Keeps s u) : Keeps s (acceptEntry u a1) := by
  unfold acceptEntry
  dsimp only
  repeat' first
    | with_reducible assumption
    | with_reducible apply keeps_cmdDone
    | simp -zeta only [Keeps.mk_eq]
    | split

theorem keeps_slotWrite {s u : State} {a1} {a2} {a3} (h : Keeps s u) : Keeps s (slotWrite u a1 a2 a3) := by
  unfold slotWrite
  dsimp only
  repeat' first
    | with_reducible assumption
    | with_reducible exact mem_wf_writes _ _ _
    | with_reducible refine Keeps.foldl ?_ (fun v y hv => ?_)
    | simp -zeta only [Keeps.mk_eq]
    | split
    | with_reducible apply Keeps.mkGran

theorem keeps_execBar4Write {s u : State} {a0} {a1} {t : State} (h : Keeps s u) (ht : execBar4Write a0 a1 u = .next t) : Keeps s t := by
  refine keeps_event h (fun _ hy => ?_) ht
  repeat' first
    | with_reducible assumption
    | with_reducible apply keeps_slotWrite
    | simp -zeta only [Keeps.mk_eq]
    | split

theorem keeps_wrIntMask {s u : State} {a1} (h : Keeps s u) : Keeps s (wrIntMask u a1).1 := by
  unfold wrIntMask
  dsimp only
  repeat' first
    | with_reducible assumption
    | simp -zeta only [Keeps.mk_eq]
    | split

theorem keeps_execIntMask {s u : State} {a0} {t : State} (h : Keeps s u) (ht : execIntMask a0 u = .next t) : Keeps s t := by
  refine keeps_always h (fun _ hy => ?_) ht
  repeat' first
    | with_reducible assumption
    | with_reducible apply keeps_wrIntMask
    | simp -zeta only [Keeps.mk_eq]
    | split

theorem keeps_execIntTime {s u : State} {t : State} (h : Keeps s u) (ht : execIntTime u = .next t) : Keeps s t := by
  refine keeps_always h (fun _ hy => ?_) ht
  dsimp only
  repeat' first
    | with_reducible assumption
    | simp -zeta only [Keeps.mk_eq]
    | split

theorem keeps_ledgerAccept {s u : State}  (h : Keeps s u) : Keeps s (ledgerAccept u) := by
  unfold ledgerAccept
  dsimp only
  repeat' first
    | with_reducible assumption
    | with_reducible apply keeps_tally
    | with_reducible apply keeps_acceptEntry
    | simp -zeta only [Keeps.mk_eq]
    | split

theorem keeps_execLedgerAccept {s u : State} {t : State} (h : Keeps s u) (ht : execLedgerAccept u = .next t) : Keeps s t := keeps_always h (fun _ hy => keeps_ledgerAccept hy) ht

theorem keeps_rejectWrite {s u : State} {a1} {a2} (h : Keeps s u) : Keeps s (rejectWrite u a1 a2) := keeps_tally h

theorem keeps_settleWrite {s : State} {a b} {r : State × Wr} (h : Keeps s r.1) : Keeps s (settleWrite a b r).1 := by
  unfold settleWrite
  split
  · exact h
  · exact keeps_rejectWrite h

theorem keeps_wrDoorbell {s u : State} {a1} (h : Keeps s u) : Keeps s (wrDoorbell u a1).1 := by
  unfold wrDoorbell
  repeat' first
    | with_reducible assumption
    | with_reducible apply keeps_settleWrite
    | split
    | simp -zeta only [Keeps.mk_eq]

theorem keeps_execLedgerDoorbell {s u : State} {a0} {a1} {t : State} (h : Keeps s u) (ht : execLedgerDoorbell a0 a1 u = .next t) : Keeps s t := by
  refine keeps_always h (fun _ hy => ?_) ht
  repeat' first
    | with_reducible assumption
    | with_reducible apply keeps_wrDoorbell
    | simp -zeta only [Keeps.mk_eq]
    | split

theorem keeps_runNop {s u : State} {a0} (h : Keeps s u) : Keeps s (runNop a0 u) := keeps_cmdDone h

theorem keeps_execNop {s u : State} {a0} {t : State} (h : Keeps s u) (ht : execNop a0 u = .next t) : Keeps s t := keeps_onCmd h (fun _ hy => keeps_runNop hy) ht

theorem keeps_wrRingCfg {s u : State} {a1} (h : Keeps s u) : Keeps s (wrRingCfg u a1).1 := by
  unfold wrRingCfg
  dsimp only
  repeat' first
    | with_reducible assumption
    | with_reducible apply keeps_settleWrite
    | simp -zeta only [Keeps.mk_eq]
    | split

theorem keeps_execRingCfg {s u : State} {a0} {t : State} (h : Keeps s u) (ht : execRingCfg a0 u = .next t) : Keeps s t := by
  refine keeps_always h (fun _ hy => ?_) ht
  repeat' first
    | with_reducible assumption
    | with_reducible apply keeps_wrRingCfg
    | simp -zeta only [Keeps.mk_eq]
    | split

theorem keeps_wrTallySeen {s u : State} {a1} (h : Keeps s u) : Keeps s (wrTallySeen u a1).1 := by
  unfold wrTallySeen
  dsimp only
  repeat' first
    | with_reducible assumption
    | with_reducible apply keeps_settleWrite
    | simp -zeta only [Keeps.mk_eq]
    | split

theorem keeps_execTallySeen {s u : State} {a0} {t : State} (h : Keeps s u) (ht : execTallySeen a0 u = .next t) : Keeps s t := by
  refine keeps_always h (fun _ hy => ?_) ht
  repeat' first
    | with_reducible assumption
    | with_reducible apply keeps_wrTallySeen
    | simp -zeta only [Keeps.mk_eq]
    | split

theorem keeps_wrTallyStatus {s u : State} {a1} (h : Keeps s u) : Keeps s (wrTallyStatus u a1).1 := by
  unfold wrTallyStatus
  repeat' first
    | with_reducible assumption
    | split
    | simp -zeta only [Keeps.mk_eq]

theorem keeps_execTallyStatus {s u : State} {a0} {t : State} (h : Keeps s u) (ht : execTallyStatus a0 u = .next t) : Keeps s t := by
  refine keeps_always h (fun _ hy => ?_) ht
  repeat' first
    | with_reducible assumption
    | with_reducible apply keeps_wrTallyStatus
    | simp -zeta only [Keeps.mk_eq]
    | split

theorem keeps_wrIntCtl {s u : State} {a1} (h : Keeps s u) : Keeps s (wrIntCtl u a1).1 := h

theorem keeps_wrIntStatus {s u : State} {a1} (h : Keeps s u) : Keeps s (wrIntStatus u a1).1 := h

theorem keeps_modPort {s u : State} {a1} {a2} (h : Keeps s u) : Keeps s (modPort u a1 a2) := h

theorem keeps_creditFlit {s u : State} {a1} (h : Keeps s u) : Keeps s (creditFlit u a1) := h

theorem keeps_modCore {s u : State} {a1} {a2} (h : Keeps s u) : Keeps s (modCore u a1 a2) := h

theorem keeps_modRoute {s u : State} {a1} {a2} (h : Keeps s u) : Keeps s (modRoute u a1 a2) := h

theorem keeps_queueCtrl {s u : State} {a1} {a2} (h : Keeps s u) : Keeps s (queueCtrl u a1 a2) := h

theorem keeps_returnCredits {s u : State} {a1} {a2} {a3} (h : Keeps s u) : Keeps s (returnCredits u a1 a2 a3) := by
  unfold returnCredits
  dsimp only
  repeat' first
    | with_reducible assumption
    | with_reducible apply keeps_modPort
    | with_reducible apply keeps_creditFlit
    | simp -zeta only [Keeps.mk_eq]
    | split

theorem keeps_transmit {s u : State} {a1} (h : Keeps s u) : Keeps s (transmit u a1) := by
  unfold transmit
  repeat' first
    | with_reducible assumption
    | split
    | simp -zeta only [Keeps.mk_eq]

theorem keeps_sendFlit {s u : State} {a1} {a2} (h : Keeps s u) : Keeps s (sendFlit u a1 a2) := by
  unfold sendFlit
  repeat' first
    | with_reducible assumption
    | with_reducible apply keeps_modPort
    | with_reducible apply keeps_transmit
    | simp -zeta only [Keeps.mk_eq]

theorem keeps_sendIdle {s u : State} {a1} (h : Keeps s u) : Keeps s (sendIdle u a1) := keeps_transmit h

theorem keeps_sendMgtOn {s u : State} {a1} {a2} {a3} {a4} (h : Keeps s u) : Keeps s (sendMgtOn u a1 a2 a3 a4) := by
  unfold sendMgtOn
  dsimp only
  repeat' first
    | with_reducible assumption
    | with_reducible apply keeps_mgtCount
    | with_reducible apply keeps_modPort
    | with_reducible apply keeps_modRoute
    | simp -zeta only [Keeps.mk_eq]
    | split

theorem keeps_modNode {s u : State} {a1} {a2} (h : Keeps s u) : Keeps s (modNode u a1 a2) := h

theorem keeps_sendCol {s u : State} {a1} {a2} {a3} {a4} {a5} {a6} (h : Keeps s u) : Keeps s (sendCol u a1 a2 a3 a4 a5 a6) := h

theorem keeps_abortTo {s u : State} {a1} {a2} {a3} {a4} {a5} {a6} (h : Keeps s u) : Keeps s (abortTo u a1 a2 a3 a4 a5 a6) := h

theorem keeps_askAbort {s u : State} {a1 : _} {a2 : _} {a3 : _} (h : Keeps s u) :
    Keeps s (askAbort u a1 a2 a3) := by
  unfold askAbort
  repeat' first
    | with_reducible assumption
    | with_reducible exact mem_wf_writes _ _ _
    | with_reducible exact mem_wf_zero _ _ _
    | with_reducible exact mem_wf_none
    | (intros; with_reducible assumption)
    | with_reducible apply keeps_abortTo
    | unfold x
    | simp -zeta only [Keeps.mk_eq]
    | with_reducible refine Keeps.foldl ?_ (fun v y hv => ?_)
    | with_reducible refine Keeps.foldl1 ?_ (fun v y hv => ?_)
    | (intro (x : State); refine Keeps.cut (s := s) (x := x) ?_ ?_)
    | (intro (x : State × _); refine Keeps.cut (s := s) (x := x.1) ?_ ?_)
    | (intro (hx : Keeps _ _); try clear_value x)
    | intro (x : State → _)
    | intro (x : _ → State → _)
    | (intro x; clear_value x)
    | intro x
    | (lift_lets; fail_if_success with_reducible assumption; intro (x : State); refine Keeps.cut (s := s) (x := x) ?_ ?_)
    | (lift_lets; intro (x : State → _))
    | (lift_lets; intro (x : _ → State → _))
    | (lift_lets; intro x; clear_value x)
    | (lift_lets; intro x)
    | (with_reducible apply Keeps.pair; with_reducible assumption)
    | split
    | with_reducible apply Keeps.mkGran

theorem keeps_useCredits {s u : State} {a1} {a2} {a3} (h : Keeps s u) : Keeps s (useCredits u a1 a2 a3) := h

theorem keeps_chunkCredit {s u : State} {a1} {a2} {a3} (h : Keeps s u) : Keeps s (chunkCredit u a1 a2 a3).1 := by
  unfold chunkCredit
  dsimp only
  repeat' first
    | with_reducible assumption
    | with_reducible apply keeps_useCredits
    | simp -zeta only [Keeps.mk_eq]
    | split

theorem keeps_giveCredit {s u : State} {a1} {a2} {a3} {a4} (h : Keeps s u) : Keeps s (giveCredit u a1 a2 a3 a4) := h

theorem keeps_settleCopies {s u : State}  (h : Keeps s u) : Keeps s (settleCopies u) := by
  unfold settleCopies
  dsimp only
  repeat' first
    | with_reducible assumption
    | with_reducible apply keeps_giveCredit
    | with_reducible refine Keeps.foldl ?_ (fun v y hv => ?_)
    | simp -zeta only [Keeps.mk_eq]
    | split

theorem keeps_modWaits {s u : State} {a1} (h : Keeps s u) : Keeps s (modWaits u a1) := h

theorem keeps_dropRef {s u : State} {a1} (h : Keeps s u) : Keeps s (dropRef u a1).1 := by
  unfold dropRef
  repeat' first
    | with_reducible assumption
    | with_reducible apply keeps_settleCopies
    | with_reducible apply keeps_modWaits
    | split
    | simp -zeta only [Keeps.mk_eq]

theorem keeps_endSenders {s u : State} {a1} {a2} {a3} (h : Keeps s u) : Keeps s (endSenders u a1 a2 a3) := h

theorem keeps_spendChunk {s u : State} {a1} (h : Keeps s u) : Keeps s (spendChunk u a1) := by
  unfold spendChunk
  dsimp only
  repeat' first
    | with_reducible assumption
    | with_reducible apply keeps_send
    | with_reducible apply keeps_useCredits
    | with_reducible apply keeps_giveCredit
    | with_reducible refine Keeps.foldl ?_ (fun v y hv => ?_)
    | simp -zeta only [Keeps.mk_eq]
    | split

theorem keeps_sendChunk {s u : State} {a1} (h : Keeps s u) : Keeps s (sendChunk u a1) := by
  unfold sendChunk
  repeat' first
    | with_reducible assumption
    | with_reducible apply keeps_spendChunk
    | split
    | simp -zeta only [Keeps.mk_eq]

theorem keeps_flushChunks {s u : State}  (h : Keeps s u) : Keeps s (flushChunks u) := by
  unfold flushChunks
  dsimp only
  repeat' first
    | with_reducible assumption
    | with_reducible apply keeps_sendChunk
    | with_reducible refine Keeps.foldl ?_ (fun v y hv => ?_)
    | simp -zeta only [Keeps.mk_eq]
    | split

theorem keeps_openRows {s u : State} {a1} {a2} (h : Keeps s u) : Keeps s (openRows u a1 a2) := by
  unfold openRows
  repeat' first
    | with_reducible assumption
    | split
    | simp -zeta only [Keeps.mk_eq]

theorem keeps_takeCredits {s u : State} {a1} {a2} {a3} (h : Keeps s u) : Keeps s (takeCredits u a1 a2 a3) := by
  unfold takeCredits
  dsimp only
  repeat' first
    | with_reducible assumption
    | with_reducible apply keeps_flushChunks
    | with_reducible apply keeps_useCredits
    | simp -zeta only [Keeps.mk_eq]
    | split

theorem keeps_passMember {s u : State} {a1} (h : Keeps s u) : Keeps s (passMember u a1) := by
  unfold passMember
  dsimp only
  repeat' first
    | with_reducible assumption
    | with_reducible apply keeps_takeCredits
    | with_reducible apply keeps_endSenders
    | simp -zeta only [Keeps.mk_eq]
    | split

theorem keeps_streamPairsOut {s u : State} {a1} {a2} {a3} {a4} {a5} (h : Keeps s u) : Keeps s (streamPairsOut u a1 a2 a3 a4 a5) := by
  unfold streamPairsOut
  dsimp only
  repeat' first
    | with_reducible assumption
    | with_reducible apply keeps_sendChunk
    | with_reducible refine Keeps.foldl ?_ (fun v y hv => ?_)
    | simp -zeta only [Keeps.mk_eq]
    | split

theorem keeps_portData {s u : State} {a1} {a2} (h : Keeps s u) : Keeps s (portData u a1 a2).1 := by
  unfold portData
  dsimp only
  repeat' first
    | with_reducible assumption
    | with_reducible apply keeps_streamPairsOut
    | with_reducible apply keeps_chunkCredit
    | simp -zeta only [Keeps.mk_eq]
    | split

theorem keeps_portCol {s u : State} {a1} {a2} (h : Keeps s u) : Keeps s (portCol u a1 a2).1 := by
  unfold portCol
  dsimp only
  repeat' first
    | with_reducible assumption
    | with_reducible apply keeps_openRows
    | with_reducible apply keeps_askAbort
    | with_reducible apply keeps_raise
    | with_reducible apply keeps_portData
    | with_reducible apply keeps_originate
    | simp -zeta only [Keeps.mk_eq]
    | split

theorem keeps_sendCast {s u : State} {a1} {a2} {a3} (h : Keeps s u) : Keeps s (sendCast u a1 a2 a3) := by
  unfold sendCast
  dsimp only
  repeat' first
    | with_reducible assumption
    | with_reducible refine Keeps.foldl ?_ (fun v y hv => ?_)
    | simp -zeta only [Keeps.mk_eq]
    | split

theorem keeps_taken {s u : State} {a1} (h : Keeps s u) : Keeps s (taken u a1) := h

theorem keeps_chargeShapers {s u : State} {a1} {a2} {a3} (h : Keeps s u) : Keeps s (chargeShapers u a1 a2 a3) := h

theorem keeps_execRefill {s u : State} {t : State} (h : Keeps s u) (ht : execRefill u = .next t) : Keeps s t := by
  refine keeps_event h (fun _ hy => ?_) ht
  repeat' first
    | with_reducible assumption
    | simp -zeta only [Keeps.mk_eq]
    | split

theorem keeps_serveWeighted {s u : State} {c : Nat → Nat} {n k : Nat} (h : Keeps s u) : Keeps s (serveWeighted c n k u).1 := by
  induction k generalizing u with
  | zero => exact h
  | succ k ih =>
    unfold serveWeighted
    dsimp only
    repeat' split
    all_goals first | exact ih h | exact h

theorem keeps_pickQueue {s u : State} {a0} {a2} (h : Keeps s u) : Keeps s (pickQueue a0 u a2).1 := by
  unfold pickQueue
  dsimp only
  repeat' first
    | with_reducible assumption
    | with_reducible apply keeps_serveWeighted
    | simp -zeta only [Keeps.mk_eq]
    | split

theorem keeps_police {s u : State} {a1} {a2} {a3} {a4} (h : Keeps s u) : Keeps s (police u a1 a2 a3 a4).1 := by
  unfold police
  dsimp only
  repeat' first
    | with_reducible assumption
    | with_reducible apply keeps_modPort
    | simp -zeta only [Keeps.mk_eq]
    | split

theorem keeps_settleDeficit {s u : State} {a1} {a2} (h : Keeps s u) : Keeps s (settleDeficit u a1 a2) := by
  unfold settleDeficit
  repeat' first
    | with_reducible assumption
    | split
    | simp -zeta only [Keeps.mk_eq]

theorem keeps_modGate {s u : State} {a1} {a2} (h : Keeps s u) : Keeps s (modGate u a1 a2) := h

theorem keeps_sendGate {s u : State} {a1} {a2} {a3} {a4} {a5} {a6} (h : Keeps s u) : Keeps s (sendGate u a1 a2 a3 a4 a5 a6) := h

theorem keeps_announce {s u : State} {a1} (h : Keeps s u) : Keeps s (announce u a1) := by
  unfold announce
  repeat' first
    | with_reducible assumption
    | with_reducible apply keeps_modGate
    | with_reducible apply keeps_sendGate
    | split

theorem keeps_gateAdd {s u : State} {a1} {a2} (h : Keeps s u) : Keeps s (gateAdd u a1 a2) := h

theorem keeps_tryRoom {s u t : State} {w : RoomWait} (h : Keeps s u) (ht : tryRoom u w = some t) : Keeps s t := by
  unfold tryRoom at ht
  repeat' split at ht
  all_goals first | (cases ht; done) | skip
  obtain ⟨c, -, rfl⟩ := Option.map_eq_some_iff.1 ht
  exact h

theorem keeps_retryRooms {s u : State} {a b k : Nat} (h : Keeps s u) : Keeps s (retryRooms a b k u) := by
  induction k generalizing u with
  | zero => exact h
  | succ k ih =>
    unfold retryRooms
    split
    · exact h
    · rename_i w t e
      obtain ⟨x, -, hx⟩ := List.exists_of_findSome?_eq_some e
      obtain ⟨t', ht', he⟩ := Option.map_eq_some_iff.1 hx
      cases he
      apply ih
      have h2 := keeps_tryRoom h ht'
      exact h2

theorem keeps_sendPfc {s u : State} {a1} {a2} {a3} (h : Keeps s u) : Keeps s (sendPfc u a1 a2 a3) := by
  unfold sendPfc
  repeat' first
    | with_reducible assumption
    | with_reducible apply keeps_transmit
    | with_reducible apply keeps_modPort
    | split

theorem keeps_settlePfc {s u : State} {a1} (h : Keeps s u) : Keeps s (settlePfc u a1) := by
  unfold settlePfc
  repeat' first
    | with_reducible assumption
    | with_reducible apply keeps_sendPfc
    | simp -zeta only [Keeps.mk_eq]

theorem keeps_settleDie {s u : State} {n : Nat} (h : Keeps s u) : Keeps s (settleDie u n) := by
  unfold settleDie
  exact Keeps.foldl (Keeps.foldl h fun v y hv => keeps_retryRooms hv) fun v y hv => keeps_settlePfc hv

theorem keeps_roomRelease {s u : State} {a0} (h : Keeps s u) : Keeps s (roomRelease a0 u) := by
  unfold roomRelease
  dsimp only
  repeat' first
    | with_reducible assumption
    | with_reducible apply keeps_raise
    | with_reducible apply keeps_modCore
    | with_reducible apply keeps_settleDie
    | simp -zeta only [Keeps.mk_eq]
    | split

theorem keeps_execRoomRelease {s u : State} {a0} {t : State} (h : Keeps s u) (ht : execRoomRelease a0 u = .next t) : Keeps s t := keeps_event h (fun _ hy => keeps_roomRelease hy) ht

theorem keeps_cellCe {s u : State} {a1} (h : Keeps s u) : Keeps s (cellCe u a1) := by
  unfold cellCe
  repeat' first
    | with_reducible assumption
    | with_reducible apply keeps_modCore
    | with_reducible apply keeps_raise
    | simp -zeta only [Keeps.mk_eq]

theorem keeps_cellUe {s u : State} {a1} {a2} (h : Keeps s u) : Keeps s (cellUe u a1 a2) := by
  unfold cellUe
  dsimp only
  repeat' first
    | with_reducible assumption
    | with_reducible apply keeps_modCore
    | with_reducible apply keeps_raise
    | with_reducible apply keeps_askAbort
    | with_reducible apply keeps_originate
    | simp -zeta only [Keeps.mk_eq]
    | split

theorem keeps_releaseEdge {s u : State} {a1} {a2} {a3} (h : Keeps s u) : Keeps s (releaseEdge u a1 a2 a3) := keeps_settleDie h

theorem keeps_releaseLodging {s u : State} {a1} {a2} {a3} {a4} (h : Keeps s u) : Keeps s (releaseLodging u a1 a2 a3 a4) := by
  unfold releaseLodging
  repeat' first
    | with_reducible assumption
    | with_reducible apply keeps_releaseEdge
    | with_reducible apply keeps_returnCredits
    | split

theorem keeps_releaseRef {s u : State} {a1} {a2} {a3} {a4} {a5} (h : Keeps s u) : Keeps s (releaseRef u a1 a2 a3 a4 a5) := by
  unfold releaseRef
  dsimp only
  repeat' first
    | with_reducible assumption
    | with_reducible apply keeps_releaseLodging
    | with_reducible apply keeps_dropRef
    | simp -zeta only [Keeps.mk_eq]
    | split

theorem keeps_dropLodged {s u : State} {a1} (h : Keeps s u) : Keeps s (dropLodged u a1) := keeps_releaseRef h

theorem keeps_routeNone {s u : State} {a1} {a2} (h : Keeps s u) : Keeps s (routeNone u a1 a2) := by
  unfold routeNone
  dsimp only
  repeat' first
    | with_reducible assumption
    | with_reducible apply keeps_modRoute
    | with_reducible apply keeps_dropLodged
    | with_reducible apply keeps_raise
    | simp -zeta only [Keeps.mk_eq]
    | split

theorem keeps_takeTurn {s u : State} {a1} {a2} {a3} {f4} (h : Keeps s u) (hf4 : ∀ y0, Keeps s y0 → Keeps s (f4 y0)) : Keeps s (takeTurn u a1 a2 a3 f4) := by
  unfold takeTurn
  repeat' first
    | with_reducible assumption
    | with_reducible apply hf4
    | split
    | simp -zeta only [Keeps.mk_eq]

theorem keeps_toOutput {s u : State} {a1} {a2} {a3} (h : Keeps s u) : Keeps s (toOutput u a1 a2 a3) := by
  unfold toOutput
  dsimp only
  repeat' first
    | with_reducible assumption
    | with_reducible apply keeps_releaseLodging
    | with_reducible apply keeps_gateAdd
    | with_reducible apply keeps_modRoute
    | with_reducible apply keeps_dropLodged
    | with_reducible apply keeps_raise
    | with_reducible apply keeps_modPort
    | simp -zeta only [Keeps.mk_eq]
    | split

theorem keeps_mgtDiscard {s u : State} {a1} (h : Keeps s u) : Keeps s (mgtDiscard u a1) := by
  unfold mgtDiscard
  repeat' first
    | with_reducible assumption
    | with_reducible apply keeps_modRoute
    | with_reducible apply keeps_dropLodged
    | simp -zeta only [Keeps.mk_eq]

theorem keeps_toLocal {s u : State} {a1} {a2} (h : Keeps s u) : Keeps s (toLocal u a1 a2) := by
  unfold toLocal
  dsimp only
  repeat' first
    | with_reducible assumption
    | with_reducible apply keeps_releaseRef
    | with_reducible apply keeps_cellCe
    | with_reducible apply keeps_cellUe
    | with_reducible apply keeps_dropLodged
    | with_reducible apply keeps_mgtDiscard
    | with_reducible apply keeps_routeNone
    | with_reducible refine keeps_takeTurn ?_ (fun y0 hy => ?_)
    | with_reducible apply keeps_toOutput
    | with_reducible apply keeps_passMember
    | simp -zeta only [Keeps.mk_eq]
    | split

theorem keeps_dispatch {s u : State} {a0} {a1} {a2} {a3} (h : Keeps s u) : Keeps s (dispatch a0 a1 a2 a3 u) := by
  unfold dispatch
  repeat' first
    | with_reducible assumption
    | with_reducible apply keeps_routeNone
    | with_reducible refine keeps_takeTurn ?_ (fun y0 hy => ?_)
    | with_reducible apply keeps_toOutput
    | with_reducible apply keeps_toLocal
    | with_reducible apply keeps_mgtDiscard
    | split

theorem keeps_dropQueued {s u : State} {a1} (h : Keeps s u) : Keeps s (dropQueued u a1) := by
  unfold dropQueued
  dsimp only
  repeat' first
    | with_reducible assumption
    | with_reducible apply keeps_releaseRef
    | with_reducible apply keeps_modPort
    | simp -zeta only [Keeps.mk_eq]
    | split

theorem keeps_setLodged {s u : State} {a1} {a2} (h : Keeps s u) : Keeps s (setLodged u a1 a2) := h

theorem keeps_escAfter {s u : State} {a0} {a1} {a2} (h : Keeps s u) : Keeps s (escAfter a0 a1 a2 u) := by
  unfold escAfter
  repeat' first
    | with_reducible assumption
    | with_reducible apply keeps_setLodged
    | split

theorem keeps_escapeLost {s u : State}  (h : Keeps s u) : Keeps s (escapeLost u) := by
  unfold escapeLost
  dsimp only
  repeat' first
    | with_reducible assumption
    | with_reducible apply keeps_raise
    | with_reducible refine Keeps.foldl ?_ (fun v y hv => ?_)
    | simp -zeta only [Keeps.mk_eq]
    | split

theorem keeps_execDispatch {s u : State} {a0} {a1} {a2} {t : State} (h : Keeps s u) (ht : execDispatch a0 a1 a2 u = .next t) : Keeps s t := keeps_event h (fun _ hy => keeps_dispatch hy) ht

theorem keeps_execEscAfter {s u : State} {a0} {a1} {t : State} (h : Keeps s u) (ht : execEscAfter a0 a1 u = .next t) : Keeps s t := keeps_event h (fun _ hy => keeps_escAfter hy) ht

theorem keeps_wrGleanTail {s u : State} {a1} (h : Keeps s u) : Keeps s (wrGleanTail u a1).1 := by
  unfold wrGleanTail
  dsimp only
  repeat' first
    | with_reducible assumption
    | simp -zeta only [Keeps.mk_eq]
    | split

theorem keeps_execGleanTail {s u : State} {a0} {t : State} (h : Keeps s u) (ht : execGleanTail a0 u = .next t) : Keeps s t := by
  refine keeps_always h (fun _ hy => ?_) ht
  repeat' first
    | with_reducible assumption
    | with_reducible apply keeps_wrGleanTail
    | simp -zeta only [Keeps.mk_eq]
    | split

theorem keeps_gleanWrite {s u : State} {a0} (h : Keeps s u) : Keeps s (gleanWrite a0 u) := by
  unfold gleanWrite
  dsimp only
  repeat' first
    | with_reducible assumption
    | with_reducible exact mem_wf_writes _ _ _
    | with_reducible refine Keeps.foldl ?_ (fun v y hv => ?_)
    | simp -zeta only [Keeps.mk_eq]
    | split
    | with_reducible apply Keeps.mkGran

theorem keeps_execGleanWrite {s u : State} {a0} {t : State} (h : Keeps s u) (ht : execGleanWrite a0 u = .next t) : Keeps s t := keeps_event h (fun _ hy => keeps_gleanWrite hy) ht

theorem keeps_localCheck {s u : State} {a1} {a2} (h : Keeps s u) : Keeps s (localCheck u a1 a2) := by
  unfold localCheck
  repeat' first
    | with_reducible assumption
    | with_reducible apply keeps_raise
    | split
    | simp -zeta only [Keeps.mk_eq]

theorem keeps_signpostCheck {s u : State} {a1} {a2} (h : Keeps s u) : Keeps s (signpostCheck u a1 a2) := by
  unfold signpostCheck
  repeat' first
    | with_reducible assumption
    | with_reducible apply keeps_raise
    | split
    | simp -zeta only [Keeps.mk_eq]

theorem keeps_lookupChecks {s u : State} {a1} {a2} {a3} (h : Keeps s u) : Keeps s (lookupChecks u a1 a2 a3) := by
  unfold lookupChecks
  repeat' first
    | with_reducible assumption
    | with_reducible apply keeps_localCheck
    | with_reducible apply keeps_signpostCheck
    | simp -zeta only [Keeps.mk_eq]

theorem keeps_packetLookup {s u : State} {a0} {a1} {a2} {a3} {a4} (h : Keeps s u) : Keeps s (packetLookup a0 a1 a2 a3 a4 u) := by
  unfold packetLookup
  dsimp only
  repeat' first
    | with_reducible assumption
    | with_reducible apply keeps_setLodged
    | with_reducible apply keeps_lookupChecks
    | with_reducible apply keeps_modRoute
    | with_reducible apply keeps_raise
    | with_reducible apply keeps_dropLodged
    | with_reducible apply keeps_modPort
    | with_reducible apply keeps_portCol
    | with_reducible apply keeps_police
    | simp -zeta only [Keeps.mk_eq]
    | split

theorem keeps_execPacketLookup {s u : State} {a0} {a1} {a2} {t : State} (h : Keeps s u) (ht : execPacketLookup a0 a1 a2 u = .next t) : Keeps s t := keeps_event h (fun _ hy => keeps_packetLookup hy) ht

theorem keeps_takeSample {s u : State} {a1} {a2} {a3} {a4} (h : Keeps s u) : Keeps s (takeSample u a1 a2 a3 a4) := by
  unfold takeSample
  dsimp only
  repeat' first
    | with_reducible assumption
    | with_reducible apply keeps_nFlag
    | simp -zeta only [Keeps.mk_eq]
    | split

theorem keeps_glean {s u : State} {a1} {a2} {a3} {a4} (h : Keeps s u) : Keeps s (glean u a1 a2 a3 a4) := by
  unfold glean
  dsimp only
  repeat' first
    | with_reducible assumption
    | with_reducible apply keeps_takeSample
    | simp -zeta only [Keeps.mk_eq]
    | split

theorem keeps_sendUnit {s u : State} {a1} {a2} (h : Keeps s u) : Keeps s (sendUnit u a1 a2) := by
  unfold sendUnit
  dsimp only
  repeat' first
    | with_reducible assumption
    | with_reducible apply keeps_releaseRef
    | with_reducible apply keeps_modPort
    | with_reducible apply keeps_chargeShapers
    | with_reducible apply keeps_glean
    | with_reducible apply keeps_transmit
    | with_reducible apply keeps_sendFlit
    | simp -zeta only [Keeps.mk_eq]
    | split

theorem keeps_serveUnit_serveHead {s u : State} {a0} {a2} {a3} (h : Keeps s u) : Keeps s (serveUnit.serveHead a0 u a2 a3) := by
  unfold serveUnit.serveHead
  repeat' first
    | with_reducible assumption
    | with_reducible apply keeps_sendUnit
    | with_reducible apply keeps_cellCe
    | with_reducible apply keeps_dropQueued
    | with_reducible apply keeps_cellUe
    | with_reducible apply keeps_raise
    | with_reducible apply keeps_modCore
    | split

theorem keeps_serveUnit {s u : State} {a0 : _} {a1 : _} (h : Keeps s u) :
    Keeps s (serveUnit a0 a1 u) := by
  unfold serveUnit
  repeat' first
    | with_reducible assumption
    | with_reducible exact mem_wf_writes _ _ _
    | with_reducible exact mem_wf_zero _ _ _
    | with_reducible exact mem_wf_none
    | (intros; with_reducible assumption)
    | with_reducible apply keeps_sendIdle
    | with_reducible apply keeps_sendFlit
    | with_reducible apply keeps_modPort
    | with_reducible apply keeps_pickQueue
    | with_reducible apply keeps_settleDeficit
    | with_reducible apply keeps_serveUnit_serveHead
    | unfold x
    | simp -zeta only [Keeps.mk_eq]
    | with_reducible refine Keeps.foldl ?_ (fun v y hv => ?_)
    | with_reducible refine Keeps.foldl1 ?_ (fun v y hv => ?_)
    | (intro (x : State); refine Keeps.cut (s := s) (x := x) ?_ ?_)
    | (intro (x : State × _); refine Keeps.cut (s := s) (x := x.1) ?_ ?_)
    | (intro (hx : Keeps _ _); try clear_value x)
    | intro (x : State → _)
    | intro (x : _ → State → _)
    | (intro x; clear_value x)
    | intro x
    | (lift_lets; fail_if_success with_reducible assumption; intro (x : State); refine Keeps.cut (s := s) (x := x) ?_ ?_)
    | (lift_lets; intro (x : State → _))
    | (lift_lets; intro (x : _ → State → _))
    | (lift_lets; intro x; clear_value x)
    | (lift_lets; intro x)
    | (with_reducible apply Keeps.pair; with_reducible assumption)
    | split
    | with_reducible apply Keeps.mkGran

theorem keeps_execServeUnit {s u : State} {a0} {a1} {t : State} (h : Keeps s u) (ht : execServeUnit a0 a1 u = .next t) : Keeps s t := keeps_event h (fun _ hy => keeps_serveUnit hy) ht

theorem keeps_requeuePort {s u : State} {a1} (h : Keeps s u) : Keeps s (requeuePort u a1) := by
  unfold requeuePort
  dsimp only
  repeat' first
    | with_reducible assumption
    | with_reducible apply keeps_settleDeficit
    | with_reducible apply keeps_modPort
    | with_reducible apply keeps_modRoute
    | with_reducible apply keeps_dropQueued
    | with_reducible refine Keeps.foldl ?_ (fun v y hv => ?_)
    | simp -zeta only [Keeps.mk_eq]
    | split

end Sys2Proof.Laws
end

