-- ==== Sys2Proof/Laws/KeepsColl.lean ====
section
/-!
SUPPORT. Every operation keeps the identity and the canonical granary: collectives.
-/

set_option linter.unusedTactic false
set_option linter.unreachableTactic false
set_option linter.unusedVariables false
set_option linter.unusedSimpArgs false

namespace Sys2Proof.Laws
open Sys2Proof Sys2Proof.Machine

theorem keeps_sendOutcome {s u : State} {a1} {a2} {a3} {a4} {a5} {a6} {a7} {a8} (h : Keeps s u) : Keeps s (sendOutcome u a1 a2 a3 a4 a5 a6 a7 a8) := by
  unfold sendOutcome
  dsimp only
  repeat' first
    | with_reducible assumption
    | with_reducible apply keeps_sendCol
    | with_reducible apply keeps_tally
    | with_reducible refine Keeps.foldl ?_ (fun v y hv => ?_)
    | simp -zeta only [Keeps.mk_eq]
    | split

theorem keeps_endService {s u : State} {a1} {a2} (h : Keeps s u) : Keeps s (endService u a1 a2) := h

theorem keeps_dropColl {s u : State} {a1} {a2} {a3} (h : Keeps s u) : Keeps s (dropColl u a1 a2 a3) := h

theorem keeps_lagEntries {s u : State} {a1} (h : Keeps s u) : Keeps s (lagEntries u a1) := by
  unfold lagEntries
  dsimp only
  repeat' first
    | with_reducible assumption
    | with_reducible apply keeps_tally
    | with_reducible refine Keeps.foldl ?_ (fun v y hv => ?_)
    | simp -zeta only [Keeps.mk_eq]
    | split

theorem keeps_abortAt {s u : State} {a1} {a2} {a3} {a4} {a5} (h : Keeps s u) : Keeps s (abortAt u a1 a2 a3 a4 a5) := by
  unfold abortAt
  dsimp only
  repeat' first
    | with_reducible assumption
    | with_reducible apply keeps_sendOutcome
    | with_reducible apply keeps_endService
    | with_reducible apply keeps_dropColl
    | with_reducible apply keeps_lagEntries
    | with_reducible apply keeps_modNode
    | simp -zeta only [Keeps.mk_eq]
    | split

theorem keeps_answerBelow {s u : State} {a1} {a2} {a3} (h : Keeps s u) : Keeps s (answerBelow u a1 a2 a3) := by
  unfold answerBelow
  dsimp only
  repeat' first
    | with_reducible assumption
    | with_reducible apply keeps_sendCol
    | with_reducible apply keeps_endService
    | with_reducible apply keeps_dropColl
    | with_reducible apply keeps_lagEntries
    | with_reducible refine Keeps.foldl ?_ (fun v y hv => ?_)
    | simp -zeta only [Keeps.mk_eq]
    | split

theorem keeps_nodeAbort {s u : State} {a1} {a2} {a3} {a4} {a5} {a6} (h : Keeps s u) : Keeps s (nodeAbort u a1 a2 a3 a4 a5 a6) := by
  unfold nodeAbort
  dsimp only
  repeat' first
    | with_reducible assumption
    | with_reducible apply keeps_abortTo
    | with_reducible apply keeps_abortAt
    | with_reducible refine Keeps.foldl ?_ (fun v y hv => ?_)
    | simp -zeta only [Keeps.mk_eq]
    | split

theorem keeps_passGrant {s u : State} {a1} {a2} {a3} {a4} (h : Keeps s u) : Keeps s (passGrant u a1 a2 a3 a4) := by
  unfold passGrant
  repeat' first
    | with_reducible assumption
    | with_reducible apply keeps_sendCol
    | split

theorem keeps_completeColl {s u : State} {a1} {a2} (h : Keeps s u) : Keeps s (completeColl u a1 a2) := by
  unfold completeColl
  dsimp only
  repeat' first
    | with_reducible assumption
    | with_reducible apply keeps_sendOutcome
    | with_reducible apply keeps_endService
    | with_reducible apply keeps_lagEntries
    | simp -zeta only [Keeps.mk_eq]
    | split

theorem keeps_tallyRound {s u : State} {a1 : _} {a2 : _} (h : Keeps s u) :
    Keeps s (tallyRound u a1 a2) := by
  unfold tallyRound
  repeat' first
    | with_reducible assumption
    | with_reducible exact mem_wf_writes _ _ _
    | with_reducible exact mem_wf_zero _ _ _
    | with_reducible exact mem_wf_none
    | (intros; with_reducible assumption)
    | with_reducible apply keeps_nodeAbort
    | with_reducible apply keeps_raiseCount
    | with_reducible apply keeps_modNode
    | with_reducible apply keeps_passGrant
    | with_reducible apply keeps_sendCol
    | with_reducible apply keeps_completeColl
    | unfold x
    | simp -zeta only [Keeps.mk_eq]
    | with_reducible refine Keeps.foldl ?_ (fun v y hv => ?_)
    | with_reducible refine Keeps.foldl1 ?_ (fun v y hv => ?_)
    | (intro (x : State); refine Keeps.cut (s := s) (x := x) ?_ ?_)
    | (intro (x : State × _); refine Keeps.cut (s := s) (x := x.1) ?_ ?_)
    | (intro (hx : Keeps _ _); try clear_value x)
    | intro (x : State → _)
    | intro (x : _ → State → _)
    | (intro x; clear_value x)
    | intro x
    | split
    | (lift_lets; fail_if_success with_reducible assumption; intro (x : State); refine Keeps.cut (s := s) (x := x) ?_ ?_)
    | (lift_lets; intro (x : State → _))
    | (lift_lets; intro (x : _ → State → _))
    | (lift_lets; intro x; clear_value x)
    | (lift_lets; intro x)
    | (with_reducible apply Keeps.pair; with_reducible assumption)
    | with_reducible apply Keeps.mkGran

theorem keeps_slotFault {s u : State} {a1} {a2} {a3} {a4} {a5} {a6} {a7} (h : Keeps s u) : Keeps s (slotFault u a1 a2 a3 a4 a5 a6 a7) := by
  unfold slotFault
  repeat' first
    | with_reducible assumption
    | with_reducible apply keeps_nodeAbort
    | with_reducible apply keeps_raise
    | simp -zeta only [Keeps.mk_eq]

theorem keeps_memberLost {s u : State} {a1} {a2} (h : Keeps s u) : Keeps s (memberLost u a1 a2) := by
  unfold memberLost
  dsimp only
  repeat' first
    | with_reducible assumption
    | with_reducible apply keeps_slotFault
    | with_reducible apply keeps_modNode
    | simp -zeta only [Keeps.mk_eq]
    | split

theorem keeps_serveNext {s u : State} {k f : Nat} {n : NodeRec} (h : Keeps s u) : Keeps s (serveNext k u f n) := by
  induction k generalizing u with
  | zero => exact h
  | succ k ih =>
    unfold serveNext
    dsimp only
    split
    · exact keeps_tallyRound (keeps_memberLost h)
    · exact ih (keeps_tallyRound (keeps_memberLost h))

theorem keeps_colAbort {s u : State} {a0} {a1} (h : Keeps s u) : Keeps s (colAbort a0 a1 u) := by
  unfold colAbort
  dsimp only
  repeat' first
    | with_reducible assumption
    | with_reducible apply keeps_taken
    | with_reducible apply keeps_abortTo
    | with_reducible apply keeps_serveNext
    | with_reducible apply keeps_abortAt
    | simp -zeta only [Keeps.mk_eq]
    | split

theorem keeps_refuseBill {s u : State} {a1} {a2} (h : Keeps s u) : Keeps s (refuseBill u a1 a2) := h

theorem keeps_collOrder {s u : State} {a1} {a2} (h : Keeps s u) : Keeps s (collOrder u a1 a2) := by
  unfold collOrder
  dsimp only
  repeat' first
    | with_reducible assumption
    | with_reducible apply keeps_raise
    | with_reducible apply keeps_abortAt
    | with_reducible apply keeps_abortTo
    | with_reducible refine Keeps.foldl ?_ (fun v y hv => ?_)
    | simp -zeta only [Keeps.mk_eq]
    | split

theorem keeps_takeBill {s u : State} {a1} {a2} {a3} {a4} (h : Keeps s u) : Keeps s (takeBill u a1 a2 a3 a4) := by
  unfold takeBill
  dsimp only
  repeat' first
    | with_reducible assumption
    | with_reducible apply keeps_slotFault
    | with_reducible apply keeps_sendCol
    | with_reducible apply keeps_serveNext
    | with_reducible apply keeps_modNode
    | simp -zeta only [Keeps.mk_eq]
    | split

theorem keeps_colWaybill {s u : State} {a0} {a1} (h : Keeps s u) : Keeps s (colWaybill a0 a1 u) := by
  unfold colWaybill
  dsimp only
  repeat' first
    | with_reducible assumption
    | with_reducible apply keeps_taken
    | with_reducible apply keeps_refuseBill
    | with_reducible apply keeps_slotFault
    | with_reducible apply keeps_collOrder
    | with_reducible apply keeps_takeBill
    | simp -zeta only [Keeps.mk_eq]
    | split

theorem keeps_collOnHedge {s u : State}  (h : Keeps s u) : Keeps s (collOnHedge u) := by
  unfold collOnHedge
  dsimp only
  repeat' first
    | with_reducible assumption
    | with_reducible apply keeps_memberLost
    | with_reducible apply keeps_serveNext
    | with_reducible apply keeps_answerBelow
    | with_reducible refine Keeps.foldl ?_ (fun v y hv => ?_)
    | simp -zeta only [Keeps.mk_eq]
    | split

theorem keeps_collRestart {s u : State} {a1} (h : Keeps s u) : Keeps s (collRestart u a1) := by
  unfold collRestart
  dsimp only
  repeat' first
    | with_reducible assumption
    | with_reducible apply keeps_modNode
    | with_reducible refine Keeps.foldl ?_ (fun v y hv => ?_)
    | simp -zeta only [Keeps.mk_eq]
    | split

theorem keeps_execColAbort {s u : State} {a0} {a1} {t : State} (h : Keeps s u) (ht : execColAbort a0 a1 u = .next t) : Keeps s t := keeps_onPkt h (fun _ hy => keeps_colAbort hy) ht

theorem keeps_execColWaybill {s u : State} {a0} {a1} {t : State} (h : Keeps s u) (ht : execColWaybill a0 a1 u = .next t) : Keeps s t := keeps_onPkt h (fun _ hy => keeps_colWaybill hy) ht

theorem keeps_slotOutcome {s u : State} {a0} {a1} (h : Keeps s u) : Keeps s (slotOutcome a0 a1 u) := by
  unfold slotOutcome
  dsimp only
  repeat' first
    | with_reducible assumption
    | with_reducible apply keeps_taken
    | with_reducible apply keeps_sendCol
    | with_reducible apply keeps_dropColl
    | with_reducible apply keeps_serveNext
    | with_reducible apply keeps_endService
    | with_reducible apply keeps_lagEntries
    | with_reducible apply keeps_modNode
    | with_reducible refine Keeps.foldl ?_ (fun v y hv => ?_)
    | simp -zeta only [Keeps.mk_eq]
    | split

theorem keeps_advanceStream {s u : State} {a1} {a2} {a3} {a4} {a5} {f6} {f7} (h : Keeps s u) (hf6 : ∀ y0 y1 y2, Keeps s y0 → Keeps s (f6 y0 y1 y2)) (hf7 : ∀ y0 y1, Keeps s y0 → Keeps s (f7 y0 y1)) : Keeps s (advanceStream u a1 a2 a3 a4 a5 f6 f7) := by
  unfold advanceStream
  dsimp only
  repeat' first
    | with_reducible assumption
    | with_reducible apply hf6
    | with_reducible apply hf7
    | with_reducible apply keeps_modNode
    | with_reducible refine Keeps.foldl ?_ (fun v y hv => ?_)
    | simp -zeta only [Keeps.mk_eq]
    | split

theorem keeps_advanceSums {s u : State} {a1} {a2} {a3} {a4} {a5} {a6} {a7} {a8} {a9} {a10} (h : Keeps s u) : Keeps s (advanceSums u a1 a2 a3 a4 a5 a6 a7 a8 a9 a10) := by
  unfold advanceSums
  repeat' first
    | with_reducible assumption
    | with_reducible refine keeps_advanceStream ?_ (fun y0 y1 y2 hy => ?_) (fun y0 y1 hy => ?_)
    | with_reducible apply keeps_sendChunk
    | simp -zeta only [Keeps.mk_eq]

theorem keeps_sendUp {s u : State} {a1} {a2} {a3} {a4} {a5} {a6} (h : Keeps s u) : Keeps s (sendUp u a1 a2 a3 a4 a5 a6) := keeps_sendChunk h

theorem keeps_closeChunk {s u : State} {a1} {a2} {a3} {a4} {a5} {a6} (h : Keeps s u) : Keeps s (closeChunk u a1 a2 a3 a4 a5 a6) := by
  unfold closeChunk
  dsimp only
  repeat' first
    | with_reducible assumption
    | with_reducible apply keeps_modNode
    | with_reducible apply keeps_sendUp
    | with_reducible apply keeps_send
    | with_reducible apply keeps_giveCredit
    | with_reducible apply keeps_completeColl
    | with_reducible refine Keeps.foldl ?_ (fun v y hv => ?_)
    | simp -zeta only [Keeps.mk_eq]
    | split

theorem keeps_colCredit {s u : State} {a0} (h : Keeps s u) : Keeps s (colCredit a0 u) := by
  unfold colCredit
  repeat' first
    | with_reducible assumption
    | with_reducible apply keeps_takeCredits
    | with_reducible apply keeps_taken
    | simp -zeta only [Keeps.mk_eq]

theorem keeps_creditStreams {s u : State} {a1} {a2} {a3} (h : Keeps s u) : Keeps s (creditStreams u a1 a2 a3) := by
  unfold creditStreams
  dsimp only
  repeat' first
    | with_reducible assumption
    | with_reducible apply keeps_modNode
    | with_reducible apply keeps_giveCredit
    | with_reducible refine Keeps.foldl ?_ (fun v y hv => ?_)
    | simp -zeta only [Keeps.mk_eq]
    | split

theorem keeps_partialFault {s u : State} {a1} {a2} {a3} {a4} (h : Keeps s u) : Keeps s (partialFault u a1 a2 a3 a4) := keeps_slotFault h

theorem keeps_keepPkt {s u : State} {a1} {a2} (h : Keeps s u) : Keeps s (keepPkt u a1 a2) := h

theorem keeps_dropPart {s u : State} {a1} {a2} (h : Keeps s u) : Keeps s (dropPart u a1 a2) := h

theorem keeps_denseData {s u : State} {a1} {a2} {a3} {a4} {a5} {a6} (h : Keeps s u) : Keeps s (denseData u a1 a2 a3 a4 a5 a6) := by
  unfold denseData
  dsimp only
  repeat' first
    | with_reducible assumption
    | with_reducible apply keeps_partialFault
    | with_reducible apply keeps_taken
    | with_reducible apply keeps_keepPkt
    | with_reducible apply keeps_dropPart
    | with_reducible apply keeps_closeChunk
    | simp -zeta only [Keeps.mk_eq]
    | split

theorem keeps_emitRaw {s u : State} {a1} {a2} {a3} {a4} {a5} (h : Keeps s u) : Keeps s (emitRaw u a1 a2 a3 a4 a5) := by
  unfold emitRaw
  dsimp only
  repeat' first
    | with_reducible assumption
    | with_reducible apply keeps_send
    | with_reducible apply keeps_modNode
    | with_reducible refine Keeps.foldl ?_ (fun v y hv => ?_)
    | simp -zeta only [Keeps.mk_eq]
    | split

theorem keeps_execColCredit {s u : State} {a0} {t : State} (h : Keeps s u) (ht : execColCredit a0 u = .next t) : Keeps s t := keeps_onPkt h (fun _ hy => keeps_colCredit hy) ht

theorem keeps_multicast {s u : State} {a1} {a2} {a3} (h : Keeps s u) : Keeps s (multicast u a1 a2 a3) := by
  unfold multicast
  dsimp only
  repeat' first
    | with_reducible assumption
    | with_reducible apply keeps_modWaits
    | with_reducible apply keeps_sendCast
    | with_reducible apply keeps_modNode
    | with_reducible apply keeps_completeColl
    | with_reducible refine Keeps.foldl ?_ (fun v y hv => ?_)
    | simp -zeta only [Keeps.mk_eq]
    | split

theorem keeps_placePart {s u : State} {a1} {a2} {a3} {a4} {a5} {a6} {a7} (h : Keeps s u) : Keeps s (placePart u a1 a2 a3 a4 a5 a6 a7) := by
  unfold placePart
  repeat' first
    | with_reducible assumption
    | with_reducible apply keeps_modNode
    | with_reducible apply keeps_multicast
    | simp -zeta only [Keeps.mk_eq]

theorem keeps_gatherData {s u : State} {a1} {a2} {a3} {a4} {a5} {a6} (h : Keeps s u) : Keeps s (gatherData u a1 a2 a3 a4 a5 a6) := by
  unfold gatherData
  dsimp only
  repeat' first
    | with_reducible assumption
    | with_reducible apply keeps_partialFault
    | with_reducible apply keeps_taken
    | with_reducible apply keeps_keepPkt
    | with_reducible apply keeps_dropPart
    | with_reducible apply keeps_modNode
    | with_reducible apply keeps_sendUp
    | with_reducible apply keeps_placePart
    | simp -zeta only [Keeps.mk_eq]
    | split

theorem keeps_sendSegments {s u : State} {a1} {a2} {a3} (h : Keeps s u) : Keeps s (sendSegments u a1 a2 a3) := by
  unfold sendSegments
  dsimp only
  repeat' first
    | with_reducible assumption
    | with_reducible apply keeps_sendChunk
    | with_reducible apply keeps_advanceSums
    | with_reducible apply keeps_modNode
    | with_reducible refine Keeps.foldl ?_ (fun v y hv => ?_)
    | simp -zeta only [Keeps.mk_eq]
    | split

theorem keeps_sparseAdvance {s u : State} {a1} {a2} {a3} (h : Keeps s u) : Keeps s (sparseAdvance u a1 a2 a3) := by
  unfold sparseAdvance
  dsimp only
  repeat' first
    | with_reducible assumption
    | with_reducible apply keeps_creditStreams
    | with_reducible apply keeps_sendSegments
    | with_reducible apply keeps_advanceSums
    | with_reducible refine keeps_advanceStream ?_ (fun y0 y1 y2 hy => ?_) (fun y0 y1 hy => ?_)
    | with_reducible apply keeps_emitRaw
    | with_reducible apply keeps_send
    | with_reducible apply keeps_completeColl
    | with_reducible refine Keeps.foldl ?_ (fun v y hv => ?_)
    | simp -zeta only [Keeps.mk_eq]
    | split

theorem keeps_sparseData {s u : State} {a1} {a2} {a3} {a4} {a5} {a6} (h : Keeps s u) : Keeps s (sparseData u a1 a2 a3 a4 a5 a6) := by
  unfold sparseData
  dsimp only
  repeat' first
    | with_reducible assumption
    | with_reducible apply keeps_taken
    | with_reducible apply keeps_partialFault
    | with_reducible apply keeps_keepPkt
    | with_reducible apply keeps_slotFault
    | with_reducible apply keeps_sparseAdvance
    | simp -zeta only [Keeps.mk_eq]
    | split

theorem keeps_slotData {s u : State} {a0} {a1} {a2} (h : Keeps s u) : Keeps s (slotData a0 a1 a2 u) := by
  unfold slotData
  dsimp only
  repeat' first
    | with_reducible assumption
    | with_reducible apply keeps_taken
    | with_reducible apply keeps_gatherData
    | with_reducible apply keeps_sparseData
    | with_reducible apply keeps_denseData
    | with_reducible apply keeps_serveNext
    | simp -zeta only [Keeps.mk_eq]
    | split

theorem keeps_slotGrant {s u : State} {a0} {a1} (h : Keeps s u) : Keeps s (slotGrant a0 a1 u) := by
  unfold slotGrant
  dsimp only
  repeat' first
    | with_reducible assumption
    | with_reducible apply keeps_taken
    | with_reducible apply keeps_modNode
    | with_reducible apply keeps_passGrant
    | with_reducible apply keeps_sparseAdvance
    | with_reducible refine Keeps.foldl ?_ (fun v y hv => ?_)
    | simp -zeta only [Keeps.mk_eq]
    | split

end Sys2Proof.Laws
end

