-- ==== Sys2Proof/Laws/KeepsPlot.lean ====
section
/-!
SUPPORT. Every operation keeps the identity and the canonical granary: plots and rooms.
-/

set_option linter.unusedTactic false
set_option linter.unreachableTactic false
set_option linter.unusedVariables false
set_option linter.unusedSimpArgs false

namespace Sys2Proof.Laws
open Sys2Proof Sys2Proof.Machine

theorem keeps_modPlot {s u : State} {a1} {a2} (h : Keeps s u) : Keeps s (modPlot u a1 a2) := h

theorem keeps_zeroBank {s u : State} {a1} {a2} {a3} (h : Keeps s u) : Keeps s (zeroBank u a1 a2 a3) := h

theorem keeps_plotAbort {s u : State} {a1} {a2} {a3} {a4} (h : Keeps s u) : Keeps s (plotAbort u a1 a2 a3 a4) := by
  unfold plotAbort
  dsimp only
  repeat' first
    | with_reducible assumption
    | with_reducible apply keeps_tally
    | with_reducible apply keeps_raiseBy
    | with_reducible apply keeps_modPlot
    | with_reducible apply keeps_cmdDone
    | with_reducible refine Keeps.foldl ?_ (fun v y hv => ?_)
    | simp -zeta only [Keeps.mk_eq]
    | split

theorem keeps_wordFault {s u : State} {a1} {a2} {a3} (h : Keeps s u) : Keeps s (wordFault u a1 a2 a3) := keeps_plotAbort h

theorem keeps_arrayFault {s u : State} {a1} {a2} {a3} (h : Keeps s u) : Keeps s (arrayFault u a1 a2 a3) := by
  unfold arrayFault
  repeat' first
    | with_reducible assumption
    | with_reducible apply keeps_zeroBank
    | with_reducible apply keeps_wordFault
    | simp -zeta only [Keeps.mk_eq]

theorem keeps_lineFault {s u : State} {a1} {a2} {a3} {a4} (h : Keeps s u) : Keeps s (lineFault u a1 a2 a3 a4) := by
  unfold lineFault
  repeat' first
    | with_reducible assumption
    | with_reducible apply keeps_zeroBank
    | with_reducible apply keeps_wordFault
    | split

theorem keeps_issueWord {s u : State} {a1} {a2} (h : Keeps s u) : Keeps s (issueWord u a1 a2) := by
  unfold issueWord
  dsimp only
  repeat' first
    | with_reducible assumption
    | with_reducible apply keeps_wordFault
    | with_reducible apply keeps_lineFault
    | with_reducible apply keeps_nFlag
    | with_reducible apply keeps_cmdDone
    | with_reducible apply keeps_modPlot
    | simp -zeta only [Keeps.mk_eq]
    | split

theorem keeps_modBind {s u : State} {a1} {a2} {a3} (h : Keeps s u) : Keeps s (modBind u a1 a2 a3) := h

theorem keeps_onPart {s u : State} {a0} {a1} {a2} {f4} (h : Keeps s u) (hf4 : ∀ y0 y1 y2, Keeps s y0 → Keeps s (f4 y0 y1 y2)) : Keeps s (onPart a0 a1 a2 u f4) := by
  unfold onPart
  dsimp only
  repeat' first
    | with_reducible assumption
    | with_reducible apply hf4
    | with_reducible apply keeps_issueWord
    | with_reducible apply keeps_modPlot
    | simp -zeta only [Keeps.mk_eq]
    | split

theorem keeps_part {s u : State} {a0} {a1} {a2} {f4} {t : State} (h : Keeps s u) (hf4 : ∀ y0 y1 y2, Keeps s y0 → Keeps s (f4 y0 y1 y2)) (ht : part a0 a1 a2 u f4 = .next t) : Keeps s t := by
  refine keeps_event h (fun _ hy => ?_) ht
  repeat' first
    | with_reducible assumption
    | with_reducible apply hf4
    | with_reducible refine keeps_onPart ?_ (fun y0 y1 y2 hy => ?_)
    | simp -zeta only [Keeps.mk_eq]
    | split

theorem keeps_scratchCe {s u : State} {a1} (h : Keeps s u) : Keeps s (scratchCe u a1) := by
  unfold scratchCe
  repeat' first
    | with_reducible assumption
    | with_reducible apply keeps_raise
    | with_reducible apply keeps_modPlot
    | simp -zeta only [Keeps.mk_eq]

theorem keeps_accCheck {s u : State} {a1} {a2} {f3} (h : Keeps s u) (hf3 : ∀ y0, Keeps s y0 → Keeps s (f3 y0)) : Keeps s (accCheck u a1 a2 f3) := by
  unfold accCheck
  dsimp only
  repeat' first
    | with_reducible assumption
    | with_reducible apply hf3
    | with_reducible apply keeps_arrayFault
    | simp -zeta only [Keeps.mk_eq]
    | split

theorem keeps_accStream {s u : State} {a1} {a2} {f3} (h : Keeps s u) (hf3 : ∀ y0 y1, Keeps s (f3 y0 y1)) : Keeps s (accStream u a1 a2 f3) := by
  unfold accStream
  dsimp only
  repeat' first
    | with_reducible assumption
    | with_reducible apply hf3
    | with_reducible apply keeps_wordFault
    | with_reducible apply keeps_arrayFault
    | simp -zeta only [Keeps.mk_eq]
    | split

theorem keeps_digAbsorb {s u : State} {p k n : Nat} (h : Keeps s u) : Keeps s (digAbsorb p k n u) := by
  induction n generalizing u with
  | zero => exact h
  | succ n ih =>
    unfold digAbsorb
    dsimp only
    split
    · exact h
    · split
      · exact h
      · split
        · exact ih (keeps_modPlot h)
        · apply ih
          split
          · exact keeps_plotAbort (keeps_tally (keeps_modPlot h))
          · exact keeps_tally (keeps_modPlot h)

theorem keeps_digSettle {s u : State} {a0 : _} (h : Keeps s u) :
    Keeps s (digSettle a0 u) := by
  unfold digSettle
  repeat' first
    | with_reducible assumption
    | with_reducible exact mem_wf_writes _ _ _
    | with_reducible exact mem_wf_zero _ _ _
    | with_reducible exact mem_wf_none
    | (intros; with_reducible assumption)
    | with_reducible apply keeps_digAbsorb
    | unfold x
    | simp -zeta only [Keeps.mk_eq]
    | with_reducible refine Keeps.foldl ?_ (fun v y hv => ?_)
    | with_reducible refine Keeps.foldl1 ?_ (fun v y hv => ?_)
    | (intro (x : State); refine Keeps.cut (s := s) (x := x) ?_ ?_)
    | (intro (x : State × _); refine Keeps.cut (s := s) (x := x.1) ?_ ?_)
    | (intro (hx : Keeps _ _); try clear_value x)
    | intro (x : State → _)
    | intro (x : _ → State → _)
    | (intro x; clear_value x)
    | intro x
    | (lift_lets; fail_if_success with_reducible assumption; intro (x : State); refine Keeps.cut (s := s) (x := x) ?_ ?_)
    | (lift_lets; intro (x : State → _))
    | (lift_lets; intro (x : _ → State → _))
    | (lift_lets; intro x; clear_value x)
    | (lift_lets; intro x)
    | (with_reducible apply Keeps.pair; with_reducible assumption)
    | split
    | with_reducible apply Keeps.mkGran

theorem keeps_startAccLoad {s u : State} {a1} {a2} {a3} (h : Keeps s u) : Keeps s (startAccLoad u a1 a2 a3) := by
  unfold startAccLoad
  repeat' first
    | with_reducible assumption
    | with_reducible refine keeps_accCheck ?_ (fun y0 hy => ?_)
    | with_reducible refine keeps_accStream ?_ (fun y0 y1 => ?_)
    | with_reducible apply keeps_modPlot
    | simp -zeta only [Keeps.mk_eq]

theorem keeps_execAccLoad {s u : State} {a0} {a1} {t : State} (h : Keeps s u) (ht : execAccLoad a0 a1 u = .next t) : Keeps s t := keeps_part h (fun _ _ _ hy => keeps_startAccLoad hy) ht

theorem keeps_startAccRelease {s u : State} {a1} {a2} (h : Keeps s u) : Keeps s (startAccRelease u a1 a2) := by
  unfold startAccRelease
  dsimp only
  repeat' first
    | with_reducible assumption
    | with_reducible refine keeps_accCheck ?_ (fun y0 hy => ?_)
    | with_reducible apply keeps_arrayFault
    | with_reducible apply keeps_modPlot
    | simp -zeta only [Keeps.mk_eq]
    | split

theorem keeps_execAccRelease {s u : State} {a0} {t : State} (h : Keeps s u) (ht : execAccRelease a0 u = .next t) : Keeps s t := keeps_part h (fun _ _ _ hy => keeps_startAccRelease hy) ht

theorem keeps_startAccStore {s u : State} {a1} {a2} (h : Keeps s u) : Keeps s (startAccStore u a1 a2) := by
  unfold startAccStore
  repeat' first
    | with_reducible assumption
    | with_reducible refine keeps_accCheck ?_ (fun y0 hy => ?_)
    | with_reducible refine keeps_accStream ?_ (fun y0 y1 => ?_)
    | with_reducible apply keeps_modPlot
    | simp -zeta only [Keeps.mk_eq]

theorem keeps_execAccStore {s u : State} {a0} {t : State} (h : Keeps s u) (ht : execAccStore a0 u = .next t) : Keeps s t := keeps_part h (fun _ _ _ hy => keeps_startAccStore hy) ht

theorem keeps_startAccZero {s u : State} {a1} {a2} (h : Keeps s u) : Keeps s (startAccZero u a1 a2) := by
  unfold startAccZero
  repeat' first
    | with_reducible assumption
    | with_reducible refine keeps_accCheck ?_ (fun y0 hy => ?_)
    | with_reducible apply keeps_modPlot
    | simp -zeta only [Keeps.mk_eq]

theorem keeps_execAccZero {s u : State} {a0} {t : State} (h : Keeps s u) (ht : execAccZero a0 u = .next t) : Keeps s t := keeps_part h (fun _ _ _ hy => keeps_startAccZero hy) ht

theorem keeps_startMm {s u : State} {a1} {a2} {a3} (h : Keeps s u) : Keeps s (startMm u a1 a2 a3) := by
  unfold startMm
  dsimp only
  repeat' first
    | with_reducible assumption
    | with_reducible apply keeps_arrayFault
    | with_reducible apply keeps_modPlot
    | with_reducible apply keeps_wordFault
    | simp -zeta only [Keeps.mk_eq]
    | split

theorem keeps_execMm {s u : State} {a0} {a1} {t : State} (h : Keeps s u) (ht : execMm a0 a1 u = .next t) : Keeps s t := keeps_part h (fun _ _ _ hy => keeps_startMm hy) ht

theorem keeps_execMmSp {s u : State} {a0} {a1} {t : State} (h : Keeps s u) (ht : execMmSp a0 a1 u = .next t) : Keeps s t := keeps_part h (fun _ _ _ hy => keeps_startMm hy) ht

theorem keeps_startHarrow {s u : State} {p w : Nat} {e : LineErrs} (h : Keeps s u) : Keeps s (startHarrow u p w e) := by
  unfold startHarrow
  extract_lets x hop fail
  have hf : ∀ c, Keeps s (fail c) := fun c => keeps_wordFault h
  clear_value fail hop x
  repeat' first
    | with_reducible exact hf _
    | with_reducible exact keeps_modPlot h
    | with_reducible refine Keeps.ite ?_ ?_

theorem keeps_harrowPart {s u : State} {a0} {a1} {a2} {t : State} (h : Keeps s u) (ht : harrowPart a0 a1 a2 u = .next t) : Keeps s t := keeps_part h (fun _ _ _ hy => keeps_startHarrow hy) ht

theorem keeps_execCompress {s u : State} {a0} {a1} {t : State} (h : Keeps s u) (ht : execCompress a0 a1 u = .next t) : Keeps s t := keeps_harrowPart h ht

theorem keeps_execExpand {s u : State} {a0} {a1} {t : State} (h : Keeps s u) (ht : execExpand a0 a1 u = .next t) : Keeps s t := keeps_harrowPart h ht

theorem keeps_execGather {s u : State} {a0} {a1} {t : State} (h : Keeps s u) (ht : execGather a0 a1 u = .next t) : Keeps s t := keeps_harrowPart h ht

theorem keeps_execHarrowAbs {s u : State} {a0} {a1} {t : State} (h : Keeps s u) (ht : execHarrowAbs a0 a1 u = .next t) : Keeps s t := keeps_harrowPart h ht

theorem keeps_execHarrowAdd {s u : State} {a0} {a1} {t : State} (h : Keeps s u) (ht : execHarrowAdd a0 a1 u = .next t) : Keeps s t := keeps_harrowPart h ht

theorem keeps_execHarrowAnd {s u : State} {a0} {a1} {t : State} (h : Keeps s u) (ht : execHarrowAnd a0 a1 u = .next t) : Keeps s t := keeps_harrowPart h ht

theorem keeps_execHarrowCmp {s u : State} {a0} {a1} {t : State} (h : Keeps s u) (ht : execHarrowCmp a0 a1 u = .next t) : Keeps s t := keeps_harrowPart h ht

theorem keeps_execHarrowCvt {s u : State} {a0} {a1} {t : State} (h : Keeps s u) (ht : execHarrowCvt a0 a1 u = .next t) : Keeps s t := keeps_harrowPart h ht

theorem keeps_execHarrowDiv {s u : State} {a0} {a1} {t : State} (h : Keeps s u) (ht : execHarrowDiv a0 a1 u = .next t) : Keeps s t := keeps_harrowPart h ht

theorem keeps_execHarrowExp2 {s u : State} {a0} {a1} {t : State} (h : Keeps s u) (ht : execHarrowExp2 a0 a1 u = .next t) : Keeps s t := keeps_harrowPart h ht

theorem keeps_execHarrowFma {s u : State} {a0} {a1} {t : State} (h : Keeps s u) (ht : execHarrowFma a0 a1 u = .next t) : Keeps s t := keeps_harrowPart h ht

theorem keeps_execHarrowIadd {s u : State} {a0} {a1} {t : State} (h : Keeps s u) (ht : execHarrowIadd a0 a1 u = .next t) : Keeps s t := keeps_harrowPart h ht

theorem keeps_execHarrowLog2 {s u : State} {a0} {a1} {t : State} (h : Keeps s u) (ht : execHarrowLog2 a0 a1 u = .next t) : Keeps s t := keeps_harrowPart h ht

theorem keeps_execHarrowMax {s u : State} {a0} {a1} {t : State} (h : Keeps s u) (ht : execHarrowMax a0 a1 u = .next t) : Keeps s t := keeps_harrowPart h ht

theorem keeps_execHarrowMin {s u : State} {a0} {a1} {t : State} (h : Keeps s u) (ht : execHarrowMin a0 a1 u = .next t) : Keeps s t := keeps_harrowPart h ht

theorem keeps_execHarrowMov {s u : State} {a0} {a1} {t : State} (h : Keeps s u) (ht : execHarrowMov a0 a1 u = .next t) : Keeps s t := keeps_harrowPart h ht

theorem keeps_execHarrowMul {s u : State} {a0} {a1} {t : State} (h : Keeps s u) (ht : execHarrowMul a0 a1 u = .next t) : Keeps s t := keeps_harrowPart h ht

theorem keeps_execHarrowNeg {s u : State} {a0} {a1} {t : State} (h : Keeps s u) (ht : execHarrowNeg a0 a1 u = .next t) : Keeps s t := keeps_harrowPart h ht

theorem keeps_execHarrowOr {s u : State} {a0} {a1} {t : State} (h : Keeps s u) (ht : execHarrowOr a0 a1 u = .next t) : Keeps s t := keeps_harrowPart h ht

theorem keeps_execHarrowRcp {s u : State} {a0} {a1} {t : State} (h : Keeps s u) (ht : execHarrowRcp a0 a1 u = .next t) : Keeps s t := keeps_harrowPart h ht

theorem keeps_execHarrowRmax {s u : State} {a0} {a1} {t : State} (h : Keeps s u) (ht : execHarrowRmax a0 a1 u = .next t) : Keeps s t := keeps_harrowPart h ht

theorem keeps_execHarrowRmin {s u : State} {a0} {a1} {t : State} (h : Keeps s u) (ht : execHarrowRmin a0 a1 u = .next t) : Keeps s t := keeps_harrowPart h ht

theorem keeps_execHarrowRsqrt {s u : State} {a0} {a1} {t : State} (h : Keeps s u) (ht : execHarrowRsqrt a0 a1 u = .next t) : Keeps s t := keeps_harrowPart h ht

theorem keeps_execHarrowRsum {s u : State} {a0} {a1} {t : State} (h : Keeps s u) (ht : execHarrowRsum a0 a1 u = .next t) : Keeps s t := keeps_harrowPart h ht

theorem keeps_execHarrowSqrt {s u : State} {a0} {a1} {t : State} (h : Keeps s u) (ht : execHarrowSqrt a0 a1 u = .next t) : Keeps s t := keeps_harrowPart h ht

theorem keeps_execHarrowSub {s u : State} {a0} {a1} {t : State} (h : Keeps s u) (ht : execHarrowSub a0 a1 u = .next t) : Keeps s t := keeps_harrowPart h ht

theorem keeps_execHarrowXor {s u : State} {a0} {a1} {t : State} (h : Keeps s u) (ht : execHarrowXor a0 a1 u = .next t) : Keeps s t := keeps_harrowPart h ht

theorem keeps_execKeyset {s u : State} {a0} {a1} {t : State} (h : Keeps s u) (ht : execKeyset a0 a1 u = .next t) : Keeps s t := keeps_harrowPart h ht

theorem keeps_execPrune2d {s u : State} {a0} {a1} {t : State} (h : Keeps s u) (ht : execPrune2d a0 a1 u = .next t) : Keeps s t := keeps_harrowPart h ht

theorem keeps_execScatter {s u : State} {a0} {a1} {t : State} (h : Keeps s u) (ht : execScatter a0 a1 u = .next t) : Keeps s t := keeps_harrowPart h ht

theorem keeps_execSparsify {s u : State} {a0} {a1} {t : State} (h : Keeps s u) (ht : execSparsify a0 a1 u = .next t) : Keeps s t := keeps_harrowPart h ht

theorem keeps_execXlist {s u : State} {a0} {a1} {t : State} (h : Keeps s u) (ht : execXlist a0 a1 u = .next t) : Keeps s t := keeps_harrowPart h ht

theorem keeps_execXload {s u : State} {a0} {a1} {t : State} (h : Keeps s u) (ht : execXload a0 a1 u = .next t) : Keeps s t := keeps_harrowPart h ht

theorem keeps_execXstore {s u : State} {a0} {a1} {t : State} (h : Keeps s u) (ht : execXstore a0 a1 u = .next t) : Keeps s t := keeps_harrowPart h ht

theorem keeps_clrFlag {s u : State} {a1} {a2} (h : Keeps s u) : Keeps s (clrFlag u a1 a2) := h

theorem keeps_copAdd {s u : State} {a1} {a2} {a3} (h : Keeps s u) : Keeps s (copAdd u a1 a2 a3) := h

theorem keeps_copCfg {s u : State} {a1} {a2} (h : Keeps s u) : Keeps s (copCfg u a1 a2) := h

theorem keeps_copLim {s u : State} {a1} {a2} (h : Keeps s u) : Keeps s (copLim u a1 a2) := h

theorem keeps_copSet {s u : State} {a1} {a2} (h : Keeps s u) : Keeps s (copSet u a1 a2) := h

theorem keeps_dlog {s u : State} {a1} {a2} (h : Keeps s u) : Keeps s (dlog u a1 a2) := by
  unfold dlog
  repeat' first
    | with_reducible assumption
    | with_reducible apply keeps_digSettle
    | with_reducible apply keeps_modPlot
    | simp -zeta only [Keeps.mk_eq]

theorem keeps_dtap {s u : State} {a1} {a2} (h : Keeps s u) : Keeps s (dtap u a1 a2) := by
  unfold dtap
  dsimp only
  repeat' first
    | with_reducible assumption
    | with_reducible apply keeps_modPlot
    | simp -zeta only [Keeps.mk_eq]
    | split

theorem keeps_endEntry {s u : State} {a1} {a2} {a3} (h : Keeps s u) : Keeps s (endEntry u a1 a2 a3) := by
  unfold endEntry
  dsimp only
  repeat' first
    | with_reducible assumption
    | with_reducible apply keeps_tally
    | with_reducible apply keeps_complete
    | with_reducible refine Keeps.foldl ?_ (fun v y hv => ?_)
    | simp -zeta only [Keeps.mk_eq]
    | split

theorem keeps_execCopAdd {s u : State} {a0} {t : State} (h : Keeps s u) (ht : execCopAdd a0 u = .next t) : Keeps s t := keeps_part h (fun _ _ _ hy => keeps_copAdd hy) ht

theorem keeps_execDlog {s u : State} {a0} {t : State} (h : Keeps s u) (ht : execDlog a0 u = .next t) : Keeps s t := keeps_part h (fun _ _ _ hy => keeps_dlog hy) ht

theorem keeps_execDtap {s u : State} {a0} {t : State} (h : Keeps s u) (ht : execDtap a0 u = .next t) : Keeps s t := keeps_part h (fun _ _ _ hy => keeps_dtap hy) ht

theorem keeps_powerHint {s u : State} {a1} {a2} (h : Keeps s u) : Keeps s (powerHint u a1 a2) := h

theorem keeps_execPhArray {s u : State} {a0} {t : State} (h : Keeps s u) (ht : execPhArray a0 u = .next t) : Keeps s t := keeps_part h (fun _ _ _ hy => keeps_powerHint hy) ht

theorem keeps_execPhFabric {s u : State} {a0} {t : State} (h : Keeps s u) (ht : execPhFabric a0 u = .next t) : Keeps s t := keeps_part h (fun _ _ _ hy => keeps_powerHint hy) ht

theorem keeps_execPhHarrow {s u : State} {a0} {t : State} (h : Keeps s u) (ht : execPhHarrow a0 u = .next t) : Keeps s t := keeps_part h (fun _ _ _ hy => keeps_powerHint hy) ht

theorem keeps_fetchEcc {s u : State} {a1} {a2} (h : Keeps s u) : Keeps s (fetchEcc u a1 a2) := by
  unfold fetchEcc
  repeat' first
    | with_reducible assumption
    | with_reducible apply keeps_raise
    | with_reducible apply keeps_modPlot
    | with_reducible apply keeps_plotAbort
    | split

theorem keeps_plotStart {s u : State} {a0} {a1} (h : Keeps s u) : Keeps s (plotStart a0 a1 u) := by
  unfold plotStart
  dsimp only
  repeat' first
    | with_reducible assumption
    | with_reducible apply keeps_cmdDone
    | with_reducible apply keeps_fetchEcc
    | with_reducible apply keeps_modPlot
    | simp -zeta only [Keeps.mk_eq]
    | split

theorem keeps_execPlotStart {s u : State} {a0} {a1} {t : State} (h : Keeps s u) (ht : execPlotStart a0 a1 u = .next t) : Keeps s t := keeps_onCmd h (fun _ hy => keeps_plotStart hy) ht

theorem keeps_plotStop {s u : State} {a0} (h : Keeps s u) : Keeps s (plotStop a0 u) := by
  unfold plotStop
  dsimp only
  repeat' first
    | with_reducible assumption
    | with_reducible apply keeps_cmdDone
    | with_reducible apply keeps_modPlot
    | simp -zeta only [Keeps.mk_eq]
    | split

theorem keeps_execPlotStop {s u : State} {a0} {t : State} (h : Keeps s u) (ht : execPlotStop a0 u = .next t) : Keeps s t := keeps_onCmd h (fun _ hy => keeps_plotStop hy) ht

theorem keeps_scInc {s u : State} {a1} {a2} (h : Keeps s u) : Keeps s (scInc u a1 a2) := by
  unfold scInc
  dsimp only
  repeat' first
    | with_reducible assumption
    | with_reducible apply keeps_modPlot
    | with_reducible refine Keeps.foldl ?_ (fun v y hv => ?_)
    | simp -zeta only [Keeps.mk_eq]
    | split

theorem keeps_execScinc {s u : State} {a0} {t : State} (h : Keeps s u) (ht : execScinc a0 u = .next t) : Keeps s t := keeps_part h (fun _ _ _ hy => keeps_scInc hy) ht

theorem keeps_execSclr {s u : State} {a0} {t : State} (h : Keeps s u) (ht : execSclr a0 u = .next t) : Keeps s t := keeps_part h (fun _ _ _ hy => keeps_clrFlag hy) ht

theorem keeps_execSet {s u : State} {a0} {t : State} (h : Keeps s u) (ht : execSet a0 u = .next t) : Keeps s t := keeps_part h (fun _ _ _ hy => keeps_copSet hy) ht

theorem keeps_execSetcfg {s u : State} {a0} {t : State} (h : Keeps s u) (ht : execSetcfg a0 u = .next t) : Keeps s t := keeps_part h (fun _ _ _ hy => keeps_copCfg hy) ht

theorem keeps_execSetlim {s u : State} {a0} {t : State} (h : Keeps s u) (ht : execSetlim a0 u = .next t) : Keeps s t := keeps_part h (fun _ _ _ hy => keeps_copLim hy) ht

theorem keeps_setFlag {s u : State} {a1} {a2} (h : Keeps s u) : Keeps s (setFlag u a1 a2) := h

theorem keeps_execSset {s u : State} {a0} {t : State} (h : Keeps s u) (ht : execSset a0 u = .next t) : Keeps s t := keeps_part h (fun _ _ _ hy => keeps_setFlag hy) ht

theorem keeps_tqDrop {s u : State} {a1} (h : Keeps s u) : Keeps s (tqDrop u a1) := by
  unfold tqDrop
  dsimp only
  repeat' first
    | with_reducible assumption
    | with_reducible apply keeps_wordFault
    | with_reducible apply keeps_modPlot
    | simp -zeta only [Keeps.mk_eq]
    | split

theorem keeps_execTqDrop {s u : State} {a0} {t : State} (h : Keeps s u) (ht : execTqDrop a0 u = .next t) : Keeps s t := keeps_part h (fun _ _ _ hy => keeps_tqDrop hy) ht

theorem keeps_armBind {s u : State} {a1} {a2} (h : Keeps s u) : Keeps s (armBind u a1 a2) := h

theorem keeps_arrivalHazard {s u : State} {a1} (h : Keeps s u) : Keeps s (arrivalHazard u a1) := by
  unfold arrivalHazard
  repeat' first
    | with_reducible assumption
    | with_reducible apply keeps_wordFault
    | split

theorem keeps_bindComplete {s u : State} {a1} {a2} (h : Keeps s u) : Keeps s (bindComplete u a1 a2) := h

theorem keeps_bindWrite {s u : State} {a1} {a2} {a3} {a4} {a5} (h : Keeps s u) : Keeps s (bindWrite u a1 a2 a3 a4 a5) := h

theorem keeps_leaked {s u : State} {a1} {a2} {a3} (h : Keeps s u) : Keeps s (leaked u a1 a2 a3) := by
  unfold leaked
  repeat' first
    | with_reducible assumption
    | with_reducible apply keeps_plotAbort
    | split

theorem keeps_feedTap {s u : State} {a1} {a2} {a3} {a4} (h : Keeps s u) : Keeps s (feedTap u a1 a2 a3 a4) := h

theorem keeps_csendDone {s u : State} {a1} {a2} (h : Keeps s u) : Keeps s (csendDone u a1 a2) := by
  unfold csendDone
  dsimp only
  repeat' first
    | with_reducible assumption
    | with_reducible apply keeps_askAbort
    | with_reducible apply keeps_raise
    | with_reducible apply keeps_streamPairsOut
    | with_reducible apply keeps_sendChunk
    | with_reducible apply keeps_leaked
    | with_reducible apply keeps_feedTap
    | with_reducible refine Keeps.foldl ?_ (fun v y hv => ?_)
    | simp -zeta only [Keeps.mk_eq]
    | split

theorem keeps_dropMove {s u : State} {a1} (h : Keeps s u) : Keeps s (dropMove u a1) := h

theorem keeps_execArm {s u : State} {a0} {t : State} (h : Keeps s u) (ht : execArm a0 u = .next t) : Keeps s t := keeps_part h (fun _ _ _ hy => keeps_armBind hy) ht

theorem keeps_queueXfer {s u : State} {a1} {a2} {a3} (h : Keeps s u) : Keeps s (queueXfer u a1 a2 a3) := by
  unfold queueXfer
  dsimp only
  repeat' first
    | with_reducible assumption
    | with_reducible apply keeps_wordFault
    | with_reducible apply keeps_modPlot
    | simp -zeta only [Keeps.mk_eq]
    | split

theorem keeps_furrowXfer {s u : State} {a1} {a2} {a3} (h : Keeps s u) : Keeps s (furrowXfer u a1 a2 a3) := keeps_queueXfer h

theorem keeps_execCsend {s u : State} {a0} {t : State} (h : Keeps s u) (ht : execCsend a0 u = .next t) : Keeps s t := keeps_part h (fun _ _ _ hy => keeps_furrowXfer hy) ht

theorem keeps_granXfer {s u : State} {a1} {a2} {a3} (h : Keeps s u) : Keeps s (granXfer u a1 a2 a3) := keeps_queueXfer h

theorem keeps_execGload {s u : State} {a0} {t : State} (h : Keeps s u) (ht : execGload a0 u = .next t) : Keeps s t := keeps_part h (fun _ _ _ hy => keeps_granXfer hy) ht

theorem keeps_execGstore {s u : State} {a0} {t : State} (h : Keeps s u) (ht : execGstore a0 u = .next t) : Keeps s t := keeps_part h (fun _ _ _ hy => keeps_granXfer hy) ht

theorem keeps_execMsend {s u : State} {a0} {t : State} (h : Keeps s u) (ht : execMsend a0 u = .next t) : Keeps s t := keeps_part h (fun _ _ _ hy => keeps_furrowXfer hy) ht

theorem keeps_popXfer {s u : State} {a0} (h : Keeps s u) : Keeps s (popXfer a0 u) := by
  unfold popXfer
  repeat' first
    | with_reducible assumption
    | with_reducible apply keeps_digSettle
    | with_reducible apply keeps_modPlot
    | split

theorem keeps_failXfer {s u : State} {a1} {a2} {a3} {a4} (h : Keeps s u) : Keeps s (failXfer u a1 a2 a3 a4) := by
  unfold failXfer
  repeat' first
    | with_reducible assumption
    | with_reducible apply keeps_popXfer
    | with_reducible apply keeps_plotAbort
    | simp -zeta only [Keeps.mk_eq]

theorem keeps_granUe {s u : State} {a1} (h : Keeps s u) : Keeps s (granUe u a1) := keeps_raise h

theorem keeps_modHead {s u : State} {a1} {a2} (h : Keeps s u) : Keeps s (modHead u a1 a2) := h

theorem keeps_runsNow {s u : State} {a1} {a2} (h : Keeps s u) : Keeps s (runsNow u a1 a2) := h

theorem keeps_granCe {s u : State} {a1} (h : Keeps s u) : Keeps s (granCe u a1) := keeps_raise h

theorem keeps_startGran {s u : State} {a1} {a2} {a3} (h : Keeps s u) : Keeps s (startGran u a1 a2 a3) := by
  unfold startGran
  dsimp only
  repeat' first
    | with_reducible assumption
    | with_reducible apply keeps_failXfer
    | with_reducible apply keeps_granUe
    | with_reducible apply keeps_runsNow
    | with_reducible apply keeps_granCe
    | with_reducible refine Keeps.foldl ?_ (fun v y hv => ?_)
    | simp -zeta only [Keeps.mk_eq]
    | split

theorem keeps_transferStart {s u : State} {a0} {a1} (h : Keeps s u) : Keeps s (transferStart a0 a1 u) := by
  unfold transferStart
  repeat' first
    | with_reducible assumption
    | with_reducible apply keeps_popXfer
    | with_reducible apply keeps_startGran
    | with_reducible apply keeps_runsNow
    | split

theorem keeps_execTransferStart {s u : State} {a0} {a1} {t : State} (h : Keeps s u) (ht : execTransferStart a0 a1 u = .next t) : Keeps s t := keeps_event h (fun _ hy => keeps_transferStart hy) ht

theorem keeps_execWaybill {s u : State} {a0} {t : State} (h : Keeps s u) (ht : execWaybill a0 u = .next t) : Keeps s t := keeps_part h (fun _ _ _ hy => keeps_furrowXfer hy) ht

theorem keeps_gloadLine {s u : State} {a1} {a2} {a3} (h : Keeps s u) : Keeps s (gloadLine u a1 a2 a3) := h

theorem keeps_gstoreDone {s u : State} {a1} {a2} (h : Keeps s u) : Keeps s (gstoreDone u a1 a2) := by
  unfold gstoreDone
  dsimp only
  repeat' first
    | with_reducible assumption
    | with_reducible apply keeps_leaked
    | with_reducible apply keeps_feedTap
    | with_reducible apply keeps_provTouch
    | with_reducible exact mem_wf_writes _ _ _
    | with_reducible refine Keeps.foldl ?_ (fun v y hv => ?_)
    | simp -zeta only [Keeps.mk_eq]
    | split
    | with_reducible apply Keeps.mkGran

theorem keeps_takeMoveSeq {s u : State} {a1} {a2} (h : Keeps s u) : Keeps s (takeMoveSeq u a1 a2).1 := h

theorem keeps_plotSend {s u : State} {a1} {a2} (h : Keeps s u) : Keeps s (plotSend u a1 a2) := by
  unfold plotSend
  dsimp only
  repeat' first
    | with_reducible assumption
    | with_reducible apply keeps_portCol
    | with_reducible apply keeps_send
    | simp -zeta only [Keeps.mk_eq]
    | split

theorem keeps_plotTransfer {s u : State} {a1} {a2} {a3} {a4} {a5} (h : Keeps s u) : Keeps s (plotTransfer u a1 a2 a3 a4 a5) := by
  unfold plotTransfer
  dsimp only
  repeat' first
    | with_reducible assumption
    | with_reducible apply keeps_takeMoveSeq
    | with_reducible apply keeps_plotSend
    | with_reducible refine Keeps.foldl ?_ (fun v y hv => ?_)
    | simp -zeta only [Keeps.mk_eq]
    | split

theorem keeps_msendDone {s u : State} {a1} {a2} (h : Keeps s u) : Keeps s (msendDone u a1 a2) := by
  unfold msendDone
  repeat' first
    | with_reducible assumption
    | with_reducible apply keeps_leaked
    | with_reducible apply keeps_feedTap
    | with_reducible apply keeps_plotTransfer
    | simp -zeta only [Keeps.mk_eq]

theorem keeps_waybillDone {s u : State} {a1} {a2} (h : Keeps s u) : Keeps s (waybillDone u a1 a2) := by
  unfold waybillDone
  dsimp only
  repeat' first
    | with_reducible assumption
    | with_reducible apply keeps_portCol
    | with_reducible apply keeps_modPlot
    | with_reducible apply keeps_send
    | with_reducible apply keeps_leaked
    | with_reducible refine Keeps.foldl ?_ (fun v y hv => ?_)
    | simp -zeta only [Keeps.mk_eq]
    | split

theorem keeps_readDone {s u : State} {a1} {a2} (h : Keeps s u) : Keeps s (readDone u a1 a2) := by
  unfold readDone
  repeat' first
    | with_reducible assumption
    | with_reducible apply keeps_gstoreDone
    | with_reducible apply keeps_msendDone
    | with_reducible apply keeps_waybillDone
    | with_reducible apply keeps_csendDone
    | split

theorem keeps_fabricCycle {s u : State} {a0} (h : Keeps s u) : Keeps s (fabricCycle a0 u) := by
  unfold fabricCycle
  dsimp only
  repeat' first
    | with_reducible assumption
    | with_reducible apply keeps_modHead
    | with_reducible apply keeps_gloadLine
    | with_reducible apply keeps_failXfer
    | with_reducible apply keeps_scratchCe
    | with_reducible apply keeps_readDone
    | simp -zeta only [Keeps.mk_eq]
    | split

theorem keeps_grantToPlot {s u : State} {a1} {a2} (h : Keeps s u) : Keeps s (grantToPlot u a1 a2) := by
  unfold grantToPlot
  repeat' first
    | with_reducible assumption
    | with_reducible apply keeps_passMember
    | with_reducible apply keeps_taken
    | with_reducible apply keeps_arrivalHazard
    | with_reducible apply keeps_bindComplete
    | with_reducible apply keeps_modBind
    | with_reducible apply keeps_bindWrite
    | split

theorem keeps_moveEntry {s u : State} {a1} {a2} {a3} {a4} {a5} {a6} {a7} (h : Keeps s u) : Keeps s (moveEntry u a1 a2 a3 a4 a5 a6 a7) := keeps_tally h

theorem keeps_sendMoveDone {s u : State} {a1} {a2} {a3} {a4} (h : Keeps s u) : Keeps s (sendMoveDone u a1 a2 a3 a4) := h

theorem keeps_putMove {s u : State} {a1} (h : Keeps s u) : Keeps s (putMove u a1) := h

theorem keeps_moveToPlot {s u : State} {a1} {a2} (h : Keeps s u) : Keeps s (moveToPlot u a1 a2) := by
  unfold moveToPlot
  dsimp only
  repeat' first
    | with_reducible assumption
    | with_reducible apply keeps_sendMoveDone
    | with_reducible apply keeps_moveEntry
    | with_reducible apply keeps_raise
    | with_reducible apply keeps_putMove
    | with_reducible apply keeps_taken
    | with_reducible apply keeps_arrivalHazard
    | with_reducible apply keeps_bindWrite
    | with_reducible apply keeps_bindComplete
    | with_reducible apply keeps_dropMove
    | simp -zeta only [Keeps.mk_eq]
    | split

theorem keeps_rangeCheck {s u : State} {a1} {a2} (h : Keeps s u) : Keeps s (rangeCheck u a1 a2) := by
  unfold rangeCheck
  dsimp only
  repeat' first
    | with_reducible assumption
    | with_reducible apply keeps_bindComplete
    | simp -zeta only [Keeps.mk_eq]
    | split

theorem keeps_peerAbort {s u : State} {a1} {a2} (h : Keeps s u) : Keeps s (peerAbort u a1 a2) := by
  unfold peerAbort
  dsimp only
  repeat' first
    | with_reducible assumption
    | with_reducible apply keeps_plotAbort
    | simp -zeta only [Keeps.mk_eq]
    | split

theorem keeps_outcomeToPlot {s u : State} {a1} {a2} (h : Keeps s u) : Keeps s (outcomeToPlot u a1 a2) := by
  unfold outcomeToPlot
  dsimp only
  repeat' first
    | with_reducible assumption
    | with_reducible apply keeps_arrivalHazard
    | with_reducible apply keeps_passMember
    | with_reducible apply keeps_taken
    | with_reducible apply keeps_rangeCheck
    | with_reducible apply keeps_modBind
    | with_reducible apply keeps_bindComplete
    | with_reducible apply keeps_bindWrite
    | with_reducible apply keeps_peerAbort
    | simp -zeta only [Keeps.mk_eq]
    | split

theorem keeps_rangeToPlot {s u : State} {a1} {a2} (h : Keeps s u) : Keeps s (rangeToPlot u a1 a2) := by
  unfold rangeToPlot
  dsimp only
  repeat' first
    | with_reducible assumption
    | with_reducible apply keeps_taken
    | with_reducible apply keeps_modBind
    | with_reducible apply keeps_raise
    | with_reducible apply keeps_sendCol
    | with_reducible apply keeps_arrivalHazard
    | with_reducible apply keeps_bindWrite
    | with_reducible apply keeps_rangeCheck
    | simp -zeta only [Keeps.mk_eq]
    | split

theorem keeps_opFault {s u : State} {a1} {a2} {a3} {a4} {a5} (h : Keeps s u) : Keeps s (opFault u a1 a2 a3 a4 a5) := by
  unfold opFault
  repeat' first
    | with_reducible assumption
    | with_reducible apply keeps_plotAbort
    | with_reducible apply keeps_modPlot
    | with_reducible apply keeps_zeroBank
    | with_reducible apply keeps_digSettle
    | split

theorem keeps_doAcc {s u : State} {a0} {a1} {a3} (h : Keeps s u) : Keeps s (doAcc a0 a1 u a3) := by
  unfold doAcc
  dsimp only
  repeat' first
    | with_reducible assumption
    | with_reducible apply keeps_opFault
    | with_reducible apply keeps_scratchCe
    | with_reducible apply keeps_modPlot
    | simp -zeta only [Keeps.mk_eq]
    | split

theorem keeps_opCycle {s : State} {a : State × List Nat} {p k : Nat} (h : Keeps s a.1) : Keeps s (opCycle p a k).1 := by
  unfold opCycle
  dsimp only
  repeat' split
  all_goals repeat' first
    | with_reducible exact h
    | with_reducible exact keeps_opFault h
    | with_reducible refine Keeps.foldl ?_ (fun v y hv => keeps_doAcc hv)
    | with_reducible exact keeps_modPlot h

theorem keeps_slabEnd {s u : State} {a1} {a2} (h : Keeps s u) : Keeps s (slabEnd u a1 a2) := by
  unfold slabEnd
  repeat' first
    | with_reducible assumption
    | with_reducible apply keeps_opFault
    | with_reducible apply keeps_modPlot
    | split

theorem keeps_xloadList {s u : State} {a1} {a2} (h : Keeps s u) : Keeps s (xloadList u a1 a2) := by
  unfold xloadList
  dsimp only
  repeat' first
    | with_reducible assumption
    | with_reducible apply keeps_opFault
    | with_reducible apply keeps_modPlot
    | simp -zeta only [Keeps.mk_eq]
    | split

theorem keeps_strictCheck {s u : State} {a1} {a2} (h : Keeps s u) : Keeps s (strictCheck u a1 a2) := by
  unfold strictCheck
  repeat' first
    | with_reducible assumption
    | with_reducible apply keeps_opFault
    | with_reducible apply keeps_modPlot
    | split

theorem keeps_endOp {s u : State} {a1} {a2} (h : Keeps s u) : Keeps s (endOp u a1 a2) := h

theorem keeps_settleOp {s u : State} {a0} {a2} (h : Keeps s u) : Keeps s (settleOp a0 u a2) := by
  unfold settleOp
  dsimp only
  repeat' first
    | with_reducible assumption
    | with_reducible apply keeps_slabEnd
    | with_reducible apply keeps_xloadList
    | with_reducible apply keeps_strictCheck
    | with_reducible apply keeps_endOp
    | simp -zeta only [Keeps.mk_eq]
    | split

theorem keeps_countCycles {s u : State} {a1} {a2} (h : Keeps s u) : Keeps s (countCycles u a1 a2) := h

theorem keeps_plotTick {s u : State} {p : Nat} (h : Keeps s u) : Keeps s (plotTick p u) := by
  unfold plotTick
  extract_lets v ks t
  have hv : Keeps s v := keeps_fabricCycle h
  have ht : Keeps s t := Keeps.foldl1 hv (fun v y hv => keeps_opCycle hv)
  exact keeps_digSettle (Keeps.foldl (keeps_countCycles ht) (fun v y hv => keeps_settleOp hv))

theorem keeps_quietCycles {s u : State} {a0} {a1} (h : Keeps s u) : Keeps s (quietCycles a0 a1 u) := h

theorem keeps_plotUntil {s u t : State} {p c k : Nat} {b f : State → Bool} (h : Keeps s u) (ht : plotUntil p c b f k u = some t) : Keeps s t := by
  induction k generalizing u with
  | zero =>
    unfold plotUntil at ht
    split at ht
    · cases ht; exact h
    · cases ht
  | succ k ih =>
    unfold plotUntil at ht
    split at ht
    · cases ht; exact h
    · split at ht
      · cases ht
      · exact ih (Keeps.ite (keeps_plotTick h) (keeps_quietCycles h)) ht

theorem keeps_passUntil {s u : State} {p n : Nat} {f : State → Bool} (h : Keeps s u) : Keeps s (passUntil p n f u) := by
  unfold passUntil
  cases e : plotUntil p ((plot u p).cyc + n) (wordReady · p) f n u with
  | none => exact h
  | some t => exact keeps_plotUntil h e

theorem keeps_awaitOp {s u : State} {a0} {a1} (h : Keeps s u) : Keeps s (awaitOp a0 a1 u) := by
  unfold awaitOp
  repeat' first
    | with_reducible assumption
    | with_reducible apply keeps_passUntil
    | split

theorem keeps_awaitOps {s u : State} {a0} (h : Keeps s u) : Keeps s (awaitOps a0 u) := keeps_passUntil h

theorem keeps_execAccDone {s u : State} {a0} {a1} {t : State} (h : Keeps s u) (ht : execAccDone a0 a1 u = .next t) : Keeps s t := keeps_event h (fun _ hy => keeps_awaitOp hy) ht

theorem keeps_execAccPathEnd {s u : State} {a0} {t : State} (h : Keeps s u) (ht : execAccPathEnd a0 u = .next t) : Keeps s t := keeps_event h (fun _ hy => keeps_awaitOp hy) ht

theorem keeps_goTo {s u : State} {a1} {a2} {a3} (h : Keeps s u) : Keeps s (goTo u a1 a2 a3) := by
  unfold goTo
  dsimp only
  repeat' first
    | with_reducible assumption
    | with_reducible apply keeps_modPlot
    | with_reducible apply keeps_plotTick
    | with_reducible apply keeps_fetchEcc
    | simp -zeta only [Keeps.mk_eq]
    | split

theorem keeps_nextPart {s u : State} {a0} {a1} {a2} {f4} {t : State} (h : Keeps s u) (hf4 : ∀ y0 y1 y2, Keeps s y0 → Keeps s (f4 y0 y1 y2).1) (ht : nextPart a0 a1 a2 u f4 = .next t) : Keeps s t := by
  refine keeps_part h (fun _ _ _ hy => ?_) ht
  repeat' first
    | with_reducible assumption
    | with_reducible apply hf4
    | with_reducible apply keeps_goTo
    | simp -zeta only [Keeps.mk_eq]
    | split

theorem keeps_execBrf {s u : State} {a0} {a1} {t : State} (h : Keeps s u) (ht : execBrf a0 a1 u = .next t) : Keeps s t := keeps_nextPart h (fun _ _ _ hy => hy) ht

theorem keeps_execBrt {s u : State} {a0} {a1} {t : State} (h : Keeps s u) (ht : execBrt a0 a1 u = .next t) : Keeps s t := keeps_nextPart h (fun _ _ _ hy => hy) ht

theorem keeps_halt {s u : State} {a1} (h : Keeps s u) : Keeps s (halt u a1) := h

theorem keeps_execHalt {s u : State} {a0} {t : State} (h : Keeps s u) (ht : execHalt a0 u = .next t) : Keeps s t := by
  refine keeps_event h (fun _ hy => ?_) ht
  dsimp only
  repeat' first
    | with_reducible assumption
    | with_reducible refine keeps_onPart ?_ (fun y0 y1 y2 hy => ?_)
    | with_reducible apply keeps_halt
    | simp -zeta only [Keeps.mk_eq]
    | split

theorem keeps_execHdone {s u : State} {a0} {t : State} (h : Keeps s u) (ht : execHdone a0 u = .next t) : Keeps s t := keeps_event h (fun _ hy => keeps_awaitOp hy) ht

theorem keeps_execJump {s u : State} {a0} {a1} {t : State} (h : Keeps s u) (ht : execJump a0 a1 u = .next t) : Keeps s t := keeps_nextPart h (fun _ _ _ hy => hy) ht

theorem keeps_loopNext {s u : State} {a1} {a2} {a3} (h : Keeps s u) : Keeps s (loopNext u a1 a2 a3).1 := by
  unfold loopNext
  dsimp only
  repeat' first
    | with_reducible assumption
    | with_reducible apply keeps_modPlot
    | simp -zeta only [Keeps.mk_eq]
    | split

theorem keeps_execLoop {s u : State} {a0} {a1} {t : State} (h : Keeps s u) (ht : execLoop a0 a1 u = .next t) : Keeps s t := by
  refine keeps_nextPart h (fun _ _ _ hy => ?_) ht
  repeat' first
    | with_reducible assumption
    | with_reducible apply keeps_loopNext
    | simp -zeta only [Keeps.mk_eq]
    | split

theorem keeps_plotDone {s u : State} {a0} (h : Keeps s u) : Keeps s (plotDone a0 u) := by
  unfold plotDone
  dsimp only
  repeat' first
    | with_reducible assumption
    | with_reducible apply keeps_awaitOps
    | with_reducible apply keeps_modPlot
    | with_reducible apply keeps_endEntry
    | simp -zeta only [Keeps.mk_eq]
    | split

theorem keeps_execPlotDone {s u : State} {a0} {t : State} (h : Keeps s u) (ht : execPlotDone a0 u = .next t) : Keeps s t := keeps_event h (fun _ hy => keeps_plotDone hy) ht

theorem keeps_plotStopped {s u : State} {a0} (h : Keeps s u) : Keeps s (plotStopped a0 u) := by
  unfold plotStopped
  dsimp only
  repeat' first
    | with_reducible assumption
    | with_reducible apply keeps_awaitOps
    | with_reducible apply keeps_cmdDone
    | with_reducible apply keeps_modPlot
    | with_reducible apply keeps_endEntry
    | simp -zeta only [Keeps.mk_eq]
    | split

theorem keeps_execPlotStopped {s u : State} {a0} {t : State} (h : Keeps s u) (ht : execPlotStopped a0 u = .next t) : Keeps s t := keeps_event h (fun _ hy => keeps_plotStopped hy) ht

theorem keeps_execSeq {s u : State} {a0} {a1} {t : State} (h : Keeps s u) (ht : execSeq a0 a1 u = .next t) : Keeps s t := keeps_nextPart h (fun _ _ _ hy => hy) ht

theorem keeps_seqWaitLimit {s u : State} {p : Nat} (h : Keeps s u) : Keeps s (seqWaitLimit p u) := by
  unfold seqWaitLimit
  split
  · exact h
  · dsimp only
    split
    · exact h
    · split
      · rename_i e
        exact Keeps.ite (keeps_wordFault (keeps_plotUntil h e)) h
      · exact h

theorem keeps_execSeqWaitLimit {s u : State} {a0} {t : State} (h : Keeps s u) (ht : execSeqWaitLimit a0 u = .next t) : Keeps s t := keeps_event h (fun _ hy => keeps_seqWaitLimit hy) ht

theorem keeps_sparseFault {s u : State} {a0} {a1} (h : Keeps s u) : Keeps s (sparseFault a0 a1 u) := by
  unfold sparseFault
  dsimp only
  repeat' first
    | with_reducible assumption
    | with_reducible apply keeps_awaitOp
    | simp -zeta only [Keeps.mk_eq]
    | split

theorem keeps_execSparseIndex {s u : State} {a0} {t : State} (h : Keeps s u) (ht : execSparseIndex a0 u = .next t) : Keeps s t := keeps_event h (fun _ hy => keeps_sparseFault hy) ht

theorem keeps_execSparseMeta {s u : State} {a0} {t : State} (h : Keeps s u) (ht : execSparseMeta a0 u = .next t) : Keeps s t := keeps_event h (fun _ hy => keeps_sparseFault hy) ht

theorem keeps_transferEnd {s u : State} {a0} {a1} (h : Keeps s u) : Keeps s (transferEnd a0 a1 u) := by
  unfold transferEnd
  dsimp only
  repeat' first
    | with_reducible assumption
    | with_reducible apply keeps_passUntil
    | with_reducible apply keeps_popXfer
    | simp -zeta only [Keeps.mk_eq]
    | split

theorem keeps_execTransferEnd {s u : State} {a0} {a1} {t : State} (h : Keeps s u) (ht : execTransferEnd a0 a1 u = .next t) : Keeps s t := keeps_event h (fun _ hy => keeps_transferEnd hy) ht

theorem keeps_waitEnd {s u : State} {p n : Nat} (h : Keeps s u) : Keeps s (waitEnd p n u) := by
  unfold waitEnd
  split
  · exact h
  · dsimp only
    split
    · exact h
    · split
      · rename_i e
        exact Keeps.ite (keeps_issueWord (keeps_plotUntil h e)) h
      · exact h

theorem keeps_execWaitEnd {s u : State} {a0} {a1} {t : State} (h : Keeps s u) (ht : execWaitEnd a0 a1 u = .next t) : Keeps s t := keeps_event h (fun _ hy => keeps_waitEnd hy) ht

theorem keeps_plotTo {s u : State} {a0} {a1} (h : Keeps s u) : Keeps s (plotTo a0 a1 u) := keeps_passUntil h

theorem keeps_roomRequest_refuse {s u : State} {a0} {a1} (h : Keeps s u) : Keeps s (roomRequest.refuse a0 a1 u) := by
  unfold roomRequest.refuse
  dsimp only
  repeat' first
    | with_reducible assumption
    | with_reducible apply keeps_modCore
    | with_reducible apply keeps_plotAbort
    | with_reducible apply keeps_raise
    | simp -zeta only [Keeps.mk_eq]
    | split

theorem keeps_roomRequest {s u : State} {a b c d : Nat} (h : Keeps s u) : Keeps s (roomRequest a b c d u) := by
  unfold roomRequest
  dsimp only
  repeat' split
  all_goals first
    | (with_reducible exact keeps_roomRequest_refuse h)
    | exact h
    | skip
  · rename_i e
    split at e
    · cases e
    · exact keeps_settleDie (keeps_tryRoom h e)

theorem keeps_execRoomRequest {s u : State} {a0} {a1} {a2} {a3} {t : State} (h : Keeps s u) (ht : execRoomRequest a0 a1 a2 a3 u = .next t) : Keeps s t := keeps_event h (fun _ hy => keeps_roomRequest hy) ht

end Sys2Proof.Laws
end

