-- ==== Sys2Proof/Laws/KeepsUnits.lean ====
section
/-!
SUPPORT. Every operation keeps the identity and the canonical granary: the update engine, the Cellar, stages, memory, audit, coach runs.
-/

set_option linter.unusedTactic false
set_option linter.unreachableTactic false
set_option linter.unusedVariables false
set_option linter.unusedSimpArgs false

namespace Sys2Proof.Laws
open Sys2Proof Sys2Proof.Machine

theorem keeps_modFeed {s u : State} {a1} {a2} (h : Keeps s u) : Keeps s (modFeed u a1 a2) := h

theorem keeps_modShare {s u : State} {a1} {a2} (h : Keeps s u) : Keeps s (modShare u a1 a2) := h

theorem keeps_shareFault {s u : State} {a1} {a2} (h : Keeps s u) : Keeps s (shareFault u a1 a2) := by
  unfold shareFault
  repeat' first
    | with_reducible assumption
    | with_reducible apply keeps_raise
    | with_reducible apply keeps_modShare
    | simp -zeta only [Keeps.mk_eq]

theorem keeps_askRoot {s u : State} {a1} {a2} {a3} {a4} {a5} {a6} (h : Keeps s u) : Keeps s (askRoot u a1 a2 a3 a4 a5 a6) := by
  unfold askRoot
  repeat' first
    | with_reducible assumption
    | with_reducible apply keeps_sendCol
    | split

theorem keeps_tearShare {s u : State} {a1} {a2} (h : Keeps s u) : Keeps s (tearShare u a1 a2) := by
  unfold tearShare
  dsimp only
  repeat' first
    | with_reducible assumption
    | with_reducible apply keeps_modShare
    | with_reducible apply keeps_tally
    | with_reducible apply keeps_modFeed
    | with_reducible apply keeps_raise
    | with_reducible apply keeps_raiseBy
    | with_reducible refine Keeps.foldl ?_ (fun v y hv => ?_)
    | simp -zeta only [Keeps.mk_eq]
    | split

theorem keeps_abortFeed {s u : State} {a1} (h : Keeps s u) : Keeps s (abortFeed u a1) := by
  unfold abortFeed
  dsimp only
  repeat' first
    | with_reducible assumption
    | with_reducible apply keeps_modFeed
    | with_reducible apply keeps_shareFault
    | with_reducible apply keeps_askRoot
    | with_reducible apply keeps_tearShare
    | simp -zeta only [Keeps.mk_eq]
    | split

theorem keeps_abortUnfinished {s u : State} {a1} (h : Keeps s u) : Keeps s (abortUnfinished u a1) := by
  unfold abortUnfinished
  dsimp only
  repeat' first
    | with_reducible assumption
    | with_reducible apply keeps_abortFeed
    | with_reducible refine Keeps.foldl ?_ (fun v y hv => ?_)
    | simp -zeta only [Keeps.mk_eq]
    | split

theorem keeps_putMat {s u : State} {a1 : _} {a2 : _} (h : Keeps s u) :
    Keeps s (putMat u a1 a2) := by
  unfold putMat
  repeat' first
    | with_reducible assumption
    | with_reducible exact mem_wf_writes _ _ _
    | with_reducible exact mem_wf_zero _ _ _
    | with_reducible exact mem_wf_none
    | (intros; with_reducible assumption)
    | unfold x
    | simp -zeta only [Keeps.mk_eq]
    | with_reducible refine Keeps.foldl ?_ (fun v y hv => ?_)
    | with_reducible refine Keeps.foldl1 ?_ (fun v y hv => ?_)
    | (intro (x : State); refine Keeps.cut (s := s) (x := x) ?_ ?_)
    | (intro (x : State × _); refine Keeps.cut (s := s) (x := x.1) ?_ ?_)
    | (intro (hx : Keeps _ _); try clear_value x)
    | intro (x : State → _)
    | intro (x : _ → State → _)
    | (intro x; clear_value x)
    | intro x
    | (lift_lets; fail_if_success with_reducible assumption; intro (x : State); refine Keeps.cut (s := s) (x := x) ?_ ?_)
    | (lift_lets; intro (x : State → _))
    | (lift_lets; intro (x : _ → State → _))
    | (lift_lets; intro x; clear_value x)
    | (lift_lets; intro x)
    | (with_reducible apply Keeps.pair; with_reducible assumption)
    | split
    | with_reducible apply Keeps.mkGran

theorem keeps_advanceGroup {s u : State} {a1} {a2} (h : Keeps s u) : Keeps s (advanceGroup u a1 a2) := by
  unfold advanceGroup
  dsimp only
  repeat' first
    | with_reducible assumption
    | with_reducible apply keeps_modShare
    | with_reducible apply keeps_putMat
    | with_reducible exact mem_wf_writes _ _ _
    | with_reducible refine Keeps.foldl ?_ (fun v y hv => ?_)
    | simp -zeta only [Keeps.mk_eq]
    | split
    | with_reducible apply Keeps.mkGran

theorem keeps_granPut {s u : State} {a1 : _} {a2 : _} {a3 : _} (h : Keeps s u) :
    Keeps s (granPut u a1 a2 a3) := by
  unfold granPut
  repeat' first
    | with_reducible assumption
    | with_reducible exact mem_wf_writes _ _ _
    | with_reducible exact mem_wf_zero _ _ _
    | with_reducible exact mem_wf_none
    | (intros; with_reducible assumption)
    | unfold x
    | simp -zeta only [Keeps.mk_eq]
    | with_reducible refine Keeps.foldl ?_ (fun v y hv => ?_)
    | with_reducible refine Keeps.foldl1 ?_ (fun v y hv => ?_)
    | (intro (x : State); refine Keeps.cut (s := s) (x := x) ?_ ?_)
    | (intro (x : State × _); refine Keeps.cut (s := s) (x := x.1) ?_ ?_)
    | (intro (hx : Keeps _ _); try clear_value x)
    | intro (x : State → _)
    | intro (x : _ → State → _)
    | (intro x; clear_value x)
    | intro x
    | (lift_lets; fail_if_success with_reducible assumption; intro (x : State); refine Keeps.cut (s := s) (x := x) ?_ ?_)
    | (lift_lets; intro (x : State → _))
    | (lift_lets; intro (x : _ → State → _))
    | (lift_lets; intro x; clear_value x)
    | (lift_lets; intro x)
    | (with_reducible apply Keeps.pair; with_reducible assumption)
    | split
    | with_reducible apply Keeps.mkGran

theorem keeps_putElem' {s u : State} {a1} {a2} {a3} {a4} {a5} (h : Keeps s u) : Keeps s (putElem' u a1 a2 a3 a4 a5) := by
  unfold putElem'
  repeat' first
    | with_reducible assumption
    | with_reducible apply keeps_granPut
    | with_reducible apply keeps_modShare
    | split

theorem keeps_applyElem {s u : State} {a1} {a2} {a3} (h : Keeps s u) : Keeps s (applyElem u a1 a2 a3) := by
  unfold applyElem
  repeat' first
    | with_reducible assumption
    | with_reducible apply keeps_modShare
    | with_reducible apply keeps_granPut
    | with_reducible apply keeps_putElem'
    | split

theorem keeps_applyWrites {s u : State} {a1} {a2} (h : Keeps s u) : Keeps s (applyWrites u a1 a2) := by
  unfold applyWrites
  dsimp only
  repeat' first
    | with_reducible assumption
    | with_reducible apply keeps_cmdDone
    | with_reducible exact mem_wf_writes _ _ _
    | with_reducible refine Keeps.foldl ?_ (fun v y hv => ?_)
    | simp -zeta only [Keeps.mk_eq]
    | split
    | with_reducible apply Keeps.mkGran

theorem keeps_loseShare {s u : State} {a1} (h : Keeps s u) : Keeps s (loseShare u a1) := by
  unfold loseShare
  repeat' first
    | with_reducible assumption
    | with_reducible apply keeps_abortUnfinished
    | with_reducible apply keeps_shareFault
    | with_reducible apply keeps_modShare
    | simp -zeta only [Keeps.mk_eq]

theorem keeps_flushOut {s u : State} {a1} (h : Keeps s u) : Keeps s (flushOut u a1) := by
  unfold flushOut
  dsimp only
  repeat' first
    | with_reducible assumption
    | with_reducible apply keeps_sendChunk
    | with_reducible apply keeps_modFeed
    | with_reducible refine Keeps.foldl ?_ (fun v y hv => ?_)
    | simp -zeta only [Keeps.mk_eq]
    | split

theorem keeps_pushOut {s u : State} {a1} (h : Keeps s u) : Keeps s (pushOut u a1) := by
  unfold pushOut
  repeat' first
    | with_reducible assumption
    | with_reducible apply keeps_flushOut
    | with_reducible apply keeps_modFeed
    | simp -zeta only [Keeps.mk_eq]

theorem keeps_chunkApply {s u : State} {a0} {a1} {a2} (h : Keeps s u) : Keeps s (chunkApply a0 a1 a2 u) := by
  unfold chunkApply
  dsimp only
  repeat' first
    | with_reducible assumption
    | with_reducible apply keeps_abortFeed
    | with_reducible apply keeps_loseShare
    | with_reducible apply keeps_raise
    | with_reducible apply keeps_applyElem
    | with_reducible apply keeps_pushOut
    | with_reducible apply keeps_modFeed
    | with_reducible refine Keeps.foldl ?_ (fun v y hv => ?_)
    | simp -zeta only [Keeps.mk_eq]
    | split

theorem keeps_endWrites {s u : State} {a1} {a2} {a3} (h : Keeps s u) : Keeps s (endWrites u a1 a2 a3) := by
  unfold endWrites
  dsimp only
  repeat' first
    | with_reducible assumption
    | with_reducible apply keeps_cmdDone
    | with_reducible refine Keeps.foldl ?_ (fun v y hv => ?_)
    | simp -zeta only [Keeps.mk_eq]
    | split

theorem keeps_closeShare {s u : State} {a0} {a3} (h : Keeps s u) : Keeps s (closeShare a0 u a3) := by
  unfold closeShare
  dsimp only
  repeat' first
    | with_reducible assumption
    | with_reducible apply keeps_shareFault
    | with_reducible apply keeps_modShare
    | with_reducible apply keeps_applyWrites
    | with_reducible apply keeps_advanceGroup
    | with_reducible apply keeps_endWrites
    | with_reducible apply keeps_tearShare
    | with_reducible apply keeps_tally
    | with_reducible refine Keeps.foldl ?_ (fun v y hv => ?_)
    | simp -zeta only [Keeps.mk_eq]
    | split

theorem keeps_precondProducts {s u : State} {a1} {a2} (h : Keeps s u) : Keeps s (precondProducts u a1 a2) := by
  unfold precondProducts
  dsimp only
  repeat' first
    | with_reducible assumption
    | with_reducible apply keeps_putMat
    | with_reducible apply keeps_granPut
    | with_reducible refine Keeps.foldl ?_ (fun v y hv => ?_)
    | simp -zeta only [Keeps.mk_eq]
    | split

theorem keeps_precondPasses {s u : State} {a1} {a2} {a3} (h : Keeps s u) : Keeps s (precondPasses u a1 a2 a3) := by
  unfold precondPasses
  dsimp only
  repeat' first
    | with_reducible assumption
    | with_reducible apply keeps_putElem'
    | with_reducible refine Keeps.foldl ?_ (fun v y hv => ?_)
    | simp -zeta only [Keeps.mk_eq]
    | split

theorem keeps_precondPass {s u : State} {a0} {a1} {a2} {a3} (h : Keeps s u) : Keeps s (precondPass a0 a1 a2 a3 u) := by
  unfold precondPass
  dsimp only
  repeat' first
    | with_reducible assumption
    | with_reducible apply keeps_loseShare
    | with_reducible apply keeps_abortFeed
    | with_reducible apply keeps_raise
    | with_reducible apply keeps_modShare
    | with_reducible apply keeps_precondProducts
    | with_reducible apply keeps_precondPasses
    | with_reducible apply keeps_pushOut
    | with_reducible refine Keeps.foldl ?_ (fun v y hv => ?_)
    | simp -zeta only [Keeps.mk_eq]
    | split

theorem keeps_execPrecondPass {s u : State} {a0} {a1} {t : State} (h : Keeps s u) (ht : execPrecondPass a0 a1 u = .next t) : Keeps s t := keeps_event h (fun _ hy => keeps_precondPass hy) ht

theorem keeps_rootRefreshDone {s u : State} {a0} {a1} {a2} (h : Keeps s u) : Keeps s (rootRefreshDone a0 a1 a2 u) := by
  unfold rootRefreshDone
  dsimp only
  repeat' first
    | with_reducible assumption
    | with_reducible apply keeps_loseShare
    | with_reducible apply keeps_putMat
    | with_reducible apply keeps_modShare
    | simp -zeta only [Keeps.mk_eq]
    | split

theorem keeps_execRootRefreshDone {s u : State} {a0} {a1} {t : State} (h : Keeps s u) (ht : execRootRefreshDone a0 a1 u = .next t) : Keeps s t := keeps_event h (fun _ hy => keeps_rootRefreshDone hy) ht

theorem keeps_shareClearTorn {s u : State} {a0} (h : Keeps s u) : Keeps s (shareClearTorn a0 u) := by
  unfold shareClearTorn
  dsimp only
  repeat' first
    | with_reducible assumption
    | with_reducible apply keeps_recoveryDone
    | with_reducible refine keeps_recovery ?_ (fun y0 hy => ?_)
    | with_reducible apply keeps_modShare
    | simp -zeta only [Keeps.mk_eq]
    | split

theorem keeps_execShareClearTorn {s u : State} {a0} {t : State} (h : Keeps s u) (ht : execShareClearTorn a0 u = .next t) : Keeps s t := keeps_onCmd h (fun _ hy => keeps_shareClearTorn hy) ht

theorem keeps_execUpdChunkApply {s u : State} {a0} {a1} {t : State} (h : Keeps s u) (ht : execUpdChunkApply a0 a1 u = .next t) : Keeps s t := keeps_event h (fun _ hy => keeps_chunkApply hy) ht

theorem keeps_yokeCopy {s u : State} {a1} {a2} (h : Keeps s u) : Keeps s (yokeCopy u a1 a2) := by
  unfold yokeCopy
  repeat' first
    | with_reducible assumption
    | with_reducible apply keeps_send
    | split

theorem keeps_sendBill {s u : State} {a1} {a2} {a3} {a4} (h : Keeps s u) : Keeps s (sendBill u a1 a2 a3 a4) := by
  unfold sendBill
  dsimp only
  repeat' first
    | with_reducible assumption
    | with_reducible apply keeps_send
    | with_reducible refine Keeps.foldl ?_ (fun v y hv => ?_)
    | simp -zeta only [Keeps.mk_eq]
    | split

theorem keeps_feedGrant {s u : State} {a0} {a1} {a2} (h : Keeps s u) : Keeps s (feedGrant a0 a1 a2 u) := by
  unfold feedGrant
  dsimp only
  repeat' first
    | with_reducible assumption
    | with_reducible apply keeps_taken
    | with_reducible apply keeps_shareFault
    | with_reducible apply keeps_askRoot
    | with_reducible apply keeps_raise
    | with_reducible apply keeps_yokeCopy
    | with_reducible apply keeps_loseShare
    | with_reducible apply keeps_modFeed
    | with_reducible apply keeps_modShare
    | with_reducible apply keeps_sendBill
    | simp -zeta only [Keeps.mk_eq]
    | split

theorem keeps_execUpdFeedGrant {s u : State} {a0} {a1} {a2} {t : State} (h : Keeps s u) (ht : execUpdFeedGrant a0 a1 a2 u = .next t) : Keeps s t := keeps_onPkt h (fun _ hy => keeps_feedGrant hy) ht

theorem keeps_groupWrite {s u : State} {a0} (h : Keeps s u) : Keeps s (groupWrite a0 u) := by
  unfold groupWrite
  repeat' first
    | with_reducible assumption
    | with_reducible apply keeps_cmdDone
    | split
    | simp -zeta only [Keeps.mk_eq]

theorem keeps_execUpdGroupWrite {s u : State} {a0} {t : State} (h : Keeps s u) (ht : execUpdGroupWrite a0 u = .next t) : Keeps s t := keeps_onCmd h (fun _ hy => keeps_groupWrite hy) ht

theorem keeps_feedData {s u : State} {a1} {a2} (h : Keeps s u) : Keeps s (feedData u a1 a2) := by
  unfold feedData
  dsimp only
  repeat' first
    | with_reducible assumption
    | with_reducible apply keeps_yokeCopy
    | with_reducible apply keeps_taken
    | with_reducible apply keeps_modFeed
    | simp -zeta only [Keeps.mk_eq]
    | split

theorem keeps_stepClose {s u : State} {a0} (h : Keeps s u) : Keeps s (stepClose a0 u) := by
  unfold stepClose
  dsimp only
  repeat' first
    | with_reducible assumption
    | with_reducible apply keeps_closeShare
    | with_reducible apply keeps_cmdDone
    | with_reducible refine Keeps.foldl ?_ (fun v y hv => ?_)
    | simp -zeta only [Keeps.mk_eq]
    | split

theorem keeps_updData {s u : State} {a1} (h : Keeps s u) : Keeps s (updData u a1) := by
  unfold updData
  repeat' first
    | with_reducible assumption
    | with_reducible apply keeps_taken
    | with_reducible apply keeps_feedData
    | split

theorem keeps_updOutGrant {s u : State} {a1} (h : Keeps s u) : Keeps s (updOutGrant u a1) := by
  unfold updOutGrant
  repeat' first
    | with_reducible assumption
    | with_reducible apply keeps_flushOut
    | with_reducible apply keeps_modFeed
    | with_reducible apply keeps_taken
    | split

theorem keeps_updOutcome {s u : State} {a1} (h : Keeps s u) : Keeps s (updOutcome u a1) := by
  unfold updOutcome
  dsimp only
  repeat' first
    | with_reducible assumption
    | with_reducible apply keeps_taken
    | with_reducible apply keeps_tally
    | with_reducible apply keeps_yokeCopy
    | with_reducible apply keeps_modFeed
    | with_reducible apply keeps_abortFeed
    | simp -zeta only [Keeps.mk_eq]
    | split

theorem keeps_colData {s u : State} {a0} {a1} {a2} {a3} (h : Keeps s u) : Keeps s (colData a0 a1 a2 a3 u) := by
  unfold colData
  repeat' first
    | with_reducible assumption
    | with_reducible apply keeps_slotData
    | with_reducible apply keeps_rangeToPlot
    | with_reducible apply keeps_updData
    | split

theorem keeps_colGrant {s u : State} {a0} {a1} (h : Keeps s u) : Keeps s (colGrant a0 a1 u) := by
  unfold colGrant
  repeat' first
    | with_reducible assumption
    | with_reducible apply keeps_slotGrant
    | with_reducible apply keeps_grantToPlot
    | with_reducible apply keeps_updOutGrant
    | split

theorem keeps_colOutcome {s u : State} {a0} {a1} (h : Keeps s u) : Keeps s (colOutcome a0 a1 u) := by
  unfold colOutcome
  dsimp only
  repeat' first
    | with_reducible assumption
    | with_reducible apply keeps_slotOutcome
    | with_reducible apply keeps_endSenders
    | with_reducible apply keeps_outcomeToPlot
    | with_reducible apply keeps_updOutcome
    | simp -zeta only [Keeps.mk_eq]
    | split

theorem keeps_execColData {s u : State} {a0} {a1} {t : State} (h : Keeps s u) (ht : execColData a0 a1 u = .next t) : Keeps s t := keeps_onPkt h (fun _ hy => keeps_colData hy) ht

theorem keeps_execColDataEnd {s u : State} {a0} {a1} {t : State} (h : Keeps s u) (ht : execColDataEnd a0 a1 u = .next t) : Keeps s t := keeps_onPkt h (fun _ hy => keeps_colData hy) ht

theorem keeps_execColGrant {s u : State} {a0} {t : State} (h : Keeps s u) (ht : execColGrant a0 u = .next t) : Keeps s t := keeps_onPkt h (fun _ hy => keeps_colGrant hy) ht

theorem keeps_execColOutcome {s u : State} {a0} {a1} {t : State} (h : Keeps s u) (ht : execColOutcome a0 a1 u = .next t) : Keeps s t := keeps_onPkt h (fun _ hy => keeps_colOutcome hy) ht

theorem keeps_resetFurrow {s u : State} {a b c : Nat} (h : Keeps s u) : Keeps s (resetFurrow u a b c) := by
  unfold resetFurrow
  refine Keeps.foldl h fun v n hv => keeps_modNode ?_
  cases (served (nodeSt v n.lead)).head? with
  | none => exact hv
  | some b => exact keeps_dropColl hv

theorem keeps_sendPeer {s u : State} {a1} {a2} {a3} {a4} {a5} (h : Keeps s u) : Keeps s (sendPeer u a1 a2 a3 a4 a5) := h

theorem keeps_resetPeers {s u : State} {a1} {a2} (h : Keeps s u) : Keeps s (resetPeers u a1 a2) := by
  unfold resetPeers
  dsimp only
  repeat' first
    | with_reducible assumption
    | with_reducible apply keeps_sendPeer
    | with_reducible apply keeps_mgtCount
    | with_reducible refine Keeps.foldl ?_ (fun v y hv => ?_)
    | simp -zeta only [Keeps.mk_eq]
    | split

theorem keeps_furrowReset {s u : State} {a0} (h : Keeps s u) : Keeps s (furrowReset a0 u) := by
  unfold furrowReset
  repeat' first
    | with_reducible assumption
    | with_reducible refine keeps_recovery ?_ (fun y0 hy => ?_)
    | with_reducible apply keeps_resetFurrow
    | with_reducible apply keeps_resetPeers
    | split

theorem keeps_execFurrowReset {s u : State} {a0} {t : State} (h : Keeps s u) (ht : execFurrowReset a0 u = .next t) : Keeps s t := keeps_onCmd h (fun _ hy => keeps_furrowReset hy) ht

theorem keeps_furrowResetResend {s u : State}  (h : Keeps s u) : Keeps s (furrowResetResend u) := by
  unfold furrowResetResend
  dsimp only
  repeat' first
    | with_reducible assumption
    | with_reducible apply keeps_sendPeer
    | with_reducible refine Keeps.foldl ?_ (fun v y hv => ?_)
    | simp -zeta only [Keeps.mk_eq]
    | split

theorem keeps_execFurrowResetResend {s u : State} {t : State} (h : Keeps s u) (ht : execFurrowResetResend u = .next t) : Keeps s t := keeps_event h (fun _ hy => keeps_furrowResetResend hy) ht

theorem keeps_dropInputs {s u : State} {a1} (h : Keeps s u) : Keeps s (dropInputs u a1) := h

theorem keeps_sendMarker {s u : State} {a1} {a2} {a3} (h : Keeps s u) : Keeps s (sendMarker u a1 a2 a3) := by
  unfold sendMarker
  repeat' first
    | with_reducible assumption
    | with_reducible apply keeps_takeMoveSeq
    | with_reducible apply keeps_send
    | split

theorem keeps_modStage {s u : State} {a1} {a2} (h : Keeps s u) : Keeps s (modStage u a1 a2) := h

theorem keeps_stageAbort {s u : State} {a1} {a2} (h : Keeps s u) : Keeps s (stageAbort u a1 a2) := by
  unfold stageAbort
  dsimp only
  repeat' first
    | with_reducible assumption
    | with_reducible apply keeps_sendMarker
    | with_reducible apply keeps_modStage
    | with_reducible apply keeps_dropInputs
    | with_reducible apply keeps_tally
    | with_reducible apply keeps_raiseBy
    | with_reducible refine Keeps.foldl ?_ (fun v y hv => ?_)
    | simp -zeta only [Keeps.mk_eq]
    | split

theorem keeps_spillPut {s u : State} {a1} {a2} {a3} {a4} (h : Keeps s u) : Keeps s (spillPut u a1 a2 a3 a4) := by
  unfold spillPut
  dsimp only
  repeat' first
    | with_reducible assumption
    | with_reducible exact mem_wf_writes _ _ _
    | with_reducible refine Keeps.foldl ?_ (fun v y hv => ?_)
    | simp -zeta only [Keeps.mk_eq]
    | split
    | with_reducible apply Keeps.mkGran

theorem keeps_stageCe {s u : State} {a1} (h : Keeps s u) : Keeps s (stageCe u a1) := by
  unfold stageCe
  repeat' first
    | with_reducible assumption
    | with_reducible apply keeps_raise
    | with_reducible apply keeps_modStage
    | simp -zeta only [Keeps.mk_eq]

theorem keeps_mergePass {s u : State} {a0} {a1} (h : Keeps s u) : Keeps s (mergePass a0 a1 u) := by
  unfold mergePass
  dsimp only
  repeat' first
    | with_reducible assumption
    | with_reducible apply keeps_stageAbort
    | with_reducible apply keeps_spillPut
    | with_reducible apply keeps_modStage
    | with_reducible apply keeps_stageCe
    | with_reducible refine Keeps.foldl ?_ (fun v y hv => ?_)
    | simp -zeta only [Keeps.mk_eq]
    | split

theorem keeps_execMergePass {s u : State} {a0} {a1} {t : State} (h : Keeps s u) (ht : execMergePass a0 a1 u = .next t) : Keeps s t := keeps_event h (fun _ hy => keeps_mergePass hy) ht

theorem keeps_sortStart {s u : State} {a1} (h : Keeps s u) : Keeps s (sortStart u a1) := by
  unfold sortStart
  dsimp only
  repeat' first
    | with_reducible assumption
    | with_reducible apply keeps_stageAbort
    | with_reducible apply keeps_modStage
    | simp -zeta only [Keeps.mk_eq]
    | split

theorem keeps_stageEmit {s u : State} {a1} (h : Keeps s u) : Keeps s (stageEmit u a1) := by
  unfold stageEmit
  dsimp only
  repeat' first
    | with_reducible assumption
    | with_reducible apply keeps_takeMoveSeq
    | with_reducible apply keeps_send
    | with_reducible apply keeps_modStage
    | with_reducible refine Keeps.foldl ?_ (fun v y hv => ?_)
    | simp -zeta only [Keeps.mk_eq]
    | split

theorem keeps_formRuns {s u : State} {a1} (h : Keeps s u) : Keeps s (formRuns u a1) := by
  unfold formRuns
  dsimp only
  repeat' first
    | with_reducible assumption
    | with_reducible apply keeps_spillPut
    | with_reducible apply keeps_modStage
    | with_reducible refine Keeps.foldl ?_ (fun v y hv => ?_)
    | simp -zeta only [Keeps.mk_eq]
    | split

theorem keeps_moveToStage_put {s u : State} {a0} {a1} {a2} {a4} {a5} (h : Keeps s u) : Keeps s (moveToStage.put a0 a1 a2 u a4 a5) := by
  unfold moveToStage.put
  dsimp only
  repeat' first
    | with_reducible assumption
    | with_reducible apply keeps_modStage
    | with_reducible apply keeps_stageAbort
    | with_reducible apply keeps_sortStart
    | with_reducible apply keeps_sendMoveDone
    | with_reducible apply keeps_moveEntry
    | with_reducible apply keeps_stageEmit
    | with_reducible apply keeps_formRuns
    | simp -zeta only [Keeps.mk_eq]
    | split

theorem keeps_moveToStage {s u : State} {a1} {a2} {a3} (h : Keeps s u) : Keeps s (moveToStage u a1 a2 a3) := by
  unfold moveToStage
  dsimp only
  repeat' first
    | with_reducible assumption
    | with_reducible apply keeps_taken
    | with_reducible apply keeps_moveToStage_put
    | simp -zeta only [Keeps.mk_eq]
    | split

theorem keeps_moveData {s u : State} {a0} (h : Keeps s u) : Keeps s (moveData a0 u) := by
  unfold moveData
  repeat' first
    | with_reducible assumption
    | with_reducible apply keeps_moveToStage
    | with_reducible apply keeps_moveToPlot
    | with_reducible apply keeps_taken
    | split

theorem keeps_execMoveData {s u : State} {a0} {t : State} (h : Keeps s u) (ht : execMoveData a0 u = .next t) : Keeps s t := keeps_onPkt h (fun _ hy => keeps_moveData hy) ht

theorem keeps_stageMarker {s u : State} {a1} {a2} {a3} {a4} (h : Keeps s u) : Keeps s (stageMarker u a1 a2 a3 a4) := by
  unfold stageMarker
  dsimp only
  repeat' first
    | with_reducible assumption
    | with_reducible apply keeps_stageAbort
    | with_reducible apply keeps_moveEntry
    | with_reducible apply keeps_taken
    | simp -zeta only [Keeps.mk_eq]
    | split

theorem keeps_plotMarker {s u : State} {a1} {a2} {a3} (h : Keeps s u) : Keeps s (plotMarker u a1 a2 a3) := by
  unfold plotMarker
  repeat' first
    | with_reducible assumption
    | with_reducible apply keeps_putMove
    | with_reducible apply keeps_moveEntry
    | simp -zeta only [Keeps.mk_eq]

theorem keeps_moveDone {s u : State} {a0} (h : Keeps s u) : Keeps s (moveDone a0 u) := by
  unfold moveDone
  dsimp only
  repeat' first
    | with_reducible assumption
    | with_reducible apply keeps_taken
    | with_reducible apply keeps_stageMarker
    | with_reducible apply keeps_peerAbort
    | with_reducible apply keeps_plotMarker
    | simp -zeta only [Keeps.mk_eq]
    | split

theorem keeps_execMoveDone {s u : State} {a0} {t : State} (h : Keeps s u) (ht : execMoveDone a0 u = .next t) : Keeps s t := keeps_onPkt h (fun _ hy => keeps_moveDone hy) ht

theorem keeps_stageSend {s u : State} {a1} {a2} {a3} (h : Keeps s u) : Keeps s (stageSend u a1 a2 a3) := by
  unfold stageSend
  dsimp only
  repeat' first
    | with_reducible assumption
    | with_reducible apply keeps_takeMoveSeq
    | with_reducible apply keeps_send
    | with_reducible refine Keeps.foldl ?_ (fun v y hv => ?_)
    | simp -zeta only [Keeps.mk_eq]
    | split

theorem keeps_stageFinish {s u : State} {a1 : _} {a2 : _} (h : Keeps s u) :
    Keeps s (stageFinish u a1 a2) := by
  unfold stageFinish
  repeat' first
    | with_reducible assumption
    | with_reducible exact mem_wf_writes _ _ _
    | with_reducible exact mem_wf_zero _ _ _
    | with_reducible exact mem_wf_none
    | (intros; with_reducible assumption)
    | with_reducible apply keeps_stageSend
    | with_reducible apply keeps_send
    | unfold x
    | simp -zeta only [Keeps.mk_eq]
    | with_reducible refine Keeps.foldl ?_ (fun v y hv => ?_)
    | with_reducible refine Keeps.foldl1 ?_ (fun v y hv => ?_)
    | (intro (x : State); refine Keeps.cut (s := s) (x := x) ?_ ?_)
    | (intro (x : State × _); refine Keeps.cut (s := s) (x := x.1) ?_ ?_)
    | (intro (hx : Keeps _ _); try clear_value x)
    | intro (x : State → _)
    | intro (x : _ → State → _)
    | (intro x; clear_value x)
    | intro x
    | (lift_lets; fail_if_success with_reducible assumption; intro (x : State); refine Keeps.cut (s := s) (x := x) ?_ ?_)
    | (lift_lets; intro (x : State → _))
    | (lift_lets; intro (x : _ → State → _))
    | (lift_lets; intro x; clear_value x)
    | (lift_lets; intro x)
    | (with_reducible apply Keeps.pair; with_reducible assumption)
    | split
    | with_reducible apply Keeps.mkGran

theorem keeps_stageDone {s u : State} {a0} {a1} (h : Keeps s u) : Keeps s (stageDone a0 a1 u) := by
  unfold stageDone
  dsimp only
  repeat' first
    | with_reducible assumption
    | with_reducible apply keeps_stageAbort
    | with_reducible apply keeps_stageCe
    | with_reducible apply keeps_stageFinish
    | with_reducible apply keeps_stageSend
    | with_reducible apply keeps_modStage
    | with_reducible apply keeps_tally
    | simp -zeta only [Keeps.mk_eq]
    | split

theorem keeps_execStageDone {s u : State} {a0} {a1} {t : State} (h : Keeps s u) (ht : execStageDone a0 a1 u = .next t) : Keeps s t := keeps_event h (fun _ hy => keeps_stageDone hy) ht

theorem keeps_stageReset {s u : State} {a0} (h : Keeps s u) : Keeps s (stageReset a0 u) := by
  unfold stageReset
  repeat' first
    | with_reducible assumption
    | with_reducible refine keeps_recovery ?_ (fun y0 hy => ?_)
    | with_reducible apply keeps_modStage
    | split

theorem keeps_execStageReset {s u : State} {a0} {t : State} (h : Keeps s u) (ht : execStageReset a0 u = .next t) : Keeps s t := keeps_onCmd h (fun _ hy => keeps_stageReset hy) ht

theorem keeps_winnowRecord {s u : State} {a0} (h : Keeps s u) : Keeps s (winnowRecord a0 u) := by
  unfold winnowRecord
  dsimp only
  repeat' first
    | with_reducible assumption
    | with_reducible apply keeps_modStage
    | simp -zeta only [Keeps.mk_eq]
    | split

theorem keeps_execWinnowRecord {s u : State} {a0} {t : State} (h : Keeps s u) (ht : execWinnowRecord a0 u = .next t) : Keeps s t := keeps_event h (fun _ hy => keeps_winnowRecord hy) ht

theorem keeps_modDom {s u : State} {a1} {a2} (h : Keeps s u) : Keeps s (modDom u a1 a2) := h

theorem keeps_stageOnFence {s u : State} {a1 : _} (h : Keeps s u) :
    Keeps s (stageOnFence u a1) := by
  unfold stageOnFence
  repeat' first
    | with_reducible assumption
    | with_reducible exact mem_wf_writes _ _ _
    | with_reducible exact mem_wf_zero _ _ _
    | with_reducible exact mem_wf_none
    | (intros; with_reducible assumption)
    | with_reducible apply keeps_stageAbort
    | unfold x
    | simp -zeta only [Keeps.mk_eq]
    | with_reducible refine Keeps.foldl ?_ (fun v y hv => ?_)
    | with_reducible refine Keeps.foldl1 ?_ (fun v y hv => ?_)
    | (intro (x : State); refine Keeps.cut (s := s) (x := x) ?_ ?_)
    | (intro (x : State × _); refine Keeps.cut (s := s) (x := x.1) ?_ ?_)
    | (intro (hx : Keeps _ _); try clear_value x)
    | intro (x : State → _)
    | intro (x : _ → State → _)
    | (intro x; clear_value x)
    | intro x
    | (lift_lets; fail_if_success with_reducible assumption; intro (x : State); refine Keeps.cut (s := s) (x := x) ?_ ?_)
    | (lift_lets; intro (x : State → _))
    | (lift_lets; intro (x : _ → State → _))
    | (lift_lets; intro x; clear_value x)
    | (lift_lets; intro x)
    | (with_reducible apply Keeps.pair; with_reducible assumption)
    | split
    | with_reducible apply Keeps.mkGran

theorem keeps_stageOnHedge {s u : State}  (h : Keeps s u) : Keeps s (stageOnHedge u) := by
  unfold stageOnHedge
  dsimp only
  repeat' first
    | with_reducible assumption
    | with_reducible apply keeps_stageAbort
    | with_reducible refine Keeps.foldl ?_ (fun v y hv => ?_)
    | simp -zeta only [Keeps.mk_eq]
    | split

theorem keeps_provEntry {s u : State} {a1} {a2} {a3} {a4} (h : Keeps s u) : Keeps s (provEntry u a1 a2 a3 a4) := keeps_complete h

theorem keeps_provRepeat {s u : State} {a1} (h : Keeps s u) : Keeps s (provRepeat u a1) := by
  unfold provRepeat
  dsimp only
  repeat' first
    | with_reducible assumption
    | with_reducible apply keeps_provEntry
    | simp -zeta only [Keeps.mk_eq]
    | split

theorem keeps_provEnds {s u : State} {a1} {a2} (h : Keeps s u) : Keeps s (provEnds u a1 a2) := by
  unfold provEnds
  dsimp only
  repeat' first
    | with_reducible assumption
    | with_reducible apply keeps_provRepeat
    | with_reducible refine Keeps.foldl ?_ (fun v y hv => ?_)
    | simp -zeta only [Keeps.mk_eq]
    | split

theorem keeps_provRaise {s u : State} {a1} {a2} (h : Keeps s u) : Keeps s (provRaise u a1 a2) := by
  unfold provRaise
  dsimp only
  repeat' first
    | with_reducible assumption
    | with_reducible apply keeps_raiseCount
    | simp -zeta only [Keeps.mk_eq]
    | split

theorem keeps_provDone {s u : State} {a0} {a1} (h : Keeps s u) : Keeps s (provDone a0 a1 u) := by
  unfold provDone
  dsimp only
  repeat' first
    | with_reducible assumption
    | with_reducible apply keeps_provEnds
    | with_reducible apply keeps_provRaise
    | with_reducible apply keeps_granUe
    | with_reducible apply keeps_granCe
    | with_reducible refine Keeps.foldl ?_ (fun v y hv => ?_)
    | simp -zeta only [Keeps.mk_eq]
    | split

theorem keeps_execProvDone {s u : State} {a0} {a1} {t : State} (h : Keeps s u) (ht : execProvDone a0 a1 u = .next t) : Keeps s t := keeps_event h (fun _ hy => keeps_provDone hy) ht

theorem keeps_provHash {s u : State} {a0} (h : Keeps s u) : Keeps s (provHash a0 u) := by
  unfold provHash
  dsimp only
  repeat' first
    | with_reducible assumption
    | with_reducible apply keeps_cmdDone
    | with_reducible apply keeps_provEntry
    | with_reducible apply keeps_provRaise
    | with_reducible apply keeps_provRepeat
    | with_reducible apply keeps_keep
    | simp -zeta only [Keeps.mk_eq]
    | split

theorem keeps_execProvHash {s u : State} {a0} {t : State} (h : Keeps s u) (ht : execProvHash a0 u = .next t) : Keeps s t := keeps_onCmd h (fun _ hy => keeps_provHash hy) ht

theorem keeps_modCellar {s u : State} {a1} (h : Keeps s u) : Keeps s (modCellar u a1) := h

theorem keeps_endRun {s u : State} {a1} (h : Keeps s u) : Keeps s (endRun u a1) := h

theorem keeps_putRun {s u : State} {a1} (h : Keeps s u) : Keeps s (putRun u a1) := h

theorem keeps_zeroRun {s u : State} {a1} {a2} (h : Keeps s u) : Keeps s (zeroRun u a1 a2) := by
  unfold zeroRun
  dsimp only
  repeat' first
    | with_reducible assumption
    | with_reducible apply keeps_bindWrite
    | simp -zeta only [Keeps.mk_eq]
    | split

theorem keeps_dropChunk {s u : State} {a1} {a2} {a3} {a4} {a5} (h : Keeps s u) : Keeps s (dropChunk u a1 a2 a3 a4 a5) := by
  unfold dropChunk
  repeat' first
    | with_reducible assumption
    | with_reducible apply keeps_putRun
    | with_reducible apply keeps_zeroRun
    | with_reducible apply keeps_endRun
    | with_reducible apply keeps_modCellar
    | with_reducible apply keeps_raiseBy
    | with_reducible apply keeps_sendMoveDone
    | split

theorem keeps_breakChunk {s u : State} {a1} (h : Keeps s u) : Keeps s (breakChunk u a1) := by
  unfold breakChunk
  repeat' first
    | with_reducible assumption
    | with_reducible apply keeps_dropChunk
    | split

theorem keeps_chunkDone {s u : State} {a1} {a2} {a3} {a4} (h : Keeps s u) : Keeps s (chunkDone u a1 a2 a3 a4) := by
  unfold chunkDone
  repeat' first
    | with_reducible assumption
    | with_reducible apply keeps_modCellar
    | with_reducible apply keeps_endRun
    | with_reducible apply keeps_sendMoveDone
    | with_reducible apply keeps_moveEntry
    | with_reducible apply keeps_bindComplete
    | with_reducible apply keeps_modBind
    | simp -zeta only [Keeps.mk_eq]

theorem keeps_chunkBytes {s u : State} {a1} {a2} {a3} {a4} {a5} (h : Keeps s u) : Keeps s (chunkBytes u a1 a2 a3 a4 a5) := by
  unfold chunkBytes
  dsimp only
  repeat' first
    | with_reducible assumption
    | with_reducible apply keeps_dropChunk
    | with_reducible apply keeps_bindWrite
    | with_reducible apply keeps_putRun
    | with_reducible apply keeps_chunkDone
    | simp -zeta only [Keeps.mk_eq]
    | split

theorem keeps_setKey {s u : State} {a1} {a2} (h : Keeps s u) : Keeps s (setKey u a1 a2) := h

theorem keeps_keyUe {s u : State} {a1} (h : Keeps s u) : Keeps s (keyUe u a1) := by
  unfold keyUe
  repeat' first
    | with_reducible assumption
    | with_reducible apply keeps_raise
    | with_reducible apply keeps_setKey
    | simp -zeta only [Keeps.mk_eq]

theorem keeps_exitFault {s u : State} {a1} {a2} (h : Keeps s u) : Keeps s (exitFault u a1 a2) := keeps_plotAbort h

theorem keeps_exitServed {s u : State} {a1} {a2} (h : Keeps s u) : Keeps s (exitServed u a1 a2) := h

theorem keeps_exitTake {s u : State} {a1} {a2} {a3} (h : Keeps s u) : Keeps s (exitTake u a1 a2 a3) := by
  unfold exitTake
  repeat' first
    | with_reducible assumption
    | with_reducible apply keeps_plotTo
    | with_reducible apply keeps_modPlot
    | with_reducible apply keeps_exitServed
    | simp -zeta only [Keeps.mk_eq]

theorem keeps_digestExit {s u : State} {a0} {a1} (h : Keeps s u) : Keeps s (digestExit a0 a1 u) := by
  unfold digestExit
  dsimp only
  repeat' first
    | with_reducible assumption
    | with_reducible apply keeps_keyUe
    | with_reducible apply keeps_exitFault
    | with_reducible apply keeps_exitTake
    | with_reducible apply keeps_modCellar
    | with_reducible apply keeps_plotTransfer
    | simp -zeta only [Keeps.mk_eq]
    | split

theorem keeps_encryptExit {s u : State} {a0} {a1} (h : Keeps s u) : Keeps s (encryptExit a0 a1 u) := by
  unfold encryptExit
  dsimp only
  repeat' first
    | with_reducible assumption
    | with_reducible apply keeps_keyUe
    | with_reducible apply keeps_exitFault
    | with_reducible apply keeps_exitTake
    | with_reducible apply keeps_exitServed
    | with_reducible apply keeps_modCellar
    | with_reducible apply keeps_plotTransfer
    | simp -zeta only [Keeps.mk_eq]
    | split

theorem keeps_eraseKeys {s u : State}  (h : Keeps s u) : Keeps s (eraseKeys u) := h

theorem keeps_execDigestExit {s u : State} {a0} {a1} {t : State} (h : Keeps s u) (ht : execDigestExit a0 a1 u = .next t) : Keeps s t := keeps_event h (fun _ hy => keeps_digestExit hy) ht

theorem keeps_execEncryptExit {s u : State} {a0} {a1} {t : State} (h : Keeps s u) (ht : execEncryptExit a0 a1 u = .next t) : Keeps s t := keeps_event h (fun _ hy => keeps_encryptExit hy) ht

theorem keeps_keyDone {s u : State} {a1} {a2} {a3} {a4} (h : Keeps s u) : Keeps s (keyDone u a1 a2 a3 a4) := keeps_cmdDone h

theorem keeps_keyErase {s u : State} {a0} (h : Keeps s u) : Keeps s (keyErase a0 u) := by
  unfold keyErase
  dsimp only
  repeat' first
    | with_reducible assumption
    | with_reducible apply keeps_keyDone
    | with_reducible apply keeps_setKey
    | with_reducible apply keeps_keep
    | simp -zeta only [Keeps.mk_eq]
    | split

theorem keeps_execKeyErase {s u : State} {a0} {t : State} (h : Keeps s u) (ht : execKeyErase a0 u = .next t) : Keeps s t := keeps_onCmd h (fun _ hy => keeps_keyErase hy) ht

theorem keeps_execKeyEraseAll {s u : State} {a0} {t : State} (h : Keeps s u) (ht : execKeyEraseAll a0 u = .next t) : Keeps s t := by
  refine keeps_onCmd h (fun _ hy => ?_) ht
  repeat' first
    | with_reducible assumption
    | with_reducible apply keeps_cmdDone
    | with_reducible apply keeps_eraseKeys
    | simp -zeta only [Keeps.mk_eq]
    | split

theorem keeps_keyLoad {s u : State} {a0} (h : Keeps s u) : Keeps s (keyLoad a0 u) := by
  unfold keyLoad
  dsimp only
  repeat' first
    | with_reducible assumption
    | with_reducible apply keeps_keyDone
    | with_reducible apply keeps_setKey
    | with_reducible apply keeps_keep
    | simp -zeta only [Keeps.mk_eq]
    | split

theorem keeps_execKeyLoadClear {s u : State} {a0} {t : State} (h : Keeps s u) (ht : execKeyLoadClear a0 u = .next t) : Keeps s t := keeps_onCmd h (fun _ hy => keeps_keyLoad hy) ht

theorem keeps_execKeyLoadWrapped {s u : State} {a0} {t : State} (h : Keeps s u) (ht : execKeyLoadWrapped a0 u = .next t) : Keeps s t := keeps_onCmd h (fun _ hy => keeps_keyLoad hy) ht

theorem keeps_sealedPacket {s u : State} {a0} {a1} (h : Keeps s u) : Keeps s (sealedPacket a0 a1 u) := by
  unfold sealedPacket
  dsimp only
  repeat' first
    | with_reducible assumption
    | with_reducible apply keeps_endRun
    | with_reducible apply keeps_taken
    | with_reducible apply keeps_chunkBytes
    | with_reducible apply keeps_arrivalHazard
    | with_reducible apply keeps_breakChunk
    | with_reducible apply keeps_dropChunk
    | with_reducible apply keeps_keyUe
    | simp -zeta only [Keeps.mk_eq]
    | split

theorem keeps_execSealedChunkPacket {s u : State} {a0} {a1} {t : State} (h : Keeps s u) (ht : execSealedChunkPacket a0 a1 u = .next t) : Keeps s t := keeps_onPkt h (fun _ hy => keeps_sealedPacket hy) ht

theorem keeps_searchRpt {s u : State} {a1} {a2} {a3} (h : Keeps s u) : Keeps s (searchRpt u a1 a2 a3).1 := by
  unfold searchRpt
  dsimp only
  repeat' first
    | with_reducible assumption
    | with_reducible apply keeps_raise
    | with_reducible refine Keeps.foldl ?_ (fun v y hv => ?_)
    | simp -zeta only [Keeps.mk_eq]
    | split

theorem keeps_checkReq {s u : State} {a1} {a2} {a3} (h : Keeps s u) : Keeps s (checkReq u a1 a2 a3).1 := by
  unfold checkReq
  dsimp only
  repeat' first
    | with_reducible assumption
    | with_reducible apply keeps_searchRpt
    | simp -zeta only [Keeps.mk_eq]
    | split

theorem keeps_modCnt {s u : State} {a1} {a2} (h : Keeps s u) : Keeps s (modCnt u a1 a2) := h

theorem keeps_countRefusal {s u : State} {a1} {a2} (h : Keeps s u) : Keeps s (countRefusal u a1 a2) := by
  unfold countRefusal
  repeat' first
    | with_reducible assumption
    | with_reducible apply keeps_modCnt
    | with_reducible apply keeps_raise
    | split

theorem keeps_hostAnswer {s u : State} {a1} (h : Keeps s u) : Keeps s (hostAnswer u a1) := by
  unfold hostAnswer
  repeat' first
    | with_reducible assumption
    | with_reducible apply keeps_complete
    | split
    | simp -zeta only [Keeps.mk_eq]

theorem keeps_runDone {s u : State} {a1} (h : Keeps s u) : Keeps s (runDone u a1) := keeps_complete h

theorem keeps_takeReqSeq {s u : State} {a1} {a2} (h : Keeps s u) : Keeps s (takeReqSeq u a1 a2).1 := h

theorem keeps_issueReq {s u : State} {a1} {a2} {a3} (h : Keeps s u) : Keeps s (issueReq u a1 a2 a3).1 := h

theorem keeps_startRun {s u : State} {a1 : _} {a2 : _} (h : Keeps s u) :
    Keeps s (startRun u a1 a2) := by
  unfold startRun
  repeat' first
    | with_reducible assumption
    | with_reducible exact mem_wf_writes _ _ _
    | with_reducible exact mem_wf_zero _ _ _
    | with_reducible exact mem_wf_none
    | (intros; with_reducible assumption)
    | with_reducible apply keeps_issueReq
    | with_reducible apply keeps_runDone
    | unfold x
    | simp -zeta only [Keeps.mk_eq]
    | with_reducible refine Keeps.foldl ?_ (fun v y hv => ?_)
    | with_reducible refine Keeps.foldl1 ?_ (fun v y hv => ?_)
    | (intro (x : State); refine Keeps.cut (s := s) (x := x) ?_ ?_)
    | (intro (x : State × _); refine Keeps.cut (s := s) (x := x.1) ?_ ?_)
    | (intro (hx : Keeps _ _); try clear_value x)
    | intro (x : State → _)
    | intro (x : _ → State → _)
    | (intro x; clear_value x)
    | intro x
    | (lift_lets; fail_if_success with_reducible assumption; intro (x : State); refine Keeps.cut (s := s) (x := x) ?_ ?_)
    | (lift_lets; intro (x : State → _))
    | (lift_lets; intro (x : _ → State → _))
    | (lift_lets; intro x; clear_value x)
    | (lift_lets; intro x)
    | (with_reducible apply Keeps.pair; with_reducible assumption)
    | split
    | with_reducible apply Keeps.mkGran

theorem keeps_runAnswer {s u : State} {a1} (h : Keeps s u) : Keeps s (runAnswer u a1) := by
  unfold runAnswer
  dsimp only
  repeat' first
    | with_reducible assumption
    | with_reducible apply keeps_provTouch
    | with_reducible apply keeps_runDone
    | with_reducible apply keeps_startRun
    | with_reducible exact mem_wf_writes _ _ _
    | with_reducible refine Keeps.foldl ?_ (fun v y hv => ?_)
    | simp -zeta only [Keeps.mk_eq]
    | split
    | with_reducible apply Keeps.mkGran

theorem keeps_toSource {s u : State} {a1} {a2} (h : Keeps s u) : Keeps s (toSource u a1 a2) := by
  unfold toSource
  dsimp only
  repeat' first
    | with_reducible assumption
    | with_reducible apply keeps_modCnt
    | with_reducible apply keeps_hostAnswer
    | with_reducible apply keeps_runAnswer
    | simp -zeta only [Keeps.mk_eq]
    | split

theorem keeps_selfAnswer {s u : State} {a1} {a2} {a3} {a4} (h : Keeps s u) : Keeps s (selfAnswer u a1 a2 a3 a4) := keeps_toSource h

theorem keeps_noteAdmit {s u : State} {a1} {a2} (h : Keeps s u) : Keeps s (noteAdmit u a1 a2) := h

theorem keeps_memRequest {s u : State} {a0} {a1} {a2} {a3} (h : Keeps s u) : Keeps s (memRequest a0 a1 a2 a3 u) := by
  unfold memRequest
  dsimp only
  repeat' first
    | with_reducible assumption
    | with_reducible apply keeps_checkReq
    | with_reducible apply keeps_selfAnswer
    | with_reducible apply keeps_countRefusal
    | with_reducible apply keeps_dropLodged
    | with_reducible apply keeps_noteAdmit
    | with_reducible apply keeps_setLodged
    | simp -zeta only [Keeps.mk_eq]
    | split

theorem keeps_execAtomic {s u : State} {a0} {a1} {a2} {t : State} (h : Keeps s u) (ht : execAtomic a0 a1 a2 u = .next t) : Keeps s t := keeps_onPkt h (fun _ hy => keeps_memRequest hy) ht

theorem keeps_execLoad {s u : State} {a0} {a1} {a2} {t : State} (h : Keeps s u) (ht : execLoad a0 a1 a2 u = .next t) : Keeps s t := keeps_onPkt h (fun _ hy => keeps_memRequest hy) ht

theorem keeps_wrMemCtl {s u : State} {a1} (h : Keeps s u) : Keeps s (wrMemCtl u a1).1 := by
  unfold wrMemCtl
  dsimp only
  repeat' first
    | with_reducible assumption
    | simp -zeta only [Keeps.mk_eq]
    | split

theorem keeps_execMemCtl {s u : State} {a0} {t : State} (h : Keeps s u) (ht : execMemCtl a0 u = .next t) : Keeps s t := by
  refine keeps_always h (fun _ hy => ?_) ht
  repeat' first
    | with_reducible assumption
    | with_reducible apply keeps_wrMemCtl
    | simp -zeta only [Keeps.mk_eq]
    | split

theorem keeps_memCommand {s u : State} {a0} (h : Keeps s u) : Keeps s (memCommand a0 u) := by
  unfold memCommand
  dsimp only
  repeat' first
    | with_reducible assumption
    | with_reducible apply keeps_cmdDone
    | with_reducible apply keeps_issueReq
    | simp -zeta only [Keeps.mk_eq]
    | split

theorem keeps_execMemRequest {s u : State} {a0} {t : State} (h : Keeps s u) (ht : execMemRequest a0 u = .next t) : Keeps s t := keeps_onCmd h (fun _ hy => keeps_memCommand hy) ht

theorem keeps_mgtQuench {s u : State} {a0} (h : Keeps s u) : Keeps s (mgtQuench a0 u) := by
  unfold mgtQuench
  dsimp only
  repeat' first
    | with_reducible assumption
    | simp -zeta only [Keeps.mk_eq]
    | split

theorem keeps_execMgtQuench {s u : State} {a0} {t : State} (h : Keeps s u) (ht : execMgtQuench a0 u = .next t) : Keeps s t := keeps_onPkt h (fun _ hy => keeps_mgtQuench hy) ht

theorem keeps_execQuenchExpiry {s u : State} {a0} {a1} {t : State} (h : Keeps s u) (ht : execQuenchExpiry a0 a1 u = .next t) : Keeps s t := by
  refine keeps_event h (fun _ hy => ?_) ht
  repeat' first
    | with_reducible assumption
    | simp -zeta only [Keeps.mk_eq]
    | split

theorem keeps_rptRead {s u : State} {a0} (h : Keeps s u) : Keeps s (rptRead a0 u) := keeps_complete h

theorem keeps_execRptRead {s u : State} {a0} {t : State} (h : Keeps s u) (ht : execRptRead a0 u = .next t) : Keeps s t := keeps_onCmd h (fun _ hy => keeps_rptRead hy) ht

theorem keeps_rptWrite {s u : State} {a0} (h : Keeps s u) : Keeps s (rptWrite a0 u) := by
  unfold rptWrite
  dsimp only
  repeat' first
    | with_reducible assumption
    | with_reducible apply keeps_cmdDone
    | with_reducible apply keeps_keep
    | simp -zeta only [Keeps.mk_eq]
    | split

theorem keeps_execRptWrite {s u : State} {a0} {t : State} (h : Keeps s u) (ht : execRptWrite a0 u = .next t) : Keeps s t := keeps_onCmd h (fun _ hy => keeps_rptWrite hy) ht

theorem keeps_rptWritten {s u : State}  (h : Keeps s u) : Keeps s (rptWritten u) := by
  unfold rptWritten
  repeat' first
    | with_reducible assumption
    | with_reducible apply keeps_complete
    | split
    | simp -zeta only [Keeps.mk_eq]

theorem keeps_execRptWritten {s u : State} {t : State} (h : Keeps s u) (ht : execRptWritten u = .next t) : Keeps s t := keeps_event h (fun _ hy => keeps_rptWritten hy) ht

theorem keeps_execStore {s u : State} {a0} {a1} {a2} {t : State} (h : Keeps s u) (ht : execStore a0 a1 a2 u = .next t) : Keeps s t := keeps_onPkt h (fun _ hy => keeps_memRequest hy) ht

theorem keeps_execStoreRel {s u : State} {a0} {a1} {a2} {t : State} (h : Keeps s u) (ht : execStoreRel a0 a1 a2 u = .next t) : Keeps s t := keeps_onPkt h (fun _ hy => keeps_memRequest hy) ht

theorem keeps_trackerResend {s u : State} {a0} {a1} {a2} (h : Keeps s u) : Keeps s (trackerResend a0 a1 a2 u) := by
  unfold trackerResend
  dsimp only
  repeat' first
    | with_reducible assumption
    | with_reducible apply keeps_modCnt
    | simp -zeta only [Keeps.mk_eq]
    | split

theorem keeps_execTrackerResend {s u : State} {a0} {a1} {a2} {t : State} (h : Keeps s u) (ht : execTrackerResend a0 a1 a2 u = .next t) : Keeps s t := keeps_event h (fun _ hy => keeps_trackerResend hy) ht

theorem keeps_untrack {s u : State} {a1} (h : Keeps s u) : Keeps s (untrack u a1) := h

theorem keeps_finishTrack {s u : State} {a1} {a2} {a3} (h : Keeps s u) : Keeps s (finishTrack u a1 a2 a3) := by
  unfold finishTrack
  repeat' first
    | with_reducible assumption
    | with_reducible apply keeps_selfAnswer
    | with_reducible apply keeps_raise
    | with_reducible apply keeps_untrack
    | simp -zeta only [Keeps.mk_eq]

theorem keeps_giveUp {s u : State} {a1} (h : Keeps s u) : Keeps s (giveUp u a1) := by
  unfold giveUp
  repeat' first
    | with_reducible assumption
    | with_reducible apply keeps_finishTrack
    | split

theorem keeps_trackerTimeout {s u : State} {a0} {a1} {a2} (h : Keeps s u) : Keeps s (trackerTimeout a0 a1 a2 u) := by
  unfold trackerTimeout
  repeat' first
    | with_reducible assumption
    | with_reducible apply keeps_selfAnswer
    | with_reducible apply keeps_untrack
    | with_reducible apply keeps_giveUp
    | split

theorem keeps_execTrackerTimeout {s u : State} {a0} {a1} {a2} {t : State} (h : Keeps s u) (ht : execTrackerTimeout a0 a1 a2 u = .next t) : Keeps s t := keeps_event h (fun _ hy => keeps_trackerTimeout hy) ht

theorem keeps_trackAnswer {s u : State} {a1} (h : Keeps s u) : Keeps s (trackAnswer u a1) := by
  unfold trackAnswer
  dsimp only
  repeat' first
    | with_reducible assumption
    | with_reducible apply keeps_modCnt
    | with_reducible apply keeps_toSource
    | with_reducible apply keeps_untrack
    | simp -zeta only [Keeps.mk_eq]
    | split

theorem keeps_farDone {s u : State} {a1} {a2} (h : Keeps s u) : Keeps s (farDone u a1 a2) := by
  unfold farDone
  repeat' first
    | with_reducible assumption
    | with_reducible apply keeps_modGate
    | with_reducible apply keeps_sendGate
    | split

theorem keeps_answerRecs {s u : State} {a1 : _} {a2 : _} {a3 : _} {a4 : _} (h : Keeps s u) :
    Keeps s (answerRecs u a1 a2 a3 a4) := by
  unfold answerRecs
  repeat' first
    | with_reducible assumption
    | with_reducible exact mem_wf_writes _ _ _
    | with_reducible exact mem_wf_zero _ _ _
    | with_reducible exact mem_wf_none
    | (intros; with_reducible assumption)
    | with_reducible apply keeps_send
    | with_reducible apply keeps_farDone
    | unfold x
    | simp -zeta only [Keeps.mk_eq]
    | with_reducible refine Keeps.foldl ?_ (fun v y hv => ?_)
    | with_reducible refine Keeps.foldl1 ?_ (fun v y hv => ?_)
    | (intro (x : State); refine Keeps.cut (s := s) (x := x) ?_ ?_)
    | (intro (x : State × _); refine Keeps.cut (s := s) (x := x.1) ?_ ?_)
    | (intro (hx : Keeps _ _); try clear_value x)
    | intro (x : State → _)
    | intro (x : _ → State → _)
    | (intro x; clear_value x)
    | intro x
    | (lift_lets; fail_if_success with_reducible assumption; intro (x : State); refine Keeps.cut (s := s) (x := x) ?_ ?_)
    | (lift_lets; intro (x : State → _))
    | (lift_lets; intro (x : _ → State → _))
    | (lift_lets; intro x; clear_value x)
    | (lift_lets; intro x)
    | (with_reducible apply Keeps.pair; with_reducible assumption)
    | split
    | with_reducible apply Keeps.mkGran

theorem keeps_respond {s u : State} {a1} {a2} {a3} {a4} {a5} (h : Keeps s u) : Keeps s (respond u a1 a2 a3 a4 a5) := h

theorem keeps_modReplay {s u : State} {a1} {a2} {a3} {a4} (h : Keeps s u) : Keeps s (modReplay u a1 a2 a3 a4) := h

theorem keeps_modSrc {s u : State} {a1} {a2} {a3} (h : Keeps s u) : Keeps s (modSrc u a1 a2 a3) := h

theorem keeps_countStore {s u : State} {a1} (h : Keeps s u) : Keeps s (countStore u a1) := h

theorem keeps_settle {s u : State} {a1} {a2} {a3} {a4} (h : Keeps s u) : Keeps s (settle u a1 a2 a3 a4) := by
  unfold settle
  repeat' first
    | with_reducible assumption
    | with_reducible apply keeps_modReplay
    | with_reducible apply keeps_countStore
    | split

theorem keeps_answerReq {s u : State} {a1} {a2} {a3} {a4} {a5} (h : Keeps s u) : Keeps s (answerReq u a1 a2 a3 a4 a5) := by
  unfold answerReq
  repeat' first
    | with_reducible assumption
    | with_reducible apply keeps_respond
    | with_reducible apply keeps_settle
    | simp -zeta only [Keeps.mk_eq]

theorem keeps_refuseRange {s u : State} {a1} {a2} (h : Keeps s u) : Keeps s (refuseRange u a1 a2) := by
  unfold refuseRange
  repeat' first
    | with_reducible assumption
    | with_reducible apply keeps_modCnt
    | with_reducible apply keeps_answerReq
    | with_reducible apply keeps_raise
    | simp -zeta only [Keeps.mk_eq]

theorem keeps_takeReqs {s u : State} {a1} (h : Keeps s u) : Keeps s (takeReqs u a1) := h

theorem keeps_unserved {s u : State} {a1} (h : Keeps s u) : Keeps s (unserved u a1) := by
  unfold unserved
  repeat' first
    | with_reducible assumption
    | with_reducible apply keeps_answerReq
    | split

theorem keeps_forwardReq {s u : State} {a1} {a2} {a3} (h : Keeps s u) : Keeps s (forwardReq u a1 a2 a3) := h

theorem keeps_granLoad {s u : State} {a1} {a2} {a3} (h : Keeps s u) : Keeps s (granLoad u a1 a2 a3) := by
  unfold granLoad
  dsimp only
  repeat' first
    | with_reducible assumption
    | with_reducible apply keeps_nFlag
    | with_reducible apply keeps_answerReq
    | with_reducible apply keeps_raise
    | with_reducible apply keeps_granUe
    | with_reducible apply keeps_granCe
    | simp -zeta only [Keeps.mk_eq]
    | split

theorem keeps_takeHeldNo {s u : State}  (h : Keeps s u) : Keeps s (takeHeldNo u) := h

theorem keeps_granStore {s u : State} {a1} (h : Keeps s u) : Keeps s (granStore u a1) := by
  unfold granStore
  dsimp only
  repeat' first
    | with_reducible assumption
    | with_reducible apply keeps_provTouch
    | with_reducible exact mem_wf_writes _ _ _
    | with_reducible refine Keeps.foldl ?_ (fun v y hv => ?_)
    | simp -zeta only [Keeps.mk_eq]
    | split
    | with_reducible apply Keeps.mkGran

theorem keeps_storeOverlap {s u : State} {a1} (h : Keeps s u) : Keeps s (storeOverlap u a1) := by
  unfold storeOverlap
  repeat' first
    | with_reducible assumption
    | with_reducible apply keeps_plotAbort
    | with_reducible apply keeps_refuseRange
    | simp -zeta only [Keeps.mk_eq]

theorem keeps_plotRelease {s u : State} {a1} {a2} {a3} (h : Keeps s u) : Keeps s (plotRelease u a1 a2 a3) := by
  unfold plotRelease
  dsimp only
  repeat' first
    | with_reducible assumption
    | with_reducible apply keeps_modBind
    | with_reducible apply keeps_bindComplete
    | simp -zeta only [Keeps.mk_eq]
    | split

theorem keeps_plotWrite {s u : State} {a1} {a2} {a3} (h : Keeps s u) : Keeps s (plotWrite u a1 a2 a3) := h

theorem keeps_tryRelease {s u t : State} {b : Bool} {p : Pkt} (h : Keeps s u) (ht : tryRelease u b p = .applied t) : Keeps s t := by
  unfold tryRelease at ht
  dsimp only at ht
  repeat' split at ht
  all_goals first | (cases ht; done) | skip
  all_goals cases ht
  all_goals repeat' first
    | with_reducible exact h
    | with_reducible apply keeps_unserved
    | with_reducible apply keeps_forwardReq
    | with_reducible apply keeps_modReplay
    | with_reducible apply keeps_answerReq
    | with_reducible apply keeps_granStore
    | with_reducible apply keeps_refuseRange
    | with_reducible apply keeps_arrivalHazard
    | with_reducible apply keeps_storeOverlap
    | with_reducible apply keeps_plotRelease
    | with_reducible refine Keeps.ite ?_ ?_
    | with_reducible apply keeps_plotWrite
    | with_reducible apply keeps_modSrc

theorem keeps_releaseArrives {s u : State} {b : Bool} {p : Pkt} (h : Keeps s u) : Keeps s (releaseArrives u b p) := by
  unfold releaseArrives
  dsimp only
  split
  · exact keeps_tryRelease h ‹_›
  · exact keeps_modReplay h
  · exact keeps_takeHeldNo (keeps_modReplay h)

theorem keeps_retryHeld {s u : State} {a0 : _} (h : Keeps s u) :
    Keeps s (retryHeld a0 u) := by
  unfold retryHeld
  repeat' first
    | with_reducible assumption
    | with_reducible exact mem_wf_writes _ _ _
    | with_reducible exact mem_wf_zero _ _ _
    | with_reducible exact mem_wf_none
    | (intros; with_reducible assumption)
    | with_reducible apply keeps_releaseArrives
    | unfold x
    | simp -zeta only [Keeps.mk_eq]
    | with_reducible refine Keeps.foldl ?_ (fun v y hv => ?_)
    | with_reducible refine Keeps.foldl1 ?_ (fun v y hv => ?_)
    | (intro (x : State); refine Keeps.cut (s := s) (x := x) ?_ ?_)
    | (intro (x : State × _); refine Keeps.cut (s := s) (x := x.1) ?_ ?_)
    | (intro (hx : Keeps _ _); try clear_value x)
    | intro (x : State → _)
    | intro (x : _ → State → _)
    | (intro x; clear_value x)
    | intro x
    | (with_reducible apply Keeps.pair; with_reducible assumption)
    | split
    | with_reducible apply Keeps.mkGran
    | (extract_lets +onlyGivenNames x; refine Keeps.cut (s := s) (x := x) ?_ ?_)
    | (extract_lets +onlyGivenNames x; refine Keeps.cut (s := s) (x := x.1) ?_ ?_)
    | (extract_lets +onlyGivenNames x; fail_if_success (have y : State → _ := x); fail_if_success (have y : _ → State → _ := x); clear_value x)
    | extract_lets +onlyGivenNames x

theorem keeps_retrySource {s u : State} {a1} {a2} (h : Keeps s u) : Keeps s (retrySource u a1 a2) := keeps_retryHeld h

theorem keeps_holdWrite {s u : State} {a1} (h : Keeps s u) : Keeps s (holdWrite u a1) := h

theorem keeps_applyStore {s u : State} {a1} {a2} (h : Keeps s u) : Keeps s (applyStore u a1 a2) := by
  unfold applyStore
  dsimp only
  repeat' first
    | with_reducible assumption
    | with_reducible apply keeps_retrySource
    | with_reducible apply keeps_takeReqs
    | with_reducible apply keeps_unserved
    | with_reducible apply keeps_forwardReq
    | with_reducible apply keeps_refuseRange
    | with_reducible apply keeps_answerReq
    | with_reducible apply keeps_holdWrite
    | with_reducible apply keeps_granStore
    | with_reducible apply keeps_arrivalHazard
    | with_reducible apply keeps_storeOverlap
    | with_reducible apply keeps_plotWrite
    | simp -zeta only [Keeps.mk_eq]
    | split

theorem keeps_granAtomics {s u : State} {a1} {a2} (h : Keeps s u) : Keeps s (granAtomics u a1 a2) := by
  unfold granAtomics
  dsimp only
  repeat' first
    | with_reducible assumption
    | with_reducible apply keeps_answerReq
    | with_reducible apply keeps_granUe
    | with_reducible apply keeps_granCe
    | with_reducible apply keeps_nFlag
    | with_reducible apply keeps_provTouch
    | with_reducible exact mem_wf_writes _ _ _
    | with_reducible refine Keeps.foldl ?_ (fun v y hv => ?_)
    | simp -zeta only [Keeps.mk_eq]
    | split
    | with_reducible apply Keeps.mkGran

theorem keeps_applyHead {s u : State} {a1} {a2} {a3} {a4} (h : Keeps s u) : Keeps s (applyHead u a1 a2 a3 a4) := by
  unfold applyHead
  dsimp only
  repeat' first
    | with_reducible assumption
    | with_reducible apply keeps_refuseRange
    | with_reducible apply keeps_takeReqs
    | with_reducible apply keeps_answerReq
    | with_reducible apply keeps_unserved
    | with_reducible apply keeps_forwardReq
    | with_reducible apply keeps_granLoad
    | with_reducible apply keeps_respond
    | with_reducible apply keeps_applyStore
    | with_reducible apply keeps_releaseArrives
    | with_reducible apply keeps_holdWrite
    | with_reducible apply keeps_granAtomics
    | with_reducible refine Keeps.foldl ?_ (fun v y hv => ?_)
    | simp -zeta only [Keeps.mk_eq]
    | split

theorem keeps_applyDue {s u t : State} {n : Nat} {e : Ecc} (h : Keeps s u) (ht : applyDue n e u = some t) : Keeps s t := by
  unfold applyDue at ht
  split at ht
  · cases ht; exact keeps_applyHead h
  · obtain ⟨p, -, rfl⟩ := Option.map_eq_some_iff.1 ht
    exact keeps_releaseArrives (keeps_modReplay h)

theorem keeps_dropGate {s u : State} {a1} (h : Keeps s u) : Keeps s (dropGate u a1) := by
  unfold dropGate
  dsimp only
  repeat' first
    | with_reducible assumption
    | with_reducible apply keeps_modGate
    | simp -zeta only [Keeps.mk_eq]
    | split

theorem keeps_endpointAnswer {s u : State} {a0} {a1} (h : Keeps s u) : Keeps s (endpointAnswer a0 a1 u) := by
  unfold endpointAnswer
  dsimp only
  repeat' first
    | with_reducible assumption
    | with_reducible apply keeps_dropLodged
    | with_reducible apply keeps_modSrc
    | with_reducible apply keeps_countStore
    | with_reducible apply keeps_settle
    | with_reducible apply keeps_retrySource
    | with_reducible apply keeps_setLodged
    | with_reducible apply keeps_answerReq
    | with_reducible refine Keeps.foldl ?_ (fun v y hv => ?_)
    | simp -zeta only [Keeps.mk_eq]
    | split

theorem keeps_farAnswer {s u : State} {a1} (h : Keeps s u) : Keeps s (farAnswer u a1) := by
  unfold farAnswer
  repeat' first
    | with_reducible assumption
    | with_reducible apply keeps_answerRecs
    | split

theorem keeps_memAnswer {s u : State} {a0} {a1} {a2} (h : Keeps s u) : Keeps s (memAnswer a0 a1 a2 u) := by
  unfold memAnswer
  dsimp only
  repeat' first
    | with_reducible assumption
    | with_reducible apply keeps_endpointAnswer
    | with_reducible apply keeps_holdWrite
    | with_reducible apply keeps_farAnswer
    | with_reducible apply keeps_taken
    | with_reducible apply keeps_trackAnswer
    | simp -zeta only [Keeps.mk_eq]
    | split

theorem keeps_execAtomicRsp {s u : State} {a0} {a1} {t : State} (h : Keeps s u) (ht : execAtomicRsp a0 a1 u = .next t) : Keeps s t := keeps_onPkt h (fun _ hy => keeps_memAnswer hy) ht

theorem keeps_execHotLineRetire {s u : State} {a0} {t : State} (h : Keeps s u) (ht : execHotLineRetire a0 u = .next t) : Keeps s t := by
  refine keeps_event h (fun _ hy => ?_) ht
  repeat' first
    | with_reducible assumption
    | simp -zeta only [Keeps.mk_eq]
    | split

theorem keeps_execHotSetClear {s u : State} {a0} {t : State} (h : Keeps s u) (ht : execHotSetClear a0 u = .next t) : Keeps s t := by
  refine keeps_event h (fun _ hy => ?_) ht
  repeat' first
    | with_reducible assumption
    | simp -zeta only [Keeps.mk_eq]
    | split

theorem keeps_lineMarks {s u : State} {a1} (h : Keeps s u) : Keeps s (lineMarks u a1) := by
  unfold lineMarks
  dsimp only
  repeat' first
    | with_reducible assumption
    | with_reducible apply keeps_nFlag
    | simp -zeta only [Keeps.mk_eq]
    | split

theorem keeps_hotQuench {s u : State} {a1} {a2} {a3} (h : Keeps s u) : Keeps s (hotQuench u a1 a2 a3) := by
  unfold hotQuench
  dsimp only
  repeat' first
    | with_reducible assumption
    | with_reducible apply keeps_originate
    | with_reducible apply keeps_mgtCount
    | simp -zeta only [Keeps.mk_eq]
    | split

theorem keeps_hotTake {s u : State} {a1} {a2} {a3} (h : Keeps s u) : Keeps s (hotTake u a1 a2 a3) := by
  unfold hotTake
  repeat' first
    | with_reducible assumption
    | with_reducible apply keeps_nFlag
    | split
    | simp -zeta only [Keeps.mk_eq]

theorem keeps_lineApply {s u : State} {n : Nat} {e : Ecc} (h : Keeps s u) : Keeps s (lineApply n e u) := by
  unfold lineApply
  split
  · exact keeps_applyDue h ‹_›
  · split
    · exact h
    · split
      · exact keeps_retryHeld h
      · split
        · exact h
        · exact keeps_applyHead (keeps_hotQuench (keeps_hotTake (keeps_lineMarks h)))

theorem keeps_execLineApply {s u : State} {a0} {a1} {t : State} (h : Keeps s u) (ht : execLineApply a0 a1 u = .next t) : Keeps s t := keeps_event h (fun _ hy => keeps_lineApply hy) ht

theorem keeps_execLoadRsp {s u : State} {a0} {a1} {t : State} (h : Keeps s u) (ht : execLoadRsp a0 a1 u = .next t) : Keeps s t := keeps_onPkt h (fun _ hy => keeps_memAnswer hy) ht

theorem keeps_replayExpiry {s u : State} {a0} {a1} {a2} (h : Keeps s u) : Keeps s (replayExpiry a0 a1 a2 u) := by
  unfold replayExpiry
  repeat' first
    | with_reducible assumption
    | with_reducible apply keeps_modSrc
    | split
    | simp -zeta only [Keeps.mk_eq]

theorem keeps_execReplayExpiry {s u : State} {a0} {a1} {a2} {t : State} (h : Keeps s u) (ht : execReplayExpiry a0 a1 a2 u = .next t) : Keeps s t := keeps_event h (fun _ hy => keeps_replayExpiry hy) ht

theorem keeps_resetSource {s u : State} {a1} {a2} {a3} (h : Keeps s u) : Keeps s (resetSource u a1 a2 a3) := by
  unfold resetSource
  dsimp only
  repeat' first
    | with_reducible assumption
    | with_reducible apply keeps_modSrc
    | with_reducible apply keeps_answerReq
    | with_reducible refine Keeps.foldl ?_ (fun v y hv => ?_)
    | simp -zeta only [Keeps.mk_eq]
    | split

theorem keeps_sourceReset {s u : State} {a0} (h : Keeps s u) : Keeps s (sourceReset a0 u) := by
  unfold sourceReset
  repeat' first
    | with_reducible assumption
    | with_reducible refine keeps_recovery ?_ (fun y0 hy => ?_)
    | with_reducible apply keeps_resetSource
    | simp -zeta only [Keeps.mk_eq]

theorem keeps_execSourceReset {s u : State} {a0} {t : State} (h : Keeps s u) (ht : execSourceReset a0 u = .next t) : Keeps s t := keeps_onCmd h (fun _ hy => keeps_sourceReset hy) ht

theorem keeps_execStoreAck {s u : State} {a0} {a1} {t : State} (h : Keeps s u) (ht : execStoreAck a0 a1 u = .next t) : Keeps s t := keeps_onPkt h (fun _ hy => keeps_memAnswer hy) ht

theorem keeps_trackedArrival {s u : State} {a0} (h : Keeps s u) : Keeps s (trackedArrival a0 u) := by
  unfold trackedArrival
  dsimp only
  repeat' first
    | with_reducible assumption
    | with_reducible apply keeps_refuseRange
    | with_reducible apply keeps_respond
    | with_reducible apply keeps_modCnt
    | simp -zeta only [Keeps.mk_eq]
    | split

theorem keeps_execTrackedArrival {s u : State} {a0} {t : State} (h : Keeps s u) (ht : execTrackedArrival a0 u = .next t) : Keeps s t := keeps_onPkt h (fun _ hy => keeps_trackedArrival hy) ht

theorem keeps_memOnHedge {s u : State}  (h : Keeps s u) : Keeps s (memOnHedge u) := by
  unfold memOnHedge
  dsimp only
  repeat' first
    | with_reducible assumption
    | with_reducible apply keeps_giveUp
    | with_reducible apply keeps_unserved
    | with_reducible apply keeps_dropGate
    | with_reducible refine Keeps.foldl ?_ (fun v y hv => ?_)
    | simp -zeta only [Keeps.mk_eq]
    | split

theorem keeps_coachCommand {s u : State} {a0} {a1} {a2} (h : Keeps s u) : Keeps s (coachCommand a0 a1 a2 u) := by
  unfold coachCommand
  dsimp only
  repeat' first
    | with_reducible assumption
    | with_reducible apply keeps_cmdDone
    | with_reducible apply keeps_startRun
    | simp -zeta only [Keeps.mk_eq]
    | split

theorem keeps_takeAt {s u : State} {a1} {a2} (h : Keeps s u) : Keeps s (takeAt u a1 a2) := h

theorem keeps_coachDone {s u : State} {a0} {a1} (h : Keeps s u) : Keeps s (coachDone a0 a1 u) := by
  unfold coachDone
  dsimp only
  repeat' first
    | with_reducible assumption
    | with_reducible apply keeps_takeAt
    | with_reducible apply keeps_modGate
    | simp -zeta only [Keeps.mk_eq]
    | split

theorem keeps_coachRun {s u : State} {a0} {a1} (h : Keeps s u) : Keeps s (coachRun a0 a1 u) := by
  unfold coachRun
  dsimp only
  repeat' first
    | with_reducible assumption
    | with_reducible apply keeps_takeAt
    | with_reducible apply keeps_modGate
    | with_reducible apply keeps_send
    | with_reducible apply keeps_farDone
    | with_reducible refine Keeps.foldl ?_ (fun v y hv => ?_)
    | simp -zeta only [Keeps.mk_eq]
    | split

theorem keeps_coachRunClose {s u : State} {a0} (h : Keeps s u) : Keeps s (coachRunClose a0 u) := by
  unfold coachRunClose
  dsimp only
  repeat' first
    | with_reducible assumption
    | with_reducible apply keeps_sendGate
    | with_reducible apply keeps_modGate
    | with_reducible refine Keeps.foldl ?_ (fun v y hv => ?_)
    | simp -zeta only [Keeps.mk_eq]
    | split

theorem keeps_coachTimeout {s u : State} {a0} {a1} (h : Keeps s u) : Keeps s (coachTimeout a0 a1 u) := by
  unfold coachTimeout
  repeat' first
    | with_reducible assumption
    | with_reducible apply keeps_raise
    | with_reducible apply keeps_answerRecs
    | split

theorem keeps_execCoachDone {s u : State} {a0} {a1} {t : State} (h : Keeps s u) (ht : execCoachDone a0 a1 u = .next t) : Keeps s t := keeps_onPkt h (fun _ hy => keeps_coachDone hy) ht

theorem keeps_execCoachGet {s u : State} {a0} {t : State} (h : Keeps s u) (ht : execCoachGet a0 u = .next t) : Keeps s t := keeps_onCmd h (fun _ hy => keeps_coachCommand hy) ht

theorem keeps_execCoachPut {s u : State} {a0} {t : State} (h : Keeps s u) (ht : execCoachPut a0 u = .next t) : Keeps s t := keeps_onCmd h (fun _ hy => keeps_coachCommand hy) ht

theorem keeps_execCoachRun {s u : State} {a0} {a1} {t : State} (h : Keeps s u) (ht : execCoachRun a0 a1 u = .next t) : Keeps s t := keeps_onPkt h (fun _ hy => keeps_coachRun hy) ht

theorem keeps_execCoachRunClose {s u : State} {a0} {t : State} (h : Keeps s u) (ht : execCoachRunClose a0 u = .next t) : Keeps s t := keeps_event h (fun _ hy => keeps_coachRunClose hy) ht

theorem keeps_execCoachTimeout {s u : State} {a0} {a1} {t : State} (h : Keeps s u) (ht : execCoachTimeout a0 a1 u = .next t) : Keeps s t := keeps_event h (fun _ hy => keeps_coachTimeout hy) ht

end Sys2Proof.Laws
end

