-- ==== Sys2Proof/Laws/KeepsDevice.lean ====
section
/-!
SUPPORT. Every operation keeps the identity and the canonical granary: hedges, links, plans, registers, recovery, resets and management.
-/

set_option linter.unusedTactic false
set_option linter.unreachableTactic false
set_option linter.unusedVariables false
set_option linter.unusedSimpArgs false

namespace Sys2Proof.Laws
open Sys2Proof Sys2Proof.Machine

theorem keeps_afterHedge {s t u : State} (h : Keeps s u) : Keeps s (afterHedge t u) := by
  unfold afterHedge
  exact keeps_memOnHedge (keeps_stageOnHedge (keeps_collOnHedge (keeps_escapeLost (Keeps.foldl h fun v y hv => keeps_requeuePort hv))))

theorem keeps_seeEpoch {s u : State} {a1} (h : Keeps s u) : Keeps s (seeEpoch u a1) := by
  unfold seeEpoch
  repeat' first
    | with_reducible assumption
    | split
    | simp -zeta only [Keeps.mk_eq]

theorem keeps_hedgeEntry {s u : State} {a1} {a2} (h : Keeps s u) : Keeps s (hedgeEntry u a1 a2) := keeps_tally h

theorem keeps_setLocal {s u : State} {a1} {a2} {a3} {a4} {a5} {a6} (h : Keeps s u) : Keeps s (setLocal u a1 a2 a3 a4 a5 a6) := by
  unfold setLocal
  repeat' first
    | with_reducible assumption
    | with_reducible apply keeps_seeEpoch
    | with_reducible apply keeps_hedgeEntry
    | split
    | simp -zeta only [Keeps.mk_eq]

theorem keeps_forwardNotice {s u : State} {a1 : _} {a2 : _} (h : Keeps s u) :
    Keeps s (forwardNotice u a1 a2) := by
  unfold forwardNotice
  repeat' first
    | with_reducible assumption
    | with_reducible exact mem_wf_writes _ _ _
    | with_reducible exact mem_wf_zero _ _ _
    | with_reducible exact mem_wf_none
    | (intros; with_reducible assumption)
    | with_reducible apply keeps_sendMgtOn
    | unfold x
    | simp -zeta only [Keeps.mk_eq]
    | with_reducible refine Keeps.foldl ?_ (fun v y hv => ?_)
    | with_reducible refine Keeps.foldl1 ?_ (fun v y hv => ?_)
    | (intro (x : State); refine Keeps.cut (s := s) (x := x) ?_ ?_)
    | (intro (x : State × _); refine Keeps.cut (s := s) (x := x.1) ?_ ?_)
    | (intro (hx : Keeps _ _); try clear_value x)
    | intro (x : State → _)
    | intro (x : _ → State → _)
    | (intro x; clear_value x)
    | intro x
    | (lift_lets; fail_if_success with_reducible assumption; intro (x : State); refine Keeps.cut (s := s) (x := x) ?_ ?_)
    | (lift_lets; intro (x : State → _))
    | (lift_lets; intro (x : _ → State → _))
    | (lift_lets; intro x; clear_value x)
    | (lift_lets; intro x)
    | (with_reducible apply Keeps.pair; with_reducible assumption)
    | split
    | with_reducible apply Keeps.mkGran

theorem keeps_applyNotice {s u : State} {a1} {a2} {a3} {a4} {a5} {a6} {a7} {a8} {a9} (h : Keeps s u) : Keeps s (applyNotice u a1 a2 a3 a4 a5 a6 a7 a8 a9) := by
  unfold applyNotice
  dsimp only
  repeat' first
    | with_reducible assumption
    | with_reducible apply keeps_seeEpoch
    | with_reducible apply keeps_setLocal
    | with_reducible apply keeps_hedgeEntry
    | with_reducible apply keeps_forwardNotice
    | with_reducible apply keeps_afterHedge
    | simp -zeta only [Keeps.mk_eq]
    | split

theorem keeps_raiseHedge {s u : State} {a1} {a2} (h : Keeps s u) : Keeps s (raiseHedge u a1 a2) := keeps_applyNotice h

theorem keeps_beaconLost {s u : State} {a0} (h : Keeps s u) : Keeps s (beaconLost a0 u) := by
  unfold beaconLost
  repeat' first
    | with_reducible assumption
    | with_reducible apply keeps_raiseHedge
    | with_reducible apply keeps_raiseAt
    | split
    | simp -zeta only [Keeps.mk_eq]

theorem keeps_beaconSend {s u : State}  (h : Keeps s u) : Keeps s (beaconSend u) := by
  unfold beaconSend
  dsimp only
  repeat' first
    | with_reducible assumption
    | with_reducible apply keeps_sendMgtOn
    | with_reducible refine Keeps.foldl ?_ (fun v y hv => ?_)
    | simp -zeta only [Keeps.mk_eq]
    | split

theorem keeps_execBeaconLost {s u : State} {a0} {t : State} (h : Keeps s u) (ht : execBeaconLost a0 u = .next t) : Keeps s t := keeps_event h (fun _ hy => keeps_beaconLost hy) ht

theorem keeps_execBeaconSend {s u : State} {t : State} (h : Keeps s u) (ht : execBeaconSend u = .next t) : Keeps s t := keeps_event h (fun _ hy => keeps_beaconSend hy) ht

theorem keeps_hedgeRepeat {s u : State}  (h : Keeps s u) : Keeps s (hedgeRepeat u) := by
  unfold hedgeRepeat
  repeat' first
    | with_reducible assumption
    | with_reducible apply keeps_forwardNotice
    | split
    | simp -zeta only [Keeps.mk_eq]

theorem keeps_execHedgeRepeat {s u : State} {t : State} (h : Keeps s u) (ht : execHedgeRepeat u = .next t) : Keeps s t := keeps_event h (fun _ hy => keeps_hedgeRepeat hy) ht

theorem keeps_take {s u : State} {a1} (h : Keeps s u) : Keeps s (take u a1) := h

theorem keeps_mgtBeacon {s u : State} {a0} {a1} (h : Keeps s u) : Keeps s (mgtBeacon a0 a1 u) := by
  unfold mgtBeacon
  dsimp only
  repeat' first
    | with_reducible assumption
    | with_reducible apply keeps_take
    | with_reducible apply keeps_sendMgtOn
    | with_reducible refine Keeps.foldl ?_ (fun v y hv => ?_)
    | simp -zeta only [Keeps.mk_eq]
    | split

theorem keeps_execMgtBeacon {s u : State} {a0} {a1} {t : State} (h : Keeps s u) (ht : execMgtBeacon a0 a1 u = .next t) : Keeps s t := keeps_onPkt h (fun _ hy => keeps_mgtBeacon hy) ht

theorem keeps_mgtHedge {s u : State} {a0} {a1} (h : Keeps s u) : Keeps s (mgtHedge a0 a1 u) := by
  unfold mgtHedge
  dsimp only
  repeat' first
    | with_reducible assumption
    | with_reducible apply keeps_take
    | with_reducible apply keeps_applyNotice
    | simp -zeta only [Keeps.mk_eq]
    | split

theorem keeps_execMgtHedge {s u : State} {a0} {a1} {t : State} (h : Keeps s u) (ht : execMgtHedge a0 a1 u = .next t) : Keeps s t := keeps_onPkt h (fun _ hy => keeps_mgtHedge hy) ht

theorem keeps_liftAll {s u : State}  (h : Keeps s u) : Keeps s (liftAll u) := h

theorem keeps_portDown {s u : State} {a1} (h : Keeps s u) : Keeps s (portDown u a1) := by
  unfold portDown
  repeat' first
    | with_reducible assumption
    | with_reducible apply keeps_raise
    | with_reducible apply keeps_modCore
    | with_reducible apply keeps_modPort
    | with_reducible apply keeps_setLocal
    | with_reducible apply keeps_raiseHedge
    | with_reducible apply keeps_afterHedge
    | split

theorem keeps_acceptFlit {s u : State} {a1} {a2} (h : Keeps s u) : Keeps s (acceptFlit u a1 a2) := h

theorem keeps_countCw {s u : State} {a1} {a2} (h : Keeps s u) : Keeps s (countCw u a1 a2) := by
  unfold countCw
  repeat' first
    | with_reducible assumption
    | with_reducible apply keeps_modPort
    | split

theorem keeps_creditIn {s u : State} {a0} {a1} (h : Keeps s u) : Keeps s (creditIn a0 a1 u) := h

theorem keeps_creditTimer {s u : State} {a0} (h : Keeps s u) : Keeps s (creditTimer a0 u) := by
  unfold creditTimer
  repeat' first
    | with_reducible assumption
    | with_reducible apply keeps_creditFlit
    | split

theorem keeps_lodge {s u : State} {a1} {a2} {a3} (h : Keeps s u) : Keeps s (lodge u a1 a2 a3) := keeps_glean h

theorem keeps_dataFlit {s u : State} {a0} {a1} (h : Keeps s u) : Keeps s (dataFlit a0 a1 u) := by
  unfold dataFlit
  dsimp only
  repeat' first
    | with_reducible assumption
    | with_reducible apply keeps_portDown
    | with_reducible apply keeps_raise
    | with_reducible apply keeps_modPort
    | with_reducible apply keeps_lodge
    | simp -zeta only [Keeps.mk_eq]
    | split

theorem keeps_edgeDrop {s u : State} {a1} (h : Keeps s u) : Keeps s (edgeDrop u a1) := h

theorem keeps_pauseIn {s u : State} {a1} {a2} (h : Keeps s u) : Keeps s (pauseIn u a1 a2) := by
  unfold pauseIn
  dsimp only
  repeat' first
    | with_reducible assumption
    | with_reducible apply keeps_modPort
    | simp -zeta only [Keeps.mk_eq]
    | split

theorem keeps_edgeRefuse {s u : State} {a1} (h : Keeps s u) : Keeps s (edgeRefuse u a1) := h

theorem keeps_lodgeEdge {s u : State} {a1 : _} {a2 : _} {a3 : _} {t : State} (h : Keeps s u) (ht : lodgeEdge u a1 a2 a3 = some t) :
    Keeps s t := by
  unfold lodgeEdge at ht
  repeat' first
    | split at ht
    | cases ht
    | with_reducible assumption
    | with_reducible exact mem_wf_writes _ _ _
    | with_reducible exact mem_wf_zero _ _ _
    | with_reducible exact mem_wf_none
    | (intros; with_reducible assumption)
    | unfold x
    | simp -zeta only [Keeps.mk_eq]
    | with_reducible refine Keeps.foldl ?_ (fun v y hv => ?_)
    | with_reducible refine Keeps.foldl1 ?_ (fun v y hv => ?_)
    | (intro (x : State); refine Keeps.cut (s := s) (x := x) ?_ ?_)
    | (intro (x : State × _); refine Keeps.cut (s := s) (x := x.1) ?_ ?_)
    | (intro (hx : Keeps _ _); try clear_value x)
    | intro (x : State → _)
    | intro (x : _ → State → _)
    | (intro x; clear_value x)
    | intro x
    | (lift_lets; fail_if_success with_reducible assumption; intro (x : State); refine Keeps.cut (s := s) (x := x) ?_ ?_)
    | (lift_lets; intro (x : State → _))
    | (lift_lets; intro (x : _ → State → _))
    | (lift_lets; intro x; clear_value x)
    | (lift_lets; intro x)
    | (with_reducible apply Keeps.pair; with_reducible assumption)
    | split
    | with_reducible apply Keeps.mkGran

theorem keeps_edgeFull {s u : State} {a1} {a2} (h : Keeps s u) : Keeps s (edgeFull u a1 a2) := by
  unfold edgeFull
  dsimp only
  repeat' first
    | with_reducible assumption
    | with_reducible apply keeps_edgeDrop
    | with_reducible apply keeps_nFlag
    | with_reducible apply keeps_modCore
    | simp -zeta only [Keeps.mk_eq]
    | split

theorem keeps_edgePkt {s u : State} {a b c : Nat} {d : List Byte} (h : Keeps s u) : Keeps s (edgePkt u a b c d) := by
  unfold edgePkt
  dsimp only
  repeat' split
  · exact keeps_edgeRefuse h
  · exact keeps_raise (keeps_modRoute (keeps_edgeRefuse h))
  · exact keeps_edgeFull h
  · have h2 := keeps_lodgeEdge h ‹_›
    exact keeps_settleDie h2

theorem keeps_learn {s u : State} {a1} {a2} {a3} (h : Keeps s u) : Keeps s (learn u a1 a2 a3) := by
  unfold learn
  dsimp only
  repeat' first
    | with_reducible assumption
    | simp -zeta only [Keeps.mk_eq]
    | split

theorem keeps_l2Frame {s u : State} {a b c : Nat} {d : List Byte} (h : Keeps s u) : Keeps s (l2Frame u a b c d) := by
  unfold l2Frame
  dsimp only
  have h1 := keeps_nFlag (a1 := 5) (keeps_learn (a1 := a) (a2 := frameVlan d (portFld u a 12)) (a3 := beAt d 6 6) h)
  split
  · exact h1
  · split
    · exact keeps_edgeFull h1
    · rename_i e
      have h2 := keeps_lodgeEdge h1 e
      refine keeps_settleDie (Keeps.foldl ?_ fun v y hv => ?_)
      · exact Keeps.ite h2 h2
      · simp -zeta only [Keeps.mk_eq]
        exact keeps_modPort hv

theorem keeps_edgeFrame {s u : State} {a0 : _} {a1 : _} (h : Keeps s u) :
    Keeps s (edgeFrame a0 a1 u) := by
  unfold edgeFrame
  repeat' first
    | with_reducible assumption
    | with_reducible exact mem_wf_writes _ _ _
    | with_reducible exact mem_wf_zero _ _ _
    | with_reducible exact mem_wf_none
    | (intros; with_reducible assumption)
    | with_reducible apply keeps_edgeDrop
    | with_reducible apply keeps_pauseIn
    | with_reducible apply keeps_glean
    | with_reducible apply keeps_police
    | with_reducible apply keeps_nFlag
    | with_reducible apply keeps_edgePkt
    | with_reducible apply keeps_l2Frame
    | unfold x
    | simp -zeta only [Keeps.mk_eq]
    | with_reducible refine Keeps.foldl ?_ (fun v y hv => ?_)
    | with_reducible refine Keeps.foldl1 ?_ (fun v y hv => ?_)
    | (intro (x : State); refine Keeps.cut (s := s) (x := x) ?_ ?_)
    | (intro (x : State × _); refine Keeps.cut (s := s) (x := x.1) ?_ ?_)
    | (intro (hx : Keeps _ _); try clear_value x)
    | intro (x : State → _)
    | intro (x : _ → State → _)
    | (intro x; clear_value x)
    | intro x
    | (lift_lets; fail_if_success with_reducible assumption; intro (x : State); refine Keeps.cut (s := s) (x := x) ?_ ?_)
    | (lift_lets; intro (x : State → _))
    | (lift_lets; intro (x : _ → State → _))
    | (lift_lets; intro x; clear_value x)
    | (lift_lets; intro x)
    | (with_reducible apply Keeps.pair; with_reducible assumption)
    | split
    | with_reducible apply Keeps.mkGran

theorem keeps_rxFlit {s u : State} {a1} {a2} {a3} {f4} (h : Keeps s u) (hf4 : ∀ y0, Keeps s y0 → Keeps s (f4 y0)) : Keeps s (rxFlit u a1 a2 a3 f4) := by
  unfold rxFlit
  dsimp only
  repeat' first
    | with_reducible assumption
    | with_reducible apply hf4
    | with_reducible apply keeps_countCw
    | with_reducible apply keeps_acceptFlit
    | with_reducible apply keeps_queueCtrl
    | with_reducible apply keeps_modPort
    | simp -zeta only [Keeps.mk_eq]
    | split

theorem keeps_onCtrl {s u : State} {a0} {a1} {a2} {a3} {f5} (h : Keeps s u) (hf5 : ∀ y0, Keeps s y0 → Keeps s (f5 y0)) : Keeps s (onCtrl a0 a1 a2 a3 u f5) := by
  unfold onCtrl
  repeat' first
    | with_reducible assumption
    | with_reducible apply hf5
    | with_reducible refine keeps_rxFlit ?_ (fun y0 hy => ?_)
    | split

theorem keeps_execCredit {s u : State} {a0} {a1} {a2} {t : State} (h : Keeps s u) (ht : execCredit a0 a1 a2 u = .next t) : Keeps s t := by
  refine keeps_event h (fun _ hy => ?_) ht
  repeat' first
    | with_reducible assumption
    | with_reducible refine keeps_onCtrl ?_ (fun y0 hy => ?_)
    | with_reducible apply keeps_creditIn
    | simp -zeta only [Keeps.mk_eq]
    | split

theorem keeps_execCreditTimer {s u : State} {a0} {t : State} (h : Keeps s u) (ht : execCreditTimer a0 u = .next t) : Keeps s t := keeps_event h (fun _ hy => keeps_creditTimer hy) ht

theorem keeps_execDataFlit {s u : State} {a0} {a1} {a2} {t : State} (h : Keeps s u) (ht : execDataFlit a0 a1 a2 u = .next t) : Keeps s t := by
  refine keeps_event h (fun _ hy => ?_) ht
  repeat' first
    | with_reducible assumption
    | with_reducible refine keeps_rxFlit ?_ (fun y0 hy => ?_)
    | with_reducible apply keeps_dataFlit
    | simp -zeta only [Keeps.mk_eq]
    | split

theorem keeps_execDownRetry {s u : State} {a0} {t : State} (h : Keeps s u) (ht : execDownRetry a0 u = .next t) : Keeps s t := by
  refine keeps_event h (fun _ hy => ?_) ht
  repeat' first
    | with_reducible assumption
    | with_reducible apply keeps_modPort
    | simp -zeta only [Keeps.mk_eq]
    | split

theorem keeps_execEdgeFrame {s u : State} {a0} {a1} {t : State} (h : Keeps s u) (ht : execEdgeFrame a0 a1 u = .next t) : Keeps s t := keeps_event h (fun _ hy => keeps_edgeFrame hy) ht

theorem keeps_idleFlit {s u : State} {a0} {a1} {a2} (h : Keeps s u) : Keeps s (idleFlit a0 a1 a2 u) := by
  unfold idleFlit
  dsimp only
  repeat' first
    | with_reducible assumption
    | with_reducible apply keeps_countCw
    | with_reducible apply keeps_modPort
    | simp -zeta only [Keeps.mk_eq]
    | split

theorem keeps_execIdleFlit {s u : State} {a0} {a1} {a2} {t : State} (h : Keeps s u) (ht : execIdleFlit a0 a1 a2 u = .next t) : Keeps s t := keeps_event h (fun _ hy => keeps_idleFlit hy) ht

theorem keeps_initIn {s u : State} {a0} {a1} (h : Keeps s u) : Keeps s (initIn a0 a1 u) := by
  unfold initIn
  dsimp only
  repeat' first
    | with_reducible assumption
    | with_reducible apply keeps_modPort
    | with_reducible apply keeps_announce
    | with_reducible apply keeps_afterHedge
    | with_reducible apply keeps_raise
    | simp -zeta only [Keeps.mk_eq]
    | split

theorem keeps_execInit {s u : State} {a0} {a1} {a2} {t : State} (h : Keeps s u) (ht : execInit a0 a1 a2 u = .next t) : Keeps s t := by
  refine keeps_event h (fun _ hy => ?_) ht
  repeat' first
    | with_reducible assumption
    | with_reducible refine keeps_onCtrl ?_ (fun y0 hy => ?_)
    | with_reducible apply keeps_initIn
    | simp -zeta only [Keeps.mk_eq]
    | split

theorem keeps_execInitResend {s u : State} {a0} {t : State} (h : Keeps s u) (ht : execInitResend a0 u = .next t) : Keeps s t := by
  refine keeps_event h (fun _ hy => ?_) ht
  repeat' first
    | with_reducible assumption
    | with_reducible apply keeps_queueCtrl
    | simp -zeta only [Keeps.mk_eq]
    | split

theorem keeps_loseLanes {s u : State} {a1} {a2} (h : Keeps s u) : Keeps s (loseLanes u a1 a2) := by
  unfold loseLanes
  dsimp only
  repeat' first
    | with_reducible assumption
    | with_reducible apply keeps_modPort
    | with_reducible apply keeps_portDown
    | simp -zeta only [Keeps.mk_eq]
    | split

theorem keeps_laneDown {s u : State} {a0} {a1} (h : Keeps s u) : Keeps s (laneDown a0 a1 u) := by
  unfold laneDown
  dsimp only
  repeat' first
    | with_reducible assumption
    | with_reducible apply keeps_raise
    | with_reducible apply keeps_modPort
    | with_reducible apply keeps_loseLanes
    | simp -zeta only [Keeps.mk_eq]
    | split

theorem keeps_execLaneDown {s u : State} {a0} {a1} {t : State} (h : Keeps s u) (ht : execLaneDown a0 a1 u = .next t) : Keeps s t := keeps_event h (fun _ hy => keeps_laneDown hy) ht

theorem keeps_resend {s u : State} {a1} {a2} (h : Keeps s u) : Keeps s (resend u a1 a2) := by
  unfold resend
  dsimp only
  repeat' first
    | with_reducible assumption
    | with_reducible apply keeps_transmit
    | with_reducible apply keeps_modPort
    | with_reducible apply keeps_portDown
    | with_reducible apply keeps_raise
    | simp -zeta only [Keeps.mk_eq]
    | split

theorem keeps_matchMaps {s u : State} {a1} (h : Keeps s u) : Keeps s (matchMaps u a1) := by
  unfold matchMaps
  dsimp only
  repeat' first
    | with_reducible assumption
    | with_reducible apply keeps_modPort
    | with_reducible apply keeps_resend
    | with_reducible apply keeps_loseLanes
    | simp -zeta only [Keeps.mk_eq]
    | split

theorem keeps_laneMap {s u : State} {a0} {a1} {a2} (h : Keeps s u) : Keeps s (laneMap a0 a1 a2 u) := by
  unfold laneMap
  dsimp only
  repeat' first
    | with_reducible assumption
    | with_reducible apply keeps_countCw
    | with_reducible apply keeps_acceptFlit
    | with_reducible apply keeps_matchMaps
    | with_reducible apply keeps_modPort
    | with_reducible refine keeps_rxFlit ?_ (fun y0 hy => ?_)
    | simp -zeta only [Keeps.mk_eq]
    | split

theorem keeps_execLaneMap {s u : State} {a0} {a1} {a2} {t : State} (h : Keeps s u) (ht : execLaneMap a0 a1 a2 u = .next t) : Keeps s t := by
  refine keeps_event h (fun _ hy => ?_) ht
  repeat' first
    | with_reducible assumption
    | with_reducible apply keeps_laneMap
    | simp -zeta only [Keeps.mk_eq]
    | split

theorem keeps_execLossOfLock {s u : State} {a0} {a1} {t : State} (h : Keeps s u) (ht : execLossOfLock a0 a1 u = .next t) : Keeps s t := by
  refine keeps_event h (fun _ hy => ?_) ht
  repeat' first
    | with_reducible assumption
    | with_reducible apply keeps_modPort
    | simp -zeta only [Keeps.mk_eq]
    | split

theorem keeps_execMacAge {s u : State} {a0} {a1} {t : State} (h : Keeps s u) (ht : execMacAge a0 a1 u = .next t) : Keeps s t := by
  refine keeps_event h (fun _ hy => ?_) ht
  repeat' first
    | with_reducible assumption
    | simp -zeta only [Keeps.mk_eq]
    | split

theorem keeps_nakIn {s u : State} {a0} {a1} (h : Keeps s u) : Keeps s (nakIn a0 a1 u) := by
  unfold nakIn
  dsimp only
  repeat' first
    | with_reducible assumption
    | with_reducible apply keeps_modPort
    | with_reducible apply keeps_resend
    | simp -zeta only [Keeps.mk_eq]
    | split

theorem keeps_execNak {s u : State} {a0} {a1} {a2} {t : State} (h : Keeps s u) (ht : execNak a0 a1 a2 u = .next t) : Keeps s t := by
  refine keeps_event h (fun _ hy => ?_) ht
  repeat' first
    | with_reducible assumption
    | with_reducible refine keeps_onCtrl ?_ (fun y0 hy => ?_)
    | with_reducible apply keeps_nakIn
    | simp -zeta only [Keeps.mk_eq]
    | split

theorem keeps_execPauseExpiry {s u : State} {a0} {a1} {t : State} (h : Keeps s u) (ht : execPauseExpiry a0 a1 u = .next t) : Keeps s t := keeps_event h (fun _ hy => keeps_modPort hy) ht

theorem keeps_execRegainsLock {s u : State} {a0} {a1} {t : State} (h : Keeps s u) (ht : execRegainsLock a0 a1 u = .next t) : Keeps s t := keeps_event h (fun _ hy => keeps_modPort hy) ht

theorem keeps_restripeDone {s u : State} {a0} (h : Keeps s u) : Keeps s (restripeDone a0 u) := by
  unfold restripeDone
  repeat' first
    | with_reducible assumption
    | with_reducible apply keeps_sendFlit
    | with_reducible apply keeps_matchMaps
    | with_reducible apply keeps_modPort
    | split

theorem keeps_execRestripeDone {s u : State} {a0} {t : State} (h : Keeps s u) (ht : execRestripeDone a0 u = .next t) : Keeps s t := keeps_event h (fun _ hy => keeps_restripeDone hy) ht

theorem keeps_retryTo {s u : State} {a0} (h : Keeps s u) : Keeps s (retryTo a0 u) := by
  unfold retryTo
  repeat' first
    | with_reducible assumption
    | with_reducible apply keeps_resend
    | with_reducible apply keeps_modPort
    | split

theorem keeps_execRetryTo {s u : State} {a0} {t : State} (h : Keeps s u) (ht : execRetryTo a0 u = .next t) : Keeps s t := keeps_event h (fun _ hy => keeps_retryTo hy) ht

theorem keeps_trainingDone {s u : State} {a0} (h : Keeps s u) : Keeps s (trainingDone a0 u) := by
  unfold trainingDone
  repeat' first
    | with_reducible assumption
    | with_reducible apply keeps_modPort
    | split

theorem keeps_execTrainingDone {s u : State} {a0} {t : State} (h : Keeps s u) (ht : execTrainingDone a0 u = .next t) : Keeps s t := keeps_event h (fun _ hy => keeps_trainingDone hy) ht

theorem keeps_execTrainingTimeout {s u : State} {a0} {t : State} (h : Keeps s u) (ht : execTrainingTimeout a0 u = .next t) : Keeps s t := by
  refine keeps_event h (fun _ hy => ?_) ht
  repeat' first
    | with_reducible assumption
    | with_reducible apply keeps_modPort
    | simp -zeta only [Keeps.mk_eq]
    | split

theorem keeps_xoffRefresh {s u : State} {a0} (h : Keeps s u) : Keeps s (xoffRefresh a0 u) := by
  unfold xoffRefresh
  repeat' first
    | with_reducible assumption
    | with_reducible apply keeps_settlePfc
    | with_reducible apply keeps_sendPfc
    | simp -zeta only [Keeps.mk_eq]

theorem keeps_execXoffRefresh {s u : State} {a0} {t : State} (h : Keeps s u) (ht : execXoffRefresh a0 u = .next t) : Keeps s t := keeps_event h (fun _ hy => keeps_xoffRefresh hy) ht

theorem keeps_planned {s u : State} {a1} (h : Keeps s u) : Keeps s (planned u a1) := h

theorem keeps_modPlan {s u : State} {a1} (h : Keeps s u) : Keeps s (modPlan u a1) := h

theorem keeps_settleQuiesce {s u : State}  (h : Keeps s u) : Keeps s (settleQuiesce u) := h

theorem keeps_withdraw {s u : State} {a1} {a2} (h : Keeps s u) : Keeps s (withdraw u a1 a2) := h

theorem keeps_abandon {s u : State} {a1} {a2} {a3} {a4} (h : Keeps s u) : Keeps s (abandon u a1 a2 a3 a4) := by
  unfold abandon
  repeat' first
    | with_reducible assumption
    | with_reducible apply keeps_withdraw
    | with_reducible apply keeps_settleQuiesce
    | with_reducible apply keeps_modPlan
    | with_reducible apply keeps_complete
    | simp -zeta only [Keeps.mk_eq]

theorem keeps_applyDomain {s u : State} {a1} (h : Keeps s u) : Keeps s (applyDomain u a1) := by
  unfold applyDomain
  dsimp only
  repeat' first
    | with_reducible assumption
    | with_reducible apply keeps_modDom
    | simp -zeta only [Keeps.mk_eq]
    | split

theorem keeps_applyFault {s u : State} {a0} {a2} (h : Keeps s u) : Keeps s (applyFault a0 u a2) := by
  unfold applyFault
  dsimp only
  repeat' first
    | with_reducible assumption
    | with_reducible apply keeps_modPlan
    | with_reducible apply keeps_raiseAt
    | with_reducible apply keeps_modPlot
    | with_reducible apply keeps_modPort
    | with_reducible apply keeps_modShare
    | with_reducible refine Keeps.foldl ?_ (fun v y hv => ?_)
    | simp -zeta only [Keeps.mk_eq]
    | split

theorem keeps_domainLost {s u : State} {a1} (h : Keeps s u) : Keeps s (domainLost u a1) := by
  unfold domainLost
  dsimp only
  repeat' first
    | with_reducible assumption
    | with_reducible apply keeps_modPlot
    | with_reducible apply keeps_eraseKeys
    | simp -zeta only [Keeps.mk_eq]
    | split

theorem keeps_loadGroups {s u : State} {a1} (h : Keeps s u) : Keeps s (loadGroups u a1) := by
  unfold loadGroups
  dsimp only
  repeat' first
    | with_reducible assumption
    | with_reducible exact mem_wf_writes _ _ _
    | with_reducible refine Keeps.foldl ?_ (fun v y hv => ?_)
    | simp -zeta only [Keeps.mk_eq]
    | split
    | with_reducible apply Keeps.mkGran

theorem keeps_applyPlan {s u : State} {a1 : _} (h : Keeps s u) :
    Keeps s (applyPlan u a1) := by
  unfold applyPlan
  repeat' first
    | with_reducible assumption
    | with_reducible exact mem_wf_writes _ _ _
    | with_reducible exact mem_wf_zero _ _ _
    | with_reducible exact mem_wf_none
    | (intros; with_reducible assumption)
    | with_reducible apply keeps_awaitOps
    | with_reducible apply keeps_modPlan
    | with_reducible apply keeps_modPort
    | with_reducible apply keeps_applyDomain
    | with_reducible apply keeps_domainLost
    | with_reducible apply keeps_modPlot
    | with_reducible apply keeps_loadGroups
    | unfold x
    | simp -zeta only [Keeps.mk_eq]
    | with_reducible refine Keeps.foldl ?_ (fun v y hv => ?_)
    | with_reducible refine Keeps.foldl1 ?_ (fun v y hv => ?_)
    | (intro (x : State); refine Keeps.cut (s := s) (x := x) ?_ ?_)
    | (intro (x : State × _); refine Keeps.cut (s := s) (x := x.1) ?_ ?_)
    | (intro (hx : Keeps _ _); try clear_value x)
    | intro (x : State → _)
    | intro (x : _ → State → _)
    | (intro x; clear_value x)
    | intro x
    | (lift_lets; fail_if_success with_reducible assumption; intro (x : State); refine Keeps.cut (s := s) (x := x) ?_ ?_)
    | (lift_lets; intro (x : State → _))
    | (lift_lets; intro (x : _ → State → _))
    | (lift_lets; intro x; clear_value x)
    | (lift_lets; intro x)
    | (with_reducible apply Keeps.pair; with_reducible assumption)
    | split
    | with_reducible apply Keeps.mkGran

theorem keeps_clearCounts {s u : State}  (h : Keeps s u) : Keeps s (clearCounts u) := h

theorem keeps_clearFields {s u : State} {a1} {a2} (h : Keeps s u) : Keeps s (clearFields u a1 a2) := h

theorem keeps_commitLoadEnd {s u : State}  (h : Keeps s u) : Keeps s (commitLoadEnd u) := by
  unfold commitLoadEnd
  repeat' first
    | with_reducible assumption
    | with_reducible apply keeps_loadGroups
    | with_reducible apply keeps_modPlan
    | split

theorem keeps_committed {s u : State} {a1} (h : Keeps s u) : Keeps s (committed u a1) := by
  unfold committed
  repeat' first
    | with_reducible assumption
    | with_reducible apply keeps_modPlan
    | with_reducible apply keeps_complete
    | simp -zeta only [Keeps.mk_eq]

theorem keeps_countRefresh {s u : State}  (h : Keeps s u) : Keeps s (countRefresh u) := h

theorem keeps_execCommitLoadEnd {s u : State} {t : State} (h : Keeps s u) (ht : execCommitLoadEnd u = .next t) : Keeps s t := keeps_event h (fun _ hy => keeps_commitLoadEnd hy) ht

theorem keeps_headlandArm {s u : State} {a0} (h : Keeps s u) : Keeps s (headlandArm a0 u) := by
  unfold headlandArm
  dsimp only
  repeat' first
    | with_reducible assumption
    | with_reducible apply keeps_cmdDone
    | with_reducible apply keeps_modPlan
    | simp -zeta only [Keeps.mk_eq]
    | split

theorem keeps_execHeadlandArm {s u : State} {a0} {t : State} (h : Keeps s u) (ht : execHeadlandArm a0 u = .next t) : Keeps s t := keeps_onCmd h (fun _ hy => keeps_headlandArm hy) ht

theorem keeps_stepReport {s u : State}  (h : Keeps s u) : Keeps s (stepReport u) := by
  unfold stepReport
  dsimp only
  repeat' first
    | with_reducible assumption
    | with_reducible apply keeps_countRefresh
    | with_reducible apply keeps_tally
    | simp -zeta only [Keeps.mk_eq]
    | split

theorem keeps_yokeStep {s u : State} {a1} {a2} {a3} {a4} {a5} (h : Keeps s u) : Keeps s (yokeStep u a1 a2 a3 a4 a5) := by
  unfold yokeStep
  repeat' first
    | with_reducible assumption
    | with_reducible apply keeps_raiseBy
    | with_reducible apply keeps_tally
    | split
    | simp -zeta only [Keeps.mk_eq]

theorem keeps_yokeJudge {s u : State}  (h : Keeps s u) : Keeps s (yokeJudge u) := by
  unfold yokeJudge
  repeat' first
    | with_reducible assumption
    | with_reducible apply keeps_yokeStep
    | split

theorem keeps_yokeClose {s u : State}  (h : Keeps s u) : Keeps s (yokeClose u) := by
  unfold yokeClose
  repeat' first
    | with_reducible assumption
    | with_reducible apply keeps_yokeStep
    | with_reducible apply keeps_yokeJudge
    | with_reducible apply keeps_sendPeer
    | with_reducible apply keeps_mgtCount
    | split
    | simp -zeta only [Keeps.mk_eq]

theorem keeps_flip {s u : State} {a1} (h : Keeps s u) : Keeps s (Sys2Proof.Machine.flip u a1) := by
  unfold Sys2Proof.Machine.flip
  dsimp only
  repeat' first
    | with_reducible assumption
    | with_reducible apply keeps_clearCounts
    | with_reducible apply keeps_modPlan
    | with_reducible apply keeps_collRestart
    | with_reducible apply keeps_clearFields
    | simp -zeta only [Keeps.mk_eq]
    | split

theorem keeps_liftAt {s u : State}  (h : Keeps s u) : Keeps s (liftAt u) := by
  unfold liftAt
  dsimp only
  repeat' first
    | with_reducible assumption
    | with_reducible apply keeps_liftAll
    | simp -zeta only [Keeps.mk_eq]
    | split

theorem keeps_headlandPass {s u : State} (h : Keeps s u) : Keeps s (headlandPass u) := by
  unfold headlandPass
  dsimp only
  repeat' first
    | with_reducible assumption
    | with_reducible apply keeps_stepReport
    | with_reducible apply keeps_stepClose
    | with_reducible apply keeps_yokeClose
    | with_reducible apply keeps_modPlan
    | with_reducible apply keeps_committed
    | with_reducible apply keeps_flip
    | with_reducible apply keeps_afterHedge
    | with_reducible apply keeps_liftAt
    | simp -zeta only [Keeps.mk_eq]
    | split

theorem keeps_execHeadlandPass {s u : State} {t : State} (h : Keeps s u) (ht : execHeadlandPass u = .next t) : Keeps s t := keeps_event h (fun _ hy => keeps_headlandPass hy) ht

theorem keeps_planAbandoned {s u : State}  (h : Keeps s u) : Keeps s (planAbandoned u) := by
  unfold planAbandoned
  dsimp only
  repeat' first
    | with_reducible assumption
    | with_reducible apply keeps_abandon
    | simp -zeta only [Keeps.mk_eq]
    | split

theorem keeps_execPlanAbandoned {s u : State} {t : State} (h : Keeps s u) (ht : execPlanAbandoned u = .next t) : Keeps s t := keeps_event h (fun _ hy => keeps_planAbandoned hy) ht

theorem keeps_onSlot {s u : State} {a0 : _} {a1 : _} {a2 : _} {a3 : _} {f5 : _} {t : State} (h : Keeps s u) (hf5 : ∀ y0, Keeps s y0 → Keeps s (f5 y0)) (ht : onSlot a0 a1 a2 a3 u f5 = .next t) :
    Keeps s t := by
  unfold onSlot at ht
  repeat' first
    | (with_reducible refine keeps_onCmd h (fun y0 hy => ?_) ht; clear ht)
    | split at ht
    | cases ht
    | with_reducible assumption
    | with_reducible exact mem_wf_writes _ _ _
    | with_reducible exact mem_wf_zero _ _ _
    | with_reducible exact mem_wf_none
    | (intros; with_reducible assumption)
    | with_reducible apply hf5
    | with_reducible apply keeps_cmdDone
    | unfold x
    | simp -zeta only [Keeps.mk_eq]
    | with_reducible refine Keeps.foldl ?_ (fun v y hv => ?_)
    | with_reducible refine Keeps.foldl1 ?_ (fun v y hv => ?_)
    | (intro (x : State); refine Keeps.cut (s := s) (x := x) ?_ ?_)
    | (intro (x : State × _); refine Keeps.cut (s := s) (x := x.1) ?_ ?_)
    | (intro (hx : Keeps _ _); try clear_value x)
    | intro (x : State → _)
    | intro (x : _ → State → _)
    | (intro x; clear_value x)
    | intro x
    | (lift_lets; fail_if_success with_reducible assumption; intro (x : State); refine Keeps.cut (s := s) (x := x) ?_ ?_)
    | (lift_lets; intro (x : State → _))
    | (lift_lets; intro (x : _ → State → _))
    | (lift_lets; intro x; clear_value x)
    | (lift_lets; intro x)
    | (with_reducible apply Keeps.pair; with_reducible assumption)
    | split
    | with_reducible apply Keeps.mkGran

theorem keeps_planCancel {s u : State} {a0} (h : Keeps s u) : Keeps s (planCancel a0 u) := by
  unfold planCancel
  repeat' first
    | with_reducible assumption
    | with_reducible apply keeps_cmdDone
    | with_reducible apply keeps_withdraw
    | split

theorem keeps_execPlanCancel {s u : State} {a0} {t : State} (h : Keeps s u) (ht : execPlanCancel a0 u = .next t) : Keeps s t := keeps_onSlot h (fun _ hy => keeps_planCancel hy) ht

theorem keeps_planCommit {s u : State} {a0} (h : Keeps s u) : Keeps s (planCommit a0 u) := by
  unfold planCommit
  dsimp only
  repeat' first
    | with_reducible assumption
    | with_reducible apply keeps_cmdDone
    | with_reducible apply keeps_modPlan
    | with_reducible apply keeps_withdraw
    | simp -zeta only [Keeps.mk_eq]
    | split

theorem keeps_execPlanCommit {s u : State} {a0} {t : State} (h : Keeps s u) (ht : execPlanCommit a0 u = .next t) : Keeps s t := keeps_onSlot h (fun _ hy => keeps_planCommit hy) ht

theorem keeps_planCommitted {s u : State} {a0 : _} (h : Keeps s u) :
    Keeps s (planCommitted a0 u) := by
  unfold planCommitted
  repeat' first
    | with_reducible assumption
    | with_reducible exact mem_wf_writes _ _ _
    | with_reducible exact mem_wf_zero _ _ _
    | with_reducible exact mem_wf_none
    | (intros; with_reducible assumption)
    | with_reducible apply keeps_committed
    | with_reducible apply keeps_applyFault
    | with_reducible apply keeps_applyPlan
    | unfold x
    | simp -zeta only [Keeps.mk_eq]
    | with_reducible refine Keeps.foldl ?_ (fun v y hv => ?_)
    | with_reducible refine Keeps.foldl1 ?_ (fun v y hv => ?_)
    | (intro (x : State); refine Keeps.cut (s := s) (x := x) ?_ ?_)
    | (intro (x : State × _); refine Keeps.cut (s := s) (x := x.1) ?_ ?_)
    | (intro (hx : Keeps _ _); try clear_value x)
    | intro (x : State → _)
    | intro (x : _ → State → _)
    | (intro x; clear_value x)
    | intro x
    | (lift_lets; fail_if_success with_reducible assumption; intro (x : State); refine Keeps.cut (s := s) (x := x) ?_ ?_)
    | (lift_lets; intro (x : State → _))
    | (lift_lets; intro (x : _ → State → _))
    | (lift_lets; intro x; clear_value x)
    | (lift_lets; intro x)
    | (with_reducible apply Keeps.pair; with_reducible assumption)
    | split
    | with_reducible apply Keeps.mkGran

theorem keeps_execPlanCommitted {s u : State} {a0} {t : State} (h : Keeps s u) (ht : execPlanCommitted a0 u = .next t) : Keeps s t := keeps_event h (fun _ hy => keeps_planCommitted hy) ht

theorem keeps_planLoftUe {s u : State}  (h : Keeps s u) : Keeps s (planLoftUe u) := by
  unfold planLoftUe
  repeat' first
    | with_reducible assumption
    | with_reducible apply keeps_raiseCount
    | with_reducible apply keeps_abandon
    | with_reducible apply keeps_modPlan
    | split

theorem keeps_execPlanLoftUe {s u : State} {t : State} (h : Keeps s u) (ht : execPlanLoftUe u = .next t) : Keeps s t := keeps_event h (fun _ hy => keeps_planLoftUe hy) ht

theorem keeps_planStage {s u : State} {a0} {a1} {a2} (h : Keeps s u) : Keeps s (planStage a0 a1 a2 u) := by
  unfold planStage
  dsimp only
  repeat' first
    | with_reducible assumption
    | with_reducible apply keeps_cmdDone
    | with_reducible apply keeps_slotWrite
    | simp -zeta only [Keeps.mk_eq]
    | split

theorem keeps_execPlanStage {s u : State} {a0} {a1} {a2} {t : State} (h : Keeps s u) (ht : execPlanStage a0 a1 a2 u = .next t) : Keeps s t := keeps_onCmd h (fun _ hy => keeps_planStage hy) ht

theorem keeps_planValidate {s u : State} {a0} (h : Keeps s u) : Keeps s (planValidate a0 u) := by
  unfold planValidate
  dsimp only
  repeat' first
    | with_reducible assumption
    | with_reducible apply keeps_cmdDone
    | with_reducible apply keeps_modPlan
    | simp -zeta only [Keeps.mk_eq]
    | split

theorem keeps_execPlanValidate {s u : State} {a0} {t : State} (h : Keeps s u) (ht : execPlanValidate a0 u = .next t) : Keeps s t := keeps_onSlot h (fun _ hy => keeps_planValidate hy) ht

theorem keeps_planValidated {s u : State} {a0} (h : Keeps s u) : Keeps s (planValidated a0 u) := by
  unfold planValidated
  dsimp only
  repeat' first
    | with_reducible assumption
    | with_reducible apply keeps_modPlan
    | with_reducible apply keeps_tally
    | with_reducible apply keeps_complete
    | with_reducible refine Keeps.foldl ?_ (fun v y hv => ?_)
    | simp -zeta only [Keeps.mk_eq]
    | split

theorem keeps_execPlanValidated {s u : State} {a0} {t : State} (h : Keeps s u) (ht : execPlanValidated a0 u = .next t) : Keeps s t := keeps_event h (fun _ hy => keeps_planValidated hy) ht

theorem keeps_planWrite {s u : State} {a0} (h : Keeps s u) : Keeps s (planWrite a0 u) := by
  unfold planWrite
  repeat' first
    | with_reducible assumption
    | with_reducible apply keeps_cmdDone
    | with_reducible apply keeps_slotWrite
    | split

theorem keeps_execPlanWrite {s u : State} {a0} {t : State} (h : Keeps s u) (ht : execPlanWrite a0 u = .next t) : Keeps s t := keeps_onCmd h (fun _ hy => keeps_planWrite hy) ht

theorem keeps_quiescing {s u : State}  (h : Keeps s u) : Keeps s (quiescing u) := by
  unfold quiescing
  repeat' first
    | with_reducible assumption
    | with_reducible apply keeps_modPlan
    | split

theorem keeps_execQuiescing {s u : State} {t : State} (h : Keeps s u) (ht : execQuiescing u = .next t) : Keeps s t := keeps_event h (fun _ hy => keeps_quiescing hy) ht

theorem keeps_regRead {s u : State} {a0} (h : Keeps s u) : Keeps s (regRead a0 u) := by
  unfold regRead
  repeat' first
    | with_reducible assumption
    | with_reducible apply keeps_countRefresh
    | with_reducible apply keeps_cmdDone
    | split

theorem keeps_execRegRead {s u : State} {a0} {t : State} (h : Keeps s u) (ht : execRegRead a0 u = .next t) : Keeps s t := keeps_onCmd h (fun _ hy => keeps_regRead hy) ht

theorem keeps_preempt {s u : State} {a1} {a2} (h : Keeps s u) : Keeps s (preempt u a1 a2) := keeps_tally h

theorem keeps_modClk {s u : State} {a1} (h : Keeps s u) : Keeps s (modClk u a1) := h

theorem keeps_wrTbCtl {s u : State} {a1} (h : Keeps s u) : Keeps s (wrTbCtl u a1).1 := by
  unfold wrTbCtl
  repeat' first
    | with_reducible assumption
    | with_reducible apply keeps_settleWrite
    | with_reducible apply keeps_modClk
    | split

theorem keeps_writeCw {s u : State} {a1} {a2} (h : Keeps s u) : Keeps s (writeCw u a1 a2).1 := by
  unfold writeCw
  repeat' first
    | with_reducible assumption
    | with_reducible apply keeps_wrDoorbell
    | with_reducible apply keeps_wrTallySeen
    | with_reducible apply keeps_wrRingCfg
    | with_reducible apply keeps_wrTbCtl
    | split

theorem keeps_write32 {s u : State} {a1} {a2} {a3} (h : Keeps s u) : Keeps s (write32 u a1 a2 a3) := by
  unfold write32
  repeat' first
    | with_reducible assumption
    | with_reducible apply keeps_wrTallyStatus
    | with_reducible apply keeps_wrIntCtl
    | with_reducible apply keeps_wrIntMask
    | with_reducible apply keeps_wrIntStatus
    | with_reducible apply keeps_modClk
    | with_reducible apply keeps_wrMemCtl
    | with_reducible apply keeps_wrGleanTail
    | split
    | simp -zeta only [Keeps.mk_eq]

theorem keeps_writeReg {s u : State} {a1} {a2} (h : Keeps s u) : Keeps s (writeReg u a1 a2).1 := by
  unfold writeReg
  dsimp only
  repeat' first
    | with_reducible assumption
    | with_reducible apply keeps_writeCw
    | with_reducible apply keeps_write32
    | simp -zeta only [Keeps.mk_eq]
    | split

theorem keeps_regWrite {s u : State} {a0} {a1} (h : Keeps s u) : Keeps s (regWrite a0 a1 u) := by
  unfold regWrite
  repeat' first
    | with_reducible assumption
    | with_reducible apply keeps_preempt
    | with_reducible apply keeps_writeReg
    | with_reducible apply keeps_cmdDone
    | split

theorem keeps_execRegWrite {s u : State} {a0} {a1} {t : State} (h : Keeps s u) (ht : execRegWrite a0 a1 u = .next t) : Keeps s t := keeps_onCmd h (fun _ hy => keeps_regWrite hy) ht

theorem keeps_execRegisterWrite {s u : State} {a0} {a1} {t : State} (h : Keeps s u) (ht : execRegisterWrite a0 a1 u = .next t) : Keeps s t := by
  refine keeps_always h (fun _ hy => ?_) ht
  repeat' first
    | with_reducible assumption
    | with_reducible apply keeps_writeReg
    | simp -zeta only [Keeps.mk_eq]
    | split

theorem keeps_tallyRead {s u : State} {a0} (h : Keeps s u) : Keeps s (tallyRead a0 u) := by
  unfold tallyRead
  dsimp only
  repeat' first
    | with_reducible assumption
    | with_reducible apply keeps_cmdDone
    | simp -zeta only [Keeps.mk_eq]
    | split

theorem keeps_execTallyRead {s u : State} {a0} {t : State} (h : Keeps s u) (ht : execTallyRead a0 u = .next t) : Keeps s t := keeps_onCmd h (fun _ hy => keeps_tallyRead hy) ht

theorem keeps_execTbCtl {s u : State} {a0} {t : State} (h : Keeps s u) (ht : execTbCtl a0 u = .next t) : Keeps s t := by
  refine keeps_always h (fun _ hy => ?_) ht
  repeat' first
    | with_reducible assumption
    | with_reducible apply keeps_wrTbCtl
    | simp -zeta only [Keeps.mk_eq]
    | split

theorem keeps_setTarget {s u : State} {a1} {a2} {a3} {a4} {a5} {a6} (h : Keeps s u) : Keeps s (setTarget u a1 a2 a3 a4 a5 a6) := by
  unfold setTarget
  repeat' first
    | with_reducible assumption
    | with_reducible apply keeps_afterHedge
    | with_reducible apply keeps_setLocal
    | with_reducible apply keeps_applyNotice
    | split

theorem keeps_admitCmd {s u : State} {a0} (h : Keeps s u) : Keeps s (admitCmd a0 u) := by
  unfold admitCmd
  dsimp only
  repeat' first
    | with_reducible assumption
    | with_reducible apply keeps_cmdDone
    | with_reducible apply keeps_recoveryDone
    | with_reducible apply keeps_setTarget
    | simp -zeta only [Keeps.mk_eq]
    | split

theorem keeps_admitOpen {s u : State} {a0} (h : Keeps s u) : Keeps s (admitOpen a0 u) := by
  unfold admitOpen
  dsimp only
  repeat' first
    | with_reducible assumption
    | with_reducible apply keeps_recoveryDone
    | with_reducible apply keeps_setTarget
    | simp -zeta only [Keeps.mk_eq]
    | split

theorem keeps_onAdmit {s u : State} {a0} {a1} {t : State} (h : Keeps s u) (ht : onAdmit a0 a1 u = .next t) : Keeps s t := keeps_onCmd h (fun _ hy => keeps_admitCmd hy) ht

theorem keeps_execAdmitCompatibility {s u : State} {a0} {t : State} (h : Keeps s u) (ht : execAdmitCompatibility a0 u = .next t) : Keeps s t := keeps_onAdmit h ht

theorem keeps_execAdmitDirect {s u : State} {a0} {t : State} (h : Keeps s u) (ht : execAdmitDirect a0 u = .next t) : Keeps s t := keeps_onAdmit h ht

theorem keeps_execAdmitNative {s u : State} {a0} {t : State} (h : Keeps s u) (ht : execAdmitNative a0 u = .next t) : Keeps s t := keeps_onAdmit h ht

theorem keeps_execAdmitOpen {s u : State} {a0} {t : State} (h : Keeps s u) (ht : execAdmitOpen a0 u = .next t) : Keeps s t := keeps_onCmd h (fun _ hy => keeps_admitOpen hy) ht

theorem keeps_modGran {s u : State} {a1} {a2} (h : Keeps s u) : Keeps s (modGran u a1 a2) := h

theorem keeps_losesShares {s u : State} {a1 : _} (h : Keeps s u) :
    Keeps s (losesShares u a1) := by
  unfold losesShares
  repeat' first
    | with_reducible assumption
    | with_reducible exact mem_wf_writes _ _ _
    | with_reducible exact mem_wf_zero _ _ _
    | with_reducible exact mem_wf_none
    | (intros; with_reducible assumption)
    | with_reducible apply keeps_abortUnfinished
    | with_reducible apply keeps_modShare
    | unfold x
    | simp -zeta only [Keeps.mk_eq]
    | with_reducible refine Keeps.foldl ?_ (fun v y hv => ?_)
    | with_reducible refine Keeps.foldl1 ?_ (fun v y hv => ?_)
    | (intro (x : State); refine Keeps.cut (s := s) (x := x) ?_ ?_)
    | (intro (x : State × _); refine Keeps.cut (s := s) (x := x.1) ?_ ?_)
    | (intro (hx : Keeps _ _); try clear_value x)
    | intro (x : State → _)
    | intro (x : _ → State → _)
    | (intro x; clear_value x)
    | intro x
    | (lift_lets; fail_if_success with_reducible assumption; intro (x : State); refine Keeps.cut (s := s) (x := x) ?_ ?_)
    | (lift_lets; intro (x : State → _))
    | (lift_lets; intro (x : _ → State → _))
    | (lift_lets; intro x; clear_value x)
    | (lift_lets; intro x)
    | (with_reducible apply Keeps.pair; with_reducible assumption)
    | split
    | with_reducible apply Keeps.mkGran

theorem keeps_losesSources {s u : State}  (h : Keeps s u) : Keeps s (losesSources u) := by
  unfold losesSources
  dsimp only
  repeat' first
    | with_reducible assumption
    | with_reducible apply keeps_raise
    | with_reducible refine Keeps.foldl ?_ (fun v y hv => ?_)
    | simp -zeta only [Keeps.mk_eq]
    | split

theorem keeps_losesLoft {s u : State}  (h : Keeps s u) : Keeps s (losesLoft u) := by
  unfold losesLoft
  dsimp only
  repeat' first
    | with_reducible assumption
    | with_reducible apply keeps_planLoftUe
    | with_reducible apply keeps_cmdDone
    | with_reducible apply keeps_withdraw
    | with_reducible apply keeps_modPlan
    | with_reducible refine Keeps.foldl ?_ (fun v y hv => ?_)
    | simp -zeta only [Keeps.mk_eq]
    | split

theorem keeps_granaryFail {s u : State} {a0} (h : Keeps s u) : Keeps s (granaryFail a0 u) := by
  unfold granaryFail
  repeat' first
    | with_reducible assumption
    | with_reducible apply keeps_modGran
    | with_reducible apply keeps_raise
    | with_reducible apply keeps_stageOnFence
    | with_reducible apply keeps_losesShares
    | with_reducible apply keeps_losesSources
    | with_reducible apply keeps_losesLoft
    | split

theorem keeps_execGranaryFail {s u : State} {a0} {t : State} (h : Keeps s u) (ht : execGranaryFail a0 u = .next t) : Keeps s t := keeps_event h (fun _ hy => keeps_granaryFail hy) ht

theorem keeps_granaryReadmit {s u : State} {a0} (h : Keeps s u) : Keeps s (granaryReadmit a0 u) := by
  unfold granaryReadmit
  dsimp only
  repeat' first
    | with_reducible assumption
    | with_reducible apply keeps_recoveryDone
    | with_reducible apply keeps_modGran
    | with_reducible apply keeps_keep
    | with_reducible apply keeps_cmdDone
    | simp -zeta only [Keeps.mk_eq]
    | split

theorem keeps_execGranaryReadmit {s u : State} {a0} {t : State} (h : Keeps s u) (ht : execGranaryReadmit a0 u = .next t) : Keeps s t := keeps_onCmd h (fun _ hy => keeps_granaryReadmit hy) ht

theorem keeps_granaryReadmitDone {s u : State} {a0 : _} (h : Keeps s u) :
    Keeps s (granaryReadmitDone a0 u) := by
  unfold granaryReadmitDone
  repeat' first
    | with_reducible assumption
    | with_reducible exact mem_wf_writes _ _ _
    | with_reducible exact mem_wf_zero _ _ _
    | with_reducible exact mem_wf_none
    | (intros; with_reducible assumption)
    | with_reducible apply keeps_modGran
    | with_reducible apply keeps_modDom
    | with_reducible apply keeps_recoveryDone
    | unfold x
    | simp -zeta only [Keeps.mk_eq]
    | with_reducible refine Keeps.foldl ?_ (fun v y hv => ?_)
    | with_reducible refine Keeps.foldl1 ?_ (fun v y hv => ?_)
    | (intro (x : State); refine Keeps.cut (s := s) (x := x) ?_ ?_)
    | (intro (x : State × _); refine Keeps.cut (s := s) (x := x.1) ?_ ?_)
    | (intro (hx : Keeps _ _); try clear_value x)
    | intro (x : State → _)
    | intro (x : _ → State → _)
    | (intro x; clear_value x)
    | intro x
    | (lift_lets; fail_if_success with_reducible assumption; intro (x : State); refine Keeps.cut (s := s) (x := x) ?_ ?_)
    | (lift_lets; intro (x : State → _))
    | (lift_lets; intro (x : _ → State → _))
    | (lift_lets; intro x; clear_value x)
    | (lift_lets; intro x)
    | (with_reducible apply Keeps.pair; with_reducible assumption)
    | split
    | with_reducible apply Keeps.mkGran

theorem keeps_execGranaryReadmitDone {s u : State} {a0} {t : State} (h : Keeps s u) (ht : execGranaryReadmitDone a0 u = .next t) : Keeps s t := keeps_event h (fun _ hy => keeps_granaryReadmitDone hy) ht

theorem keeps_granaryReady {s u : State}  (h : Keeps s u) :
    Keeps s (granaryReady u) := by
  unfold granaryReady
  repeat' first
    | with_reducible assumption
    | with_reducible exact mem_wf_writes _ _ _
    | with_reducible exact mem_wf_zero _ _ _
    | with_reducible exact mem_wf_none
    | (intros; with_reducible assumption)
    | unfold x
    | simp -zeta only [Keeps.mk_eq]
    | with_reducible refine Keeps.foldl ?_ (fun v y hv => ?_)
    | with_reducible refine Keeps.foldl1 ?_ (fun v y hv => ?_)
    | (intro (x : State); refine Keeps.cut (s := s) (x := x) ?_ ?_)
    | (intro (x : State × _); refine Keeps.cut (s := s) (x := x.1) ?_ ?_)
    | (intro (hx : Keeps _ _); try clear_value x)
    | intro (x : State → _)
    | intro (x : _ → State → _)
    | (intro x; clear_value x)
    | intro x
    | (lift_lets; fail_if_success with_reducible assumption; intro (x : State); refine Keeps.cut (s := s) (x := x) ?_ ?_)
    | (lift_lets; intro (x : State → _))
    | (lift_lets; intro (x : _ → State → _))
    | (lift_lets; intro x; clear_value x)
    | (lift_lets; intro x)
    | (with_reducible apply Keeps.pair; with_reducible assumption)
    | split
    | with_reducible apply Keeps.mkGran

theorem keeps_execGranaryReady {s u : State} {t : State} (h : Keeps s u) (ht : execGranaryReady u = .next t) : Keeps s t := keeps_event h (fun _ hy => keeps_granaryReady hy) ht

theorem keeps_hedgeAdd {s u : State} {a0} (h : Keeps s u) : Keeps s (hedgeAdd a0 u) := by
  unfold hedgeAdd
  dsimp only
  repeat' first
    | with_reducible assumption
    | with_reducible apply keeps_cmdDone
    | with_reducible apply keeps_recoveryDone
    | with_reducible apply keeps_setTarget
    | simp -zeta only [Keeps.mk_eq]
    | split

theorem keeps_execHedgeAdd {s u : State} {a0} {t : State} (h : Keeps s u) (ht : execHedgeAdd a0 u = .next t) : Keeps s t := keeps_onCmd h (fun _ hy => keeps_hedgeAdd hy) ht

theorem keeps_retrain {s u : State} {a0} (h : Keeps s u) : Keeps s (retrain a0 u) := by
  unfold retrain
  repeat' first
    | with_reducible assumption
    | with_reducible refine keeps_recovery ?_ (fun y0 hy => ?_)
    | with_reducible apply keeps_modPort
    | split

theorem keeps_execPortRetrain {s u : State} {a0} {t : State} (h : Keeps s u) (ht : execPortRetrain a0 u = .next t) : Keeps s t := keeps_onCmd h (fun _ hy => keeps_retrain hy) ht

theorem keeps_testStart {s u : State} {a0 : _} (h : Keeps s u) :
    Keeps s (testStart a0 u) := by
  unfold testStart
  repeat' first
    | with_reducible assumption
    | with_reducible exact mem_wf_writes _ _ _
    | with_reducible exact mem_wf_zero _ _ _
    | with_reducible exact mem_wf_none
    | (intros; with_reducible assumption)
    | with_reducible apply keeps_modDom
    | unfold x
    | simp -zeta only [Keeps.mk_eq]
    | with_reducible refine Keeps.foldl ?_ (fun v y hv => ?_)
    | with_reducible refine Keeps.foldl1 ?_ (fun v y hv => ?_)
    | (intro (x : State); refine Keeps.cut (s := s) (x := x) ?_ ?_)
    | (intro (x : State × _); refine Keeps.cut (s := s) (x := x.1) ?_ ?_)
    | (intro (hx : Keeps _ _); try clear_value x)
    | intro (x : State → _)
    | intro (x : _ → State → _)
    | (intro x; clear_value x)
    | intro x
    | (lift_lets; fail_if_success with_reducible assumption; intro (x : State); refine Keeps.cut (s := s) (x := x) ?_ ?_)
    | (lift_lets; intro (x : State → _))
    | (lift_lets; intro (x : _ → State → _))
    | (lift_lets; intro x; clear_value x)
    | (lift_lets; intro x)
    | (with_reducible apply Keeps.pair; with_reducible assumption)
    | split
    | with_reducible apply Keeps.mkGran

theorem keeps_selfTest {s u : State} {a0} (h : Keeps s u) : Keeps s (selfTest a0 u) := by
  unfold selfTest
  dsimp only
  repeat' first
    | with_reducible assumption
    | with_reducible apply keeps_testStart
    | with_reducible apply keeps_cmdDone
    | with_reducible apply keeps_keep
    | simp -zeta only [Keeps.mk_eq]
    | split

theorem keeps_execSelfTest {s u : State} {a0} {t : State} (h : Keeps s u) (ht : execSelfTest a0 u = .next t) : Keeps s t := keeps_onCmd h (fun _ hy => keeps_selfTest hy) ht

theorem keeps_testEnd {s u : State} {a1 : _} (h : Keeps s u) :
    Keeps s (testEnd u a1) := by
  unfold testEnd
  repeat' first
    | with_reducible assumption
    | with_reducible exact mem_wf_writes _ _ _
    | with_reducible exact mem_wf_zero _ _ _
    | with_reducible exact mem_wf_none
    | (intros; with_reducible assumption)
    | with_reducible apply keeps_modDom
    | with_reducible apply keeps_domainLost
    | unfold x
    | simp -zeta only [Keeps.mk_eq]
    | with_reducible refine Keeps.foldl ?_ (fun v y hv => ?_)
    | with_reducible refine Keeps.foldl1 ?_ (fun v y hv => ?_)
    | (intro (x : State); refine Keeps.cut (s := s) (x := x) ?_ ?_)
    | (intro (x : State × _); refine Keeps.cut (s := s) (x := x.1) ?_ ?_)
    | (intro (hx : Keeps _ _); try clear_value x)
    | intro (x : State → _)
    | intro (x : _ → State → _)
    | (intro x; clear_value x)
    | intro x
    | (lift_lets; fail_if_success with_reducible assumption; intro (x : State); refine Keeps.cut (s := s) (x := x) ?_ ?_)
    | (lift_lets; intro (x : State → _))
    | (lift_lets; intro (x : _ → State → _))
    | (lift_lets; intro x; clear_value x)
    | (lift_lets; intro x)
    | (with_reducible apply Keeps.pair; with_reducible assumption)
    | split
    | with_reducible apply Keeps.mkGran

theorem keeps_selfTestDone {s u : State} {a0} (h : Keeps s u) : Keeps s (selfTestDone a0 u) := by
  unfold selfTestDone
  dsimp only
  repeat' first
    | with_reducible assumption
    | with_reducible apply keeps_testEnd
    | with_reducible apply keeps_raiseCount
    | with_reducible apply keeps_complete
    | with_reducible apply keeps_testStart
    | with_reducible refine Keeps.foldl ?_ (fun v y hv => ?_)
    | simp -zeta only [Keeps.mk_eq]
    | split

theorem keeps_execSelftestDone {s u : State} {a0} {t : State} (h : Keeps s u) (ht : execSelftestDone a0 u = .next t) : Keeps s t := keeps_event h (fun _ hy => keeps_selfTestDone hy) ht

theorem keeps_execStackCaseTemperature {s u : State} {a0} {a1} {t : State} (h : Keeps s u) (ht : execStackCaseTemperature a0 a1 u = .next t) : Keeps s t := keeps_event h (fun _ hy => keeps_modGran hy) ht

theorem keeps_yokeRole {s u : State} {a0} {a1} (h : Keeps s u) : Keeps s (yokeRole a0 a1 u) := by
  unfold yokeRole
  dsimp only
  repeat' first
    | with_reducible assumption
    | with_reducible apply keeps_recoveryDone
    | with_reducible apply keeps_cmdDone
    | with_reducible apply keeps_keep
    | simp -zeta only [Keeps.mk_eq]
    | split

theorem keeps_onYoke {s u : State} {a0} {a1} {a2} {t : State} (h : Keeps s u) (ht : onYoke a0 a1 a2 u = .next t) : Keeps s t := keeps_onCmd h (fun _ hy => keeps_yokeRole hy) ht

theorem keeps_execYokeEnd {s u : State} {a0} {t : State} (h : Keeps s u) (ht : execYokeEnd a0 u = .next t) : Keeps s t := keeps_onYoke h ht

theorem keeps_execYokePartner {s u : State} {a0} {t : State} (h : Keeps s u) (ht : execYokePartner a0 u = .next t) : Keeps s t := keeps_onYoke h ht

theorem keeps_yokeReport {s u : State} {a0} (h : Keeps s u) : Keeps s (yokeReport a0 u) := by
  unfold yokeReport
  dsimp only
  repeat' first
    | with_reducible assumption
    | with_reducible apply keeps_yokeJudge
    | with_reducible apply keeps_seeEpoch
    | with_reducible apply keeps_recoveryDone
    | with_reducible apply keeps_cmdDone
    | simp -zeta only [Keeps.mk_eq]
    | split

theorem keeps_execYokeReport {s u : State} {a0} {t : State} (h : Keeps s u) (ht : execYokeReport a0 u = .next t) : Keeps s t := keeps_onCmd h (fun _ hy => keeps_yokeReport hy) ht

theorem keeps_execYokeShadow {s u : State} {a0} {t : State} (h : Keeps s u) (ht : execYokeShadow a0 u = .next t) : Keeps s t := keeps_onYoke h ht

theorem keeps_dossierDone {s u : State}  (h : Keeps s u) : Keeps s (dossierDone u) := by
  unfold dossierDone
  repeat' first
    | with_reducible assumption
    | with_reducible apply keeps_complete
    | split
    | simp -zeta only [Keeps.mk_eq]

theorem keeps_dossierRead {s u : State} {a0} (h : Keeps s u) : Keeps s (dossierRead a0 u) := keeps_cmdDone h

theorem keeps_execDossierCapture {s u : State} {a0} {t : State} (h : Keeps s u) (ht : execDossierCapture a0 u = .next t) : Keeps s t := by
  refine keeps_onCmd h (fun _ hy => ?_) ht
  repeat' first
    | with_reducible assumption
    | simp -zeta only [Keeps.mk_eq]
    | split

theorem keeps_execDossierDone {s u : State} {t : State} (h : Keeps s u) (ht : execDossierDone u = .next t) : Keeps s t := keeps_always h (fun _ hy => keeps_dossierDone hy) ht

theorem keeps_execDossierRead {s u : State} {a0} {t : State} (h : Keeps s u) (ht : execDossierRead a0 u = .next t) : Keeps s t := keeps_onCmd h (fun _ hy => keeps_dossierRead hy) ht

theorem keeps_fwUpdate {s u : State} {a0} {a1} (h : Keeps s u) : Keeps s (fwUpdate a0 a1 u) := by
  unfold fwUpdate
  repeat' first
    | with_reducible assumption
    | with_reducible apply keeps_cmdDone
    | split
    | simp -zeta only [Keeps.mk_eq]

theorem keeps_execFwUpdate {s u : State} {a0} {a1} {t : State} (h : Keeps s u) (ht : execFwUpdate a0 a1 u = .next t) : Keeps s t := keeps_onCmd h (fun _ hy => keeps_fwUpdate hy) ht

theorem keeps_warmCmd {s u : State} {a0} (h : Keeps s u) : Keeps s (warmCmd a0 u) := by
  unfold warmCmd
  repeat' first
    | with_reducible assumption
    | with_reducible apply keeps_cmdDone
    | split
    | simp -zeta only [Keeps.mk_eq]

theorem keeps_execWarmReset {s u : State} {a0} {t : State} (h : Keeps s u) (ht : execWarmReset a0 u = .next t) : Keeps s t := keeps_onCmd h (fun _ hy => keeps_warmCmd hy) ht

theorem keeps_execTestEntry {s u : State} {a0} {t : State} (h : Keeps s u) (ht : execTestEntry a0 u = .next t) : Keeps s t := by
  refine keeps_onCmd h (fun _ hy => ?_) ht
  dsimp only
  repeat' first
    | with_reducible assumption
    | with_reducible apply keeps_eraseKeys
    | simp -zeta only [Keeps.mk_eq]
    | split

theorem keeps_runOp {s u : State} {a0 : _} {a1 : _} {a2 : _} {t : State} (h : Keeps s u) (ht : runOp a0 a1 a2 u = .next t) :
    Keeps s t := by
  unfold runOp at ht
  repeat' first
    | (with_reducible exact keeps_execNop h ht)
    | (with_reducible exact keeps_execPlanStage h ht)
    | (with_reducible exact keeps_execPlanWrite h ht)
    | (with_reducible exact keeps_execPlanValidate h ht)
    | (with_reducible exact keeps_execPlanCommit h ht)
    | (with_reducible exact keeps_execPlanCancel h ht)
    | (with_reducible exact keeps_execHeadlandArm h ht)
    | (with_reducible exact keeps_execPlotStart h ht)
    | (with_reducible exact keeps_execPlotStop h ht)
    | (with_reducible exact keeps_execUpdGroupWrite h ht)
    | (with_reducible exact keeps_execRptWrite h ht)
    | (with_reducible exact keeps_execRptRead h ht)
    | (with_reducible exact keeps_execMemRequest h ht)
    | (with_reducible exact keeps_execCoachPut h ht)
    | (with_reducible exact keeps_execCoachGet h ht)
    | (with_reducible exact keeps_execProvHash h ht)
    | (with_reducible exact keeps_execFurrowReset h ht)
    | (with_reducible exact keeps_execShareClearTorn h ht)
    | (with_reducible exact keeps_execStageReset h ht)
    | (with_reducible exact keeps_execPortRetrain h ht)
    | (with_reducible exact keeps_execSourceReset h ht)
    | (with_reducible exact keeps_execHedgeAdd h ht)
    | (with_reducible exact keeps_execAdmitOpen h ht)
    | (with_reducible exact keeps_execYokePartner h ht)
    | (with_reducible exact keeps_execYokeShadow h ht)
    | (with_reducible exact keeps_execYokeEnd h ht)
    | (with_reducible exact keeps_execAdmitNative h ht)
    | (with_reducible exact keeps_execAdmitCompatibility h ht)
    | (with_reducible exact keeps_execAdmitDirect h ht)
    | (with_reducible exact keeps_execSelfTest h ht)
    | (with_reducible exact keeps_execGranaryReadmit h ht)
    | (with_reducible exact keeps_execYokeReport h ht)
    | (with_reducible exact keeps_execKeyLoadWrapped h ht)
    | (with_reducible exact keeps_execKeyLoadClear h ht)
    | (with_reducible exact keeps_execKeyErase h ht)
    | (with_reducible exact keeps_execKeyEraseAll h ht)
    | (with_reducible exact keeps_execRegRead h ht)
    | (with_reducible exact keeps_execRegWrite h ht)
    | (with_reducible exact keeps_execTallyRead h ht)
    | (with_reducible exact keeps_execFwUpdate h ht)
    | (with_reducible exact keeps_execWarmReset h ht)
    | (with_reducible exact keeps_execTestEntry h ht)
    | (with_reducible exact keeps_execDossierRead h ht)
    | (with_reducible exact keeps_execDossierCapture h ht)
    | split at ht
    | cases ht
    | with_reducible assumption
    | with_reducible exact mem_wf_writes _ _ _
    | with_reducible exact mem_wf_zero _ _ _
    | with_reducible exact mem_wf_none
    | (intros; with_reducible assumption)
    | with_reducible apply keeps_cmdDone
    | unfold x
    | simp -zeta only [Keeps.mk_eq]
    | with_reducible refine Keeps.foldl ?_ (fun v y hv => ?_)
    | with_reducible refine Keeps.foldl1 ?_ (fun v y hv => ?_)
    | (intro (x : State); refine Keeps.cut (s := s) (x := x) ?_ ?_)
    | (intro (x : State × _); refine Keeps.cut (s := s) (x := x.1) ?_ ?_)
    | (intro (hx : Keeps _ _); try clear_value x)
    | intro (x : State → _)
    | intro (x : _ → State → _)
    | (intro x; clear_value x)
    | intro x
    | (lift_lets; fail_if_success with_reducible assumption; intro (x : State); refine Keeps.cut (s := s) (x := x) ?_ ?_)
    | (lift_lets; intro (x : State → _))
    | (lift_lets; intro (x : _ → State → _))
    | (lift_lets; intro x; clear_value x)
    | (lift_lets; intro x)
    | (with_reducible apply Keeps.pair; with_reducible assumption)
    | split
    | with_reducible apply Keeps.mkGran

theorem keeps_runEntry {s u t : State} {c : Cmd} {e : List Byte} {k : Bool} (h : Keeps s u) (ht : runEntry c e k u = .next t) :
    Keeps s t := by
  unfold runEntry at ht
  dsimp only at ht
  split at ht
  · cases ht; exact keeps_cmdDone h
  · exact keeps_runOp h ht

theorem keeps_mgtSteward {s u t : State} {m : BitVec 48} {p : Pkt} {k : Bool} (h : Keeps s u) (ht : mgtSteward m p k u = .next t) :
    Keeps s t := by
  unfold mgtSteward at ht
  dsimp only at ht
  repeat' split at ht
  all_goals first | (cases ht; exact h) | (refine keeps_runEntry ?_ ht; exact h)

theorem keeps_mgtPeer {s u t : State} {n : Nat} {p : Pkt} (h : Keeps s u) (ht : mgtPeer n p u = .next t) : Keeps s t := by
  unfold mgtPeer at ht
  dsimp only at ht
  split at ht
  · cases ht; exact keeps_take h
  · exact keeps_runEntry (keeps_take h) ht

theorem keeps_execMgtCmd {s u : State} {a0 : _} {a1 : _} {a2 : _} {a3 : _} {a4 : _} {t : State} (h : Keeps s u) (ht : execMgtCmd a0 a1 a2 a3 a4 u = .next t) :
    Keeps s t := by
  unfold execMgtCmd at ht
  repeat' first
    | (with_reducible exact keeps_mgtSteward h ht)
    | (with_reducible exact keeps_mgtPeer h ht)
    | split at ht
    | cases ht
    | with_reducible assumption
    | with_reducible exact mem_wf_writes _ _ _
    | with_reducible exact mem_wf_zero _ _ _
    | with_reducible exact mem_wf_none
    | (intros; with_reducible assumption)
    | unfold x
    | simp -zeta only [Keeps.mk_eq]
    | with_reducible refine Keeps.foldl ?_ (fun v y hv => ?_)
    | with_reducible refine Keeps.foldl1 ?_ (fun v y hv => ?_)
    | (intro (x : State); refine Keeps.cut (s := s) (x := x) ?_ ?_)
    | (intro (x : State × _); refine Keeps.cut (s := s) (x := x.1) ?_ ?_)
    | (intro (hx : Keeps _ _); try clear_value x)
    | intro (x : State → _)
    | intro (x : _ → State → _)
    | (intro x; clear_value x)
    | intro x
    | (lift_lets; fail_if_success with_reducible assumption; intro (x : State); refine Keeps.cut (s := s) (x := x) ?_ ?_)
    | (lift_lets; intro (x : State → _))
    | (lift_lets; intro (x : _ → State → _))
    | (lift_lets; intro x; clear_value x)
    | (lift_lets; intro x)
    | (with_reducible apply Keeps.pair; with_reducible assumption)
    | split
    | with_reducible apply Keeps.mkGran

theorem keeps_mgtResp {s u : State} {a0} {a1} (h : Keeps s u) : Keeps s (mgtResp a0 a1 u) := by
  unfold mgtResp
  dsimp only
  repeat' first
    | with_reducible assumption
    | with_reducible apply keeps_take
    | simp -zeta only [Keeps.mk_eq]
    | split

theorem keeps_execMgtResp {s u : State} {a0} {a1} {t : State} (h : Keeps s u) (ht : execMgtResp a0 a1 u = .next t) : Keeps s t := keeps_onPkt h (fun _ hy => keeps_mgtResp hy) ht

theorem keeps_avsStep {s u : State} {a0} {a1} (h : Keeps s u) : Keeps s (avsStep a0 a1 u) := by
  unfold avsStep
  repeat' first
    | with_reducible assumption
    | with_reducible apply keeps_modClk
    | split
    | simp -zeta only [Keeps.mk_eq]

theorem keeps_booted {s u : State} {a1} (h : Keeps s u) : Keeps s (booted u a1) := h

theorem keeps_domainsOff {s u : State}  (h : Keeps s u) :
    Keeps s (domainsOff u) := by
  unfold domainsOff
  repeat' first
    | with_reducible assumption
    | with_reducible exact mem_wf_writes _ _ _
    | with_reducible exact mem_wf_zero _ _ _
    | with_reducible exact mem_wf_none
    | (intros; with_reducible assumption)
    | with_reducible apply keeps_domainLost
    | with_reducible apply keeps_modDom
    | unfold x
    | simp -zeta only [Keeps.mk_eq]
    | with_reducible refine Keeps.foldl ?_ (fun v y hv => ?_)
    | with_reducible refine Keeps.foldl1 ?_ (fun v y hv => ?_)
    | (intro (x : State); refine Keeps.cut (s := s) (x := x) ?_ ?_)
    | (intro (x : State × _); refine Keeps.cut (s := s) (x := x.1) ?_ ?_)
    | (intro (hx : Keeps _ _); try clear_value x)
    | intro (x : State → _)
    | intro (x : _ → State → _)
    | (intro x; clear_value x)
    | intro x
    | (lift_lets; fail_if_success with_reducible assumption; intro (x : State); refine Keeps.cut (s := s) (x := x) ?_ ?_)
    | (lift_lets; intro (x : State → _))
    | (lift_lets; intro (x : _ → State → _))
    | (lift_lets; intro x; clear_value x)
    | (lift_lets; intro x)
    | (with_reducible apply Keeps.pair; with_reducible assumption)
    | split
    | with_reducible apply Keeps.mkGran

theorem keeps_coldRelease {s u : State} {a0} {a1} (h : Keeps s u) : Keeps s (coldRelease a0 a1 u) := by
  unfold coldRelease
  dsimp only
  repeat' first
    | with_reducible assumption
    | with_reducible apply keeps_domainsOff
    | with_reducible apply keeps_raise
    | simp -zeta only [Keeps.mk_eq]
    | split

theorem keeps_execAvsStep {s u : State} {a0} {a1} {t : State} (h : Keeps s u) (ht : execAvsStep a0 a1 u = .next t) : Keeps s t := keeps_always h (fun _ hy => keeps_avsStep hy) ht

theorem keeps_execBridgeDown {s u : State} {t : State} (h : Keeps s u) (ht : execBridgeDown u = .next t) : Keeps s t := keeps_event h (fun _ hy => keeps_raise hy) ht

theorem keeps_coldReset {s u : State} {b : Bool} (h : Keeps s u) : Keeps s (coldReset b u) := ⟨h.1, fun _ => Eq.refl _⟩

theorem keeps_execColdReset {s u t : State} {b : Bool} (h : Keeps s u) (ht : execColdReset b u = .next t) : Keeps s t := by
  cases ht
  exact keeps_coldReset h

theorem keeps_execColdResetRelease {s u : State} {a0} {a1} {t : State} (h : Keeps s u) (ht : execColdResetRelease a0 a1 u = .next t) : Keeps s t := keeps_always h (fun _ hy => keeps_coldRelease hy) ht

theorem keeps_execDieHot {s u : State} {a0} {a1} {t : State} (h : Keeps s u) (ht : execDieHot a0 a1 u = .next t) : Keeps s t := keeps_always h (fun _ hy => keeps_modClk hy) ht

theorem keeps_governor {s u : State} {a0} {a1} {a2} {a3} {a4} (h : Keeps s u) : Keeps s (governor a0 a1 a2 a3 a4 u) := by
  unfold governor
  dsimp only
  repeat' first
    | with_reducible assumption
    | with_reducible apply keeps_modClk
    | simp -zeta only [Keeps.mk_eq]
    | split

theorem keeps_execGovernorSample {s u : State} {a0} {a1} {a2} {a3} {a4} {t : State} (h : Keeps s u) (ht : execGovernorSample a0 a1 a2 a3 a4 u = .next t) : Keeps s t := keeps_always h (fun _ hy => keeps_governor hy) ht

theorem keeps_perst {s u : State} {a0} (h : Keeps s u) : Keeps s (perst a0 u) := by
  unfold perst
  dsimp only
  repeat' first
    | with_reducible assumption
    | simp -zeta only [Keeps.mk_eq]
    | split

theorem keeps_execPerstN {s u : State} {a0} {t : State} (h : Keeps s u) (ht : execPerstN a0 u = .next t) : Keeps s t := keeps_always h (fun _ hy => keeps_perst hy) ht

theorem keeps_execPllLock {s u : State} {t : State} (h : Keeps s u) (ht : execPllLock u = .next t) : Keeps s t := by
  refine keeps_always h (fun _ hy => ?_) ht
  repeat' first
    | with_reducible assumption
    | with_reducible apply keeps_modClk
    | simp -zeta only [Keeps.mk_eq]
    | split

theorem keeps_execPllUnlock {s u : State} {t : State} (h : Keeps s u) (ht : execPllUnlock u = .next t) : Keeps s t := by
  refine keeps_always h (fun _ hy => ?_) ht
  repeat' first
    | with_reducible assumption
    | with_reducible apply keeps_raise
    | with_reducible apply keeps_modClk
    | simp -zeta only [Keeps.mk_eq]
    | split

theorem keeps_execPwrgdLost {s u : State} {t : State} (h : Keeps s u) (ht : execPwrgdLost u = .next t) : Keeps s t := by
  refine keeps_always h (fun _ hy => ?_) ht
  repeat' first
    | with_reducible assumption
    | with_reducible apply keeps_raise
    | simp -zeta only [Keeps.mk_eq]
    | split

theorem keeps_reeveHalt {s u : State} {a0} (h : Keeps s u) : Keeps s (reeveHalt a0 u) := keeps_raiseAt h

theorem keeps_reeveBoot {s u : State} {a0} {a1} {a2} (h : Keeps s u) : Keeps s (reeveBoot a0 a1 a2 u) := by
  unfold reeveBoot
  dsimp only
  repeat' first
    | with_reducible assumption
    | with_reducible apply keeps_booted
    | with_reducible apply keeps_reeveHalt
    | simp -zeta only [Keeps.mk_eq]
    | split

theorem keeps_execReeveBoot {s u : State} {a0} {a1} {a2} {t : State} (h : Keeps s u) (ht : execReeveBoot a0 a1 a2 u = .next t) : Keeps s t := keeps_always h (fun _ hy => keeps_reeveBoot hy) ht

theorem keeps_execReeveHalt {s u : State} {a0} {t : State} (h : Keeps s u) (ht : execReeveHalt a0 u = .next t) : Keeps s t := keeps_always h (fun _ hy => keeps_reeveHalt hy) ht

theorem keeps_execStewardLinkDown {s u : State} {t : State} (h : Keeps s u) (ht : execStewardLinkDown u = .next t) : Keeps s t := by
  refine keeps_always h (fun _ hy => ?_) ht
  repeat' first
    | with_reducible assumption
    | simp -zeta only [Keeps.mk_eq]
    | split

theorem keeps_execStewardLinkUp {s u : State} {a0} {t : State} (h : Keeps s u) (ht : execStewardLinkUp a0 u = .next t) : Keeps s t := by
  refine keeps_always h (fun _ hy => ?_) ht
  repeat' first
    | with_reducible assumption
    | with_reducible apply keeps_modClk
    | simp -zeta only [Keeps.mk_eq]
    | split

theorem keeps_thermtrip {s u : State}  (h : Keeps s u) : Keeps s (thermtrip u) := by
  unfold thermtrip
  dsimp only
  repeat' first
    | with_reducible assumption
    | with_reducible apply keeps_domainsOff
    | with_reducible apply keeps_raise
    | simp -zeta only [Keeps.mk_eq]
    | split

theorem keeps_execThermtrip {s u : State} {t : State} (h : Keeps s u) (ht : execThermtrip u = .next t) : Keeps s t := keeps_always h (fun _ hy => keeps_thermtrip hy) ht

theorem keeps_execTickIn {s u : State} {t : State} (h : Keeps s u) (ht : execTickIn u = .next t) : Keeps s t := by
  refine keeps_always h (fun _ hy => ?_) ht
  repeat' first
    | with_reducible assumption
    | with_reducible apply keeps_modClk
    | simp -zeta only [Keeps.mk_eq]
    | split

theorem keeps_execTickLost {s u : State} {t : State} (h : Keeps s u) (ht : execTickLost u = .next t) : Keeps s t := by
  refine keeps_always h (fun _ hy => ?_) ht
  repeat' first
    | with_reducible assumption
    | with_reducible apply keeps_modClk
    | simp -zeta only [Keeps.mk_eq]
    | split

theorem keeps_execTickOut {s u : State} {t : State} (h : Keeps s u) (ht : execTickOut u = .next t) : Keeps s t := by
  refine keeps_always h (fun _ hy => ?_) ht
  repeat' first
    | with_reducible assumption
    | with_reducible apply keeps_modClk
    | simp -zeta only [Keeps.mk_eq]
    | split

theorem keeps_warmReset {s u : State} (h : Keeps s u) : Keeps s (warmReset u) := by
  unfold warmReset
  dsimp only
  refine Keeps.foldl ?_ fun v y hv => keeps_modDom hv
  exact ⟨h.1, fun _ => Eq.refl _⟩

theorem keeps_execWarmResetBegin {s u t : State} (h : Keeps s u) (ht : execWarmResetBegin u = .next t) : Keeps s t := by
  refine keeps_always h (fun y hy => ?_) ht
  split
  · exact keeps_warmReset hy
  · exact hy

theorem keeps_tick {s u : State}  (h : Keeps s u) : Keeps s (tick u) := h

end Sys2Proof.Laws
end

