-- ==== Sys2Proof/Laws/State.lean ====
section
/-!
SUPPORT. What each update of one part of the state leaves in every field, as one simp lemma an update.
-/

set_option linter.unusedTactic false

namespace Sys2Proof.Laws
open Sys2Proof Sys2Proof.Machine

@[simp] theorem modClk_fields (s : State) (f : Clk → Clk) :
    (modClk s f).ports = s.ports ∧ (modClk s f).mac = s.mac ∧ (modClk s f).macFull = s.macFull ∧ (modClk s f).wire = s.wire ∧
    (modClk s f).ingress = s.ingress ∧ (modClk s f).outq = s.outq ∧ (modClk s f).delivered = s.delivered ∧ (modClk s f).route = s.route ∧
    (modClk s f).core = s.core ∧ (modClk s f).glean = s.glean ∧ (modClk s f).sched = s.sched ∧ (modClk s f).granCtl = s.granCtl ∧
    (modClk s f).audit = s.audit ∧ (modClk s f).coll = s.coll ∧ (modClk s f).plots = s.plots ∧ (modClk s f).sc = s.sc ∧
    (modClk s f).granTaint = s.granTaint ∧ (modClk s f).upd = s.upd ∧ (modClk s f).stages = s.stages ∧ (modClk s f).mem = s.mem ∧
    (modClk s f).cellar = s.cellar ∧ (modClk s f).part = s.part ∧ (modClk s f).clk = f s.clk ∧ (modClk s f).dom = s.dom ∧
    (modClk s f).pins = s.pins ∧ (modClk s f).host = s.host ∧ (modClk s f).stew = s.stew ∧ (modClk s f).plan = s.plan ∧
    (modClk s f).gran = s.gran ∧ (modClk s f).fault = s.fault ∧ (modClk s f).hedge = s.hedge ∧ (modClk s f).recov = s.recov ∧
    (modClk s f).yoke = s.yoke ∧ (modClk s f).selfTest = s.selfTest ∧ (modClk s f).dossier = s.dossier ∧
    (modClk s f).testMode = s.testMode ∧ (modClk s f).fw = s.fw ∧ (modClk s f).pending = s.pending ∧ (modClk s f).freeIx = s.freeIx := by
  and_intros <;> rfl

@[simp] theorem modPlan_fields (s : State) (f : Plan → Plan) :
    (modPlan s f).ports = s.ports ∧ (modPlan s f).mac = s.mac ∧ (modPlan s f).macFull = s.macFull ∧ (modPlan s f).wire = s.wire ∧
    (modPlan s f).ingress = s.ingress ∧ (modPlan s f).outq = s.outq ∧ (modPlan s f).delivered = s.delivered ∧
    (modPlan s f).route = s.route ∧ (modPlan s f).core = s.core ∧ (modPlan s f).glean = s.glean ∧ (modPlan s f).sched = s.sched ∧
    (modPlan s f).granCtl = s.granCtl ∧ (modPlan s f).audit = s.audit ∧ (modPlan s f).coll = s.coll ∧ (modPlan s f).plots = s.plots ∧
    (modPlan s f).sc = s.sc ∧ (modPlan s f).granTaint = s.granTaint ∧ (modPlan s f).upd = s.upd ∧ (modPlan s f).stages = s.stages ∧
    (modPlan s f).mem = s.mem ∧ (modPlan s f).cellar = s.cellar ∧ (modPlan s f).part = s.part ∧ (modPlan s f).clk = s.clk ∧
    (modPlan s f).dom = s.dom ∧ (modPlan s f).pins = s.pins ∧ (modPlan s f).host = s.host ∧ (modPlan s f).stew = s.stew ∧
    (modPlan s f).plan = f s.plan ∧ (modPlan s f).gran = s.gran ∧ (modPlan s f).fault = s.fault ∧ (modPlan s f).hedge = s.hedge ∧
    (modPlan s f).recov = s.recov ∧ (modPlan s f).yoke = s.yoke ∧ (modPlan s f).selfTest = s.selfTest ∧ (modPlan s f).dossier = s.dossier ∧
    (modPlan s f).testMode = s.testMode ∧ (modPlan s f).fw = s.fw ∧ (modPlan s f).pending = s.pending ∧ (modPlan s f).freeIx = s.freeIx := by
  and_intros <;> rfl

@[simp] theorem modCellar_fields (s : State) (f : Cellar → Cellar) :
    (modCellar s f).ports = s.ports ∧ (modCellar s f).mac = s.mac ∧ (modCellar s f).macFull = s.macFull ∧ (modCellar s f).wire = s.wire ∧
    (modCellar s f).ingress = s.ingress ∧ (modCellar s f).outq = s.outq ∧ (modCellar s f).delivered = s.delivered ∧
    (modCellar s f).route = s.route ∧ (modCellar s f).core = s.core ∧ (modCellar s f).glean = s.glean ∧ (modCellar s f).sched = s.sched ∧
    (modCellar s f).granCtl = s.granCtl ∧ (modCellar s f).audit = s.audit ∧ (modCellar s f).coll = s.coll ∧
    (modCellar s f).plots = s.plots ∧ (modCellar s f).sc = s.sc ∧ (modCellar s f).granTaint = s.granTaint ∧ (modCellar s f).upd = s.upd ∧
    (modCellar s f).stages = s.stages ∧ (modCellar s f).mem = s.mem ∧ (modCellar s f).cellar = f s.cellar ∧ (modCellar s f).part = s.part ∧
    (modCellar s f).clk = s.clk ∧ (modCellar s f).dom = s.dom ∧ (modCellar s f).pins = s.pins ∧ (modCellar s f).host = s.host ∧
    (modCellar s f).stew = s.stew ∧ (modCellar s f).plan = s.plan ∧ (modCellar s f).gran = s.gran ∧ (modCellar s f).fault = s.fault ∧
    (modCellar s f).hedge = s.hedge ∧ (modCellar s f).recov = s.recov ∧ (modCellar s f).yoke = s.yoke ∧
    (modCellar s f).selfTest = s.selfTest ∧ (modCellar s f).dossier = s.dossier ∧ (modCellar s f).testMode = s.testMode ∧
    (modCellar s f).fw = s.fw ∧ (modCellar s f).pending = s.pending ∧ (modCellar s f).freeIx = s.freeIx := by
  and_intros <;> rfl

@[simp] theorem modPlot_fields (s : State) (n : Nat) (f : Plot → Plot) :
    (modPlot s n f).ports = s.ports ∧ (modPlot s n f).mac = s.mac ∧ (modPlot s n f).macFull = s.macFull ∧ (modPlot s n f).wire = s.wire ∧
    (modPlot s n f).ingress = s.ingress ∧ (modPlot s n f).outq = s.outq ∧ (modPlot s n f).delivered = s.delivered ∧
    (modPlot s n f).route = s.route ∧ (modPlot s n f).core = s.core ∧ (modPlot s n f).glean = s.glean ∧ (modPlot s n f).sched = s.sched ∧
    (modPlot s n f).granCtl = s.granCtl ∧ (modPlot s n f).audit = s.audit ∧ (modPlot s n f).coll = s.coll ∧
    (modPlot s n f).plots = Tab.upd {} s.plots n f ∧ (modPlot s n f).sc = s.sc ∧ (modPlot s n f).granTaint = s.granTaint ∧
    (modPlot s n f).upd = s.upd ∧ (modPlot s n f).stages = s.stages ∧ (modPlot s n f).mem = s.mem ∧ (modPlot s n f).cellar = s.cellar ∧
    (modPlot s n f).part = s.part ∧ (modPlot s n f).clk = s.clk ∧ (modPlot s n f).dom = s.dom ∧ (modPlot s n f).pins = s.pins ∧
    (modPlot s n f).host = s.host ∧ (modPlot s n f).stew = s.stew ∧ (modPlot s n f).plan = s.plan ∧ (modPlot s n f).gran = s.gran ∧
    (modPlot s n f).fault = s.fault ∧ (modPlot s n f).hedge = s.hedge ∧ (modPlot s n f).recov = s.recov ∧ (modPlot s n f).yoke = s.yoke ∧
    (modPlot s n f).selfTest = s.selfTest ∧ (modPlot s n f).dossier = s.dossier ∧ (modPlot s n f).testMode = s.testMode ∧
    (modPlot s n f).fw = s.fw ∧ (modPlot s n f).pending = s.pending ∧ (modPlot s n f).freeIx = s.freeIx := by
  and_intros <;> rfl

@[simp] theorem modPort_fields (s : State) (n : Nat) (f : Port → Port) :
    (modPort s n f).ports = Tab.upd {} s.ports n f ∧ (modPort s n f).mac = s.mac ∧ (modPort s n f).macFull = s.macFull ∧
    (modPort s n f).wire = s.wire ∧ (modPort s n f).ingress = s.ingress ∧ (modPort s n f).outq = s.outq ∧
    (modPort s n f).delivered = s.delivered ∧ (modPort s n f).route = s.route ∧ (modPort s n f).core = s.core ∧
    (modPort s n f).glean = s.glean ∧ (modPort s n f).sched = s.sched ∧ (modPort s n f).granCtl = s.granCtl ∧
    (modPort s n f).audit = s.audit ∧ (modPort s n f).coll = s.coll ∧ (modPort s n f).plots = s.plots ∧ (modPort s n f).sc = s.sc ∧
    (modPort s n f).granTaint = s.granTaint ∧ (modPort s n f).upd = s.upd ∧ (modPort s n f).stages = s.stages ∧
    (modPort s n f).mem = s.mem ∧ (modPort s n f).cellar = s.cellar ∧ (modPort s n f).part = s.part ∧ (modPort s n f).clk = s.clk ∧
    (modPort s n f).dom = s.dom ∧ (modPort s n f).pins = s.pins ∧ (modPort s n f).host = s.host ∧ (modPort s n f).stew = s.stew ∧
    (modPort s n f).plan = s.plan ∧ (modPort s n f).gran = s.gran ∧ (modPort s n f).fault = s.fault ∧ (modPort s n f).hedge = s.hedge ∧
    (modPort s n f).recov = s.recov ∧ (modPort s n f).yoke = s.yoke ∧ (modPort s n f).selfTest = s.selfTest ∧
    (modPort s n f).dossier = s.dossier ∧ (modPort s n f).testMode = s.testMode ∧ (modPort s n f).fw = s.fw ∧
    (modPort s n f).pending = s.pending ∧ (modPort s n f).freeIx = s.freeIx := by
  and_intros <;> rfl

@[simp] theorem modStage_fields (s : State) (n : Nat) (f : Stage → Stage) :
    (modStage s n f).ports = s.ports ∧ (modStage s n f).mac = s.mac ∧ (modStage s n f).macFull = s.macFull ∧
    (modStage s n f).wire = s.wire ∧ (modStage s n f).ingress = s.ingress ∧ (modStage s n f).outq = s.outq ∧
    (modStage s n f).delivered = s.delivered ∧ (modStage s n f).route = s.route ∧ (modStage s n f).core = s.core ∧
    (modStage s n f).glean = s.glean ∧ (modStage s n f).sched = s.sched ∧ (modStage s n f).granCtl = s.granCtl ∧
    (modStage s n f).audit = s.audit ∧ (modStage s n f).coll = s.coll ∧ (modStage s n f).plots = s.plots ∧ (modStage s n f).sc = s.sc ∧
    (modStage s n f).granTaint = s.granTaint ∧ (modStage s n f).upd = s.upd ∧ (modStage s n f).stages = Tab.upd {} s.stages n f ∧
    (modStage s n f).mem = s.mem ∧ (modStage s n f).cellar = s.cellar ∧ (modStage s n f).part = s.part ∧ (modStage s n f).clk = s.clk ∧
    (modStage s n f).dom = s.dom ∧ (modStage s n f).pins = s.pins ∧ (modStage s n f).host = s.host ∧ (modStage s n f).stew = s.stew ∧
    (modStage s n f).plan = s.plan ∧ (modStage s n f).gran = s.gran ∧ (modStage s n f).fault = s.fault ∧ (modStage s n f).hedge = s.hedge ∧
    (modStage s n f).recov = s.recov ∧ (modStage s n f).yoke = s.yoke ∧ (modStage s n f).selfTest = s.selfTest ∧
    (modStage s n f).dossier = s.dossier ∧ (modStage s n f).testMode = s.testMode ∧ (modStage s n f).fw = s.fw ∧
    (modStage s n f).pending = s.pending ∧ (modStage s n f).freeIx = s.freeIx := by
  and_intros <;> rfl

@[simp] theorem modGran_fields (s : State) (n : Nat) (f : GranCtl → GranCtl) :
    (modGran s n f).ports = s.ports ∧ (modGran s n f).mac = s.mac ∧ (modGran s n f).macFull = s.macFull ∧ (modGran s n f).wire = s.wire ∧
    (modGran s n f).ingress = s.ingress ∧ (modGran s n f).outq = s.outq ∧ (modGran s n f).delivered = s.delivered ∧
    (modGran s n f).route = s.route ∧ (modGran s n f).core = s.core ∧ (modGran s n f).glean = s.glean ∧ (modGran s n f).sched = s.sched ∧
    (modGran s n f).granCtl = Tab.upd {} s.granCtl n f ∧ (modGran s n f).audit = s.audit ∧ (modGran s n f).coll = s.coll ∧
    (modGran s n f).plots = s.plots ∧ (modGran s n f).sc = s.sc ∧ (modGran s n f).granTaint = s.granTaint ∧ (modGran s n f).upd = s.upd ∧
    (modGran s n f).stages = s.stages ∧ (modGran s n f).mem = s.mem ∧ (modGran s n f).cellar = s.cellar ∧ (modGran s n f).part = s.part ∧
    (modGran s n f).clk = s.clk ∧ (modGran s n f).dom = s.dom ∧ (modGran s n f).pins = s.pins ∧ (modGran s n f).host = s.host ∧
    (modGran s n f).stew = s.stew ∧ (modGran s n f).plan = s.plan ∧ (modGran s n f).gran = s.gran ∧ (modGran s n f).fault = s.fault ∧
    (modGran s n f).hedge = s.hedge ∧ (modGran s n f).recov = s.recov ∧ (modGran s n f).yoke = s.yoke ∧
    (modGran s n f).selfTest = s.selfTest ∧ (modGran s n f).dossier = s.dossier ∧ (modGran s n f).testMode = s.testMode ∧
    (modGran s n f).fw = s.fw ∧ (modGran s n f).pending = s.pending ∧ (modGran s n f).freeIx = s.freeIx := by
  and_intros <;> rfl

@[simp] theorem modDom_fields (s : State) (n : Nat) (f : Domain → Domain) :
    (modDom s n f).ports = s.ports ∧ (modDom s n f).mac = s.mac ∧ (modDom s n f).macFull = s.macFull ∧ (modDom s n f).wire = s.wire ∧
    (modDom s n f).ingress = s.ingress ∧ (modDom s n f).outq = s.outq ∧ (modDom s n f).delivered = s.delivered ∧
    (modDom s n f).route = s.route ∧ (modDom s n f).core = s.core ∧ (modDom s n f).glean = s.glean ∧ (modDom s n f).sched = s.sched ∧
    (modDom s n f).granCtl = s.granCtl ∧ (modDom s n f).audit = s.audit ∧ (modDom s n f).coll = s.coll ∧ (modDom s n f).plots = s.plots ∧
    (modDom s n f).sc = s.sc ∧ (modDom s n f).granTaint = s.granTaint ∧ (modDom s n f).upd = s.upd ∧ (modDom s n f).stages = s.stages ∧
    (modDom s n f).mem = s.mem ∧ (modDom s n f).cellar = s.cellar ∧ (modDom s n f).part = s.part ∧ (modDom s n f).clk = s.clk ∧
    (modDom s n f).dom = Tab.set (domReset s n) s.dom n (f (domain s n)) ∧ (modDom s n f).pins = s.pins ∧ (modDom s n f).host = s.host ∧
    (modDom s n f).stew = s.stew ∧ (modDom s n f).plan = s.plan ∧ (modDom s n f).gran = s.gran ∧ (modDom s n f).fault = s.fault ∧
    (modDom s n f).hedge = s.hedge ∧ (modDom s n f).recov = s.recov ∧ (modDom s n f).yoke = s.yoke ∧ (modDom s n f).selfTest = s.selfTest ∧
    (modDom s n f).dossier = s.dossier ∧ (modDom s n f).testMode = s.testMode ∧ (modDom s n f).fw = s.fw ∧
    (modDom s n f).pending = s.pending ∧ (modDom s n f).freeIx = s.freeIx := by
  and_intros <;> rfl

@[simp] theorem modShare_fields (s : State) (n : Nat) (f : ShareSt → ShareSt) :
    (modShare s n f).ports = s.ports ∧ (modShare s n f).mac = s.mac ∧ (modShare s n f).macFull = s.macFull ∧
    (modShare s n f).wire = s.wire ∧ (modShare s n f).ingress = s.ingress ∧ (modShare s n f).outq = s.outq ∧
    (modShare s n f).delivered = s.delivered ∧ (modShare s n f).route = s.route ∧ (modShare s n f).core = s.core ∧
    (modShare s n f).glean = s.glean ∧ (modShare s n f).sched = s.sched ∧ (modShare s n f).granCtl = s.granCtl ∧
    (modShare s n f).audit = s.audit ∧ (modShare s n f).coll = s.coll ∧ (modShare s n f).plots = s.plots ∧ (modShare s n f).sc = s.sc ∧
    (modShare s n f).granTaint = s.granTaint ∧ (modShare s n f).upd = { s.upd with shares := Tab.upd {} s.upd.shares n f } ∧
    (modShare s n f).stages = s.stages ∧ (modShare s n f).mem = s.mem ∧ (modShare s n f).cellar = s.cellar ∧
    (modShare s n f).part = s.part ∧ (modShare s n f).clk = s.clk ∧ (modShare s n f).dom = s.dom ∧ (modShare s n f).pins = s.pins ∧
    (modShare s n f).host = s.host ∧ (modShare s n f).stew = s.stew ∧ (modShare s n f).plan = s.plan ∧ (modShare s n f).gran = s.gran ∧
    (modShare s n f).fault = s.fault ∧ (modShare s n f).hedge = s.hedge ∧ (modShare s n f).recov = s.recov ∧
    (modShare s n f).yoke = s.yoke ∧ (modShare s n f).selfTest = s.selfTest ∧ (modShare s n f).dossier = s.dossier ∧
    (modShare s n f).testMode = s.testMode ∧ (modShare s n f).fw = s.fw ∧ (modShare s n f).pending = s.pending ∧
    (modShare s n f).freeIx = s.freeIx := by
  and_intros <;> rfl

@[simp] theorem modFeed_fields (s : State) (n : Nat) (f : FeedSt → FeedSt) :
    (modFeed s n f).ports = s.ports ∧ (modFeed s n f).mac = s.mac ∧ (modFeed s n f).macFull = s.macFull ∧ (modFeed s n f).wire = s.wire ∧
    (modFeed s n f).ingress = s.ingress ∧ (modFeed s n f).outq = s.outq ∧ (modFeed s n f).delivered = s.delivered ∧
    (modFeed s n f).route = s.route ∧ (modFeed s n f).core = s.core ∧ (modFeed s n f).glean = s.glean ∧ (modFeed s n f).sched = s.sched ∧
    (modFeed s n f).granCtl = s.granCtl ∧ (modFeed s n f).audit = s.audit ∧ (modFeed s n f).coll = s.coll ∧
    (modFeed s n f).plots = s.plots ∧ (modFeed s n f).sc = s.sc ∧ (modFeed s n f).granTaint = s.granTaint ∧
    (modFeed s n f).upd = { s.upd with feeds := Tab.upd {} s.upd.feeds n f } ∧ (modFeed s n f).stages = s.stages ∧
    (modFeed s n f).mem = s.mem ∧ (modFeed s n f).cellar = s.cellar ∧ (modFeed s n f).part = s.part ∧ (modFeed s n f).clk = s.clk ∧
    (modFeed s n f).dom = s.dom ∧ (modFeed s n f).pins = s.pins ∧ (modFeed s n f).host = s.host ∧ (modFeed s n f).stew = s.stew ∧
    (modFeed s n f).plan = s.plan ∧ (modFeed s n f).gran = s.gran ∧ (modFeed s n f).fault = s.fault ∧ (modFeed s n f).hedge = s.hedge ∧
    (modFeed s n f).recov = s.recov ∧ (modFeed s n f).yoke = s.yoke ∧ (modFeed s n f).selfTest = s.selfTest ∧
    (modFeed s n f).dossier = s.dossier ∧ (modFeed s n f).testMode = s.testMode ∧ (modFeed s n f).fw = s.fw ∧
    (modFeed s n f).pending = s.pending ∧ (modFeed s n f).freeIx = s.freeIx := by
  and_intros <;> rfl

@[simp] theorem modNode_fields (s : State) (n : Nat) (f : Node → Node) :
    (modNode s n f).ports = s.ports ∧ (modNode s n f).mac = s.mac ∧ (modNode s n f).macFull = s.macFull ∧ (modNode s n f).wire = s.wire ∧
    (modNode s n f).ingress = s.ingress ∧ (modNode s n f).outq = s.outq ∧ (modNode s n f).delivered = s.delivered ∧
    (modNode s n f).route = s.route ∧ (modNode s n f).core = s.core ∧ (modNode s n f).glean = s.glean ∧ (modNode s n f).sched = s.sched ∧
    (modNode s n f).granCtl = s.granCtl ∧ (modNode s n f).audit = s.audit ∧
    (modNode s n f).coll = { s.coll with nodes := Tab.upd {} s.coll.nodes n f } ∧ (modNode s n f).plots = s.plots ∧
    (modNode s n f).sc = s.sc ∧ (modNode s n f).granTaint = s.granTaint ∧ (modNode s n f).upd = s.upd ∧ (modNode s n f).stages = s.stages ∧
    (modNode s n f).mem = s.mem ∧ (modNode s n f).cellar = s.cellar ∧ (modNode s n f).part = s.part ∧ (modNode s n f).clk = s.clk ∧
    (modNode s n f).dom = s.dom ∧ (modNode s n f).pins = s.pins ∧ (modNode s n f).host = s.host ∧ (modNode s n f).stew = s.stew ∧
    (modNode s n f).plan = s.plan ∧ (modNode s n f).gran = s.gran ∧ (modNode s n f).fault = s.fault ∧ (modNode s n f).hedge = s.hedge ∧
    (modNode s n f).recov = s.recov ∧ (modNode s n f).yoke = s.yoke ∧ (modNode s n f).selfTest = s.selfTest ∧
    (modNode s n f).dossier = s.dossier ∧ (modNode s n f).testMode = s.testMode ∧ (modNode s n f).fw = s.fw ∧
    (modNode s n f).pending = s.pending ∧ (modNode s n f).freeIx = s.freeIx := by
  and_intros <;> rfl

@[simp] theorem modGate_fields (s : State) (n : Nat) (f : Gateway → Gateway) :
    (modGate s n f).ports = s.ports ∧ (modGate s n f).mac = s.mac ∧ (modGate s n f).macFull = s.macFull ∧ (modGate s n f).wire = s.wire ∧
    (modGate s n f).ingress = s.ingress ∧ (modGate s n f).outq = s.outq ∧ (modGate s n f).delivered = s.delivered ∧
    (modGate s n f).route = s.route ∧ (modGate s n f).core = s.core ∧ (modGate s n f).glean = s.glean ∧ (modGate s n f).sched = s.sched ∧
    (modGate s n f).granCtl = s.granCtl ∧ (modGate s n f).audit = s.audit ∧ (modGate s n f).coll = s.coll ∧
    (modGate s n f).plots = s.plots ∧ (modGate s n f).sc = s.sc ∧ (modGate s n f).granTaint = s.granTaint ∧ (modGate s n f).upd = s.upd ∧
    (modGate s n f).stages = s.stages ∧ (modGate s n f).mem = { s.mem with gates := Tab.upd {} s.mem.gates n f } ∧
    (modGate s n f).cellar = s.cellar ∧ (modGate s n f).part = s.part ∧ (modGate s n f).clk = s.clk ∧ (modGate s n f).dom = s.dom ∧
    (modGate s n f).pins = s.pins ∧ (modGate s n f).host = s.host ∧ (modGate s n f).stew = s.stew ∧ (modGate s n f).plan = s.plan ∧
    (modGate s n f).gran = s.gran ∧ (modGate s n f).fault = s.fault ∧ (modGate s n f).hedge = s.hedge ∧ (modGate s n f).recov = s.recov ∧
    (modGate s n f).yoke = s.yoke ∧ (modGate s n f).selfTest = s.selfTest ∧ (modGate s n f).dossier = s.dossier ∧
    (modGate s n f).testMode = s.testMode ∧ (modGate s n f).fw = s.fw ∧ (modGate s n f).pending = s.pending ∧
    (modGate s n f).freeIx = s.freeIx := by
  and_intros <;> rfl

@[simp] theorem modCnt_fields (s : State) (n : Nat) (f : MemCnt → MemCnt) :
    (modCnt s n f).ports = s.ports ∧ (modCnt s n f).mac = s.mac ∧ (modCnt s n f).macFull = s.macFull ∧ (modCnt s n f).wire = s.wire ∧
    (modCnt s n f).ingress = s.ingress ∧ (modCnt s n f).outq = s.outq ∧ (modCnt s n f).delivered = s.delivered ∧
    (modCnt s n f).route = s.route ∧ (modCnt s n f).core = s.core ∧ (modCnt s n f).glean = s.glean ∧ (modCnt s n f).sched = s.sched ∧
    (modCnt s n f).granCtl = s.granCtl ∧ (modCnt s n f).audit = s.audit ∧ (modCnt s n f).coll = s.coll ∧ (modCnt s n f).plots = s.plots ∧
    (modCnt s n f).sc = s.sc ∧ (modCnt s n f).granTaint = s.granTaint ∧ (modCnt s n f).upd = s.upd ∧ (modCnt s n f).stages = s.stages ∧
    (modCnt s n f).mem = { s.mem with cnt := Tab.upd {} s.mem.cnt n f } ∧ (modCnt s n f).cellar = s.cellar ∧ (modCnt s n f).part = s.part ∧
    (modCnt s n f).clk = s.clk ∧ (modCnt s n f).dom = s.dom ∧ (modCnt s n f).pins = s.pins ∧ (modCnt s n f).host = s.host ∧
    (modCnt s n f).stew = s.stew ∧ (modCnt s n f).plan = s.plan ∧ (modCnt s n f).gran = s.gran ∧ (modCnt s n f).fault = s.fault ∧
    (modCnt s n f).hedge = s.hedge ∧ (modCnt s n f).recov = s.recov ∧ (modCnt s n f).yoke = s.yoke ∧ (modCnt s n f).selfTest = s.selfTest ∧
    (modCnt s n f).dossier = s.dossier ∧ (modCnt s n f).testMode = s.testMode ∧ (modCnt s n f).fw = s.fw ∧
    (modCnt s n f).pending = s.pending ∧ (modCnt s n f).freeIx = s.freeIx := by
  and_intros <;> rfl

@[simp] theorem modRoute_fields (s : State) (n : Nat) (f : RouteDie → RouteDie) :
    (modRoute s n f).ports = s.ports ∧ (modRoute s n f).mac = s.mac ∧ (modRoute s n f).macFull = s.macFull ∧
    (modRoute s n f).wire = s.wire ∧ (modRoute s n f).ingress = s.ingress ∧ (modRoute s n f).outq = s.outq ∧
    (modRoute s n f).delivered = s.delivered ∧ (modRoute s n f).route = { s.route with die := Tab.upd {} s.route.die n f } ∧
    (modRoute s n f).core = s.core ∧ (modRoute s n f).glean = s.glean ∧ (modRoute s n f).sched = s.sched ∧
    (modRoute s n f).granCtl = s.granCtl ∧ (modRoute s n f).audit = s.audit ∧ (modRoute s n f).coll = s.coll ∧
    (modRoute s n f).plots = s.plots ∧ (modRoute s n f).sc = s.sc ∧ (modRoute s n f).granTaint = s.granTaint ∧
    (modRoute s n f).upd = s.upd ∧ (modRoute s n f).stages = s.stages ∧ (modRoute s n f).mem = s.mem ∧ (modRoute s n f).cellar = s.cellar ∧
    (modRoute s n f).part = s.part ∧ (modRoute s n f).clk = s.clk ∧ (modRoute s n f).dom = s.dom ∧ (modRoute s n f).pins = s.pins ∧
    (modRoute s n f).host = s.host ∧ (modRoute s n f).stew = s.stew ∧ (modRoute s n f).plan = s.plan ∧ (modRoute s n f).gran = s.gran ∧
    (modRoute s n f).fault = s.fault ∧ (modRoute s n f).hedge = s.hedge ∧ (modRoute s n f).recov = s.recov ∧
    (modRoute s n f).yoke = s.yoke ∧ (modRoute s n f).selfTest = s.selfTest ∧ (modRoute s n f).dossier = s.dossier ∧
    (modRoute s n f).testMode = s.testMode ∧ (modRoute s n f).fw = s.fw ∧ (modRoute s n f).pending = s.pending ∧
    (modRoute s n f).freeIx = s.freeIx := by
  and_intros <;> rfl

@[simp] theorem modCore_fields (s : State) (n : Nat) (f : CoreDie → CoreDie) :
    (modCore s n f).ports = s.ports ∧ (modCore s n f).mac = s.mac ∧ (modCore s n f).macFull = s.macFull ∧ (modCore s n f).wire = s.wire ∧
    (modCore s n f).ingress = s.ingress ∧ (modCore s n f).outq = s.outq ∧ (modCore s n f).delivered = s.delivered ∧
    (modCore s n f).route = s.route ∧ (modCore s n f).core = { s.core with die := Tab.upd {} s.core.die n f } ∧
    (modCore s n f).glean = s.glean ∧ (modCore s n f).sched = s.sched ∧ (modCore s n f).granCtl = s.granCtl ∧
    (modCore s n f).audit = s.audit ∧ (modCore s n f).coll = s.coll ∧ (modCore s n f).plots = s.plots ∧ (modCore s n f).sc = s.sc ∧
    (modCore s n f).granTaint = s.granTaint ∧ (modCore s n f).upd = s.upd ∧ (modCore s n f).stages = s.stages ∧
    (modCore s n f).mem = s.mem ∧ (modCore s n f).cellar = s.cellar ∧ (modCore s n f).part = s.part ∧ (modCore s n f).clk = s.clk ∧
    (modCore s n f).dom = s.dom ∧ (modCore s n f).pins = s.pins ∧ (modCore s n f).host = s.host ∧ (modCore s n f).stew = s.stew ∧
    (modCore s n f).plan = s.plan ∧ (modCore s n f).gran = s.gran ∧ (modCore s n f).fault = s.fault ∧ (modCore s n f).hedge = s.hedge ∧
    (modCore s n f).recov = s.recov ∧ (modCore s n f).yoke = s.yoke ∧ (modCore s n f).selfTest = s.selfTest ∧
    (modCore s n f).dossier = s.dossier ∧ (modCore s n f).testMode = s.testMode ∧ (modCore s n f).fw = s.fw ∧
    (modCore s n f).pending = s.pending ∧ (modCore s n f).freeIx = s.freeIx := by
  and_intros <;> rfl

@[simp] theorem nFlag_fields (s : State) (n : Nat) :
    (nFlag s n).ports = s.ports ∧ (nFlag s n).mac = s.mac ∧ (nFlag s n).macFull = s.macFull ∧ (nFlag s n).wire = s.wire ∧
    (nFlag s n).ingress = s.ingress ∧ (nFlag s n).outq = s.outq ∧ (nFlag s n).delivered = s.delivered ∧ (nFlag s n).route = s.route ∧
    (nFlag s n).core = s.core ∧ (nFlag s n).glean = s.glean ∧ (nFlag s n).sched = s.sched ∧ (nFlag s n).granCtl = s.granCtl ∧
    (nFlag s n).audit = { s.audit with nStep := s.audit.nStep ||| BitVec.ofNat 16 (2 ^ n), nAll := s.audit.nAll ||| BitVec.ofNat 16 (2 ^ n) } ∧
    (nFlag s n).coll = s.coll ∧ (nFlag s n).plots = s.plots ∧ (nFlag s n).sc = s.sc ∧ (nFlag s n).granTaint = s.granTaint ∧
    (nFlag s n).upd = s.upd ∧ (nFlag s n).stages = s.stages ∧ (nFlag s n).mem = s.mem ∧ (nFlag s n).cellar = s.cellar ∧
    (nFlag s n).part = s.part ∧ (nFlag s n).clk = s.clk ∧ (nFlag s n).dom = s.dom ∧ (nFlag s n).pins = s.pins ∧ (nFlag s n).host = s.host ∧
    (nFlag s n).stew = s.stew ∧ (nFlag s n).plan = s.plan ∧ (nFlag s n).gran = s.gran ∧ (nFlag s n).fault = s.fault ∧
    (nFlag s n).hedge = s.hedge ∧ (nFlag s n).recov = s.recov ∧ (nFlag s n).yoke = s.yoke ∧ (nFlag s n).selfTest = s.selfTest ∧
    (nFlag s n).dossier = s.dossier ∧ (nFlag s n).testMode = s.testMode ∧ (nFlag s n).fw = s.fw ∧ (nFlag s n).pending = s.pending ∧
    (nFlag s n).freeIx = s.freeIx := by
  and_intros <;> rfl

@[simp] theorem send_fields (s : State) (n : Nat) (p : Pkt) :
    (send s n p).ports = s.ports ∧ (send s n p).mac = s.mac ∧ (send s n p).macFull = s.macFull ∧ (send s n p).wire = s.wire ∧
    (send s n p).ingress = s.ingress ++ [{ port := none, unit := n, vl := p.vl, p }] ∧ (send s n p).outq = s.outq ∧
    (send s n p).delivered = s.delivered ∧ (send s n p).route = s.route ∧ (send s n p).core = s.core ∧ (send s n p).glean = s.glean ∧
    (send s n p).sched = s.sched ∧ (send s n p).granCtl = s.granCtl ∧ (send s n p).audit = s.audit ∧ (send s n p).coll = s.coll ∧
    (send s n p).plots = s.plots ∧ (send s n p).sc = s.sc ∧ (send s n p).granTaint = s.granTaint ∧ (send s n p).upd = s.upd ∧
    (send s n p).stages = s.stages ∧ (send s n p).mem = s.mem ∧ (send s n p).cellar = s.cellar ∧ (send s n p).part = s.part ∧
    (send s n p).clk = s.clk ∧ (send s n p).dom = s.dom ∧ (send s n p).pins = s.pins ∧ (send s n p).host = s.host ∧
    (send s n p).stew = s.stew ∧ (send s n p).plan = s.plan ∧ (send s n p).gran = s.gran ∧ (send s n p).fault = s.fault ∧
    (send s n p).hedge = s.hedge ∧ (send s n p).recov = s.recov ∧ (send s n p).yoke = s.yoke ∧ (send s n p).selfTest = s.selfTest ∧
    (send s n p).dossier = s.dossier ∧ (send s n p).testMode = s.testMode ∧ (send s n p).fw = s.fw ∧ (send s n p).pending = s.pending ∧
    (send s n p).freeIx = s.freeIx := by
  and_intros <;> rfl

end Sys2Proof.Laws
end

