-- ==== Sys2Proof/Laws/Ops.lean ====
section
/-!
SUPPORT. What the shared operations do, each said once: when a command has its effect, the tally and its ring, faults, the
completion of commands.
-/

set_option linter.unusedTactic false

namespace Sys2Proof.Laws
open Sys2Proof Sys2Proof.Machine

/-! ## When a command has its effect -/

theorem event_ok {s : State} {f : State → State} (h : s.live) : event s f = .next (f s) := by
  simp [event, h.1, h.2]

theorem always_ok {s : State} {f : State → State} (h : s.testMode = false) : always s f = .next (f s) := by
  simp [always, h]

theorem onPkt_ok {p : Pkt} {s : State} {f : State → State} (h : s.live) (hp : p.whole) : onPkt p s f = .next (f s) := by
  unfold Pkt.whole at hp
  simp [onPkt, hp, event_ok h]

theorem onCmd_ok {op : Half} {c : Cmd} {fmt : List (Nat × Nat)} {s : State} {f : State → State} (h : s.live)
    (hc : c.passes op fmt) : onCmd op c fmt true s f = .next (f s) := by
  obtain ⟨h1, h2, h3, h4, h5⟩ := hc
  have h6 : (takesEpoch op || c.epoch == 0) = true := by rcases h5 with h5 | h5 <;> simp [h5]
  simp only [onCmd, h.1, h.2, h1, h2, h3, h4, h6]
  simp

theorem event_next {s t : State} {f : State → State} (h : event s f = .next t) :
    s.testMode = false ∧ ((s.fault.fatal = true ∧ t = s) ∨ (s.fault.fatal = false ∧ t = f s)) := by
  unfold event at h
  repeat' split at h
  all_goals cases h
  all_goals simp_all

theorem always_next {s t : State} {f : State → State} (h : always s f = .next t) : s.testMode = false ∧ t = f s := by
  unfold always at h
  split at h
  all_goals cases h
  simp_all

theorem onPkt_next {p : Pkt} {s t : State} {f : State → State} (h : onPkt p s f = .next t) :
    p.whole ∧ s.testMode = false ∧ ((s.fault.fatal = true ∧ t = s) ∨ (s.fault.fatal = false ∧ t = f s)) := by
  unfold onPkt at h
  split at h
  · exact ⟨‹_›, event_next h⟩
  · cases h

/-! ## The tally -/

/-- An entry changes the host port and, when it is copied, the Steward port. -/
@[simp] theorem tally_fields (s : State) (e : Entry) :
    (tally s e).ports = s.ports ∧ (tally s e).mac = s.mac ∧ (tally s e).macFull = s.macFull ∧ (tally s e).wire = s.wire ∧
    (tally s e).ingress = s.ingress ∧ (tally s e).outq = s.outq ∧ (tally s e).delivered = s.delivered ∧ (tally s e).route = s.route ∧
    (tally s e).core = s.core ∧ (tally s e).glean = s.glean ∧ (tally s e).sched = s.sched ∧ (tally s e).granCtl = s.granCtl ∧
    (tally s e).audit = s.audit ∧ (tally s e).coll = s.coll ∧ (tally s e).plots = s.plots ∧ (tally s e).sc = s.sc ∧
    (tally s e).granTaint = s.granTaint ∧ (tally s e).upd = s.upd ∧ (tally s e).stages = s.stages ∧ (tally s e).mem = s.mem ∧
    (tally s e).cellar = s.cellar ∧ (tally s e).part = s.part ∧ (tally s e).clk = s.clk ∧ (tally s e).dom = s.dom ∧
    (tally s e).pins = s.pins ∧ (tally s e).plan = s.plan ∧ (tally s e).gran = s.gran ∧ (tally s e).fault = s.fault ∧
    (tally s e).hedge = s.hedge ∧ (tally s e).recov = s.recov ∧ (tally s e).yoke = s.yoke ∧ (tally s e).selfTest = s.selfTest ∧
    (tally s e).dossier = s.dossier ∧ (tally s e).testMode = s.testMode ∧ (tally s e).fw = s.fw ∧ (tally s e).pending = s.pending ∧
    (tally s e).freeIx = s.freeIx := by
  and_intros <;> (unfold tally; dsimp only; repeat' split) <;> rfl

@[simp] theorem tally_host (s : State) (e : Entry) : (tally s e).host = hostPush s.host (e.make s) := by
  unfold tally
  dsimp only
  repeat' split
  all_goals rfl

theorem setVec_tally (h : HostPort) (v : Nat) :
    (setVec h v).tally = h.tally ∧ (setVec h v).next = h.next ∧ (setVec h v).oldest = h.oldest ∧
      (setVec h v).tallyLog2 = h.tallyLog2 ∧ (setVec h v).pend = h.pend ∧ (setVec h v).gen = h.gen ∧
      (setVec h v).accepted = h.accepted ∧ (setVec h v).completed = h.completed ∧ (setVec h v).bads = h.bads ∧
      (setVec h v).rejects = h.rejects ∧ (setVec h v).tallySeen = h.tallySeen ∧ (setVec h v).doorbell = h.doorbell ∧
      (setVec h v).waitBad = h.waitBad ∧ (setVec h v).slots = h.slots ∧ (setVec h v).ledgerLog2 = h.ledgerLog2 ∧
      (setVec h v).preempts = h.preempts ∧ (setVec h v).authLast = h.authLast ∧ (setVec h v).intMask = h.intMask := by
  unfold setVec
  split <;> simp

theorem tallyVecs_fields (h0 h : HostPort) :
    (tallyVecs h0 h).tally = h.tally ∧ (tallyVecs h0 h).next = h.next ∧
    (tallyVecs h0 h).oldest = h.oldest ∧ (tallyVecs h0 h).tallyLog2 = h.tallyLog2 ∧ (tallyVecs h0 h).pend = h.pend ∧
    (tallyVecs h0 h).gen = h.gen ∧ (tallyVecs h0 h).accepted = h.accepted ∧ (tallyVecs h0 h).completed = h.completed ∧
    (tallyVecs h0 h).bads = h.bads ∧ (tallyVecs h0 h).rejects = h.rejects ∧ (tallyVecs h0 h).tallySeen = h.tallySeen ∧
    (tallyVecs h0 h).doorbell = h.doorbell ∧ (tallyVecs h0 h).waitBad = h.waitBad ∧ (tallyVecs h0 h).slots = h.slots ∧
    (tallyVecs h0 h).ledgerLog2 = h.ledgerLog2 ∧ (tallyVecs h0 h).preempts = h.preempts ∧ (tallyVecs h0 h).authLast = h.authLast ∧
    (tallyVecs h0 h).timeUp = h.timeUp := by
  have v (h : HostPort) (v : Nat) : (setVec h v).timeUp = h.timeUp := by unfold setVec; split <;> rfl
  unfold tallyVecs
  dsimp only
  repeat' split
  all_goals simp [setVec_tally, v]

/-- An entry written: the ring ends in it, NEXT has moved past it, and OLDEST only when the ring was full (17 R484). -/
theorem hostPush_ring (h : HostPort) (e : Tally) :
    (hostPush h e).tally = (ringPush h e).tally ∧ (hostPush h e).next = h.next + 1 ∧ (hostPush h e).oldest = (ringPush h e).oldest ∧
    (hostPush h e).tallyLog2 = h.tallyLog2 ∧ (hostPush h e).pend = h.pend ∧ (hostPush h e).gen = h.gen ∧
    (hostPush h e).accepted = h.accepted ∧ (hostPush h e).completed = h.completed ∧ (hostPush h e).bads = h.bads ∧
    (hostPush h e).rejects = h.rejects ∧ (hostPush h e).tallySeen = h.tallySeen ∧ (hostPush h e).doorbell = h.doorbell ∧
    (hostPush h e).waitBad = h.waitBad ∧ (hostPush h e).slots = h.slots ∧ (hostPush h e).ledgerLog2 = h.ledgerLog2 ∧
    (hostPush h e).preempts = h.preempts ∧ (hostPush h e).authLast = h.authLast := by
  have hr : (ringPush h e).next = h.next + 1 := by unfold ringPush; split <;> rfl
  have hk : (ringPush h e).tallyLog2 = h.tallyLog2 ∧ (ringPush h e).pend = h.pend ∧ (ringPush h e).gen = h.gen ∧
      (ringPush h e).accepted = h.accepted ∧ (ringPush h e).completed = h.completed ∧ (ringPush h e).bads = h.bads ∧
      (ringPush h e).rejects = h.rejects ∧ (ringPush h e).tallySeen = h.tallySeen ∧ (ringPush h e).doorbell = h.doorbell ∧
      (ringPush h e).waitBad = h.waitBad ∧ (ringPush h e).slots = h.slots ∧ (ringPush h e).ledgerLog2 = h.ledgerLog2 ∧
      (ringPush h e).preempts = h.preempts ∧ (ringPush h e).authLast = h.authLast := by
    unfold ringPush; split <;> simp
  unfold hostPush
  split <;> simp [tallyVecs_fields, setVec_tally, hr, hk]

theorem hostPush_newest (h : HostPort) (e : Tally) : (hostPush h e).tally.getLast? = some e := by
  rw [(hostPush_ring h e).1]
  unfold ringPush
  split <;> simp

@[simp] theorem tally_newest (s : State) (e : Entry) : newest (tally s e) = some (e.make s) := by
  simp [newest, hostPush_newest]

/-! ## Faults -/

theorem auditFault_fields (s : State) (code : Half) :
    (auditFault s code).ports = s.ports ∧ (auditFault s code).mac = s.mac ∧ (auditFault s code).macFull = s.macFull ∧
    (auditFault s code).wire = s.wire ∧ (auditFault s code).ingress = s.ingress ∧ (auditFault s code).outq = s.outq ∧
    (auditFault s code).delivered = s.delivered ∧ (auditFault s code).route = s.route ∧ (auditFault s code).core = s.core ∧
    (auditFault s code).glean = s.glean ∧ (auditFault s code).sched = s.sched ∧ (auditFault s code).granCtl = s.granCtl ∧
    (auditFault s code).coll = s.coll ∧ (auditFault s code).plots = s.plots ∧ (auditFault s code).sc = s.sc ∧
    (auditFault s code).granTaint = s.granTaint ∧ (auditFault s code).upd = s.upd ∧ (auditFault s code).stages = s.stages ∧
    (auditFault s code).mem = s.mem ∧ (auditFault s code).part = s.part ∧ (auditFault s code).clk = s.clk ∧
    (auditFault s code).dom = s.dom ∧ (auditFault s code).pins = s.pins ∧ (auditFault s code).host = s.host ∧
    (auditFault s code).stew = s.stew ∧ (auditFault s code).plan = s.plan ∧ (auditFault s code).gran = s.gran ∧
    (auditFault s code).fault = s.fault ∧ (auditFault s code).hedge = s.hedge ∧ (auditFault s code).recov = s.recov ∧
    (auditFault s code).yoke = s.yoke ∧ (auditFault s code).selfTest = s.selfTest ∧ (auditFault s code).dossier = s.dossier ∧
    (auditFault s code).testMode = s.testMode ∧ (auditFault s code).fw = s.fw ∧ (auditFault s code).pending = s.pending ∧
    (auditFault s code).freeIx = s.freeIx := by
  and_intros <;> (unfold auditFault nFlag; dsimp only; repeat' split) <;> rfl

@[simp] theorem raiseAt_fields (s : State) (code : Half) (ut : BitVec 4) (unit d0 d1 : Nat) :
    (raiseAt s code ut unit d0 d1).ports = s.ports ∧ (raiseAt s code ut unit d0 d1).mac = s.mac ∧
    (raiseAt s code ut unit d0 d1).macFull = s.macFull ∧ (raiseAt s code ut unit d0 d1).wire = s.wire ∧
    (raiseAt s code ut unit d0 d1).ingress = s.ingress ∧ (raiseAt s code ut unit d0 d1).outq = s.outq ∧
    (raiseAt s code ut unit d0 d1).delivered = s.delivered ∧ (raiseAt s code ut unit d0 d1).route = s.route ∧
    (raiseAt s code ut unit d0 d1).core = s.core ∧ (raiseAt s code ut unit d0 d1).glean = s.glean ∧
    (raiseAt s code ut unit d0 d1).sched = s.sched ∧ (raiseAt s code ut unit d0 d1).granCtl = s.granCtl ∧
    (raiseAt s code ut unit d0 d1).coll = s.coll ∧ (raiseAt s code ut unit d0 d1).plots = s.plots ∧
    (raiseAt s code ut unit d0 d1).sc = s.sc ∧ (raiseAt s code ut unit d0 d1).granTaint = s.granTaint ∧
    (raiseAt s code ut unit d0 d1).upd = s.upd ∧ (raiseAt s code ut unit d0 d1).stages = s.stages ∧
    (raiseAt s code ut unit d0 d1).mem = s.mem ∧ (raiseAt s code ut unit d0 d1).part = s.part ∧ (raiseAt s code ut unit d0 d1).clk = s.clk ∧
    (raiseAt s code ut unit d0 d1).dom = s.dom ∧ (raiseAt s code ut unit d0 d1).pins = s.pins ∧
    (raiseAt s code ut unit d0 d1).plan = s.plan ∧ (raiseAt s code ut unit d0 d1).gran = s.gran ∧
    (raiseAt s code ut unit d0 d1).hedge = s.hedge ∧ (raiseAt s code ut unit d0 d1).recov = s.recov ∧
    (raiseAt s code ut unit d0 d1).yoke = s.yoke ∧ (raiseAt s code ut unit d0 d1).selfTest = s.selfTest ∧
    (raiseAt s code ut unit d0 d1).dossier = s.dossier ∧ (raiseAt s code ut unit d0 d1).testMode = s.testMode ∧
    (raiseAt s code ut unit d0 d1).fw = s.fw ∧ (raiseAt s code ut unit d0 d1).pending = s.pending ∧
    (raiseAt s code ut unit d0 d1).freeIx = s.freeIx := by
  have h := auditFault_fields s code
  unfold raiseAt
  dsimp only
  split <;> simp [h]

/-- The fault block after a fault event; R502's FATAL state is in it. -/
theorem raiseAt_fault (s : State) (code : Half) (ut : BitVec 4) (unit d0 d1 : Nat) :
    (raiseAt s code ut unit d0 d1).fault = { countFault s.fault code ut unit with seen := seenAfter s code ut unit } := by
  unfold raiseAt
  dsimp only
  split <;> simp

@[simp] theorem raise_fields (s : State) (code : Half) (ut : BitVec 4) (unit : Nat) :
    (raise s code ut unit).ports = s.ports ∧ (raise s code ut unit).mac = s.mac ∧ (raise s code ut unit).macFull = s.macFull ∧
    (raise s code ut unit).wire = s.wire ∧ (raise s code ut unit).ingress = s.ingress ∧ (raise s code ut unit).outq = s.outq ∧
    (raise s code ut unit).delivered = s.delivered ∧ (raise s code ut unit).route = s.route ∧ (raise s code ut unit).core = s.core ∧
    (raise s code ut unit).glean = s.glean ∧ (raise s code ut unit).sched = s.sched ∧ (raise s code ut unit).granCtl = s.granCtl ∧
    (raise s code ut unit).coll = s.coll ∧ (raise s code ut unit).plots = s.plots ∧ (raise s code ut unit).sc = s.sc ∧
    (raise s code ut unit).granTaint = s.granTaint ∧ (raise s code ut unit).upd = s.upd ∧ (raise s code ut unit).stages = s.stages ∧
    (raise s code ut unit).mem = s.mem ∧ (raise s code ut unit).part = s.part ∧ (raise s code ut unit).clk = s.clk ∧
    (raise s code ut unit).dom = s.dom ∧ (raise s code ut unit).pins = s.pins ∧ (raise s code ut unit).plan = s.plan ∧
    (raise s code ut unit).gran = s.gran ∧ (raise s code ut unit).hedge = s.hedge ∧ (raise s code ut unit).recov = s.recov ∧
    (raise s code ut unit).yoke = s.yoke ∧ (raise s code ut unit).selfTest = s.selfTest ∧ (raise s code ut unit).dossier = s.dossier ∧
    (raise s code ut unit).testMode = s.testMode ∧ (raise s code ut unit).fw = s.fw ∧ (raise s code ut unit).pending = s.pending := by
  simp [raise]

theorem raise_fault (s : State) (code : Half) (ut : BitVec 4) (unit : Nat) :
    (raise s code ut unit).fault = { countFault s.fault code ut unit with seen := seenAfter s code ut unit } := by
  unfold raise
  rw [raiseAt_fault]
  rfl

/-! ## Completion of commands -/

@[simp] theorem complete_fields (s : State) (c : Cmd) (e : Entry) (data : List Byte) :
    (complete s c e data).ports = s.ports ∧ (complete s c e data).mac = s.mac ∧ (complete s c e data).macFull = s.macFull ∧
    (complete s c e data).wire = s.wire ∧ (complete s c e data).outq = s.outq ∧ (complete s c e data).delivered = s.delivered ∧
    (complete s c e data).route = s.route ∧ (complete s c e data).core = s.core ∧ (complete s c e data).glean = s.glean ∧
    (complete s c e data).sched = s.sched ∧ (complete s c e data).granCtl = s.granCtl ∧ (complete s c e data).audit = s.audit ∧
    (complete s c e data).coll = s.coll ∧ (complete s c e data).plots = s.plots ∧ (complete s c e data).sc = s.sc ∧
    (complete s c e data).granTaint = s.granTaint ∧ (complete s c e data).upd = s.upd ∧ (complete s c e data).stages = s.stages ∧
    (complete s c e data).mem = s.mem ∧ (complete s c e data).cellar = s.cellar ∧ (complete s c e data).part = s.part ∧
    (complete s c e data).clk = s.clk ∧ (complete s c e data).dom = s.dom ∧ (complete s c e data).pins = s.pins ∧
    (complete s c e data).plan = s.plan ∧ (complete s c e data).gran = s.gran ∧ (complete s c e data).fault = s.fault ∧
    (complete s c e data).hedge = s.hedge ∧ (complete s c e data).recov = s.recov ∧ (complete s c e data).yoke = s.yoke ∧
    (complete s c e data).selfTest = s.selfTest ∧ (complete s c e data).dossier = s.dossier ∧ (complete s c e data).testMode = s.testMode ∧
    (complete s c e data).fw = s.fw ∧ (complete s c e data).pending = s.pending ∧ (complete s c e data).freeIx = s.freeIx := by
  unfold complete
  cases c.auth <;> simp [originate]

@[simp] theorem cmdDone_fields (s : State) (c : Cmd) (op : Half) (st v0 v1 : Nat) (data : List Byte) :
    (cmdDone s c op st v0 v1 data).ports = s.ports ∧ (cmdDone s c op st v0 v1 data).mac = s.mac ∧
    (cmdDone s c op st v0 v1 data).macFull = s.macFull ∧ (cmdDone s c op st v0 v1 data).wire = s.wire ∧
    (cmdDone s c op st v0 v1 data).outq = s.outq ∧ (cmdDone s c op st v0 v1 data).delivered = s.delivered ∧
    (cmdDone s c op st v0 v1 data).route = s.route ∧ (cmdDone s c op st v0 v1 data).core = s.core ∧
    (cmdDone s c op st v0 v1 data).glean = s.glean ∧ (cmdDone s c op st v0 v1 data).sched = s.sched ∧
    (cmdDone s c op st v0 v1 data).granCtl = s.granCtl ∧ (cmdDone s c op st v0 v1 data).audit = s.audit ∧
    (cmdDone s c op st v0 v1 data).coll = s.coll ∧ (cmdDone s c op st v0 v1 data).plots = s.plots ∧
    (cmdDone s c op st v0 v1 data).sc = s.sc ∧ (cmdDone s c op st v0 v1 data).granTaint = s.granTaint ∧
    (cmdDone s c op st v0 v1 data).upd = s.upd ∧ (cmdDone s c op st v0 v1 data).stages = s.stages ∧
    (cmdDone s c op st v0 v1 data).mem = s.mem ∧ (cmdDone s c op st v0 v1 data).cellar = s.cellar ∧
    (cmdDone s c op st v0 v1 data).part = s.part ∧ (cmdDone s c op st v0 v1 data).clk = s.clk ∧ (cmdDone s c op st v0 v1 data).dom = s.dom ∧
    (cmdDone s c op st v0 v1 data).pins = s.pins ∧ (cmdDone s c op st v0 v1 data).plan = s.plan ∧
    (cmdDone s c op st v0 v1 data).gran = s.gran ∧ (cmdDone s c op st v0 v1 data).fault = s.fault ∧
    (cmdDone s c op st v0 v1 data).hedge = s.hedge ∧ (cmdDone s c op st v0 v1 data).recov = s.recov ∧
    (cmdDone s c op st v0 v1 data).yoke = s.yoke ∧ (cmdDone s c op st v0 v1 data).selfTest = s.selfTest ∧
    (cmdDone s c op st v0 v1 data).dossier = s.dossier ∧ (cmdDone s c op st v0 v1 data).testMode = s.testMode ∧
    (cmdDone s c op st v0 v1 data).fw = s.fw ∧ (cmdDone s c op st v0 v1 data).pending = s.pending ∧
    (cmdDone s c op st v0 v1 data).freeIx = s.freeIx := by
  unfold cmdDone
  dsimp only
  split <;> simp

@[simp] theorem recoveryDone_fields (s : State) (c : Cmd) (op : Half) (ut : BitVec 4) (unit st obj : Nat) :
    (recoveryDone s c op ut unit st obj).ports = s.ports ∧ (recoveryDone s c op ut unit st obj).mac = s.mac ∧
    (recoveryDone s c op ut unit st obj).macFull = s.macFull ∧ (recoveryDone s c op ut unit st obj).wire = s.wire ∧
    (recoveryDone s c op ut unit st obj).outq = s.outq ∧ (recoveryDone s c op ut unit st obj).delivered = s.delivered ∧
    (recoveryDone s c op ut unit st obj).route = s.route ∧ (recoveryDone s c op ut unit st obj).core = s.core ∧
    (recoveryDone s c op ut unit st obj).glean = s.glean ∧ (recoveryDone s c op ut unit st obj).sched = s.sched ∧
    (recoveryDone s c op ut unit st obj).granCtl = s.granCtl ∧ (recoveryDone s c op ut unit st obj).audit = s.audit ∧
    (recoveryDone s c op ut unit st obj).coll = s.coll ∧ (recoveryDone s c op ut unit st obj).plots = s.plots ∧
    (recoveryDone s c op ut unit st obj).sc = s.sc ∧ (recoveryDone s c op ut unit st obj).granTaint = s.granTaint ∧
    (recoveryDone s c op ut unit st obj).upd = s.upd ∧ (recoveryDone s c op ut unit st obj).stages = s.stages ∧
    (recoveryDone s c op ut unit st obj).mem = s.mem ∧ (recoveryDone s c op ut unit st obj).cellar = s.cellar ∧
    (recoveryDone s c op ut unit st obj).part = s.part ∧ (recoveryDone s c op ut unit st obj).clk = s.clk ∧
    (recoveryDone s c op ut unit st obj).dom = s.dom ∧ (recoveryDone s c op ut unit st obj).pins = s.pins ∧
    (recoveryDone s c op ut unit st obj).plan = s.plan ∧ (recoveryDone s c op ut unit st obj).gran = s.gran ∧
    (recoveryDone s c op ut unit st obj).fault = s.fault ∧ (recoveryDone s c op ut unit st obj).hedge = s.hedge ∧
    (recoveryDone s c op ut unit st obj).recov = s.recov ∧ (recoveryDone s c op ut unit st obj).yoke = s.yoke ∧
    (recoveryDone s c op ut unit st obj).selfTest = s.selfTest ∧ (recoveryDone s c op ut unit st obj).dossier = s.dossier ∧
    (recoveryDone s c op ut unit st obj).testMode = s.testMode ∧ (recoveryDone s c op ut unit st obj).fw = s.fw ∧
    (recoveryDone s c op ut unit st obj).pending = s.pending ∧ (recoveryDone s c op ut unit st obj).freeIx = s.freeIx := by
  unfold recoveryDone
  simp

end Sys2Proof.Laws
end

