-- ==== Sys2Proof/Laws/PerInstr.lean ====
section
/-!
SUPPORT. The family Widths, one lemma per command: every operand of a well-formed command has its width.
-/

namespace Sys2Proof.Laws

/-- Every sized operand of a well-formed command passes its check. -/
def Widths.Statement (i : Instr) : Prop := i.wf = true → ∀ x ∈ i.parts, x.ok = true

/-- What every lemma of the family rests on. -/
theorem Widths.all (i : Instr) : Widths.Statement i := fun h => List.all_eq_true.mp h

theorem Widths.registerWrite (off : BitVec 32) (w : RegW) : Widths.Statement (.registerWrite off w) := Widths.all _
theorem Widths.ledgerDoorbell (slots : List (Nat × Byte)) (w : RegW) : Widths.Statement (.ledgerDoorbell slots w) := Widths.all _
theorem Widths.ledgerAccept : Widths.Statement (.ledgerAccept) := Widths.all _
theorem Widths.tallySeen (w : RegW) : Widths.Statement (.tallySeen w) := Widths.all _
theorem Widths.tallyStatus (w : RegW) : Widths.Statement (.tallyStatus w) := Widths.all _
theorem Widths.ringCfg (w : RegW) : Widths.Statement (.ringCfg w) := Widths.all _
theorem Widths.intMask (w : RegW) : Widths.Statement (.intMask w) := Widths.all _
theorem Widths.intTime : Widths.Statement (.intTime) := Widths.all _
theorem Widths.bar4Write (off : BitVec 29) (bytes : List Byte) : Widths.Statement (.bar4Write off bytes) := Widths.all _
theorem Widths.gleanTail (w : RegW) : Widths.Statement (.gleanTail w) := Widths.all _
theorem Widths.memCtl (w : RegW) : Widths.Statement (.memCtl w) := Widths.all _
theorem Widths.tbCtl (w : RegW) : Widths.Statement (.tbCtl w) := Widths.all _
theorem Widths.nop (c : Cmd) : Widths.Statement (.nop c) := Widths.all _
theorem Widths.planStage (c : Cmd) (bytes : List Byte) (e : ReadEnd) : Widths.Statement (.planStage c bytes e) := Widths.all _
theorem Widths.planWrite (c : Cmd) : Widths.Statement (.planWrite c) := Widths.all _
theorem Widths.planValidate (c : Cmd) : Widths.Statement (.planValidate c) := Widths.all _
theorem Widths.planValidated (slot : Bool) : Widths.Statement (.planValidated slot) := Widths.all _
theorem Widths.planCommit (c : Cmd) : Widths.Statement (.planCommit c) := Widths.all _
theorem Widths.commitLoadEnd : Widths.Statement (.commitLoadEnd) := Widths.all _
theorem Widths.planLoftUe : Widths.Statement (.planLoftUe) := Widths.all _
theorem Widths.planCancel (c : Cmd) : Widths.Statement (.planCancel c) := Widths.all _
theorem Widths.headlandArm (c : Cmd) : Widths.Statement (.headlandArm c) := Widths.all _
theorem Widths.quiescing : Widths.Statement (.quiescing) := Widths.all _
theorem Widths.planAbandoned : Widths.Statement (.planAbandoned) := Widths.all _
theorem Widths.headlandPass : Widths.Statement (.headlandPass) := Widths.all _
theorem Widths.planCommitted (bad : List Nat) : Widths.Statement (.planCommitted bad) := Widths.all _
theorem Widths.plotStart (c : Cmd) (e : Ecc) : Widths.Statement (.plotStart c e) := Widths.all _
theorem Widths.plotStop (c : Cmd) : Widths.Statement (.plotStop c) := Widths.all _
theorem Widths.plotStopped (p : Fin 32) : Widths.Statement (.plotStopped p) := Widths.all _
theorem Widths.updGroupWrite (c : Cmd) : Widths.Statement (.updGroupWrite c) := Widths.all _
theorem Widths.rptWrite (c : Cmd) : Widths.Statement (.rptWrite c) := Widths.all _
theorem Widths.rptWritten : Widths.Statement (.rptWritten) := Widths.all _
theorem Widths.rptRead (c : Cmd) : Widths.Statement (.rptRead c) := Widths.all _
theorem Widths.memRequest (c : Cmd) : Widths.Statement (.memRequest c) := Widths.all _
theorem Widths.coachPut (c : Cmd) : Widths.Statement (.coachPut c) := Widths.all _
theorem Widths.coachGet (c : Cmd) : Widths.Statement (.coachGet c) := Widths.all _
theorem Widths.provHash (c : Cmd) : Widths.Statement (.provHash c) := Widths.all _
theorem Widths.provDone (die : Fin 2) (errs : List (Fin 4 × Bool)) : Widths.Statement (.provDone die errs) := Widths.all _
theorem Widths.keyLoadClear (c : Cmd) : Widths.Statement (.keyLoadClear c) := Widths.all _
theorem Widths.keyLoadWrapped (c : Cmd) : Widths.Statement (.keyLoadWrapped c) := Widths.all _
theorem Widths.keyErase (c : Cmd) : Widths.Statement (.keyErase c) := Widths.all _
theorem Widths.keyEraseAll (c : Cmd) : Widths.Statement (.keyEraseAll c) := Widths.all _
theorem Widths.regRead (c : Cmd) : Widths.Statement (.regRead c) := Widths.all _
theorem Widths.regWrite (c : Cmd) (clash : Option DWord) : Widths.Statement (.regWrite c clash) := Widths.all _
theorem Widths.tallyRead (c : Cmd) : Widths.Statement (.tallyRead c) := Widths.all _
theorem Widths.fwUpdate (c : Cmd) (sigOk : Bool) : Widths.Statement (.fwUpdate c sigOk) := Widths.all _
theorem Widths.warmReset (c : Cmd) : Widths.Statement (.warmReset c) := Widths.all _
theorem Widths.testEntry (c : Cmd) : Widths.Statement (.testEntry c) := Widths.all _
theorem Widths.dossierCapture (c : Cmd) : Widths.Statement (.dossierCapture c) := Widths.all _
theorem Widths.dossierRead (c : Cmd) : Widths.Statement (.dossierRead c) := Widths.all _
theorem Widths.dossierDone : Widths.Statement (.dossierDone) := Widths.all _
theorem Widths.furrowReset (c : Cmd) : Widths.Statement (.furrowReset c) := Widths.all _
theorem Widths.furrowResetResend : Widths.Statement (.furrowResetResend) := Widths.all _
theorem Widths.shareClearTorn (c : Cmd) : Widths.Statement (.shareClearTorn c) := Widths.all _
theorem Widths.stageReset (c : Cmd) : Widths.Statement (.stageReset c) := Widths.all _
theorem Widths.portRetrain (c : Cmd) : Widths.Statement (.portRetrain c) := Widths.all _
theorem Widths.sourceReset (c : Cmd) : Widths.Statement (.sourceReset c) := Widths.all _
theorem Widths.hedgeAdd (c : Cmd) : Widths.Statement (.hedgeAdd c) := Widths.all _
theorem Widths.admitOpen (c : Cmd) : Widths.Statement (.admitOpen c) := Widths.all _
theorem Widths.yokePartner (c : Cmd) : Widths.Statement (.yokePartner c) := Widths.all _
theorem Widths.yokeShadow (c : Cmd) : Widths.Statement (.yokeShadow c) := Widths.all _
theorem Widths.yokeEnd (c : Cmd) : Widths.Statement (.yokeEnd c) := Widths.all _
theorem Widths.admitNative (c : Cmd) : Widths.Statement (.admitNative c) := Widths.all _
theorem Widths.admitCompatibility (c : Cmd) : Widths.Statement (.admitCompatibility c) := Widths.all _
theorem Widths.admitDirect (c : Cmd) : Widths.Statement (.admitDirect c) := Widths.all _
theorem Widths.selfTest (c : Cmd) : Widths.Statement (.selfTest c) := Widths.all _
theorem Widths.selftestDone (failed : BitVec 7) : Widths.Statement (.selftestDone failed) := Widths.all _
theorem Widths.granaryReadmit (c : Cmd) : Widths.Statement (.granaryReadmit c) := Widths.all _
theorem Widths.yokeReport (c : Cmd) : Widths.Statement (.yokeReport c) := Widths.all _
theorem Widths.mgtCmd (stew : Bool) (port : BitVec 10) (mac : BitVec 48) (p : Pkt) (sigOk : Bool) : Widths.Statement (.mgtCmd stew port mac p sigOk) := Widths.all _
theorem Widths.mgtResp (port : BitVec 10) (p : Pkt) : Widths.Statement (.mgtResp port p) := Widths.all _
theorem Widths.mgtBeacon (port : BitVec 10) (p : Pkt) : Widths.Statement (.mgtBeacon port p) := Widths.all _
theorem Widths.beaconSend : Widths.Statement (.beaconSend) := Widths.all _
theorem Widths.beaconLost (dev : BitVec 14) : Widths.Statement (.beaconLost dev) := Widths.all _
theorem Widths.mgtHedge (port : BitVec 10) (p : Pkt) : Widths.Statement (.mgtHedge port p) := Widths.all _
theorem Widths.hedgeRepeat : Widths.Statement (.hedgeRepeat) := Widths.all _
theorem Widths.mgtQuench (p : Pkt) : Widths.Statement (.mgtQuench p) := Widths.all _
theorem Widths.quenchExpiry (field : BitVec 10) (line : BitVec 57) : Widths.Statement (.quenchExpiry field line) := Widths.all _
theorem Widths.packetLookup (n : Option (BitVec 10)) (q : QueuePlace) (chk : LookupChecks) : Widths.Statement (.packetLookup n q chk) := Widths.all _
theorem Widths.dispatch (n : Option (BitVec 10)) (q : QueuePlace) (e : Ecc) : Widths.Statement (.dispatch n q e) := Widths.all _
theorem Widths.escAfter (n : Option (BitVec 10)) (q : QueuePlace) : Widths.Statement (.escAfter n q) := Widths.all _
theorem Widths.serveUnit (n : BitVec 10) (e : Ecc) : Widths.Statement (.serveUnit n e) := Widths.all _
theorem Widths.refill : Widths.Statement (.refill) := Widths.all _
theorem Widths.roomRequest (req : BitVec 11) (sub : BitVec 3) (bytes : Nat) (refs : BitVec 16) : Widths.Statement (.roomRequest req sub bytes refs) := Widths.all _
theorem Widths.roomRelease (ptr : Word) : Widths.Statement (.roomRelease ptr) := Widths.all _
theorem Widths.gleanWrite (east : Bool) : Widths.Statement (.gleanWrite east) := Widths.all _
theorem Widths.dataFlit (n : BitVec 10) (f : Flit) (cw : Ecc) : Widths.Statement (.dataFlit n f cw) := Widths.all _
theorem Widths.credit (n : BitVec 10) (f : Flit) (cw : Ecc) : Widths.Statement (.credit n f cw) := Widths.all _
theorem Widths.creditTimer (n : BitVec 10) : Widths.Statement (.creditTimer n) := Widths.all _
theorem Widths.nak (n : BitVec 10) (f : Flit) (cw : Ecc) : Widths.Statement (.nak n f cw) := Widths.all _
theorem Widths.retryTo (n : BitVec 10) : Widths.Statement (.retryTo n) := Widths.all _
theorem Widths.init (n : BitVec 10) (f : Flit) (cw : Ecc) : Widths.Statement (.init n f cw) := Widths.all _
theorem Widths.initResend (n : BitVec 10) : Widths.Statement (.initResend n) := Widths.all _
theorem Widths.trainingDone (n : BitVec 10) : Widths.Statement (.trainingDone n) := Widths.all _
theorem Widths.trainingTimeout (n : BitVec 10) : Widths.Statement (.trainingTimeout n) := Widths.all _
theorem Widths.downRetry (n : BitVec 10) : Widths.Statement (.downRetry n) := Widths.all _
theorem Widths.laneDown (n : BitVec 10) (lane : Fin 8) : Widths.Statement (.laneDown n lane) := Widths.all _
theorem Widths.restripeDone (n : BitVec 10) : Widths.Statement (.restripeDone n) := Widths.all _
theorem Widths.laneMap (n : BitVec 10) (f : Flit) (cw : Ecc) : Widths.Statement (.laneMap n f cw) := Widths.all _
theorem Widths.edgeFrame (n : BitVec 10) (f : List Byte) : Widths.Statement (.edgeFrame n f) := Widths.all _
theorem Widths.pauseExpiry (n : BitVec 10) (pcp : Option (Fin 8)) : Widths.Statement (.pauseExpiry n pcp) := Widths.all _
theorem Widths.xoffRefresh (n : BitVec 10) : Widths.Statement (.xoffRefresh n) := Widths.all _
theorem Widths.macAge (mac : BitVec 48) (vlan : BitVec 12) : Widths.Statement (.macAge mac vlan) := Widths.all _
theorem Widths.colWaybill (slot : BitVec 12) (p : Pkt) : Widths.Statement (.colWaybill slot p) := Widths.all _
theorem Widths.colGrant (g : SlotPkt) : Widths.Statement (.colGrant g) := Widths.all _
theorem Widths.colData (place : ColPlace) (p : Pkt) : Widths.Statement (.colData place p) := Widths.all _
theorem Widths.colDataEnd (place : ColPlace) (p : Pkt) : Widths.Statement (.colDataEnd place p) := Widths.all _
theorem Widths.colCredit (p : Pkt) : Widths.Statement (.colCredit p) := Widths.all _
theorem Widths.colOutcome (slot : Option (BitVec 12)) (p : Pkt) : Widths.Statement (.colOutcome slot p) := Widths.all _
theorem Widths.colAbort (slot : BitVec 12) (p : Pkt) : Widths.Statement (.colAbort slot p) := Widths.all _
theorem Widths.moveData (p : Pkt) : Widths.Statement (.moveData p) := Widths.all _
theorem Widths.moveDone (p : Pkt) : Widths.Statement (.moveDone p) := Widths.all _
theorem Widths.updFeedGrant (p : Pkt) (bill : List Byte) (chk : Bool) : Widths.Statement (.updFeedGrant p bill chk) := Widths.all _
theorem Widths.updChunkApply (k : BitVec 12) (r : DescRead) : Widths.Statement (.updChunkApply k r) := Widths.all _
theorem Widths.precondPass (g : ShareGroup) (r : DescRead) : Widths.Statement (.precondPass g r) := Widths.all _
theorem Widths.rootRefreshDone (g : ShareGroup) (chk : Bool) : Widths.Statement (.rootRefreshDone g chk) := Widths.all _
theorem Widths.arm (p : Fin 32) : Widths.Statement (.arm p) := Widths.all _
theorem Widths.mm (p : Fin 32) (e : LineErrs) : Widths.Statement (.mm p e) := Widths.all _
theorem Widths.mmSp (p : Fin 32) (e : LineErrs) : Widths.Statement (.mmSp p e) := Widths.all _
theorem Widths.sparseMeta (p : Fin 32) : Widths.Statement (.sparseMeta p) := Widths.all _
theorem Widths.sparseIndex (p : Fin 32) : Widths.Statement (.sparseIndex p) := Widths.all _
theorem Widths.accDone (p : Fin 32) (b : Bool) : Widths.Statement (.accDone p b) := Widths.all _
theorem Widths.accLoad (p : Fin 32) (e : LineErrs) : Widths.Statement (.accLoad p e) := Widths.all _
theorem Widths.accStore (p : Fin 32) : Widths.Statement (.accStore p) := Widths.all _
theorem Widths.accRelease (p : Fin 32) : Widths.Statement (.accRelease p) := Widths.all _
theorem Widths.accZero (p : Fin 32) : Widths.Statement (.accZero p) := Widths.all _
theorem Widths.accPathEnd (p : Fin 32) : Widths.Statement (.accPathEnd p) := Widths.all _
theorem Widths.harrowAdd (p : Fin 32) (e : LineErrs) : Widths.Statement (.harrowAdd p e) := Widths.all _
theorem Widths.harrowSub (p : Fin 32) (e : LineErrs) : Widths.Statement (.harrowSub p e) := Widths.all _
theorem Widths.harrowMul (p : Fin 32) (e : LineErrs) : Widths.Statement (.harrowMul p e) := Widths.all _
theorem Widths.harrowFma (p : Fin 32) (e : LineErrs) : Widths.Statement (.harrowFma p e) := Widths.all _
theorem Widths.harrowDiv (p : Fin 32) (e : LineErrs) : Widths.Statement (.harrowDiv p e) := Widths.all _
theorem Widths.harrowMin (p : Fin 32) (e : LineErrs) : Widths.Statement (.harrowMin p e) := Widths.all _
theorem Widths.harrowMax (p : Fin 32) (e : LineErrs) : Widths.Statement (.harrowMax p e) := Widths.all _
theorem Widths.harrowAbs (p : Fin 32) (e : LineErrs) : Widths.Statement (.harrowAbs p e) := Widths.all _
theorem Widths.harrowNeg (p : Fin 32) (e : LineErrs) : Widths.Statement (.harrowNeg p e) := Widths.all _
theorem Widths.harrowSqrt (p : Fin 32) (e : LineErrs) : Widths.Statement (.harrowSqrt p e) := Widths.all _
theorem Widths.harrowRcp (p : Fin 32) (e : LineErrs) : Widths.Statement (.harrowRcp p e) := Widths.all _
theorem Widths.harrowRsqrt (p : Fin 32) (e : LineErrs) : Widths.Statement (.harrowRsqrt p e) := Widths.all _
theorem Widths.harrowExp2 (p : Fin 32) (e : LineErrs) : Widths.Statement (.harrowExp2 p e) := Widths.all _
theorem Widths.harrowLog2 (p : Fin 32) (e : LineErrs) : Widths.Statement (.harrowLog2 p e) := Widths.all _
theorem Widths.harrowCvt (p : Fin 32) (e : LineErrs) : Widths.Statement (.harrowCvt p e) := Widths.all _
theorem Widths.harrowMov (p : Fin 32) (e : LineErrs) : Widths.Statement (.harrowMov p e) := Widths.all _
theorem Widths.harrowCmp (p : Fin 32) (e : LineErrs) : Widths.Statement (.harrowCmp p e) := Widths.all _
theorem Widths.harrowIadd (p : Fin 32) (e : LineErrs) : Widths.Statement (.harrowIadd p e) := Widths.all _
theorem Widths.harrowAnd (p : Fin 32) (e : LineErrs) : Widths.Statement (.harrowAnd p e) := Widths.all _
theorem Widths.harrowOr (p : Fin 32) (e : LineErrs) : Widths.Statement (.harrowOr p e) := Widths.all _
theorem Widths.harrowXor (p : Fin 32) (e : LineErrs) : Widths.Statement (.harrowXor p e) := Widths.all _
theorem Widths.harrowRsum (p : Fin 32) (e : LineErrs) : Widths.Statement (.harrowRsum p e) := Widths.all _
theorem Widths.harrowRmin (p : Fin 32) (e : LineErrs) : Widths.Statement (.harrowRmin p e) := Widths.all _
theorem Widths.harrowRmax (p : Fin 32) (e : LineErrs) : Widths.Statement (.harrowRmax p e) := Widths.all _
theorem Widths.compress (p : Fin 32) (e : LineErrs) : Widths.Statement (.compress p e) := Widths.all _
theorem Widths.expand (p : Fin 32) (e : LineErrs) : Widths.Statement (.expand p e) := Widths.all _
theorem Widths.gather (p : Fin 32) (e : LineErrs) : Widths.Statement (.gather p e) := Widths.all _
theorem Widths.scatter (p : Fin 32) (e : LineErrs) : Widths.Statement (.scatter p e) := Widths.all _
theorem Widths.xload (p : Fin 32) (e : LineErrs) : Widths.Statement (.xload p e) := Widths.all _
theorem Widths.xstore (p : Fin 32) (e : LineErrs) : Widths.Statement (.xstore p e) := Widths.all _
theorem Widths.xlist (p : Fin 32) (e : LineErrs) : Widths.Statement (.xlist p e) := Widths.all _
theorem Widths.sparsify (p : Fin 32) (e : LineErrs) : Widths.Statement (.sparsify p e) := Widths.all _
theorem Widths.prune2d (p : Fin 32) (e : LineErrs) : Widths.Statement (.prune2d p e) := Widths.all _
theorem Widths.keyset (p : Fin 32) (e : LineErrs) : Widths.Statement (.keyset p e) := Widths.all _
theorem Widths.hdone (p : Fin 32) : Widths.Statement (.hdone p) := Widths.all _
theorem Widths.seq (p : Fin 32) (e : Ecc) : Widths.Statement (.seq p e) := Widths.all _
theorem Widths.jump (p : Fin 32) (e : Ecc) : Widths.Statement (.jump p e) := Widths.all _
theorem Widths.brt (p : Fin 32) (e : Ecc) : Widths.Statement (.brt p e) := Widths.all _
theorem Widths.brf (p : Fin 32) (e : Ecc) : Widths.Statement (.brf p e) := Widths.all _
theorem Widths.loop (p : Fin 32) (e : Ecc) : Widths.Statement (.loop p e) := Widths.all _
theorem Widths.halt (p : Fin 32) : Widths.Statement (.halt p) := Widths.all _
theorem Widths.plotDone (p : Fin 32) : Widths.Statement (.plotDone p) := Widths.all _
theorem Widths.set (p : Fin 32) : Widths.Statement (.set p) := Widths.all _
theorem Widths.copAdd (p : Fin 32) : Widths.Statement (.copAdd p) := Widths.all _
theorem Widths.setlim (p : Fin 32) : Widths.Statement (.setlim p) := Widths.all _
theorem Widths.setcfg (p : Fin 32) : Widths.Statement (.setcfg p) := Widths.all _
theorem Widths.waitEnd (p : Fin 32) (n : Nat) : Widths.Statement (.waitEnd p n) := Widths.all _
theorem Widths.sset (p : Fin 32) : Widths.Statement (.sset p) := Widths.all _
theorem Widths.sclr (p : Fin 32) : Widths.Statement (.sclr p) := Widths.all _
theorem Widths.scinc (p : Fin 32) : Widths.Statement (.scinc p) := Widths.all _
theorem Widths.seqWaitLimit (p : Fin 32) : Widths.Statement (.seqWaitLimit p) := Widths.all _
theorem Widths.gload (p : Fin 32) : Widths.Statement (.gload p) := Widths.all _
theorem Widths.gstore (p : Fin 32) : Widths.Statement (.gstore p) := Widths.all _
theorem Widths.tqDrop (p : Fin 32) : Widths.Statement (.tqDrop p) := Widths.all _
theorem Widths.msend (p : Fin 32) : Widths.Statement (.msend p) := Widths.all _
theorem Widths.waybill (p : Fin 32) : Widths.Statement (.waybill p) := Widths.all _
theorem Widths.csend (p : Fin 32) : Widths.Statement (.csend p) := Widths.all _
theorem Widths.transferStart (p : Fin 32) (e : LineErrs) : Widths.Statement (.transferStart p e) := Widths.all _
theorem Widths.transferEnd (p : Fin 32) (n : Nat) : Widths.Statement (.transferEnd p n) := Widths.all _
theorem Widths.dtap (p : Fin 32) : Widths.Statement (.dtap p) := Widths.all _
theorem Widths.dlog (p : Fin 32) : Widths.Statement (.dlog p) := Widths.all _
theorem Widths.phArray (p : Fin 32) : Widths.Statement (.phArray p) := Widths.all _
theorem Widths.phHarrow (p : Fin 32) : Widths.Statement (.phHarrow p) := Widths.all _
theorem Widths.phFabric (p : Fin 32) : Widths.Statement (.phFabric p) := Widths.all _
theorem Widths.winnowRecord (st : Fin 24) : Widths.Statement (.winnowRecord st) := Widths.all _
theorem Widths.mergePass (st : Fin 24) (e : Ecc) : Widths.Statement (.mergePass st e) := Widths.all _
theorem Widths.stageDone (st : Fin 24) (e : Ecc) : Widths.Statement (.stageDone st e) := Widths.all _
theorem Widths.load (n : Option (BitVec 10)) (p : Pkt) (upset : List (BitVec 12)) : Widths.Statement (.load n p upset) := Widths.all _
theorem Widths.store (n : Option (BitVec 10)) (p : Pkt) (upset : List (BitVec 12)) : Widths.Statement (.store n p upset) := Widths.all _
theorem Widths.storeRel (n : Option (BitVec 10)) (p : Pkt) (upset : List (BitVec 12)) : Widths.Statement (.storeRel n p upset) := Widths.all _
theorem Widths.atomic (n : Option (BitVec 10)) (p : Pkt) (upset : List (BitVec 12)) : Widths.Statement (.atomic n p upset) := Widths.all _
theorem Widths.trackedArrival (p : Pkt) : Widths.Statement (.trackedArrival p) := Widths.all _
theorem Widths.lineApply (line : BitVec 57) (e : Ecc) : Widths.Statement (.lineApply line e) := Widths.all _
theorem Widths.hotSetClear (line : BitVec 57) : Widths.Statement (.hotSetClear line) := Widths.all _
theorem Widths.hotLineRetire (line : BitVec 57) : Widths.Statement (.hotLineRetire line) := Widths.all _
theorem Widths.loadRsp (n : Option (BitVec 10)) (p : Pkt) : Widths.Statement (.loadRsp n p) := Widths.all _
theorem Widths.storeAck (n : Option (BitVec 10)) (p : Pkt) : Widths.Statement (.storeAck n p) := Widths.all _
theorem Widths.atomicRsp (n : Option (BitVec 10)) (p : Pkt) : Widths.Statement (.atomicRsp n p) := Widths.all _
theorem Widths.trackerResend (field : BitVec 10) (target : Addr) (seq : Word) : Widths.Statement (.trackerResend field target seq) := Widths.all _
theorem Widths.trackerTimeout (field : BitVec 10) (target : Addr) (seq : Word) : Widths.Statement (.trackerTimeout field target seq) := Widths.all _
theorem Widths.replayExpiry (field : BitVec 10) (origin : Addr) (seq : Word) : Widths.Statement (.replayExpiry field origin seq) := Widths.all _
theorem Widths.coachRunClose (n : BitVec 10) : Widths.Statement (.coachRunClose n) := Widths.all _
theorem Widths.coachRun (n : BitVec 10) (p : Pkt) : Widths.Statement (.coachRun n p) := Widths.all _
theorem Widths.coachTimeout (n : BitVec 10) (run : Word) : Widths.Statement (.coachTimeout n run) := Widths.all _
theorem Widths.coachDone (n : BitVec 10) (p : Pkt) : Widths.Statement (.coachDone n p) := Widths.all _
theorem Widths.sealedChunkPacket (p : Pkt) (e : Ecc) : Widths.Statement (.sealedChunkPacket p e) := Widths.all _
theorem Widths.encryptExit (die : Fin 2) (e : Ecc) : Widths.Statement (.encryptExit die e) := Widths.all _
theorem Widths.digestExit (die : Fin 2) (e : Ecc) : Widths.Statement (.digestExit die e) := Widths.all _
theorem Widths.granaryFail (k : Fin 4) : Widths.Statement (.granaryFail k) := Widths.all _
theorem Widths.granaryReady : Widths.Statement (.granaryReady) := Widths.all _
theorem Widths.coldReset (power : Bool) : Widths.Statement (.coldReset power) := Widths.all _
theorem Widths.coldResetRelease (tmode : BitVec 3) (cool : Bool) : Widths.Statement (.coldResetRelease tmode cool) := Widths.all _
theorem Widths.pllLock : Widths.Statement (.pllLock) := Widths.all _
theorem Widths.reeveBoot (ok0 : Bool) (ok1 : Bool) (die : Fin 2) : Widths.Statement (.reeveBoot ok0 ok1 die) := Widths.all _
theorem Widths.warmResetBegin : Widths.Statement (.warmResetBegin) := Widths.all _
theorem Widths.perstN (asserted : Bool) : Widths.Statement (.perstN asserted) := Widths.all _
theorem Widths.pwrgdLost : Widths.Statement (.pwrgdLost) := Widths.all _
theorem Widths.thermtrip : Widths.Statement (.thermtrip) := Widths.all _
theorem Widths.pllUnlock : Widths.Statement (.pllUnlock) := Widths.all _
theorem Widths.bridgeDown : Widths.Statement (.bridgeDown) := Widths.all _
theorem Widths.reeveHalt (die : Fin 2) : Widths.Statement (.reeveHalt die) := Widths.all _
theorem Widths.tickIn : Widths.Statement (.tickIn) := Widths.all _
theorem Widths.tickOut : Widths.Statement (.tickOut) := Widths.all _
theorem Widths.tickLost : Widths.Statement (.tickLost) := Widths.all _
theorem Widths.governorSample (watts : Half) (tw : Byte) (te : Byte) (th : Byte) (backed : Bool) : Widths.Statement (.governorSample watts tw te th backed) := Widths.all _
theorem Widths.avsStep (ackW : Bool) (ackE : Bool) : Widths.Statement (.avsStep ackW ackE) := Widths.all _
theorem Widths.lossOfLock (n : BitVec 10) (lane : Fin 8) : Widths.Statement (.lossOfLock n lane) := Widths.all _
theorem Widths.regainsLock (n : BitVec 10) (lane : Fin 8) : Widths.Statement (.regainsLock n lane) := Widths.all _
theorem Widths.idleFlit (n : BitVec 10) (f : Flit) (cw : Ecc) : Widths.Statement (.idleFlit n f cw) := Widths.all _
theorem Widths.stewardLinkUp (fec : Bool) : Widths.Statement (.stewardLinkUp fec) := Widths.all _
theorem Widths.stewardLinkDown : Widths.Statement (.stewardLinkDown) := Widths.all _
theorem Widths.granaryReadmitDone (k : Fin 4) : Widths.Statement (.granaryReadmitDone k) := Widths.all _
theorem Widths.dieHot (die : Fin 2) (hot : Bool) : Widths.Statement (.dieHot die hot) := Widths.all _
theorem Widths.stackCaseTemperature (k : Fin 4) (hot : Bool) : Widths.Statement (.stackCaseTemperature k hot) := Widths.all _

end Sys2Proof.Laws
end

