-- ==== Sys2Proof/Tests/Slice0.lean ====
section
/-!
SUPPORT. Tests: an ill-formed term for each check of WellFormed, examples of the spec, and for every statement that has hypotheses
a witness that meets them.
-/

namespace Sys2Proof.Tests
open Sys2Proof Sys2Proof.Machine
set_option Elab.async false

/-- A command with a body given as (offset, bytes, value). -/
def cmdOf (a : Auth) (bs : List (Nat × Nat × Nat)) (epoch : Word := 0) : Cmd := { auth := a, seq := 1, epoch, body := pack 100 bs }

/-- A packet of this device (16,383) with a payload given likewise. -/
def pktOf (dst src : Nat) (op : BitVec 5) (fcid : Word) (len : Nat) (bs : List (Nat × Nat × Nat)) (seq : Word := 0) : Pkt :=
  mkPkt (addr (dst / 1024) dst) (addr (src / 1024) src) 7 op seq fcid 0 (pack len bs)

/-- An address of this device before a plan. -/
abbrev here (field : Nat) : Nat := 16383 * 1024 + field

/-- The reset state with these plan records in force. -/
def withPlan (rs : List PlanRec) : State := { plan := { cur := rs, planned := true } }

def rec_ (sect rtype index : Nat) (fields : List Nat) (tables : List (List (List Nat)) := []) : PlanRec := { sect, rtype, index, fields, tables }

/-! ## Well-formed operands -/

theorem test_wf_cmd : (Instr.nop (cmdOf .operator [])).wf = true ∧ (Instr.nop { cmdOf .operator [] with body := [] }).wf = false := by decide
theorem test_wf_pkt : (Instr.colGrant ⟨none, pktOf 0 0 pColGrant 0 32 []⟩).wf = true ∧
    (Instr.colGrant ⟨none, { pktOf 0 0 pColGrant 0 32 [] with payload := [] }⟩).wf = false := by decide +kernel
theorem test_wf_flit : (Instr.nak 0 { ftype := 2, body := [] } .ok).wf = false := by decide
theorem test_wf_reg : (Instr.intMask { width := 4, val := 0 }).wf = true ∧ (Instr.intMask { width := 2, val := 0 }).wf = false := by decide
theorem test_wf_slots : (Instr.ledgerDoorbell [(8388607, 0)] { width := 8, val := 0 }).wf = true ∧
    (Instr.ledgerDoorbell [(8388608, 0)] { width := 8, val := 0 }).wf = false := by decide
theorem test_wf_frame : (Instr.edgeFrame 0 (List.replicate 18 0)).wf = true ∧ (Instr.edgeFrame 0 (List.replicate 17 0)).wf = false := by decide
theorem test_wf_bill : (Instr.updFeedGrant (pktOf 0 0 pColGrant 0 32 []) (List.replicate 63 0) true).wf = false := by decide +kernel
theorem test_wf_window : (Instr.bar4Write 536870911 [0]).wf = true ∧ (Instr.bar4Write 536870911 [0, 0]).wf = false := by decide

/-- The command table gives no bits to any row. -/
theorem test_no_words : decodeTableWord 32 0 = none ∧ (State.reset.withFetchWord 32 7).pending = [] := by decide

/-! ## Host port -/

def sTick : State := { clk := { pllLock := true, rootFrac := 9 } }
theorem witness_idleStep : (State.reset.pending = [] ∧ State.reset.clk.pllLock = false) ∧
    (let s : State := { clk := { pllLock := true } }; s.pending = [] ∧ s.clk.pllLock = true ∧ s.clk.slew = 0 ∧ s.clk.rootFrac = 0) ∧
    (sTick.pending = [] ∧ sTick.clk.pllLock = true ∧ sTick.clk.rootFrac < 10) := by decide

theorem witness_hostRegisters : State.reset.testMode = false ∧ serialAbove 0 (State.reset.host.next - 1) = false ∧
    overrunCond State.reset.host = false ∧ State.reset.host.pend = [] ∧ State.reset.host.doorbell = State.reset.host.accepted ∧
    (15 : Nat) ≤ 15 ∧ (6 : Nat) ≤ 6 ∧ (246 : Word) = BitVec.ofNat 32 (16 * 15 + 6) := by decide
/-- An overrun that begins, and the threshold met by one unread entry. -/
theorem witness_tallySeen : (let h : HostPort := { next := 3, oldest := 2, thresh := 2, tallySeen := 2 }
    serialAbove 0 (h.next - 1) = false ∧ h.overrun = false ∧ serialAbove h.oldest (0 + 1) = true ∧ tallyHolds h = false ∧ h.thresh ≠ 0 ∧
      h.thresh.toNat ≤ (h.next - 1 - 0).toNat) := by decide

def sPend : State := { host := { pend := [{ op := oNop, c := cmdOf .operator [] }] } }
theorem witness_rejectedWrites : cwOk { width := 8, val := 0 } = false ∧ serialAbove (loW (RegW.cw 1)) (State.reset.host.next - 1) = true ∧
    sPend.host.pend ≠ [] ∧ State.reset.testMode = false := by decide

def sUnread : State := { host := { next := 2, tally := [(Entry.make { kind := kFault, body := [] } State.reset)] } }
theorem witness_intTime : sUnread.testMode = false ∧ unread sUnread.host ≠ 0 ∧ sUnread.host.timeUs ≠ 0 ∧ tallyHolds sUnread.host = false := by decide

def sGlean : State := { glean := { head := 4, tail := 65535 } }
theorem witness_unitRegisters : (8 : Word).toNat ≤ 4000 ∧ 8 ≤ (4000 : Word).toNat ∧ planRec sGlean 0x05 0x04 0 = none ∧
    ((4 : Word).toNat + 65536 - sGlean.glean.tail.toNat) % 65536 ≤ (sGlean.glean.head.toNat + 65536 - sGlean.glean.tail.toNat) % 65536 := by decide

/-- A ledger ring whose slot 1 holds a NOP. -/
def sLedger : State := { host := { doorbell := 1, slots := Mem.writes [] (slotOff {} 1) (entryBytes 1 oNop 0 []) } }
def sLedgerBad : State := { host := { doorbell := 1, slots := Mem.writes [] (slotOff {} 1) [1] } }
def entry1 (s : State) : List Byte := Mem.reads s.host.slots (slotOff s.host (s.host.accepted + 1)) 128
theorem witness_ledgerGood : sLedger.testMode = false ∧ sLedger.host.waitBad = false ∧
    serialAbove sLedger.host.doorbell sLedger.host.accepted = true ∧ sLedger.host.pend.length < 4096 ∧
    leAt (entry1 sLedger) 0 4 = (sLedger.host.accepted + 1).toNat ∧ entryFault (entry1 sLedger) = none ∧
    opKnown (entryOp (entry1 sLedger)) = true ∧ mayIssue (entryOp (entry1 sLedger)) .operator = true ∧
    entryReserved (entry1 sLedger) = false := by decide +kernel
theorem witness_ledgerBad : leAt (entry1 sLedgerBad) 0 4 = (sLedgerBad.host.accepted + 1).toNat ∧ entryFault (entry1 sLedgerBad) ≠ none ∧
    serialAbove sLedgerBad.host.doorbell sLedgerBad.host.accepted = true := by decide +kernel

def sLoft : State := { clk := { readyGranary := true } }
def sLocked : State := { clk := { readyGranary := true }, plan := { slot0 := .pending } }
theorem witness_windowWrites : loftUp sLoft = true ∧ slotLocked sLoft.plan.slot0 = false ∧ Memory.wf sLoft.gran = true ∧
    loftUp sLocked = true ∧ slotLocked sLocked.plan.slot0 = true ∧ (0xFFFFFFF : BitVec 29).toNat + [(0 : Byte)].length ≤ 0x10000000 := by decide

def sFull : State := { host := { next := 3, tallyLog2 := 1, tally := List.replicate 2 (Entry.make { kind := kFault, body := [] } State.reset) } }
theorem witness_tallyRing : sFull.host.tally.length = (sFull.host.next - sFull.host.oldest).toNat ∧
    (sFull.host.next - sFull.host.oldest).toNat = 2 ^ sFull.host.tallyLog2.toNat ∧ sFull.host.tallyLog2 ≠ 0 ∧
    sUnread.host.tally.length = (sUnread.host.next - sUnread.host.oldest).toNat ∧ sUnread.host.tallyLog2 ≠ 0 := by decide

theorem witness_completion : (cmdOf .operator []).auth = .operator ∧ sPend.host.pend ≠ [] := by decide

theorem witness_authority : (Instr.planWrite (cmdOf .operator []), oPlanWrite) ∈ commandOps (cmdOf .operator []) ∧
    (cmdOf .operator []).body.length = 100 ∧ (cmdOf .operator []).auth ≠ .none ∧ mayIssue oPlanWrite (cmdOf .operator []).auth = false := by
  decide +kernel

def cRead : Cmd := cmdOf .owner [(0, 4, 0x1034), (4, 1, 4)]
def cMask : Cmd := cmdOf .owner [(0, 4, 0x1034), (4, 1, 4), (8, 8, 5)]
def cTally (n : Nat) : Cmd := cmdOf .owner [(0, 4, n), (4, 1, 60)]
theorem witness_access : State.reset.live ∧ (cmdOf .operator []).passes oNop [] ∧
    cRead.passes oRegRead [(0, 4), (4, 1)] ∧ regFormat cRead = true ∧ cRead.u 0 4 / 8 ≠ 0x800 ∧
    cMask.passes oRegWrite [(0, 4), (4, 1), (8, 8)] ∧ regFormat cMask = true ∧ cMask.u 0 4 = 0x1034 ∧ cMask.u 4 1 = 4 ∧
    (cTally 1).passes oTallyRead [(0, 4), (4, 1)] ∧ (cTally 1).u 4 1 ≤ 60 ∧
    serialAbove State.reset.host.oldest (BitVec.ofNat 32 ((cTally 1).u 0 4)) = false ∧
    (cTally 0).passes oTallyRead [(0, 4), (4, 1)] ∧ serialAbove State.reset.host.oldest (BitVec.ofNat 32 ((cTally 0).u 0 4)) = true := by
  simp only [State.live, Cmd.passes]; decide

/-! ## Resets, clocks and power -/

theorem witness_warmReset : State.reset.testMode = false ∧ (cmdOf .owner []).passes oWarmReset [] ∧ State.reset.dossier.busy = [] ∧
    (let s : State := { pins := { warmPending := true } }; s.testMode = false ∧ s.pins.warmPending = true) := by
  simp only [Cmd.passes]; decide

/-- A device with its pins released and its clocks up. -/
def sUp : State := { pins := { coldResetN := true }, clk := { pllLock := true, readyAlmanac := true, readyReeves := true, readyGranary := true } }
theorem witness_clockEvents : sUp.testMode = false ∧ sUp.pins.coldResetN = true ∧ State.reset.pins.coldResetN = false ∧
    State.reset.clk.tbMaster = false ∧
    State.reset.pins.thermtrip = false ∧
    (let s : State := { pins := { thermtrip := true } }; s.pins.coldResetN = false ∧ s.pins.thermtrip = true ∧ s.fault.fatal = false ∧ s.testMode = false) ∧
    (let s : State := { clk := { tbMaster := true, tickOutEn := true } }; s.clk.tbMaster = true ∧ s.clk.tickOutEn = true) := by decide

/-- An armed device whose next edge is due 2 microseconds from now. -/
def sArmed (ahead : Nat) : State := { sUp with clk := { sUp.clk with armed := true, allowStep := true, tbNext := BitVec.ofNat 64 (5000 + ahead), timebase := 5000, goodEdges := 1 } }
theorem witness_tickIn : (sArmed 2000).testMode = false ∧ (sArmed 2000).clk.tbMaster = false ∧ (sArmed 2000).pins.coldResetN = true ∧
    (sArmed 2000).clk.armed = true ∧ (sArmed 2000).clk.allowStep = true ∧
    (1000 : Int) < ((5000 + 2000 : Nat) : Int) - ((sArmed 2000).clk.timebase.toNat : Int) ∧
    (sArmed 100).clk.tbNext.toNat + (sArmed 100).clk.tickDelay.toNat = (sArmed 100).clk.timebase.toNat + 100 ∧ 1 ≤ (sArmed 100).clk.goodEdges ∧
    (sArmed 101).clk.tbNext.toNat = (sArmed 101).clk.timebase.toNat + 101 := by decide

def sBoost : State := { sUp with clk := { sUp.clk with mode := 1 }, plan := { cur := [rec_ 13 2 0 [1, 1, 3, 60000]], planned := true } }
theorem witness_governor : sUp.clk.mode ≠ 1 ∧ sBoost.clk.mode = 1 ∧ (powerSet sBoost 3 < (60001 : Half).toNat ∨ 105 ≤ (0 : Byte).toNat ∨ 105 ≤ (0 : Byte).toNat) ∧
    sBoost.clk.tclkDiv.toNat < powerSet sBoost 2 ∧ sUp.clk.readyReeves = true ∧ 6000 ≤ sUp.clk.vddW ∧ sUp.clk.vddW ≤ 8000 := by decide

theorem witness_reeveBoot : State.reset.testMode = false ∧ State.reset.clk.readyReeves = false ∧
    (let want := State.reset.fw.boot != State.reset.fw.marked; let ok (b : Bool) : Bool := if b then false else true; ok want = true) ∧
    (let want := State.reset.fw.boot != State.reset.fw.marked; let ok (b : Bool) : Bool := if b then true else false
      ok want = false ∧ ok (!want) = true) := by decide

theorem witness_fatalEvents : (Instr.reeveHalt 1, fReeveHalt) ∈ fatalEvents 1 ∧ sUp.live ∧ sUp.pins.coldResetN = true ∧ sUp.pins.thermtrip = false ∧
    sUp.clk.pllLock = true := by simp only [State.live]; decide

def sFatal : State := { sUp with fault := { fatal := true, fatalCode := fReeveHalt } }
theorem witness_fatalUntilReset : sFatal.fault.fatal = true ∧ sFatal.pins.coldResetN = true ∧ leavesFatal (.nop (cmdOf .operator [])) = false ∧
    (∃ t, exec (.nop (cmdOf .operator [])) sFatal = .next t) := ⟨rfl, rfl, rfl, _, rfl⟩

theorem witness_testMode : ({ testMode := true : State }).testMode = true ∧ (∀ p, Instr.nop (cmdOf .operator []) ≠ .coldReset p) ∧ State.reset.live ∧
    (cmdOf .owner []).passes oTestEntry [] := by
  refine ⟨rfl, (fun p => by intro h; cases h), ?_⟩
  simp only [State.live, Cmd.passes]; decide

/-! ## Granary controllers -/

def cStack : Cmd := cmdOf .owner [(0, 1, 3)] 1
def sStack3 : State := { sUp with granCtl := Tab.set {} [] 3 { fenced := true, readmit := [cStack] } }
theorem witness_granaries : State.reset.live ∧ State.reset.clk.readyGranary = false ∧ (Tab.get {} State.reset.granCtl 3).fenced = false ∧ sStack3.live ∧
    cStack.passes oGranaryReadmit [(0, 1)] ∧ cStack.u 0 1 = 3 ∧ (Tab.get {} sStack3.granCtl 3).fenced = true ∧
    rank sStack3 (Tab.get {} sStack3.recov (objKey 10 3)) cStack = .applied ∧ (Tab.get {} sStack3.granCtl 3).readmit = [cStack] := by
  simp only [State.live, Cmd.passes]; decide

/-! ## Recovery commands -/

def kept1 : Kept := { valid := true, epoch := 5, auth := .operator, dev := 16383, body := pack 100 [] }
def keptLow : Kept := { kept1 with dev := 1 }
def keptHigh : Kept := { kept1 with dev := 16383, auth := .peer }
def kcmd (a : Auth) (epoch : Word) (bs : List (Nat × Nat × Nat) := []) : Cmd := cmdOf a bs epoch
/-- Each clause of the ranking, at epoch 5 from the operator. -/
theorem witness_ranking : ({} : Kept).valid = false ∧ serialAbove (kcmd .operator 6).epoch kept1.epoch = true ∧
    serialAbove (kcmd .operator 4).epoch kept1.epoch = false ∧ (kcmd .operator 4).epoch ≠ kept1.epoch ∧
    kept1.auth.code < (kcmd .owner 5).auth.code ∧ (kcmd .peer 5).auth.code < kept1.auth.code ∧
    (rankDev State.reset (kcmd .operator 5)).toNat = kept1.dev.toNat ∧ keptLow.dev.toNat < (rankDev State.reset (kcmd .operator 5)).toNat ∧
    (rankDev State.reset (kcmd .peer 5)).toNat < keptHigh.dev.toNat ∧ (kcmd .peer 5).auth.code = keptHigh.auth.code ∧
    (kcmd .operator 5).body = kept1.body ∧ (kcmd .operator 5 [(0, 1, 1)]).body ≠ kept1.body := by decide

def cPort : Cmd := cmdOf .operator [(0, 2, 1023)] 5
def cStage23 : Cmd := cmdOf .operator [(0, 1, 23)] 5
def cSource : Cmd := cmdOf .operator [(0, 2, 1023), (4, 3, 7), (8, 4, 9)] 5
def cFurrow : Cmd := cmdOf .operator [(0, 1, 31)] 5
def keptAs (c : Cmd) (k : Nat) (epoch : Word) : State :=
  { recov := Tab.set {} [] k { valid := true, epoch, auth := .operator, dev := rankDev State.reset c, body := c.body } }
theorem witness_repeats :
    (Instr.portRetrain cPort, oPortRetrain, [(0, 2)], objKey 7 (cPort.u 0 2), uPort, cPort.u 0 2, cPort.u 0 2) ∈ recoveryObject cPort ∧
    (keptAs cPort (objKey 7 1023) 5).live ∧ cPort.passes oPortRetrain [(0, 2)] ∧ cPort.u 0 2 < 1024 ∧
    rank (keptAs cPort (objKey 7 1023) 5) (Tab.get {} (keptAs cPort (objKey 7 1023) 5).recov (objKey 7 (cPort.u 0 2))) cPort = .same ∧
    rank (keptAs cPort (objKey 7 1023) 6) (Tab.get {} (keptAs cPort (objKey 7 1023) 6).recov (objKey 7 (cPort.u 0 2))) cPort =
      .refusedWith stStaleEpoch := by
  simp only [State.live, Cmd.passes]; decide

theorem witness_repeats_others : cStage23.passes oStageReset [(0, 1)] ∧ cStage23.u 0 1 = 23 ∧ cStage23.u 0 2 < 1024 ∧
    cSource.passes oSourceReset [(0, 2), (4, 3), (8, 4)] ∧ cSource.u 0 2 = 1023 ∧
    cFurrow.passes oFurrowReset [(0, 1), (1, 1), (2, 2), (8, 8)] ∧ cFurrow.u 0 1 = 31 ∧ cFurrow.u 1 1 = 0 ∧ cFurrow.u 0 2 < 1024 := by
  simp only [Cmd.passes]; decide

def sFenced : State := { ports := Tab.set {} [] 1023 { st := .fenced, attempts := 3 } }
def cShare : Cmd := cmdOf .operator [(0, 1, 31)] 5
def sShare31 : State := withPlan [rec_ 0x0A 0x01 31 [0]]
theorem witness_recoveryApplies : sFenced.live ∧ cPort.u 0 2 = 1023 ∧ cPort.passes oPortRetrain [(0, 2)] ∧ (port sFenced 1023).st = .fenced ∧
    rank sFenced (Tab.get {} sFenced.recov (objKey 7 1023)) cPort = .applied ∧
    rank State.reset (Tab.get {} State.reset.recov (objKey 3 23)) cStage23 = .applied ∧
    rank State.reset (Tab.get {} State.reset.recov (2 ^ 36 + srcKey 1023 7)) cSource = .applied ∧ cSource.u 4 3 = 7 ∧
    (srcSt State.reset 1023 7).floor = none ∧ pendingOf State.reset 1023 7 = [] ∧ (Tab.get {} State.reset.recov (objKey 3 23)).valid = false ∧ cStage23.u 0 1 = 23 ∧
    rank State.reset (Tab.get {} State.reset.recov (objKey 1 31)) cFurrow = .applied ∧
    cShare.passes oShareClearTorn [(0, 1)] ∧ cShare.u 0 1 = 31 ∧ shareDefined sShare31 31 = true ∧ sShare31.live ∧
    rank sShare31 (Tab.get {} sShare31.recov (objKey 2 31)) cShare = .applied := by
  simp only [State.live, Cmd.passes]; decide

/-- Device 5 hedged or opened at epoch 4, and a port 9 that is UP with a peer at device 5. -/
def sHedges (st : HState) (epoch : Word) : State :=
  { plan := { cur := [rec_ 0x02 0x01 9 [0, 0]], planned := true }, hedge := { dev := Tab.set {} [] 5 { st, epoch } }
    ports := Tab.set {} [] 9 { st := .up, peer := some (addr 5 0), credits := [(0, 1)] } }
theorem witness_hedgeMerging : supersedes .lifted 4 (devEntry (sHedges .opened 4) (5 : BitVec 14).toNat) = true ∧
    supersedes .hedged 5 (devEntry (sHedges .lifted 4) (5 : BitVec 14).toNat) = true ∧
    supersedes .opened 4 (devEntry (sHedges .hedged 4) (5 : BitVec 14).toNat) = false := by decide

def cAdd (epoch : Word) : Cmd := cmdOf .operator [(0, 4, devTarget 5)] epoch
def cOpen : Cmd := cmdOf .operator [(0, 4, devTarget 5)] 5
def cAdmit (path target : Nat) : Cmd := cmdOf .operator [(0, 4, target), (4, 1, path), (8, 8, 7)] 4
def sNative : State := { sHedges .opened 4 with yoke := { role := .partner, other := 5, k := 2, cleanSteps := 2 } }
def sTested : State := { plan := { deviceId := 5 }, hedge := { dev := Tab.set {} [] 5 { st := .opened, epoch := 4 } }, selfTest := { done := true, tested := 127 } }
theorem witness_hedgeCommands : (sHedges .hedged 4).live ∧ linkOk (sHedges .hedged 4) ((cAdd 4).u 0 4) = true ∧
    (cAdd 4).passes oHedgeAdd [(0, 4)] ∧ targetOk [0, 1, 2] ((cAdd 4).u 0 4) = true ∧
    serialAbove (targetEntry (sHedges .hedged 4) ((cAdd 4).u 0 4)).epoch (cAdd 4).epoch = false ∧
    (cAdd 3).passes oHedgeAdd [(0, 4)] ∧ serialAbove (targetEntry (sHedges .hedged 4) ((cAdd 3).u 0 4)).epoch (cAdd 3).epoch = true ∧
    cOpen.passes oAdmitOpen [(0, 4)] ∧ targetOk [0] (cOpen.u 0 4) = true ∧
    serialAbove cOpen.epoch (targetEntry (sHedges .hedged 4) (cOpen.u 0 4)).epoch = true := by
  simp only [State.live, Cmd.passes]; decide

theorem witness_admitNative : let c := cAdmit 0 (devTarget 5); let s := sNative; let t := devTarget 5
    s.live ∧ t = c.u 0 4 ∧ linkOk s t = true ∧ c.passes oAdmit [(0, 4), (4, 1), (8, 8)] ∧ targetOk [0, 1, 2] t = true ∧ now s < c.u 8 8 ∧
    serialAbove (targetEntry s t).epoch c.epoch = false ∧ c.u 4 1 = 0 ∧ tgtKind t = 0 ∧ (targetEntry s t).st = .opened ∧
    (targetEntry s t).epoch = c.epoch ∧ s.yoke.role = .partner ∧ s.yoke.other.toNat = bits t 23 10 ∧ s.yoke.k ≤ s.yoke.cleanSteps := by
  simp only [State.live, Cmd.passes]; decide

theorem witness_admitCompatibility : let c := cAdmit 1 (devTarget 5); let s := sTested; let t := devTarget 5
    s.live ∧ t = c.u 0 4 ∧ linkOk s t = true ∧ c.passes oAdmit [(0, 4), (4, 1), (8, 8)] ∧ targetOk [0, 1, 2] t = true ∧ now s < c.u 8 8 ∧
    serialAbove (targetEntry s t).epoch c.epoch = false ∧ c.u 4 1 = 1 ∧ tgtKind t = 0 ∧ (targetEntry s t).st = .opened ∧
    (targetEntry s t).epoch = c.epoch ∧ bits t 23 10 = s.plan.deviceId.toNat ∧ s.selfTest.done = true ∧
    (∀ n ∈ usedUnits s, s.selfTest.failed.getLsbD n = false) := by
  simp only [State.live, Cmd.passes]; decide

theorem witness_admitDirect : let c := cAdmit 2 (linkTarget 9); let s := sHedges .hedged 4; let t := linkTarget 9
    s.live ∧ t = c.u 0 4 ∧ linkOk s t = true ∧ c.passes oAdmit [(0, 4), (4, 1), (8, 8)] ∧ targetOk [0, 1, 2] t = true ∧ now s < c.u 8 8 ∧
    serialAbove (targetEntry s t).epoch c.epoch = false ∧ c.u 4 1 = 2 ∧ tgtKind t = 2 ∧ (targetEntry s t).epoch ≠ c.epoch ∧
    (port s (bits t 9 0)).st = .up := by
  simp only [State.live, Cmd.passes]; decide

def sBeacons : State := { sHedges .lifted 4 with hedge := { beacons := [{ device := 5, silent := 16, idle := false, mismatches := 0 }], repeats := [{ bytes := pack 20 [], left := 1 }, { bytes := pack 20 [], left := 3 }] } }
def pBeacon : Pkt := pktOf (here 0) (5 * 1024) pMgtBeacon 0 20 [(0, 2, 5), (16, 4, (hsetCrc sBeacons).toNat)]
def pHedge : Pkt := pktOf (here 0) (5 * 1024) pMgtHedge 0 24 [(0, 4, 2 ^ 31 - 1025), (8, 4, 3)]
theorem witness_beacons : sBeacons.live ∧ pBeacon.whole ∧ (5 : BitVec 14).toNat = leAt pBeacon.payload 0 2 ∧ (9 : BitVec 10).toNat ∈ devicePorts sBeacons ∧
    peerDevice sBeacons (9 : BitVec 10).toNat = some (5 : BitVec 14).toNat ∧ leAt pBeacon.payload 16 4 = (hsetCrc sBeacons).toNat ∧
    (sBeacons.hedge.beacons.find? fun b => b.device == 5).isSome = true ∧ (∀ b ∈ sBeacons.hedge.beacons, b.idle = false) ∧
    pHedge.whole ∧ leAt pHedge.payload 0 4 < 2 ^ 31 ∧ bits (leAt pHedge.payload 0 4) 23 10 ≠ 16383 ∧ leAt pHedge.payload 4 1 = 0 ∧ sBeacons.hedge.repeats.length = 2 ∧ (∀ b ∈ sBeacons.hedge.beacons, 16 ≤ b.silent) ∧
    (devicePorts sBeacons).Nodup ∧ (∀ n ∈ devicePorts sBeacons, 1 ≤ Tab.get 0 (port sBeacons n).credits 0) := by
  simp only [State.live, Pkt.whole]; decide +kernel

def cYoke (code : Nat) : Cmd := cmdOf .operator (if code = 0 then [(2, 2, 16382)] else [(0, 1, code), (2, 2, 16382), (4, 2, 1), (8, 8, 1)]) 5
def cReport : Cmd := { cmdOf .peer [(0, 8, 3), (16, 8, 77)] with src := addr 5 0 }
def sPartner (w : Option (Nat × Bool × List DWord)) : State := { yoke := { role := .partner, other := 5, k := 2, wait := w } }
theorem witness_yoke : State.reset.live ∧ (cYoke 1).passes oYoke [(0, 1), (2, 2), (4, 2), (8, 8), (16, 16)] ∧ (cYoke 1).u 0 1 = 1 ∧
    (cYoke 1).u 2 2 < 16383 ∧ 1 ≤ (cYoke 1).u 4 2 ∧ now State.reset < (cYoke 1).u 8 8 ∧
    rank State.reset (Tab.get {} State.reset.recov (objKey 9 0)) (cYoke 1) = .applied ∧
    (cYoke 2).passes oYoke [(0, 1), (2, 2), (4, 2), (8, 8), (16, 16)] ∧ (cYoke 2).u 0 1 = 2 ∧
    (cYoke 0).passes oYoke [(0, 1), (2, 2), (4, 2), (8, 8), (16, 16)] ∧ (cYoke 0).u 0 1 = 0 ∧ (cYoke 0).u 2 2 < 16383 ∧
    cReport.passes oYokeReport [(0, 8), (8, 1), (16, 64)] ∧ cReport.u 8 1 < 4 ∧ devOf cReport.src = (sPartner none).yoke.other.toNat ∧
    (sPartner none).yoke.wait = none ∧ (sPartner (some (3, false, [77]))).yoke.wait = some (cReport.u 0 8, false, [77]) ∧ cReport.u 8 1 = 0 ∧
    (77 : DWord).toNat = cReport.u 16 8 := by
  simp only [State.live, Cmd.passes]; decide

def cTest : Cmd := cmdOf .owner [(0, 4, 127)] 5
def sTesting : State := { selfTest := { running := [cTest] } }
theorem witness_selfTest : cTest.passes oSelfTest [(0, 4)] ∧ cTest.u 0 4 < 128 ∧ sShare31.plan.planned = true ∧ State.reset.plan.planned = false ∧
    State.reset.selfTest.running = [] ∧ rank State.reset (Tab.get {} State.reset.recov (objKey 8 0)) cTest = .applied ∧
    sTesting.live ∧ sTesting.selfTest.running = [cTest] ∧ cTest.auth = .owner := by
  simp only [State.live, Cmd.passes]; decide

/-! ## The Steward's commands and frames -/

def cFw : Cmd := { cmdOf .owner [(0, 4, 2 ^ 24 - 256), (4, 2, 256), (6, 1, 1)] with data := List.replicate 256 1 }
def cCapture : Cmd := cmdOf .owner []
def cPiece : Cmd := cmdOf .owner [(0, 1, 1), (4, 4, 160), (8, 2, 3840)]
def sDossier : State := { dossier := { valid := true, size := 4000, busy := [cCapture] } }
theorem witness_firmware : State.reset.live ∧ cFw.passes oFwUpdate [(0, 4), (4, 2), (6, 1)] ∧ cFw.u 0 4 % 256 = 0 ∧ cFw.u 4 2 % 256 = 0 ∧ 256 ≤ cFw.u 4 2 ∧
    cFw.u 4 2 ≤ 3840 ∧ cFw.u 6 1 < 2 ∧ cFw.data.length = cFw.u 4 2 ∧ cFw.u 0 4 + cFw.u 4 2 ≤ 2 ^ 24 ∧
    cCapture.passes oDossier dossierFields ∧ cCapture.u 0 1 = 0 ∧ sDossier.live ∧ sDossier.dossier.busy = cCapture :: [] ∧ cCapture.auth = .owner ∧
    cPiece.passes oDossier dossierFields ∧ cPiece.u 0 1 = 1 ∧ 1 ≤ cPiece.u 8 2 ∧ cPiece.u 8 2 ≤ 3840 ∧ sDossier.dossier.valid = true ∧
    cPiece.u 4 4 + cPiece.u 8 2 ≤ sDossier.dossier.size.toNat := by
  simp only [State.live, Cmd.passes]; decide +kernel

def stewPkt (op : Half) : Pkt := mkPkt 0xFFFFFF (addr 16383 0) 0 pMgtCmd 1 0 0 (entryBytes 1 op 0 (pack 100 []))
def stewCmd (op : Half) : Cmd := entryCmd .owner 0 ((stewPkt op).payload.take 128) ((stewPkt op).payload.drop 128)
def sStew : State := { stew := { linkUp := true } }
theorem witness_steward : sStew.live ∧ (stewPkt oNop).whole ∧ stewFrameOk sStew (stewPkt oNop) = true ∧
    entryFault ((stewPkt oNop).payload.take 128) = none ∧ entryOp ((stewPkt oNop).payload.take 128) = oNop ∧
    entryReserved ((stewPkt oNop).payload.take 128) = false ∧ (stewCmd oNop).passes oNop [] ∧
    (sStew.stew.running.any fun r => r.1 == (stewCmd oNop).seq) = false ∧
    (sStew.stew.kept.find? fun r => r.seq == (stewCmd oNop).seq) = none := by
  simp only [State.live, Cmd.passes, Pkt.whole]; decide +kernel

/-- One completion kept for SSEQ 1. -/
def sKept : State := { stew := { linkUp := true, kept := [{ mac := 9, seq := 1, entry := Entry.make { kind := kCmdDone, body := [] } State.reset, data := [] }] } }
def peerPkt : Pkt := mkPkt (addr 5 0) (addr 16383 0) 0 pMgtCmd 1 0 0 (entryBytes 1 oPortRetrain 0 (pack 100 []))
theorem witness_mgtPeer : (sKept.stew.kept.find? fun r => r.seq == (stewCmd oNop).seq).isSome = true ∧ stewFrameOk sKept (stewPkt oNop) = true ∧ peerPkt.whole ∧
    (9 : BitVec 10).toNat ∈ devicePorts (Sys2Proof.Machine.take (sHedges .lifted 4) peerPkt) ∧ 128 ≤ peerPkt.payload.length ∧
    entryFault (peerPkt.payload.take 128) = none ∧ leAt (peerPkt.payload.take 128) 0 4 = peerPkt.seq.toNat ∧
    entryOp (peerPkt.payload.take 128) = oPortRetrain ∧ entryReserved (peerPkt.payload.take 128) = false := by
  simp only [Pkt.whole]; decide +kernel

/-! ## Links -/

/-- PORT record: personality, width 4, MIN_LANES 2, peer 0xFFFFFF, every VL, MTU 1518, PFC on priority 7. -/
def portRec_ (n kind : Nat) : PlanRec := rec_ 0x02 0x01 n [kind, 0, 4, 2, 0, 0, 0, 0, 0xFFFFFF, 0x1FF, 0, 1518, 0, 128]
/-- Device 7 with FABRIC port 9, whose peer is device 5, and EDGE port 3; signposts for 5 (port 9) and 6 (none); one inn with an account for
the edge port, and class records with queue 1. -/
def sNet (p : Port) : State :=
  { plan := { deviceId := 7, planned := true, cur :=
      [portRec_ 9 0, portRec_ 3 1, rec_ 0x02 0x02 0 [0x8A00, 0, 300], rec_ 0x03 0x01 5 [2 ^ 30 + 2 ^ 26 + 14 * 2 ^ 22 + 9, 9], rec_ 0x03 0x01 6 [0],
       rec_ 0x03 0x02 0 [5 * 2 ^ 28], rec_ 0x05 0x01 0 [0, 64, 8, 0, 0, 0, 40, 50, 60], rec_ 0x05 0x02 24 [0, 1, 4, 8], rec_ 0x05 0x02 25 [0, 3, 4, 16],
       rec_ 0x05 0x02 31 [0, 1, 0, 0], rec_ 0x05 0x04 0 [4096, 1]] ++ ((List.range 9).map fun v => rec_ 0x04 0x01 v [0, 0, 1, 17, 4]) }
    ports := Tab.set {} (Tab.set {} [] 9 p) 3 { st := .up }, pins := { coldResetN := true } }
def pUp : Port := { st := .up, peer := some (addr 5 0), txSeq := 3, rxExpect := 7, granted := Tab.set 0 [] 5 1, credits := (List.range 9).foldl (fun t v => Tab.set 0 t v 20) [] }
def sNetUp : State := sNet pUp

/-- A flit in sequence with its CRC. -/
def flitOf (ftype : BitVec 3) (pos : BitVec 2) (vl : BitVec 4) (ack : BitVec 11) (bs : List (Nat × Nat × Nat)) : Flit :=
  let f : Flit := { ftype, vl, pos, txSeq := 7, ackSeq := ack, ackValid := true, body := pack 40 bs }
  { f with fcrc := flitCrc f }

theorem witness_flitsRefused : sNetUp.live ∧ numbered 9 (flitOf 1 3 5 0 []) .ue (.dataFlit 9 (flitOf 1 3 5 0 []) .ue) ∧
    numbered 9 (flitOf 2 0 0 0 [(0, 1, 4)]) .ce (.laneMap 9 (flitOf 2 0 0 0 [(0, 1, 4)]) .ce) ∧
    (port (sNet { st := .down }) 9).st ≠ .up ∧ (port (sNet { st := .down }) 9).st ≠ .init ∧ isFabric sNetUp (9 : BitVec 10).toNat = true ∧
    (port sNetUp 9).st = .up ∧ (port sNetUp 9).restriping = false ∧ (port (sNet { pUp with restriping := true }) 9).restriping = true ∧ (flitOf 1 3 5 0 []).txSeq ≠ (port (sNet { pUp with rxExpect := 8 }) 9).rxExpect ∧
    ({ flitOf 1 3 5 0 [] with vl := 4 }).fcrc ≠ flitCrc { flitOf 1 3 5 0 [] with vl := 4 } := by
  simp only [State.live, numbered]; decide +kernel

theorem witness_dataFlits : sNetUp.live ∧ port sNetUp (9 : BitVec 10).toNat = pUp ∧ isFabric sNetUp (9 : BitVec 10).toNat = true ∧ pUp.st = .up ∧ pUp.restriping = false ∧
    (flitOf 1 3 5 0 []).fcrc = flitCrc (flitOf 1 3 5 0 []) ∧ (flitOf 1 3 5 0 []).txSeq = pUp.rxExpect ∧ (flitOf 1 3 5 0 []).ftype = 1 ∧
    0 < Tab.get 0 pUp.granted (flitOf 1 3 5 0 []).vl.toNat ∧ (flitOf 1 1 5 0 []).pos = 1 ∧ (flitOf 1 1 5 0 []).txSeq = pUp.rxExpect ∧
    Tab.get 0 pUp.granted (flitOf 1 3 4 0 []).vl.toNat = 0 ∧ (flitOf 2 0 0 0 [(0, 1, 2), (12, 2, 65535)]).ftype = 2 ∧
    leAt (flitOf 2 0 0 0 [(0, 1, 2), (12, 2, 65535)]).body 0 1 = 2 := by
  simp only [State.live]; decide +kernel

def kept2 : List Flit := [{ ftype := 1, txSeq := 1, body := [1] }, { ftype := 1, txSeq := 2, body := [2] }]
def pRetry (futile : Nat) : Port := { pUp with retryBuf := kept2, futile, owed := Tab.set 0 [] 5 3 }
def pTimed : Port := { pRetry 14 with timedOut := some 1 }
def fNak (a : Nat) : Flit :=
  let f := { flitOf 2 0 0 0 [(0, 1, 3), (2, 2, a)] with ackValid := false }
  { f with fcrc := flitCrc f }
theorem witness_retry : port (sNet (pRetry 14)) (9 : BitVec 10).toNat = pRetry 14 ∧ (pRetry 14).st = .up ∧ (flitOf 0 0 0 3 []).ftype = 0 ∧
    (flitOf 0 0 0 3 []).fcrc = flitCrc (flitOf 0 0 0 3 []) ∧ (flitOf 0 0 0 3 []).ackValid = true ∧ (flitOf 0 0 0 3 []).ackSeq = (pRetry 14).txSeq ∧
    (pRetry 14).retryBuf = [{ ftype := 1, txSeq := 1, body := [1] }] ++ { ftype := 1, txSeq := 2, body := [2] } :: [] ∧
    (flitOf 0 0 0 2 []).ackSeq = 2 ∧ (flitOf 0 0 0 2 []).ackSeq ≠ (pRetry 14).txSeq ∧ leAt (flitOf 2 0 0 2 [(0, 1, 3)]).body 0 1 = 3 ∧
    (sNet (pRetry 14)).pins.coldResetN = true ∧ (pRetry 14).restriping = false ∧ (pRetry 14).futile < 15 ∧ 15 ≤ (pRetry 15).futile ∧ (pRetry 15).owed ≠ [] ∧ (∀ g ∈ kept2, g.txSeq ≠ pUp.txSeq) ∧
    isFabric (sNet (pRetry 14)) (9 : BitVec 10).toNat = true ∧ (pRetry 14).timedOut = none ∧ pTimed.timedOut = some 1 ∧ pTimed.retryBuf = kept2 ∧
    (fNak 1).ackValid = false ∧ (fNak 1).fcrc = flitCrc (fNak 1) ∧ (fNak 1).txSeq = pTimed.rxExpect ∧ BitVec.ofNat 11 (leAt (fNak 1).body 2 2) = 1 ∧
    (match exec (.nak 9 (fNak 1) .ok) (sNet pTimed) with | .next t => t.wire == [] && (port t 9).retries == 0 | _ => false) = true := by decide +kernel

def fInit (lanes : Nat) : Flit := flitOf 2 0 0 0 [(0, 1, 1), (3, 1, lanes), (4, 1, 2), (8, 4, 5 * 1024)]
def pInit : Port := { st := .init, rxExpect := 7 }
theorem witness_bringUp : (port (sNet { st := .training }) (9 : BitVec 10).toNat).st = .training ∧ (sNet {}).pins.coldResetN = true ∧ pInit.restriping = false ∧
    leAt (fInit 4).body 8 4 % 2 ^ 24 / 1024 ≠ 16383 ∧ isEdge (sNet {}) 9 = false ∧ isEdge (sNet {}) 3 = true ∧
    carries (sNet {}) 9 (BitVec.ofNat 4 8) = true ∧ (port (sNet { st := .down }) 9).st = .down ∧ (port (sNet pInit) 9).st = .init ∧
    (pUp.st ≠ .training ∧ pUp.st ≠ .down ∧ pUp.st ≠ .init) ∧ isFabric (sNet pInit) (9 : BitVec 10).toNat = true ∧ (fInit 4).fcrc = flitCrc (fInit 4) ∧
    (fInit 4).txSeq = pInit.rxExpect ∧ (fInit 4).ftype = 2 ∧ leAt (fInit 4).body 0 1 = 1 ∧ initOk (sNet pInit) 9 (fInit 4).body = true ∧
    initOk (sNet pInit) 9 (fInit 8).body = false := by decide +kernel

def pMap : Port := { pUp with restriping := true }
theorem witness_laneLoss : (3 : Fin 8).val < portWidth sNetUp (9 : BitVec 10).toNat ∧ pUp.lost.getLsbD (3 : Fin 8).val = false ∧ pUp.unlocked.getLsbD 3 = false ∧
    ({ pUp with unlocked := 8 }).unlocked.getLsbD 3 = true ∧
    portFld sNetUp 9 3 ≤ ((List.range (portWidth sNetUp 9)).filter fun i => !((4 : Byte) ||| BitVec.ofNat 8 (2 ^ 3)).getLsbD i).length ∧
    ((List.range (portWidth sNetUp 9)).filter fun i => !((6 : Byte) ||| BitVec.ofNat 8 (2 ^ 3)).getLsbD i).length < portFld sNetUp 9 3 ∧
    pMap.restriping = true ∧ pMap.mapSent = false ∧ pMap.peerMap = none ∧ retryFull (sNet pMap) 9 = false ∧
    retryFull (sNet { pMap with retryBuf := List.replicate 512 (flitOf 0 0 0 0 []) }) 9 = true ∧ ({ pMap with mapSent := true }).retryBuf = [] ∧
    leAt (flitOf 2 0 0 0 [(0, 1, 4), (5, 1, 15)]).body 5 1 = (goodMask (sNet pMap) (9 : BitVec 10).toNat).toNat ∧
    leAt (flitOf 2 0 0 0 [(0, 1, 4), (5, 1, 15)]).body 0 1 = 4 ∧ (flitOf 2 0 0 0 [(0, 1, 4), (5, 1, 15)]).txSeq = pMap.rxExpect := by decide +kernel

/-! ## Frames -/

def withFcs (f : List Byte) : List Byte := f ++ leBytes 4 (fcs f)
def fPfc : List Byte := withFcs (beBytes 6 0x0180C2000001 ++ List.replicate 6 0 ++ beBytes 2 0x8808 ++ beBytes 2 0x0101 ++ beBytes 2 0x80 ++ List.replicate 42 1)
def pktIn (src : Nat) : Pkt := mkPkt (addr 7 src) (addr 5 0) 5 pLoadRsp 0 0 0 []
def fPkt (src : Nat) : List Byte := withFcs (beBytes 6 1 ++ List.replicate 6 0 ++ beBytes 2 0x8A00 ++ Pkt.header (pktIn src) ++ List.replicate 14 0)
theorem witness_edgeFrames : sNetUp.live ∧ isEdge sNetUp (3 : BitVec 10).toNat = true ∧ (port sNetUp (3 : BitVec 10).toNat).st = .up ∧
    fcsOk (List.replicate 64 1) = false ∧ (fPfc.take 63).length < 64 ∧ portFld sNetUp 3 11 < (List.replicate 1519 (0 : Byte)).length ∧
    fcsOk fPfc = true ∧ fPfc.length = 64 ∧ fPfc.length ≤ portFld sNetUp 3 11 ∧ beAt fPfc 0 6 = 0x0180C2000001 ∧ etherType fPfc = 0x8808 ∧
    beAt fPfc (14 + tagLen fPfc) 2 = 0x0101 ∧ bit (beAt fPfc (14 + tagLen fPfc + 2) 2) 7 = true := by
  simp only [State.live]; decide +kernel
theorem witness_edgePackets : let p := parsePkt (((fPkt 3).take ((fPkt 3).length - 4)).drop (14 + tagLen (fPkt 3)))
    fcsOk (fPkt 3) = true ∧ 64 ≤ (fPkt 3).length ∧ (fPkt 3).length ≤ portFld sNetUp 3 11 ∧ beAt (fPkt 3) 0 6 < 0x0180C2000000 ∧
    etherType (fPkt 3) = l2Fld sNetUp 0 ∧ planRec sNetUp 0x05 0x03 3 = none ∧ (Tab.get {} sNetUp.sched.pol (16 * 3 + framePcp (fPkt 3))).on = false ∧
    p.vl ≠ 0 ∧ opClass p.op ≠ some 0 ∧ p.src = addr sNetUp.plan.deviceId.toNat 3 ∧ edgeFits sNetUp (8 * 3 + framePcp (fPkt 3)) (cellsOf p) = true ∧
    (parsePkt (((fPkt 4).take ((fPkt 4).length - 4)).drop (14 + tagLen (fPkt 4)))).src ≠ addr sNetUp.plan.deviceId.toNat 3 ∧ fcsOk (fPkt 4) = true ∧ portHedged sNetUp 3 = false := by decide +kernel

/-- The edge port's PCP 7 account is at its LIMIT and its XOFF stands. -/
def sXoff : State := { sNetUp with ports := Tab.set {} [] 3 { st := .up, xoff := 128 } }
theorem witness_xoff : (port sXoff (3 : BitVec 10).toNat).xoff ≠ 0 ∧ (port sXoff 3).st = .up ∧ sXoff.pins.coldResetN = true ∧
    (∀ i, i < 8 → (port sXoff 3).xoff.getLsbD i = true → acctLevel sXoff (8 * 3 + i) ≠ 0) ∧
    (∀ i, i < 8 → bit (portFld sXoff 3 13) i = true → (port sXoff 3).xoff.getLsbD i = false → acctLevel sXoff (8 * 3 + i) < 2) ∧
    l2Fld sXoff 2 ≠ 0 ∧ ({ mac := 1, vlan := 2, port := 3 } : MacEntry).mac = (1 : BitVec 48).toNat := by decide +kernel

/-! ## Lookup, dispatch, queues, rooms -/

/-- A packet of port 9 from device 5, lodged on its VL. -/
def pOn (dst : Nat) (vl : BitVec 4) (op : BitVec 5) : Pkt := mkPkt (addr 5 0) (addr dst 0) vl op 0 0 0 []
def lod (p : Pkt) (looked : Bool := false) : Lodged := { port := some 9, vl := p.vl, p, looked }
def sLod (l : Lodged) : State := { sNetUp with ingress := [l] }
def pAns : Pkt := pOn 7 5 pLoadRsp
def pBad : Pkt := { pOn 7 5 pLoadRsp with hcrc := 0 }
def lCol : Lodged := lod (pOn 5 7 pColGrant) true
theorem witness_lookup : (sLod (lod pBad)).live ∧ (lod pBad).copy = none ∧ (lod pAns).copy = none ∧ headLodged (sLod (lod pBad)) (some (9 : BitVec 10).toNat) 5 0 = some (lod pBad) ∧ (lod pBad).looked = false ∧
    (lod pBad).p.hcrc ≠ Pkt.crc (lod pBad).p ∧ headLodged (sLod (lod pAns)) (some (9 : BitVec 10).toNat) 5 0 = some (lod pAns) ∧ (lod pAns).vl = (lod pAns).p.vl ∧
    headerOk (sLod (lod pAns)) 9 pAns = true ∧ endpointPort (sLod (lod pAns)) 9 = false ∧ (Tab.get {} sNetUp.sched.pol (16 * 9 + 5)).on = false ∧
    headLodged (sLod lCol) (some (9 : BitVec 10).toNat) 7 0 = some lCol ∧ lCol.looked = true := by
  simp only [State.live]; decide +kernel

def lHere : Lodged := lod (pOn 7 5 pLoadRsp) true
def lThere (d : Nat) (vl : BitVec 4) (op : BitVec 5) : Lodged := lod (pOn d vl op) true
def sNoCredit : State := { sLod (lThere 5 7 pColGrant) with ports := Tab.set {} [] 9 { pUp with credits := [] } }
/-- A load of the granary here, and 256 responses already held on die 0. -/
def lLoad : Lodged := lod (mkPkt (addr 5 0) (addr 7 1) 1 pLoad 0 0 0 (pack 32 [])) true
def sRoom (n : Nat) : State :=
  { withPlan [rec_ 0x03 0x02 1 [3 * 2 ^ 28]] with ingress := lLoad :: List.replicate n { lod (pOn 5 5 pLoadRsp) with room := some 0 } }
theorem witness_room : roomHeld (sRoom 255) 0 = 255 ∧ hasRoom (sRoom 255) lLoad.p = true ∧ hasRoom (sRoom 256) lLoad.p = false ∧ vlClass lLoad.p.vl ≠ some 4 ∧
    (localKind (sRoom 256) (fieldOf lLoad.p.dst)).1 = 3 := by decide +kernel
def sCollIn (l : Lodged) (ds : List Deliv) : State :=
  { plan := { deviceId := 7, cur := [rec_ 0x03 0x02 0 [5 * 2 ^ 28], rec_ 0x07 0x01 0 [0], rec_ 0x07 0x01 2 [3] [[], [], [], [], [[0]]]] }, ingress := [l], delivered := ds }
theorem witness_dispatch : (sLod lHere).live ∧ headLodged (sLod lHere) ((some (9 : BitVec 10)).map (·.toNat)) 5 0 = some lHere ∧ lHere.looked = true ∧ lHere.via = none ∧
    devOf lHere.p.dst = (sLod lHere).plan.deviceId.toNat ∧ 2 ≤ (localKind (sLod lHere) (fieldOf lHere.p.dst)).1 ∧ hasRoom (sLod lHere) lHere.p = true ∧
    (sLod lHere).route.bad.contains (devOf lHere.p.dst) = false ∧ lHere.copy = none ∧ vlClass lHere.p.vl ≠ some 4 ∧ (sLod lHere).route.badLocal.contains (fieldOf lHere.p.dst) = false ∧
    (let l := lThere 7 7 pColGrant; let s := sCollIn l []
      devOf l.p.dst = 7 ∧ (localKind s (fieldOf l.p.dst)).1 ≠ 1 ∧ vlClass l.p.vl = some 4 ∧ colNamed s l.p = true) ∧
    (let l := lod (mkPkt (addr 5 0) (addr 7 0) 7 pMoveData 0 0 0 (List.replicate 240 1)) true; let s := sCollIn l [{ port := none, p := l.p }]
      windowFits (sCollIn l []) l.p = true ∧ colNamed s l.p = true ∧ windowFits s l.p = false ∧ (localKind s (fieldOf l.p.dst)).1 ≠ 1) ∧
    (let l := lThere 5 7 pColGrant; let s := sLod l
      devOf l.p.dst ≠ s.plan.deviceId.toNat ∧ (signpost s (devOf l.p.dst)).isSome = true ∧
      (signpost s (devOf l.p.dst)).bind (fun r => chooseOutput s r l) = some (9, 7) ∧ itsTurn s l 9 7 = true ∧
      (let y := lod (pOn 5 7 pColData) true; let x := { l with port := none, unit := 1 }
       itsTurn { s with ingress := [x, y] } y 9 7 = false ∧ headLodged { s with ingress := [x, y] } (some 9) 7 0 = some y) ∧ gated s 9 l.p = false ∧ l.p.hop.toNat < 14) ∧
    (signpost sNoCredit (devOf (lThere 5 7 pColGrant).p.dst)).map (fun r => (chooseOutput sNoCredit r (lThere 5 7 pColGrant), noWay sNoCredit r)) =
      some (none, false) ∧
    (let l := lThere 6 7 pColGrant; (devOf l.p.dst ≠ 7 ∧ signpost (sLod l) (devOf l.p.dst) = none)) ∧
    (let l := lThere 6 0 pMgtBeacon; (devOf l.p.dst ≠ 7 ∧ signpost (sLod l) (devOf l.p.dst) = none ∧ l.vl = 0)) := by
  simp only [State.live]; decide +kernel

def qd (p : Pkt) : Queued := { port := 9, queue := 1, vl := 7, item := .pkt p }
def sServe (p : Port) (us : List Queued) : State := { sNet p with outq := us }
def pLong : Pkt := mkPkt (addr 7 0) (addr 5 0) 7 pColGrant 0 0 0 (List.replicate 240 1)
theorem witness_service : (sServe pUp []).live ∧ (sServe pUp []).pins.coldResetN = true ∧ (qd pLong).copy = none ∧ port (sServe pUp []) (9 : BitVec 10).toNat = pUp ∧ isFabric (sServe pUp []) (9 : BitVec 10).toNat = true ∧ pUp.st = .up ∧
    pUp.restriping = false ∧ retryFull (sServe { pUp with retryBuf := List.replicate 512 { ftype := 1, body := [] } } []) 9 = true ∧
    retryFull (sServe { pUp with retryBuf := List.replicate 511 { ftype := 1, body := [] } } []) 9 = false ∧
    ({ pUp with ctrlQ := [[1]] }).ctrlQ = [1] :: [] ∧ pUp.ctrlQ = [] ∧ (sServe pUp []).outq = [] ∧
    (∀ r, r < 1 → queueReady (sServe pUp [qd (pOn 5 7 pColGrant)]) 9 r = false) ∧ queueReady (sServe pUp [qd (pOn 5 7 pColGrant)]) 9 1 = true ∧
    eligible (sServe pUp [qd (pOn 5 7 pColGrant)]) 9 1 = true ∧ headOf (sServe pUp [qd (pOn 5 7 pColGrant)]) 9 1 = some (qd (pOn 5 7 pColGrant)) ∧
    flitsOf (pOn 5 7 pColGrant) = 1 ∧ flitsOf pLong ≠ 1 ∧ headOf (sServe pUp [qd pLong]) 9 1 = some (qd pLong) ∧
    (let u := { qd (pOn 5 7 pColGrant) with port := 3 }; let s := sServe pUp [u]
      isEdge s (3 : BitVec 10).toNat = true ∧ (port s 3).st = .up ∧ (∀ r, r < 1 → queueReady s 3 r = false) ∧ queueReady s 3 1 = true ∧ eligible s 3 1 = true ∧
      headOf s 3 1 = some u ∧ (selnanFrame s 3 u (pOn 5 7 pColGrant)).length ≤ portFld s 3 11) := by
  simp only [State.live]; decide +kernel
theorem witness_service_idle : ∀ q, headOf (sServe pUp []) 9 q = none := fun _ => rfl

def sShape : State := withPlan [rec_ 0x06 0x02 9 [100, 200], rec_ 0x06 0x03 3 [2, 0, 0, 10, 20, 30, 40]]
theorem witness_refill : sShape.live ∧ planRecs sShape 0x06 0x02 = [] ++ rec_ 0x06 0x02 9 [100, 200] :: [] ∧ (∀ x ∈ planRecs sShape 0x06 0x02, x.index ≠ 8) ∧
    planRecs sShape 0x06 0x03 = [] ++ rec_ 0x06 0x03 3 [2, 0, 0, 10, 20, 30, 40] :: [] ∧ (rec_ 0x06 0x03 3 [2, 0, 0, 10, 20, 30, 40]).fld 0 ≠ 0 ∧
    (Tab.get {} sShape.sched.pol 3).on = false := by simp only [State.live]; decide

def a25 : Acct := { ix := 25, inn := 0, sizes := 3, reserve := 4, limit := 16 }
def sWait : State := { sNetUp with core := { waits := [{ die := 0, inn := 0, acct := 25, bytes := 1, refs := 1 }] } }
theorem witness_rooms : sNetUp.live ∧ reqDie sNetUp (3 : BitVec 11).toNat = 0 ∧ 25 = 8 * (3 : BitVec 11).toNat + (1 : BitVec 3).toNat ∧
    findAcct sNetUp 0 25 = some a25 ∧ roomFor a25.sizes 1025 = none ∧ roomFor a25.sizes 1024 = some 1 ∧ (innRec sNetUp 0 0).isSome = true ∧
    (∀ w ∈ sNetUp.core.waits, w.acct ≠ 25 ∧ w.die ≠ 0) ∧ (innRec sNetUp 0 0).map (fun r => (mayGrant sNetUp 0 a25 r 1 (roomCells 1), freeRoom sNetUp r 0 0 1)) = some (true, some 0) ∧
    findAcct sWait 0 25 = some a25 ∧ (∃ w ∈ sWait.core.waits, w.acct = 25) := by
  simp only [State.live]; decide +kernel

/-- Room pointer of the 1 KiB room at cell 0 of inn 0, held twice and once. -/
def ptr1K : Word := BitVec.ofNat 32 (1 * 2 ^ 21)
def sHeld (refs : Nat) : State := { sNetUp with core := { rooms := [{ die := 0, inn := 0, size := 1, cell := 0, acct := 25, refs }] } }
theorem witness_releases : bits ptr1K.toNat 23 21 = 1 ∧ (innRec (sHeld 2) (bits ptr1K.toNat 25 25) (bits ptr1K.toNat 31 26)).isSome = true ∧ bit ptr1K.toNat 24 = false ∧
    (innRec (sHeld 2) 0 0).map (fun r => (decide (poolBase r 1 ≤ 0), decide (0 + roomCells 1 ≤ poolBase r 1 + innRooms r 1 * roomCells 1))) = some (true, true) ∧
    ((sHeld 2).core.rooms.find? fun x => x.die == 0 && x.inn == 0 && x.size == 1 && x.cell == 0 && !x.leaked).map (·.refs) = some 2 ∧
    ((sHeld 1).core.rooms.find? fun x => x.die == 0 && x.inn == 0 && x.size == 1 && x.cell == 0 && !x.leaked).map (·.refs) = some 1 ∧ (∀ w ∈ (sHeld 1).core.waits, w.die ≠ 0) ∧
    ((sHeld 0).core.rooms.find? fun x => x.die == 0 && x.inn == 0 && x.size == 1 && x.cell == 0 && !x.leaked).map (·.refs) = some 0 ∧
    bit (ptr1K + BitVec.ofNat 32 (2 ^ 24)).toNat 24 = true := by decide +kernel

/-- A ring of two samples: with HEAD 0 and TAIL 0 there is room for one, with TAIL 1 for none. -/
def sSample (tail : Half) : State := { sNetUp with glean := { tail, bufW := [pack 160 []] } }
theorem witness_samples : (sSample 0).live ∧ (if false then (sSample 0).glean.bufE else (sSample 0).glean.bufW) = pack 160 [] :: [] ∧ (pack 160 []).length = 160 ∧
    (planRec (sSample 0) 0x05 0x04 0).map (fun r => 2 ^ r.fld 1) = some 2 ∧ ((sSample 0).glean.head.toNat + 1) % 2 ≠ (sSample 0).glean.tail.toNat % 2 ∧
    ((sSample 1).glean.head.toNat + 1) % 2 = (sSample 1).glean.tail.toNat % 2 := by
  simp only [State.live]; decide +kernel

/-! ## Memory -/

/-- An RPT entry for pages 0 to 3 of an address. -/
def rptWord (v : Nat) : List (Nat) := [v, 2 ^ 32 - 1 - v]
def rptFor (rights : Nat) (a : Addr) : List Byte := ([2 ^ 31 + rights + a.toNat, 0, 4, 0].flatMap rptWord).flatMap (leBytes 4)
/-- Device 7: EDGE ports 3 and 4, COACH port 11, granary at field 600, host at 601. -/
def sMem (rights : Nat) : State :=
  { plan := { deviceId := 7, planned := true, cur :=
      [portRec_ 3 1, portRec_ 4 1, portRec_ 11 2, rec_ 0x03 0x02 0 [5 * 2 ^ 28], rec_ 0x03 0x02 3 [2 ^ 28], rec_ 0x03 0x02 4 [2 ^ 28], rec_ 0x03 0x02 600 [3 * 2 ^ 28],
       rec_ 0x03 0x02 601 [4 * 2 ^ 28], rec_ 0x05 0x02 9472 [0, 1, 2048, 4096]] }
    clk := { readyGranary := true }
    ports := Tab.set {} (Tab.set {} (Tab.set {} [] 3 { st := .up }) 4 { st := .up }) 11 { st := .up, peerCoach := true, peer := some (addr 8 0) }
    mem := { rpt := Tab.set [] [] (4096 * 3) (rptFor rights (addr 7 600)) } }
/-- A request of port 3 to the granary of this device: operation, offset, bytes, AOP, data or operands. -/
def req (op : BitVec 5) (off n aop : Nat) (bs : List (Nat × Nat × Nat)) (flags : Nat := 0) : Pkt :=
  let len := if op = pLoad then 24 else if op = pAtomic then 40 else 24 + (n + 3) / 4 * 4
  mkPkt (addr 7 3) (addr 7 600) 1 op 1 0 0 (pack len ([(0, 8, (addr 7 600).toNat * 2 ^ 40 + off), (8, 2, n), (10, 1, flags), (11, 1, aop), (16, 3, (addr 7 3).toNat)] ++ bs))
def lreq (p : Pkt) : Lodged := { port := some 3, vl := 1, p }
def sReq (rights : Nat) (p : Pkt) : State := { sMem rights with ingress := [lreq p] }
def p0 : Pkt := req pLoad 96 32 0 []
def pAtom : Pkt := req pAtomic 96 8 1 []
theorem witness_sourceChecks : (sReq (2 ^ 30) p0).live ∧ p0.whole ∧ (Instr.load (some 3) p0 [], pLoad) ∈ requests (some 3) p0 [] ∧ p0.op = pLoad ∧
    headLodged (sReq (2 ^ 30) p0) (some (3 : BitVec 10).toNat) p0.vl 0 = some (lreq p0) ∧ (lreq p0).copy = none ∧
    (({ lreq p0 with port := none }).port.isNone && p0 == p0 && !(lreq p0).checked) = true ∧ p0.vl.toNat ≤ 2 ∧ (lreq p0).p = p0 ∧ (lreq p0).checked = false ∧
    endpointPort (sReq (2 ^ 30) p0) (3 : BitVec 10).toNat = true ∧ headerOk (sReq (2 ^ 30) p0) 3 p0 = true ∧ srcOk (sReq (2 ^ 30) p0) 3 p0 = true ∧
    reqFormatOk p0 = true ∧ (searchRpt (sReq (2 ^ 30) p0) 3 p0 []).2 = some (rptFor (2 ^ 30) (addr 7 600)) ∧
    rptGrants (rptFor (2 ^ 30) (addr 7 600)) p0 = true ∧ targetHedged (sReq (2 ^ 30) p0) p0.dst.toNat = false ∧ paced (sReq (2 ^ 30) p0) 3 p0 = false ∧
    trackerFull (sReq (2 ^ 30) p0) 3 p0 = false := by
  simp only [State.live, Pkt.whole]; decide +kernel

/-- An ATOMIC of 8 bytes with AOP 1 is of no format; rights to store grant no LOAD; a hedged target; a paced line. -/
def sHedged3 : State := { sReq (2 ^ 30) p0 with hedge := { ep := Tab.set {} [] (7 * 1024 + 600) { st := .hedged, epoch := 1 } } }
def sPaced : State := { sReq (2 ^ 30) p0 with mem := { (sReq (2 ^ 30) p0).mem with quench := [{ field := 3, line := rqLine p0, pace := 10, last := some 0 }] } }
theorem witness_sourceRefusals : reqFormatOk pAtom = false ∧ headLodged (sReq (2 ^ 28) pAtom) (some 3) pAtom.vl 0 = some (lreq pAtom) ∧
    headerOk (sReq (2 ^ 28) pAtom) 3 pAtom = true ∧ srcOk (sReq (2 ^ 28) pAtom) 3 pAtom = true ∧ pAtom.whole ∧
    (searchRpt (sReq (2 ^ 29) p0) 3 p0 []).2 = some (rptFor (2 ^ 29) (addr 7 600)) ∧ rptGrants (rptFor (2 ^ 29) (addr 7 600)) p0 = false ∧
    targetHedged sHedged3 p0.dst.toNat = true ∧ paced sPaced 3 p0 = true ∧ targetHedged sPaced p0.dst.toNat = false := by
  simp only [Pkt.whole]; decide +kernel

/-- Delivered to the granary. -/
def sAt (p : Pkt) (tracked : Bool) : State := { sMem 0 with delivered := [{ port := none, p, tracked }] }
def dl (p : Pkt) (tracked : Bool) : Deliv := { port := none, p, tracked }
def pStore8 : Pkt := req pStore 96 8 0 [(24, 8, 5)]
def pCas : Pkt := req pAtomic 96 8 5 [(24, 8, 9), (32, 8, 0)]
def pTop : Pkt := req pLoad (2 ^ 38) 8 0 []
theorem witness_granary (p : Pkt) (h : p = p0 ∨ p = pStore8 ∨ p = pCas) : (sAt p true).live ∧ lineQueue (sAt p true) (rqLine p) = [dl p true] ∧
    (localKind (sAt p true) (fieldOf p.dst)).1 = 3 ∧ (sAt p true).mem.stateLost = false ∧ (∀ h ∈ (sAt p true).mem.hot, h.line ≠ rqLine p) ∧
    activeShares (sAt p true) = [] ∧ stackFenced (sAt p true) (reqStack p) = false ∧ (∀ e ∈ (sAt p true).mem.replay, e.held = none) ∧ (∀ x ∈ (sAt p true).delivered, x.heldAt = none) ∧
    granAllowed (sAt p true) p = true ∧ notAbove p.seq (srcSt (sAt p true) (fieldOf p.dst) (rqOrigin p)).floor = false := by
  simp only [State.live]; rcases h with h | h | h <;> subst h <;> decide +kernel
theorem witness_granaryRange : lineQueue (sAt pTop false) (rqLine pTop) = [dl pTop false] ∧ granAllowed (sAt pTop false) pTop = false ∧ pTop.op = pLoad ∧
    p0.op = pLoad ∧ pStore8.op = pStore ∧ pCas.op = pAtomic ∧ rqLine pTop < 2 ^ 57 ∧ rqLine pCas < 2 ^ 57 := by decide +kernel

theorem witness_atomicValues : rqBytes pCas = 8 ∧ rqBytes (req pAtomic 96 4 0 []) = 4 ∧ rqAop (req pAtomic 96 4 0 []) = 0 ∧ rqAop (req pAtomic 96 4 2 []) = 2 ∧
    rqAop (req pAtomic 96 4 19 []) = 3 ∧ rqSigned (req pAtomic 96 4 19 []) = true ∧ rqAop (req pAtomic 96 4 4 []) = 4 ∧ rqAop pCas = 5 ∧
    rqAop (req pAtomic 96 4 6 []) = 6 ∧ rqAop (req pAtomic 96 4 7 []) = 7 := by decide +kernel

def sRep (m : MemSt) : State := { sAt pCas false with mem := m }
def rep0 (a : Option (Nat × Nat × Nat)) : Replay := { field := 600, origin := rqOrigin pCas, seq := 1, answer := a }
def mFloor (f : Word) : MemSt := { src := Tab.set {} [] (srcKey 600 (rqOrigin pCas)) { floor := some f } }
def mLow (f : Word) : MemSt := { src := Tab.set {} [] (srcKey 600 (rqOrigin pCas)) { low := some f } }
theorem witness_replay : pCas.whole ∧ fieldOf pCas.dst = 600 ∧ isTracked pCas.op = true ∧ ((sRep {}).delivered.find? fun d => d.p == pCas && !d.tracked) = some (dl pCas false) ∧
    keepsSource (sRep {}) 600 = true ∧ (sRep {}).mem.stateLost = false ∧ notAbove pCas.seq (srcSt (sRep (mFloor 1)) 600 (rqOrigin pCas)).floor = true ∧
    notAbove pCas.seq (srcSt (sRep (mFloor 0)) 600 (rqOrigin pCas)).floor = false ∧
    replayOf (sRep { replay := [rep0 none] }) 600 (rqOrigin pCas) pCas.seq = some (rep0 none) ∧
    replayOf (sRep { replay := [rep0 (some (0, 0, 7))] }) 600 (rqOrigin pCas) pCas.seq = some (rep0 (some (0, 0, 7))) ∧
    replayOf (sRep (mLow 1)) 600 (rqOrigin pCas) pCas.seq = none ∧ notAbove pCas.seq (srcSt (sRep (mLow 1)) 600 (rqOrigin pCas)).low = true ∧
    notAbove pCas.seq (srcSt (sRep (mLow 0)) 600 (rqOrigin pCas)).low = false ∧ busyReplay (sRep (mLow 0)) 600 = false := by
  simp only [Pkt.whole]; decide +kernel
/-- 2,048 entries of another origin fill the table. -/
theorem witness_replayFull : let s := sRep { replay := List.replicate 2048 { field := 600, origin := 0, seq := 1 } }
    replayOf s 600 1 pCas.seq = none ∧ busyReplay s 600 = true ∧ notAbove pCas.seq (srcSt s 600 1).low = false ∧ lineQueue s (rqLine p0 + 1) = [] := by decide +kernel

def trk (p : Pkt) (tries : Nat) (busy : Bool := false) : Track := { field := 3, p, ix := 0, loadTo := 64, tries, busy }
def sTrk (t : Track) (a : List Deliv := []) : State := { sMem 0 with mem := { track := [t] }, delivered := a }
def pRsp : Pkt := mkPkt (addr 7 600) (addr 7 3) 5 pLoadRsp 1 0 0 (pack 48 [(8, 3, (addr 7 3).toNat), (12, 3, (addr 7 600).toNat)])
def pLate : Pkt := mkPkt (addr 7 600) (addr 7 3) 5 pLoadRsp 2 0 0 (pack 48 [(8, 3, (addr 7 3).toNat), (12, 3, (addr 7 600).toNat)])
theorem witness_tracker : (sTrk (trk pCas 2)).live ∧ findTrack (sTrk (trk pCas 2)) (3 : BitVec 10).toNat pCas.dst 1 = some (trk pCas 2) ∧ isTracked pCas.op = true ∧
    (trk pCas 2).tries < 3 ∧ 11 ≤ pCas.payload.length ∧ 3 ≤ (trk pCas 3).tries ∧ (trk p0 0 true).busy = true ∧
    findTrack (sTrk (trk p0 0 true)) 3 p0.dst 1 = some (trk p0 0 true) ∧ pRsp.whole ∧ pRsp.op = pLoadRsp ∧
    ((sTrk (trk p0 0) [dl pRsp false]).delivered.find? fun d => d.p == pRsp) = some (dl pRsp false) ∧ (dl pRsp false).heldAt = none ∧ (localKind (sTrk (trk p0 0)) (fieldOf pRsp.dst)).1 = 1 ∧
    ((sTrk (trk p0 0)).mem.track.find? fun t => t.field == fieldOf pRsp.dst && answers pRsp t.p) = some (trk p0 0) ∧ rsStatus pRsp ≠ rsBusy ∧
    (∀ e ∈ (sTrk (trk p0 0)).mem.track, e.field = fieldOf pLate.dst → answers pLate e.p = false) := by
  simp only [State.live, Pkt.whole]; decide +kernel

/-- An endpoint's answer at its port to the LOAD of this device that was forwarded to it. -/
def aEnd : Pkt := mkPkt (addr 7 3) (addr 7 600) 5 pLoadRsp 1 0 0 (pack 48 [(8, 3, (addr 7 600).toNat), (12, 3, (addr 7 3).toNat)])
def qEnd : Pkt := mkPkt (addr 7 600) (addr 7 3) 2 pLoad 1 0 0 (pack 24 [(16, 3, (addr 7 600).toNat)])
def lEnd : Lodged := { port := some 3, vl := 5, p := aEnd }
def sEnd (m : MemSt) : State := { sMem 0 with ingress := [lEnd], mem := m }
theorem witness_endpointAnswer : (sEnd {}).live ∧ aEnd.whole ∧ aEnd.op = pLoadRsp ∧ headLodged (sEnd {}) (some (3 : BitVec 10).toNat) aEnd.vl 0 = some lEnd ∧
    lEnd.p = aEnd ∧ lEnd.checked = false ∧ endpointPort (sEnd {}) 3 = true ∧ headerOk (sEnd {}) 3 aEnd = true ∧ srcOk (sEnd {}) 3 aEnd = true ∧ lEnd.copy = none ∧
    (let f := { field := 3, sent := qEnd, group := [qEnd] }
     ((sEnd { fwd := [f] }).mem.fwd.find? fun f => f.field == (3 : BitVec 10).toNat && answers aEnd f.sent) = some f) ∧ (sEnd {}).mem.fwd = [] := by
  simp only [State.live, Pkt.whole]; decide +kernel

def rptCmd (f k : Nat) (e : List Byte) : Cmd := { auth := .owner, seq := 1, epoch := 1, body := pack 8 [(0, 2, f), (2, 2, k)] ++ e ++ List.replicate 60 0 }
def cRpt : Cmd := rptCmd 3 4095 (rptFor (2 ^ 30) (addr 7 600))
def cRptRead : Cmd := cmdOf .owner [(0, 2, 1023), (2, 2, 4095)]
def cMem : Cmd := cmdOf .owner [(0, 1, 8), (8, 8, (addr 7 600).toNat * 2 ^ 40), (16, 2, 24)]
theorem witness_rights : (sMem 0).live ∧ cRpt.passes oRptWrite [(0, 2), (2, 2), (8, 32)] ∧ cRpt.u 0 2 = 3 ∧ cRpt.u 2 2 = 4095 ∧
    rptOk (slice cRpt.body 8 32) = true ∧ rptFormatOk (slice cRpt.body 8 32) = true ∧ isSource (sMem 0) 3 = true ∧ isSource (sMem 0) 1023 = false ∧
    rank (sMem 0) (Tab.get {} (sMem 0).recov (objKey 4 (4096 * 3 + 4095))) cRpt = .applied ∧ rptOk (slice (rptCmd 3 0 (List.replicate 32 0)).body 8 32) = false ∧
    (rptCmd 3 0 (List.replicate 32 0)).passes oRptWrite [(0, 2), (2, 2), (8, 32)] ∧ (rptCmd 1023 0 (rptFor 0 0)).passes oRptWrite [(0, 2), (2, 2), (8, 32)] ∧
    (∀ t ∈ (sTrk (trk p0 0)).mem.track, t.field = cRpt.u 0 2 → 0 ≤ t.ix) ∧ cRpt.auth = .owner ∧
    cRptRead.passes oRptRead [(0, 2), (2, 2)] ∧ cRptRead.u 0 2 = 1023 ∧ cRptRead.u 2 2 = 4095 ∧
    cMem.passes oMemRequest [(0, 1), (8, 24), (32, 64)] ∧ cMem.u 0 1 = 8 ∧ cMem.u 16 2 % 8192 = 24 ∧ fieldOfKind (sMem 0) 4 = some 601 ∧ fieldOfKind State.reset 4 = none := by
  simp only [State.live, Cmd.passes]; decide +kernel

def pQuench : Pkt := mkPkt (addr 7 600) (addr 7 0) 0 pMgtQuench 0 0 0 (pack 16 [(0, 8, 1280), (8, 3, (addr 7 3).toNat), (12, 4, 100)])
theorem witness_quench : pQuench.whole ∧ leAt pQuench.payload 8 3 / 1024 = (sMem 0).plan.deviceId.toNat ∧ isSource (sMem 0) (leAt pQuench.payload 8 3 % 1024) = true ∧
    (sPaced.mem.quench.filter fun q => q.field == 3).length ≤ 8 := by simp only [Pkt.whole]; decide +kernel

def sGate (g : Gateway) (p : Pkt) : State := { sMem 0 with mem := { gates := Tab.set {} [] 11 g }, delivered := [{ port := some 11, p }] }
def pRun : Pkt := mkPkt (addr 8 0) (addr 7 0) 3 pCoachRun 0 0 0 (pack 8 [(0, 2, 1), (2, 2, 1)] ++ Pkt.header p0 ++ p0.payload)
def pDone (run : Word) : Pkt := mkPkt (addr 8 0) (addr 7 0) 3 pCoachDone 0 run 0 (pack 16 [(12, 4, 5)])
def far2 : List FarRun := [{ run := 8, recs := [{ p := p0 }] }, { run := 9, recs := [{ p := p0, answered := true }] }]
theorem witness_gateways : (sGate {} pRun).live ∧ gateway (sGate {} pRun) (11 : BitVec 10).toNat = {} ∧ ({} : Gateway).run = [] ∧ ({ run := [p0] } : Gateway).run ≠ [] ∧
    pRun.whole ∧ arrivedAt (sGate {} pRun) 11 pRun = true ∧ pRun.op = pCoachRun ∧ hasGate (sGate {} pRun) 11 = true ∧ leAt pRun.payload 2 2 = 1 ∧ pRun.seq = 0 ∧
    1 ≤ leAt pRun.payload 0 2 ∧ gateRooms (sGate {} pRun) 11 = 2 ∧ ({ far := far2 } : Gateway).far.length = 2 ∧
    (({ far := far2 } : Gateway).far.find? fun f => f.run == 8).isSome = true ∧ (pDone 0xFFFFFFFF).whole ∧ (pDone 0xFFFFFFFF).fcid = 0xFFFFFFFF ∧
    arrivedAt (sGate { near := [4] } (pDone 4)) 11 (pDone 4) = true ∧ (pDone 4).fcid ∈ ({ near := [4] } : Gateway).near ∧ (pDone 5).fcid ∉ ({ near := [4] } : Gateway).near := by
  simp only [State.live, Pkt.whole]; decide +kernel

def cCoach (off n : Nat) : Cmd := cmdOf .owner [(0, 8, off), (16, 4, n)]
def cr0 : CmdRun := { c := cCoach 0 1, get := true, total := 1 }
theorem witness_coach : (cCoach 0x2EFFFF0000 65536).passes oCoachPut coachFields ∧ (cCoach 0x2EFFFF0000 65536).u 16 4 ≤ 65536 ∧ fieldOfKind State.reset 3 = none ∧
    fieldOfKind (sMem 0) 3 = some 600 ∧ (sMem 0).clk.readyGranary = true ∧ (cCoach 0x2EFFFF0000 65536).u 0 8 + 65536 ≤ 2 ^ 38 ∧
    meetsArea (reservedAreas (sMem 0)) ((cCoach 0x2EFFFF0000 65536).u 0 8) 65536 = false ∧ (sMem 0).mem.runs.length < 64 ∧ 0 < (cCoach 0x2EFFFF0000 65536).u 16 4 ∧
    meetsArea (reservedAreas (sMem 0)) ((cCoach 0x2EFFFF0001 65536).u 0 8) 65536 = true ∧ 2 ^ 38 < (cCoach (2 ^ 38) 1).u 0 8 + (cCoach (2 ^ 38) 1).u 16 4 ∧
    64 ≤ ({ runs := List.replicate 64 cr0 } : MemSt).runs.length ∧ (cCoach 0 1).passes oCoachGet coachFields := by
  simp only [Cmd.passes]; decide +kernel

/-! ## Plots -/

/-- A control word from (lowest bit, value) pairs, and its 24 words of a table. -/
def wd (fs : List (Nat × Nat)) : Nat := fs.foldl (fun a f => a + f.2 * 2 ^ f.1) 0
def words24 (w : Nat) : List Nat := (List.range 24).map fun i => w / 2 ^ (32 * i) % 2 ^ 32
/-- Plot 31 runs this word at PC 0; word 1 is HALT. Its window is lines 0 to 31, read-write, and binding 0 is bound to lines 100 on. -/
def sPlot (w : Nat) (x : Plot) (limit : Nat := 0) : State :=
  { withPlan [rec_ 0x09 0x01 31 [2 ^ 31 + 2 ^ 30 + limit * 2 ^ 16 + 2] [[words24 w, words24 (wd [(764, 5)])], [[2 ^ 29, 100, 1]], [[2 ^ 31, 1]]]]
    with plots := Tab.set {} [] 31 { x with mode := .running } }
def snap_ (done : List Nat) (ctr : Tab Word := []) : Snap := { ctr, cfg := [], lim := [], sc := [], flags := 0, done }
/-- The parts of the word before `k` have started. -/
def before (w k : Nat) : List Nat := (wordParts w).takeWhile fun j => j != k
def xAt (w k : Nat) (x : Plot := {}) (ctr : Tab Word := []) : Plot := { x with snap := some (snap_ (before w k) ctr), mode := .running }
def sPart (w k : Nat) (x : Plot := {}) (ctr : Tab Word := []) : State := sPlot w (xAt w k x ctr)

def wAll : Nat := wd [(764, 4), (750, 0), (746, 15), (740, 1), (736, 3), (704, 7), (679, 1), (673, 63), (672, 1), (666, 8), (665, 1), (661, 15), (31, 1), (27, 1), (23, 1), (22, 1), (21, 1), (130, 1)]
/-- Every part of a word at its turn. -/
theorem witness_parts : (sPart wAll 14).live ∧ wordParts wAll = [2, 5, 6, 7, 8, 9, 10, 11, 12, 13, 14] ∧ plot (sPart wAll 2) 31 = xAt wAll 2 ∧
    ∀ k ∈ wordParts wAll, partAt (sPart wAll k) 31 k wAll (snap_ (before wAll k)) := by
  simp only [State.live, partAt]; decide +kernel

theorem witness_issue : (Instr.jump 31 .ok, 14, fun w => wNxt w == 1) ∈ partCommands 31 .ok [] := by simp [partCommands]
def wJump (target : Nat) : Nat := wd [(764, 1), (750, target)]
/-- A jump past the table is not well formed; a wait on flag 8 holds the word. -/
def wWait : Nat := wd [(764, 0), (702, 1), (694, 8)]
theorem witness_issue_clauses : currentWord (sPlot (wJump 2) { halted := true }) (31 : Fin 32).val = none ∧ currentWord (sPlot (wJump 2) {}) 31 = some (wJump 2) ∧
    (plot (sPlot (wJump 2) {}) 31).snap = none ∧ canIssue (sPlot (wJump 2) {}) 31 (wJump 2) = true ∧ (wordParts (wJump 2)).head? = some 14 ∧
    wordOk (sPlot (wJump 2) {}) 31 0 (wJump 2) = false ∧ wordOk (sPlot (wJump 1) {}) 31 0 (wJump 1) = true ∧ contOk (plot (sPlot (wJump 1) {}) 31) (wJump 1) = true ∧
    (let s := sPlot (wJump 1) {}; canIssue s 31 (wJump 1) = true ∧ nmarkBreach s 31 (wJump 1) (wordReads (plot s 31) (wJump 1)) = false ∧
      armedWrite s 31 (wordWrites (plot s 31) (wJump 1)) = false) ∧
    canIssue (sPlot wWait {}) 31 wWait = false ∧ (wordParts wAll).head? ≠ some 14 ∧ ((wordParts wAll).filter fun j => !(before wAll 13).contains j).head? ≠ some 14 := by
  decide +kernel

theorem witness_next : wNxt (wd [(764, 0)]) = 0 ∧ wNxt (wJump 1) = 1 ∧ wNxt (wd [(764, 2), (743, 5)]) = 2 ∧ wNxt (wd [(764, 3)]) = 3 ∧ wNxt wAll = 4 ∧ bits wAll 749 746 = 15 ∧
    wNxt (wd [(764, 5)]) = 5 ∧ partAt (sPart (wd [(764, 5)]) 14) 31 14 (wd [(764, 5)]) (snap_ []) ∧ partAt (sPart (wJump 1) 14) 31 14 (wJump 1) (snap_ []) ∧
    (∀ n ∈ [0, 2, 3], partAt (sPart (wd [(764, n), (750, 1)]) 14) 31 14 (wd [(764, n), (750, 1)]) (snap_ [])) := by
  simp only [partAt]; decide +kernel

theorem witness_counters : wCop wAll = 1 ∧ (∀ n ∈ [2, 3, 4], wCop (wd [(740, n)]) = n ∧ partAt (sPart (wd [(740, n), (743, 7)]) 5) 31 5 (wd [(740, n), (743, 7)]) (snap_ [])) := by
  simp only [partAt]; decide +kernel

/-- A digest stream that DTAP may take, a tile queue entry and a complete binding. -/
def tile (tag : Nat) : TileEntry := { vals := [1, 2], m := 1, n := 2, tag, taint := false, chunkTag := 0, ready := 0 }
def xTaps : Plot := { streams := [(0, .seg none [1] false false)], tq := [tile 127], binds := Tab.set {} [] 0 { complete := true } }
def wArm : Nat := wd [(92, 4)]
theorem witness_taps : ((plot (sPart wAll 9 xTaps) 31).streams.find? fun e => e.1 == bits wAll 26 24) = some (0, .seg none [1] false false) ∧
    partAt (sPart wAll 9 xTaps) 31 9 wAll (snap_ (before wAll 9)) ∧ noDigests (plot (sPart wAll 10) 31) ∧
    (Tab.get {} (plot (sPart wAll 10) 31).digs (bits wAll 30 28)).taint = false ∧ tqHead (xAt wAll 2 xTaps) = some (tile 127) ∧
    tqHead (xAt wAll 2) = none ∧ partAt (sPart wAll 2 xTaps) 31 2 wAll (snap_ []) ∧
    partAt (sPart wArm 4 xTaps) 31 4 wArm (snap_ []) ∧ wFop wArm = 4 ∧ (bindSt (sPart wArm 4 xTaps) 31 0).complete = true ∧
    (∀ k ∈ [11, 12, 13], partAt (sPart wAll k) 31 k wAll (snap_ (before wAll k))) := by
  simp only [partAt, noDigests]; decide +kernel

/-- A 1 x 1 x 1 product of FP16 operands, dense and sparse, and what keeps the array or the path busy. -/
def wMm (aop : Nat) : Nat := wd [(636, aop), (632, 1), (628, 1), (627, 1), (626, 1), (588, 1), (366, 1), (414, 1)]
def opBusy (u : OpUnit) (w : Nat := 0) : PlotOp := { id := 0, unit := u, addr := 0, word := w, free := 1, fin := 1 }
theorem witness_products : (∀ a ∈ [1, 2], partAt (sPart (wMm a) 0) 31 0 (wMm a) (snap_ []) ∧ wAop (wMm a) = a ∧ wBank (wMm a) = true ∧ mmFree (xAt (wMm a) 0) = true ∧
      bankBusyBy (xAt (wMm a) 0) true .acc = false ∧ bankBusyBy (xAt (wMm a) 0) true .harrow = false ∧
      (mmStream (xAt (wMm a) 0) (wMm a) 0).isSome = true ∧ (mmStream (xAt (wMm a) 0) (wMm a) 1).isSome = true ∧ slabs (wMm a) = 1 ∧
      (∀ g ∈ [mmStream (xAt (wMm a) 0) (wMm a) 0, mmStream (xAt (wMm a) 0) (wMm a) 1], ∀ n ∈ [slabs (wMm a) * linesA (wMm a), slabs (wMm a) * linesB (wMm a)],
        (g.map fun g => inScratch (agLines g n)) = some true)) ∧
    mmFree (xAt (wMm 1) 0 { ops := [opBusy .mm] }) = false ∧
    bankBusyBy (xAt (wMm 1) 0 { ops := [{ opBusy .acc with bank := some true }] }) true .acc = true := by
  simp only [partAt]; decide +kernel

def wAcc (aop : Nat) : Nat := wd [(636, aop), (612, 1), (462, 1)]
theorem witness_accumulators : (∀ a ∈ [3, 4, 5, 6], partAt (sPart (wAcc a) 0) 31 0 (wAcc a) (snap_ []) ∧ wAop (wAcc a) = a) ∧ accFree (xAt (wAcc 6) 0) = true ∧
    bankBusy (xAt (wAcc 6) 0) false = false ∧ cellarRefuses (sPart (wAcc 5) 0) 31 (wAcc 5) = false ∧ (xAt (wAcc 5) 0 { tq := List.replicate 7 (tile 0) }).tq.length < 8 ∧
    8 ≤ (xAt (wAcc 5) 0 { tq := List.replicate 8 (tile 0) }).tq.length ∧ 
    (∀ a ∈ [3, 4], ((agStream (xAt (wAcc a) 0) (wAcc a) 2).map fun g => inScratch (agLines g (cdiv (4 * wM (wAcc a) * wN (wAcc a)) 128))) = some true) ∧
    accFree (xAt (wAcc 6) 0 { ops := [opBusy .acc] }) = false := by
  simp only [partAt]; decide +kernel

/-- Harrow words: ADD, XLOAD, XLIST, GATHER, KEYSET on one element. -/
def wHar (h : Nat) : Nat := if h = 0x3F then wd [(312, h), (310, 3)] else if h = 0x30 ∨ h = 0x32 then wd [(312, h), (288, 31)] else wd [(312, h), (288, if h = 0x2A then 31 else 0), (264, 1)]
def xList : Plot := { xregs := Tab.set {} [] 31 { isList := true, list := [0], count := 1 } }
theorem witness_harrow : (∀ h ∈ [1, 0x2A, 0x30, 0x32, 0x3F], partAt (sPart (wHar h) 1 xList) 31 1 (wHar h) (snap_ []) ∧ wHop (wHar h) = h ∧
      (h ∈ (harrowCommands 31 []).map (·.2)) ∧ harrowMay (sPart (wHar h) 1 xList) (xAt (wHar h) 1 xList) 31 (wHar h)) ∧
    wrongKind (xAt (wHar 1) 1) (wHar 1) = false ∧ harrowPlotOk (sPart (wHar 1) 1) 31 (wHar 1) = true ∧ wrongKind (xAt (wHar 0x2A) 1) (wHar 0x2A) = true ∧
    harrowFree (xAt (wHar 1) 1 { ops := [opBusy .harrow] }) = false := by
  simp only [partAt, harrowMay]; decide +kernel

/-- ADD and CVT on one FP32 element, whose line 0 of the destination is written with vector 0. -/
def oHar (h : Nat) : PlotOp := opBusy .harrow (wHar h)
theorem witness_elements : (∀ h ∈ [1, 0x10, 0x11, 0x18], (oHar h).unit = .harrow ∧ hWidth (oHar h).word = 32 ∧ wHop (oHar h).word = h ∧ 0 < hCount (oHar h).word ∧
      (0 : Nat) / 32 = 0 - wSD (oHar h).word ∧ hActive {} (oHar h) 0 = true) ∧ wEd (wHar 1) = 0 ∧ wEs (wHar 1) = 0 := by decide +kernel
theorem witness_slabs : wBank (wMm 1) = true ∧ (opBusy .mm (wMm 1)).unit = .mm ∧ 0 < wM (wMm 1) ∧ 0 < wN (wMm 1) := by decide +kernel
theorem witness_stored : ({ opBusy .acc with src := [7] } : PlotOp).unit = .acc ∧ 0 < ({ opBusy .acc with src := [7] } : PlotOp).src.length := by decide

/-- The one operation of a plot that issues no word, its lines presented, a cycle before its end. -/
def xOps (o : PlotOp) : Plot := { ops := [{ o with fin := 2 }], cyc := 1, mode := .running, halted := true }
def oMm : PlotOp := { opBusy .mm (wMm 1) with bank := some true, flags := 1, slab := 1 }
/-- An MM_SP whose first slab's metadata is all of one byte. -/
def oSparse (b : Byte) : PlotOp := { opBusy .mm (wMm 2) with bank := some true, fin := 400, cap := (List.range 64).map fun i => (keyB + i, { bytes := List.replicate 128 b, taint := false }) }
def xSparse (b : Byte) : Plot := { ops := [oSparse b], cyc := 1, mode := .running, halted := true }
theorem witness_sparseFaults : (∀ y ∈ (xOps oMm).ops, y.unit = .mm → wAop y.word ≠ 2) ∧ (∀ b ∈ [0, 0x44], lastOp (xSparse b) (oSparse b)) ∧
    (let o := oSparse 0; wAop o.word = 2 ∧ o.slab < passes o.word * slabs o.word ∧ o.t < (o.slab + 1) * slabTime o.word ∧ (o.slab + 1) * slabTime o.word ≤ o.fin) ∧
    badNibble (oSparse 0).word (oSparse 0).slabNo (capBytes (oSparse 0) keyB (linesB (oSparse 0).word)) = some (fSparseMeta, 0, 0) ∧
    badNibble (oSparse 0).word (oSparse 0).slabNo (capBytes (oSparse 0x44) keyB (linesB (oSparse 0).word)) = some (fSparseIndex, 0, 0) := by
  simp only [lastOp, noDigests]; decide +kernel

theorem witness_ends : (∀ o ∈ [oMm, opBusy .acc (wAcc 6), opBusy .acc (wAcc 3), oHar 1, oHar 0x3F, oHar 0x32, oHar 0x30], ∃ q, (xOps o).ops = [q] ∧ lastOp (xOps o) q) ∧
    (sPlot 0 (xOps oMm)).live ∧ plot (sPlot 0 (xOps oMm)) 31 = xOps oMm ∧ passes oMm.word * slabs oMm.word ≤ oMm.slab ∧ wAop oMm.word ≠ 3 ∧
    wAop (wAcc 3) = 3 ∧ (∀ h ∈ [1, 0x3F, 0x32, 0x30], (hCheck (oHar h).word = 0 ∨ (oHar h).slab ≠ 0) ∧ ¬ (wHop (oHar h).word = 0x30 ∧ wVar (oHar h).word = 2 ∧ (oHar h).slab = 0)) ∧
    wVar (wHar 0x30) = 0 := by
  refine ⟨?_, ?_⟩
  · intro o ho
    refine ⟨{ o with fin := 2 }, rfl, ?_⟩
    simp only [List.mem_cons, List.not_mem_nil, or_false] at ho
    rcases ho with rfl | rfl | rfl | rfl | rfl | rfl | rfl <;> (simp only [lastOp, noDigests]; decide +kernel)
  · simp only [State.live]; decide +kernel

def wGran (g : Nat) : Nat := wd [(188, g), (133, 1), (510, 1)]
def wFab (f : Nat) : Nat := wd [(92, f), (39, 1), (510, 1)]
def xf (kind : XferKind) (gaddr : Nat) (running : Bool := false) : Xfer := { kind, addr := 0, lines := [0], gaddr, count := 1, running }
theorem witness_transfers : (∀ g ∈ [1, 2], partAt (sPart (wGran g) 3) 31 3 (wGran g) (snap_ []) ∧ wGop (wGran g) = g) ∧
    (∀ f ∈ [1, 2, 3], partAt (sPart (wFab f) 4) 31 4 (wFab f) (snap_ []) ∧ wFop (wFab f) = f) ∧
    (xAt (wGran 1) 3 { xq := List.replicate 3 (xf .gload 0) }).xq.length < 4 ∧ (agStream (xAt (wGran 1) 3) (wGran 1) 3).isSome = true ∧
    inScratch (agLines { used := true, base := 0, run := 0, stride := 0, next := 0 } (cdiv (fabricBytes (xAt (wGran 1) 3) (wGran 1)) 128)) = true ∧
    4 ≤ (xAt (wGran 1) 3 { xq := List.replicate 4 (xf .gload 0) }).xq.length := by
  simp only [partAt]; decide +kernel

/-- Plot 31 with this transfer alone: under a plan whose window is lines 0 to 31. -/
def xXq (y : Xfer) : Plot := { xq := [y], mode := .running, halted := true }
def sXq (y : Xfer) : State := { withPlan [rec_ 0x09 0x01 31 [2 ^ 31 + 2] [[], [], [[2 ^ 31, 1]]]] with plots := Tab.set {} [] 31 (xXq y) }
theorem witness_transfersRun : (sXq (xf .gstore (31 * 128))).live ∧ plot (sXq (xf .gstore (31 * 128))) 31 = xXq (xf .gstore (31 * 128)) ∧ (xf .gload 0 true).running = true ∧
    ({ xf .msend 0 with count := 0 } : Xfer).kind ≠ .waybill ∧ (xf .csend 0).count = 1 ∧ noDigests (xXq (xf .gload 0)) ∧
    (let y := xf .gstore (31 * 128); let s := sXq y
     (∀ l ∈ granLines y, inWindow s 31 (y.kind == .gstore) l = true ∧ regionOf s l = none) ∧ stackFenced s (y.gaddr / 2 ^ 36) = false) ∧
    armedWrite (sXq (xf .gload 0)) 31 (xf .gload 0).lines = false ∧
    (∃ l ∈ granLines (xf .gload (32 * 128)), inWindow (sXq (xf .gload (32 * 128))) 31 false l = false) ∧
    (xf .gload 0 true).left = [] ∧ (xf .gload 0 true).kind ≠ .csend ∧ (xf .gload 0).running = false := by
  simp only [State.live, noDigests]; decide +kernel
theorem witness_granTransfers : (∀ k ∈ [XferKind.gload, XferKind.gstore], let y : Xfer := { xf k 128 true with left := [0] }; let x := xXq y
      plot (sXq y) 31 = x ∧ x.mode = .running ∧ x.halted = true ∧ x.xq = [y] ∧ x.ops = [] ∧ x.shadow = [] ∧ noDigests x ∧ y.running = true ∧
      y.left = y.lines ∧ y.cap = [] ∧ y.errs = [] ∧ y.lines.Nodup ∧ y.lines.length = y.count ∧ y.gaddr % 128 = 0 ∧ y.lines ≠ [] ∧
      ∀ l ∈ y.lines, lineTaint x l = false) := by
  simp only [noDigests]; decide +kernel

def cStart (a : Nat) : Cmd := cmdOf .owner [(0, 1, 31), (2, 2, a)]
def cStop : Cmd := cmdOf .owner [(0, 1, 31)]
def sIdle (q : Bool) : State := { sPlot 0 {} with plots := [], plan := { (sPlot 0 {}).plan with quiescing := q } }
def sFallow : State := { sIdle false with part := { plotPresent := 0x7FFFFFFF } }
def sWord (x : Plot) : State := sPlot (wd [(764, 5)]) x
theorem witness_plotStart : (sIdle false).live ∧ (31 : Fin 32).val = (cStart 1).u 0 1 ∧ (cStart 1).passes oPlotStart [(0, 1), (2, 2)] ∧ fallow sFallow 31 = true ∧ fallow (sIdle false) 31 = false ∧
    (plot (sIdle false) 31).mode ≠ .running ∧ (plot (sIdle false) 31).ctrlBad = false ∧ tableWords (sIdle false) 31 = 2 ∧ (cStart 2).u 2 2 = 2 ∧ (cStart 1).u 2 2 < 2 ∧
    (sIdle true).plan.quiescing = true ∧ (sIdle false).plan.quiescing = false ∧ (sIdle false).plan.phase ≠ .apply ∧ cStop.passes oPlotStop [(0, 1)] ∧
    (plot (sWord {}) 31).mode = .running ∧ haltIssued (sWord {}) 31 = false ∧ haltIssued (sWord { halted := true }) 31 = true ∧
    haltIssued (sWord { snap := some (snap_ []) }) 31 = true := by
  simp only [State.live, Cmd.passes]; decide +kernel
theorem witness_plotEnds : (∃ x : Plot, x.mode = .running ∧ x.halted = true ∧ x.ops = [] ∧ drained x = true ∧ x.stops = [] ∧ plot (sPlot 0 x) 31 = x) ∧
    (∃ x : Plot, x.mode = .running ∧ x.stopping = true ∧ x.snap = none ∧ x.ops = [] ∧ x.xq = [] ∧ x.stops = [cStop] ∧ cStop.auth = .owner ∧ x.startCmd = none ∧
      plot (sPlot 0 x) 31 = x) :=
  ⟨⟨{ mode := .running, halted := true }, by decide +kernel⟩, ⟨{ mode := .running, stopping := true, stops := [cStop] }, by decide +kernel⟩⟩

/-- A word that waits on flag 8, which a binding sets from outside. -/
def sHold (flag : Bool) (out : Bool := false) (limit : Nat := 1) : State := sPlot wWait { flags := if flag then 256 else 0, outside := out } limit
theorem witness_waits : (∀ f ∈ [false, true], ∀ o ∈ [false, true], (sHold f o).live ∧ currentWord (sHold f o) (31 : Fin 32).val = some wWait ∧
      (plot (sHold f o) 31).snap = none ∧ atRest (plot (sHold f o) 31) ∧ canIssue (sHold f o) 31 wWait = f ∧ firstOnly (sHold f o) 31 wWait = !o) ∧
    waitLimit (sHold false false 0) 31 = 0 ∧ 0 < waitLimit (sHold false) 31 := by
  simp only [State.live, atRest]; decide +kernel

/-! ## Exact sums -/

def parts2 : List SumPart := [rawPart 5 1 (leBytes 4 0x7FFFFFFF), rawPart 5 1 (leBytes 4 1)]
/-- The waybill of a reduce-scatter: REDOP, ETYPE_IN = ETYPE_OUT, and the rest. -/
def sumBill (redop et iovf : Nat) : List Byte := pack 64 [(8, 4, redop * 4096 + et * 256 + et * 16 + iovf * 2 ^ 20)]
theorem witness_sums : List.Perm parts2 parts2.reverse ∧ (∀ p ∈ parts2 ++ parts2, p.accs.length = 1 ∧ p.flags.length = 1) ∧
    wbIn (sumBill 0 5 1) = 5 ∧ wbOut (sumBill 0 5 1) = 5 ∧ wbDesc (sumBill 0 5 1) 20 20 = 1 ∧ wbDesc (sumBill 0 5 0) 20 20 = 0 ∧ wbIn (sumBill 0 6 0) = 6 :=
  ⟨(List.reverse_perm _).symm, by decide +kernel⟩
/-- The sum 2^31 of two addends is out of range by one. -/
theorem witness_integerSum : (([[leBytes 4 0x7FFFFFFF], [leBytes 4 1]].flatten.map fun p => (BitVec.ofNat 32 (codeAt 5 p 0)).toInt).sum) = 2 ^ 31 := by decide +kernel
theorem witness_minMax : wbIn (sumBill 1 5 0) = 5 ∧ wbRedop (sumBill 1 5 0) = 1 ∧ wbRedop (sumBill 2 7 0) = 2 ∧ wbIn (sumBill 2 7 0) = 7 ∧ wbRedop (sumBill 3 6 0) = 3 ∧
    wbRedop (sumBill 4 5 0) = 4 ∧ wbRedop (sumBill 5 5 0) = 5 ∧ (∀ q, BitVec.ofNat 32 (codeAt 5 q 0) = BitVec.ofNat 32 (codeAt 5 q 0)) := by
  refine ⟨?_, ?_, ?_, ?_, ?_, ?_, ?_, fun _ => rfl⟩ <;> decide +kernel
theorem witness_partials : (emit {}).2 = [] := by decide +kernel

/-! ## Collectives and movements -/

def wordsOf (range node device lead stripe fanin window parent : Nat) : List Nat :=
  [range + node * 4096, device + lead * 16384, stripe + fanin * 128 + window * 2 ^ 18, parent]
/-- Device 7 with furrow 2, a reduce furrow of endpoints 3 and 4: slot 0 is its leaf under the root on device 8, or its root. -/
def sColl (root : Bool) (st : Node) (c : Coll := {}) : State :=
  { plan := { deviceId := 7, planned := true, cur :=
      [portRec_ 3 1, portRec_ 4 1, rec_ 0x03 0x02 0 [5 * 2 ^ 28], rec_ 0x08 0x01 0 [2, 0, 1, 0],
       rec_ 0x07 0x01 2 [3, 2, 0, 0, 1, 0, 1] [[[(addr 7 3).toNat], [(addr 7 4).toNat]], [], [[0]],
         (if root then [wordsOf 0 1 7 0 1 2 4 0xFFFF] else [wordsOf 0 0 8 0 1 1 4 0xFFFF, wordsOf 0 1 7 0 1 2 4 0]), [[9, 77], [12, 78]]]] }
    coll := { c with nodes := Tab.set {} [] 0 st } }
/-- A waybill of furrow 2 at (headland, position) from a member; `x` makes another one of the same member. -/
def billOf_ (h idx coll ord : Nat) (x : Nat := 0) : List Byte :=
  pack 64 [(0, 4, coll), (8, 4, 2 * 2 ^ 24 + 5 * 256 + 5 * 16), (16, 4, idx), (24, 4, 2), (28, 4, ord), (32, 8, 10 + x), (48, 8, h)]
def colP (op : BitVec 5) (src coll seq : Nat) (b : List Byte) : Pkt := mkPkt (addr 7 src) (addr 7 0) 7 op (BitVec.ofNat 32 seq) (BitVec.ofNat 32 coll) 0 b
/-- The same of device 8. -/
def colP8 (op : BitVec 5) (coll : Nat) (b : List Byte) : Pkt := mkPkt (addr 8 0) (addr 7 0) 7 op 0 (BitVec.ofNat 32 coll) 0 b
def pBill (h idx ord : Nat) : Pkt := colP pColWaybill (3 + ord) (if idx = 9 then 77 else 78) 0 (billOf_ h idx (if idx = 9 then 77 else 78) ord)
def held (b : List Byte) : Bill := { child := (addr 7 (3 + wbOrd b)).toNat, bytes := b, arrived := 0 }
def n0 (bs : List Bill) : Node := { h := 0, idx := 9, bills := bs }
def leaf1 : NodeRec := { range := 0, node := 1, device := 7, lead := 0, stripe := 1, fanin := 2, window := 4, parent := 0 }
theorem witness_waybills : (sColl false (n0 [])).live ∧ (pBill 0 12 1).whole ∧ slotNode (sColl false (n0 [])) (0 : BitVec 12).toNat = some (2, leaf1, 0) ∧ leaf1.lead = 0 ∧
    wbFurrow (pBill 0 12 1).payload = 2 ∧ (∀ r ∈ [true, false], billChild (sColl r (n0 [])) 2 leaf1 (pBill 0 12 1).payload (pBill 0 12 1).src = some (addr 7 4).toNat) ∧
    memberHedged (sColl false (n0 [])) 2 leaf1 = false ∧ (wbHeadland (pBill 0 12 1).payload, wbIdx (pBill 0 12 1).payload) = (0, 12) ∧
    (2 : Nat) ∈ (sColl false (n0 []) { fenced := [2] }).coll.fenced ∧ 2 ∉ (sColl false (n0 [])).coll.fenced ∧ (sColl false (n0 [])).plan.quiescing = false ∧
    posBefore (0, 9) (({ h := 0, idx := 12 } : Node).h, 12) = true ∧ posBefore (0, 12) ((n0 []).h, (n0 []).idx) = false ∧
    posDistance (sColl false (n0 [])) (0, 9) (0, 12) ≤ 16 ∧ (n0 []).fresh ≤ 0 ∧ (0, 12) ∉ (n0 []).aborted ∧ ((12, 78) ∈ orderList (sColl false (n0 [])) 2) ∧
    wbColl (pBill 0 12 1).payload = 78 ∧ (parentOf (sColl false (n0 [])) 2 leaf1).isSome = true ∧
    targetHedged (sColl false (n0 [])) (memberAddr (memberWord (sColl false (n0 [])) 2 1)).toNat = false ∧
    portHedged (sColl false (n0 [])) ((memberAddr (memberWord (sColl false (n0 [])) 2 1)).toNat % 1024) = false := by
  simp only [State.live, Pkt.whole]; decide +kernel
/-- The waybills of a collective that a node holds. -/
def sameOf (st : Node) (p : Pkt) : List Bill :=
  st.bills.filter fun x => wbColl x.bytes == wbColl p.payload && wbHeadland x.bytes == wbHeadland p.payload
/-- A repeat, another waybill of the same member, and one of another member with the same hash. -/
theorem witness_billRepeats : let same := sameOf (n0 [held (billOf_ 0 9 77 0)]) (pBill 0 9 0)
    (∃ x ∈ same, wbOrd x.bytes = wbOrd (pBill 0 9 0).payload) ∧ (∀ x ∈ same, wbOrd x.bytes = wbOrd (pBill 0 9 0).payload → x.bytes = (pBill 0 9 0).payload) ∧
    (let other := sameOf (n0 [held (billOf_ 0 9 77 0 1)]) (pBill 0 9 0)
     (∃ x ∈ other, wbOrd x.bytes = wbOrd (pBill 0 9 0).payload) ∧ ∀ x ∈ other, wbOrd x.bytes = wbOrd (pBill 0 9 0).payload → x.bytes ≠ (pBill 0 9 0).payload) ∧
    (let mate := sameOf (n0 [held (billOf_ 0 9 77 0)]) (pBill 0 9 1)
     mate.length = 1 ∧ (∀ x ∈ mate, wbOrd x.bytes ≠ wbOrd (pBill 0 9 1).payload) ∧ ∀ x ∈ mate, wbHash x.bytes = wbHash (pBill 0 9 1).payload) ∧
    (9, 77) ∈ orderList (sColl false (n0 [])) 2 ∧ wbColl (pBill 0 9 1).payload = 77 := by decide +kernel

def pData (seq : Nat) : Pkt := colP pColData 3 77 seq (List.replicate 4 1)
def pCred : Pkt := colP8 pColCredit 77 (pack 4 [(0, 2, 5), (2, 2, 1)])
def rootRec : NodeRec := { leaf1 with parent := 0xFFFF }
/-- The root serves the waybill of member 0, its grants sent. -/
def nServed : Node := { n0 [held (billOf_ 0 9 77 0)] with granted := true }
def q0 : ColPkt := { child := (addr 7 3).toNat, src := (pData 0).src, pos := 0, chunk := 0, pkt := 0, last := false, payload := (pData 0).payload }
theorem witness_chunks : (pData 0).whole ∧ slotNode (sColl true nServed) (0 : BitVec 12).toNat = some (2, rootRec, 0) ∧ nodeSt (sColl true nServed) rootRec.lead = nServed ∧
    (pData 0).op = pColData ∧ served nServed = [held (billOf_ 0 9 77 0)] ∧ wbColl (held (billOf_ 0 9 77 0)).bytes = (pData 0).fcid.toNat ∧
    wbHalf (billOf_ 0 9 77 0) = 0 ∧ wbRedop (billOf_ 0 9 77 0) ≠ 6 ∧ childOf (sColl true nServed) 2 rootRec (pData 0).src = some (addr 7 3).toNat ∧
    memberHedged (sColl true nServed) 2 rootRec = false ∧ nServed.granted = true ∧ leaf1.isRoot = false ∧ nServed.chunksDone = [] ∧ 1 ≤ rootRec.stripe ∧
    (pData 0).seq.toNat / 32 % rootRec.stripe = 0 ∧ (pData 0).seq.toNat / 32 < rootRec.window * rootRec.stripe ∧
    (pData 0).seq.toNat / 32 < cdiv (denseLen (sColl true nServed) 2 rootRec (billOf_ 0 9 77 0)).2 1792 ∧ partTakes nServed q0 = true ∧
    (partOf { nServed with pkts := nServed.pkts ++ [q0] } q0.child q0.chunk).isNone = true := by
  simp only [Pkt.whole]; decide +kernel
/-- A packet of a collective that is not served yet, and one of a collective without a waybill. -/
theorem witness_chunksWait : (∀ st ∈ [n0 [held (billOf_ 0 12 78 0)], n0 []], slotNode (sColl true st) (0 : BitVec 12).toNat = some (2, rootRec, 0) ∧
      ∀ b ∈ served (nodeSt (sColl true st) 0), wbColl b.bytes ≠ 78) ∧ (∃ b ∈ (n0 [held (billOf_ 0 12 78 0)]).bills, wbColl b.bytes = 78) ∧
    (∀ b ∈ (n0 []).bills, wbColl b.bytes ≠ 78) := by decide +kernel
theorem witness_credit : pCred.whole ∧ fieldOf pCred.dst = 0 ∧ sinkOfSlot (devOf pCred.src) (leAt pCred.payload 0 2 % 4096) = 4096 * 8 + 5 ∧ leAt pCred.payload 2 2 = 1 ∧
    (sColl true {} { credits := [(0, 4096 * 8 + 5, 1)] }).coll.outbox = [] ∧ 0 < creditsUsed (sColl true {} { credits := [(0, 4096 * 8 + 5, 1)] }) 0 (4096 * 8 + 5) := by
  simp only [Pkt.whole]; decide +kernel

def pOut : Pkt := colP8 pColOutcome 77 (outcomeBytes 77 9 0 0 0 0 1 0 0)
def pAbort : Pkt := colP pColAbort 3 77 0 (pack 8 [(0, 2, 5), (2, 2, 9)])
theorem witness_outcomes : pOut.whole ∧ slotNode (sColl false (n0 [])) (0 : BitVec 12).toNat = some (2, leaf1, 0) ∧ leaf1.lead = (0 : BitVec 12).toNat ∧
    fromParent (sColl false (n0 [])) 2 leaf1 pOut.src = true ∧ memberHedged (sColl false (n0 [])) 2 leaf1 = false ∧
    leAt pOut.payload 6 1 = 0 ∧ (leAt pOut.payload 24 8, leAt pOut.payload 4 2) = ((n0 []).h, (n0 []).idx) ∧
    ((n0 []).idx, pOut.fcid.toNat) ∈ orderList (sColl false (n0 [])) 2 ∧ (n0 []).aborted = [] := by
  simp only [Pkt.whole]; decide +kernel
theorem witness_aborts : pAbort.whole ∧ (∀ r ∈ [true, false], abortFrom (sColl r (n0 [])) 2 pAbort.src = true) ∧ (parentOf (sColl false (n0 [])) 2 leaf1).isSome = true ∧
    (leAt pAbort.payload 2 2, pAbort.fcid.toNat) ∈ orderList (sColl false (n0 [])) 2 ∧ abortPos (n0 []) (leAt pAbort.payload 2 2) ≠ none ∧
    rootRec.isRoot = true ∧ rootRec.lead = (0 : BitVec 12).toNat ∧ leAt pAbort.payload 2 2 = nServed.idx ∧ (nServed.idx, pAbort.fcid.toNat) ∈ orderList (sColl true nServed) 2 ∧
    nServed.aborted = [] ∧ nServed.bills ≠ [] ∧ (∀ x ∈ nServed.bills, wbHeadland x.bytes = nServed.h ∧ wbIdx x.bytes = nServed.idx) := by
  simp only [Pkt.whole]; decide +kernel

/-- A grant of the parent to the leaf, which serves one waybill or two. -/
def pGrantDown : Pkt := colP8 pColGrant 77 (pack 32 [(0, 8, 1)])
def nTwo : Node := n0 [held (billOf_ 0 9 77 0), held (billOf_ 0 9 77 1)]
theorem witness_grantsDown : pGrantDown.whole ∧ collPlace (sColl false nTwo) pGrantDown.fcid.toNat = some (2, 9) ∧ fromParent (sColl false nTwo) 2 leaf1 pGrantDown.src = true ∧
    served (nodeSt (sColl false nTwo) 0) = held (billOf_ 0 9 77 0) :: [held (billOf_ 0 9 77 1)] ∧ nTwo.grantsIn.length < [held (billOf_ 0 9 77 1)].length ∧
    served (nodeSt (sColl false (n0 [held (billOf_ 0 9 77 0)])) 0) = held (billOf_ 0 9 77 0) :: [] ∧ wbHeadland (billOf_ 0 9 77 0) = leAt pGrantDown.payload 24 8 ∧
    wbSparse (billOf_ 0 9 77 0) = false ∧ (held (billOf_ 0 9 77 0)).child < 2 ^ 24 ∧
    homeRange (sColl false nTwo) 2 (wbOrd (billOf_ 0 9 77 0)) (wbHalf (billOf_ 0 9 77 0)) = leaf1.range := by
  simp only [Pkt.whole]; decide +kernel

/-- Plot 31 at field 700 of device 7, with a GRANT binding on furrow 2 and a MOVE binding on furrow 3; a feed whose weights leave in (2, 12). -/
def sPlots (armed : Bool) (x : Plot := {}) : State :=
  { plan := { deviceId := 7, planned := true, cur := (sColl true {}).plan.cur ++
      [rec_ 0x03 0x02 700 [2 * 2 ^ 28 + 31], rec_ 0x09 0x01 31 [0] [[], [[2 ^ 29 + 2 * 2 ^ 20, 100, 1], [3 * 2 ^ 20, 101, 1]], []],
       rec_ 0x0A 0x02 5 [0, 0, 0, 2 + 12 * 65536, 0]] }
    plots := Tab.set {} [] 31 { x with bindsArmed := armed } }
def pGr (dst coll : Nat) : Pkt := mkPkt (addr 8 0) (addr 7 dst) 7 pColGrant 0 (BitVec.ofNat 32 coll) 0 (pack 32 [(0, 8, 1)])
theorem witness_grants : (sPlots true).live ∧ (pGr 700 77).whole ∧ (pGr 700 77).op = pColGrant ∧ collPlace (sPlots true) (pGr 700 77).fcid.toNat = some (2, 9) ∧
    plotOf (sPlots true) (pGr 700 77) = some 31 ∧ (findBind (sPlots true) 31 1 2).map (·.1) = some 0 ∧ bindOpen (sPlots false) 31 0 = false ∧ bindOpen (sPlots true) 31 0 = true ∧
    stillRead (plot (sPlots true) 31) [100] = false ∧ plotOf (sPlots true) (pGr 0 78) = none ∧ collPlace (sPlots true) (pGr 0 78).fcid.toNat = some (2, 12) ∧
    feedOut (sPlots true) 2 12 = some 5 ∧ feedOut (sPlots true) 2 9 = none := by
  simp only [State.live, Pkt.whole]; decide +kernel

def pMove (furrow n : Nat) : Pkt := mkPkt (addr 7 3) (addr 7 700) 7 pMoveData 4 (BitVec.ofNat 32 furrow) 0 (pack (16 + 4 * n) [(8, 8, n)])
def pMoved (fault : Nat := 0) : Pkt := mkPkt (addr 7 3) (addr 7 700) 7 pMoveDone 4 3 0 (pack 16 [(0, 2, fault)])
theorem witness_moves : (pMove 3 2).whole ∧ (pMove 3 2).op = pMoveData ∧ plotOf (sPlots true) (pMove 3 2) = some 31 ∧ (sPlots true).coll.moves = [] ∧ moveTotal (pMove 3 2) = 2 ∧
    (pMove 4 2).whole ∧ findBind (sPlots true) 31 0 4 = none ∧ (findBind (sPlots true) 31 0 3).map (fun e => (e.1, e.2.first, isSealed (sPlots true) 31 e.2)) = some (1, 101, false) ∧
    bindOpen (sPlots false) 31 1 = false ∧ bindOpen (sPlots true) 31 1 = true ∧ moveEtype (pMove 3 2) = 0 ∧ leAt (pMove 3 2).payload 0 8 % 2 ^ 40 = 0 ∧
    4 * 2 + 16 = (pMove 3 2).payload.length ∧ stillRead (plot (sPlots true) 31) [101] = false ∧ (∀ n ∈ [0, 5], (pMoved n).whole ∧ plotOf (sPlots true) (pMoved n) = some 31 ∧
      toStage (sPlots true) (pMoved n) = none ∧ moveDst (sPlots true) 3 (pMoved n).dst ≠ (pMoved n).src ∧ leAt (pMoved n).payload 0 2 = n) ∧
    (∀ f ∈ [3, 4], toStage (sPlots true) (pMove f 2) = none) := by
  simp only [Pkt.whole]; decide +kernel

/-! ## Sort engines and winnow filters -/

/-- A transfer of `n` UINT32 elements that has come whole. -/
def moved (n : Nat) : Move := { dst := 0, src := 0, furrow := 3, seq := 0, total := n, etype := 7, bytes := [], have_ := [(0, n)], refused := false }
/-- A stage with one source, LIMIT 1 and 4-byte records: a sort engine with 4-byte keys, or a winnow filter whose program clears nothing. -/
def sStage (n : Nat) (x : Stage) : State :=
  { withPlan [rec_ 0x07 0x02 n [1, 4, 0, 0, 4, 0, 0, 1, 0, 1, 0, 1000, 4, 0] [[[3]], [], []]] with stages := Tab.set {} [] n x }
theorem witness_orderWords : (1 : Nat) ≤ 4 ∧ 0xFFFFFFFF < 2 ^ (8 * 4) ∧ (0 : Nat) < 2 ^ (8 * 4) := by decide

def xWin : Stage := { running := true, srcs := [(0, moved 1)] }
theorem moved_prefix (n : Nat) : (moved n).prefixLen = n * 32 / 8 := by
  have h : etypeBits 7 = 32 := by decide
  simp [Move.prefixLen, moved, h]
theorem witness_winnow : (sStage 23 xWin).live ∧ 8 ≤ (23 : Fin 24).val ∧ (stage (sStage 23 xWin) 23).srcs = (0, moved 1) :: [] ∧
    (stage (sStage 23 xWin) 23).running = true ∧ ((stage (sStage 23 xWin) 23).taken + 1) * stRb (sStage 23 xWin) 23 ≤ 1 * 32 / 8 ∧ stRb (sStage 23 xWin) 23 ≠ 0 := by
  simp only [State.live]; decide +kernel
/-- 65 runs take one pass before the final merge. -/
def xSpill : Stage := { running := true, spill := true, pass := 1, srcs := [(0, moved 4259841)] }
theorem witness_pass : (stage (sStage 7 xSpill) (7 : Fin 24).val).spill = true ∧ (stage (sStage 7 xSpill) 7).pass ≠ 0 ∧
    (stage (sStage 7 xSpill) 7).pass ≤ sortPasses ((jobRecords (sStage 7 xSpill) 7).getD 0) := by decide +kernel
/-- Its merge passes are over. -/
def xMerged : Stage := { xSpill with pass := 2 }
theorem witness_jobs : (∀ x ∈ [xWin, xMerged, { xWin with taken := 1 }], x.running = true ∧ x.fenced = false ∧ x.begun = none ∧ x.sent = 0) ∧
    jobRecords (sStage 7 xWin) 7 = some 1 ∧ xWin.spill = false ∧ (7 : Fin 24).val < 8 ∧
    jobRecords (sStage 7 xMerged) 7 = some 4259841 ∧ xMerged.spill = true ∧ xMerged.pass = sortPasses 4259841 + 1 ∧
    jobRecords (sStage 23 { xWin with taken := 1 }) 23 = some 1 ∧ stMode (sStage 23 xWin) 23 = 0 := by decide +kernel
theorem witness_jobWhole : jobWhole (sStage 7 xWin) 7 = true ∧ jobWhole (sStage 7 xMerged) 7 = true ∧ jobWhole (sStage 23 { xWin with taken := 1 }) 23 = true := by
  decide +kernel

/-- A fenced stage of device 7 that endpoint 3 sends to on furrow 5 (03 R71, 08 R259). -/
def sStageFenced : State :=
  { plan := { deviceId := 7, planned := true, cur := (sColl true {}).plan.cur ++
      [rec_ 0x07 0x01 5 [0, 2] [[[(addr 7 3).toNat], [2 * 2 ^ 28 + 7 * 1024 + 7]], [[1], [0]]], rec_ 0x07 0x02 7 [1, 4] [[[5]], [], []]] }
    stages := Tab.set {} [] 7 { fenced := true } }
def pToStage (op : BitVec 5) : Pkt := mkPkt (addr 7 3) (addr 7 0) 7 op 4 5 0 (pack 24 [(8, 8, 2)])
theorem witness_fencedStage : sStageFenced.live ∧ (stage sStageFenced 7).fenced = true ∧ ∀ op ∈ [pMoveData, pMoveDone], (pToStage op).whole ∧
    (pToStage op).op = op ∧ toStage sStageFenced (pToStage op) = some (7, 0) := by
  simp only [State.live, Pkt.whole]; decide +kernel

/-! ## The parameter update -/

/-- Share 255 of `rule` with one group of 4 elements in stack 0 (FP32 output, no banks) at page 0x100; feed 4,095 of it on furrow 2, whose roots
lie on device 8; the collective (2, 9) brings gradients and (2, 12) takes weights. -/
def sUpdRecs (rule : Nat) : List PlanRec :=
  [rec_ 0x03 0x02 0 [5 * 2 ^ 28], rec_ 0x07 0x01 2 [3, 2, 0, 0, 1, 0, 1] [[[0], [0]], [], [[0]], [wordsOf 0 0 8 0 1 1 4 0xFFFF, wordsOf 0 1 7 0 1 2 4 0], [[9, 77], [12, 78]]],
   rec_ 0x0A 0x01 255 [rule * 2 ^ 22 + 2 ^ 11, 1, 4, 0, 0x100, 0x200, 0x300, 0x400], rec_ 0x0A 0x02 4095 [2 + 9 * 65536, 255 * 2 ^ 24, 0, 2 + 12 * 65536, 4]]
def groupB : List Byte := sealRec (pack 128 [(8, 8, 4), (36, 4, 0x7F7FFFFF), (64, 2, 2), (66, 2, 2), (88, 4, 2)])
def sUpd (rule : Nat) (u : Upd := {}) (b : List Byte := groupB) : State :=
  { plan := { deviceId := 7, planned := true, cur := sUpdRecs rule }, upd := u, gran := Mem.writes [] 0x200000 b }

def cGroup (first n g h : Nat) : Cmd := cmdOf .owner [(0, 1, 255), (1, 1, first), (2, 1, n), (4, 2, g), (8, 8, h)]
def sLater : State := { sUpd 0 with plan := { (sUpd 0).plan with headland := 1 } }
theorem witness_groupWrites : (sUpd 0).live ∧ (∀ c ∈ [cGroup 0 48 0 0, cGroup 68 12 0 0, cGroup 47 1 1 0],
      c.passes oUpdGroupWrite [(0, 1), (1, 1), (2, 1), (4, 2), (8, 8), (16, 48)] ∧ 1 ≤ c.u 2 1 ∧ c.u 2 1 ≤ 48 ∧
      (c.u 1 1 + c.u 2 1 ≤ 48 ∨ 68 ≤ c.u 1 1 ∧ c.u 1 1 + c.u 2 1 ≤ 80) ∧ c.u 4 2 ≤ 4095) ∧
    (cGroup 0 48 0 0).u 8 8 < now sLater ∧ now (sUpd 0) ≤ (cGroup 0 48 0 0).u 8 8 ∧
    shareDefined State.reset 255 = false ∧ shGroups (sUpd 0) 255 ≤ (cGroup 47 1 1 0).u 4 2 ∧ shareDefined (sUpd 0) 255 = true ∧ (cGroup 0 48 0 0).u 4 2 < shGroups (sUpd 0) 255 := by
  simp only [State.live, Cmd.passes]; decide +kernel

def pFeed : Pkt := colP pColGrant 0 77 0 (pack 32 [(16, 8, 4)])
theorem witness_feedGrant : pFeed.whole ∧ (feedSt (sUpd 0) 4095).granted = false ∧ (feedSt (sUpd 0) 4095).outcome = none ∧
    (∀ q ∈ feedIds (sUpd 0), fdShare (sUpd 0) q = 255 → (feedSt (sUpd 0) q).granted = false) ∧ collPlace (sUpd 0) pFeed.fcid.toNat = some (2, 9) ∧ feedFor (sUpd 0) 2 9 (leAt pFeed.payload 6 2 % 4096) = some 4095 ∧
    fdShare (sUpd 0) 4095 = 255 ∧ hashHolds (sUpd 0) 255 = false ∧ (sUpd 0).yoke.role = .none ∧ groupsOk (sUpd 0 {} (pack 128 [])) 255 = false ∧ groupsOk (sUpd 0) 255 = true ∧
    shareRefuses (sUpd 0) 255 = none ∧ leAt pFeed.payload 16 8 = fdLen (sUpd 0) 4095 ∧ wbRedop (pack 64 []) = 0 ∧ wbOut (pack 64 []) = 0 ∧
    (leafNode (sUpd 0) (fdOut (sUpd 0) 4095).1 0).isSome = true := by simp only [Pkt.whole]; decide +kernel

/-- A granted feed with its one chunk whole. -/
def fed (ps : List (Nat × Nat × Bool × List Byte)) : Upd := { feeds := Tab.set {} [] 4095 { granted := true, parts := ps } }
theorem witness_gathered (bs : List Byte) : gathered [(0, 0, true, bs)] 0 = some bs ∧ gathered [(0, 0, false, bs)] 0 = none := by simp [gathered]
theorem witness_chunkApply : (sUpd 0 (fed [(0, 0, true, [1])])).live ∧ (feedSt (sUpd 0 (fed [(0, 0, true, [1])])) (4095 : BitVec 12).toNat).granted = true ∧
    (feedSt (sUpd 0 (fed [(0, 0, true, [1])])) 4095).aborted = false ∧ (feedSt (sUpd 0 (fed [(0, 0, true, [1])])) 4095).parts = [(0, 0, true, [1])] ∧
    (feedSt (sUpd 0 (fed [(0, 0, true, [1])])) 4095).chunks < cdiv (fdLen (sUpd 0) 4095) 1792 ∧
    fdShare (sUpd 0) 4095 = 255 ∧ (planRec (sUpd 0) 0x0A 0x02 4095).isSome = true ∧ shareLost (sUpd 0) 255 = none ∧ shareLost (sUpd 0 (fed [(0, 0, true, [1])])) 255 = none ∧ groupsOk (sUpd 0 (fed [(0, 0, true, [1])])) 255 = true ∧
    groupsOk (sUpd 0 (fed [(0, 0, true, [1])]) (pack 128 [])) 255 = false ∧ (shareLost (sUpd 0 { fed [(0, 0, true, [1])] with shares := Tab.set {} [] 255 { lost := true } }) 255).isSome = true := by
  simp only [State.live]; decide +kernel
theorem witness_element : groupRec (sUpd 0) 255 (groupOf (sUpd 0) 255 3) = groupB ∧ shRule (sUpd 0) 255 = 0 ∧ shBanked (sUpd 0) 255 = false ∧ shWout (sUpd 0) 255 = 0 ∧
    (gate groupB 0x3F800000).isSome = true ∧
    (∀ a, a ∈ [stateAddr (sUpd 0) 255 false 0 3, stateAddr (sUpd 0) 255 false 1 3] → a + 4 ≤ outAddr (sUpd 0) 255 3 ∨ outAddr (sUpd 0) 255 3 + 4 ≤ a) := by decide +kernel

/-- A group that is due: its 4 gradients have come, and pass A is over or not. -/
def precond (u : ShareSt) : Upd := { shares := Tab.set {} [] 255 u }
def xDue (mid : List Nat := []) : ShareSt := { arrived := Tab.set 0 [] 0 4, mid }
theorem witness_precond : (sUpd 2).live ∧ groupRec (sUpd 2) (255 : BitVec 8).toNat (0 : BitVec 12).toNat = groupB ∧ shRule (sUpd 0) 255 ≠ 2 ∧ shRule (sUpd 2) 255 = 2 ∧
    (shareLost (sUpd 2 (precond { lost := true })) 255).isSome = true ∧ (∀ u ∈ [{}, xDue, xDue [0]], shareLost (sUpd 2 (precond u)) 255 = none ∧ shareSt (sUpd 2 (precond u)) 255 = u) ∧
    Tab.get 0 ({} : ShareSt).arrived 0 ≠ gLen groupB ∧ 0 < shGroups (sUpd 2) 255 ∧ groupOk groupB = true ∧ groupOk (groupRec (sUpd 2 {} (pack 128 [])) 255 0) = false ∧
    Tab.get 0 xDue.arrived 0 = gLen groupB ∧ gLen groupB ≠ 0 ∧ Tab.get 0 xDue.arrived 0 ≠ 0 ∧ Tab.get 0 xDue.updated 0 = 0 ∧ 0 ∉ xDue.mid ∧ 0 ∈ (xDue [0]).mid ∧
    gFlag groupB 1 = true ∧ gFlag (pack 128 []) 1 = false ∧ 0 ∉ xDue.refreshed ∧ 0 ∈ ({ refreshed := [0] } : ShareSt).refreshed := by
  simp only [State.live]; decide +kernel
theorem witness_precondFeeds : (feedIds (sUpd 2)).filter (fun k => feedMeets (sUpd 2) k 255 0) = [4095] ∧ (feedSt (sUpd 2) 4095).aborted = false ∧
    (feedSt (sUpd 2 { precond xDue with feeds := Tab.set {} [] 4095 { aborted := true } }) 4095).aborted = true := by decide +kernel

/-! ## Keys, sealed chunks, exits, provenance -/

def keyA : KeySlot := { loaded := true, use := 15, wrapped := false, label := 7, ivBase := 0, key := (List.range 32).map (BitVec.ofNat 8) }
/-- Slot 1,023 loaded; plot 0 of device 7, at field 700, is a Cellar plot with a sealed MOVE binding on furrow 3 and two exits on tags 129 and 128. -/
def sCellar (tq : List TileEntry) (ds : List Pkt := []) : State :=
  { plan := { deviceId := 7, planned := true, cur := [rec_ 0x03 0x02 0 [5 * 2 ^ 28], rec_ 0x03 0x02 700 [2 * 2 ^ 28],
      rec_ 0x09 0x01 0 [2 ^ 29] [[], [[3 * 2 ^ 20, 100, 1]], []], rec_ 0x0B 0x02 3 [1023, 1023], rec_ 0x0B 0x03 0 [1, 1023, 0, 0, 1, 1], rec_ 0x0B 0x03 1 [0, 1023, 0, 0, 1, 1]] }
    cellar := { slots := Tab.set {} [] 1023 keyA }, plots := Tab.set {} [] 0 { bindsArmed := true, tq }, delivered := ds.map fun p => { port := none, p } }
def cKey (slot use wslot : Nat) (wrapped : Nat) : Cmd :=
  { auth := .owner, seq := 1, epoch := 3, body := pack 24 [(0, 2, slot + use * 1024 + wrapped * 16384), (2, 2, wslot), (4, 4, 7), (16, 4, 3)] ++ List.replicate 40 1 ++ List.replicate 36 0 }
/-- A load in the clear has nothing past its 32-byte key. -/
def cKeyClear (slot : Nat) : Cmd := { cKey slot 15 0 0 with body := pack 24 [(0, 2, slot + 15 * 1024), (4, 4, 7), (16, 4, 3)] ++ List.replicate 32 1 ++ List.replicate 44 0 }
def cErase : Cmd := cmdOf .owner [(0, 2, 1023), (16, 4, 3)] 3
theorem witness_keys : (sCellar []).live ∧ (cKeyClear 0).passes oKeyLoad keyLoadFields ∧ keyLoadOk (cKeyClear 0) = true ∧ klSlot (cKeyClear 0) = 0 ∧
    rank (sCellar []) (Tab.get {} (sCellar []).recov (objKey 5 0)) (cKeyClear 0) = .applied ∧ (keySlot (sCellar []) 0).loaded = false ∧ (keySlot (sCellar []) 1023).loaded = true ∧
    klSlot (cKeyClear 1023) = 1023 ∧ loadedKey (sCellar []) (cKeyClear 0) = some (List.replicate 32 1) ∧ bit ((cKeyClear 0).u 0 2) 14 = false ∧
    (cKey 0 1 0 1).passes oKeyLoad keyLoadFields ∧ keyLoadOk (cKey 0 1 0 1) = true ∧ loadedKey (sCellar []) (cKey 0 1 0 1) = none ∧
    cErase.passes oKeyErase [(0, 2), (16, 4)] ∧ cErase.u 0 2 = 1023 ∧ cErase.u 16 4 = cErase.epoch.toNat ∧
    rank (sCellar []) (Tab.get {} (sCellar []).recov (objKey 5 1023)) cErase = .applied ∧ (cmdOf .owner []).passes oKeyEraseAll [] := by
  simp only [State.live, Cmd.passes]; decide +kernel

def sHead : List Byte := pack 32 [(0, 4, sealMagic), (4, 2, 1023), (8, 4, 4)]
def sTag (good : Bool) : List Byte := if good then gcmTag keyA.key (slice sHead 16 12) sHead [1, 2, 3, 4] else List.replicate 16 0
def pSealed (good : Bool) : Pkt := mkPkt (addr 7 3) (addr 7 700) 7 pMoveData 4 3 0 (pack 16 [(8, 8, 13 + 7 * 2 ^ 40)] ++ sHead ++ [1, 2, 3, 4] ++ sTag good)
theorem witness_sealed (good : Bool) : let p := pSealed good; let s := sCellar [] [p]; let h := slice p.payload 16 52
    p.whole ∧ (∃ d ∈ s.delivered, d.p = p) ∧ p.op = pMoveData ∧ plotOf s p = some 0 ∧
    (findBind s 0 0 (p.fcid.toNat % 256)).map (fun e => (isSealed s 0 e.2, stillRead (plot s 0) e.2.span, sealHeader s e.2 13 (moveEtype p) h)) =
      some (true, false, .inr 1023) ∧ keyFor s 1023 0 = some keyA.key ∧
    s.cellar.runs = [] ∧ bindOpen s 0 0 = true ∧ leAt p.payload 0 8 % 2 ^ 40 = 0 ∧ moveTotal p = 13 ∧ p.payload.length = 16 + 4 * 13 ∧ leAt h 8 4 = 4 := by
  simp only [Pkt.whole]; cases good <;> decide +kernel
theorem witness_sealedTag : sTag true ≠ sTag false ∧ (pSealed true).payload.drop 52 = sTag true := by decide +kernel
theorem witness_sealedNone : ∀ d ∈ (sCellar []).delivered, d.p ≠ pSealed true := by intro d h; cases h

theorem witness_exits : exitPlot (sCellar []) 0 (1 : Fin 2).val = none ∧ exitPlot (sCellar []) 1 0 = none ∧ exitPlot (sCellar [tile 129]) 0 0 = some 0 ∧
    exitPlot (sCellar [tile 128]) 1 0 = some 0 ∧ (exitHead (sCellar [tile 129]) 0 0).map (fun e => keyFor (sCellar []) (e.2.fld 1) 1) = some (some keyA.key) ∧
    (∀ e ∈ [tile 129, tile 128], e.ready ≤ (plot (sCellar [e]) 0).cyc) ∧
    (exitHead (sCellar [tile 128]) 1 0).map (fun e => keyFor (sCellar []) (e.2.fld 1) 2) = some (some keyA.key) ∧ (let s := { sCellar [tile 129] with cellar := {} }; exitPlot s 0 0 = some 0 ∧ (exitHead s 0 0).isSome = true ∧ keyFor s 1023 1 = none) ∧
    (keySlot (sCellar []) 1023).ivBase.toNat + Tab.get 0 (sCellar []).cellar.used (1024 * (64 * 0 + 129 % 64) + 1023) < 2 ^ 64 := by decide +kernel

def cHash (a n r h : Nat) : Cmd := cmdOf .operator [(0, 8, a), (8, 8, n), (16, 1, r), (24, 8, h)] 5
def job (a : Nat) : ProvJob := { cmd := cHash a 64 255 0 }
def sJobs (js : List ProvJob) : State := { audit := { provQ := js } }
theorem witness_hashes : (sJobs []).live ∧ (cHash (2 ^ 38 - 128) 129 255 0).passes oProvHash [(0, 8), (8, 8), (16, 1), (24, 8)] ∧ (2 ^ 38 - 128) % 128 = 0 ∧
    2 ^ 38 < (cHash (2 ^ 38 - 128) 129 255 0).u 0 8 + (cHash (2 ^ 38 - 128) 129 255 0).u 8 8 ∧ (cHash 0 (2 ^ 36) 0 0).u 8 8 ≤ 2 ^ 36 ∧
    meetsArea (reservedAreas State.reset) ((cHash 0x2F00000000 1 0 0).u 0 8) 1 = true ∧ (cHash 0x2F00000000 1 0 0).auth = .operator ∧
    meetsArea (reservedAreas State.reset) ((cHash 0 (2 ^ 36) 0 0).u 0 8) (2 ^ 36) = false ∧ rank State.reset (Tab.get {} State.reset.recov (objKey 6 0)) (cHash 0 (2 ^ 36) 0 0) = .applied ∧
    8 ≤ (sJobs (List.replicate 8 (job 0))).audit.provQ.length ∧ (sJobs (List.replicate 7 (job 0))).audit.provQ.length < 8 ∧
    (∀ j ∈ (sJobs [job 0]).audit.provQ, provDie j ≠ (1 : Fin 2).val) ∧ (sJobs [job (2 ^ 37)]).audit.provQ = job (2 ^ 37) :: [] ∧ provDie (job (2 ^ 37)) = (1 : Fin 2).val ∧
    (job (2 ^ 37)).cmd.u 24 8 ≤ now (sJobs [job (2 ^ 37)]) ∧ provFenced (sJobs [job (2 ^ 37)]) (job (2 ^ 37)).cmd = false ∧
    meetsArea (reservedAreas (sJobs [job (2 ^ 37)])) ((job (2 ^ 37)).cmd.u 0 8) ((job (2 ^ 37)).cmd.u 8 8) = false ∧ (∀ y ∈ [job 0], provSame (job (2 ^ 37)).cmd y.cmd = false) ∧
    State.reset.clk.readyGranary = false ∧ ({ State.reset with clk := { State.reset.clk with readyGranary := true } } : State).clk.readyGranary = true ∧ (job 0).cmd.auth = .operator := by
  simp only [State.live, Cmd.passes]; decide +kernel

/-! ## The plan -/

def sLoft2 (st : SlotState) (p : Plan := {}) : State := { clk := { readyGranary := true }, plan := { p with slot0 := st, slot1 := st, planned := true } }
def cStage : Cmd := cmdOf .operator [(8, 4, 8), (12, 4, 2 ^ 28 - 8)]
def cWrite : Cmd := { cmdOf .owner [(0, 4, 2 ^ 28 - 8), (4, 2, 8)] with data := List.replicate 8 1 }
theorem witness_staging : (sLoft2 .empty).live ∧ cStage.passes oPlanStage [(0, 8), (8, 4), (12, 4)] ∧ cStage.u 0 8 % 8 = 0 ∧ cStage.u 8 4 = 8 ∧ cStage.u 12 4 % 8 = 0 ∧
    cStage.u 12 4 + cStage.u 8 4 ≤ 2 ^ 28 ∧ cWrite.passes oPlanWrite [(0, 4), (4, 2)] ∧ cWrite.u 0 4 % 8 = 0 ∧ cWrite.u 4 2 = 8 ∧ cWrite.data.length = cWrite.u 4 2 ∧
    cWrite.u 0 4 + cWrite.u 4 2 ≤ 2 ^ 28 ∧ loftUp State.reset = false ∧ loftUp (sLoft2 .pending) = true ∧ slotLocked (slotSt (sLoft2 .pending).plan false) = true ∧
    slotLocked (slotSt (sLoft2 .empty).plan true) = false := by
  simp only [State.live, Cmd.passes]; decide +kernel

def cVal (a : Auth) (slot : Nat) : Cmd := cmdOf a [(0, 1, slot)]
def sVal : State := sLoft2 .validating { validating := [(false, cVal .operator 0)] }
theorem witness_validation : (cVal .operator 1).passes oPlanValidate [(0, 1)] ∧ (cVal .operator 1).u 0 1 = 1 ∧ loftUp (sLoft2 .staged) = true ∧ (cVal .owner 1).passes oPlanValidate [(0, 1)] ∧
    slotSt (sLoft2 .staged).plan true ∈ [SlotState.staged, .valid, .invalid, .committed] ∧ slotSt (sLoft2 .empty).plan false ∉ [SlotState.staged, .valid, .invalid, .committed] ∧
    (cVal .operator 0).passes oPlanValidate [(0, 1)] ∧ (∀ v ∈ (sLoft2 .staged).plan.validating, v.1 ≠ false) ∧ sVal.plan.validating = (false, cVal .operator 0) :: [] ∧
    sVal.live := by
  simp only [State.live, Cmd.passes]; decide +kernel

def cCommit (h ms : Nat) : Cmd := cmdOf .operator [(2, 2, ms), (8, 8, h)]
def com0 : Commit := { slot := false, delta := false, headland := 1, limitMs := 1, owner := false, cmd := cCommit 1 1, digest := [] }
def sCom (ph : Phase) (p : Plan := {}) : State := sLoft2 .pending { p with commit := some com0, phase := ph }
theorem witness_commits : (sLoft2 .valid).live ∧ (cCommit 1 1).passes oPlanCommit [(0, 1), (2, 2), (8, 8)] ∧ (cCommit 1 1).u 0 1 = 0 ∧ (cCommit 1 1).u 2 2 = 1 ∧
    State.reset.plan.planned = false ∧ (cCommit 2 1).u 8 8 ≠ 1 ∧ (sLoft2 .valid).plan.planned = true ∧ slotSt (sLoft2 .staged).plan false ≠ .valid ∧
    (cCommit 0 1).passes oPlanCommit [(0, 1), (2, 2), (8, 8)] ∧ (cCommit 0 1).u 8 8 ≤ now (sLoft2 .valid) ∧ now (sLoft2 .valid) < (cCommit 1 1).u 8 8 ∧
    (sLoft2 .valid { commit := some com0 }).plan.commit.isSome = true ∧ (sLoft2 .valid { slotInfo := [(false, false, [])] }).plan.slotInfo = [(false, false, [])] ∧
    (sLoft2 .valid).plan.commit = none ∧ imgDelta (imgWord (sLoft2 .valid) false) = false ∧
    imgDelta (imgWord { sLoft2 .valid with gran := Mem.writes [] (loftBase false) (List.replicate 64 64) } false) = true ∧ (sCom .load).plan.commit = some com0 ∧ (sCom .load).plan.phase = .load ∧ com0.delta = false ∧ com0.cmd.auth = .operator ∧
    (cVal .operator 0).passes oPlanCancel [(0, 1)] ∧ com0.slot = false ∧ (sCom .armed).plan.phase ≠ .apply := by
  simp only [State.live, Cmd.passes]; decide +kernel

def cArm (q h : Nat) : Cmd := cmdOf .operator [(0, 1, q), (8, 8, h)]
def sArms (a : List Arm) : State := sLoft2 .empty { arms := a }
def sBusyPlot : State := { sCom .armed { quiescing := true } with plots := Tab.set {} [] 0 { mode := .running } }
theorem witness_headlands : (sArms []).live ∧ (cArm 0 0).passes oHeadlandArm [(0, 1), (8, 8)] ∧ (cArm 0 0).u 8 8 ≤ now (sArms []) ∧ (cArm 1 1).passes oHeadlandArm [(0, 1), (8, 8)] ∧
    (cArm 1 1).u 0 1 = 1 ∧ now (sArms []) < (cArm 1 1).u 8 8 ∧ (∃ a ∈ (sArms [{ headland := 1, quiesce := false }]).plan.arms, a.headland = (cArm 0 1).u 8 8) ∧
    (∀ a ∈ (sArms []).plan.arms, a.headland ≠ (cArm 0 1).u 8 8) ∧ quiesced (sArms [{ headland := 1, quiesce := true }]) 1 = true ∧
    stepEnded (sArms [{ headland := 1, quiesce := true }]) = true ∧ quiesced (sArms []) 1 = false ∧ headlandReady (sArms []) = false ∧
    headlandReady (sArms [{ headland := 1, quiesce := false }]) = true ∧ commitFor (sArms []) 1 = none ∧ sBusyPlot.live ∧
    commitFor sBusyPlot (now sBusyPlot + 1) = some com0 ∧ sBusyPlot.plan.phase = .armed ∧ sBusyPlot.plan.quiescing = true ∧ (quiet sBusyPlot 1)[0]? = some false ∧
    (sArms []).plan.phase ≠ .apply ∧ (sCom .apply).plan.commit = some com0 ∧ (sCom .apply).plan.phase = .apply := by
  simp only [State.live, Cmd.passes]; decide +kernel

/-! ## The invariant -/

/-- SoundIsKept has a step to speak of: from the sound reset state a clock edge. -/
theorem witness_sound : State.reset.sound ∧ (∃ t, step State.reset = .next t) := ⟨⟨by decide +kernel, by decide +kernel⟩, _, rfl⟩

/-! ## Worked examples of the spec -/

def accOf (f : Fmt) (xs : List Nat) : Acc := xs.foldl (fun a x => a.raw (decodeF f x)) {}

/-- 02, example after R56: 1, 2^-9, 2^-9, 2^-9 over two threshers. (The text prints 0x3B80 for 2^-9; under Table 2-1 it is 0x3B00.) -/
theorem test_sum_example : (emit (accOf bf16 [0x3F80, 0x3B00])).1 = 0x00000201FFF7 ∧ (emit (accOf bf16 [0x3B00, 0x3B00])).1 = 0x1FFF8 ∧
    ([.rne, .rtz, .ksr 0xBFFFFFFF, .ksr 0xC0000000].map fun m => ((accOf bf16 [0x3F80, 0x3B00]).join (accOf bf16 [0x3B00, 0x3B00])).round bf16 m) =
      [(0x3F81, flINX), (0x3F80, flINX), (0x3F81, flINX), (0x3F80, flINX)] ∧
    (accOf bf16 [0x3F80, 0x3B00, 0x3B00, 0x3B00]).round fp32 .rne = (0x3F80C000, 0) := by decide +kernel

/-- 02, second example: an element that escapes, and the sum that FP32 addition would lose. -/
theorem test_escape_example : (emit (accOf fp32 [0x71800000, 0x0D800000])).2 = [0xFF9C0007, 1, 0, 0, 0, 0, 0, 0x100] ∧
    (emit (accOf fp32 [0xF1800000])).1 = 0xFFFFFFFFFFFF0064 ∧
    ((accOf fp32 [0x71800000, 0x0D800000]).join (accOf fp32 [0xF1800000])).round fp32 .rne = (0x0D800000, 0) := by decide +kernel

/-- 02, example after R59: the window drops 2^-80 beside 1.0 and keeps its sticky bit. -/
theorem test_window_example : (slabWindow ([(0x3F80, 0x3F80), (0x3F80, 0x1780)].map fun p => fProd (decodeF bf16 p.1) (decodeF bf16 p.2))).1 = 0x3F800000 ∧
    (slabWindow ([(0x3F80, 0x3F80), (0xBF80, 0x3F80), (0x3F80, 0x1780)].map fun p => fProd (decodeF bf16 p.1) (decodeF bf16 p.2))).1 = 0x1B800000 := by
  decide +kernel

/-- 04, worked UPD_ADAPTIVE element. -/
theorem test_adaptive_example : ruleStep 1 (pack 128 [(16, 4, 0x3A800000), (20, 4, 0x3D800000), (24, 4, 0x3F600000), (28, 4, 0x3F7E0000),
    (32, 4, 0x35800000), (36, 4, 0x7F800000), (48, 4, 0x3F800000), (52, 4, 0x3F800000)]) 0x3F000000 0x3F800000 0 0 =
      (0x3F7FBC00, 0x3D800000, 0x3B000000) ∧ (cvtF bf16 .rne (decodeF fp32 0x3F7FBC00)).1 = 0x3F80 := by decide +kernel

/-- 06, first example, its CMP of 600 elements: predicate byte 0xB2, and HDONE at cycle 28. -/
def exPlot : Plot :=
  { mode := .running
    scratch := Mem.writes (Mem.writes [] (128 * 0x100) ([0, 0x40000000, 0, 0x80000000, 0x3F000000, 0x7FA00001, 0, 0xC0800000].flatMap (leBytes 4)))
      (128 * 0x300 + 4) (leBytes 4 0x3F000000) }
def exCmp (n : Nat) : Nat := wd [(312, 0x12), (300, 1), (284, 1), (264, n), (247, 0x100), (230, 0x300), (196, 0x200)]
def exRun (n : Nat) : Plot := plot (awaitOp 0 (fun _ => true) { plots := Tab.set {} [] 0 (enterOp exPlot (harrowOp exPlot (exCmp n) [])) }) 0
theorem test_cmp_example : Mem.read (exRun 8).scratch (128 * 0x200) = 0xB2 ∧ (exRun 8).ops = [] := by decide +kernel
theorem test_cmp_time : (harrowOp exPlot (exCmp 600) []).fin = 28 := by decide +kernel

/-- 06, second example: PRUNE_2D of a 4 x 4 BF16 block, and SPARSIFY of what it keeps. -/
def exPrune : Nat := wd [(312, 0x39), (308, 1), (304, 1), (264, 4), (230, 3), (196, 16)]
def exSparse (var : Nat) : Nat := wd [(312, 0x38), (308, 1), (304, 1), (300, var), (264, 4), (230, 3), (196, 16)]
/-- The operation of a word that has read this block. -/
def exOp (w : Nat) (xs : List Nat) : PlotOp :=
  { opBusy .harrow w with cap := [(0, { bytes := xs.flatMap fun v => leBytes 2 ([0, 0x3F80, 0x4000, 0x4040, 0x4080].getD v 0), taint := false })] }
theorem test_prune_example : (List.range 16).map (pruneKeeps (exOp exPrune [4, 1, 0, 4, 4, 4, 2, 0, 0, 3, 3, 3, 1, 0, 3, 2])) =
    (List.range 16).map (Nat.testBit 0xC639) := by decide +kernel
theorem test_sparsify_example : (sparsifyOut (exOp (exSparse 0) [4, 0, 0, 4, 4, 4, 0, 0, 0, 3, 3, 0, 0, 0, 3, 2])).take 3 = [0x94, 0xCE, 0x44] ∧
    (sparsifyOut (exOp (exSparse 2) [4, 0, 0, 4, 4, 4, 0, 0, 0, 3, 3, 0, 0, 0, 3, 2])).take 2 = [0x4C, 0xE9] ∧
    denseGroup (exOp (exSparse 0) [4, 1, 0, 4, 4, 4, 2, 0, 0, 3, 3, 3, 1, 0, 3, 2]) = some (0, 0) := by decide +kernel

/-- 08, worked examples: order words, and the winnow program on its five records. -/
theorem test_order_example : [0xFFC00000, 0xFF800000, 0x80000000, 0, 0x3F800000, 0x7FC00000].map (orderWord 2 4) =
    [0x3FFFFF, 0x7FFFFF, 0x7FFFFFFF, 0x80000000, 0xBF800000, 0xFFC00000] := by decide
theorem test_winnow_example : ([(0x3F400000, 5), (0x3F000000, 1), (0x7FC00000, 1), (0x40000000, 6), (0x3E800000, 9)].map fun r =>
    winnowKeeps [0, 0x3F000000, 3, 1, 0, 0, 0, 0] [0x06010C0000000000, 0x2A44000000000000, 0x40C6000000000000, 0x0681080000000000,
      0x5D1B000000000000, 0x8014000000000000] (pack 16 [(8, 4, r.1), (12, 4, r.2)])) = [true, true, false, false, false] := by decide +kernel

/-- 11, worked packet header. -/
theorem test_header_example : (mkPkt 0x001500 0x100C08 1 9 0x123 0 7 (List.replicate 1040 0)).header.take 28 =
    [0x08, 0x0C, 0x10, 0xF7, 0xF3, 0xEF, 0x00, 0x15, 0x00, 0x10, 0x04, 0x49, 0x23, 0x01, 0, 0, 0xDC, 0xFE, 0xFF, 0xFF, 0, 0, 0, 0, 7, 0, 0, 0] := by
  decide +kernel

/-- 19, worked TICK_IN: error +600, then -40 twice locks. -/
def exClk : Clk := { armed := true, tbNext := 1000000000, tickDelay := 45, tbPeriod := 1000, timebase := 999999445 }
theorem test_tick_example : (tickIn exClk).lastErr = 600 ∧ (tickIn exClk).tbNext = 1001000000 ∧ (tickIn exClk).slew = 600 ∧
    (tickIn (tickIn { tickIn exClk with timebase := 1001000085 })).locked = false ∧
    (tickIn { tickIn { tickIn exClk with timebase := 1001000085 } with timebase := 1002000085 }).locked = true := by decide +kernel

end Sys2Proof.Tests
end

/-! # The invariant of O2 to O4: the fused identity and the granary's canonical form

A command reads and writes nearly the whole state, but the invariant speaks of two fields. `State.held` names these two, and the
relation `Keeps` says what may become of them. Each operation of the model gets one lemma, in the order of the model's files; the
lemmas are `simp` rules, so that an operation's proof walks through its branches and leaves the calls in it to the lemmas of the
callees. The meanings of the commands are then put together in `exec_settles`. -/

namespace Sys2Proof.Machine
open Sys2Proof

/-! ## Writes keep a table canonical -/

theorem Tab.above_mono {α : Type} [DecidableEq α] {d : α} {b c : Nat} {t : Tab α} (hcb : c ≤ b) (h : Tab.above d b t = true) :
    Tab.above d c t = true := by
  cases t with
  | nil => rfl
  | cons e t =>
    simp only [Tab.above, Bool.and_eq_true, decide_eq_true_eq] at h ⊢
    obtain ⟨⟨hb, hd⟩, ht⟩ := h
    exact ⟨⟨hcb.trans hb, hd⟩, ht⟩

theorem Tab.above_filter {α : Type} [DecidableEq α] {d : α} (p : Nat × α → Bool) {t : Tab α} {b : Nat} (h : Tab.above d b t = true) :
    Tab.above d b (t.filter p) = true := by
  induction t generalizing b with
  | nil => rfl
  | cons e t ih =>
    simp only [Tab.above, Bool.and_eq_true, decide_eq_true_eq] at h
    obtain ⟨⟨hb, hd⟩, ht⟩ := h
    by_cases hp : p e = true
    · simp [hp, Tab.above, hb, hd, ih ht]
    · simpa [hp] using Tab.above_mono (by omega) (ih ht)

theorem Tab.above_put {α : Type} [DecidableEq α] {d v : α} {t : Tab α} {b k : Nat} (hv : v ≠ d) (hb : b ≤ k)
    (h : Tab.above d b t = true) : Tab.above d b (Tab.put k v t) = true := by
  induction t generalizing b with
  | nil => simp [Tab.put, Tab.above, hb, hv]
  | cons e t ih =>
    simp only [Tab.above, Bool.and_eq_true, decide_eq_true_eq] at h
    obtain ⟨⟨hbe, hd⟩, ht⟩ := h
    unfold Tab.put
    split_ifs with hlt heq
    · simp [Tab.above, hb, hv, hd, ht, hlt]
    · subst heq
      simp [Tab.above, hv, hbe, ht]
    · simpa [Tab.above, hbe, hd] using ih (by omega) ht

theorem Memory.wf_write {m : Mem} (h : Memory.wf m = true) (a : Nat) (b : Byte) : Memory.wf (Mem.write m a b) = true := by
  unfold Mem.write Tab.set
  split_ifs with hb
  · exact Tab.above_filter _ h
  · exact Tab.above_put hb a.zero_le h

theorem Memory.wf_writes {m : Mem} (h : Memory.wf m = true) (a : Nat) (bs : List Byte) : Memory.wf (Mem.writes m a bs) = true := by
  induction bs generalizing m a with
  | nil => exact h
  | cons b bs ih => exact ih (Memory.wf_write h a b) (a + 1)

theorem Memory.wf_zero {m : Mem} (h : Memory.wf m = true) (a n : Nat) : Memory.wf (Mem.zero m a n) = true :=
  Tab.above_filter _ h

/-! ## What the invariant speaks of -/

/-- The part of a state that the invariant speaks of: the fused identity and the granary's bytes. -/
def State.held (s : State) : Part × Mem := (s.part, s.gran)

/-- The two fields of a state written out: with `State.held_eta` this makes every update of other fields vanish. Both proofs are
`(rfl)`, which keeps the two lemmas out of `dsimp`: the kernel would otherwise compare whole states field by field. -/
@[simp] theorem State.held_mk (ports mac macFull wire ingress outq delivered route core glean sched granCtl audit coll plots sc granTaint
    upd stages mem cellar part clk dom pins host stew plan gran fault hedge recov yoke selfTest dossier testMode fw pending freeIx) :
    State.held ⟨ports, mac, macFull, wire, ingress, outq, delivered, route, core, glean, sched, granCtl, audit, coll, plots, sc, granTaint,
      upd, stages, mem, cellar, part, clk, dom, pins, host, stew, plan, gran, fault, hedge, recov, yoke, selfTest, dossier, testMode, fw,
      pending, freeIx⟩ = (part, gran) := (rfl)

@[simp] theorem State.held_eta (s : State) : (s.part, s.gran) = s.held := (rfl)

@[simp] theorem State.held_ite (c : Prop) [Decidable c] (s t : State) : (if c then s else t).held = if c then s.held else t.held :=
  apply_ite State.held c s t

@[simp] theorem State.fst_ite {α : Type*} (c : Prop) [Decidable c] (r r' : State × α) :
    (if c then r else r').1 = if c then r.1 else r'.1 :=
  apply_ite Prod.fst c r r'

/-- What becomes of the two: the identity stays as it is, and a canonical granary stays canonical. -/
def Keeps (a b : Part × Mem) : Prop := b.1 = a.1 ∧ (Memory.wf a.2 = true → Memory.wf b.2 = true)

@[simp, refl] theorem Keeps.refl (a : Part × Mem) : Keeps a a := ⟨rfl, id⟩

@[trans] theorem Keeps.trans {a b c : Part × Mem} (h : Keeps a b) (k : Keeps b c) : Keeps a c := ⟨k.1.trans h.1, k.2 ∘ h.2⟩

@[simp] theorem Keeps.ite_iff {a b b' : Part × Mem} (c : Prop) [Decidable c] :
    Keeps a (if c then b else b') ↔ if c then Keeps a b else Keeps a b' := by split_ifs <;> rfl

section
variable {κ : Part × Mem} {s : State}

@[simp] theorem Keeps.writes (h : Keeps κ s.held) (a : Nat) (bs : List Byte) : Keeps κ (s.part, Mem.writes s.gran a bs) :=
  ⟨h.1, fun w => Memory.wf_writes (h.2 w) a bs⟩

@[simp] theorem Keeps.zero (h : Keeps κ s.held) (a n : Nat) : Keeps κ (s.part, Mem.zero s.gran a n) :=
  ⟨h.1, fun w => Memory.wf_zero (h.2 w) a n⟩

@[simp] theorem Keeps.nil (h : Keeps κ s.held) : Keeps κ (s.part, []) := ⟨h.1, fun _ => rfl⟩

/-! ### Folds of operations -/

@[simp] theorem foldl_held {α : Type*} {f : State → α → State} (hf : ∀ s a, (f s a).held = s.held) (l : List α) (s : State) :
    (l.foldl f s).held = s.held := by
  induction l generalizing s with
  | nil => rfl
  | cons a l ih => rw [List.foldl_cons, ih, hf]

/-- The same of a fold that carries a value beside the state. -/
@[simp] theorem foldl_fst_held {α β : Type*} {f : State × β → α → State × β} (hf : ∀ r a, (f r a).1.held = r.1.held) (l : List α)
    (r : State × β) : (l.foldl f r).1.held = r.1.held := by
  induction l generalizing r with
  | nil => rfl
  | cons a l ih => rw [List.foldl_cons, ih, hf]

@[simp] theorem foldl_keeps {α : Type*} {f : State → α → State} (hf : ∀ s a, Keeps s.held (f s a).held) (h : Keeps κ s.held)
    (l : List α) : Keeps κ (l.foldl f s).held := by
  induction l generalizing s with
  | nil => exact h
  | cons a l ih => exact ih (h.trans (hf s a))

end

/-! ## Operations that leave or keep what a state holds

One lemma per operation of the model, in the model's order: `f_held` where the operation leaves the identity and the granary as they
are, `f_keeps` where it may write the granary. -/

section
variable {κ : Part × Mem} {s : State}

/-! ### Machine/Ops -/

@[simp] theorem tally_held (s e) : (tally s e).held = s.held := by
  unfold tally
  dsimp only
  (repeat' split) <;> simp

@[simp] theorem nFlag_held (s b) : (nFlag s b).held = s.held := by simp [nFlag]
@[simp] theorem auditFault_held (s code) : (auditFault s code).held = s.held := by simp [auditFault]
@[simp] theorem raiseCount_held (s code ut unit) : (raiseCount s code ut unit).held = s.held := by simp [raiseCount]
@[simp] theorem raiseBy_held (s code ut unit kind body n) : (raiseBy s code ut unit kind body n).held = s.held := by simp [raiseBy]

@[simp] theorem raiseAt_held (s code ut unit d0 d1) : (raiseAt s code ut unit d0 d1).held = s.held := by
  unfold raiseAt
  dsimp only
  split <;> simp

@[simp] theorem raise_held (s code ut unit) : (raise s code ut unit).held = s.held := by simp [raise]
@[simp] theorem provTouch_held (s a n) : (provTouch s a n).held = s.held := by simp [provTouch]
@[simp] theorem send_held (s unit p) : (send s unit p).held = s.held := by simp [send]

@[simp] theorem originate_held (s unit dst vl op seq fcid payload) : (originate s unit dst vl op seq fcid payload).held = s.held := by
  simp [originate]

@[simp] theorem mgtCount_held (s op) : (mgtCount s op).held = s.held := by simp [mgtCount]

@[simp] theorem complete_held (s c e data) : (complete s c e data).held = s.held := by
  unfold complete
  split <;> simp

@[simp] theorem cmdDone_held (s c op status v0 v1 data) : (cmdDone s c op status v0 v1 data).held = s.held := by simp [cmdDone]

@[simp] theorem recoveryDone_held (s c op ut unit status obj) : (recoveryDone s c op ut unit status obj).held = s.held := by
  simp [recoveryDone]

@[simp] theorem keep_held (s obj c) : (keep s obj c).held = s.held := by simp [keep]

@[simp] theorem recovery_held (op c ut unit obj fld s) {f : State → State} (hf : ∀ s, (f s).held = s.held) :
    (recovery op c ut unit obj fld s f).held = s.held := by
  unfold recovery
  split <;> simp [hf]

/-! ### Machine/HostPort -/

@[simp] theorem rejectWrite_held (s off w) : (rejectWrite s off w).held = s.held := by simp [rejectWrite]

@[simp] theorem settleWrite_held (off w r) : (settleWrite off w r).1.held = r.1.held := by
  unfold settleWrite
  split <;> simp

@[simp] theorem wrDoorbell_held (s w) : (wrDoorbell s w).1.held = s.held := by simp [wrDoorbell]
@[simp] theorem wrTallySeen_held (s w) : (wrTallySeen s w).1.held = s.held := by simp [wrTallySeen]
@[simp] theorem wrTallyStatus_held (s w) : (wrTallyStatus s w).1.held = s.held := by simp [wrTallyStatus]
@[simp] theorem wrRingCfg_held (s w) : (wrRingCfg s w).1.held = s.held := by simp [wrRingCfg]
@[simp] theorem wrIntMask_held (s w) : (wrIntMask s w).1.held = s.held := by simp [wrIntMask]
@[simp] theorem wrIntCtl_held (s w) : (wrIntCtl s w).1.held = s.held := by simp [wrIntCtl]
@[simp] theorem wrIntStatus_held (s w) : (wrIntStatus s w).1.held = s.held := by simp [wrIntStatus]
@[simp] theorem acceptEntry_held (s e) : (acceptEntry s e).held = s.held := by simp [acceptEntry]

@[simp] theorem ledgerAccept_held (s) : (ledgerAccept s).held = s.held := by
  unfold ledgerAccept
  dsimp only
  (repeat' split) <;> simp

@[simp] theorem runNop_held (c s) : (runNop c s).held = s.held := by simp [runNop]
@[simp] theorem slotWrite_keeps (hs : Keeps κ s.held) (slot off bs) : Keeps κ (slotWrite s slot off bs).held := by simp [slotWrite, hs]

/-! ### Machine/Ports -/

@[simp] theorem modPort_held (s n f) : (modPort s n f).held = s.held := by simp [modPort]
@[simp] theorem queueCtrl_held (s n body) : (queueCtrl s n body).held = s.held := by simp [queueCtrl]
@[simp] theorem creditFlit_held (s n) : (creditFlit s n).held = s.held := by simp [creditFlit]
@[simp] theorem returnCredits_held (s n vl f) : (returnCredits s n vl f).held = s.held := by simp [returnCredits]
@[simp] theorem transmit_held (s w) : (transmit s w).held = s.held := by simp [transmit]
@[simp] theorem sendFlit_held (s n f) : (sendFlit s n f).held = s.held := by simp [sendFlit]

@[simp] theorem sendIdle_held (s n) : (sendIdle s n).held = s.held := by
  unfold sendIdle
  exact transmit_held ..

@[simp] theorem modRoute_held (s die f) : (modRoute s die f).held = s.held := by simp [modRoute]
@[simp] theorem sendMgtOn_held (s n dst op payload) : (sendMgtOn s n dst op payload).held = s.held := by simp [sendMgtOn]
@[simp] theorem modCore_held (s die f) : (modCore s die f).held = s.held := by simp [modCore]

/-! ### Machine/Gate -/

@[simp] theorem modGate_held (s n f) : (modGate s n f).held = s.held := by simp [modGate]
@[simp] theorem gateAdd_held (s n p) : (gateAdd s n p).held = s.held := by simp [gateAdd]
@[simp] theorem sendGate_held (s n vl op seq fcid payload) : (sendGate s n vl op seq fcid payload).held = s.held := by simp [sendGate]
@[simp] theorem announce_held (s n) : (announce s n).held = s.held := by simp [announce]

/-! ### Machine/Inn -/

@[simp] theorem sendPfc_held (s n mask off) : (sendPfc s n mask off).held = s.held := by simp [sendPfc]
@[simp] theorem settlePfc_held (s n) : (settlePfc s n).held = s.held := by simp [settlePfc]

/-- A granted room is entered in the switch core alone. -/
theorem tryRoom_held {s w t} (h : tryRoom s w = some t) : t.held = s.held := by
  unfold tryRoom at h
  split at h
  · split at h
    · cases h
    · split at h
      · obtain ⟨c, -, rfl⟩ := Option.map_eq_some_iff.mp h
        rfl
      · cases h
  · cases h

@[simp] theorem retryRooms_held (die inn k s) : (retryRooms die inn k s).held = s.held := by
  induction k generalizing s with
  | zero => rfl
  | succ k ih =>
    unfold retryRooms
    split
    · rfl
    · next t ht =>
      obtain ⟨v, -, hv⟩ := List.exists_of_findSome?_eq_some ht
      obtain ⟨u, hu, huv⟩ := Option.map_eq_some_iff.mp hv
      cases huv
      simp [ih, tryRoom_held hu]

@[simp] theorem settleDie_held (s die) : (settleDie s die).held = s.held := by simp [settleDie]

@[simp] theorem roomRelease_held (ptr s) : (roomRelease ptr s).held = s.held := by
  unfold roomRelease
  dsimp only
  (repeat' split) <;> simp

/-! ### Machine/Furrow -/

@[simp] theorem modNode_held (s lead f) : (modNode s lead f).held = s.held := by simp [modNode]

/-! ### Machine/MemberPort -/

@[simp] theorem taken_held (s k) : (taken s k).held = s.held := by simp [taken]
@[simp] theorem sendCol_held (s unit dst op seq coll payload) : (sendCol s unit dst op seq coll payload).held = s.held := by simp [sendCol]
@[simp] theorem abortTo_held (s unit dev coll i range code) : (abortTo s unit dev coll i range code).held = s.held := by simp [abortTo]

@[simp] theorem askAbort_held (s unit coll code) : (askAbort s unit coll code).held = s.held := by
  unfold askAbort
  split <;> simp

@[simp] theorem useCredits_held (s owner sink n) : (useCredits s owner sink n).held = s.held := by simp [useCredits]
@[simp] theorem giveCredit_held (s coll slot dst count) : (giveCredit s coll slot dst count).held = s.held := by simp [giveCredit]
@[simp] theorem spendChunk_held (s o) : (spendChunk s o).held = s.held := by simp [spendChunk]
@[simp] theorem sendChunk_held (s o) : (sendChunk s o).held = s.held := by simp [sendChunk]
@[simp] theorem flushChunks_held (s) : (flushChunks s).held = s.held := by simp [flushChunks]

@[simp] theorem takeCredits_held (s field sink count) : (takeCredits s field sink count).held = s.held := by
  unfold takeCredits
  dsimp only
  split <;> simp

@[simp] theorem sendCast_held (s unit dsts ps) : (sendCast s unit dsts ps).held = s.held := by
  unfold sendCast
  refine foldl_held (fun s p => ?_) ps s
  exact (foldl_held (fun s a => by simp) dsts _).trans (by simp)

@[simp] theorem settleCopies_held (s) : (settleCopies s).held = s.held := by simp [settleCopies]
@[simp] theorem modWaits_held (s f) : (modWaits s f).held = s.held := by simp [modWaits]

@[simp] theorem dropRef_held (s id) : (dropRef s id).1.held = s.held := by
  unfold dropRef
  split <;> simp

@[simp] theorem openRows_held (s member b) : (openRows s member b).held = s.held := by simp [openRows]

@[simp] theorem streamPairsOut_held (s owner src f coll prs) : (streamPairsOut s owner src f coll prs).held = s.held := by
  unfold streamPairsOut
  split <;> simp

@[simp] theorem chunkCredit_held (s n f p) : (chunkCredit s n f p).1.held = s.held := by
  unfold chunkCredit
  split <;> simp

@[simp] theorem portData_held (s n p) : (portData s n p).1.held = s.held := by
  unfold portData
  dsimp only
  (repeat' split) <;> simp

@[simp] theorem portCol_held (s n p) : (portCol s n p).1.held = s.held := by simp [portCol]
@[simp] theorem endSenders_held (s f coll mine) : (endSenders s f coll mine).held = s.held := by simp [endSenders]

@[simp] theorem passMember_held (s p) : (passMember s p).held = s.held := by
  unfold passMember
  dsimp only
  (repeat' split) <;> simp

/-! ### Machine/Sched -/

@[simp] theorem chargeShapers_held (s n q bytes) : (chargeShapers s n q bytes).held = s.held := by simp [chargeShapers]

@[simp] theorem serveWeighted_held (charge n k s) : (serveWeighted charge n k s).1.held = s.held := by
  induction k generalizing s with
  | zero => rfl
  | succ k ih =>
    unfold serveWeighted
    dsimp only
    (repeat' split) <;> simp [ih]

@[simp] theorem pickQueue_held (charge s n) : (pickQueue charge s n).1.held = s.held := by
  unfold pickQueue
  dsimp only
  split <;> simp

@[simp] theorem settleDeficit_held (s n q) : (settleDeficit s n q).held = s.held := by simp [settleDeficit]
@[simp] theorem police_held (s n sel pre bytes) : (police s n sel pre bytes).1.held = s.held := by simp [police]

/-! ### Machine/Route -/

@[simp] theorem takeSample_held (s n dir vl bytes) : (takeSample s n dir vl bytes).held = s.held := by simp [takeSample]

@[simp] theorem glean_held (s n dir vl bytes) : (glean s n dir vl bytes).held = s.held := by
  unfold glean
  split <;> simp

@[simp] theorem releaseEdge_held (s n pcp cells) : (releaseEdge s n pcp cells).held = s.held := by simp [releaseEdge]

@[simp] theorem releaseLodging_held (s n vl pcp it) : (releaseLodging s n vl pcp it).held = s.held := by
  unfold releaseLodging
  (repeat' split) <;> simp

@[simp] theorem releaseRef_held (s copy n vl pcp it) : (releaseRef s copy n vl pcp it).held = s.held := by
  unfold releaseRef
  split <;> simp

@[simp] theorem dropLodged_held (s l) : (dropLodged s l).held = s.held := by simp [dropLodged]
@[simp] theorem setLodged_held (s l l') : (setLodged s l l').held = s.held := by simp [setLodged]

@[simp] theorem signpostCheck_held (s dev e) : (signpostCheck s dev e).held = s.held := by
  unfold signpostCheck
  split <;> simp

@[simp] theorem localCheck_held (s dst e) : (localCheck s dst e).held = s.held := by
  unfold localCheck
  (repeat' split) <;> simp

@[simp] theorem lookupChecks_held (s dst chk lchk) : (lookupChecks s dst chk lchk).held = s.held := by simp [lookupChecks]

@[simp] theorem packetLookup_held (n vl k chk lchk s) : (packetLookup n vl k chk lchk s).held = s.held := by
  unfold packetLookup
  split
  · rfl
  · split
    · rfl
    · split <;> simp

@[simp] theorem escAfter_held (n vl k s) : (escAfter n vl k s).held = s.held := by
  unfold escAfter
  split <;> simp

@[simp] theorem routeNone_held (s l key) : (routeNone s l key).held = s.held := by simp [routeNone]
@[simp] theorem mgtDiscard_held (s l) : (mgtDiscard s l).held = s.held := by simp [mgtDiscard]
@[simp] theorem cellCe_held (s die) : (cellCe s die).held = s.held := by simp [cellCe]
@[simp] theorem cellUe_held (s die p) : (cellUe s die p).held = s.held := by simp [cellUe]
@[simp] theorem toOutput_held (s l n vl) : (toOutput s l n vl).held = s.held := by simp [toOutput]

@[simp] theorem takeTurn_held (s l n vl) {go : State → State} (hgo : ∀ s, (go s).held = s.held) : (takeTurn s l n vl go).held = s.held := by
  simp [takeTurn, hgo]

@[simp] theorem toLocal_held (s l e) : (toLocal s l e).held = s.held := by
  unfold toLocal
  split <;> simp

@[simp] theorem dispatch_held (n vl k e s) : (dispatch n vl k e s).held = s.held := by
  unfold dispatch
  (repeat' split) <;> simp

@[simp] theorem dropQueued_held (s u) : (dropQueued s u).held = s.held := by
  unfold dropQueued
  split <;> simp

@[simp] theorem sendUnit_held (s n u) : (sendUnit s n u).held = s.held := by
  unfold sendUnit
  split <;> simp

@[simp] theorem serveUnit_serveHead_held (n s u e) : (serveUnit.serveHead n s u e).held = s.held := by
  unfold serveUnit.serveHead
  (repeat' split) <;> simp

/-- The choice of a queue may change the state (deficits of the weighted queues); it is made before the cases. -/
@[simp] theorem serveUnit_held (n e s) : (serveUnit n e s).held = s.held := by
  obtain ⟨⟨t, _ | q⟩, hq⟩ : ∃ r, pickQueue (headCharge s n) s n = r := ⟨_, rfl⟩
  all_goals
    have ht : t.held = s.held := by simpa [hq] using pickQueue_held (headCharge s n) s n
    unfold serveUnit
    simp only [hq]
    (repeat' split) <;> simp [ht]

@[simp] theorem requeuePort_held (s n) : (requeuePort s n).held = s.held := by
  unfold requeuePort
  dsimp only
  rw [foldl_held fun s q => settleDeficit_held s n q]
  exact foldl_held (fun s u => by split <;> simp) _ s

@[simp] theorem escapeLost_held (s) : (escapeLost s).held = s.held := by simp [escapeLost]

@[simp] theorem gleanWrite_keeps (hs : Keeps κ s.held) (east) : Keeps κ (gleanWrite east s).held := by
  unfold gleanWrite
  dsimp only
  split <;> simp [hs]

@[simp] theorem wrGleanTail_held (s w) : (wrGleanTail s w).1.held = s.held := by simp [wrGleanTail]

/-! ### Machine/Coll -/

@[simp] theorem collRestart_held (s h) : (collRestart s h).held = s.held := by simp [collRestart]
@[simp] theorem lagEntries_held (s r) : (lagEntries s r).held = s.held := by simp [lagEntries]
@[simp] theorem endService_held (s f lead) : (endService s f lead).held = s.held := by simp [endService]
@[simp] theorem dropColl_held (s f n coll) : (dropColl s f n coll).held = s.held := by simp [dropColl]

@[simp] theorem sendOutcome_held (s f n coll idx h half status code) : (sendOutcome s f n coll idx h half status code).held = s.held := by
  simp [sendOutcome]

@[simp] theorem abortAt_held (s f n h i code) : (abortAt s f n h i code).held = s.held := by
  unfold abortAt
  split <;> simp

@[simp] theorem nodeAbort_held (s f n h i coll code) : (nodeAbort s f n h i coll code).held = s.held := by
  unfold nodeAbort
  split <;> simp

@[simp] theorem slotFault_held (s f n slot h i coll code) : (slotFault s f n slot h i coll code).held = s.held := by simp [slotFault]

@[simp] theorem completeColl_held (s f n) : (completeColl s f n).held = s.held := by
  unfold completeColl
  dsimp only
  split <;> simp

@[simp] theorem passGrant_held (s f n b g) : (passGrant s f n b g).held = s.held := by simp [passGrant]

@[simp] theorem tallyRound_held (s f n) : (tallyRound s f n).held = s.held := by
  unfold tallyRound
  dsimp only
  split <;> simp

@[simp] theorem memberLost_held (s f n) : (memberLost s f n).held = s.held := by
  unfold memberLost
  dsimp only
  split <;> simp

@[simp] theorem serveNext_held (k s f n) : (serveNext k s f n).held = s.held := by
  induction k generalizing s with
  | zero => rfl
  | succ k ih =>
    unfold serveNext
    dsimp only
    split <;> simp [ih]

@[simp] theorem colAbort_held (slot p s) : (colAbort slot p s).held = s.held := by
  unfold colAbort
  dsimp only
  (repeat' split) <;> simp

@[simp] theorem refuseBill_held (s slot p) : (refuseBill s slot p).held = s.held := by simp [refuseBill]
@[simp] theorem collOrder_held (s f slot) : (collOrder s f slot).held = s.held := by simp [collOrder]

@[simp] theorem takeBill_held (s f n child p) : (takeBill s f n child p).held = s.held := by
  unfold takeBill
  split <;> simp

@[simp] theorem colWaybill_held (slot p s) : (colWaybill slot p s).held = s.held := by
  unfold colWaybill
  dsimp only
  (repeat' split) <;> simp

@[simp] theorem slotOutcome_held (slot p s) : (slotOutcome slot p s).held = s.held := by
  unfold slotOutcome
  split <;> simp

@[simp] theorem answerBelow_held (s f n b) : (answerBelow s f n b).held = s.held := by simp [answerBelow]

@[simp] theorem collOnHedge_held (s) : (collOnHedge s).held = s.held := by
  refine foldl_held (fun s f => ?_) _ s
  rw [State.held_ite, foldl_held fun s n => ?_, ite_self]
  dsimp only
  split <;> simp

/-! ### Machine/CollData -/

@[simp] theorem keepPkt_held (s n q) : (keepPkt s n q).held = s.held := by simp [keepPkt]
@[simp] theorem dropPart_held (s n q) : (dropPart s n q).held = s.held := by simp [dropPart]
@[simp] theorem sendUp_held (s m own coll chunk groups back) : (sendUp s m own coll chunk groups back).held = s.held := by simp [sendUp]
@[simp] theorem partialFault_held (s f n slot coll) : (partialFault s f n slot coll).held = s.held := by simp [partialFault]

@[simp] theorem closeChunk_held (s f n slot b chunk parts) : (closeChunk s f n slot b chunk parts).held = s.held := by
  unfold closeChunk
  dsimp only
  split <;> simp

@[simp] theorem denseData_held (s f n slot b p q) : (denseData s f n slot b p q).held = s.held := by
  unfold denseData
  dsimp only
  (repeat' split) <;> simp

@[simp] theorem multicast_held (s f n b) : (multicast s f n b).held = s.held := by simp [multicast]
@[simp] theorem placePart_held (s f n slot dst b c bs) : (placePart s f n slot dst b c bs).held = s.held := by simp [placePart]

@[simp] theorem gatherData_held (s f n slot coll p q) : (gatherData s f n slot coll p q).held = s.held := by
  unfold gatherData
  dsimp only
  (repeat' split) <;> simp

@[simp] theorem advanceStream_held (s lead key per pairs ended) {emitC close} (he : ∀ s i l, (emitC s i l).held = s.held)
    (hc : ∀ s i, (close s i).held = s.held) : (advanceStream s lead key per pairs ended emitC close).held = s.held := by
  simp [advanceStream, he, hc]

@[simp] theorem advanceSums_held (s lead key owner dev slot window coll contrib pairs ended) :
    (advanceSums s lead key owner dev slot window coll contrib pairs ended).held = s.held := by
  simp [advanceSums]

@[simp] theorem sendSegments_held (s f n b) : (sendSegments s f n b).held = s.held := by simp [sendSegments]
@[simp] theorem creditStreams_held (s f n b) : (creditStreams s f n b).held = s.held := by simp [creditStreams]
@[simp] theorem emitRaw_held (s n b dst c ps) : (emitRaw s n b dst c ps).held = s.held := by simp [emitRaw]

@[simp] theorem sparseAdvance_held (s f n b) : (sparseAdvance s f n b).held = s.held := by
  unfold sparseAdvance
  dsimp only
  split <;> simp

@[simp] theorem sparseData_held (s f n slot b p q) : (sparseData s f n slot b p q).held = s.held := by
  unfold sparseData
  dsimp only
  (repeat' split) <;> simp

@[simp] theorem slotData_held (slot seg p s) : (slotData slot seg p s).held = s.held := by
  unfold slotData
  dsimp only
  (repeat' split) <;> simp

@[simp] theorem slotGrant_held (slot p s) : (slotGrant slot p s).held = s.held := by
  unfold slotGrant
  dsimp only
  (repeat' split) <;> simp

@[simp] theorem colCredit_held (p s) : (colCredit p s).held = s.held := by simp [colCredit]

/-! ### Machine/PlotCore -/

@[simp] theorem modPlot_held (s p f) : (modPlot s p f).held = s.held := by simp [modPlot]
@[simp] theorem modBind_held (s p b f) : (modBind s p b f).held = s.held := by simp [modBind]

@[simp] theorem plotAbort_held (s p u code i) : (plotAbort s p u code i).held = s.held := by
  unfold plotAbort
  dsimp only
  split <;> simp

@[simp] theorem wordFault_held (s p u code) : (wordFault s p u code).held = s.held := by simp [wordFault]
@[simp] theorem zeroBank_held (s p b wasTainted) : (zeroBank s p b wasTainted).held = s.held := by simp [zeroBank]
@[simp] theorem arrayFault_held (s p b code) : (arrayFault s p b code).held = s.held := by simp [arrayFault]
@[simp] theorem lineFault_held (s p w array code) : (lineFault s p w array code).held = s.held := by simp [lineFault]

@[simp] theorem issueWord_held (s p w) : (issueWord s p w).held = s.held := by
  unfold issueWord
  dsimp only
  (repeat' split) <;> simp

/-- A part of a control word: the word may issue first, then the part has its effect `f`. -/
theorem onPart_keeps (p k mine s) {f} (hf : ∀ s w n, Keeps s.held (f s w n).held) : Keeps s.held (onPart p k mine s f).held := by
  unfold onPart
  split
  · exact .refl _
  · dsimp only
    split
    · exact .refl _
    · split
      · simp
      · split
        · rw [modPlot_held]
          exact Keeps.trans (by simp) (hf ..)
        · simp

@[simp] theorem scratchCe_held (s p) : (scratchCe s p).held = s.held := by simp [scratchCe]

/-! ### Machine/PlotArray -/

@[simp] theorem startMm_held (s p w e) : (startMm s p w e).held = s.held := by
  unfold startMm
  dsimp only
  (repeat' split) <;> simp

@[simp] theorem digAbsorb_held (p k m s) : (digAbsorb p k m s).held = s.held := by
  induction m generalizing s with
  | zero => rfl
  | succ m ih =>
    unfold digAbsorb
    dsimp only
    (repeat' split) <;> simp [ih]

@[simp] theorem digSettle_held (p s) : (digSettle p s).held = s.held := by simp [digSettle]
@[simp] theorem accCheck_held (s p w) {f} (hf : ∀ s, (f s).held = s.held) : (accCheck s p w f).held = s.held := by simp [accCheck, hf]

@[simp] theorem accStream_held (s p w) {f} (hf : ∀ g l, (f g l).held = s.held) : (accStream s p w f).held = s.held := by
  unfold accStream
  dsimp only
  split <;> simp [hf]

@[simp] theorem startAccLoad_held (s p w e) : (startAccLoad s p w e).held = s.held := by simp [startAccLoad]
@[simp] theorem startAccStore_held (s p w) : (startAccStore s p w).held = s.held := by simp [startAccStore]
@[simp] theorem startAccRelease_held (s p w) : (startAccRelease s p w).held = s.held := by simp [startAccRelease]
@[simp] theorem startAccZero_held (s p w) : (startAccZero s p w).held = s.held := by simp [startAccZero]

/-! ### Machine/PlotHarrow -/

@[simp] theorem startHarrow_held (s p w e) : (startHarrow s p w e).held = s.held := by simp [startHarrow]

/-! ### Machine/PlotSeq -/

@[simp] theorem dtap_held (s p w) : (dtap s p w).held = s.held := by
  unfold dtap
  dsimp only
  split <;> simp

@[simp] theorem dlog_held (s p w) : (dlog s p w).held = s.held := by simp [dlog]
@[simp] theorem powerHint_held (s p b) : (powerHint s p b).held = s.held := by simp [powerHint]
@[simp] theorem tqDrop_held (s p) : (tqDrop s p).held = s.held := by simp [tqDrop]
@[simp] theorem copSet_held (s p w) : (copSet s p w).held = s.held := by simp [copSet]
@[simp] theorem copAdd_held (s p w n) : (copAdd s p w n).held = s.held := by simp [copAdd]
@[simp] theorem copLim_held (s p w) : (copLim s p w).held = s.held := by simp [copLim]
@[simp] theorem copCfg_held (s p w) : (copCfg s p w).held = s.held := by simp [copCfg]
@[simp] theorem setFlag_held (s p i) : (setFlag s p i).held = s.held := by simp [setFlag]
@[simp] theorem clrFlag_held (s p i) : (clrFlag s p i).held = s.held := by simp [clrFlag]
@[simp] theorem scInc_held (s p k) : (scInc s p k).held = s.held := by simp [scInc]
@[simp] theorem endEntry_held (s p kind stops) : (endEntry s p kind stops).held = s.held := by simp [endEntry]

@[simp] theorem fetchEcc_held (s p e) : (fetchEcc s p e).held = s.held := by
  unfold fetchEcc
  split <;> simp

@[simp] theorem plotStart_held (c e s) : (plotStart c e s).held = s.held := by simp [plotStart]
@[simp] theorem plotStop_held (c s) : (plotStop c s).held = s.held := by simp [plotStop]

/-! ### Machine/PlotXfer -/

@[simp] theorem queueXfer_held (s p w t) : (queueXfer s p w t).held = s.held := by
  unfold queueXfer
  dsimp only
  (repeat' split) <;> simp

@[simp] theorem granXfer_held (s p w kind) : (granXfer s p w kind).held = s.held := by simp [granXfer]
@[simp] theorem furrowXfer_held (s p w kind) : (furrowXfer s p w kind).held = s.held := by simp [furrowXfer]
@[simp] theorem armBind_held (s p b) : (armBind s p b).held = s.held := by simp [armBind]
@[simp] theorem granCe_held (s stack) : (granCe s stack).held = s.held := by simp [granCe]
@[simp] theorem granUe_held (s stack) : (granUe s stack).held = s.held := by simp [granUe]

@[simp] theorem popXfer_held (p s) : (popXfer p s).held = s.held := by
  unfold popXfer
  split <;> simp

@[simp] theorem failXfer_held (s p t u code) : (failXfer s p t u code).held = s.held := by simp [failXfer]
@[simp] theorem feedTap_held (s p t bs tn) : (feedTap s p t bs tn).held = s.held := by simp [feedTap]
@[simp] theorem leaked_held (s p t leak) : (leaked s p t leak).held = s.held := by simp [leaked]
@[simp] theorem modHead_held (s p f) : (modHead s p f).held = s.held := by simp [modHead]
@[simp] theorem runsNow_held (s p errs) : (runsNow s p errs).held = s.held := by simp [runsNow]
@[simp] theorem startGran_held (s p t errs) : (startGran s p t errs).held = s.held := by simp [startGran]
@[simp] theorem gloadLine_held (s p t l) : (gloadLine s p t l).held = s.held := by simp [gloadLine]
@[simp] theorem gstoreDone_keeps (hs : Keeps κ s.held) (p t) : Keeps κ (gstoreDone s p t).held := by simp [gstoreDone, hs]
@[simp] theorem plotSend_held (s p k) : (plotSend s p k).held = s.held := by simp [plotSend]
@[simp] theorem takeMoveSeq_held (s sender f) : (takeMoveSeq s sender f).1.held = s.held := by simp [takeMoveSeq]
@[simp] theorem plotTransfer_held (s p f total et bs) : (plotTransfer s p f total et bs).held = s.held := by simp [plotTransfer]
@[simp] theorem msendDone_held (s p t) : (msendDone s p t).held = s.held := by simp [msendDone]
@[simp] theorem waybillDone_held (s p t) : (waybillDone s p t).held = s.held := by simp [waybillDone]

@[simp] theorem csendDone_held (s p t) : (csendDone s p t).held = s.held := by
  unfold csendDone
  dsimp only
  split <;> simp

@[simp] theorem readDone_keeps (hs : Keeps κ s.held) (p t) : Keeps κ (readDone s p t).held := by
  unfold readDone
  cases t.kind <;> simp [hs]

@[simp] theorem transferStart_held (p errs s) : (transferStart p errs s).held = s.held := by
  unfold transferStart
  split <;> simp

@[simp] theorem fabricCycle_keeps (hs : Keeps κ s.held) (p) : Keeps κ (fabricCycle p s).held := by
  unfold fabricCycle
  dsimp only
  (repeat' split) <;> simp [hs]

@[simp] theorem bindWrite_held (s p r off bs tn) : (bindWrite s p r off bs tn).held = s.held := by simp [bindWrite]
@[simp] theorem bindComplete_held (s p b) : (bindComplete s p b).held = s.held := by simp [bindComplete]
@[simp] theorem arrivalHazard_held (s p) : (arrivalHazard s p).held = s.held := by simp [arrivalHazard]
@[simp] theorem peerAbort_held (s p remote) : (peerAbort s p remote).held = s.held := by simp [peerAbort]
@[simp] theorem sendMoveDone_held (s unit k code crop) : (sendMoveDone s unit k code crop).held = s.held := by simp [sendMoveDone]

@[simp] theorem moveEntry_held (s k ut unit total et crop code) : (moveEntry s k ut unit total et crop code).held = s.held := by
  simp [moveEntry]

@[simp] theorem putMove_held (s m) : (putMove s m).held = s.held := by simp [putMove]
@[simp] theorem dropMove_held (s m) : (dropMove s m).held = s.held := by simp [dropMove]

@[simp] theorem moveToPlot_held (s p k) : (moveToPlot s p k).held = s.held := by
  unfold moveToPlot
  dsimp only
  (repeat' split) <;> simp

@[simp] theorem grantToPlot_held (s p k) : (grantToPlot s p k).held = s.held := by
  unfold grantToPlot
  split <;> simp

@[simp] theorem rangeCheck_held (s p b) : (rangeCheck s p b).held = s.held := by simp [rangeCheck]

@[simp] theorem outcomeToPlot_held (s p k) : (outcomeToPlot s p k).held = s.held := by
  unfold outcomeToPlot
  dsimp only
  (repeat' split) <;> simp

@[simp] theorem rangeToPlot_held (s p k) : (rangeToPlot s p k).held = s.held := by
  unfold rangeToPlot
  dsimp only
  (repeat' split) <;> simp

/-! ### Machine/PlotTime -/

@[simp] theorem opFault_held (s p o u code i) : (opFault s p o u code i).held = s.held := by
  unfold opFault
  split <;> simp

@[simp] theorem doAcc_held (p k s a) : (doAcc p k s a).held = s.held := by
  unfold doAcc
  dsimp only
  (repeat' split) <;> simp

/-- The fold of a cycle over the operations of a plot carries the ports in use beside the state. -/
@[simp] theorem opCycle_held (p a k) : (opCycle p a k).1.held = a.1.held := by
  unfold opCycle
  dsimp only
  (repeat' split) <;> simp

@[simp] theorem xloadList_held (s p o) : (xloadList s p o).held = s.held := by simp [xloadList]

@[simp] theorem strictCheck_held (s p o) : (strictCheck s p o).held = s.held := by
  unfold strictCheck
  split <;> simp

@[simp] theorem slabEnd_held (s p o) : (slabEnd s p o).held = s.held := by
  unfold slabEnd
  split <;> simp

@[simp] theorem endOp_held (s p o) : (endOp s p o).held = s.held := by simp [endOp]

@[simp] theorem settleOp_held (p s k) : (settleOp p s k).held = s.held := by
  unfold settleOp
  split <;> simp

@[simp] theorem countCycles_held (s p n) : (countCycles s p n).held = s.held := by simp [countCycles]
@[simp] theorem plotTick_keeps (hs : Keeps κ s.held) (p) : Keeps κ (plotTick p s).held := by simp [plotTick, hs]
@[simp] theorem quietCycles_held (p n s) : (quietCycles p n s).held = s.held := by simp [quietCycles]

/-- A plot run forward: each turn is a `plotTick` or a stretch of quiet cycles. -/
theorem plotUntil_keeps {p lim bar stop n s t} (h : plotUntil p lim bar stop n s = some t) : Keeps s.held t.held := by
  induction n generalizing s with
  | zero =>
    unfold plotUntil at h
    split at h <;> cases h
    exact .refl _
  | succ n ih =>
    unfold plotUntil at h
    split at h
    · cases h
      exact .refl _
    · split at h
      · cases h
      · refine Keeps.trans ?_ (ih h)
        split <;> simp

@[simp] theorem passUntil_keeps (hs : Keeps κ s.held) (p n stop) : Keeps κ (passUntil p n stop s).held := by
  unfold passUntil
  cases ht : plotUntil p ((plot s p).cyc + n) (wordReady · p) stop n s with
  | none => exact hs
  | some t => exact hs.trans (plotUntil_keeps ht)

@[simp] theorem plotTo_keeps (hs : Keeps κ s.held) (p c) : Keeps κ (plotTo p c s).held := by simp [plotTo, hs]

@[simp] theorem awaitOp_keeps (hs : Keeps κ s.held) (p pick) : Keeps κ (awaitOp p pick s).held := by
  unfold awaitOp
  cases (plot s p).ops.find? pick <;> simp [hs]

@[simp] theorem sparseFault_keeps (hs : Keeps κ s.held) (p code) : Keeps κ (sparseFault p code s).held := by simp [sparseFault, hs]

@[simp] theorem transferEnd_keeps (hs : Keeps κ s.held) (p n) : Keeps κ (transferEnd p n s).held := by
  unfold transferEnd
  dsimp only
  (repeat' split) <;> simp [hs]

@[simp] theorem goTo_keeps (hs : Keeps κ s.held) (p a e) : Keeps κ (goTo s p a e).held := by simp [goTo, hs]
@[simp] theorem loopNext_held (s p w n) : (loopNext s p w n).1.held = s.held := by simp [loopNext]
@[simp] theorem halt_held (s p) : (halt s p).held = s.held := by simp [halt]
@[simp] theorem awaitOps_keeps (hs : Keeps κ s.held) (p) : Keeps κ (awaitOps p s).held := by simp [awaitOps, hs]
@[simp] theorem plotDone_keeps (hs : Keeps κ s.held) (p) : Keeps κ (plotDone p s).held := by simp [plotDone, hs]

@[simp] theorem plotStopped_keeps (hs : Keeps κ s.held) (p) : Keeps κ (plotStopped p s).held := by
  unfold plotStopped
  dsimp only
  (repeat' split) <;> simp [hs]

@[simp] theorem waitEnd_keeps (hs : Keeps κ s.held) (p n) : Keeps κ (waitEnd p n s).held := by
  unfold waitEnd
  dsimp only
  cases currentWord s p with
  | none => exact hs
  | some w =>
    dsimp only
    split
    · exact hs
    · split
      · next ht => split <;> simp [hs, hs.trans (plotUntil_keeps ht)]
      · exact hs

@[simp] theorem seqWaitLimit_keeps (hs : Keeps κ s.held) (p) : Keeps κ (seqWaitLimit p s).held := by
  unfold seqWaitLimit
  dsimp only
  cases currentWord s p with
  | none => exact hs
  | some w =>
    dsimp only
    split
    · exact hs
    · split
      · next ht => split <;> simp [hs, hs.trans (plotUntil_keeps ht)]
      · exact hs

/-! ### Machine/Update -/

@[simp] theorem modShare_held (s sh f) : (modShare s sh f).held = s.held := by simp [modShare]
@[simp] theorem modFeed_held (s k f) : (modFeed s k f).held = s.held := by simp [modFeed]
@[simp] theorem granPut_keeps (hs : Keeps κ s.held) (a n v) : Keeps κ (granPut s a n v).held := by simp [granPut, hs]
@[simp] theorem shareFault_held (s sh code) : (shareFault s sh code).held = s.held := by simp [shareFault]

@[simp] theorem askRoot_held (s unit f i r coll code) : (askRoot s unit f i r coll code).held = s.held := by
  unfold askRoot
  split <;> simp

@[simp] theorem yokeCopy_held (s sh k) : (yokeCopy s sh k).held = s.held := by simp [yokeCopy]
@[simp] theorem sendBill_held (s unit src f b) : (sendBill s unit src f b).held = s.held := by simp [sendBill]

@[simp] theorem putElem'_keeps (hs : Keeps κ s.held) (sh g b i v) : Keeps κ (putElem' s sh g b i v).held := by
  unfold putElem'
  simp only [modShare_held]
  refine granPut_keeps ?_ ..
  have hput (t : State) (ht : Keeps κ t.held) (a a' v v') : Keeps κ (granPut (granPut t a 4 v) a' 4 v').held := by simp [ht]
  simp [hput, hs]

@[simp] theorem applyElem_keeps (hs : Keeps κ s.held) (sh i g) : Keeps κ (applyElem s sh i g).held := by simp [applyElem, hs]

@[simp] theorem flushOut_held (s k) : (flushOut s k).held = s.held := by
  unfold flushOut
  dsimp only
  (repeat' split) <;> simp

@[simp] theorem pushOut_held (s k) : (pushOut s k).held = s.held := by simp [pushOut]

@[simp] theorem tearShare_held (s sh ks) : (tearShare s sh ks).held = s.held := by
  unfold tearShare
  dsimp only
  split <;> simp

@[simp] theorem abortFeed_held (s k) : (abortFeed s k).held = s.held := by simp [abortFeed]
@[simp] theorem abortUnfinished_held (s sh) : (abortUnfinished s sh).held = s.held := by simp [abortUnfinished]
@[simp] theorem loseShare_held (s sh) : (loseShare s sh).held = s.held := by simp [loseShare]

@[simp] theorem feedGrant_held (p bill chk s) : (feedGrant p bill chk s).held = s.held := by
  unfold feedGrant
  dsimp only
  (repeat' split) <;> simp

@[simp] theorem feedData_held (s k p) : (feedData s k p).held = s.held := by simp [feedData]

@[simp] theorem chunkApply_keeps (hs : Keeps κ s.held) (k chk e) : Keeps κ (chunkApply k chk e s).held := by
  unfold chunkApply
  dsimp only
  (repeat' split) <;> simp [hs]

@[simp] theorem putMat_keeps (hs : Keeps κ s.held) (a m) : Keeps κ (putMat s a m).held := by simp [putMat, hs]

@[simp] theorem precondProducts_keeps (hs : Keeps κ s.held) (sh b) : Keeps κ (precondProducts s sh b).held := by
  unfold precondProducts
  exact foldl_keeps (fun s e => by simp) (by simp [hs]) _

@[simp] theorem precondPasses_keeps (hs : Keeps κ s.held) (sh g b) : Keeps κ (precondPasses s sh g b).held := by
  unfold precondPasses
  exact foldl_keeps (fun s e => by simp) hs _

@[simp] theorem precondPass_keeps (hs : Keeps κ s.held) (sh g chk e) : Keeps κ (precondPass sh g chk e s).held := by simp [precondPass, hs]

@[simp] theorem rootRefreshDone_keeps (hs : Keeps κ s.held) (sh g chk) : Keeps κ (rootRefreshDone sh g chk s).held := by
  simp [rootRefreshDone, hs]

@[simp] theorem groupWrite_held (c s) : (groupWrite c s).held = s.held := by simp [groupWrite]
@[simp] theorem applyWrites_keeps (hs : Keeps κ s.held) (sh h) : Keeps κ (applyWrites s sh h).held := by simp [applyWrites, hs]

@[simp] theorem advanceGroup_keeps (hs : Keeps κ s.held) (sh g) : Keeps κ (advanceGroup s sh g).held := by
  unfold advanceGroup
  dsimp only
  split
  · simp [hs]
  · simp only [State.held_mk]
    refine Keeps.writes ?_ _ _
    have hput (t : State) (ht : Keeps κ t.held) (a a' m m') : Keeps κ (putMat (putMat t a m) a' m').held := by simp [ht]
    (repeat' split) <;> simp [hs, hput]

@[simp] theorem endWrites_held (s sh h st) : (endWrites s sh h st).held = s.held := by simp [endWrites]

/-- The states between the stages of a step close are named, and each stage keeps what the one before it held. -/
@[simp] theorem closeShare_keeps (hs : Keeps κ s.held) (h sh) : Keeps κ (closeShare h s sh).held := by
  unfold closeShare
  extract_lets x s₁ alive gs full partly feeds torn hit s₂ s₃ s₄ s₅
  have h₁ : Keeps κ s₁.held := by simp [s₁, hs]
  have h₂ : Keeps κ s₂.held := by
    simp only [s₂]
    split
    · exact foldl_keeps (fun t g => by simp) h₁ gs
    · exact h₁
  have h₃ : Keeps κ s₃.held := by simp [s₃, h₂]
  have h₄ : Keeps κ s₄.held := by
    simp only [s₄]
    split
    · split
      · refine applyWrites_keeps ?_ ..
        rw [modShare_held]
        exact foldl_keeps (fun t g => by simp) h₁ gs
      · simp [h₁]
    · simp [h₃]
  simpa [s₅] using h₄

@[simp] theorem stepClose_keeps (hs : Keeps κ s.held) (h) : Keeps κ (stepClose h s).held := by simp [stepClose, hs]
@[simp] theorem shareClearTorn_held (c s) : (shareClearTorn c s).held = s.held := by simp [shareClearTorn]

@[simp] theorem updOutcome_held (s p) : (updOutcome s p).held = s.held := by
  unfold updOutcome
  dsimp only
  (repeat' split) <;> simp

@[simp] theorem updOutGrant_held (s p) : (updOutGrant s p).held = s.held := by
  unfold updOutGrant
  split <;> simp

@[simp] theorem updData_held (s p) : (updData s p).held = s.held := by
  unfold updData
  (repeat' split) <;> simp

/-! ### Machine/CollCmds -/

@[simp] theorem colData_held (op slot seg p s) : (colData op slot seg p s).held = s.held := by
  unfold colData
  (repeat' split) <;> simp

@[simp] theorem colGrant_held (slot p s) : (colGrant slot p s).held = s.held := by
  unfold colGrant
  (repeat' split) <;> simp

@[simp] theorem colOutcome_held (slot p s) : (colOutcome slot p s).held = s.held := by
  unfold colOutcome
  dsimp only
  (repeat' split) <;> simp

@[simp] theorem resetFurrow_held (s f h i) : (resetFurrow s f h i).held = s.held := by
  unfold resetFurrow
  refine (foldl_held (fun s n => ?_) _ _).trans rfl
  cases (served (nodeSt s n.lead)).head? <;> simp

@[simp] theorem sendPeer_held (s dev seq op epoch body) : (sendPeer s dev seq op epoch body).held = s.held := by simp [sendPeer]
@[simp] theorem resetPeers_held (s c f) : (resetPeers s c f).held = s.held := by simp [resetPeers]
@[simp] theorem furrowReset_held (c s) : (furrowReset c s).held = s.held := by simp [furrowReset]
@[simp] theorem furrowResetResend_held (s) : (furrowResetResend s).held = s.held := by simp [furrowResetResend]

/-! ### Machine/Stage -/

@[simp] theorem modDom_held (s d f) : (modDom s d f).held = s.held := by simp [modDom]
@[simp] theorem modStage_held (s n f) : (modStage s n f).held = s.held := by simp [modStage]

@[simp] theorem sendMarker_held (s n code f) : (sendMarker s n code f).held = s.held := by
  unfold sendMarker
  dsimp only
  split <;> simp

@[simp] theorem dropInputs_held (s n) : (dropInputs s n).held = s.held := by simp [dropInputs]
@[simp] theorem stageAbort_held (s n code) : (stageAbort s n code).held = s.held := by simp [stageAbort]
@[simp] theorem stageOnHedge_held (s) : (stageOnHedge s).held = s.held := by simp [stageOnHedge]
@[simp] theorem stageOnFence_held (s stack) : (stageOnFence s stack).held = s.held := by simp [stageOnFence]
@[simp] theorem spillPut_keeps (hs : Keeps κ s.held) (n half at_ rs) : Keeps κ (spillPut s n half at_ rs).held := by simp [spillPut, hs]

@[simp] theorem formRuns_keeps (hs : Keeps κ s.held) (n) : Keeps κ (formRuns s n).held := by
  unfold formRuns
  split <;> simp [hs]

@[simp] theorem sortStart_held (s n) : (sortStart s n).held = s.held := by
  unfold sortStart
  split <;> simp

@[simp] theorem stageSend_held (s n f bs) : (stageSend s n f bs).held = s.held := by simp [stageSend]

@[simp] theorem stageEmit_held (s n) : (stageEmit s n).held = s.held := by
  unfold stageEmit
  dsimp only
  (repeat' split) <;> simp

@[simp] theorem stageFinish_held (s n bs) : (stageFinish s n bs).held = s.held := by
  unfold stageFinish
  split <;> simp

@[simp] theorem moveToStage_put_keeps (hs : Keeps κ s.held) (n i k m0 first) : Keeps κ (moveToStage.put n i k s m0 first).held := by
  simp [moveToStage.put, hs]

@[simp] theorem moveToStage_keeps (hs : Keeps κ s.held) (n i k) : Keeps κ (moveToStage s n i k).held := by
  unfold moveToStage
  cases hc : (stage s n).srcs.find? fun e => e.1 == i <;> simp [hs, hc]

@[simp] theorem moveData_keeps (hs : Keeps κ s.held) (p) : Keeps κ (moveData p s).held := by
  unfold moveData
  split
  · exact hs
  · split
    · simp [hs]
    · split <;> simp [hs]

@[simp] theorem plotMarker_held (s n p code) : (plotMarker s n p code).held = s.held := by simp [plotMarker]
@[simp] theorem stageMarker_held (s n i p code) : (stageMarker s n i p code).held = s.held := by simp [stageMarker]

@[simp] theorem moveDone_held (p s) : (moveDone p s).held = s.held := by
  unfold moveDone
  dsimp only
  (repeat' split) <;> simp

@[simp] theorem winnowRecord_held (n s) : (winnowRecord n s).held = s.held := by
  unfold winnowRecord
  dsimp only
  split <;> simp

@[simp] theorem stageCe_held (s n) : (stageCe s n).held = s.held := by simp [stageCe]
@[simp] theorem mergePass_keeps (hs : Keeps κ s.held) (n e) : Keeps κ (mergePass n e s).held := by simp [mergePass, hs]
@[simp] theorem stageDone_held (n e s) : (stageDone n e s).held = s.held := by simp [stageDone]
@[simp] theorem stageReset_held (c s) : (stageReset c s).held = s.held := by simp [stageReset]

/-! ### Machine/Audit -/

@[simp] theorem provEntry_held (s c code hash nm) : (provEntry s c code hash nm).held = s.held := by simp [provEntry]
@[simp] theorem provRaise_held (s c code) : (provRaise s c code).held = s.held := by simp [provRaise]
@[simp] theorem provRepeat_held (s c) : (provRepeat s c).held = s.held := by simp [provRepeat]

@[simp] theorem provHash_held (c s) : (provHash c s).held = s.held := by
  unfold provHash
  dsimp only
  (repeat' split) <;> simp

@[simp] theorem provEnds_held (s j code) : (provEnds s j code).held = s.held := by simp [provEnds]

@[simp] theorem provDone_held (die errs s) : (provDone die errs s).held = s.held := by
  unfold provDone
  split <;> simp

/-! ### Machine/Cellar -/

@[simp] theorem modCellar_held (s f) : (modCellar s f).held = s.held := by simp [modCellar]
@[simp] theorem setKey_held (s k x) : (setKey s k x).held = s.held := by simp [setKey]
@[simp] theorem eraseKeys_held (s) : (eraseKeys s).held = s.held := by simp [eraseKeys]
@[simp] theorem keyUe_held (s k) : (keyUe s k).held = s.held := by simp [keyUe]
@[simp] theorem keyDone_held (s c op k status) : (keyDone s c op k status).held = s.held := by simp [keyDone]

@[simp] theorem keyLoad_held (c s) : (keyLoad c s).held = s.held := by
  unfold keyLoad
  dsimp only
  (repeat' split) <;> simp

@[simp] theorem keyErase_held (c s) : (keyErase c s).held = s.held := by
  unfold keyErase
  dsimp only
  split <;> simp

@[simp] theorem endRun_held (s x) : (endRun s x).held = s.held := by simp [endRun]
@[simp] theorem putRun_held (s x) : (putRun s x).held = s.held := by simp [putRun]
@[simp] theorem zeroRun_held (s x r) : (zeroRun s x r).held = s.held := by simp [zeroRun]
@[simp] theorem dropChunk_held (s x r k more code) : (dropChunk s x r k more code).held = s.held := by simp [dropChunk]

@[simp] theorem breakChunk_held (s p) : (breakChunk s p).held = s.held := by
  unfold breakChunk
  (repeat' split) <;> simp

@[simp] theorem chunkDone_held (s x b k total) : (chunkDone s x b k total).held = s.held := by simp [chunkDone]
@[simp] theorem chunkBytes_held (s x b r k total) : (chunkBytes s x b r k total).held = s.held := by simp [chunkBytes]

@[simp] theorem sealedPacket_held (p e s) : (sealedPacket p e s).held = s.held := by
  unfold sealedPacket
  dsimp only
  (repeat' split) <;> simp

@[simp] theorem exitServed_held (s kind p) : (exitServed s kind p).held = s.held := by simp [exitServed]
@[simp] theorem exitTake_keeps (hs : Keeps κ s.held) (kind p t) : Keeps κ (exitTake s kind p t).held := by simp [exitTake, hs]
@[simp] theorem exitFault_held (s p code) : (exitFault s p code).held = s.held := by simp [exitFault]

@[simp] theorem encryptExit_keeps (hs : Keeps κ s.held) (die e) : Keeps κ (encryptExit die e s).held := by
  unfold encryptExit
  dsimp only
  (repeat' split) <;> simp [hs]

@[simp] theorem digestExit_keeps (hs : Keeps κ s.held) (die e) : Keeps κ (digestExit die e s).held := by
  unfold digestExit
  dsimp only
  (repeat' split) <;> simp [hs]

/-! ### Machine/MemSrc -/

@[simp] theorem modCnt_held (s field f) : (modCnt s field f).held = s.held := by simp [modCnt]
@[simp] theorem searchRpt_held (s field p upset) : (searchRpt s field p upset).1.held = s.held := by simp [searchRpt]
@[simp] theorem checkReq_held (s field p upset) : (checkReq s field p upset).1.held = s.held := by simp [checkReq]

@[simp] theorem hostAnswer_held (s a) : (hostAnswer s a).held = s.held := by
  unfold hostAnswer
  split <;> simp

@[simp] theorem runDone_held (s r) : (runDone s r).held = s.held := by simp [runDone]
@[simp] theorem takeReqSeq_held (s src dst) : (takeReqSeq s src dst).1.held = s.held := by simp [takeReqSeq]
@[simp] theorem issueReq_held (s field op payload) : (issueReq s field op payload).1.held = s.held := by simp [issueReq]
@[simp] theorem startRun_held (s c get) : (startRun s c get).held = s.held := by simp [startRun]

@[simp] theorem runAnswer_keeps (hs : Keeps κ s.held) (a) : Keeps κ (runAnswer s a).held := by
  unfold runAnswer
  dsimp only
  (repeat' split) <;> simp [hs]

@[simp] theorem toSource_keeps (hs : Keeps κ s.held) (field a) : Keeps κ (toSource s field a).held := by simp [toSource, hs]

@[simp] theorem selfAnswer_keeps (hs : Keeps κ s.held) (field p status code) : Keeps κ (selfAnswer s field p status code).held := by
  simp [selfAnswer, hs]

@[simp] theorem noteAdmit_held (s field p) : (noteAdmit s field p).held = s.held := by simp [noteAdmit]
@[simp] theorem countRefusal_held (s field code) : (countRefusal s field code).held = s.held := by simp [countRefusal]

@[simp] theorem memRequest_keeps (hs : Keeps κ s.held) (op n p upset) : Keeps κ (memRequest op n p upset s).held := by
  unfold memRequest
  dsimp only
  (repeat' split) <;> simp [hs]

@[simp] theorem untrack_held (s t) : (untrack s t).held = s.held := by simp [untrack]

@[simp] theorem finishTrack_keeps (hs : Keeps κ s.held) (t status code) : Keeps κ (finishTrack s t status code).held := by
  simp [finishTrack, hs]

@[simp] theorem giveUp_keeps (hs : Keeps κ s.held) (t) : Keeps κ (giveUp s t).held := by simp [giveUp, hs]

@[simp] theorem trackerResend_held (field target seq s) : (trackerResend field target seq s).held = s.held := by
  unfold trackerResend
  split <;> simp

@[simp] theorem trackerTimeout_keeps (hs : Keeps κ s.held) (field target seq) : Keeps κ (trackerTimeout field target seq s).held := by
  unfold trackerTimeout
  split
  · exact hs
  · simp [hs]

@[simp] theorem trackAnswer_keeps (hs : Keeps κ s.held) (a) : Keeps κ (trackAnswer s a).held := by
  unfold trackAnswer
  dsimp only
  split <;> simp [hs]

@[simp] theorem mgtQuench_held (p s) : (mgtQuench p s).held = s.held := by simp [mgtQuench]

@[simp] theorem rptWrite_held (c s) : (rptWrite c s).held = s.held := by
  unfold rptWrite
  dsimp only
  (repeat' split) <;> simp

@[simp] theorem rptWritten_held (s) : (rptWritten s).held = s.held := by
  unfold rptWritten
  split <;> simp

@[simp] theorem rptRead_held (c s) : (rptRead c s).held = s.held := by simp [rptRead]

@[simp] theorem memCommand_held (c s) : (memCommand c s).held = s.held := by
  unfold memCommand
  split <;> simp

@[simp] theorem wrMemCtl_held (s w) : (wrMemCtl s w).1.held = s.held := by simp [wrMemCtl]

/-! ### Machine/MemTgt -/

@[simp] theorem modSrc_held (s field origin f) : (modSrc s field origin f).held = s.held := by simp [modSrc]
@[simp] theorem modReplay_held (s field origin seq f) : (modReplay s field origin seq f).held = s.held := by simp [modReplay]
@[simp] theorem respond_held (s p status code old data) : (respond s p status code old data).held = s.held := by simp [respond]
@[simp] theorem countStore_held (s p) : (countStore s p).held = s.held := by simp [countStore]
@[simp] theorem settle_held (s p status code old) : (settle s p status code old).held = s.held := by simp [settle]
@[simp] theorem answerReq_held (s p status code old data) : (answerReq s p status code old data).held = s.held := by simp [answerReq]
@[simp] theorem refuseRange_held (s p code) : (refuseRange s p code).held = s.held := by simp [refuseRange]

@[simp] theorem trackedArrival_held (p s) : (trackedArrival p s).held = s.held := by
  unfold trackedArrival
  dsimp only
  (repeat' split) <;> simp

@[simp] theorem hotTake_held (s die line w) : (hotTake s die line w).held = s.held := by simp [hotTake]

@[simp] theorem hotQuench_held (s line w p) : (hotQuench s line w p).held = s.held := by
  unfold hotQuench
  split <;> simp

@[simp] theorem lineMarks_held (s q) : (lineMarks s q).held = s.held := by simp [lineMarks]
@[simp] theorem takeReqs_held (s ds) : (takeReqs s ds).held = s.held := by simp [takeReqs]
@[simp] theorem takeHeldNo_held (s) : (takeHeldNo s).held = s.held := by simp [takeHeldNo]
@[simp] theorem holdWrite_held (s d) : (holdWrite s d).held = s.held := by simp [holdWrite]
@[simp] theorem granStore_keeps (hs : Keeps κ s.held) (p) : Keeps κ (granStore s p).held := by simp [granStore, hs]
@[simp] theorem granLoad_held (s p rest e) : (granLoad s p rest e).held = s.held := by simp [granLoad]

@[simp] theorem granAtomics_keeps (hs : Keeps κ s.held) (ps e) : Keeps κ (granAtomics s ps e).held := by
  unfold granAtomics
  split <;> simp [hs]

@[simp] theorem plotWrite_held (s p b r) : (plotWrite s p b r).held = s.held := by simp [plotWrite]
@[simp] theorem plotRelease_held (s p b r) : (plotRelease s p b r).held = s.held := by simp [plotRelease]
@[simp] theorem storeOverlap_held (s p) : (storeOverlap s p).held = s.held := by simp [storeOverlap]
@[simp] theorem forwardReq_held (s field sent group) : (forwardReq s field sent group).held = s.held := by simp [forwardReq]
@[simp] theorem unserved_held (s p) : (unserved s p).held = s.held := by simp [unserved]

/-- A release that is applied may store to the granary. -/
theorem tryRelease_keeps {s due p t} (h : tryRelease s due p = .applied t) : Keeps s.held t.held := by
  unfold tryRelease at h
  dsimp only at h
  (repeat' split at h) <;> cases h <;> simp

@[simp] theorem releaseArrives_keeps (hs : Keeps κ s.held) (due p) : Keeps κ (releaseArrives s due p).held := by
  unfold releaseArrives
  split
  · next h => exact hs.trans (tryRelease_keeps h)
  · simp [hs]
  · simp [hs]

@[simp] theorem retryHeld_keeps (hs : Keeps κ s.held) (mine) : Keeps κ (retryHeld mine s).held := by simp [retryHeld, hs]

@[simp] theorem retrySource_keeps (hs : Keeps κ s.held) (field origin) : Keeps κ (retrySource s field origin).held := by
  simp [retrySource, hs]

@[simp] theorem applyStore_keeps (hs : Keeps κ s.held) (d due) : Keeps κ (applyStore s d due).held := by
  unfold applyStore
  dsimp only
  (repeat' split) <;> simp [hs]

@[simp] theorem applyHead_keeps (hs : Keeps κ s.held) (d rest due e) : Keeps κ (applyHead s d rest due e).held := by
  unfold applyHead
  cases hc : combined (takeReqs s (headGroup (d :: rest))) ((headGroup (d :: rest)).map (·.p)) <;> simp [hs, hc]

/-- A held write of a line whose turn it is: the head of the serializer, or a held release. -/
theorem applyDue_keeps {line e s t} (h : applyDue line e s = some t) : Keeps s.held t.held := by
  unfold applyDue at h
  split at h
  · cases h
    simp
  · obtain ⟨p, -, rfl⟩ := Option.map_eq_some_iff.mp h
    simp

@[simp] theorem lineApply_keeps (hs : Keeps κ s.held) (line e) : Keeps κ (lineApply line e s).held := by
  unfold lineApply
  split
  · next h => exact hs.trans (applyDue_keeps h)
  · split
    · exact hs
    · split
      · simp [hs]
      · split <;> simp [hs]

@[simp] theorem replayExpiry_held (field origin seq s) : (replayExpiry field origin seq s).held = s.held := by
  unfold replayExpiry
  split <;> simp

@[simp] theorem resetSource_held (s field origin floor) : (resetSource s field origin floor).held = s.held := by simp [resetSource]
@[simp] theorem sourceReset_held (c s) : (sourceReset c s).held = s.held := by simp [sourceReset]

@[simp] theorem endpointAnswer_keeps (hs : Keeps κ s.held) (n a) : Keeps κ (endpointAnswer n a s).held := by
  unfold endpointAnswer
  (repeat' split) <;> simp [hs]

@[simp] theorem farDone_held (s n f) : (farDone s n f).held = s.held := by simp [farDone]

@[simp] theorem answerRecs_held (s n run self f) : (answerRecs s n run self f).held = s.held := by
  unfold answerRecs
  dsimp only
  rw [farDone_held, foldl_fst_held]
  intro r x
  split <;> simp

@[simp] theorem farAnswer_held (s a) : (farAnswer s a).held = s.held := by
  unfold farAnswer
  split <;> simp

@[simp] theorem memAnswer_keeps (hs : Keeps κ s.held) (op n a) : Keeps κ (memAnswer op n a s).held := by
  unfold memAnswer
  (repeat' split) <;> simp [hs]

@[simp] theorem dropGate_held (s n) : (dropGate s n).held = s.held := by simp [dropGate]
@[simp] theorem memOnHedge_keeps (hs : Keeps κ s.held) : Keeps κ (memOnHedge s).held := by simp [memOnHedge, hs]

/-! ### Machine/Coach -/

@[simp] theorem coachCommand_held (op get c s) : (coachCommand op get c s).held = s.held := by simp [coachCommand]
@[simp] theorem coachRunClose_held (n s) : (coachRunClose n s).held = s.held := by simp [coachRunClose]
@[simp] theorem takeAt_held (s n p) : (takeAt s n p).held = s.held := by simp [takeAt]
@[simp] theorem coachRun_held (n p s) : (coachRun n p s).held = s.held := by simp [coachRun]

@[simp] theorem coachTimeout_held (n run s) : (coachTimeout n run s).held = s.held := by
  unfold coachTimeout
  split <;> simp

@[simp] theorem coachDone_held (n p s) : (coachDone n p s).held = s.held := by simp [coachDone]

/-! ### Machine/Hedge -/

@[simp] theorem forwardNotice_held (s except bytes) : (forwardNotice s except bytes).held = s.held := by simp [forwardNotice]
@[simp] theorem seeEpoch_held (s e) : (seeEpoch s e).held = s.held := by simp [seeEpoch]
@[simp] theorem hedgeEntry_held (s bytes loc) : (hedgeEntry s bytes loc).held = s.held := by simp [hedgeEntry]

@[simp] theorem setLocal_held (s n st epoch headland cause body) : (setLocal s n st epoch headland cause body).held = s.held := by
  simp [setLocal]

@[simp] theorem afterHedge_keeps (hs : Keeps κ s.held) (old) : Keeps κ (afterHedge old s).held := by simp [afterHedge, hs]

@[simp] theorem applyNotice_keeps (hs : Keeps κ s.held) (except orig target st epoch headland cause origin body) :
    Keeps κ (applyNotice s except orig target st epoch headland cause origin body).held := by
  simp [applyNotice, hs]

@[simp] theorem raiseHedge_keeps (hs : Keeps κ s.held) (target cause) : Keeps κ (raiseHedge s target cause).held := by simp [raiseHedge, hs]
@[simp] theorem portDown_keeps (hs : Keeps κ s.held) (n) : Keeps κ (portDown s n).held := by simp [portDown, hs]
@[simp] theorem liftAll_held (s) : (liftAll s).held = s.held := by simp [liftAll]
@[simp] theorem beaconSend_held (s) : (beaconSend s).held = s.held := by simp [beaconSend]
@[simp] theorem take_held (s p) : (take s p).held = s.held := by simp [take]
@[simp] theorem mgtBeacon_held (n p s) : (mgtBeacon n p s).held = s.held := by simp [mgtBeacon]

@[simp] theorem beaconLost_keeps (hs : Keeps κ s.held) (d) : Keeps κ (beaconLost d s).held := by
  unfold beaconLost
  split <;> simp [hs]

@[simp] theorem mgtHedge_keeps (hs : Keeps κ s.held) (n p) : Keeps κ (mgtHedge n p s).held := by
  unfold mgtHedge
  split <;> simp [hs]

@[simp] theorem hedgeRepeat_held (s) : (hedgeRepeat s).held = s.held := by
  unfold hedgeRepeat
  split <;> simp

/-! ### Machine/Link -/

@[simp] theorem countCw_held (s n cw) : (countCw s n cw).held = s.held := by
  unfold countCw
  split <;> simp

@[simp] theorem acceptFlit_held (s n f) : (acceptFlit s n f).held = s.held := by simp [acceptFlit]

@[simp] theorem rxFlit_keeps (hs : Keeps κ s.held) (n f cw) {k : State → State} (hk : ∀ s, Keeps s.held (k s).held) :
    Keeps κ (rxFlit s n f cw k).held := by
  unfold rxFlit
  dsimp only
  split
  · split
    · exact Keeps.trans (by simpa using hs) (hk _)
    · simp [hs]
  · exact hs

@[simp] theorem lodge_held (s n vl bytes) : (lodge s n vl bytes).held = s.held := by simp [lodge]
@[simp] theorem dataFlit_keeps (hs : Keeps κ s.held) (n f) : Keeps κ (dataFlit n f s).held := by simp [dataFlit, hs]

@[simp] theorem onCtrl_keeps (hs : Keeps κ s.held) (ck n f cw) {k : State → State} (hk : ∀ s, Keeps s.held (k s).held) :
    Keeps κ (onCtrl ck n f cw s k).held := by
  simp [onCtrl, hs, hk]

@[simp] theorem creditIn_held (n f s) : (creditIn n f s).held = s.held := by simp [creditIn]
@[simp] theorem creditTimer_held (n s) : (creditTimer n s).held = s.held := by simp [creditTimer]
@[simp] theorem resend_keeps (hs : Keeps κ s.held) (n fro) : Keeps κ (resend s n fro).held := by simp [resend, hs]
@[simp] theorem nakIn_keeps (hs : Keeps κ s.held) (n a) : Keeps κ (nakIn n a s).held := by simp [nakIn, hs]

@[simp] theorem retryTo_keeps (hs : Keeps κ s.held) (n) : Keeps κ (retryTo n s).held := by
  unfold retryTo
  split
  · exact hs
  · simp [hs]

@[simp] theorem idleFlit_held (n f cw s) : (idleFlit n f cw s).held = s.held := by simp [idleFlit]
@[simp] theorem trainingDone_held (n s) : (trainingDone n s).held = s.held := by simp [trainingDone]

@[simp] theorem initIn_keeps (hs : Keeps κ s.held) (n f) : Keeps κ (initIn n f s).held := by
  unfold initIn
  dsimp only
  (repeat' split) <;> simp [hs]

@[simp] theorem loseLanes_keeps (hs : Keeps κ s.held) (n mask) : Keeps κ (loseLanes s n mask).held := by simp [loseLanes, hs]
@[simp] theorem laneDown_keeps (hs : Keeps κ s.held) (n lane) : Keeps κ (laneDown n lane s).held := by simp [laneDown, hs]

@[simp] theorem matchMaps_keeps (hs : Keeps κ s.held) (n) : Keeps κ (matchMaps s n).held := by
  unfold matchMaps
  split <;> simp [hs]

@[simp] theorem restripeDone_keeps (hs : Keeps κ s.held) (n) : Keeps κ (restripeDone n s).held := by simp [restripeDone, hs]
@[simp] theorem laneMap_keeps (hs : Keeps κ s.held) (n f cw) : Keeps κ (laneMap n f cw s).held := by simp [laneMap, hs]
@[simp] theorem edgeDrop_held (s n) : (edgeDrop s n).held = s.held := by simp [edgeDrop]
@[simp] theorem edgeRefuse_held (s n) : (edgeRefuse s n).held = s.held := by simp [edgeRefuse]
@[simp] theorem pauseIn_held (s n f) : (pauseIn s n f).held = s.held := by simp [pauseIn]

/-- Lodging a frame counts its cells in the switch core alone. -/
theorem lodgeEdge_held {s n pcp cells t} (h : lodgeEdge s n pcp cells = some t) : t.held = s.held := by
  unfold lodgeEdge at h
  split at h <;> cases h
  rfl

@[simp] theorem edgeFull_held (s n pcp) : (edgeFull s n pcp).held = s.held := by simp [edgeFull]
@[simp] theorem learn_held (s n vlan sa) : (learn s n vlan sa).held = s.held := by simp [learn]

@[simp] theorem l2Frame_held (s n pcp colour f) : (l2Frame s n pcp colour f).held = s.held := by
  unfold l2Frame
  dsimp only
  split
  · simp
  · split
    · simp
    · next h =>
      rw [settleDie_held, foldl_held fun s q => by simp]
      simp [lodgeEdge_held h]

@[simp] theorem edgePkt_held (s n pcp colour bytes) : (edgePkt s n pcp colour bytes).held = s.held := by
  unfold edgePkt
  dsimp only
  split
  · simp
  · split
    · simp
    · split
      · simp
      · next h => simp [lodgeEdge_held h]

/-- The two things a frame depends on, the packet it carries and the state the gleaner leaves, are named before its cases. -/
@[simp] theorem edgeFrame_held (n f s) : (edgeFrame n f s).held = s.held := by
  unfold edgeFrame
  extract_lets udp o g sel pcp dei pc pre t
  have ht : t.held = s.held := glean_held ..
  clear_value sel t
  cases sel <;> simp [ht]

@[simp] theorem xoffRefresh_held (n s) : (xoffRefresh n s).held = s.held := by simp [xoffRefresh]

/-! ### Machine/PlanCmds -/

@[simp] theorem modPlan_held (s f) : (modPlan s f).held = s.held := by simp [modPlan]
@[simp] theorem planStage_keeps (hs : Keeps κ s.held) (c bytes e) : Keeps κ (planStage c bytes e s).held := by simp [planStage, hs]
@[simp] theorem planWrite_keeps (hs : Keeps κ s.held) (c) : Keeps κ (planWrite c s).held := by simp [planWrite, hs]
@[simp] theorem planValidate_held (c s) : (planValidate c s).held = s.held := by simp [planValidate]

@[simp] theorem planValidated_held (k s) : (planValidated k s).held = s.held := by
  unfold planValidated
  split <;> simp

@[simp] theorem headlandArm_held (c s) : (headlandArm c s).held = s.held := by simp [headlandArm]
@[simp] theorem quiescing_held (s) : (quiescing s).held = s.held := by simp [quiescing]
@[simp] theorem settleQuiesce_held (s) : (settleQuiesce s).held = s.held := by simp [settleQuiesce]
@[simp] theorem withdraw_held (s c st) : (withdraw s c st).held = s.held := by simp [withdraw]

@[simp] theorem planCommit_held (c s) : (planCommit c s).held = s.held := by
  unfold planCommit
  (repeat' split) <;> simp

@[simp] theorem loadGroups_keeps (hs : Keeps κ s.held) (rs) : Keeps κ (loadGroups s rs).held := by simp [loadGroups, hs]

@[simp] theorem commitLoadEnd_keeps (hs : Keeps κ s.held) : Keeps κ (commitLoadEnd s).held := by
  unfold commitLoadEnd
  split <;> simp [hs]

@[simp] theorem abandon_held (s c st code cond) : (abandon s c st code cond).held = s.held := by simp [abandon]

@[simp] theorem planAbandoned_held (s) : (planAbandoned s).held = s.held := by
  unfold planAbandoned
  dsimp only
  (repeat' split) <;> simp

@[simp] theorem planLoftUe_held (s) : (planLoftUe s).held = s.held := by
  unfold planLoftUe
  split <;> simp

@[simp] theorem planCancel_held (c s) : (planCancel c s).held = s.held := by
  unfold planCancel
  split <;> simp

@[simp] theorem countRefresh_held (s) : (countRefresh s).held = s.held := by simp [countRefresh]
@[simp] theorem stepReport_held (s) : (stepReport s).held = s.held := by simp [stepReport]
@[simp] theorem yokeStep_held (s h result pair mine theirs) : (yokeStep s h result pair mine theirs).held = s.held := by simp [yokeStep]

@[simp] theorem yokeJudge_held (s) : (yokeJudge s).held = s.held := by
  unfold yokeJudge
  split <;> simp

@[simp] theorem yokeClose_held (s) : (yokeClose s).held = s.held := by
  unfold yokeClose
  (repeat' split) <;> simp

@[simp] theorem liftAt_held (s) : (liftAt s).held = s.held := by simp [liftAt]
@[simp] theorem clearFields_held (s old new) : (clearFields s old new).held = s.held := by simp [clearFields]
@[simp] theorem clearCounts_held (s) : (clearCounts s).held = s.held := by simp [clearCounts]
@[simp] theorem flip_held (s c) : (flip s c).held = s.held := by simp [flip]
@[simp] theorem committed_held (s c) : (committed s c).held = s.held := by simp [committed]

@[simp] theorem headlandPass_keeps (hs : Keeps κ s.held) : Keeps κ (headlandPass s).held := by
  unfold headlandPass
  dsimp only
  (repeat' split) <;> simp [hs]

@[simp] theorem applyDomain_held (s d) : (applyDomain s d).held = s.held := by simp [applyDomain]
@[simp] theorem domainLost_held (s d) : (domainLost s d).held = s.held := by simp [domainLost]

@[simp] theorem applyFault_held (k s iw) : (applyFault k s iw).held = s.held := by
  unfold applyFault
  dsimp only
  (repeat' split) <;> simp

/-- APPLY in its two halves: the operations of the plots run to their end, then the plan is written. -/
@[simp] theorem applyPlan_keeps (hs : Keeps κ s.held) (c) : Keeps κ (applyPlan s c).held := by
  have h1 : Keeps κ ((List.range 32).foldl (fun s p => awaitOps p s) s).held := foldl_keeps (fun s p => by simp) hs _
  unfold applyPlan
  dsimp only
  refine loadGroups_keeps ?_ _
  simp only [State.held_mk, State.held_eta]
  refine foldl_keeps (fun s a => by simp) ?_ _
  simp [h1]

@[simp] theorem planCommitted_keeps (hs : Keeps κ s.held) (bad) : Keeps κ (planCommitted bad s).held := by
  unfold planCommitted
  split
  · exact hs
  · simp [hs]

/-! ### Machine/Recover -/

@[simp] theorem retrain_held (c s) : (retrain c s).held = s.held := by simp [retrain]

@[simp] theorem setTarget_keeps (hs : Keeps κ s.held) (t st epoch headland op body) :
    Keeps κ (setTarget s t st epoch headland op body).held := by
  simp [setTarget, hs]

@[simp] theorem hedgeAdd_keeps (hs : Keeps κ s.held) (c) : Keeps κ (hedgeAdd c s).held := by simp [hedgeAdd, hs]
@[simp] theorem admitOpen_keeps (hs : Keeps κ s.held) (c) : Keeps κ (admitOpen c s).held := by simp [admitOpen, hs]
@[simp] theorem admitCmd_keeps (hs : Keeps κ s.held) (c) : Keeps κ (admitCmd c s).held := by simp [admitCmd, hs]

@[simp] theorem yokeRole_held (role c s) : (yokeRole role c s).held = s.held := by
  unfold yokeRole
  split <;> simp

@[simp] theorem yokeReport_held (c s) : (yokeReport c s).held = s.held := by simp [yokeReport]
@[simp] theorem testStart_held (c s) : (testStart c s).held = s.held := by simp [testStart]

@[simp] theorem selfTest_held (c s) : (selfTest c s).held = s.held := by
  unfold selfTest
  (repeat' split) <;> simp

@[simp] theorem testEnd_keeps (hs : Keeps κ s.held) (d) : Keeps κ (testEnd s d).held := by simp [testEnd, hs]

@[simp] theorem selfTestDone_keeps (hs : Keeps κ s.held) (failed) : Keeps κ (selfTestDone failed s).held := by
  unfold selfTestDone
  (repeat' split) <;> simp [hs]

@[simp] theorem modGran_held (s k f) : (modGran s k f).held = s.held := by simp [modGran]
@[simp] theorem losesShares_held (s k) : (losesShares s k).held = s.held := by simp [losesShares]
@[simp] theorem losesSources_held (s) : (losesSources s).held = s.held := by simp [losesSources]

@[simp] theorem losesLoft_held (s) : (losesLoft s).held = s.held := by
  unfold losesLoft
  dsimp only
  split <;> simp

@[simp] theorem granaryFail_held (k s) : (granaryFail k s).held = s.held := by simp [granaryFail]
@[simp] theorem granaryReady_keeps (hs : Keeps κ s.held) : Keeps κ (granaryReady s).held := by simp [granaryReady, hs]

@[simp] theorem granaryReadmit_held (c s) : (granaryReadmit c s).held = s.held := by
  unfold granaryReadmit
  dsimp only
  split <;> simp

@[simp] theorem granaryReadmitDone_keeps (hs : Keeps κ s.held) (k) : Keeps κ (granaryReadmitDone k s).held := by
  unfold granaryReadmitDone
  split <;> simp [hs]

/-! ### Machine/Regs -/

@[simp] theorem modClk_held (s f) : (modClk s f).held = s.held := by simp [modClk]
@[simp] theorem wrTbCtl_held (s w) : (wrTbCtl s w).1.held = s.held := by simp [wrTbCtl]
@[simp] theorem writeCw_held (s base w) : (writeCw s base w).1.held = s.held := by simp [writeCw]

@[simp] theorem write32_held (s off v stew) : (write32 s off v stew).held = s.held := by
  unfold write32
  split <;> simp

@[simp] theorem writeReg_held (s off w) : (writeReg s off w).1.held = s.held := by simp [writeReg]
@[simp] theorem regRead_held (c s) : (regRead c s).held = s.held := by simp [regRead]
@[simp] theorem preempt_held (s off v) : (preempt s off v).held = s.held := by simp [preempt]

@[simp] theorem regWrite_held (c clash s) : (regWrite c clash s).held = s.held := by
  unfold regWrite
  split <;> simp

@[simp] theorem tallyRead_held (c s) : (tallyRead c s).held = s.held := by simp [tallyRead]

/-! ### Machine/Mgt -/

@[simp] theorem fwUpdate_held (c sigOk s) : (fwUpdate c sigOk s).held = s.held := by simp [fwUpdate]
@[simp] theorem warmCmd_held (c s) : (warmCmd c s).held = s.held := by simp [warmCmd]

@[simp] theorem dossierDone_held (s) : (dossierDone s).held = s.held := by
  unfold dossierDone
  split <;> simp

@[simp] theorem dossierRead_held (c s) : (dossierRead c s).held = s.held := by simp [dossierRead]
@[simp] theorem mgtResp_held (n p s) : (mgtResp n p s).held = s.held := by simp [mgtResp]

/-! ### Machine/Power -/

@[simp] theorem tick_held (s) : (tick s).held = s.held := by simp [tick]

@[simp] theorem domainsOff_keeps (hs : Keeps κ s.held) : Keeps κ (domainsOff s).held := by
  unfold domainsOff
  exact Keeps.nil (by simp [hs])

@[simp] theorem thermtrip_keeps (hs : Keeps κ s.held) : Keeps κ (thermtrip s).held := by simp [thermtrip, hs]
@[simp] theorem reeveHalt_held (die s) : (reeveHalt die s).held = s.held := by simp [reeveHalt]
@[simp] theorem avsStep_held (ackW ackE s) : (avsStep ackW ackE s).held = s.held := by simp [avsStep]
@[simp] theorem governor_held (watts tw te th backed s) : (governor watts tw te th backed s).held = s.held := by simp [governor]
@[simp] theorem coldReset_keeps (hs : Keeps κ s.held) (power) : Keeps κ (coldReset power s).held := ⟨hs.1, fun _ => rfl⟩
@[simp] theorem coldRelease_keeps (hs : Keeps κ s.held) (tmode cool) : Keeps κ (coldRelease tmode cool s).held := by simp [coldRelease, hs]
@[simp] theorem booted_held (s b) : (booted s b).held = s.held := by simp [booted]
@[simp] theorem reeveBoot_held (ok0 ok1 die s) : (reeveBoot ok0 ok1 die s).held = s.held := by simp [reeveBoot]

@[simp] theorem warmReset_keeps (hs : Keeps κ s.held) : Keeps κ (warmReset s).held := by
  unfold warmReset
  rw [foldl_held fun t e => modDom_held _ _ _]
  exact ⟨hs.1, fun _ => rfl⟩

@[simp] theorem perst_held (asserted s) : (perst asserted s).held = s.held := by simp [perst]

/-! ### Machine/Rooms -/

@[simp] theorem roomRequest_refuse_held (req die s) : (roomRequest.refuse req die s).held = s.held := by simp [roomRequest.refuse]

@[simp] theorem roomRequest_held (req sub bytes refs s) : (roomRequest req sub bytes refs s).held = s.held := by
  unfold roomRequest
  dsimp only
  split
  · simp
  · split
    · simp
    · split
      · next h =>
        split at h
        · cases h
        · simp [tryRoom_held h]
      · simp

end

/-! ## What a command comes to -/

/-- What the outcome of a command says of the invariant: a next state keeps what `s` holds, and where `ok` is true there is one. O2
needs the first half for every command and state, O3 the second outside a test mode for the well-formed ones. -/
structure Settles (ok : Prop) (s : State) (o : Out) : Prop where
  keeps : ∀ t, o = .next t → Keeps s.held t.held
  next : ok → ∃ t, o = .next t

namespace Settles
variable {ok : Prop} {s t : State} {o : Out}

theorem of_next (h : Keeps s.held t.held) : Settles ok s (.next t) where
  keeps u hu := by cases hu; exact h
  next _ := ⟨t, rfl⟩

theorem of_refused {r : Refusal} (h : ¬ ok) : Settles ok s (.refused r) where
  keeps _ hu := nomatch hu
  next hok := absurd hok h

theorem of_fault {r : Fault} (h : ¬ ok) : Settles ok s (.fault r) where
  keeps _ hu := nomatch hu
  next hok := absurd hok h

theorem of_held (h : Settles ok t o) (ht : t.held = s.held) : Settles ok s o where
  keeps u hu := ht ▸ h.keeps u hu
  next := h.next

end Settles

theorem entryCmd_body_length (auth : Auth) (src : Addr) (e data : List Byte) : (entryCmd auth src e data).body.length = 100 := by
  simp [entryCmd, slice]

/-! ### The shapes of a command's meaning -/

section
variable {ok : Prop} {s : State} (hm : ok → s.testMode = false)
include hm

theorem always_settles {f : State → State} (hf : Keeps s.held (f s).held) : Settles ok s (always s f) := by
  unfold always
  split_ifs with ht
  · exact .of_refused fun h => by simp [hm h] at ht
  · exact .of_next hf

theorem event_settles {f : State → State} (hf : Keeps s.held (f s).held) : Settles ok s (event s f) := by
  unfold event
  split_ifs with ht
  · exact .of_refused fun h => by simp [hm h] at ht
  · exact .of_next (.refl _)
  · exact .of_next hf

theorem onPkt_settles {p : Pkt} {f : State → State} (hp : ok → p.payload.length = 4 * p.len.toNat) (hf : Keeps s.held (f s).held) :
    Settles ok s (onPkt p s f) := by
  unfold onPkt
  split_ifs with hl
  · exact event_settles hm hf
  · exact .of_fault fun h => hl (hp h)

theorem onCmd_settles {op c fmt fmtOk} {f : State → State} (hb : ok → c.body.length = 100) (hf : Keeps s.held (f s).held) :
    Settles ok s (onCmd op c fmt fmtOk s f) := by
  unfold onCmd
  split_ifs with ht hl
  · exact .of_refused fun h => by simp [hm h] at ht
  · exact .of_fault fun h => hl (hb h)
  · exact .of_next (.refl _)
  · exact .of_next (by simp)
  · exact .of_next (by simp)
  · exact .of_next (by simp)
  · exact .of_next hf

theorem onSlot_settles {op c fmt fmtOk} {f : State → State} (hb : ok → c.body.length = 100) (hf : Keeps s.held (f s).held) :
    Settles ok s (onSlot op c fmt fmtOk s f) := by
  unfold onSlot
  split_ifs
  · exact .of_next (by simp)
  · exact onCmd_settles hm hb hf

theorem part_settles {p k mine} {f : State → Nat → Snap → State} (hf : ∀ s w n, Keeps s.held (f s w n).held) :
    Settles ok s (part p k mine s f) :=
  event_settles hm (onPart_keeps _ _ _ _ hf)

theorem nextPart_settles {p k e} {f : State → Nat → Snap → State × Nat} (hf : ∀ s w n, (f s w n).1.held = s.held) :
    Settles ok s (nextPart p k e s f) :=
  part_settles hm fun t w n => by simp [hf]

theorem execHalt_settles {p : Fin 32} : Settles ok s (execHalt p s) := by
  refine event_settles hm ?_
  split
  · exact .refl _
  · have hp := onPart_keeps p 14 (fun _ => true) s (f := fun s _ _ => s) fun _ _ _ => .refl _
    simp [hp]

theorem runOp_settles {op c sigOk} (hb : ok → c.body.length = 100) : Settles ok s (runOp op c sigOk s) := by
  unfold runOp
  split
  -- PLAN_VALIDATE, PLAN_COMMIT, PLAN_CANCEL
  case h_4 | h_5 | h_6 => exact onSlot_settles hm hb (by simp)
  -- YOKE, ADMIT, KEY_LOAD and DOSSIER take their row from the body
  case h_24 | h_25 | h_29 | h_38 => split_ifs <;> exact onCmd_settles hm hb (by simp)
  -- no such opcode
  case h_39 => exact .of_next (by simp)
  all_goals exact onCmd_settles hm hb (by simp)

theorem runEntry_settles {c e sigOk} (hb : ok → c.body.length = 100) : Settles ok s (runEntry c e sigOk s) := by
  unfold runEntry
  dsimp only
  split_ifs
  · exact .of_next (by simp)
  · exact runOp_settles hm hb

theorem mgtSteward_settles {mac p sigOk} : Settles ok s (mgtSteward mac p sigOk s) := by
  unfold mgtSteward
  dsimp only
  split
  · exact .of_next (.refl _)
  · split
    · exact .of_next (by simp)
    · split
      · exact .of_next (.refl _)
      · refine .of_held (runEntry_settles ?_ fun _ => entryCmd_body_length ..) (by simp)
        exact hm

theorem mgtPeer_settles {n p} : Settles ok s (mgtPeer n p s) := by
  unfold mgtPeer
  dsimp only
  split_ifs
  · exact .of_next (by simp)
  · exact .of_held (runEntry_settles (s := take s p) hm fun _ => entryCmd_body_length ..) (by simp)

theorem execMgtCmd_settles {stew port mac p sigOk} (hp : ok → p.payload.length = 4 * p.len.toNat) :
    Settles ok s (execMgtCmd stew port mac p sigOk s) := by
  unfold execMgtCmd
  split_ifs with ht hl
  · exact .of_refused fun h => by simp [hm h] at ht
  · exact .of_fault fun h => hl (hp h)
  · exact mgtSteward_settles hm
  · exact .of_next (.refl _)
  · exact mgtPeer_settles hm

end

/-- Every command, by the shape of its meaning: what always acts, what waits out a FATAL fault, what brings a packet, what is a
ledger command, and what is a part of a control word. -/
theorem exec_settles (c : Instr) (s : State) : Settles (s.testMode = false ∧ c.wf = true) s (exec c s) := by
  cases c
  all_goals unfold exec
  case registerWrite | ledgerDoorbell | ledgerAccept | tallySeen | tallyStatus | ringCfg | intMask | intTime | gleanTail | memCtl | tbCtl
      | dossierDone | coldResetRelease | pllLock | reeveBoot | warmResetBegin | perstN | pwrgdLost | thermtrip | pllUnlock | reeveHalt |
      tickIn | tickOut | tickLost | governorSample | avsStep | stewardLinkUp | stewardLinkDown | dieHot =>
    exact always_settles And.left (by simp)
  case bar4Write | planValidated | commitLoadEnd | planLoftUe | quiescing | planAbandoned | headlandPass | planCommitted | plotStopped |
      rptWritten | provDone | furrowResetResend | selftestDone | beaconSend | beaconLost | hedgeRepeat | quenchExpiry | packetLookup |
      dispatch | escAfter | serveUnit | refill | roomRequest | roomRelease | gleanWrite | dataFlit | credit | creditTimer | nak |
      retryTo | init | initResend | trainingDone | trainingTimeout | downRetry | laneDown | restripeDone | laneMap | edgeFrame |
      pauseExpiry | xoffRefresh | macAge | updChunkApply | precondPass | rootRefreshDone | sparseMeta | sparseIndex | accDone |
      accPathEnd | hdone | plotDone | waitEnd | seqWaitLimit | transferStart | transferEnd | winnowRecord | mergePass | stageDone
      | lineApply | hotSetClear | hotLineRetire | trackerResend | trackerTimeout | replayExpiry | coachRunClose | coachTimeout |
      encryptExit | digestExit | granaryFail | granaryReady | bridgeDown | lossOfLock | regainsLock | idleFlit | granaryReadmitDone |
      stackCaseTemperature =>
    exact event_settles And.left (by simp)
  case mgtResp | mgtBeacon | mgtHedge | mgtQuench | colWaybill | colGrant | colData | colDataEnd | colCredit | colOutcome | colAbort |
      moveData | moveDone | load | store | storeRel | atomic | trackedArrival | loadRsp | storeAck | atomicRsp | coachRun | coachDone |
      sealedChunkPacket =>
    exact onPkt_settles And.left (fun h => by simpa [Instr.wf, Instr.parts, Operand.ok] using h.2) (by simp)
  case nop | planStage | planWrite | headlandArm | plotStart | plotStop | updGroupWrite | rptWrite | rptRead | memRequest | coachPut |
      coachGet | provHash | keyLoadClear | keyLoadWrapped | keyErase | keyEraseAll | regRead | regWrite | tallyRead | fwUpdate |
      warmReset | testEntry | dossierCapture | dossierRead | furrowReset | shareClearTorn | stageReset | portRetrain | sourceReset |
      hedgeAdd | admitOpen | selfTest | granaryReadmit | yokeReport | yokePartner | yokeShadow | yokeEnd | admitNative |
      admitCompatibility | admitDirect =>
    exact onCmd_settles And.left (fun h => by simpa [Instr.wf, Instr.parts, Operand.ok] using h.2) (by simp)
  case planValidate | planCommit | planCancel =>
    exact onSlot_settles And.left (fun h => by simpa [Instr.wf, Instr.parts, Operand.ok] using h.2) (by simp)
  case arm | mm | mmSp | accLoad | accStore | accRelease | accZero | set | copAdd | setlim | setcfg | sset | sclr | scinc | gload |
      gstore | tqDrop | msend | waybill | csend | dtap | dlog | phArray | phHarrow | phFabric | harrowAdd | harrowSub | harrowMul |
      harrowFma | harrowDiv | harrowMin | harrowMax | harrowAbs | harrowNeg | harrowSqrt | harrowRcp | harrowRsqrt | harrowExp2 |
      harrowLog2 | harrowCvt | harrowMov | harrowCmp | harrowIadd | harrowAnd | harrowOr | harrowXor | harrowRsum | harrowRmin |
      harrowRmax | compress | expand | gather | scatter | xload | xstore | xlist | sparsify | prune2d | keyset =>
    exact part_settles And.left (fun t w n => by simp)
  case seq | jump | brt | brf | loop =>
    exact nextPart_settles And.left (fun t w n => by simp)
  case halt => exact execHalt_settles And.left
  case updFeedGrant p bill chk =>
    have hp (h : Instr.wf (.updFeedGrant p bill chk) = true) : p.payload.length = 4 * p.len.toNat ∧ bill.length = 64 := by
      simpa [Instr.wf, Instr.parts, Operand.ok] using h
    exact onPkt_settles And.left (fun h => (hp h.2).1) (by simp)
  case mgtCmd => exact execMgtCmd_settles And.left (fun h => by simpa [Instr.wf, Instr.parts, Operand.ok] using h.2)
  case coldReset => exact .of_next (coldReset_keeps (.refl _) _)

theorem step_keeps {s t : State} (h : step s = .next t) : Keeps s.held t.held := by
  unfold step at h
  split at h
  · cases h
    simp
  · next c rest _ => exact (exec_settles c { s with pending := rest }).keeps t h

end Sys2Proof.Machine

namespace Sys2Proof
open Sys2Proof.Machine

/-- Settles O2: whatever the front of the queue is, the next state keeps the identity and a canonical granary (`step_keeps`). -/
theorem soundIsKept : Obligations.SoundIsKept := by
  intro s t ⟨hpart, hgran⟩ hstep
  obtain ⟨hp, hg⟩ := step_keeps hstep
  exact ⟨(congrArg Part.sound hp).trans hpart, hg hgran⟩

/-- Settles O3: `exec_settles`, whose condition is that no test mode is on and the command is well-formed. -/
theorem everyCommandCompletes : Obligations.EveryCommandCompletes := by
  intro c s hc hm
  obtain ⟨t, ht⟩ := (exec_settles c s).next ⟨hm, hc⟩
  exact ⟨t, ht, (exec_settles c s).keeps t ht⟩

/-- Settles O4: a grade A part with all its plots, and an empty granary. -/
theorem resetIsSound : Obligations.ResetIsSound := ⟨by decide, rfl⟩

end Sys2Proof

/-! # Exact arithmetic: O42 to O44

A rounding at the root reads of an accumulation its flags and the number that its dyadic stands for, and nothing of the significand
and exponent that this number is kept with. `Acc.total` is what it reads. Totals join commutatively and associatively, so the order
of arrival and the grouping at the tiers below vanish; integer sums and partials are then read off the total. -/

namespace Sys2Proof.Machine
open Sys2Proof

/-! ## The value of a dyadic -/

/-- The number m * 2^e that a dyadic stands for. -/
def Dy.val (d : Dy) : ℚ := d.m * 2 ^ d.e

@[simp] theorem Dy.val_intCast (v : Int) : Dy.val ⟨v, 0⟩ = v := by simp [Dy.val]

@[simp] theorem Dy.val_eq_zero {d : Dy} : d.val = 0 ↔ d.m = 0 := by
  simp [Dy.val, zpow_ne_zero]

theorem two_pow_toNat_mul_zpow {x e : Int} (h : e ≤ x) : (2 : ℚ) ^ (x - e).toNat * 2 ^ e = 2 ^ x := by
  rw [← zpow_natCast, ← zpow_add₀ two_ne_zero]
  congr 1
  omega

/-- A significand scaled down to a lower exponent keeps its value. -/
theorem Dy.val_scaled (d : Dy) {e : Int} (h : e ≤ d.e) : Dy.val ⟨d.m * 2 ^ (d.e - e).toNat, e⟩ = d.val := by
  simp [Dy.val, mul_assoc, two_pow_toNat_mul_zpow h]

@[simp] theorem Dy.val_add (a b : Dy) : (a.add b).val = a.val + b.val := by
  unfold Dy.add
  split_ifs with ha hb
  · simp [Dy.val_eq_zero.mpr ha]
  · simp [Dy.val_eq_zero.mpr hb]
  · rw [← a.val_scaled (min_le_left a.e b.e), ← b.val_scaled (min_le_right a.e b.e)]
    simp [Dy.val, add_mul]

theorem Dy.toInt_eq_floor (d : Dy) : d.toInt = ⌊d.val⌋ := by
  unfold Dy.toInt Dy.val
  split_ifs with h
  · rw [← Int.toNat_of_nonneg h]
    simp only [Int.toNat_natCast, zpow_natCast]
    exact_mod_cast (Int.floor_intCast (R := ℚ) _).symm
  · have he : d.e = -((-d.e).toNat : Int) := by omega
    rw [he, zpow_neg, zpow_natCast, ← div_eq_mul_inv]
    simp only [neg_neg, Int.toNat_natCast]
    exact_mod_cast (Rat.floor_intCast_div_natCast d.m (2 ^ (-d.e).toNat)).symm

/-- Of two dyadics of one value, the one with the lower exponent has the other's significand shifted. -/
theorem Dy.m_eq_of_val_eq {a b : Dy} (h : a.val = b.val) (he : a.e ≤ b.e) : a.m = b.m * 2 ^ (b.e - a.e).toNat := by
  have hs := (b.val_scaled he).trans h.symm
  simp only [Dy.val] at hs
  exact_mod_cast (mul_right_cancel₀ (zpow_ne_zero a.e two_ne_zero) hs).symm

/-! ## Rounding depends on the value alone -/

/-- The exponent of the last place that `roundF` rounds to. -/
def roundExp (f : Fmt) (m : Nat) (e : Int) : Int := max ((Nat.log2 m : Int) + e - f.fb) (1 - (f.bias : Int) - f.fb)

/-- The significand of m * 2^e in units of 2^q, and whether it is inexact: the first half of `roundF`. -/
def roundSig (mode : RMode) (m : Nat) (e q : Int) : Nat × Bool :=
  if q ≤ e then (m <<< (e - q).toNat, false)
  else
    let sh := (q - e).toNat
    (if roundsUp mode (m >>> sh) (m % 2 ^ sh) sh false then m >>> sh + 1 else m >>> sh, decide (m % 2 ^ sh ≠ 0) || false)

/-- Code and flags of a rounded significand: the second half of `roundF`. -/
def roundCode (f : Fmt) (mode : RMode) (neg : Bool) (q : Int) (r : Nat × Bool) : Nat × Nat :=
  let mag : Nat :=
    if r.1 < 2 ^ f.fb then r.1
    else
      let (n, q) : Nat × Int := if r.1 = 2 ^ (f.fb + 1) then (2 ^ f.fb, q + 1) else (r.1, q)
      (q + f.fb + f.bias).toNat * 2 ^ f.fb + (n - 2 ^ f.fb)
  if maxCode f < mag then (signCode f neg + overflowCode f mode, flOVF + flINX)
  else (signCode f neg + mag, if r.2 then flINX else 0)

theorem roundF_eq_roundCode (f : Fmt) (mode : RMode) (neg : Bool) (m : Nat) (e : Int) :
    roundF f mode neg m e = roundCode f mode neg (roundExp f m e) (roundSig mode m e (roundExp f m e)) := rfl

theorem roundExp_double (f : Fmt) {m : Nat} (hm : m ≠ 0) (e : Int) : roundExp f (2 * m) (e - 1) = roundExp f m e := by
  simp only [roundExp, Nat.log2_two_mul hm]
  congr 2
  push_cast
  ring

theorem roundsUp_exact (mode : RMode) (n sh : Nat) : roundsUp mode n 0 (sh + 1) false = false := by
  cases mode with
  | rtz => rfl
  | rne => simp [roundsUp, pow_succ, (Nat.two_pow_pos sh).ne]
  | ksr r => simp [roundsUp]

theorem roundsUp_double (mode : RMode) (n rem sh : Nat) :
    roundsUp mode n (2 * rem) (sh + 2) false = roundsUp mode n rem (sh + 1) false := by
  cases mode with
  | rtz => rfl
  | rne =>
    have : 2 ^ (sh + 2) / 2 = 2 * (2 ^ (sh + 1) / 2) := by simp [pow_succ, mul_comm]
    have : (2 * rem == 2 * (2 ^ (sh + 1) / 2)) = (rem == 2 ^ (sh + 1) / 2) := by rw [Bool.eq_iff_iff]; simp
    simp [roundsUp, *]
  | ksr r =>
    have : 2 * rem * 2 ^ 32 / 2 ^ (sh + 2) = rem * 2 ^ 32 / 2 ^ (sh + 1) := by
      rw [pow_succ' 2 (sh + 1), mul_assoc, Nat.mul_div_mul_left _ _ two_pos]
    simp only [roundsUp, this]

theorem roundSig_double (mode : RMode) (m : Nat) (e q : Int) : roundSig mode (2 * m) (e - 1) q = roundSig mode m e q := by
  rcases lt_trichotomy q e with h | rfl | h
  · have hs : (e - q).toNat = (e - 1 - q).toNat + 1 := by omega
    simp [roundSig, h.le, show q ≤ e - 1 by omega, hs, Nat.shiftLeft_succ_inside]
  · simp [roundSig, roundsUp_exact mode _ 0, Nat.shiftRight_succ_inside]
  · obtain ⟨k, hk⟩ : ∃ k, (q - e).toNat = k + 1 := ⟨(q - e).toNat - 1, by omega⟩
    have hk' : (q - (e - 1)).toNat = k + 2 := by omega
    have hn : (2 * m) >>> (k + 2) = m >>> (k + 1) := by
      rw [Nat.shiftRight_succ_inside]
      simp
    have hr : 2 * m % 2 ^ (k + 2) = 2 * (m % 2 ^ (k + 1)) := by
      rw [pow_succ' 2 (k + 1), Nat.mul_mod_mul_left]
    simp [roundSig, show ¬ q ≤ e by omega, show ¬ q ≤ e - 1 by omega, hk, hk', hn, hr, roundsUp_double]

theorem roundF_double (f : Fmt) (mode : RMode) (neg : Bool) {m : Nat} (hm : m ≠ 0) (e : Int) :
    roundF f mode neg (2 * m) (e - 1) = roundF f mode neg m e := by
  simp only [roundF_eq_roundCode, roundExp_double f hm, roundSig_double]

theorem roundF_scaled (f : Fmt) (mode : RMode) (neg : Bool) {m : Nat} (hm : m ≠ 0) (e : Int) (k : Nat) :
    roundF f mode neg (m * 2 ^ k) (e - k) = roundF f mode neg m e := by
  induction k with
  | zero => simp
  | succ k ih =>
    rw [← ih, ← roundF_double f mode neg (by positivity) (e - k), pow_succ]
    congr 1
    · ring
    · push_cast; ring

theorem roundDy_congr_of_le {a b : Dy} (h : a.val = b.val) (hb : b.m ≠ 0) (he : a.e ≤ b.e) (f : Fmt) (mode : RMode) :
    roundDy f mode a = roundDy f mode b := by
  have hm := Dy.m_eq_of_val_eq h he
  have hneg : a.m < 0 ↔ b.m < 0 := by
    rw [hm]
    exact ⟨fun h => by_contra fun hb => h.not_ge (mul_nonneg (not_lt.mp hb) (by positivity)), fun h => mul_neg_of_neg_of_pos h (by positivity)⟩
  have hexp : a.e = b.e - ((b.e - a.e).toNat : Int) := by omega
  rw [roundDy, roundDy, ← roundF_scaled f mode _ (Int.natAbs_ne_zero.mpr hb) b.e (b.e - a.e).toNat, ← hexp]
  simp only [hneg]
  simp [hm, Int.natAbs_mul, Int.natAbs_pow]

/-- Nonzero dyadics of one value round alike, whatever significand and exponent they are kept with. -/
theorem roundDy_congr {a b : Dy} (h : a.val = b.val) (ha : a.m ≠ 0) (f : Fmt) (mode : RMode) : roundDy f mode a = roundDy f mode b := by
  have hb : b.m ≠ 0 := by rwa [Ne, ← Dy.val_eq_zero, ← h, Dy.val_eq_zero]
  rcases le_total a.e b.e with he | he
  · exact roundDy_congr_of_le h hb he f mode
  · exact (roundDy_congr_of_le h.symm ha he f mode).symm

/-! ## What a rounding reads of an accumulation -/

/-- An accumulation with its exact sum as a number: all that the root's rounding reads (R33, R40). -/
structure Total where
  nan : Bool
  nanIn : Bool
  pinf : Bool
  ninf : Bool
  negZero : Bool
  sum : ℚ

def Acc.total (a : Acc) : Total := ⟨a.nan, a.nanIn, a.pinf, a.ninf, a.negZero, a.sum.val⟩

/-- `Acc.join` on totals. -/
def Total.join (a b : Total) : Total :=
  ⟨a.nan || b.nan, a.nanIn || b.nanIn, a.pinf || b.pinf, a.ninf || b.ninf, a.negZero && b.negZero, a.sum + b.sum⟩

theorem Total.join_comm (a b : Total) : a.join b = b.join a := by
  simp [Total.join, Bool.or_comm, Bool.and_comm, add_comm]

theorem Total.join_assoc (a b c : Total) : (a.join b).join c = a.join (b.join c) := by
  simp [Total.join, Bool.or_assoc, Bool.and_assoc, add_assoc]

@[simp] theorem Total.join_empty (a : Total) : a.join (Acc.total {}) = a := by
  simp [Total.join, Acc.total, Dy.val]

@[simp] theorem Acc.total_join (a b : Acc) : (a.join b).total = a.total.join b.total := by
  simp [Acc.join, Acc.total, Total.join]

theorem Acc.round_congr {a b : Acc} (h : a.total = b.total) (f : Fmt) (mode : RMode) : a.round f mode = b.round f mode := by
  simp only [Acc.total, Total.mk.injEq] at h
  obtain ⟨hnan, hnanIn, hpinf, hninf, hzero, hsum⟩ := h
  have hm : a.sum.m ≠ 0 ↔ b.sum.m ≠ 0 := by rw [Ne, Ne, ← Dy.val_eq_zero, ← Dy.val_eq_zero, hsum]
  by_cases h0 : a.sum.m = 0
  · have h0' : b.sum.m = 0 := by simpa [h0] using hm
    simp [Acc.round, hnan, hnanIn, hpinf, hninf, hzero, h0, h0']
  · simp [Acc.round, hnan, hnanIn, hpinf, hninf, h0, hm.mp h0, roundDy_congr hsum h0]

theorem rootRound_congr {a b : Acc} (h : a.total = b.total) (bill : List Byte) (ix : Nat) : rootRound bill ix a = rootRound bill ix b := by
  have hsum : a.sum.val = b.sum.val := congrArg Total.sum h
  simp only [rootRound, Acc.round_congr h, Dy.toInt_eq_floor, hsum]

theorem rootSum_congr {p q : SumPart} (ha : p.accs.map Acc.total = q.accs.map Acc.total) (hf : p.flags = q.flags) (bill : List Byte) (base : Nat) :
    rootSum bill base p = rootSum bill base q := by
  have hlen : p.accs.length = q.accs.length := by simpa using congrArg List.length ha
  have hrs : ((enum p.accs).map fun e => rootRound bill (base + e.1) e.2) = (enum q.accs).map fun e => rootRound bill (base + e.1) e.2 := by
    refine List.ext_getElem (by simp [enum, hlen]) fun i hp hq => ?_
    simp only [enum, List.length_map, List.length_zip, List.length_range, min_self] at hp hq
    simpa [enum] using rootRound_congr (by simpa [hp, hq] using congrArg (·[i]?) ha) bill (base + i)
  simp only [rootSum, hrs, hf]

/-! ## Lists joined element by element -/

section
variable {α : Type} {op : α → α → α} {e : α}

/-- Lists folded element by element, from `n` copies of `e`; shorter lists cut the result. -/
def zipFold (op : α → α → α) (e : α) (n : Nat) (ls : List (List α)) : List α := ls.foldl (List.zipWith op) (List.replicate n e)

theorem zipWith_assoc_of_assoc (assoc : ∀ a b c, op (op a b) c = op a (op b c)) (x y z : List α) :
    List.zipWith op (List.zipWith op x y) z = List.zipWith op x (List.zipWith op y z) :=
  List.ext_getElem (by simp [min_assoc]) (by simp [assoc])

theorem zipWith_replicate_of_right_id (hid : ∀ a, op a e = a) {x : List α} {n : Nat} (h : x.length ≤ n) :
    List.zipWith op x (List.replicate n e) = x :=
  List.ext_getElem (by simp [h]) (by simp [hid])

theorem length_foldl_zipWith_le (ls : List (List α)) (z : List α) : (ls.foldl (List.zipWith op) z).length ≤ z.length := by
  induction ls generalizing z with
  | nil => exact le_rfl
  | cons x ls ih => exact (ih _).trans (by simp)

theorem zipFold_perm (comm : ∀ a b, op a b = op b a) (assoc : ∀ a b c, op (op a b) c = op a (op b c)) (n : Nat) {ls ks : List (List α)}
    (h : ls.Perm ks) : zipFold op e n ls = zipFold op e n ks :=
  h.foldl_eq' (fun x _ y _ z => by
    rw [zipWith_assoc_of_assoc assoc, List.zipWith_comm_of_comm comm (l := x), ← zipWith_assoc_of_assoc assoc]) _

/-- A fold from any list of at most `n` elements joins that list to the fold from nothing. -/
theorem foldl_zipWith_eq (assoc : ∀ a b c, op (op a b) c = op a (op b c)) (hid : ∀ a, op a e = a) {n : Nat} {z : List α} (hz : z.length ≤ n)
    (ls : List (List α)) : ls.foldl (List.zipWith op) z = List.zipWith op z (zipFold op e n ls) := by
  have : Std.Associative (List.zipWith op) := ⟨zipWith_assoc_of_assoc assoc⟩
  rw [zipFold, ← List.foldl_assoc (op := List.zipWith op), zipWith_replicate_of_right_id hid hz]

/-- Folding groups and then their results is folding all lists at once. -/
theorem zipFold_groups (assoc : ∀ a b c, op (op a b) c = op a (op b c)) (hid : ∀ a, op a e = a) (n : Nat) (gs : List (List (List α))) :
    zipFold op e n (gs.map (zipFold op e n)) = zipFold op e n gs.flatten := by
  suffices h : ∀ z : List α, z.length ≤ n → (gs.map (zipFold op e n)).foldl (List.zipWith op) z = gs.flatten.foldl (List.zipWith op) z from
    h _ (by simp)
  intro z hz
  induction gs generalizing z with
  | nil => rfl
  | cons g gs ih =>
    rw [List.map_cons, List.foldl_cons, ← foldl_zipWith_eq assoc hid hz, ih _ ((length_foldl_zipWith_le g z).trans hz),
      List.flatten_cons, List.foldl_append]

/-- Where every list has its `n` elements, each element of the fold is the fold of the elements at its place. -/
theorem zipFold_map_range {β : Type} (f : β → Nat → α) (n : Nat) (ps : List β) :
    zipFold op e n (ps.map fun p => (List.range n).map (f p)) = (List.range n).map fun i => (ps.map (f · i)).foldl op e := by
  suffices h : ∀ g : Nat → α, (ps.map fun p => (List.range n).map (f p)).foldl (List.zipWith op) ((List.range n).map g) =
      (List.range n).map fun i => (ps.map (f · i)).foldl op (g i) by
    simpa [zipFold] using h fun _ => e
  intro g
  induction ps generalizing g with
  | nil => rfl
  | cons p ps ih =>
    simp only [List.map_cons, List.foldl_cons, List.zipWith_map, List.zipWith_self]
    exact ih _
end

/-! ## Joined parts -/

theorem foldl_join_accs (ps : List SumPart) (z : SumPart) :
    (ps.foldl SumPart.join z).accs.map Acc.total = (ps.map fun p => p.accs.map Acc.total).foldl (List.zipWith Total.join) (z.accs.map Acc.total) := by
  induction ps generalizing z with
  | nil => rfl
  | cons p ps ih => simp [ih, SumPart.join, List.map_zipWith, List.zipWith_map]

theorem foldl_join_flags (ps : List SumPart) (z : SumPart) :
    (ps.foldl SumPart.join z).flags = (ps.map SumPart.flags).foldl (List.zipWith (· ||| ·)) z.flags := by
  induction ps generalizing z with
  | nil => rfl
  | cons p ps ih => simp [ih, SumPart.join]

theorem totals_joinParts (n : Nat) (ps : List SumPart) :
    (joinParts n ps).accs.map Acc.total = zipFold Total.join (Acc.total {}) n (ps.map fun p => p.accs.map Acc.total) := by
  simp [joinParts, foldl_join_accs, zipFold]

theorem flags_joinParts (n : Nat) (ps : List SumPart) : (joinParts n ps).flags = zipFold (· ||| ·) 0 n (ps.map SumPart.flags) :=
  foldl_join_flags ps _

/-- The order in which parts arrive does not change the root's sum. -/
theorem rootSum_joinParts_perm {ps qs : List SumPart} (h : ps.Perm qs) (bill : List Byte) (base n : Nat) :
    rootSum bill base (joinParts n ps) = rootSum bill base (joinParts n qs) := by
  apply rootSum_congr
  · rw [totals_joinParts, totals_joinParts, zipFold_perm Total.join_comm Total.join_assoc n (h.map _)]
  · rw [flags_joinParts, flags_joinParts, zipFold_perm Nat.or_comm Nat.or_assoc n (h.map _)]

/-- Nor do the groups in which tiers below the root have joined them. -/
theorem rootSum_joinParts_groups (gs : List (List SumPart)) (bill : List Byte) (base n : Nat) :
    rootSum bill base (joinParts n (gs.map (joinParts n))) = rootSum bill base (joinParts n gs.flatten) := by
  apply rootSum_congr
  · have := zipFold_groups Total.join_assoc Total.join_empty n (gs.map (List.map fun p => p.accs.map Acc.total))
    simpa [totals_joinParts, Function.comp_def, List.map_flatten] using this
  · have := zipFold_groups Nat.or_assoc Nat.or_zero n (gs.map (List.map SumPart.flags))
    simpa [flags_joinParts, Function.comp_def, List.map_flatten] using this

/-! ## Two's complement -/

theorem sInt_eq_toInt {n v : Nat} (hn : 0 < n) (hv : v < 2 ^ n) : sInt n v = (BitVec.ofNat n v).toInt := by
  have hmsb : (BitVec.ofNat n v).msb = v.testBit (n - 1) := by
    rw [BitVec.msb_eq_getLsbD_last, BitVec.getLsbD_ofNat]
    simp [hn]
  rw [sInt, BitVec.toInt_eq_msb_cond, hmsb, BitVec.toNat_ofNat, Nat.mod_eq_of_lt hv]
  push_cast
  rfl

theorem uInt_eq_toNat (n : Nat) (v : Int) : uInt n v = (BitVec.ofInt n v).toNat := by
  simp [uInt, BitVec.toNat_ofInt]

theorem uInt_lt (n : Nat) (v : Int) : uInt n v < 2 ^ n := by
  rw [uInt_eq_toNat]
  exact BitVec.isLt _

@[simp] theorem ofNat_uInt (n : Nat) (v : Int) : BitVec.ofNat n (uInt n v) = BitVec.ofInt n v := by
  rw [uInt_eq_toNat, BitVec.ofNat_toNat, BitVec.setWidth_eq]

/-- An integer in the range of `n + 1` bits is read back from its bits. -/
theorem toInt_ofInt_of_range {n : Nat} {v : Int} (hl : -2 ^ n ≤ v) (hu : v < 2 ^ n) : (BitVec.ofInt (n + 1) v).toInt = v := by
  rw [BitVec.toInt_ofInt]
  refine Int.bmod_eq_of_le ?_ ?_ <;> push_cast <;> rw [pow_succ] <;> omega

theorem sInt_uInt {n : Nat} {v : Int} (hl : -2 ^ n ≤ v) (hu : v < 2 ^ n) : sInt (n + 1) (uInt (n + 1) v) = v := by
  rw [sInt_eq_toInt n.succ_pos (uInt_lt _ v), ofNat_uInt, toInt_ofInt_of_range hl hu]

/-! ## Elements of a packed list -/

theorem leNat_lt (bs : List Byte) : leNat bs < 256 ^ bs.length := by
  induction bs with
  | nil => simp [leNat]
  | cons b bs ih =>
    have := b.isLt
    rw [leNat, List.length_cons, pow_succ]
    omega

theorem leBytes_succ (n v : Nat) : leBytes (n + 1) v = BitVec.ofNat 8 v :: leBytes n (v / 256) := by
  simp [leBytes, List.range_succ_eq_map, Function.comp_def, Nat.shiftRight_eq_div_pow, Nat.div_div_eq_div_mul, Nat.mul_add,
    pow_add, mul_comm (2 ^ (8 * _))]

theorem leNat_leBytes (n v : Nat) : leNat (leBytes n v) = v % 256 ^ n := by
  induction n generalizing v with
  | zero => simp [leBytes, leNat, Nat.mod_one]
  | succ n ih => simp [leBytes_succ, leNat, ih, pow_succ', Nat.mod_mul]

@[simp] theorem length_leBytes (n v : Nat) : (leBytes n v).length = n := by simp [leBytes]

@[simp] theorem length_slice (bs : List Byte) (off n : Nat) : (slice bs off n).length = n := by simp [slice]

theorem slice_append_left (bs cs : List Byte) : slice (bs ++ cs) 0 bs.length = bs :=
  List.ext_getElem (by simp) (by simp +contextual [slice, List.getElem?_append])

theorem slice_append_right (bs cs : List Byte) (off n : Nat) : slice (bs ++ cs) (bs.length + off) n = slice cs off n := by
  simp [slice, List.getElem?_append, add_assoc]

theorem slice_flatMap_leBytes (k : Nat) (cs : List Nat) {i : Nat} (hi : i < cs.length) :
    slice (cs.flatMap (leBytes k)) (i * k) k = leBytes k cs[i] := by
  induction cs generalizing i with
  | nil => simp at hi
  | cons c cs ih =>
    cases i with
    | zero => simpa using slice_append_left (leBytes k c) (cs.flatMap (leBytes k))
    | succ i =>
      rw [List.flatMap_cons, show (i + 1) * k = (leBytes k c).length + i * k by simp; ring, slice_append_right, ih (by simpa using hi)]
      rfl

theorem codeAt_lt (et : Nat) (bs : List Byte) (i : Nat) : codeAt et bs i < 256 ^ (etypeBits et / 8) := by
  simpa [codeAt, leAt] using leNat_lt (slice bs (i * (etypeBits et / 8)) (etypeBits et / 8))

theorem codeAt_packCodes (et : Nat) {cs : List Nat} {i : Nat} (hi : i < cs.length) :
    codeAt et (packCodes et cs) i = cs[i] % 256 ^ (etypeBits et / 8) := by
  rw [codeAt, leAt, packCodes, slice_flatMap_leBytes _ _ hi, leNat_leBytes]

/-! ## Flags -/

theorem testBit_foldl_or (l : List Nat) (a j : Nat) : (l.foldl (· ||| ·) a).testBit j = (a.testBit j || l.any (·.testBit j)) := by
  induction l generalizing a with
  | nil => simp
  | cons x l ih => simp [ih, Bool.or_assoc]

theorem foldl_or_and_of_mem {l : List Nat} {c : Nat} (h : c ∈ l) (a : Nat) : l.foldl (· ||| ·) a &&& c = c := by
  refine Nat.eq_of_testBit_eq fun j => ?_
  rw [Nat.testBit_and, testBit_foldl_or]
  cases hc : c.testBit j with
  | false => simp
  | true =>
    have : l.any (·.testBit j) = true := List.any_eq_true.mpr ⟨c, h, hc⟩
    rw [this, Bool.or_true, Bool.true_and]

theorem foldl_or_append_zeros (l : List Nat) {z : List Nat} (h : ∀ x ∈ z, x = 0) : (l ++ z).foldl (· ||| ·) 0 = l.foldl (· ||| ·) 0 := by
  refine Nat.eq_of_testBit_eq fun j => ?_
  have hz : z.any (·.testBit j) = false := List.any_eq_false.mpr fun x hx => by simp [h x hx]
  simp only [testBit_foldl_or, List.any_append, hz, Bool.or_false]

theorem foldl_or_eq_zero {l : List Nat} (h : ∀ x ∈ l, x = 0) : l.foldl (· ||| ·) 0 = 0 := foldl_or_append_zeros [] h

/-! ## Integer formats -/

/-- An integer ETYPE whose elements are `w` bits, in whole bytes (Table 2-3). -/
structure IntegerFormat (et w : Nat) : Prop where
  integer : 4 < et
  width : etypeBits et = w
  bytes : 256 ^ (w / 8) = 2 ^ w
  pos : 0 < w

theorem integerFormat_of_etype {et w : Nat} (h : et = 5 ∧ w = 32 ∨ et = 6 ∧ w = 64 ∨ et = 7 ∧ w = 32) : IntegerFormat et w := by
  rcases h with ⟨rfl, rfl⟩ | ⟨rfl, rfl⟩ | ⟨rfl, rfl⟩ <;> constructor <;> decide

theorem IntegerFormat.codeAt_lt {et w : Nat} (h : IntegerFormat et w) (bs : List Byte) (i : Nat) : codeAt et bs i < 2 ^ w := by
  simpa [h.width, h.bytes] using Machine.codeAt_lt et bs i

theorem IntegerFormat.toNat_codeAt {et w : Nat} (h : IntegerFormat et w) (bs : List Byte) (i : Nat) :
    (BitVec.ofNat w (codeAt et bs i)).toNat = codeAt et bs i := by
  rw [BitVec.toNat_ofNat, Nat.mod_eq_of_lt (h.codeAt_lt bs i)]

theorem IntegerFormat.sInt_codeAt {et w : Nat} (h : IntegerFormat et w) (bs : List Byte) (i : Nat) :
    sInt w (codeAt et bs i) = (BitVec.ofNat w (codeAt et bs i)).toInt :=
  sInt_eq_toInt h.pos (h.codeAt_lt bs i)

theorem IntegerFormat.codeAt_packCodes {et w : Nat} (h : IntegerFormat et w) {cs : List Nat} {i : Nat} (hi : i < cs.length)
    (hc : cs[i] < 2 ^ w) : codeAt et (packCodes et cs) i = cs[i] := by
  rw [Machine.codeAt_packCodes et hi, h.width, h.bytes, Nat.mod_eq_of_lt hc]

/-! ## Integer sums at the root (R42) -/

theorem roundInt_wrapped (n : Nat) (v : Int) : BitVec.ofNat n (roundInt n false v).1 = BitVec.ofInt n v := by
  simp [roundInt]

theorem roundInt_saturated {n : Nat} (hn : 0 < n) (v : Int) :
    (BitVec.ofNat n (roundInt n true v).1).toInt = max (-2 ^ (n - 1)) (min (2 ^ (n - 1) - 1) v) := by
  obtain ⟨k, rfl⟩ := Nat.exists_eq_succ_of_ne_zero hn.ne'
  have : (0 : Int) < 2 ^ k := by positivity
  rw [roundInt, if_pos rfl, ofNat_uInt]
  exact toInt_ofInt_of_range (n := k) (le_max_left _ _) (by simp only [Nat.succ_sub_one]; omega)

theorem roundInt_flag (n : Nat) (sat : Bool) (v : Int) :
    (roundInt n sat v).2 = if v < -2 ^ (n - 1) ∨ 2 ^ (n - 1) - 1 < v then flIOVF else 0 := by
  simp [roundInt]

theorem roundInt_lt (n : Nat) (sat : Bool) (v : Int) : (roundInt n sat v).1 < 2 ^ n := uInt_lt n _

/-- An integer result reads of each element its exact sum alone. -/
theorem rootSum_integer {b : List Byte} (h : 4 < wbOut b) (base : Nat) (p : SumPart) :
    rootSum b base p =
      let rs := (p.accs.map Acc.total).map fun t => roundInt (etypeBits (wbOut b)) (wbDesc b 20 20 == 1) ⌊t.sum⌋
      (packCodes (wbOut b) (rs.map (·.1)), (rs.map (·.2) ++ p.flags).foldl (· ||| ·) 0) := by
  have hrs : ((enum p.accs).map fun e => rootRound b (base + e.1) e.2) =
      (p.accs.map Acc.total).map fun t => roundInt (etypeBits (wbOut b)) (wbDesc b 20 20 == 1) ⌊t.sum⌋ :=
    List.ext_getElem (by simp [enum]) (by simp [enum, rootRound, h, Acc.total, Dy.toInt_eq_floor])
  simp only [rootSum, hrs]

/-- The exact sum of element `i` of raw integer parts. -/
def integerSum (et w : Nat) (ps : List (List Byte)) (i : Nat) : Int := (ps.map fun p => (BitVec.ofNat w (codeAt et p i)).toInt).sum

theorem sum_foldl_join (ts : List Total) (z : Total) : (ts.foldl Total.join z).sum = z.sum + (ts.map Total.sum).sum := by
  induction ts generalizing z with
  | nil => simp
  | cons t ts ih => simp [ih, Total.join, add_assoc]

theorem sum_total_empty : (Acc.total {}).sum = 0 := by simp [Acc.total]

theorem sum_code_integer {et : Nat} (h : 4 < et) (c : Nat) : (Acc.code et {} c).total.sum = sInt (etypeBits et) c := by
  simp [Acc.code, h.not_ge, Acc.int, Acc.total]

theorem totals_rawParts (et n : Nat) (ps : List (List Byte)) :
    (joinParts n (ps.map (rawPart et n))).accs.map Acc.total =
      (List.range n).map fun i => (ps.map fun p => (Acc.code et {} (codeAt et p i)).total).foldl Total.join (Acc.total {}) := by
  rw [totals_joinParts, ← zipFold_map_range]
  simp [rawPart, Function.comp_def]

theorem flags_rawParts (et n : Nat) (ps : List (List Byte)) : ∀ x ∈ (joinParts n (ps.map (rawPart et n))).flags, x = 0 := by
  have h : (joinParts n (ps.map (rawPart et n))).flags = (List.range n).map fun _ => (ps.map fun _ => 0).foldl (· ||| ·) 0 := by
    rw [flags_joinParts, ← zipFold_map_range]
    simp [rawPart, Function.comp_def]
  simp only [h, List.mem_map]
  rintro x ⟨_, _, rfl⟩
  exact foldl_or_eq_zero (by simp)

theorem rootSum_rawParts {b : List Byte} {et w : Nat} (hout : wbOut b = et) (h : IntegerFormat et w) (base n : Nat) (ps : List (List Byte)) :
    rootSum b base (joinParts n (ps.map (rawPart et n))) =
      let rs := (List.range n).map fun i => roundInt w (wbDesc b 20 20 == 1) (integerSum et w ps i)
      (packCodes et (rs.map (·.1)), (rs.map (·.2)).foldl (· ||| ·) 0) := by
  have hsum (i : Nat) :
      ⌊((ps.map fun p => (Acc.code et {} (codeAt et p i)).total).foldl Total.join (Acc.total {})).sum⌋ = integerSum et w ps i := by
    rw [← Int.floor_intCast (R := ℚ) (integerSum et w ps i), sum_foldl_join]
    simp [integerSum, sum_total_empty, sum_code_integer h.integer, h.width, h.sInt_codeAt, Function.comp_def]
  rw [rootSum_integer (hout ▸ h.integer), totals_rawParts, hout, h.width, List.map_map]
  simp only [Function.comp_def, hsum, foldl_or_append_zeros _ (flags_rawParts et n ps)]

/-! ## Partial elements (R47, R48, R50) -/

theorem oddPart_mul_pow (n m : Nat) : (oddPart n m).1 * 2 ^ (oddPart n m).2 = m := by
  induction n generalizing m with
  | zero => simp [oddPart]
  | succ n ih =>
    unfold oddPart
    split_ifs with h
    · rw [pow_succ, ← mul_assoc, ih]
      omega
    · simp

theorem Dy.val_canon (d : Dy) : d.canon.val = d.val := by
  have hodd := oddPart_mul_pow (Nat.log2 d.m.natAbs) d.m.natAbs
  have hm : d.m = d.canon.m * 2 ^ (oddPart (Nat.log2 d.m.natAbs) d.m.natAbs).2 := by
    zify at hodd
    unfold Dy.canon
    split_ifs with h
    · rw [neg_mul, hodd, abs_of_neg h, neg_neg]
    · rw [hodd, abs_of_nonneg (not_lt.mp h)]
  rw [Dy.val, Dy.val, hm]
  simp [Dy.canon, zpow_add₀, mul_comm, mul_assoc]

/-- A finite XP64 element is read back with its significand and scale. -/
theorem readXp64_finite {m e : Int} (hm : -2 ^ 47 ≤ m ∧ m < 2 ^ 47) (he : -32767 ≤ e ∧ e ≤ 32767) :
    readXp64 (uInt 48 m * 65536 + uInt 16 e) = some { negZero := false, sum := ⟨m, e⟩ } := by
  obtain ⟨hml, hmu⟩ := hm
  obtain ⟨hel, heu⟩ := he
  have hlt := uInt_lt 16 e
  have hsm : sInt 48 (uInt 48 m) = m := sInt_uInt (n := 47) hml hmu
  have hse : sInt 16 (uInt 16 e) = e := sInt_uInt (n := 15) (by omega) (by omega)
  have hdiv : (uInt 48 m * 65536 + uInt 16 e) / 65536 = uInt 48 m := by omega
  have hmod : (uInt 48 m * 65536 + uInt 16 e) % 65536 = uInt 16 e := by omega
  have hscale : uInt 16 e ≠ 0x8000 := by
    intro h
    rw [h, show sInt 16 0x8000 = -32768 by decide] at hse
    omega
  simp [readXp64, hdiv, hmod, hscale, hsm, hse]

theorem round_of_nan {a : Acc} (h : (a.nan || a.pinf && a.ninf) = true) (f : Fmt) (mode : RMode) : (a.round f mode).1 = nanCode f := by
  cases hn : a.nan <;> simp_all [Acc.round]

/-! ## MIN, MAX and bitwise reductions of integers (R43) -/

/-- The number that MIN and MAX compare an integer code by. -/
def codeOrder (et c : Nat) : Int := if et = 7 then c else sInt (etypeBits et) c

theorem redStep_min {et : Nat} (h : 4 < et) (a b : Nat) : redStep et 1 a b = (if codeOrder et a < codeOrder et b then a else b, 0) := by
  by_cases h7 : et = 7 <;> simp [redStep, codeOrder, h.not_ge, h7]

theorem redStep_max {et : Nat} (h : 4 < et) (a b : Nat) : redStep et 2 a b = (if codeOrder et a < codeOrder et b then b else a, 0) := by
  by_cases h7 : et = 7 <;> simp [redStep, codeOrder, h.not_ge, h7]

theorem redStep_flags {et : Nat} (h : 4 < et) (op a b : Nat) : (redStep et op a b).2 = 0 := by
  simp only [redStep, if_neg h.not_ge]
  split_ifs <;> rfl

theorem foldl_redStep {et : Nat} (h : 4 < et) (op : Nat) (cs : List Nat) (c : Nat) :
    cs.foldl (fun (a : Nat × Nat) x => ((redStep et op a.1 x).1, a.2 ||| (redStep et op a.1 x).2)) (c, 0) =
      (cs.foldl (fun a x => (redStep et op a x).1) c, 0) := by
  induction cs generalizing c with
  | nil => rfl
  | cons x cs ih => simpa [redStep_flags h] using ih _

/-- An integer reduction folds its step over the codes of the parts, and raises no flag. -/
theorem getElem?_reduceCodes {b : List Byte} (h : 4 < wbIn b) {i n : Nat} (hi : i < n) (p : List Byte) (ps : List (List Byte)) :
    (reduceCodes b n (p :: ps))[i]? =
      some ((ps.map fun q => codeAt (wbIn b) q i).foldl (fun a x => (redStep (wbIn b) (wbRedop b) a x).1) (codeAt (wbIn b) p i), 0) := by
  simp only [reduceCodes, List.getElem?_map, List.getElem?_range hi, Option.map_some, List.map_cons]
  rw [if_neg (by omega), foldl_redStep h]

/-- A fold that keeps, of two values, one with the smaller key gives a member whose key no other's lies below. -/
theorem foldl_select_least {α : Type} {sel : α → α → α} {key : α → Int}
    (hsel : ∀ a x, sel a x = a ∧ key a ≤ key x ∨ sel a x = x ∧ key x ≤ key a) (cs : List α) (c : α) :
    cs.foldl sel c ∈ c :: cs ∧ ∀ x ∈ c :: cs, key (cs.foldl sel c) ≤ key x := by
  induction cs generalizing c with
  | nil => simp
  | cons d cs ih =>
    obtain ⟨hmem, hle⟩ := ih (sel c d)
    have hhead : key (cs.foldl sel (sel c d)) ≤ key (sel c d) := hle _ List.mem_cons_self
    have htail (x) (hx : x ∈ cs) : key (cs.foldl sel (sel c d)) ≤ key x := hle x (List.mem_cons_of_mem _ hx)
    simp only [List.foldl_cons, List.mem_cons, forall_eq_or_imp] at hmem ⊢
    rcases hsel c d with ⟨heq, hcd⟩ | ⟨heq, hcd⟩ <;> rw [heq] at hmem hhead htail ⊢
    · exact ⟨by tauto, hhead, hhead.trans hcd, htail⟩
    · exact ⟨by tauto, hhead.trans hcd, hhead, htail⟩

theorem foldl_min_least {et : Nat} (h : 4 < et) (cs : List Nat) (c : Nat) :
    cs.foldl (fun a x => (redStep et 1 a x).1) c ∈ c :: cs ∧
      ∀ x ∈ c :: cs, codeOrder et (cs.foldl (fun a x => (redStep et 1 a x).1) c) ≤ codeOrder et x := by
  refine foldl_select_least (key := codeOrder et) (fun a x => ?_) cs c
  rw [redStep_min h]
  split_ifs with hlt
  · exact .inl ⟨rfl, hlt.le⟩
  · exact .inr ⟨rfl, not_lt.mp hlt⟩

theorem foldl_max_greatest {et : Nat} (h : 4 < et) (cs : List Nat) (c : Nat) :
    cs.foldl (fun a x => (redStep et 2 a x).1) c ∈ c :: cs ∧
      ∀ x ∈ c :: cs, codeOrder et x ≤ codeOrder et (cs.foldl (fun a x => (redStep et 2 a x).1) c) := by
  simp only [← neg_le_neg_iff (a := codeOrder et _)]
  refine foldl_select_least (key := fun a => -codeOrder et a) (fun a x => ?_) cs c
  rw [redStep_max h]
  split_ifs with hlt
  · exact .inr ⟨rfl, neg_le_neg hlt.le⟩
  · exact .inl ⟨rfl, neg_le_neg (not_lt.mp hlt)⟩

theorem exists_extreme_of_map {α β : Type} {f : α → β} (R : β → β → Prop) {r : β} {l : List α}
    (h : r ∈ l.map f ∧ ∀ x ∈ l.map f, R r x) : ∃ q ∈ l, r = f q ∧ ∀ x ∈ l, R (f q) (f x) := by
  obtain ⟨hmem, hR⟩ := h
  obtain ⟨q, hq, rfl⟩ := List.mem_map.mp hmem
  exact ⟨q, hq, rfl, fun x hx => hR _ (List.mem_map_of_mem hx)⟩

theorem signed_le_of_codeOrder {et w : Nat} (h : IntegerFormat et w) (h7 : et ≠ 7) {p q : List Byte} {i : Nat}
    (hle : codeOrder et (codeAt et p i) ≤ codeOrder et (codeAt et q i)) :
    (BitVec.ofNat w (codeAt et p i)).toInt ≤ (BitVec.ofNat w (codeAt et q i)).toInt := by
  simpa only [codeOrder, if_neg h7, h.width, h.sInt_codeAt] using hle

theorem unsigned_le_of_codeOrder {et w : Nat} (h : IntegerFormat et w) (h7 : et = 7) {p q : List Byte} {i : Nat}
    (hle : codeOrder et (codeAt et p i) ≤ codeOrder et (codeAt et q i)) :
    (BitVec.ofNat w (codeAt et p i)).toNat ≤ (BitVec.ofNat w (codeAt et q i)).toNat := by
  simpa only [codeOrder, if_pos h7, h.toNat_codeAt, Int.ofNat_le] using hle

/-- A bitwise step on codes is that operation on words, over any number of parts. -/
theorem ofNat_foldl_redStep {et op w : Nat} {g : BitVec w → BitVec w → BitVec w}
    (h : ∀ a x, BitVec.ofNat w (redStep et op a x).1 = g (BitVec.ofNat w a) (BitVec.ofNat w x)) (p : List Byte) (ps : List (List Byte)) (i : Nat) :
    BitVec.ofNat w ((ps.map fun q => codeAt et q i).foldl (fun a x => (redStep et op a x).1) (codeAt et p i)) =
      ps.foldl (fun a q => g a (BitVec.ofNat w (codeAt et q i))) (BitVec.ofNat w (codeAt et p i)) := by
  rw [List.foldl_map]
  exact (List.foldl_hom (BitVec.ofNat w) fun a q => (h a _).symm).symm

end Sys2Proof.Machine

namespace Sys2Proof
open Sys2Proof.Machine

/-- Settles O42: the sum and its flags read only totals, whose join is commutative and associative. -/
theorem sumsDoNotDependOnArrival : Obligations.SumsDoNotDependOnArrival := by
  intro b base n
  refine ⟨fun ps qs h => rootSum_joinParts_perm h b base n, fun ps qs _ => ?_⟩
  simpa using rootSum_joinParts_groups [ps, qs] b base n

theorem integerSums : Claims.IntegerSums := by
  rintro b et w base n groups hf - hout r rfl
  have h := integerFormat_of_etype (hf.imp_right .inl)
  have hgroups : (groups.map fun g => joinParts n (g.map (rawPart et n))) = (groups.map (List.map (rawPart et n))).map (joinParts n) := by simp
  rw [hgroups, rootSum_joinParts_groups, ← List.map_flatten, rootSum_rawParts hout h]
  set R : Nat → Nat × Nat := fun i => roundInt w (wbDesc b 20 20 == 1) (integerSum et w groups.flatten i) with hR
  have hcode (i : Nat) (hi : i < n) : codeAt et (packCodes et (((List.range n).map R).map (·.1))) i = (R i).1 := by
    simpa using h.codeAt_packCodes (cs := ((List.range n).map R).map (·.1)) (by simpa using hi) (by simpa using roundInt_lt w _ _)
  refine ⟨fun i hi total htotal => ?_, fun hrange => foldl_or_eq_zero ?_⟩
  · obtain rfl : total = integerSum et w groups.flatten i := htotal
    simp only [hcode i hi]
    refine ⟨fun hwrap => ?_, fun hsat => ?_, fun hover => foldl_or_and_of_mem ?_ 0⟩
    · simp [hR, hwrap, roundInt_wrapped]
    · simp [hR, hsat, roundInt_saturated h.pos]
    · have hflag : (R i).2 = flIOVF := by rw [hR, roundInt_flag, if_pos hover]
      exact List.mem_map.mpr ⟨R i, List.mem_map_of_mem (List.mem_range.mpr hi), hflag⟩
  · simp only [List.map_map, List.mem_map, List.mem_range, Function.comp_apply]
    rintro _ ⟨i, hi, rfl⟩
    obtain ⟨hl, hu⟩ := hrange i hi (integerSum et w groups.flatten i) rfl
    rw [hR, roundInt_flag, if_neg (not_or.mpr ⟨hl.not_gt, hu.not_gt⟩)]

theorem partialsAreExact : Claims.PartialsAreExact := by
  intro a ha
  simp only [emit] at ha ⊢
  -- The branches of `emit`: NaN, +Inf, -Inf, -0, +0, and a finite sum whose canonical form fits.
  split_ifs at ha ⊢ with hnan hp hn h0 hz hfit
  · exact ⟨by decide, _, rfl, fun f mode => by rw [round_of_nan hnan, round_of_nan rfl]⟩
  · exact ⟨by decide, _, rfl, fun f mode => by simp_all [Acc.round]⟩
  · exact ⟨by decide, _, rfl, fun f mode => by simp_all [Acc.round]⟩
  · exact ⟨by decide, _, rfl, fun f mode => by simp_all [Acc.round]⟩
  · exact ⟨by decide, { negZero := false }, rfl, fun f mode => by simp_all [Acc.round]⟩
  · have hm := uInt_lt 48 a.sum.canon.m
    have he := uInt_lt 16 a.sum.canon.e
    refine ⟨by simp only; omega, _, readXp64_finite ⟨hfit.1, hfit.2.1⟩ hfit.2.2, fun f mode => ?_⟩
    have hc : a.sum.canon.m ≠ 0 := by rwa [Ne, ← Dy.val_eq_zero, Dy.val_canon, Dy.val_eq_zero]
    simp_all [Acc.round, roundDy_congr a.sum.val_canon hc]

/-- Settles O43: `integerSums` for the sums at the root, `partialsAreExact` for the XP64 words of the tiers below. -/
theorem exactSums : Obligations.ExactSums := ⟨integerSums, partialsAreExact⟩

/-- Settles O44: a fold of selecting steps ends in an extreme addend, and each bitwise step is the words' own operation. -/
theorem minMaxAndBitwise : Obligations.MinMaxAndBitwise := by
  rintro b et w n p ps hf rfl i hi v hv
  have h := integerFormat_of_etype hf
  obtain rfl : v = fun q => BitVec.ofNat w (codeAt (wbIn b) q i) := funext hv
  refine ⟨_, getElem?_reduceCodes h.integer hi p ps, ?_, fun hop => ?_, fun hop => ?_, fun hop => ?_⟩
  · rintro (hop | hop) <;> simp only [hop]
    · obtain ⟨q, hq, hr, hle⟩ := exists_extreme_of_map (fun r x => codeOrder (wbIn b) r ≤ codeOrder (wbIn b) x) (l := p :: ps)
        (foldl_min_least h.integer _ _)
      exact ⟨q, hq, by rw [hr], fun _ h7 x hx => signed_le_of_codeOrder h h7 (hle x hx), by simp,
        fun _ h7 x hx => unsigned_le_of_codeOrder h h7 (hle x hx), by simp⟩
    · obtain ⟨q, hq, hr, hle⟩ := exists_extreme_of_map (fun r x => codeOrder (wbIn b) x ≤ codeOrder (wbIn b) r) (l := p :: ps)
        (foldl_max_greatest h.integer _ _)
      exact ⟨q, hq, by rw [hr], by simp, fun _ h7 x hx => signed_le_of_codeOrder h h7 (hle x hx), by simp,
        fun _ h7 x hx => unsigned_le_of_codeOrder h h7 (hle x hx)⟩
  · rw [hop, ofNat_foldl_redStep (g := (· &&& ·)) fun a x => BitVec.ofNat_and]
  · rw [hop, ofNat_foldl_redStep (g := (· ||| ·)) fun a x => BitVec.ofNat_or]
  · rw [hop, ofNat_foldl_redStep (g := (· ^^^ ·)) fun a x => BitVec.ofNat_xor]

end Sys2Proof

/-! # Collectives and movements: O45 to O47

A packet that reaches a slot, a plot or the update path changes few fields of the state. `Sends`, `Logs` and `Emits` say of an operation
that it only lodges packets, only writes entries, or only sends chunks; with the equations of `sendCol`, a node's state and a binding,
each command then comes to a state that is written out. -/

namespace Sys2Proof.Machine
open Sys2Proof Sys2Proof.Laws

/-! ## Bytes of payloads and packets -/

@[simp] theorem length_pack (n : Nat) (fs : List (Nat × Nat × Nat)) : (pack n fs).length = n := by simp [pack]

theorem leAt_lt (bs : List Byte) (off n : Nat) : leAt bs off n < 256 ^ n := by
  simpa [leAt] using leNat_lt (slice bs off n)

theorem toNat_ofNat_leAt (bs : List Byte) (off : Nat) : (BitVec.ofNat 16 (leAt bs off 2)).toNat = leAt bs off 2 :=
  (BitVec.toNat_ofNat ..).trans (Nat.mod_eq_of_lt (leAt_lt bs off 2))

/-- The first field of a packed list reads back. -/
@[simp] theorem leAt_pack_head {n off w : Nat} (hn : off + w ≤ n) (v : Nat) (fs : List (Nat × Nat × Nat)) :
    leAt (pack n ((off, w, v) :: fs)) off w = v % 256 ^ w := by
  have hs : slice (pack n ((off, w, v) :: fs)) off w = leBytes w v := by
    refine List.ext_getElem (by simp) fun i hi _ => ?_
    simp only [length_slice] at hi
    have hin : off + i < n := by omega
    simp [slice, leBytes, pack, hin, hi]
  rw [leAt, hs, leNat_leBytes]

/-- A field that lies beside the bytes read does not change them. -/
theorem leAt_pack_skip {off w o k : Nat} (h : off + w ≤ o ∨ o + k ≤ off) (n v : Nat) (fs : List (Nat × Nat × Nat)) :
    leAt (pack n ((o, k, v) :: fs)) off w = leAt (pack n fs) off w := by
  unfold leAt slice
  congr 1
  refine List.map_congr_left fun i hi => ?_
  have hout : (decide (o ≤ off + i) && decide (off + i < o + k)) = false := by have := List.mem_range.mp hi; simp; omega
  by_cases hin : off + i < n
  · simp [pack, hin, List.find?_cons, hout]
  · simp [pack, hin]

section
variable (src dst : Addr) (vl : BitVec 4) (op : BitVec 5) (seq fcid epoch : Word) (payload : List Byte)

@[simp] theorem mkPkt_fcid : (mkPkt src dst vl op seq fcid epoch payload).fcid = fcid := rfl

/-- A payload of whole words is sent as it is. -/
@[simp] theorem mkPkt_payload (h : payload.length % 4 = 0) : (mkPkt src dst vl op seq fcid epoch payload).payload = payload := by
  simp [mkPkt, h]

end

theorem length_mod_of_whole {p : Pkt} (h : p.whole) : p.payload.length % 4 = 0 := by
  rw [show p.payload.length = 4 * p.len.toNat from h]
  exact Nat.mul_mod_right ..

theorem length_outcomeBytes (coll idx status flags fault range chunks crop headland : Nat) :
    (outcomeBytes coll idx status flags fault range chunks crop headland).length = 32 := by simp [outcomeBytes]

theorem outcomeBytes_status (coll idx status flags fault range chunks crop headland : Nat) :
    leAt (outcomeBytes coll idx status flags fault range chunks crop headland) 6 1 = status % 256 := by
  simp [outcomeBytes, leAt_pack_skip]

theorem outcomeBytes_fault (coll idx status flags fault range chunks crop headland : Nat) :
    leAt (outcomeBytes coll idx status flags fault range chunks crop headland) 8 2 = fault % 65536 := by
  simp [outcomeBytes, leAt_pack_skip]

/-! ## Packets and entries that leave the rest of the state as it is -/

/-- A relation of states that holds along a chain holds along a fold whose every step it is. -/
theorem foldl_of_step {α : Type*} {R : State → State → Prop} (refl : ∀ s, R s s) (trans : ∀ {s t u}, R s t → R t u → R s u)
    {f : State → α → State} (step : ∀ s a, R s (f s a)) (l : List α) (s : State) : R s (l.foldl f s) := by
  induction l generalizing s with
  | nil => exact refl s
  | cons a l ih => exact trans (step s a) (ih _)

/-- A packet of the device on VL7, as it is lodged. -/
def colLodged (s : State) (unit : Nat) (dst : Addr) (op : BitVec 5) (seq coll : Nat) (payload : List Byte) : Lodged :=
  { port := none, unit, vl := 7,
    p := mkPkt (ownAddr s) dst 7 op (BitVec.ofNat 32 seq) (BitVec.ofNat 32 coll) s.fault.epochMax payload }

section
variable (s : State) (unit : Nat) (dst : Addr) (op : BitVec 5) (seq coll : Nat) (payload : List Byte)

@[simp] theorem colLodged_dst : (colLodged s unit dst op seq coll payload).p.dst = dst := rfl
@[simp] theorem colLodged_op : (colLodged s unit dst op seq coll payload).p.op = op := rfl

@[simp] theorem colLodged_fcid (fcid : Word) : (colLodged s unit dst op seq fcid.toNat payload).p.fcid = fcid := by simp [colLodged]

@[simp] theorem colLodged_payload (h : payload.length % 4 = 0) : (colLodged s unit dst op seq coll payload).p.payload = payload :=
  mkPkt_payload _ _ _ _ _ _ _ _ h

end

/-- More packets lodged. -/
def withLodged (s : State) (ls : List Lodged) : State := { s with ingress := s.ingress ++ ls }

@[simp] theorem withLodged_fields (s : State) (ls : List Lodged) :
    (withLodged s ls).ingress = s.ingress ++ ls ∧ (withLodged s ls).delivered = s.delivered ∧ (withLodged s ls).coll = s.coll ∧
    (withLodged s ls).plots = s.plots ∧ (withLodged s ls).plan = s.plan ∧ (withLodged s ls).gran = s.gran ∧
    (withLodged s ls).fault = s.fault ∧ (withLodged s ls).host = s.host ∧ (withLodged s ls).hedge = s.hedge ∧
    (withLodged s ls).ports = s.ports ∧ (withLodged s ls).route = s.route := by and_intros <;> rfl

@[simp] theorem taken_fields (s : State) (p : Pkt) :
    (taken s p).ingress = s.ingress ∧ (taken s p).delivered = s.delivered.eraseP (fun d => d.p == p) ∧ (taken s p).coll = s.coll ∧
    (taken s p).plots = s.plots ∧ (taken s p).plan = s.plan ∧ (taken s p).gran = s.gran ∧ (taken s p).fault = s.fault ∧
    (taken s p).host = s.host ∧ (taken s p).hedge = s.hedge ∧ (taken s p).ports = s.ports ∧ (taken s p).route = s.route := by
  and_intros <;> rfl

theorem sendCol_eq (s : State) (unit : Nat) (dst : Addr) (op : BitVec 5) (seq coll : Nat) (payload : List Byte) :
    sendCol s unit dst op seq coll payload = withLodged s [colLodged s unit dst op seq coll payload] := rfl

/-- One packet for each element of a list, in order. -/
theorem foldl_sendCol {α : Type*} (unit : Nat) (dst : α → Addr) (op : BitVec 5) (seq coll : Nat) (payload : α → List Byte) (l : List α)
    (s : State) : l.foldl (fun s x => sendCol s unit (dst x) op seq coll (payload x)) s =
      withLodged s (l.map fun x => colLodged s unit (dst x) op seq coll (payload x)) := by
  induction l generalizing s with
  | nil => simp [withLodged]
  | cons x l ih =>
    rw [List.foldl_cons, ih, List.map_cons, withLodged, withLodged, List.append_cons s.ingress]
    rfl

/-- `t` is `s` with more packets lodged, each with the property `P`. -/
def Sends (P : Lodged → Prop) (s t : State) : Prop := ∃ ls, (∀ l ∈ ls, P l) ∧ t = withLodged s ls

section
variable {P : Lodged → Prop} {s t u : State}

theorem Sends.refl (s : State) : Sends P s s := ⟨[], by simp, by simp [withLodged]⟩

theorem Sends.trans (h : Sends P s t) (k : Sends P t u) : Sends P s u := by
  obtain ⟨ls, hls, rfl⟩ := h
  obtain ⟨ms, hms, rfl⟩ := k
  exact ⟨ls ++ ms, fun l hl => (List.mem_append.mp hl).elim (hls l) (hms l), by simp [withLodged]⟩

theorem Sends.foldl {α : Type*} {f : State → α → State} (step : ∀ s a, Sends P s (f s a)) (l : List α) (s : State) :
    Sends P s (l.foldl f s) := foldl_of_step Sends.refl Sends.trans step l s

theorem sends_sendCol {unit seq coll : Nat} {dst : Addr} {op : BitVec 5} {payload : List Byte}
    (h : P (colLodged s unit dst op seq coll payload)) : Sends P s (sendCol s unit dst op seq coll payload) :=
  ⟨[_], by simpa using h, sendCol_eq ..⟩

end

/-- `t` is `s` with more written in its tally and to the Steward. -/
def Logs (s t : State) : Prop := ∃ host stew, t = { s with host, stew }

section
variable {s t u : State}

theorem Logs.refl (s : State) : Logs s s := ⟨s.host, s.stew, rfl⟩

theorem Logs.trans (h : Logs s t) (k : Logs t u) : Logs s u := by
  obtain ⟨_, _, rfl⟩ := h
  obtain ⟨_, _, rfl⟩ := k
  exact ⟨_, _, rfl⟩

theorem Logs.foldl {α : Type*} {f : State → α → State} (step : ∀ s a, Logs s (f s a)) (l : List α) (s : State) :
    Logs s (l.foldl f s) := foldl_of_step Logs.refl Logs.trans step l s

theorem tally_logs (s : State) (e : Entry) : Logs s (tally s e) := by
  unfold tally
  dsimp only
  split
  · split
    · exact ⟨_, _, rfl⟩
    · exact ⟨_, s.stew, rfl⟩
  · exact ⟨_, s.stew, rfl⟩

theorem lagEntries_logs (s : State) (r : NodeRec) : Logs s (lagEntries s r) := by
  unfold lagEntries
  refine Logs.foldl (fun s k => Logs.foldl (fun s b => ?_) _ s) _ s
  dsimp only
  split
  · exact tally_logs ..
  · exact Logs.refl s

end

/-- `t` is `s` with packets lodged and chunks and credits accounted. -/
def Emits (s t : State) : Prop := ∃ ingress coll, t = { s with ingress, coll }

section
variable {s t u : State}

theorem Emits.refl (s : State) : Emits s s := ⟨s.ingress, s.coll, rfl⟩

theorem Emits.trans (h : Emits s t) (k : Emits t u) : Emits s u := by
  obtain ⟨_, _, rfl⟩ := h
  obtain ⟨_, _, rfl⟩ := k
  exact ⟨_, _, rfl⟩

theorem Emits.foldl {α : Type*} {f : State → α → State} (step : ∀ s a, Emits s (f s a)) (l : List α) (s : State) :
    Emits s (l.foldl f s) := foldl_of_step Emits.refl Emits.trans step l s

theorem sendChunk_emits (s : State) (o : OutChunk) : Emits s (sendChunk s o) := by
  unfold sendChunk
  split
  · exact ⟨s.ingress, _, rfl⟩
  · unfold spendChunk
    refine .trans (.trans ?_ (Emits.foldl (fun s k => ⟨_, s.coll, rfl⟩) _ _)) (Emits.foldl (fun s k => ⟨_, s.coll, rfl⟩) _ _)
    split
    · exact Emits.refl s
    · exact ⟨s.ingress, _, rfl⟩

end

/-! ## What a node reads, and its state -/

section
variable {s t : State}

theorem parentOf_congr (h : t.plan = s.plan) : parentOf t = parentOf s := by
  cases s; cases t; subst h; rfl

/-- R94's check reads the plan, the hedges, the ports and the signposts that failed. -/
theorem memberHedged_congr (hp : t.plan = s.plan) (hh : t.hedge = s.hedge) (ho : t.ports = s.ports) (hr : t.route = s.route) :
    memberHedged t = memberHedged s := by
  cases s; cases t; subst hp hh ho hr; rfl

theorem nodeSt_congr (h : t.coll.nodes = s.coll.nodes) : nodeSt t = nodeSt s := by
  funext k; rw [nodeSt, h, nodeSt]

@[simp] theorem nodeSt_modNode (s : State) (k : Nat) (f : Node → Node) : nodeSt (modNode s k f) k = f (nodeSt s k) := tab_get_upd ..

@[simp] theorem nodeSt_taken (s : State) (p : Pkt) : nodeSt (taken s p) = nodeSt s := rfl

theorem not_isRoot_of_parentOf {f : Nat} {n m : NodeRec} (h : parentOf s f n = some m) : n.isRoot = false := by
  unfold parentOf at h
  split at h
  · cases h
  · simpa using ‹¬ n.isRoot = true›

theorem parentOf_of_isRoot {f : Nat} {n : NodeRec} (h : n.isRoot = true) : parentOf s f n = none := by simp [parentOf, h]

theorem exists_parentOf_of_fromParent {f : Nat} {n : NodeRec} {src : Addr} (h : fromParent s f n src = true) :
    ∃ m, parentOf s f n = some m := by
  cases hm : parentOf s f n with
  | none => simp [fromParent, hm] at h
  | some m => exact ⟨m, rfl⟩

end

theorem posBefore_irrefl (p : Nat × Nat) : posBefore p p = false := by simp [posBefore]

/-- The next entry of a furrow lies after the one it follows. -/
theorem posBefore_seekPos (s : State) (f h i : Nat) : posBefore (h, i) (seekPos s f h (i + 1)) = true := by
  unfold seekPos
  split
  · next e he =>
    have : i + 1 ≤ e.1 := by simpa using List.find?_some he
    simp only [posBefore, lt_self_iff_false, decide_false, BEq.rfl, Bool.true_and, Bool.false_or, decide_eq_true_eq]
    omega
  · simp [posBefore]

theorem nextPos_succ_nil (s : State) (f k : Nat) (p : Nat × Nat) : nextPos s f [] (k + 1) p = seekPos s f p.1 (p.2 + 1) := by
  simp [nextPos]

/-! ## A node that has nothing more to take up -/

section
variable {s : State} {f : Nat} {n : NodeRec}

theorem memberLost_of_unhedged (h : memberHedged s f n = false) : memberLost s f n = s := by
  unfold memberLost
  dsimp only
  split
  · rfl
  · simp [h]

theorem memberLost_of_served_nil (h : served (nodeSt s n.lead) = []) : memberLost s f n = s := by simp [memberLost, h]

/-- The tally round runs at a root, and once. -/
theorem tallyRound_of_done (h : n.isRoot = false ∨ (nodeSt s n.lead).granted = true) : tallyRound s f n = s := by
  unfold tallyRound
  dsimp only
  split
  · rfl
  · rcases h with h | h <;> simp [h]

theorem tallyRound_of_served_nil (h : served (nodeSt s n.lead) = []) : tallyRound s f n = s := by
  simp [tallyRound, ordered, h]

theorem serveNext_self (hl : memberLost s f n = s) (ht : tallyRound s f n = s) (k : Nat) : serveNext k s f n = s := by
  cases k with
  | zero => rfl
  | succ k => simp [serveNext, hl, ht]

/-- Below the root, or once the grants are out, a node without a hedged member stays as it is. -/
theorem serveNext_of_done (hh : memberHedged s f n = false) (hd : n.isRoot = false ∨ (nodeSt s n.lead).granted = true) (k : Nat) :
    serveNext k s f n = s := serveNext_self (memberLost_of_unhedged hh) (tallyRound_of_done hd) k

/-- A node that holds no waybill of its position stays as it is. -/
theorem serveNext_of_served_nil (h : served (nodeSt s n.lead) = []) (k : Nat) : serveNext k s f n = s :=
  serveNext_self (memberLost_of_served_nil h) (tallyRound_of_served_nil h) k

end
end Sys2Proof.Machine

namespace Sys2Proof.Machine
open Sys2Proof Sys2Proof.Laws

/-! ## Aborts and outcomes -/

/-- The request that `abortTo` lodges. -/
def abortLodged (s : State) (unit dev coll i range : Nat) (code : Half) : Lodged :=
  colLodged s unit (addr dev 0) pColAbort 0 coll (pack 8 [(0, 2, code.toNat), (2, 2, i), (4, 2, range)])

theorem abortTo_eq (s : State) (unit dev coll i range : Nat) (code : Half) :
    abortTo s unit dev coll i range code = withLodged s [abortLodged s unit dev coll i range code] := rfl

theorem abortTo_sends (s : State) (unit dev coll i range : Nat) (code : Half) :
    Sends (fun _ => True) s (abortTo s unit dev coll i range code) := ⟨_, by simp, abortTo_eq ..⟩

theorem abortLodged_payload (s : State) (unit dev coll i range : Nat) (code : Half) :
    (abortLodged s unit dev coll i range code).p.payload = pack 8 [(0, 2, code.toNat), (2, 2, i), (4, 2, range)] := by
  simp [abortLodged]

theorem abortLodged_code (s : State) (unit dev coll i range : Nat) (code : Half) :
    leAt (abortLodged s unit dev coll i range code).p.payload 0 2 = code.toNat := by
  rw [abortLodged_payload, leAt_pack_head (by norm_num)]
  exact Nat.mod_eq_of_lt code.isLt

theorem abortLodged_idx (s : State) (unit dev coll range : Nat) {i : Nat} (code : Half) (hi : i < 65536) :
    leAt (abortLodged s unit dev coll i range code).p.payload 2 2 = i := by
  rw [abortLodged_payload, leAt_pack_skip (by norm_num), leAt_pack_head (by norm_num)]
  omega

/-- Below the root a node sends its request to its parent, then one to the root of every other range. -/
theorem nodeAbort_below {s : State} {f : Nat} {n m : NodeRec} (hm : parentOf s f n = some m) (h i coll : Nat) (code : Half) :
    ∃ ls, nodeAbort s f n h i coll code =
      withLodged s (abortLodged s (slotUnit n.lead) m.device coll i n.range code :: ls) := by
  obtain ⟨ls, -, hls⟩ := Sends.foldl (fun s (r : NodeRec) => abortTo_sends s (slotUnit n.lead) r.device coll i r.range code)
    ((rootsOf s f).filter fun r => r.range != n.range) (abortTo s (slotUnit n.lead) m.device coll i n.range code)
  refine ⟨ls, ?_⟩
  unfold nodeAbort
  simp only [hm]
  exact hls.trans (by simp [abortTo_eq, withLodged])

/-- An outcome of this status and fault. -/
def isOutcome (status : Nat) (code : Half) (l : Lodged) : Prop :=
  l.p.op = pColOutcome ∧ leAt l.p.payload 6 1 = status ∧ leAt l.p.payload 8 2 = code.toNat

theorem sendCol_isOutcome (s : State) (unit : Nat) (dst : Addr) (coll idx flags range chunks crop headland : Nat) {status : Nat}
    (hs : status < 256) (code : Half) : Sends (isOutcome status code) s
      (sendCol s unit dst pColOutcome 0 coll (outcomeBytes coll idx status flags code.toNat range chunks crop headland)) := by
  refine sends_sendCol ⟨rfl, ?_, ?_⟩ <;> simp only [colLodged_payload, length_outcomeBytes, outcomeBytes_status, outcomeBytes_fault]
  · exact Nat.mod_eq_of_lt hs
  · exact Nat.mod_eq_of_lt code.isLt

/-- A root's outcome is packets of its status and fault, then one entry. -/
theorem sendOutcome_sends (s : State) (f : Nat) (n : NodeRec) (coll idx h half : Nat) {status : Nat} (hs : status < 256) (code : Half) :
    ∃ t e, Sends (isOutcome status code) s t ∧ sendOutcome s f n coll idx h half status code = tally t e := by
  unfold sendOutcome
  extract_lets st cd done crop noCrop flags sink s1 ord s2 s3
  have h1 : Sends (isOutcome status code) s s1 := by
    refine Sends.foldl (fun s ord => ?_) _ s
    split
    · exact sendCol_isOutcome _ _ _ _ _ _ _ _ _ _ hs code
    · exact Sends.refl s
  have h2 : Sends (isOutcome status code) s1 s2 := by
    simp only [s2]
    split
    · exact sendCol_isOutcome _ _ _ _ _ _ _ _ _ _ hs code
    · exact Sends.refl s1
  have h3 : Sends (isOutcome status code) s2 s3 := Sends.foldl (fun s c => sendCol_isOutcome _ _ _ _ _ _ _ _ _ _ hs code) _ s2
  exact ⟨s3, _, (h1.trans h2).trans h3, rfl⟩

theorem sendOutcome_coll (s : State) (f : Nat) (n : NodeRec) (coll idx h half : Nat) {status : Nat} (hs : status < 256) (code : Half) :
    (sendOutcome s f n coll idx h half status code).coll = s.coll := by
  obtain ⟨t, e, ⟨ls, -, rfl⟩, he⟩ := sendOutcome_sends s f n coll idx h half hs code
  simp [he]

@[simp] theorem lagEntries_fields (s : State) (r : NodeRec) :
    (lagEntries s r).ingress = s.ingress ∧ (lagEntries s r).delivered = s.delivered ∧ (lagEntries s r).coll = s.coll ∧
    (lagEntries s r).plan = s.plan ∧ (lagEntries s r).gran = s.gran ∧ (lagEntries s r).hedge = s.hedge ∧
    (lagEntries s r).ports = s.ports ∧ (lagEntries s r).route = s.route := by
  obtain ⟨_, _, h⟩ := lagEntries_logs s r
  simp [h]

/-! ## Fences (R90) -/

/-- An abort at a root leaves every fence as it is. -/
theorem abortAt_fenced (s : State) (f : Nat) (n : NodeRec) (h i : Nat) (code : Half) :
    (abortAt s f n h i code).coll.fenced = s.coll.fenced := by
  unfold abortAt
  dsimp only
  split
  · rfl
  · split
    · rfl
    · split
      · simp [endService, dropColl, endSenders, sendOutcome_coll]
      · simp [sendOutcome_coll]

/-- COLL_ORDER fences the furrow, and the aborts that follow leave the fence. -/
theorem mem_fenced_collOrder (s : State) (f slot : Nat) : f ∈ (collOrder s f slot).coll.fenced := by
  unfold collOrder
  extract_lets s1 c s2 ps
  have hstep (s : State) (x : Nat × Nat × Nat) : ((rootsOf s f).foldl (fun s r => if r.device = s.plan.deviceId.toNat then
      abortAt s f r x.1 x.2.1 fCollOrder else abortTo s (slotUnit slot) r.device x.2.2 x.2.1 r.range fCollOrder) s).coll.fenced =
      s.coll.fenced := by
    refine foldl_of_step (R := fun s t => t.coll.fenced = s.coll.fenced) (fun s => rfl) (fun h k => k.trans h) (fun s r => ?_) _ s
    split
    · exact abortAt_fenced ..
    · rfl
  rw [foldl_of_step (R := fun s t => t.coll.fenced = s.coll.fenced) (fun s => rfl) (fun h k => k.trans h) hstep ps s2]
  simp [s2]

/-! ## Waybills at a slot (R84, R89, R90) -/

theorem countFault_lastCode (b : FaultBlk) (code : Half) (ut : BitVec 4) (unit : Nat) : (countFault b code ut unit).lastCode = code := by
  unfold countFault
  split <;> split <;> rfl

theorem raise_lastCode (s : State) (code : Half) (ut : BitVec 4) (unit : Nat) : (raise s code ut unit).fault.lastCode = code := by
  rw [raise_fault]
  exact countFault_lastCode ..

/-- The waybills that a node holds of a waybill's collective. -/
def billPeers (st : Node) (b : List Byte) : List Bill :=
  st.bills.filter fun x => wbColl x.bytes == wbColl b && wbHeadland x.bytes == wbHeadland b

section
variable {s : State} {f k child slot : Nat} {n m : NodeRec} {p : Pkt} {st : Node} {b : List Byte}

theorem wbIdx_lt (b : List Byte) : wbIdx b < 65536 := by
  simp only [wbIdx, bits]
  exact Nat.mod_lt _ (by norm_num)

/-- A waybill of a member of which one is held is compared with that one. -/
theorem compareBill_of_held (h : ∃ x ∈ billPeers st b, wbOrd x.bytes = wbOrd b) :
    ∃ x ∈ billPeers st b, wbOrd x.bytes = wbOrd b ∧ compareBill s f st b = (x.bytes != b, x.bytes == b) := by
  obtain ⟨x, hx⟩ : ∃ x, (billPeers st b).find? (fun x => wbOrd x.bytes == wbOrd b) = some x :=
    Option.isSome_iff_exists.mp (List.find?_isSome.mpr (by simpa using h))
  refine ⟨x, List.mem_of_find?_eq_some hx, by simpa using List.find?_some hx, ?_⟩
  rw [billPeers] at hx
  simp [compareBill, hx]

theorem compareBill_of_copy (h : ∃ x ∈ billPeers st b, wbOrd x.bytes = wbOrd b)
    (hall : ∀ x ∈ billPeers st b, wbOrd x.bytes = wbOrd b → x.bytes = b) : compareBill s f st b = (false, true) := by
  obtain ⟨x, hx, ho, hc⟩ := compareBill_of_held (s := s) (f := f) h
  simp [hc, hall x hx ho]

theorem compareBill_of_other (h : ∃ x ∈ billPeers st b, wbOrd x.bytes = wbOrd b)
    (hall : ∀ x ∈ billPeers st b, wbOrd x.bytes = wbOrd b → x.bytes ≠ b) : compareBill s f st b = (true, false) := by
  obtain ⟨x, hx, ho, hc⟩ := compareBill_of_held (s := s) (f := f) h
  simp [hc, hall x hx ho]

/-- The first waybill of a member agrees with the ORDER_LIST and with those held. -/
theorem compareBill_of_new (hnew : ∀ x ∈ billPeers st b, wbOrd x.bytes ≠ wbOrd b)
    (hhash : ∀ x ∈ billPeers st b, wbHash x.bytes = wbHash b) (hlist : (wbIdx b, wbColl b) ∈ orderList s f) :
    compareBill s f st b = (false, false) := by
  have hnone : (billPeers st b).find? (fun x => wbOrd x.bytes == wbOrd b) = none := by simpa using hnew
  have hhead : ((billPeers st b).head?.map fun x => wbHash x.bytes != wbHash b).getD false = false := by
    cases hh : (billPeers st b).head? with
    | none => rfl
    | some x => simp [hhash x (List.mem_of_mem_head? hh)]
  rw [billPeers] at hnone hhead
  simp [compareBill, hnone, hhead, hlist, -List.head?_filter]

theorem takeBill_of_copy (h : compareBill s f (nodeSt s n.lead) p.payload = (false, true)) : takeBill s f n child p = s := by
  simp [takeBill, h]

/-- The waybill on its way to the parent. -/
def billLodged (s : State) (n m : NodeRec) (p : Pkt) : Lodged :=
  colLodged s (slotUnit n.lead) (addr m.device 0) pColWaybill 0 p.fcid.toNat p.payload

/-- The state in which a mismatch is raised, with the waybill on its way (R84). -/
def mismatchRaised (s : State) (n m : NodeRec) (p : Pkt) : State :=
  raise (withLodged s [billLodged s n m p]) fWaybillMismatch uSlot n.lead

@[simp] theorem mismatchRaised_fields (s : State) (n m : NodeRec) (p : Pkt) :
    (mismatchRaised s n m p).ingress = s.ingress ++ [billLodged s n m p] ∧ (mismatchRaised s n m p).coll = s.coll ∧
    (mismatchRaised s n m p).plan = s.plan ∧ (mismatchRaised s n m p).hedge = s.hedge ∧ (mismatchRaised s n m p).ports = s.ports ∧
    (mismatchRaised s n m p).route = s.route ∧ (mismatchRaised s n m p).gran = s.gran := by
  simp [mismatchRaised]

/-- Below the root a waybill that differs from the one held goes to the parent, and the request for an abort after it. -/
theorem takeBill_of_mismatch (hm : parentOf s f n = some m) (hh : memberHedged s f n = false)
    (hc : compareBill s f (nodeSt s n.lead) p.payload = (true, false)) :
    ∃ coll ls, takeBill s f n child p = withLodged (mismatchRaised s n m p)
      (abortLodged (mismatchRaised s n m p) (slotUnit n.lead) m.device coll (wbIdx p.payload) n.range fWaybillMismatch :: ls) := by
  have hu : parentOf (mismatchRaised s n m p) f n = some m := by rw [parentOf_congr (s := s) (by simp), hm]
  obtain ⟨ls, hls⟩ := nodeAbort_below hu (wbHeadland p.payload) (wbIdx p.payload)
    ((((orderList s f).find? fun e => e.1 == wbIdx p.payload).map (·.2)).getD (wbColl p.payload)) fWaybillMismatch
  refine ⟨_, ls, Eq.trans ?_ hls⟩
  unfold takeBill
  simp only [hc, hm, Bool.false_eq_true, if_false, if_true, slotFault]
  refine serveNext_of_done ?_ (.inl (not_isRoot_of_parentOf hm)) 32
  change memberHedged (nodeAbort (mismatchRaised s n m p) f n _ _ _ _) f n = false
  rw [hls, memberHedged_congr (s := s), hh] <;> simp

/-- Below the root a waybill in order is held, and goes to the parent. -/
theorem takeBill_of_new (hm : parentOf s f n = some m) (hh : memberHedged s f n = false)
    (hc : compareBill s f (nodeSt s n.lead) p.payload = (false, false))
    (ht : targetHedged s (memberAddr (memberWord s f (wbOrd p.payload))).toNat = false)
    (hp : portHedged s ((memberAddr (memberWord s f (wbOrd p.payload))).toNat % 1024) = false) :
    takeBill s f n child p = modNode (withLodged s [billLodged s n m p]) n.lead fun x =>
      { x with bills := x.bills ++ [{ child, bytes := p.payload, arrived := s.clk.timebase }] } := by
  have hgone (a : Nat) (ha : a = (memberAddr (memberWord s f (wbOrd p.payload))).toNat) :
      (targetHedged s a || a / 1024 == s.plan.deviceId.toNat && portHedged s (a % 1024)) = false := by simp [ha, ht, hp]
  unfold takeBill
  simp only [hc, hm, Bool.false_eq_true, if_false]
  rw [if_neg]
  · refine serveNext_of_done ?_ (.inl (not_isRoot_of_parentOf hm)) 32
    exact hh
  · exact fun h => Bool.eq_false_iff.mp (hgone _ rfl) (Bool.and_eq_true_iff.mp h).1

/-- What a waybill meets at its slot, in the order of the checks. -/
theorem colWaybill_at_slot (hslot : slotNode s slot = some (f, n, k)) (hlead : n.lead = slot) (hf : wbFurrow p.payload = f)
    (hchild : billChild s f n p.payload p.src = some child) :
    colWaybill slot p s =
      if s.coll.fenced.contains f then refuseBill (taken s p) slot p
      else if s.plan.quiescing && decide (now s + 1 ≤ wbHeadland p.payload) then
        slotFault { taken s p with plan := { s.plan with lastFault := fPlanEarly } } f n slot (wbHeadland p.payload) (wbIdx p.payload)
          (wbColl p.payload) fPlanEarly
      else if decide (wbHeadland p.payload < (nodeSt s slot).fresh) ||
          posBefore (wbHeadland p.payload, wbIdx p.payload) ((nodeSt s slot).h, (nodeSt s slot).idx) ||
          decide (16 < posDistance s ((nodeSt s slot).h, (nodeSt s slot).idx) (wbHeadland p.payload, wbIdx p.payload)) then
        refuseBill (collOrder (taken s p) f slot) slot p
      else if (nodeSt s slot).aborted.contains (wbHeadland p.payload, wbIdx p.payload) then taken s p
      else takeBill (taken s p) f n child p := by
  have hchild' : billChild (taken s p) f n p.payload p.src = some child := hchild
  unfold colWaybill
  simp only [hslot, hlead, hf, hchild', bne_self_eq_false, Bool.or_self, Bool.false_eq_true, if_false]
  rfl

end

theorem exec_colWaybill {s : State} {slot : BitVec 12} {p : Pkt} (h : s.live) (hp : p.whole) :
    exec (.colWaybill slot p) s = .next (colWaybill slot.toNat p s) := onPkt_ok h hp

theorem billLodged_payload (s : State) (n m : NodeRec) {p : Pkt} (hp : p.whole) : (billLodged s n m p).p.payload = p.payload :=
  colLodged_payload _ _ _ _ _ _ _ (length_mod_of_whole hp)

end Sys2Proof.Machine

namespace Sys2Proof
open Sys2Proof.Machine Sys2Proof.Laws

/-- Settles O45: `colWaybill_at_slot` gives the order of the checks, `compareBill` the three ways a waybill compares with those held. -/
theorem waybillsAtASlot : Obligations.WaybillsAtASlot := by
  rintro s slot p f k child n st pos u hl hp hslot hlead hf rfl rfl hu hchild
  obtain rfl : u = taken s p := hu
  have hexec := exec_colWaybill (slot := slot) hl hp
  rw [colWaybill_at_slot hslot hlead hf hchild] at hexec
  refine ⟨fun hfence => ?_, fun hfence hq => ⟨fun hpos => ?_, fun hfresh hbefore hdist => ⟨fun hab => ?_, fun hab same hsame => ?_⟩⟩⟩
  · rw [hexec, if_pos (by simpa using hfence)]
  · rw [hexec, if_neg (by simpa using hfence), if_neg (by simp [hq]), if_pos (by simpa [or_assoc, or_comm, or_left_comm] using hpos)]
    exact ⟨rfl, mem_fenced_collOrder ..⟩
  all_goals
    rw [if_neg (by simpa using hfence), if_neg (by simp [hq]), if_neg (by simp [hbefore]; omega)] at hexec
  · rw [hexec, if_pos (by simpa using hab)]
  · rw [if_neg (by simpa using hab)] at hexec
    obtain rfl : same = billPeers (nodeSt s slot.toNat) p.payload := hsame
    rw [← hlead]
    refine ⟨fun hex hall => ?_, fun hh m hm => ⟨fun hex hall => ?_, fun hnew hhash hlist ht hport => ?_⟩⟩
    · rw [hexec, takeBill_of_copy (s := taken s p) (compareBill_of_copy hex hall)]
    · obtain ⟨coll, ls, ht⟩ := takeBill_of_mismatch (s := taken s p) (child := child) hm hh (compareBill_of_other hex hall)
      rw [ht] at hexec
      let r := abortLodged (mismatchRaised (taken s p) n m p) (slotUnit n.lead) m.device coll (wbIdx p.payload) n.range fWaybillMismatch
      refine ⟨_, billLodged (taken s p) n m p, r, ls, hexec, ?_, rfl, rfl, billLodged_payload _ _ _ hp, rfl, rfl, abortLodged_code ..,
        abortLodged_idx _ _ _ _ _ _ (wbIdx_lt _), raise_lastCode .., ?_, ?_⟩
      · simp [r]
      · rw [nodeSt_congr (s := s) (by simp)]
      · simp
    · rw [takeBill_of_new (s := taken s p) hm hh (compareBill_of_new hnew hhash hlist) ht hport] at hexec
      exact ⟨_, billLodged (taken s p) n m p, _, hexec, congrArg Node.bills (nodeSt_modNode ..), rfl, rfl, rfl, rfl, rfl, rfl,
        billLodged_payload _ _ _ hp, rfl, rfl, rfl⟩

end Sys2Proof

namespace Sys2Proof.Machine
open Sys2Proof Sys2Proof.Laws

/-! ## Chunks at a slot (R79, R89) -/

section
variable {s : State} {slot f k child : Nat} {seg : Option Nat} {n : NodeRec} {p : Pkt} {b : Bill} {bs : List Bill} {q : ColPkt}

/-- A chunk below the end of the first window lies in the window, whichever chunks are complete. -/
theorem inWindowOf_of_lt {c : Nat} (h : c < n.window * n.stripe) (done : Nat → Bool) : inWindowOf n c done = true := by
  have : n.window * n.stripe ≤ n.window * max n.stripe 1 := Nat.mul_le_mul_left _ (le_max_left ..)
  simp only [inWindowOf, decide_eq_true_eq]
  omega

/-- A packet of no collective served waits where the node holds a waybill of its collective, and is dropped where it does not. -/
theorem slotData_of_unserved (hslot : slotNode s slot = some (f, n, k))
    (h : ∀ b ∈ served (nodeSt s n.lead), wbColl b.bytes ≠ p.fcid.toNat) :
    slotData slot seg p s = if (nodeSt s n.lead).bills.any (fun b => wbColl b.bytes == p.fcid.toNat) then s else taken s p := by
  have hnone : (served (nodeSt s n.lead)).find? (fun b => wbColl b.bytes == p.fcid.toNat) = none := by simpa using h
  simp [slotData, hslot, hnone]

/-- A packet of a dense reduce-scatter that is served goes to its chunk. -/
theorem slotData_of_dense (hslot : slotNode s slot = some (f, n, k)) (hserved : served (nodeSt s n.lead) = b :: bs)
    (hcoll : wbColl b.bytes = p.fcid.toNat) (hhalf : wbHalf b.bytes = 0) (hredop : wbRedop b.bytes ≠ 6)
    (hchild : childOf s f n p.src = some child) :
    slotData slot none p s = serveNext 32 (denseData s f n slot b.bytes p
      { child, src := p.src, pos := k, chunk := p.seq.toNat / 32, pkt := p.seq.toNat % 32, last := p.op == pColDataEnd, payload := p.payload })
      f n := by
  simp [slotData, hslot, hserved, hcoll, sourceOf, hchild, hhalf, wbSparse, hredop]

/-- A packet in the window that ends no child's part is kept. -/
theorem denseData_of_part (hpos : q.chunk % max n.stripe 1 = q.pos) (hlen : q.chunk < cdiv (denseLen s f n b.bytes).2 1792)
    (hwin : q.chunk < n.window * n.stripe) (hdone : (nodeSt s n.lead).chunksDone = []) (htakes : partTakes (nodeSt s n.lead) q = true)
    (hpart : partOf { nodeSt s n.lead with pkts := (nodeSt s n.lead).pkts ++ [q] } q.child q.chunk = none) :
    denseData s f n slot b.bytes p q = keepPkt (taken s p) n q := by
  have hpart' : partOf (nodeSt (keepPkt (taken s p) n q) n.lead) q.child q.chunk = none := by
    rw [keepPkt, nodeSt_modNode]
    exact hpart
  unfold denseData
  simp only [hpos, hdone, htakes, hpart', inWindowOf_of_lt hwin, hlen.not_ge]
  simp

theorem exec_data_at_slot {i : Instr} {slot : BitVec 12} {seg : Option (BitVec 12)} {op : BitVec 5} (hl : s.live) (hp : p.whole)
    (hi : (i = .colData ⟨some slot, seg⟩ p ∧ op = pColData) ∨ (i = .colDataEnd ⟨some slot, seg⟩ p ∧ op = pColDataEnd))
    (hop : p.op = op) : exec i s = .next (slotData slot.toNat (seg.map (·.toNat)) p s) := by
  obtain ⟨rfl, rfl⟩ | ⟨rfl, rfl⟩ := hi
  · exact (onPkt_ok hl hp).trans (by simp [colData, hop])
  · exact (onPkt_ok hl hp).trans (by simp [colData, hop])

end

/-! ## Chunk credits (R80) -/

section
variable {s : State} {owner sink : Nat}

theorem creditsUsed_useCredits (s : State) (owner sink n : Nat) : creditsUsed (useCredits s owner sink n) owner sink = n := by
  have hnone : (s.coll.credits.filter fun c => !(c.1 == owner && c.2.1 == sink)).find? (fun c => c.1 == owner && c.2.1 == sink) = none := by
    simp only [List.find?_eq_none, List.mem_filter]
    grind
  by_cases hn : n = 0 <;> simp only [creditsUsed, useCredits, List.find?_append, hnone, hn] <;> simp

theorem creditsUsed_useCredits_ne {o k : Nat} (h : o ≠ owner ∨ k ≠ sink) (n : Nat) :
    creditsUsed (useCredits s owner sink n) o k = creditsUsed s o k := by
  have hkeep : (s.coll.credits.filter fun c => !(c.1 == owner && c.2.1 == sink)).find? (fun c => c.1 == o && c.2.1 == k) =
      s.coll.credits.find? fun c => c.1 == o && c.2.1 == k := by
    rw [List.find?_filter]
    congr 1
    funext c
    grind
  have hnew : (owner == o && sink == k) = false := by grind
  by_cases hn : n = 0 <;> simp only [creditsUsed, useCredits, List.find?_append, hkeep, hn] <;> simp [hnew]

/-- A sender that has chunks in use gets its own credits back, and nothing waits for them. -/
theorem takeCredits_of_used (hout : s.coll.outbox = []) (hused : 0 < creditsUsed s owner sink) (count : Nat) :
    takeCredits s owner sink count = useCredits s owner sink (creditsUsed s owner sink - count) := by
  obtain ⟨c, hc⟩ : ∃ c, s.coll.credits.find? (fun c => c.1 == owner && c.2.1 == sink) = some c := by
    cases h : s.coll.credits.find? (fun c => c.1 == owner && c.2.1 == sink) with
    | none => simp [creditsUsed, h] at hused
    | some c => exact ⟨c, rfl⟩
  have hmine : ((s.coll.credits.filter fun c => c.2.1 == sink && (c.1 == owner || decide (1024 ≤ c.1))).find? fun c =>
      c.1 == owner) = some c := by
    rw [List.find?_filter, ← hc]
    congr 1
    funext c
    grind
  have hu : creditsUsed s owner sink = c.2.2 := by simp [creditsUsed, hc]
  obtain ⟨rfl, -⟩ : c.1 = owner ∧ c.2.1 = sink := by simpa using List.find?_some hc
  simp [takeCredits, hmine, hu, flushChunks, useCredits, hout, -List.find?_filter]

end

theorem exec_colCredit {s : State} {p : Pkt} (h : s.live) (hp : p.whole) : exec (.colCredit p) s = .next (colCredit p s) := onPkt_ok h hp

/-! ## Outcomes and aborts at nodes (R89, R93, R96) -/

/-- What the node of a service that ended holds: the next position, and the waybills of other positions. -/
structure ServiceEnded (old new : Node) : Prop where
  moved : posBefore (old.h, old.idx) (new.h, new.idx) = true
  bills : new.bills = old.bills.filter fun b => !(wbHeadland b.bytes == old.h && wbIdx b.bytes == old.idx)
  pkts : new.pkts = []

theorem nodeSt_endService (s : State) (f lead : Nat) (h : (nodeSt s lead).aborted = []) :
    ServiceEnded (nodeSt s lead) (nodeSt (endService s f lead) lead) := by
  rw [endService, nodeSt_modNode, h]
  exact ⟨by rw [nextPos_succ_nil s f 65535]; exact posBefore_seekPos .., rfl, rfl⟩

section
variable {s : State} {slot f k : Nat} {n m : NodeRec} {p : Pkt}

/-- The outcomes that a node passes to its child nodes. -/
def outcomesBelow (s : State) (f : Nat) (n : NodeRec) (p : Pkt) : List Lodged :=
  (childNodesOf s f n).map fun c => colLodged s (slotUnit n.lead) (addr c.device 0) pColOutcome 0 p.fcid.toNat p.payload

theorem slotOutcome_of_complete (hslot : slotNode s slot = some (f, n, k)) (hlead : n.lead = slot) (hfrom : fromParent s f n p.src = true)
    (hhedged : memberHedged s f n = false) (hstatus : leAt p.payload 6 1 = 0)
    (hpos : (leAt p.payload 24 8, leAt p.payload 4 2) = ((nodeSt s slot).h, (nodeSt s slot).idx))
    (hlist : ((nodeSt s slot).idx, p.fcid.toNat) ∈ orderList s f) (haborted : (nodeSt s slot).aborted = []) :
    slotOutcome slot p s = endService (lagEntries (withLodged (taken s p) (outcomesBelow (taken s p) f n p)) n) f slot := by
  obtain ⟨m, hm⟩ := exists_parentOf_of_fromParent hfrom
  have hhedged' : memberHedged (endService (lagEntries (withLodged (taken s p) (outcomesBelow (taken s p) f n p)) n) f slot) f n = false := by
    rw [memberHedged_congr (s := s), hhedged] <;> simp [endService]
  obtain ⟨hh, hi⟩ := Prod.mk.inj hpos
  refine Eq.trans ?_ (serveNext_of_done hhedged' (.inl (not_isRoot_of_parentOf hm)) 32)
  subst hlead
  simp [slotOutcome, hslot, hfrom, hh, hi, hstatus, haborted, posBefore_irrefl, hlist, foldl_sendCol, outcomesBelow]

/-- Below the root a request for an abort goes on to the parent. -/
theorem colAbort_below (hslot : slotNode s slot = some (f, n, k)) (hlead : n.lead = slot) (hm : parentOf s f n = some m)
    (hfrom : abortFrom s f p.src = true) (hlist : (leAt p.payload 2 2, p.fcid.toNat) ∈ orderList s f)
    (hpos : abortPos (nodeSt s slot) (leAt p.payload 2 2) ≠ none) :
    colAbort slot p s = withLodged (taken s p) [abortLodged (taken s p) (slotUnit n.lead) m.device p.fcid.toNat (leAt p.payload 2 2) n.range
      (BitVec.ofNat 16 (leAt p.payload 0 2))] := by
  obtain ⟨q, hq⟩ := Option.ne_none_iff_exists'.mp hpos
  have hm' : parentOf (taken s p) f n = some m := hm
  have hfrom' : abortFrom (taken s p) f p.src = true := hfrom
  have hlist' : (leAt p.payload 2 2, p.fcid.toNat) ∈ orderList (taken s p) f := hlist
  simp [colAbort, hslot, hlead, hfrom', hlist', hq, hm', abortTo_eq]

/-- At the root the abort of the position served sends outcomes of its fault, and the service ends. -/
theorem abortAt_served {code : Half} {coll : Nat} (hlist : ((nodeSt s n.lead).idx, coll) ∈ orderList s f)
    (haborted : (nodeSt s n.lead).aborted = []) : ∃ t ls, (∀ l ∈ ls, isOutcome 1 code l) ∧ t.ingress = s.ingress ++ ls ∧
      nodeSt t = nodeSt s ∧ t.gran = s.gran ∧
      abortAt s f n (nodeSt s n.lead).h (nodeSt s n.lead).idx code = endService t f n.lead := by
  obtain ⟨e, he⟩ : ∃ e, (orderList s f).find? (fun e => e.1 == (nodeSt s n.lead).idx) = some e :=
    Option.isSome_iff_exists.mp (List.find?_isSome.mpr ⟨_, hlist, by simp⟩)
  obtain ⟨t, entry, ⟨ls, hls, rfl⟩, hsend⟩ := sendOutcome_sends s f n e.2 (nodeSt s n.lead).idx (nodeSt s n.lead).h
    (halfOf (nodeSt s n.lead) (nodeSt s n.lead).h (nodeSt s n.lead).idx) (status := 1) (by norm_num) code
  refine ⟨dropColl (lagEntries (tally (withLodged s ls) entry) n) f n e.2, ls, hls, ?_, nodeSt_congr ?_, ?_, ?_⟩
  · simp [dropColl, endSenders]
  · simp [dropColl, endSenders]
  · simp [dropColl, endSenders]
  · simp [abortAt, he, haborted, hsend]

/-- The position whose waybill a node holds is the one that a request for its ORDER_IDX names. -/
theorem abortPos_of_held {st : Node} (hne : st.bills ≠ []) (hall : ∀ x ∈ st.bills, wbHeadland x.bytes = st.h ∧ wbIdx x.bytes = st.idx) :
    abortPos st st.idx = some (st.h, st.idx) := by
  obtain ⟨x, xs, hx⟩ := List.exists_cons_of_ne_nil hne
  obtain ⟨hh, hi⟩ := hall x (by simp [hx])
  simp [abortPos, hx, hh, hi]

/-- At the root a request for the abort of the position served ends its service. -/
theorem colAbort_at_root (hslot : slotNode s slot = some (f, n, k)) (hlead : n.lead = slot) (hroot : n.isRoot = true)
    (hfrom : abortFrom s f p.src = true) (hidx : leAt p.payload 2 2 = (nodeSt s slot).idx)
    (hlist : ((nodeSt s slot).idx, p.fcid.toNat) ∈ orderList s f) (haborted : (nodeSt s slot).aborted = [])
    (hne : (nodeSt s slot).bills ≠ [])
    (hall : ∀ x ∈ (nodeSt s slot).bills, wbHeadland x.bytes = (nodeSt s slot).h ∧ wbIdx x.bytes = (nodeSt s slot).idx) :
    ∃ t ls, (∀ l ∈ ls, isOutcome 1 (BitVec.ofNat 16 (leAt p.payload 0 2)) l) ∧ t.ingress = s.ingress ++ ls ∧ nodeSt t = nodeSt s ∧
      t.gran = s.gran ∧ colAbort slot p s = endService t f slot ∧ (nodeSt (endService t f slot) slot).bills = [] := by
  subst hlead
  obtain ⟨t, ls, hls, hin, hnode, hgran, habort⟩ := abortAt_served (s := taken s p)
    (code := BitVec.ofNat 16 (leAt p.payload 0 2)) hlist haborted
  have hbills : (nodeSt (endService t f n.lead) n.lead).bills = [] := by
    rw [(nodeSt_endService t f n.lead (by rw [hnode]; exact haborted)).bills, hnode]
    simpa using hall
  refine ⟨t, ls, hls, hin, hnode, hgran, ?_, hbills⟩
  have hfrom' : abortFrom (taken s p) f p.src = true := hfrom
  have hlist' : ((nodeSt s n.lead).idx, p.fcid.toNat) ∈ orderList (taken s p) f := hlist
  have hpos := abortPos_of_held hne hall
  have hnext := serveNext_of_served_nil (s := endService t f n.lead) (f := f) (n := n) (by simp [served, hbills]) 32
  rw [nodeSt_taken] at habort
  simp [colAbort, hslot, hfrom', hidx, hlist', hpos, parentOf_of_isRoot hroot, habort, hnext]

theorem exec_colOutcome_at_slot {slot : BitVec 12} (h : s.live) (hp : p.whole) :
    exec (.colOutcome (some slot) p) s = .next (slotOutcome slot.toNat p s) := onPkt_ok h hp

theorem exec_colAbort {slot : BitVec 12} (h : s.live) (hp : p.whole) :
    exec (.colAbort slot p) s = .next (colAbort slot.toNat p s) := onPkt_ok h hp

end

end Sys2Proof.Machine

namespace Sys2Proof
open Sys2Proof.Machine Sys2Proof.Laws

theorem chunksAndCredits : Claims.ChunksAndCredits := by
  refine fun s p hl hp => ⟨fun slot seg f k n st i op hslot hst hi hop => ?_, ?_⟩
  · subst hst
    have hexec := exec_data_at_slot hl hp hi hop
    refine ⟨fun hunserved => ⟨fun hheld => ?_, fun hheld => ?_⟩, ?_⟩
    · rw [hexec, slotData_of_unserved hslot hunserved, if_pos (by simpa using hheld)]
    · rw [hexec, slotData_of_unserved hslot hunserved, if_neg (by simpa using hheld)]
      rfl
    · rintro b bs child c hserved hcoll hhalf hredop rfl hchild hhedged hdone hchunks hstripe rfl hpos hwin hlen q rfl htakes hpart
      rw [Option.map_none, slotData_of_dense hslot hserved hcoll hhalf hredop hchild,
        denseData_of_part (by rw [max_eq_left hstripe]; exact hpos) hlen hwin hchunks htakes hpart, serveNext_of_done] at hexec
      · refine ⟨_, hexec, ?_⟩
        simp [keepPkt]
      · exact hhedged
      · refine hdone.imp_right fun hgranted => ?_
        rw [keepPkt, nodeSt_modNode]
        exact hgranted
  · rintro owner sink count rfl rfl rfl hout hused
    refine ⟨_, exec_colCredit hl hp, ?_⟩
    rw [colCredit, takeCredits_of_used (s := taken s p) hout hused]
    exact ⟨creditsUsed_useCredits .., fun o k h => creditsUsed_useCredits_ne h _, rfl, rfl⟩

theorem outcomesAndAborts : Claims.OutcomesAndAborts := by
  rintro s slot p f k n st hl hp hslot hlead rfl haborted
  refine ⟨fun hfrom hhedged hstatus hpos hlist => ?_, fun m hm hfrom hlist hpos => ?_, fun hroot hfrom hidx hlist hne hall => ?_⟩
  · have hexec := exec_colOutcome_at_slot (slot := slot) hl hp
    rw [slotOutcome_of_complete hslot hlead hfrom hhedged hstatus hpos hlist haborted] at hexec
    have hnode : nodeSt (lagEntries (withLodged (taken s p) (outcomesBelow (taken s p) f n p)) n) = nodeSt s := nodeSt_congr (by simp)
    have hended := nodeSt_endService (lagEntries (withLodged (taken s p) (outcomesBelow (taken s p) f n p)) n) f slot.toNat
      (by rw [hnode]; exact haborted)
    rw [hnode] at hended
    refine ⟨_, outcomesBelow (taken s p) f n p, hexec, ?_, ?_, ?_, hended.pkts, hended.bills, hended.moved, ?_⟩
    · simp [endService]
    · rw [outcomesBelow, List.map_map]
      rfl
    · simp [outcomesBelow, length_mod_of_whole hp]
    · simp [endService]
  · have hexec := exec_colAbort (slot := slot) hl hp
    rw [colAbort_below hslot hlead hm hfrom hlist hpos] at hexec
    refine ⟨_, _, hexec, rfl, rfl, rfl, ?_, ?_, ?_, rfl, rfl⟩
    · exact colLodged_fcid ..
    · rw [abortLodged_code, toNat_ofNat_leAt]
    · exact abortLodged_idx _ _ _ _ _ _ (leAt_lt _ 2 2)
  · obtain ⟨t, ls, hls, hin, hnode, hgran, habort, hbills⟩ := colAbort_at_root hslot hlead hroot hfrom hidx hlist haborted hne hall
    refine ⟨_, ls, (exec_colAbort hl hp).trans (congrArg _ habort), hin, fun l hl => ?_, hbills, ?_, hgran⟩
    · obtain ⟨hop, hst, hcode⟩ := hls l hl
      refine ⟨hop, hst, ?_⟩
      rw [hcode, toNat_ofNat_leAt]
    · have hended := nodeSt_endService t f slot.toNat (by rw [hnode]; exact haborted)
      rw [hnode] at hended
      exact hended.moved

/-- Settles O46: `chunksAndCredits` for data and credits, `outcomesAndAborts` for what ends a service. -/
theorem chunksAndOutcomes : Obligations.ChunksAndOutcomes := ⟨chunksAndCredits, outcomesAndAborts⟩

end Sys2Proof

namespace Sys2Proof.Machine
open Sys2Proof Sys2Proof.Laws

/-! ## Receive bindings of a plot (R219) -/

theorem reads_writes (m : Mem) (a : Nat) (bs : List Byte) : Mem.reads (Mem.writes m a bs) a bs.length = bs :=
  List.ext_getElem (by simp [Mem.reads]) fun i hi _ => by simp [Mem.reads, mem_read_writes m a i bs (by simpa [Mem.reads] using hi)]

@[simp] theorem plot_modPlot (s : State) (q : Nat) (f : Plot → Plot) : plot (modPlot s q f) q = f (plot s q) := tab_get_upd ..

theorem plot_congr {s t : State} (h : t.plots = s.plots) : plot t = plot s := by
  funext q; rw [plot, h, plot]

section
variable (s : State) (q b : Nat) (r : BindRec) (off : Nat) (bs : List Byte) (tn : Bool)

/-- An arrival writes its bytes, with taint and shadow tags; the bindings and the flags stay. -/
@[simp] theorem plot_bindWrite :
    (plot (bindWrite s q r off bs tn) q).scratch = Mem.writes (plot s q).scratch (128 * r.first + off) bs ∧
    (plot (bindWrite s q r off bs tn) q).binds = (plot s q).binds ∧ (plot (bindWrite s q r off bs tn) q).came = (plot s q).came ∧
    (plot (bindWrite s q r off bs tn) q).flags = (plot s q).flags := by
  simp [bindWrite, taintLines, shadeLines]

@[simp] theorem plot_modBind (f : Bind → Bind) :
    plot (modBind s q b f) q = { plot s q with binds := Tab.upd {} (plot s q).binds b f } := by simp [modBind]

@[simp] theorem plot_bindComplete : plot (bindComplete s q b) q =
    { plot s q with binds := Tab.upd {} (plot s q).binds b fun x => { x with complete := true }
                    came := (plot s q).came ||| BitVec.ofNat 64 (2 ^ (8 + b)), outside := true } := by simp [bindComplete]

@[simp] theorem bindSt_modBind (f : Bind → Bind) : bindSt (modBind s q b f) q b = f (bindSt s q b) := by
  simp [bindSt, tab_get_upd]

@[simp] theorem bindSt_bindComplete : bindSt (bindComplete s q b) q b = { bindSt s q b with complete := true } := by
  simp [bindSt, tab_get_upd]

/-- What is written at a binding changes plots alone. -/
@[simp] theorem bindWrite_fields :
    (bindWrite s q r off bs tn).ingress = s.ingress ∧ (bindWrite s q r off bs tn).delivered = s.delivered ∧
    (bindWrite s q r off bs tn).coll = s.coll ∧ (bindWrite s q r off bs tn).host = s.host ∧
    (bindWrite s q r off bs tn).gran = s.gran := by simp [bindWrite]

@[simp] theorem bindComplete_fields :
    (bindComplete s q b).ingress = s.ingress ∧ (bindComplete s q b).delivered = s.delivered ∧ (bindComplete s q b).coll = s.coll ∧
    (bindComplete s q b).host = s.host ∧ (bindComplete s q b).gran = s.gran := by simp [bindComplete, modBind]

end

/-! ## Grants (R86, R121, R219) -/

section
variable {s : State} {q b d f i slot k : Nat} {r : BindRec} {p : Pkt} {n : NodeRec}

/-- A grant on its way to a member passes its port (R87). -/
def grantPassed (s : State) (p : Pkt) : State :=
  { s with coll := { s.coll with grants := if s.coll.grants.contains (p.dst.toNat, p.fcid.toNat) then s.coll.grants
      else s.coll.grants ++ [(p.dst.toNat, p.fcid.toNat)] } }

theorem passMember_of_grant (h : p.op = pColGrant) : passMember s p = grantPassed s p := by simp [passMember, h, grantPassed]

theorem mem_grants_grantPassed (s : State) (p : Pkt) : (p.dst.toNat, p.fcid.toNat) ∈ (grantPassed s p).coll.grants := by
  by_cases h : (p.dst.toNat, p.fcid.toNat) ∈ s.coll.grants <;> simp [grantPassed, h]

theorem grantToPlot_of_closed (hplace : collPlace s p.fcid.toNat = some (f, i)) (hb : findBind s q 1 f = some (b, r))
    (hopen : bindOpen s q b = false) : grantToPlot s q p = s := by
  simp [grantToPlot, hplace, hb, hopen]

theorem grantToPlot_of_open (hop : p.op = pColGrant) (hplace : collPlace s p.fcid.toNat = some (f, i))
    (hb : findBind s q 1 f = some (b, r)) (hopen : bindOpen s q b = true) (hread : stillRead (plot s q) [r.first] = false) :
    grantToPlot s q p = bindComplete (modBind (bindWrite (grantPassed (taken s p) p) q r 0 (slice p.payload 0 32) false) q b fun x =>
      { x with grant := slice p.payload 0 32 }) q b := by
  simp [grantToPlot, hplace, hb, hopen, hread, passMember_of_grant hop]

/-- A feed's chunks are sent, and nothing else of the feed changes than how many were. -/
theorem flushOut_emits (s : State) (d : Nat) :
    ∃ t, Emits s t ∧ (flushOut s d = t ∨ flushOut s d = modFeed t d fun x => { x with sent := x.ready }) := by
  unfold flushOut
  dsimp only
  split
  · exact ⟨s, Emits.refl s, .inl rfl⟩
  · split
    · exact ⟨s, Emits.refl s, .inl rfl⟩
    · split
      · exact ⟨s, Emits.refl s, .inl rfl⟩
      · exact ⟨_, Emits.foldl (fun s j => sendChunk_emits ..) _ s, .inr rfl⟩

theorem feedSt_modFeed (s : State) (d : Nat) (f : FeedSt → FeedSt) : feedSt (modFeed s d f) d = f (feedSt s d) := by
  simp [feedSt, tab_get_upd]

theorem flushOut_keeps (s : State) (d : Nat) : (feedSt (flushOut s d) d).outGranted = (feedSt s d).outGranted ∧
    (feedSt (flushOut s d) d).chunks = (feedSt s d).chunks ∧ (flushOut s d).delivered = s.delivered ∧ (flushOut s d).gran = s.gran := by
  obtain ⟨t, ⟨ingress, coll, rfl⟩, h | h⟩ := flushOut_emits s d
  · rw [h]
    exact ⟨rfl, rfl, rfl, rfl⟩
  · rw [h, feedSt_modFeed]
    exact ⟨rfl, rfl, rfl, rfl⟩

theorem updOutGrant_of_feed (hplace : collPlace s p.fcid.toNat = some (f, i)) (hd : feedOut s f i = some d) :
    updOutGrant s p = flushOut (modFeed (taken s p) d fun x => { x with outGranted := true }) d := by
  simp [updOutGrant, hplace, hd]

theorem updOutGrant_of_no_feed (hplace : collPlace s p.fcid.toNat = some (f, i)) (hd : feedOut s f i = none) : updOutGrant s p = s := by
  simp [updOutGrant, hplace, hd]

theorem colGrant_at_plot (hq : plotOf s p = some q) : colGrant none p s = grantToPlot s q p := by simp [colGrant, hq]

theorem colGrant_at_update (hq : plotOf s p = none) : colGrant none p s = updOutGrant s p := by simp [colGrant, hq]

theorem exec_colGrant {slot : Option (BitVec 12)} (h : s.live) (hp : p.whole) :
    exec (.colGrant ⟨slot, p⟩) s = .next (colGrant (slot.map (·.toNat)) p s) := onPkt_ok h hp

section
variable {b : Bill} {bs : List Bill}

/-- A grant waits at a node until one has come for every waybill held. -/
theorem slotGrant_of_waiting (hslot : slotNode s slot = some (f, n, k)) (hlead : n.lead = slot) (hfrom : fromParent s f n p.src = true)
    (hserved : served (nodeSt s n.lead) = b :: bs) (hcoll : wbColl b.bytes = p.fcid.toNat)
    (hhead : wbHeadland b.bytes = leAt p.payload 24 8) (hwait : (nodeSt s n.lead).grantsIn.length < bs.length) :
    slotGrant slot p s = modNode (taken s p) n.lead fun x => { x with grantsIn := (nodeSt s n.lead).grantsIn ++ [p.payload] } := by
  subst hlead
  simp [slotGrant, hslot, hfrom, hserved, hcoll, hhead, hwait]

/-- A node that has every grant it waits for, and keeps none. -/
def grantsWhole (s : State) (n : NodeRec) (p : Pkt) : State :=
  modNode (taken s p) n.lead fun x => { x with grantsIn := [], granted := true }

/-- The grant of a direct member that hears the node's range goes to it. -/
theorem passGrant_of_home (hchild : b.child < 2 ^ 24) (hhome : homeRange s f (wbOrd b.bytes) (wbHalf b.bytes) = n.range) (g : List Byte) :
    passGrant s f n b g =
      sendCol s (slotUnit n.lead) (memberAddr (memberWord s f (wbOrd b.bytes))) pColGrant 0 (wbColl b.bytes) g := by
  rw [passGrant, if_neg hchild.not_ge, if_pos hhome]

/-- The grant of the one waybill that a node holds is passed on. -/
theorem slotGrant_of_single (hslot : slotNode s slot = some (f, n, k)) (hlead : n.lead = slot) (hfrom : fromParent s f n p.src = true)
    (hserved : served (nodeSt s n.lead) = [b]) (hcoll : wbColl b.bytes = p.fcid.toNat)
    (hhead : wbHeadland b.bytes = leAt p.payload 24 8) (hnone : (nodeSt s n.lead).grantsIn = []) (hdense : wbSparse b.bytes = false) :
    slotGrant slot p s = passGrant (grantsWhole s n p) f n b p.payload := by
  subst hlead
  simp [slotGrant, hslot, hfrom, hserved, hcoll, hhead, hnone, hdense, ordered, grantsWhole]

end
end

/-! ## Movement transfers (R71, R219) -/

section
variable {s : State} {q b : Nat} {r : BindRec} {p : Pkt}

/-- A movement completion as it is lodged. -/
def doneLodged (s : State) (unit : Nat) (k : Pkt) (code : Half) (crop : Nat) : Lodged :=
  { port := none, unit, vl := 7,
    p := mkPkt k.dst k.src 7 pMoveDone k.seq k.fcid s.fault.epochMax (pack 16 [(0, 2, code.toNat), (8, 8, crop)]) }

theorem sendMoveDone_eq (s : State) (unit : Nat) (k : Pkt) (code : Half) (crop : Nat) :
    sendMoveDone s unit k code crop = withLodged s [doneLodged s unit k code crop] := rfl

theorem doneLodged_code (s : State) (unit : Nat) (k : Pkt) (code : Half) (crop : Nat) :
    leAt (doneLodged s unit k code crop).p.payload 0 2 = code.toNat := by
  rw [doneLodged, mkPkt_payload _ _ _ _ _ _ _ _ (by simp), leAt_pack_head (by norm_num)]
  exact Nat.mod_eq_of_lt code.isLt

/-- A packet's transfer where none is in progress. -/
def newMove (k : Pkt) : Move :=
  { dst := fieldOf k.dst, src := k.src, furrow := k.fcid.toNat % 256, seq := k.seq, total := moveTotal k, etype := moveEtype k, bytes := [],
    have_ := [], refused := false }

theorem moveOf_of_none (h : s.coll.moves = []) (k : Pkt) : moveOf s k = newMove k := by simp [moveOf, h, newMove]

/-- One packet that brings every element makes its transfer whole. -/
theorem newMove_add_whole {k : Pkt} (hetype : moveEtype k = 0) (hoff : leAt k.payload 0 8 % 2 ^ 40 = 0)
    (hlen : 4 * moveTotal k + 16 = 4 * k.len.toNat) : ((newMove k).add k).whole = true := by
  have hn : (4 * k.len.toNat - 16) * 8 / etypeBits 0 = moveTotal k := by
    rw [← hlen, show etypeBits 0 = 32 from rfl]
    omega
  simp [Move.whole, Move.add, newMove, hetype, hoff, hn, -Nat.reducePow]

/-- A transfer without a binding: marked refused, FURROW_ROUTE raised, one entry. -/
def moveRefused (s : State) (q : Nat) (p : Pkt) : State :=
  moveEntry (raise (putMove (taken s p) { newMove p with refused := true }) fFurrowRoute uPort (plotField (taken s p) q)) p uPlot q (moveTotal p)
    (moveEtype p) 0 fFurrowRoute

theorem moveRefused_fields (s : State) (q : Nat) (p : Pkt) :
    (moveRefused s q p).ingress = s.ingress ∧ (moveRefused s q p).fault.lastCode = fFurrowRoute ∧
    (moveRefused s q p).plots = s.plots ∧ (moveRefused s q p).gran = s.gran := by
  simp [moveRefused, moveEntry, putMove, raise_lastCode]

theorem moveToPlot_of_unbound (hmoves : s.coll.moves = []) (hb : findBind s q 0 (p.fcid.toNat % 256) = none) :
    moveToPlot s q p = withLodged (moveRefused s q p) [doneLodged (moveRefused s q p) (1024 + q) p fFurrowRoute 0] := by
  simp [moveToPlot, moveOf_of_none hmoves, hb, newMove, moveRefused, plotField, putMove, sendMoveDone_eq]

theorem moveToPlot_of_closed (hmoves : s.coll.moves = []) (hb : findBind s q 0 (p.fcid.toNat % 256) = some (b, r))
    (hopen : bindOpen s q b = false) : moveToPlot s q p = s := by
  simp [moveToPlot, moveOf_of_none hmoves, hb, newMove, hopen]

/-- A transfer of one packet written into its binding and logged. -/
def moveStored (s : State) (q : Nat) (r : BindRec) (p : Pkt) (crop : Nat) : State :=
  moveEntry (dropMove (bindWrite (taken s p) q r 0 (slice p.payload 16 (4 * moveTotal p)) false) ((newMove p).add p)) p uPlot q
    (moveTotal p) 0 crop 0

theorem moveStored_fields (hmoves : s.coll.moves = []) (crop : Nat) :
    (moveStored s q r p crop).ingress = s.ingress ∧ (moveStored s q r p crop).delivered = s.delivered.eraseP (fun d => d.p == p) ∧
    (moveStored s q r p crop).coll.moves = [] ∧ (moveStored s q r p crop).gran = s.gran ∧
    ∃ e, newest (moveStored s q r p crop) = some e ∧ e.kind = kMoveDone ∧ e.fault = 0 := by
  simp [moveStored, moveEntry, dropMove, hmoves, Entry.make]

theorem plot_moveStored (s : State) (q : Nat) (r : BindRec) (p : Pkt) (crop : Nat) :
    plot (moveStored s q r p crop) q = plot (bindWrite s q r 0 (slice p.payload 16 (4 * moveTotal p)) false) q :=
  congrFun (plot_congr (by simp [moveStored, moveEntry, dropMove, bindWrite, modPlot])) q

/-- A transfer of one packet is written into its binding, logged and answered, and the binding completes. -/
theorem moveToPlot_of_whole (hp : p.whole) (hmoves : s.coll.moves = []) (hb : findBind s q 0 (p.fcid.toNat % 256) = some (b, r))
    (hsealed : isSealed s q r = false) (hopen : bindOpen s q b = true) (hetype : moveEtype p = 0)
    (hoff : leAt p.payload 0 8 % 2 ^ 40 = 0) (hlen : 4 * moveTotal p + 16 = p.payload.length) (hfits : moveTotal p ≤ 32 * r.lines)
    (hread : stillRead (plot s q) (r.touched 0 (4 * moveTotal p)) = false) :
    ∃ crop, moveToPlot s q p =
      bindComplete (withLodged (moveStored s q r p crop) [doneLodged (moveStored s q r p crop) (1024 + q) p 0 crop]) q b := by
  have hlen' : 4 * moveTotal p + 16 = 4 * p.len.toNat := hlen.trans hp
  have hbytes : cdiv (moveTotal p * etypeBits 0) 8 = 4 * moveTotal p := by
    rw [cdiv, show etypeBits 0 = 32 from rfl]
    omega
  have hn : 4 * p.len.toNat - 16 = 4 * moveTotal p := by omega
  have hroom : ¬ 128 * r.lines < 4 * moveTotal p := by omega
  refine ⟨(cropMove (bindWrite (taken s p) q r 0 (slice p.payload 16 (4 * moveTotal p)) false) (p.fcid.toNat % 256) p.src
    ((newMove p).add p).all).toNat, ?_⟩
  have hwhole := newMove_add_whole hetype hoff hlen'
  have hzero : (newMove p).etype = 0 := hetype
  have htotal : (newMove p).total = moveTotal p := rfl
  have hrefused : (newMove p).refused = false := rfl
  simp [moveToPlot, moveOf_of_none hmoves, hb, hsealed, hopen, hmoves, hzero, htotal, hrefused, hbytes, hroom, hn, hoff, hread, hwhole,
    moveStored, sendMoveDone_eq, -Nat.reducePow]

theorem moveData_at_plot (hop : p.op = pMoveData) (hstage : toStage s p = none) (hq : plotOf s p = some q) :
    moveData p s = moveToPlot s q p := by simp [moveData, hop, hstage, hq]

/-- A completion told to the sender of its transfer is only taken (R71). -/
theorem moveDone_of_ok (hop : p.op = pMoveDone) (hstage : toStage s p = none) (hq : plotOf s p = some q)
    (hcode : leAt p.payload 0 2 = 0) : moveDone p s = taken s p := by
  have hq' : plotOf (taken s p) p = some q := hq
  simp [moveDone, hop, hstage, hq', hcode]

theorem moveDone_of_marker (hop : p.op = pMoveDone) (hstage : toStage s p = none) (hq : plotOf s p = some q)
    (hcode : leAt p.payload 0 2 ≠ 0) (hdst : moveDst s (p.fcid.toNat % 256) p.dst ≠ p.src) :
    moveDone p s = plotMarker (taken s p) q p (BitVec.ofNat 16 (leAt p.payload 0 2)) := by
  have hne : BitVec.ofNat 16 (leAt p.payload 0 2) ≠ 0#16 := fun h => hcode <| by
    rw [← toNat_ofNat_leAt, h]
    rfl
  have hdst' : moveDst (taken s p) (p.fcid.toNat % 256) p.dst ≠ p.src := hdst
  have hq' : plotOf (taken s p) p = some q := hq
  simp [moveDone, hop, hstage, hq', hne, hdst']

/-- A fenced stage takes the packets of a movement, and nothing else changes (R259). -/
theorem moveData_of_fenced {st i : Nat} (hop : p.op = pMoveData) (hstage : toStage s p = some (st, i))
    (hfenced : (stage s st).fenced = true) : moveData p s = taken s p := by simp [moveData, hop, hstage, moveToStage, hfenced]

theorem moveDone_of_fenced {st i : Nat} (hop : p.op = pMoveDone) (hstage : toStage s p = some (st, i))
    (hfenced : (stage s st).fenced = true) : moveDone p s = taken s p := by simp [moveDone, hop, hstage, hfenced]

/-- A marker changes only the transfers, the packets delivered and the tally, whose newest entry has its code. -/
theorem plotMarker_fields (s : State) (q : Nat) (p : Pkt) (code : Half) :
    (∃ e, newest (plotMarker s q p code) = some e ∧ e.kind = kMoveDone ∧ e.fault = code) ∧
    (plotMarker s q p code).plots = s.plots ∧ (plotMarker s q p code).ingress = s.ingress ∧ (plotMarker s q p code).gran = s.gran := by
  simp [plotMarker, moveEntry, putMove, Entry.make]

theorem exec_moveData (h : s.live) (hp : p.whole) : exec (.moveData p) s = .next (moveData p s) := onPkt_ok h hp

theorem exec_moveDone (h : s.live) (hp : p.whole) : exec (.moveDone p) s = .next (moveDone p s) := onPkt_ok h hp

end

end Sys2Proof.Machine

namespace Sys2Proof
open Sys2Proof.Machine Sys2Proof.Laws

theorem grantsArrive : Claims.GrantsArrive := by
  intro s p f i hl hp hplace
  refine ⟨fun hop q b r hq hb => ⟨fun hopen => ?_, fun hopen hread => ?_⟩, fun hq d hd => ?_, fun hq hd => ?_,
    fun slot k n b bs hslot hlead hfrom hserved hcoll hhead => ⟨fun hwait => ?_, fun hsole hnone hdense hchild hhome => ?_⟩⟩
  · rw [exec_colGrant hl hp, Option.map_none, colGrant_at_plot hq, grantToPlot_of_closed hplace hb hopen]
  · refine ⟨_, (exec_colGrant hl hp).trans (congrArg _ ((colGrant_at_plot hq).trans (grantToPlot_of_open hop hplace hb hopen hread))), ?_⟩
    have hlen : (slice p.payload 0 32).length = 32 := length_slice ..
    have hplot : plot (grantPassed (taken s p) p) q = plot s q := rfl
    have hreads := reads_writes (plot s q).scratch (128 * r.first) (slice p.payload 0 32)
    rw [hlen] at hreads
    refine ⟨by simp, by simp, by simp [hplot], by simp [hplot], by simpa [hplot] using hreads, fun a ha => ?_, ?_, ?_, ?_⟩
    · simpa [hplot] using mem_read_writes_out (plot s q).scratch (128 * r.first) a (slice p.payload 0 32) (by rwa [hlen])
    · simpa [modBind] using mem_grants_grantPassed (taken s p) p
    · simp [modBind, grantPassed]
    · simp [modBind, grantPassed]
  · obtain ⟨hgranted, hchunks, hdel, hgran⟩ := flushOut_keeps (modFeed (taken s p) d fun x => { x with outGranted := true }) d
    refine ⟨_, (exec_colGrant hl hp).trans (congrArg _ ((colGrant_at_update hq).trans (updOutGrant_of_feed hplace hd))), ?_⟩
    rw [feedSt_modFeed] at hgranted hchunks
    exact ⟨hgranted, hchunks, hdel, hgran⟩
  · rw [exec_colGrant hl hp, Option.map_none, colGrant_at_update hq, updOutGrant_of_no_feed hplace hd]
  · refine ⟨_, (exec_colGrant hl hp).trans (congrArg _ (slotGrant_of_waiting hslot hlead hfrom hserved hcoll hhead hwait)), ?_⟩
    simp
  · subst hsole
    have hsend : slotGrant slot.toNat p s = withLodged (grantsWhole s n p) [_] :=
      (slotGrant_of_single hslot hlead hfrom hserved hcoll hhead hnone hdense).trans (passGrant_of_home (s := grantsWhole s n p) hchild hhome _)
    refine ⟨_, _, (exec_colGrant hl hp).trans (congrArg _ hsend), rfl, rfl, rfl,
      colLodged_payload _ _ _ _ _ _ _ (length_mod_of_whole hp), ?_, rfl⟩
    exact congrArg Node.granted (nodeSt_modNode ..)

theorem movementsArrive : Claims.MovementsArrive := by
  intro s p hl hp
  refine ⟨fun hop st i hstage hfenced => ?_, ?_⟩
  · rcases hop with hop | hop
    · rw [if_pos hop, exec_moveData hl hp, moveData_of_fenced hop hstage hfenced, taken]
    · rw [if_neg (hop.trans_ne (by decide)), exec_moveDone hl hp, moveDone_of_fenced hop hstage hfenced, taken]
  rintro hstage q f total hq rfl hmoves rfl
  refine ⟨fun hop hb => ?_, fun hop b r hb hsealed => ⟨fun hopen => ?_, fun hopen hetype hoff hlen hfits hread => ?_⟩,
    fun hop => ⟨fun hcode => ?_, fun hcode hdst => ?_⟩⟩
  · obtain ⟨hingress, hcode, hplots, hgran⟩ := moveRefused_fields s q p
    exact ⟨_, _, (exec_moveData hl hp).trans (congrArg _ ((moveData_at_plot hop hstage hq).trans (moveToPlot_of_unbound hmoves hb))),
      congrArg (· ++ _) hingress, rfl, rfl, rfl, doneLodged_code .., hcode, hplots, hgran⟩
  · rw [exec_moveData hl hp, moveData_at_plot hop hstage hq, moveToPlot_of_closed hmoves hb hopen]
  · obtain ⟨crop, hmove⟩ := moveToPlot_of_whole hp hmoves hb hsealed hopen hetype hoff hlen hfits hread
    obtain ⟨hingress, hdel, hmoves', hgran, e, he, hkind, hfault⟩ := moveStored_fields (q := q) (r := r) (p := p) hmoves crop
    have hlen' : (slice p.payload 16 (4 * moveTotal p)).length = 4 * moveTotal p := length_slice ..
    have hreads := reads_writes (plot s q).scratch (128 * r.first) (slice p.payload 16 (4 * moveTotal p))
    rw [hlen'] at hreads
    have hplot : ∀ ls, plot (withLodged (moveStored s q r p crop) ls) q = plot (moveStored s q r p crop) q := fun _ => rfl
    refine ⟨_, doneLodged (moveStored s q r p crop) (1024 + q) p 0 crop, e,
      (exec_moveData hl hp).trans (congrArg _ ((moveData_at_plot hop hstage hq).trans hmove)), by simp [hingress], rfl, rfl, rfl,
      doneLodged_code .., ?_, hkind, hfault, by simp, by simp [hmoves'], ?_, fun a ha => ?_, by simp [hdel], by simp [hgran]⟩
    · simpa [newest] using he
    · simpa [hplot, plot_moveStored] using hreads
    · simpa [hplot, plot_moveStored] using
        mem_read_writes_out (plot s q).scratch (128 * r.first) a (slice p.payload 16 (4 * moveTotal p)) (by rwa [hlen'])
  · rw [exec_moveDone hl hp, moveDone_of_ok hop hstage hq hcode, taken]
  · obtain ⟨⟨e, he, hkind, hfault⟩, hplots, hingress, hgran⟩ := plotMarker_fields (taken s p) q p (BitVec.ofNat 16 (leAt p.payload 0 2))
    exact ⟨_, e, (exec_moveDone hl hp).trans (congrArg _ (moveDone_of_marker hop hstage hq hcode hdst)), he, hkind, hfault, hplots,
      hingress, hgran⟩

/-- Settles O47: a grant completes its GRANT binding, opens the all-gather's data or waits at a node for the other waybills' grants; a
movement transfer is written into its binding and answered, refused without one, and a marker ends it. -/
theorem grantsAndMovementsArrive : Obligations.GrantsAndMovementsArrive := ⟨grantsArrive, movementsArrive⟩

end Sys2Proof

/-! # The parameter update: O50 and O51

`KeepsApplied` says of the faults of shares and feeds that they leave what has been applied, and `Applies` of an element that it changes
the granary and the records of shares alone. A grant or a chunk then comes, case by case, to a state that is written out. -/

namespace Sys2Proof.Machine
open Sys2Proof Sys2Proof.Laws

section
variable {s t u : State}

/-! ## Group writes (R576, R116) -/

theorem exec_updGroupWrite {c : Cmd} (hl : s.live) (hc : c.passes oUpdGroupWrite [(0, 1), (1, 1), (2, 1), (4, 2), (8, 8), (16, 48)])
    (hpos : 1 ≤ c.u 2 1) (hmax : c.u 2 1 ≤ 48) (hplace : c.u 1 1 + c.u 2 1 ≤ 48 ∨ 68 ≤ c.u 1 1 ∧ c.u 1 1 + c.u 2 1 ≤ 80)
    (hgroup : c.u 4 2 ≤ 4095) : exec (.updGroupWrite c) s = .next (groupWrite c s) := by
  have hok : (decide (1 ≤ c.u 2 1) && decide (c.u 2 1 ≤ 48) && (decide (c.u 1 1 + c.u 2 1 ≤ 48) ||
      (decide (68 ≤ c.u 1 1) && decide (c.u 1 1 + c.u 2 1 ≤ 80))) && decide (c.u 4 2 ≤ 4095)) = true := by
    simpa [hpos, hmax, hgroup] using hplace
  change onCmd _ c _ _ s (groupWrite c) = _
  rw [hok]
  exact onCmd_ok hl hc

/-! ## Shares and feeds -/

theorem shareSt_congr (h : t.upd = s.upd) : shareSt t = shareSt s := by
  funext sh; rw [shareSt, h, shareSt]

theorem feedSt_congr (h : t.upd = s.upd) : feedSt t = feedSt s := by
  funext k; rw [feedSt, h, feedSt]

@[simp] theorem shareSt_modShare (s : State) (sh : Nat) (f : ShareSt → ShareSt) : shareSt (modShare s sh f) sh = f (shareSt s sh) :=
  tab_get_upd ..

theorem shareSt_modShare_ne (s : State) {sh r : Nat} (h : r ≠ sh) (f : ShareSt → ShareSt) :
    shareSt (modShare s sh f) r = shareSt s r := tab_get_upd_ne _ _ _ _ _ h

@[simp] theorem feedSt_modShare (s : State) (sh : Nat) (f : ShareSt → ShareSt) : feedSt (modShare s sh f) = feedSt s := rfl

@[simp] theorem shareSt_modFeed (s : State) (k : Nat) (f : FeedSt → FeedSt) : shareSt (modFeed s k f) = shareSt s := rfl

@[simp] theorem shareSt_raise (s : State) (code : Half) (ut : BitVec 4) (unit : Nat) : shareSt (raise s code ut unit) = shareSt s :=
  shareSt_congr (by simp)

@[simp] theorem feedSt_raise (s : State) (code : Half) (ut : BitVec 4) (unit : Nat) : feedSt (raise s code ut unit) = feedSt s :=
  feedSt_congr (by simp)

theorem feedSt_modFeed_ne (s : State) {k q : Nat} (h : q ≠ k) (f : FeedSt → FeedSt) :
    feedSt (modFeed s k f) q = feedSt s q := tab_get_upd_ne _ _ _ _ _ h

/-- Without a yoke no share has a role (18 R513). -/
theorem not_yoked (h : s.yoke.role = .none) {r : Role} (hr : r ≠ .none) (sh : Nat) : yoked s r sh = false := by
  simp [yoked, h, hr.symm]

theorem yokeCopy_of_single (h : s.yoke.role = .none) (sh : Nat) (p : Pkt) : yokeCopy s sh p = s := by
  simp [yokeCopy, not_yoked h]

/-! ## Faults of shares and feeds (R108, R133, R134) -/

/-- A feed that has ended aborted, and holds nothing to apply (R133). -/
def feedEnded (s : State) (k : Nat) : Prop := (feedSt s k).aborted = true ∧ (feedSt s k).parts = []

/-- What the faults of shares and feeds leave: the granary, the packets delivered, the shares lost, the chunks applied of each feed, and
the feeds that have ended. -/
structure KeepsApplied (s t : State) : Prop where
  gran : t.gran = s.gran
  delivered : t.delivered = s.delivered
  lost (sh : Nat) : (shareSt t sh).lost = (shareSt s sh).lost
  chunks (k : Nat) : (feedSt t k).chunks = (feedSt s k).chunks
  ended (k : Nat) : feedEnded s k → feedEnded t k

namespace KeepsApplied

theorem refl (s : State) : KeepsApplied s s := ⟨rfl, rfl, fun _ => rfl, fun _ => rfl, fun _ => id⟩

theorem trans (h : KeepsApplied s t) (k : KeepsApplied t u) : KeepsApplied s u :=
  ⟨k.gran.trans h.gran, k.delivered.trans h.delivered, fun sh => (k.lost sh).trans (h.lost sh), fun q => (k.chunks q).trans (h.chunks q),
    fun q => k.ended q ∘ h.ended q⟩

theorem foldl {α : Type*} {f : State → α → State} (step : ∀ s a, KeepsApplied s (f s a)) (l : List α) (s : State) :
    KeepsApplied s (l.foldl f s) := foldl_of_step refl trans step l s

/-- The update path's own record unchanged. -/
theorem of_upd (hu : t.upd = s.upd) (hg : t.gran = s.gran) (hd : t.delivered = s.delivered) : KeepsApplied s t :=
  ⟨hg, hd, fun sh => by rw [shareSt_congr hu], fun k => by rw [feedSt_congr hu], fun k => by simp [feedEnded, feedSt_congr hu]⟩

theorem of_sends {P : Lodged → Prop} (h : Sends P s t) : KeepsApplied s t := by
  obtain ⟨ls, -, rfl⟩ := h
  exact of_upd rfl rfl rfl

end KeepsApplied

theorem tally_keepsApplied (s : State) (e : Entry) : KeepsApplied s (tally s e) := .of_upd (by simp) (by simp) (by simp)

theorem raise_keepsApplied (s : State) (code : Half) (ut : BitVec 4) (unit : Nat) : KeepsApplied s (raise s code ut unit) :=
  .of_upd (by simp) (by simp) (by simp)

theorem raiseBy_keepsApplied (s : State) (code : Half) (ut : BitVec 4) (unit : Nat) (kind : Half) (body : List Byte) :
    KeepsApplied s (raiseBy s code ut unit kind body) := by
  have h := auditFault_fields s code
  apply KeepsApplied.of_upd <;> simp [raiseBy, raiseCount, h]

theorem modShare_keepsApplied (s : State) (sh : Nat) {f : ShareSt → ShareSt} (h : ∀ x, (f x).lost = x.lost) :
    KeepsApplied s (modShare s sh f) where
  gran := rfl
  delivered := rfl
  lost r := by
    by_cases hr : r = sh
    · rw [hr, shareSt_modShare, h]
    · rw [shareSt_modShare_ne s hr]
  chunks _ := rfl
  ended _ := id

theorem modFeed_keepsApplied (s : State) (k : Nat) {f : FeedSt → FeedSt} (hc : ∀ x, (f x).chunks = x.chunks)
    (he : ∀ x, x.aborted = true ∧ x.parts = [] → (f x).aborted = true ∧ (f x).parts = []) : KeepsApplied s (modFeed s k f) where
  gran := rfl
  delivered := rfl
  lost _ := rfl
  chunks q := by
    by_cases hq : q = k
    · rw [hq, feedSt_modFeed, hc]
    · rw [feedSt_modFeed_ne s hq]
  ended q hend := by
    by_cases hq : q = k
    · subst hq
      rw [feedEnded, feedSt_modFeed]
      exact he _ hend
    · rwa [feedEnded, feedSt_modFeed_ne s hq]

theorem shareFault_keepsApplied (s : State) (sh : Nat) (code : Half) : KeepsApplied s (shareFault s sh code) :=
  (modShare_keepsApplied s sh (f := fun x => { x with lastFault := code }) fun _ => rfl).trans (raise_keepsApplied ..)

theorem tearShare_keepsApplied (s : State) (sh : Nat) (ks : List Nat) : KeepsApplied s (tearShare s sh ks) := by
  have noted (s : State) (k : Nat) : KeepsApplied s (modFeed s k fun x => { x with tornNoted := true }) :=
    modFeed_keepsApplied s k (fun _ => rfl) fun _ => id
  unfold tearShare
  extract_lets fresh ks s1 note
  have h1 : KeepsApplied s s1 := modShare_keepsApplied s sh fun _ => rfl
  have hnote (s : State) (ks : List Nat) : KeepsApplied s (ks.foldl note s) :=
    .foldl (fun s k => (noted s k).trans (tally_keepsApplied ..)) ks s
  clear_value fresh ks
  split
  · exact h1.trans (raise_keepsApplied ..)
  · exact h1.trans (((noted _ _).trans (raiseBy_keepsApplied ..)).trans (hnote ..))
  · exact h1.trans (hnote ..)

theorem askRoot_sends (s : State) (unit f i r coll : Nat) (code : Half) :
    Sends (fun _ => True) s (askRoot s unit f i r coll code) := by
  unfold askRoot
  split
  · exact sends_sendCol trivial
  · exact Sends.refl s

/-- An abort ends its feed, whether or not its share is torn. -/
theorem abortFeed_ends (s : State) (k : Nat) : KeepsApplied s (abortFeed s k) ∧ feedEnded (abortFeed s k) k := by
  unfold abortFeed
  extract_lets sh x s1 s2
  have h1 : KeepsApplied s s1 := (shareFault_keepsApplied ..).trans (modFeed_keepsApplied _ _ (fun _ => rfl) fun _ _ => ⟨rfl, rfl⟩)
  have hend : feedEnded s1 k := by simp [feedEnded, s1, feedSt_modFeed]
  have h2 : KeepsApplied s1 s2 := by
    simp only [s2]
    split
    · exact .refl s1
    · exact .of_sends (askRoot_sends ..)
  split
  · exact ⟨(h1.trans h2).trans (tearShare_keepsApplied ..), (h2.trans (tearShare_keepsApplied s2 sh [k])).ended k hend⟩
  · exact ⟨h1.trans h2, h2.ended k hend⟩

theorem abortUnfinished_keeps (s : State) (sh : Nat) : KeepsApplied s (abortUnfinished s sh) := by
  refine KeepsApplied.foldl (fun s k => ?_) (feedIds s) s
  dsimp only
  split
  · exact (abortFeed_ends s k).1
  · exact .refl s

/-- A lost share of which no feed is granted aborts none. -/
theorem abortUnfinished_of_ungranted {sh : Nat} (h : ∀ k ∈ feedIds s, fdShare s k = sh → (feedSt s k).granted = false) :
    abortUnfinished s sh = s := by
  refine List.foldlRecOn (feedIds s) _ (motive := (· = s)) rfl fun t ht k hk => ?_
  subst ht
  dsimp only
  rw [if_neg]
  intro hc
  simp only [Bool.and_eq_true, beq_iff_eq] at hc
  obtain ⟨⟨⟨hshare, hgranted⟩, -⟩, -⟩ := hc
  simp [h k hk hshare] at hgranted

/-- The fault of a lost share (R108). -/
def lossRaised (s : State) (sh : Nat) : State := shareFault (modShare s sh fun y => { y with lost := true }) sh fUpdShareCheck

theorem loseShare_eq (s : State) (sh : Nat) : loseShare s sh = abortUnfinished (lossRaised s sh) sh := rfl

theorem lossRaised_fields (s : State) (sh : Nat) :
    (lossRaised s sh).gran = s.gran ∧ (lossRaised s sh).delivered = s.delivered ∧ (lossRaised s sh).plan = s.plan ∧
    (lossRaised s sh).upd.feeds = s.upd.feeds ∧ (lossRaised s sh).fault.lastCode = fUpdShareCheck ∧
    shareSt (lossRaised s sh) sh = { shareSt s sh with lost := true, lastFault := fUpdShareCheck } := by
  rw [lossRaised, shareFault]
  exact ⟨by simp [modShare], by simp [modShare], by simp [modShare], by simp [modShare], raise_lastCode .., by simp⟩

theorem feedIds_congr (h : t.plan = s.plan) : feedIds t = feedIds s := by
  rw [feedIds, planRecs, h, feedIds, planRecs]

theorem fdShare_congr (h : t.plan = s.plan) : fdShare t = fdShare s := by
  funext k; rw [fdShare, feedW, planRec, h, fdShare, feedW, planRec]

/-- A share that is lost, with the granary, the packets and the chunks applied as they were. -/
theorem loseShare_keeps (s : State) (sh : Nat) :
    (shareSt (loseShare s sh) sh).lost = true ∧ (loseShare s sh).gran = s.gran ∧ (loseShare s sh).delivered = s.delivered ∧
    ∀ k, (feedSt (loseShare s sh) k).chunks = (feedSt s k).chunks := by
  obtain ⟨hgran, hdel, -, hfeeds, -, hshare⟩ := lossRaised_fields s sh
  have h := abortUnfinished_keeps (lossRaised s sh) sh
  refine ⟨?_, h.gran.trans hgran, h.delivered.trans hdel, fun k => (h.chunks k).trans ?_⟩
  · rw [loseShare_eq, h.lost, hshare]
  · rw [feedSt, hfeeds, feedSt]

theorem loseShare_of_ungranted {sh : Nat} (h : ∀ k ∈ feedIds s, fdShare s k = sh → (feedSt s k).granted = false) :
    loseShare s sh = lossRaised s sh := by
  obtain ⟨-, -, hplan, hfeeds, -⟩ := lossRaised_fields s sh
  rw [loseShare_eq]
  refine abortUnfinished_of_ungranted ?_
  rw [feedIds_congr hplan, fdShare_congr hplan]
  simpa only [feedSt, hfeeds] using h

end
end Sys2Proof.Machine

namespace Sys2Proof.Machine
open Sys2Proof Sys2Proof.Laws

section
variable {s t u : State}

/-! ## Feed grants (R119) -/

theorem length_patch (b bs : List Byte) (off : Nat) (h : off + bs.length ≤ b.length) : (patch b off bs).length = b.length := by
  simp only [patch, List.length_append, List.length_take, List.length_drop]
  omega

@[simp] theorem length_updBill (s : State) (k h : Nat) : (updBill s k h).length = 64 := by
  rw [updBill, length_patch] <;> simp

/-- The devices at whose leaf slots the waybills of a furrow's trees arrive. -/
def billDevices (s : State) (f : Nat) : List Nat :=
  ((List.range (max 1 (furrowFld s f 4))).filterMap fun r => (leafNode s f r).map (·.device)).eraseDups

/-- A tree of range 0 with a leaf gives a device to send to. -/
theorem billDevices_ne_nil {f : Nat} (h : (leafNode s f 0).isSome = true) : billDevices s f ≠ [] := by
  obtain ⟨n, hn⟩ := Option.isSome_iff_exists.mp h
  refine List.ne_nil_of_mem (a := n.device) (List.mem_eraseDups.mpr (List.mem_filterMap.mpr ⟨0, by simp, by simp [hn]⟩))

/-- The update path's waybills leave as packets of the device. -/
theorem sendBill_eq (s : State) (unit f : Nat) (b : List Byte) : sendBill s unit (ownAddr s) f b =
    withLodged s ((billDevices s f).map fun d => colLodged s unit (addr d 0) pColWaybill 0 (wbColl b) b) := by
  have hown (src : Addr) (l : List Nat) (t : State) (ht : ownAddr t = src) :
      l.foldl (fun t d => send t unit (mkPkt src (addr d 0) 7 pColWaybill 0 (BitVec.ofNat 32 (wbColl b)) t.fault.epochMax b)) t =
        l.foldl (fun t d => sendCol t unit (addr d 0) pColWaybill 0 (wbColl b) b) t := by
    induction l generalizing t with
    | nil => rfl
    | cons d l ih =>
      subst ht
      exact ih _ rfl
  exact (hown _ _ s rfl).trans (foldl_sendCol ..)

variable {p : Pkt} {bill : List Byte} {chk : Bool} {f i k : Nat}

section
variable (s : State) (p : Pkt)

/-- A packet taken changes nothing that the update path reads. -/
theorem feedFor_taken : feedFor (taken s p) = feedFor s := rfl
theorem feedSt_taken : feedSt (taken s p) = feedSt s := rfl
theorem shareSt_taken : shareSt (taken s p) = shareSt s := rfl
theorem fdShare_taken : fdShare (taken s p) = fdShare s := rfl
theorem fdLen_taken : fdLen (taken s p) = fdLen s := rfl
theorem groupsOk_taken : groupsOk (taken s p) = groupsOk s := rfl
theorem shareRefuses_taken : shareRefuses (taken s p) = shareRefuses s := rfl

end

/-- A feed whose grant has been accepted, before its waybill leaves. -/
def feedAccepted (s : State) (p : Pkt) (k : Nat) : State :=
  modFeed (modShare (taken s p) (fdShare s k) fun x => { x with feedActive := true }) k fun _ => { granted := true }

theorem feedSt_feedAccepted (s : State) (p : Pkt) (k : Nat) : feedSt (feedAccepted s p k) k = { granted := true } := feedSt_modFeed ..

theorem shareSt_feedAccepted (s : State) (p : Pkt) (k : Nat) :
    shareSt (feedAccepted s p k) (fdShare s k) = { shareSt s (fdShare s k) with feedActive := true } := by
  rw [feedAccepted, shareSt_modFeed, shareSt_modShare, shareSt_taken]

/-- The update path's waybills for a feed, as they are lodged. -/
def feedBills (s : State) (k h : Nat) : List Lodged :=
  (billDevices s (fdOut s k).1).map fun d =>
    colLodged s (shareUnit s (fdShare s k)) (addr d 0) pColWaybill 0 (wbColl (updBill s k h)) (updBill s k h)

theorem op_payload_of_mem_feedBills {h : Nat} {l : Lodged} (hl : l ∈ feedBills s k h) :
    l.p.op = pColWaybill ∧ l.p.payload = updBill s k h := by
  obtain ⟨d, -, rfl⟩ := List.mem_map.mp hl
  exact ⟨rfl, colLodged_payload _ _ _ _ _ _ _ (by simp)⟩

theorem feedBills_ne_nil (h : Nat) (hleaf : (leafNode s (fdOut s k).1 0).isSome = true) : feedBills s k h ≠ [] := by
  simpa [feedBills] using billDevices_ne_nil hleaf

section
variable (hplace : collPlace s p.fcid.toNat = some (f, i)) (hfeed : feedFor s f i (leAt p.payload 6 2 % 4096) = some k)
  (hhash : hashHolds s (fdShare s k) = false) (hrole : s.yoke.role = .none) (hgranted : (feedSt s k).granted = false)
  (houtcome : (feedSt s k).outcome = none)
include hplace hfeed hhash hrole hgranted houtcome

/-- A record that fails its check loses the share; what follows are packets. -/
theorem feedGrant_of_failed (hfail : chk = false ∨ groupsOk s (fdShare s k) = false) :
    Sends (fun _ => True) (loseShare (taken s p) (fdShare s k)) (feedGrant p bill chk s) := by
  have hlost : (!chk || !groupsOk s (fdShare s k)) = true := by simpa using hfail
  simp only [feedGrant, hplace, hfeed, hhash, hgranted, houtcome, hlost, feedFor_taken, feedSt_taken, fdShare_taken, groupsOk_taken,
    yokeCopy_of_single (s := taken s p) hrole, Option.map_some, Option.getD_some, Option.isSome_none, Bool.or_self, Bool.false_eq_true,
    if_false, if_true]
  split
  · exact Sends.refl _
  · exact askRoot_sends ..

/-- A sound grant is taken, and the all-gather's waybill leaves. -/
theorem feedGrant_of_sound (hchk : chk = true) (hgroups : groupsOk s (fdShare s k) = true) (hrefuses : shareRefuses s (fdShare s k) = none)
    (hlen : leAt p.payload 16 8 = fdLen s k) (hredop : wbRedop bill = 0) (hout : wbOut bill = 0) :
    feedGrant p bill chk s = modFeed (withLodged (feedAccepted s p k) (feedBills s k (leAt p.payload 24 8))) k fun x =>
      { x with out := some (wbColl (updBill s k (leAt p.payload 24 8))) } := by
  have hyoked : yoked (feedAccepted s p k) .shadow (fdShare s k) = false := not_yoked hrole (by decide) _
  have hsend : sendBill (feedAccepted s p k) (shareUnit s (fdShare s k)) (ownAddr s) (fdOut s k).1 (updBill s k (leAt p.payload 24 8)) =
      withLodged (feedAccepted s p k) (feedBills s k (leAt p.payload 24 8)) := sendBill_eq (feedAccepted s p k) ..
  rw [← hsend]
  rw [feedAccepted] at hyoked ⊢
  simp only [feedGrant, hplace, hfeed, hhash, hgranted, houtcome, hchk, hgroups, hrefuses, hlen, hredop, hout, hyoked, feedFor_taken,
    feedSt_taken, fdShare_taken, groupsOk_taken, shareRefuses_taken, fdLen_taken, yokeCopy_of_single (s := taken s p) hrole,
    Option.map_some, Option.getD_some, Option.isSome_none, Bool.or_self, Bool.not_true, bne_self_eq_false, Bool.false_eq_true, if_false]
  rfl

end

/-! ## Chunks (R120, R133) -/

section
variable {k : Nat} {chk : Bool} {e : Ecc}

/-- Only a feed of the plan has chunks (R117). -/
theorem planRec_isSome_of_lt {n : Nat} (h : n < cdiv (fdLen s k) 1792) : (planRec s 0x0A 0x02 k).isSome = true := by
  cases hr : planRec s 0x0A 0x02 k with
  | none => simp [fdLen, feedW, hr, bits, cdiv] at h
  | some r => rfl

theorem exec_updChunkApply {k : BitVec 12} {r : DescRead} (h : s.live) :
    exec (.updChunkApply k r) s = .next (chunkApply k.toNat r.chk r.e s) := event_ok h

theorem exec_updFeedGrant {p : Pkt} {bill : List Byte} (h : s.live) (hp : p.whole) :
    exec (.updFeedGrant p bill chk) s = .next (feedGrant p bill chk s) := onPkt_ok h hp

theorem chunkApply_of_partial (h : gathered (feedSt s k).parts (feedSt s k).chunks = none) : chunkApply k true e s = s := by
  simp [chunkApply, h]

theorem chunkApply_of_unchecked (hplan : (planRec s 0x0A 0x02 k).isSome = true) (hlost : shareLost s (fdShare s k) = none) :
    chunkApply k false e s = loseShare s (fdShare s k) := by
  simp [chunkApply, hplan, hlost]

/-- The elements of a feed's next chunk applied, in order. -/
def chunkApplied (s : State) (k : Nat) (bs : List Byte) : State :=
  (List.range (chunkLen (fdLen s k) (feedSt s k).chunks)).foldl (fun t i =>
    applyElem t (fdShare s k) (fdFirst t k + 1792 * (feedSt s k).chunks + i) (leAt bs (4 * i) 4)) s

/-- A chunk of a feed counted, and its packets let go. -/
def chunkTaken (s : State) (k chunk : Nat) : State :=
  modFeed s k fun y => { y with chunks := y.chunks + 1, parts := y.parts.filter fun q => q.1 != chunk }

section
variable {bs : List Byte} (hgranted : (feedSt s k).granted = true) (haborted : (feedSt s k).aborted = false)
  (hchunks : (feedSt s k).chunks < cdiv (fdLen s k) 1792) (hbs : gathered (feedSt s k).parts (feedSt s k).chunks = some bs)
include hgranted haborted hchunks hbs

/-- A chunk of a lost share, or one whose state reads with an uncorrectable error, aborts its feed. -/
theorem chunkApply_aborts (h : (shareLost s (fdShare s k)).isSome = true ∨ chk = true ∧ groupsOk s (fdShare s k) = true ∧ e = .ue) :
    ∃ u, KeepsApplied s u ∧ chunkApply k chk e s = abortFeed u k := by
  cases hlost : shareLost s (fdShare s k) with
  | some code => exact ⟨s, .refl s, by simp [chunkApply, hgranted, haborted, hchunks.not_ge, hbs, hlost]⟩
  | none =>
    obtain ⟨rfl, hgroups, rfl⟩ := h.resolve_left (by simp [hlost])
    obtain ⟨stack, hraise⟩ : ∃ stack, chunkApply k true .ue s = abortFeed (raise s fGranaryUe uGranary stack) k :=
      ⟨_, by simp [chunkApply, hgranted, haborted, hchunks.not_ge, hbs, hlost, hgroups]; rfl⟩
    exact ⟨_, raise_keepsApplied .., hraise⟩

theorem chunkApply_of_failed (hlost : shareLost s (fdShare s k) = none) (hfail : chk = false ∨ groupsOk s (fdShare s k) = false) :
    chunkApply k chk e s = loseShare s (fdShare s k) := by
  cases chk with
  | false => exact chunkApply_of_unchecked (planRec_isSome_of_lt hchunks) hlost
  | true => simp [chunkApply, hgranted, haborted, hchunks.not_ge, hbs, hlost, hfail.resolve_left]

theorem chunkApply_of_whole (hlost : shareLost s (fdShare s k) = none) (hgroups : groupsOk s (fdShare s k) = true) :
    chunkApply k true .ok s = pushOut (chunkTaken (chunkApplied s k bs) k (feedSt s k).chunks) k := by
  simp [chunkApply, hgranted, haborted, hchunks.not_ge, hbs, hlost, hgroups, chunkApplied, chunkTaken]

end
end

/-! ## Elements (R122, R125) -/

/-- `t` is `s` with elements applied: only the granary and the records of shares change. -/
def Applies (s t : State) : Prop := ∃ gran shares, t = { s with gran, upd := { s.upd with shares } }

theorem Applies.refl (s : State) : Applies s s := ⟨s.gran, s.upd.shares, rfl⟩

theorem Applies.trans (h : Applies s t) (k : Applies t u) : Applies s u := by
  obtain ⟨_, _, rfl⟩ := h
  obtain ⟨_, _, rfl⟩ := k
  exact ⟨_, _, rfl⟩

theorem granPut_applies (s : State) (a n v : Nat) : Applies s (granPut s a n v) := ⟨_, s.upd.shares, rfl⟩

theorem modShare_applies (s : State) (sh : Nat) (f : ShareSt → ShareSt) : Applies s (modShare s sh f) := ⟨s.gran, _, rfl⟩

theorem putElem'_applies (s : State) (sh g : Nat) (b : List Byte) (i : Nat) (v : Option (Nat × Nat × Nat)) :
    Applies s (putElem' s sh g b i v) := by
  unfold putElem'
  extract_lets rb wb old new three s1 s2 s3 s4 bad
  have h2 : Applies s s2 := (granPut_applies ..).trans (granPut_applies ..)
  have h3 : Applies s2 s3 := by
    simp only [s3]
    split
    · exact granPut_applies ..
    · exact .refl s2
  exact ((h2.trans h3).trans (granPut_applies ..)).trans (modShare_applies ..)

theorem applyElem_applies (s : State) (sh i g : Nat) : Applies s (applyElem s sh i g) := by
  unfold applyElem
  dsimp only
  split
  · exact (granPut_applies ..).trans (modShare_applies ..)
  · exact putElem'_applies ..

theorem chunkApplied_applies (s : State) (k : Nat) (bs : List Byte) : Applies s (chunkApplied s k bs) :=
  foldl_of_step Applies.refl Applies.trans (fun t _ => applyElem_applies t ..) _ s

/-- Chunks counted and sent change only how many of them are ready and sent. -/
theorem pushOut_keeps (s : State) (k : Nat) :
    (∃ ready sent, feedSt (pushOut s k) k = { feedSt s k with ready, sent }) ∧ (pushOut s k).fault = s.fault ∧
      (pushOut s k).plots = s.plots := by
  unfold pushOut
  obtain ⟨t, ⟨ingress, coll, rfl⟩, h | h⟩ := flushOut_emits (modFeed s k fun x => { x with ready := readyChunks s k }) k
  · rw [h]
    exact ⟨⟨_, _, feedSt_modFeed ..⟩, rfl, rfl⟩
  · rw [h, feedSt_modFeed]
    exact ⟨⟨_, _, congrArg (fun x => { x with sent := x.ready }) (feedSt_modFeed ..)⟩, rfl, rfl⟩

theorem reads_writes_out (m : Mem) (a b n : Nat) (bs : List Byte) (h : b + n ≤ a ∨ a + bs.length ≤ b) :
    Mem.reads (Mem.writes m a bs) b n = Mem.reads m b n :=
  List.map_congr_left fun i hi => mem_read_writes_out m a (b + i) bs (by have := List.mem_range.mp hi; omega)

/-- The two arrays of a state block lie a block's width apart (Table 4-2). -/
theorem stateAddr_one (s : State) (sh : Nat) (bank : Bool) (i : Nat) : stateAddr s sh bank 1 i = stateAddr s sh bank 0 i + 7168 := by
  simp only [stateAddr]
  omega

section
variable (s : State) (a n v : Nat)

/-- A write to the granary moves no array of a share. -/
theorem stateAddr_granPut : stateAddr (granPut s a n v) = stateAddr s := rfl
theorem outAddr_granPut : outAddr (granPut s a n v) = outAddr s := rfl
theorem shWout_granPut : shWout (granPut s a n v) = shWout s := rfl
theorem outWeight_granPut : outWeight (granPut s a n v) = outWeight s := rfl

end

/-- The granary with an element's master, moment and output weight of 4 bytes each written. -/
def elemWritten (s : State) (sh i w m : Nat) : Mem :=
  Mem.writes (Mem.writes (Mem.writes s.gran (stateAddr s sh false 0 i) (leBytes 4 w)) (stateAddr s sh false 1 i) (leBytes 4 m))
    (outAddr s sh i) (leBytes 4 w)

section
variable {sh i g gr : Nat}

/-- What an element's write leaves where, when its output weight lies beside its state. -/
theorem reads_elemWritten (w m : Nat)
    (hbeside : ∀ a, a ∈ [stateAddr s sh false 0 i, stateAddr s sh false 1 i] → a + 4 ≤ outAddr s sh i ∨ outAddr s sh i + 4 ≤ a) :
    leNat (Mem.reads (elemWritten s sh i w m) (stateAddr s sh false 0 i) 4) = w % 2 ^ 32 ∧
    leNat (Mem.reads (elemWritten s sh i w m) (stateAddr s sh false 1 i) 4) = m % 2 ^ 32 ∧
    leNat (Mem.reads (elemWritten s sh i w m) (outAddr s sh i) 4) = w % 2 ^ 32 := by
  have hread (m : Mem) (a v : Nat) : leNat (Mem.reads (Mem.writes m a (leBytes 4 v)) a 4) = v % 2 ^ 32 := by
    have := reads_writes m a (leBytes 4 v)
    rw [length_leBytes] at this
    rw [this, leNat_leBytes]
    norm_num
  have h0 := hbeside (stateAddr s sh false 0 i) (by simp)
  have h1 := hbeside (stateAddr s sh false 1 i) (by simp)
  have hone := stateAddr_one s sh false i
  refine ⟨?_, ?_, hread ..⟩
  · rw [elemWritten, reads_writes_out _ _ _ _ _ (by simpa using h0), reads_writes_out _ _ _ _ _ (by omega), hread]
  · rw [elemWritten, reads_writes_out _ _ _ _ _ (by simpa using h1), hread]

theorem read_elemWritten_out {a : Nat} (w m : Nat)
    (h : ∀ b, b ∈ [stateAddr s sh false 0 i, stateAddr s sh false 1 i, outAddr s sh i] → a < b ∨ b + 4 ≤ a) :
    Mem.read (elemWritten s sh i w m) a = Mem.read s.gran a := by
  simp only [List.forall_mem_cons] at h
  obtain ⟨h0, h1, ho, -⟩ := h
  rw [elemWritten, mem_read_writes_out _ _ _ _ (by simpa using ho), mem_read_writes_out _ _ _ _ (by simpa using h1),
    mem_read_writes_out _ _ _ _ (by simpa using h0)]

section
variable (hrule : shRule s sh = 0) (hbanked : shBanked s sh = false) (hwout : shWout s sh = 0)
include hrule hbanked hwout

/-- An element of a share without banks, FP32 output and two arrays. -/
theorem putElem'_inPlace (b : List Byte) (new : Nat × Nat × Nat) :
    (putElem' s sh g b i (some new)).gran = elemWritten s sh i new.1 new.2.1 ∧
    (shareSt (putElem' s sh g b i (some new)) sh).applied = (shareSt s sh).applied + 1 := by
  have harrays : (shArrays s sh == 3) = false := by simp [shArrays, hrule]
  have hbank : writeBank s sh = false := by simp [writeBank, hbanked]
  have hweight : outWeight s sh b i new.1 = new.1 := by simp [outWeight, hwout]
  have hwidth : etypeBits (shWout s sh) / 8 = 4 := by rw [hwout]; rfl
  simp only [putElem', harrays, hbank, hweight, hwidth, stateAddr_granPut, outAddr_granPut, shWout_granPut, outWeight_granPut,
    shareSt_modShare, Bool.false_eq_true, if_false, Option.getD_some]
  exact ⟨rfl, rfl⟩

/-- One element under rule 0 (R122, R125). -/
theorem applyElem_momentum {b : List Byte} (hb : b = groupRec s sh (groupOf s sh i)) (hgate : gate b g = some gr)
    {w v x : Nat} (hw : w = granF s (stateAddr s sh false 0 i))
    (hv : v = fadd (fmul (gF b 24) (granF s (stateAddr s sh false 1 i))) gr)
    (hx : x = fsub w (fmul (gF b 16) (fadd v (fmul (gF b 20) w)))) :
    (applyElem s sh i g).gran = elemWritten s sh i x v ∧
    (shareSt (applyElem s sh i g) sh).applied = (shareSt s sh).applied + 1 := by
  have hbank : readBank s sh = false := by simp [readBank, hbanked]
  have happly : applyElem s sh i g = putElem' s sh (groupOf s sh i) b i (some (x, v, 0)) := by
    subst hb hw hv hx
    simp [applyElem, ruleStep, shArrays, hrule, hbank, hgate]
  rw [happly]
  exact putElem'_inPlace hrule hbanked hwout b (x, v, 0)

end
end

end
end Sys2Proof.Machine

namespace Sys2Proof
open Sys2Proof.Machine Sys2Proof.Laws

theorem groupWrites : Claims.GroupWrites := by
  intro s c hl hc hpos hmax hplace hgroup
  rw [exec_updGroupWrite hl hc hpos hmax hplace hgroup]
  refine ⟨fun hstale => ?_, fun hdue hnone => ?_, fun hdue hdef hin => ?_⟩
  · rw [groupWrite, if_pos hstale]
  · rw [groupWrite, if_neg hdue.not_gt, if_pos (by simpa using hnone)]
  · rw [groupWrite, if_neg hdue.not_gt, if_neg (by simp [hdef, hin])]

theorem feeds : Claims.Feeds := by
  intro s hl
  refine ⟨fun p bill chk f i k sh hp hplace hfeed hsh hhash hrole hgranted houtcome => ⟨fun hfail => ?_,
      fun hchk hgroups hrefuses hlen hredop hout => ?_⟩,
    fun k r x hx => ⟨fun hpart hchk => ?_, fun hplan hlost hchk => ?_, fun bs sh hgranted haborted hchunks hbs hsh =>
      ⟨fun hcause => ?_, fun hlost hfail => ?_⟩⟩⟩
  · subst hsh
    obtain ⟨ls, -, ht⟩ := feedGrant_of_failed (bill := bill) hplace hfeed hhash hrole hgranted houtcome hfail
    obtain ⟨hlost, hgran, hdel, -⟩ := loseShare_keeps (taken s p) (fdShare s k)
    refine ⟨_, (exec_updFeedGrant hl hp).trans (congrArg _ ht), hlost, hgran, hdel, fun hnone => ?_⟩
    obtain ⟨-, -, -, hfeeds, hcode, hshare⟩ := lossRaised_fields (taken s p) (fdShare s k)
    rw [loseShare_of_ungranted (s := taken s p) hnone]
    exact ⟨congrArg ShareSt.lastFault hshare, hcode, hfeeds⟩
  · subst hsh
    have hgrant := feedGrant_of_sound hplace hfeed hhash hrole hgranted houtcome hchk hgroups hrefuses hlen hredop hout
    refine ⟨_, feedBills s k (leAt p.payload 24 8), (exec_updFeedGrant hl hp).trans (congrArg _ hgrant), ?_, ?_, ?_, rfl, feedBills_ne_nil _,
      fun l hl => op_payload_of_mem_feedBills hl, rfl, rfl⟩
    · rw [feedSt_modFeed]
      exact congrArg FeedSt.granted (feedSt_feedAccepted s p k)
    · rw [feedSt_modFeed]
      exact congrArg FeedSt.chunks (feedSt_feedAccepted s p k)
    · exact congrArg ShareSt.feedActive (shareSt_feedAccepted s p k)
  · subst hx
    rw [exec_updChunkApply hl, hchk, chunkApply_of_partial hpart]
  · subst hx
    obtain ⟨hlost', hgran, -, hchunks⟩ := loseShare_keeps s (fdShare s k.toNat)
    rw [exec_updChunkApply hl, hchk, chunkApply_of_unchecked hplan hlost]
    exact ⟨_, rfl, hlost', hchunks _, hgran⟩
  · subst hx hsh
    obtain ⟨u, hu, happly⟩ := chunkApply_aborts hgranted haborted hchunks hbs hcause
    obtain ⟨habort, haborted', hparts⟩ := abortFeed_ends u k.toNat
    have hkeeps := hu.trans habort
    exact ⟨_, (exec_updChunkApply hl).trans (congrArg _ happly), haborted', hparts, hkeeps.chunks _, hkeeps.gran⟩
  · subst hx hsh
    obtain ⟨hlost', hgran, -, hkept⟩ := loseShare_keeps s (fdShare s k.toNat)
    have hlose := chunkApply_of_failed (e := r.e) hgranted haborted hchunks hbs hlost hfail
    exact ⟨_, (exec_updChunkApply hl).trans (congrArg _ hlose), hlost', hkept _, hgran⟩

/-- Settles O50: `groupWrites` for the command, `feeds` for what a feed's grant and its chunks meet. -/
theorem groupWritesAndFeeds : Obligations.GroupWritesAndFeeds := ⟨groupWrites, feeds⟩

/-- Settles O51: `chunkApply_of_whole` for the chunk, `applyElem_momentum` and the reads of `elemWritten` for the element. -/
theorem chunksApplied : Obligations.ChunksApplied := by
  refine fun s hl => ⟨fun k bs sh hsh hgranted haborted hchunks hbs hlost hgroups => ?_,
    fun sh i g b gr w m hb hrule hbanked hwout hgate hw hm hbeside v x hv hx => ?_⟩
  · subst hsh
    refine ⟨_, (exec_updChunkApply hl).trans (congrArg _ (chunkApply_of_whole hgranted haborted hchunks hbs hlost hgroups)), ?_⟩
    obtain ⟨gran, shares, happlied⟩ := chunkApplied_applies s k.toNat bs
    rw [happlied]
    obtain ⟨⟨ready, sent, hfeed⟩, hfault, hplots⟩ := pushOut_keeps (chunkTaken { s with gran, upd := { s.upd with shares } } k.toNat
      (feedSt s k.toNat).chunks) k.toNat
    rw [hfeed]
    have hst : feedSt { s with gran, upd := { s.upd with shares } } = feedSt s := rfl
    rw [chunkTaken, feedSt_modFeed, hst]
    exact ⟨rfl, hgranted, hfault, hplots, fun q hq => by simpa using hq⟩
  · subst hm
    obtain ⟨hgran, happlied⟩ := applyElem_momentum hrule hbanked hwout hb hgate hw hv hx
    obtain ⟨hmaster, hmoment, hout⟩ := reads_elemWritten x v hbeside
    rw [hgran]
    exact ⟨hmaster, hmoment, hout, happlied, fun a ha => read_elemWritten_out x v ha⟩

end Sys2Proof

/-! # Plots: O37, O39 and O40

`ChangesPlot` says of a command that it changes one plot alone. A part of a word at its turn changes its plot by its own effect and marks
itself started (`part_modPlot`), or stops its plot with a fault (`part_arrayFault`). A plot's time moves on by `advance`, whose runs
`plotUntil_reaches` follows by an invariant and a measure that falls: the lines of a transfer (`transferEnd_of_lines`) and the age of a
plot's last operation (`awaitOp_of_lastOp`); a plot at rest comes to its limit in one step (`plotUntil_of_atRest`). -/

namespace Sys2Proof.Machine
open Sys2Proof Sys2Proof.Laws

/-! ## States that differ in one plot -/

theorem plot_modPlot_ne (s : State) (f : Plot → Plot) {p q : Nat} (h : q ≠ p) : plot (modPlot s p f) q = plot s q :=
  tab_get_upd_ne _ _ _ _ _ h

/-- `t` differs from `s` in plot `p` alone. -/
structure ChangesPlot (p : Nat) (s t : State) : Prop where
  rest : { t with plots := s.plots } = s
  others : ∀ q, q ≠ p → plot t q = plot s q

namespace ChangesPlot
variable {p : Nat} {s t u : State}

theorem refl (p : Nat) (s : State) : ChangesPlot p s s := ⟨rfl, fun _ _ => rfl⟩

theorem trans (h : ChangesPlot p s t) (h' : ChangesPlot p t u) : ChangesPlot p s u where
  rest := (congrArg (fun t : State => { t with plots := s.plots }) h'.rest).trans h.rest
  others q hq := (h'.others q hq).trans (h.others q hq)

theorem modPlot (h : ChangesPlot p s t) (f : Plot → Plot) : ChangesPlot p s (modPlot t p f) :=
  h.trans ⟨rfl, fun _ hq => plot_modPlot_ne t f hq⟩

theorem gran (h : ChangesPlot p s t) : t.gran = s.gran := by have := congrArg State.gran h.rest; exact this
theorem plan (h : ChangesPlot p s t) : t.plan = s.plan := by have := congrArg State.plan h.rest; exact this
theorem fault (h : ChangesPlot p s t) : t.fault = s.fault := by have := congrArg State.fault h.rest; exact this

end ChangesPlot

/-! ## Parts of a word at their turn (07 R225) -/

/-- Part `k` of the word in issue has started. -/
def startedPart (k : Nat) (x : Plot) : Plot := { x with snap := x.snap.map fun n => { n with done := n.done ++ [k] } }

section
variable {s : State} {p : Fin 32} {k w : Nat} {n : Snap} {mine : Nat → Bool} {f : State → Nat → Snap → State}

theorem onPart_of_partAt (h : partAt s p k w n) (hmine : mine w = true) :
    onPart p.val k mine s f = modPlot (f s w n) p.val (startedPart k) := by
  obtain ⟨hword, hsnap, hturn⟩ := h
  simp only [onPart, hword, hmine, hsnap, hturn, Option.isNone_some, Bool.false_and, Bool.not_true, Bool.false_eq_true, if_false, if_true]
  rfl

theorem part_of_partAt (hl : s.live) (h : partAt s p k w n) (hmine : mine w = true) :
    part p k mine s f = .next (modPlot (f s w n) p.val (startedPart k)) :=
  (event_ok hl).trans (congrArg _ (onPart_of_partAt h hmine))

/-- A part whose effect is a change `g` of its plot that leaves the snapshot. -/
theorem part_modPlot (hl : s.live) (h : partAt s p k w n) (hmine : mine w = true) (g : Plot → Plot)
    (hf : f s w n = modPlot s p.val g) (hsnap : (g (plot s p.val)).snap = (plot s p.val).snap) :
    ∃ t, part p k mine s f = .next t ∧ ChangesPlot p.val s t ∧ partDone s t p k ∧
      plot t p.val = startedPart k (g (plot s p.val)) := by
  refine ⟨_, part_of_partAt hl h hmine, hf ▸ ((ChangesPlot.refl _ s).modPlot g).modPlot _, ?_, by simp [hf]⟩
  simp [partDone, hf, startedPart, hsnap]

end

/-! ## A plot stopped by a fault (05 R175) -/

/-- A plot that a fault at word `a` has stopped. -/
def stopped (u : FaultUnit) (code : Half) (a : Nat) (x : Plot) : Plot :=
  let x := { x with mode := .aborted, snap := none, halted := false, stopping := false, stops := [], startCmd := none
                    cycles := if x.mode = PlotMode.running then BitVec.ofNat 64 x.cyc else x.cycles }
  match u with
  | .array => { x with lastFault := code }
  | .harrow => { x with hLastFault := code, lastFault := if code = fScratchUe then code else x.lastFault }
  | .seq => { x with seqFault := code, faultPc := BitVec.ofNat 14 a }

@[simp] theorem stopped_fields (u : FaultUnit) (code : Half) (a : Nat) (x : Plot) :
    (stopped u code a x).mode = .aborted ∧ (stopped u code a x).scratch = x.scratch ∧ (stopped u code a x).bank0 = x.bank0 ∧
    (stopped u code a x).bank1 = x.bank1 ∧ (stopped u code a x).ops = x.ops ∧ (stopped u code a x).xq = x.xq ∧
    (stopped u code a x).tq = x.tq ∧ (stopped u code a x).digs = x.digs ∧ (stopped u code a x).pc = x.pc ∧
    (stopped u code a x).cyc = x.cyc ∧
    (stopped u code a x).cycles = (if x.mode = .running then BitVec.ofNat 64 x.cyc else x.cycles) := by
  cases u <;> and_intros <;> rfl

@[simp] theorem stopped_array_lastFault (code : Half) (a : Nat) (x : Plot) : (stopped .array code a x).lastFault = code := rfl
@[simp] theorem stopped_seq_seqFault (code : Half) (a : Nat) (x : Plot) : (stopped .seq code a x).seqFault = code := rfl

@[simp] theorem bankOf_stopped (u : FaultUnit) (code : Half) (a : Nat) (x : Plot) (b : Bool) : bankOf (stopped u code a x) b = bankOf x b := by
  simp [bankOf]

@[simp] theorem raiseBy_plots (s : State) (code : Half) (ut : BitVec 4) (unit : Nat) (kind : Half) (body : List Byte) (n : Bool) :
    (raiseBy s code ut unit kind body n).plots = s.plots := by simp [raiseBy, raiseCount, auditFault_fields]

section
variable (s : State) (p : Nat) (u : FaultUnit) (code : Half) (i : FaultInfo)

@[simp] theorem plot_plotAbort : plot (plotAbort s p u code i) p = stopped u code i.addr (plot s p) := by
  have hdone (l : List Cmd) (t : State) : (l.foldl (fun s c => cmdDone s c oPlotStop stOk) t).plots = t.plots :=
    foldl_of_step (R := fun s t => t.plots = s.plots) (fun _ => rfl) (fun h h' => h'.trans h) (fun _ _ => by simp) l t
  unfold plotAbort
  dsimp only
  rw [plot_congr (hdone ..)]
  generalize hv : (if code = fGranaryUe then _ else _) = v
  have hplots : plot v = plot s := plot_congr (by subst hv; split <;> simp)
  have hstop (f : Plot → Plot) (c : Option Cmd) :
      plot (match c with | some c => cmdDone (modPlot v p f) c oPlotStart stOk | none => modPlot v p f) p = f (plot s p) := by
    cases c
    · simp [hplots]
    · rw [plot_congr (t := cmdDone _ _ _ _) (cmdDone_fields ..).2.2.2.2.2.2.2.2.2.2.2.2.2.1, plot_modPlot, hplots]
  exact hstop _ _

@[simp] theorem plotAbort_gran : (plotAbort s p u code i).gran = s.gran := congrArg Prod.snd (plotAbort_held s p u code i)
@[simp] theorem wordFault_gran : (wordFault s p u code).gran = s.gran := plotAbort_gran ..
@[simp] theorem plot_wordFault : plot (wordFault s p u code) p = stopped u code (plot s p).pc.toNat (plot s p) := plot_plotAbort ..

end

/-! ## Banks -/

section
variable (x : Plot) (b : Bool) (v : Bank)

@[simp] theorem bankOf_setBank : bankOf (setBank x b v) b = v := by cases b <;> rfl
@[simp] theorem bankOf_setBank_other : bankOf (setBank x b v) (!b) = bankOf x (!b) := by cases b <;> rfl

@[simp] theorem setBank_fields :
    (setBank x b v).scratch = x.scratch ∧ (setBank x b v).aflags = x.aflags ∧ (setBank x b v).ops = x.ops ∧ (setBank x b v).tq = x.tq ∧
    (setBank x b v).xq = x.xq ∧ (setBank x b v).digs = x.digs ∧ (setBank x b v).snap = x.snap ∧ (setBank x b v).nextId = x.nextId ∧
    (setBank x b v).cyc = x.cyc := by cases b <;> and_intros <;> rfl

theorem zeroBank_eq (s : State) (p : Nat) (tainted : Bool) :
    zeroBank s p b tainted = modPlot s p fun x => setBank x b { vals := [], taint := tainted } := rfl

end

/-- A part refused with a fault of the array: the plot stops with its bank at +0, and nothing else of it changes (05 R153, R175). -/
theorem part_arrayFault {s : State} {p : Fin 32} {k w : Nat} {n : Snap} {mine : Nat → Bool} {f : State → Nat → Snap → State}
    {b : Bool} {code : Half} (hl : s.live) (h : partAt s p k w n) (hmine : mine w = true) (hf : f s w n = arrayFault s p.val b code) :
    ∃ t, part p k mine s f = .next t ∧ (plot t p.val).mode = .aborted ∧ (plot t p.val).lastFault = code ∧
      (∀ k, Tab.get 0 (bankOf (plot t p.val) b).vals k = 0) ∧ bankOf (plot t p.val) (!b) = bankOf (plot s p.val) (!b) ∧
      (plot t p.val).scratch = (plot s p.val).scratch ∧ (plot t p.val).tq = (plot s p.val).tq ∧ t.gran = s.gran := by
  refine ⟨_, part_of_partAt hl h hmine, ?_⟩
  rw [hf, plot_modPlot, arrayFault, zeroBank_eq, plot_modPlot, plot_wordFault]
  cases b <;> simp [startedPart, setBank, bankOf, Tab.get]

@[simp] theorem length_agLines (g : AgStream) (k : Nat) : (agLines g k).length = k := by simp [agLines]

/-! ## Products at issue (05 R145 to R157, R168) -/

section
variable {s : State} {p : Nat} {w : Nat} {e : LineErrs} {ga gb : AgStream}

theorem startMm_of_busy (h : mmFree (plot s p) = false) : startMm s p w e = arrayFault s p (wBank w) fArrayIssue := by
  simp [startMm, h]

theorem startMm_of_bankBusy (hfree : mmFree (plot s p) = true)
    (h : bankBusyBy (plot s p) (wBank w) .acc = true ∨ bankBusyBy (plot s p) (wBank w) .harrow = true) :
    startMm s p w e = arrayFault s p (wBank w) fArrayBankBusy := by
  simp [startMm, hfree, h]

/-- A plot in which a product has entered the array, whose streams are `ga` and `gb`. -/
def mmStarted (w : Nat) (e : LineErrs) (ga gb : AgStream) (x : Plot) : Plot :=
  let y := mmUse (mmUse x w 0 (slabs w * linesA w)) w 1 (slabs w * linesB w)
  let y := if bit w 626 then setBank y (wBank w) {} else y
  { enterOp y (mmOp x w e ga gb) with hints := y.hints &&& 6 }

theorem startMm_of_free (hfree : mmFree (plot s p) = true) (hacc : bankBusyBy (plot s p) (wBank w) .acc = false)
    (hharrow : bankBusyBy (plot s p) (wBank w) .harrow = false) (ha : mmStream (plot s p) w 0 = some ga)
    (hb : mmStream (plot s p) w 1 = some gb) (hina : inScratch (agLines ga (slabs w * linesA w)) = true)
    (hinb : inScratch (agLines gb (slabs w * linesB w)) = true) : startMm s p w e = modPlot s p (mmStarted w e ga gb) := by
  simp [startMm, hfree, hacc, hharrow, ha, hb, hina, hinb]
  rfl

/-- A product's generators alone go on. -/
theorem mmUse_ags (x : Plot) (w n k : Nat) : ∃ ags, mmUse x w n k = { x with ags } := by
  unfold mmUse
  split
  · exact ⟨_, rfl⟩
  · exact ⟨x.ags, rfl⟩

/-- What a product changes at issue: the list of operations, the generators, the hints, and under INIT its bank. -/
theorem mmStarted_eq (x : Plot) : ∃ ags, mmStarted w e ga gb x =
    { (if bit w 626 then setBank x (wBank w) {} else x) with
      ags, ops := x.ops ++ [mmOp x w e ga gb], nextId := x.nextId + 1, hints := x.hints &&& 6 } := by
  obtain ⟨ags, h⟩ := mmUse_ags x w 0 (slabs w * linesA w)
  obtain ⟨ags', h'⟩ := mmUse_ags { x with ags } w 1 (slabs w * linesB w)
  refine ⟨ags', ?_⟩
  rw [mmStarted, h, h']
  cases bit w 626 <;> cases wBank w <;> rfl

end

section
variable {s : State} {p : Fin 32} {w : Nat} {n : Snap} {e : LineErrs} {i : Instr}

theorem exec_tileProduct (hi : (i = .mm p e ∧ wAop w = 1) ∨ (i = .mmSp p e ∧ wAop w = 2)) :
    ∃ mine : Nat → Bool, mine w = true ∧ exec i s = part p 0 mine s fun s w _ => startMm s p w e := by
  obtain ⟨rfl, h⟩ | ⟨rfl, h⟩ := hi
  · exact ⟨fun w => wAop w == 1, by simpa using h, rfl⟩
  · exact ⟨fun w => wAop w == 2, by simpa using h, rfl⟩

end

end Sys2Proof.Machine

namespace Sys2Proof
open Sys2Proof.Machine Sys2Proof.Laws

theorem tileProducts : Claims.TileProducts := by
  rintro s p w n e i x b hl rfl hp hi rfl
  obtain ⟨mine, hmine, hexec⟩ := exec_tileProduct (s := s) hi
  rw [hexec]
  refine ⟨fun hbusy => ?_, fun hfree hbusy => ?_, fun ga gb hfree hacc hharrow ha hb hina hinb => ?_⟩
  · obtain ⟨t, ht, hmode, hcode, hzero, hother, hscratch, -, hgran⟩ :=
      part_arrayFault (f := fun s w _ => startMm s p.val w e) hl hp hmine (startMm_of_busy hbusy)
    exact ⟨t, ht, hmode, hcode, hzero, hother, hscratch, hgran⟩
  · obtain ⟨t, ht, hmode, hcode, hzero, hother, hscratch, -, hgran⟩ :=
      part_arrayFault (f := fun s w _ => startMm s p.val w e) hl hp hmine (startMm_of_bankBusy hfree hbusy)
    exact ⟨t, ht, hmode, hcode, hzero, hother, hscratch, hgran⟩
  · obtain ⟨ags, hstart⟩ := mmStarted_eq (w := w) (e := e) (ga := ga) (gb := gb) (plot s p.val)
    obtain ⟨t, ht, hchanges, hdone, hplot⟩ := part_modPlot (f := fun s w _ => startMm s p.val w e) hl hp hmine (mmStarted w e ga gb)
      (startMm_of_free hfree hacc hharrow ha hb hina hinb) (by rw [hstart]; split <;> simp)
    rw [hstart] at hplot
    refine ⟨t, mmOp (plot s p.val) w e ga gb, ht, hchanges.rest, hdone, hchanges.others, ?_⟩
    rw [hplot]
    refine ⟨rfl, rfl, rfl, rfl, rfl, rfl, rfl, rfl, rfl, rfl, ?_⟩
    cases bit w 626 <;> cases wBank w <;> exact ⟨rfl, rfl, rfl⟩

end Sys2Proof

namespace Sys2Proof.Machine
open Sys2Proof Sys2Proof.Laws

/-! ## Tables filled by a fold -/

section
variable {α β : Type} [DecidableEq α] {d : α} {key : β → Nat} {val : β → α} {l : List β} {t : Tab α} {k : Nat} {v : α}

theorem tab_get_foldl_set_of_notMem (h : ∀ y ∈ l, key y ≠ k) :
    Tab.get d (l.foldl (fun t y => Tab.set d t (key y) (val y)) t) k = Tab.get d t k := by
  induction l generalizing t with
  | nil => rfl
  | cons y l ih =>
    rw [List.forall_mem_cons] at h
    rw [List.foldl_cons, ih h.2, tab_get_set_ne _ _ _ _ _ h.1.symm]

/-- An entry that the fold sets, always to one value, reads as that value. -/
theorem tab_get_foldl_set_of_mem (hval : ∀ y ∈ l, key y = k → val y = v) (hk : ∃ y ∈ l, key y = k) :
    Tab.get d (l.foldl (fun t y => Tab.set d t (key y) (val y)) t) k = v := by
  induction l generalizing t with
  | nil => simp at hk
  | cons y l ih =>
    rw [List.forall_mem_cons] at hval
    by_cases hl : ∃ z ∈ l, key z = k
    · exact ih hval.2 hl
    · have hy : key y = k := by simpa [hl] using hk
      rw [List.foldl_cons, tab_get_foldl_set_of_notMem (by simpa using hl), hy, tab_get_set, hval.1 hy]

end

/-! ## The end of a slab (02 R61, 05 R147, R168) -/

/-- A bank has 128 columns. -/
theorem wN_le (w : Nat) : wN w ≤ 128 := Nat.succ_le_of_lt (Nat.mod_lt _ (by decide))

/-- The cells of a bank with the sums and flags that a slab gives them. -/
def slabCells (x : Plot) (o : PlotOp) : List (Nat × Nat × Nat) :=
  (List.range (wM o.word)).flatMap fun m => (List.range (wN o.word)).map fun n =>
    (128 * m + n, accStep (o.slab == 0) (Tab.get 0 (bankOf x (wBank o.word)).vals (128 * m + n), 0)
      (cellSlab o.word (o.slab / max (slabs o.word) 1) o.slabNo (capBytes o 0 (linesA o.word)) (capBytes o keyB (linesB o.word)) m n))

section
variable {x : Plot} {o : PlotOp}

theorem mem_slabCells {y : Nat × Nat × Nat} : y ∈ slabCells x o ↔ ∃ m < wM o.word, ∃ n < wN o.word,
    y = (128 * m + n, accStep (o.slab == 0) (Tab.get 0 (bankOf x (wBank o.word)).vals (128 * m + n), 0)
      (cellSlab o.word (o.slab / max (slabs o.word) 1) o.slabNo (capBytes o 0 (linesA o.word)) (capBytes o keyB (linesB o.word)) m n)) := by
  simp only [slabCells, List.mem_flatMap, List.mem_map, List.mem_range, eq_comm]

/-- A slab changes its bank's values and the operations alone. -/
theorem addSlab_eq (x : Plot) (o : PlotOp) : ∃ ops, addSlab x o =
    { setBank x (wBank o.word) { bankOf x (wBank o.word) with
        vals := (slabCells x o).foldl (fun t y => Tab.set 0 t y.1 y.2.1) (bankOf x (wBank o.word)).vals } with ops } := ⟨_, rfl⟩

end

end Sys2Proof.Machine

namespace Sys2Proof
open Sys2Proof.Machine Sys2Proof.Laws

theorem slabSums : Claims.SlabSums := by
  rintro x o b rfl -
  obtain ⟨ops, hadd⟩ := addSlab_eq x o
  have hbank (b : Bool) (v : Bank) : bankOf { setBank x b v with ops } b = v := by cases b <;> rfl
  rw [hadd, hbank]
  refine ⟨fun r c hr hc => ?_, fun k hk => ?_, ?_, by simp, by simp, rfl⟩
  · refine tab_get_foldl_set_of_mem (fun y hy hkey => ?_) ⟨_, mem_slabCells.mpr ⟨r, hr, c, hc, rfl⟩, rfl⟩
    obtain ⟨m, -, n, hn, rfl⟩ := mem_slabCells.mp hy
    have hcols := wN_le o.word
    obtain ⟨rfl, rfl⟩ : m = r ∧ n = c := by dsimp only at hkey; omega
    rfl
  · refine tab_get_foldl_set_of_notMem fun y hy => ?_
    obtain ⟨m, hm, n, hn, rfl⟩ := mem_slabCells.mp hy
    have hcols := wN_le o.word
    dsimp only
    omega
  · cases wBank o.word <;> rfl

end Sys2Proof

namespace Sys2Proof.Machine
open Sys2Proof Sys2Proof.Laws

/-! ## Lines of the accumulator stream (05 R150) -/

theorem enum_concat {α : Type} (xs : List α) (a : α) : enum (xs ++ [a]) = enum xs ++ [(xs.length, a)] := by
  simp [enum, List.range_succ, List.zip_append]

theorem map_snd_enum {α : Type} (xs : List α) : (enum xs).map Prod.snd = xs := by simp [enum, List.map_snd_zip]

theorem writes_concat (m : Mem) (a : Nat) (bs : List Byte) (b : Byte) :
    Mem.writes m a (bs ++ [b]) = Mem.write (Mem.writes m a bs) (a + bs.length) b := by
  induction bs generalizing m a with
  | nil => rfl
  | cons c bs ih => rw [List.cons_append, Mem.writes, ih, Mem.writes, List.length_cons, show a + 1 + bs.length = a + (bs.length + 1) by omega]

theorem putElem_byte (m : Mem) (l0 j : Nat) (b : Byte) : putElem m l0 8 (8 * j) b.toNat = Mem.write m (128 * l0 + j) b := by
  simp [putElem, leBytes, Mem.writes]

/-- Bytes put from the start of a line are those bytes written there. -/
theorem foldl_bytePuts (m : Mem) (l0 : Nat) (bs : List Byte) :
    (bytePuts l0 bs).foldl (fun m q => putElem m q.1 q.2.1 (q.2.1 * q.2.2.1) q.2.2.2) m = Mem.writes m (128 * l0) bs := by
  induction bs using List.reverseRecOn with
  | nil => rfl
  | append_singleton bs b ih =>
    rw [bytePuts] at ih ⊢
    rw [enum_concat, List.map_append, List.foldl_append, ih, writes_concat]
    simp only [List.map_cons, List.map_nil, List.foldl_cons, List.foldl_nil, putElem_byte]

/-- A stretch of what has been written reads as written. -/
theorem reads_writes_slice (m : Mem) (a off n : Nat) (bs : List Byte) (h : off + n ≤ bs.length) :
    Mem.reads (Mem.writes m a bs) (a + off) n = slice bs off n := by
  refine List.map_congr_left fun j hj => ?_
  have hj := List.mem_range.mp hj
  rw [add_assoc, mem_read_writes m a _ bs (by omega), List.getD_eq_getElem]

section
variable {x : Plot} {o : PlotOp} {a : LineAcc} {i : Nat}

theorem opWrite_scratch (x : Plot) (o : PlotOp) (a : LineAcc) : (opWrite x o a).scratch =
    (opPuts x o a).1.foldl (fun m q => putElem m q.1 q.2.1 (q.2.1 * q.2.2.1) q.2.2.2) x.scratch := rfl

theorem opWrite_scratch_of_acc (hunit : o.unit = .acc) (hact : a.act = .write i) :
    (opWrite x o a).scratch = Mem.writes x.scratch (128 * a.line) (accStoreBytes o i) := by
  rw [opWrite_scratch, opPuts, hact]
  simp only [hunit, if_true, foldl_bytePuts]

theorem length_accStoreBytes (o : PlotOp) (i : Nat) : (accStoreBytes o i).length = 4 * min 32 (o.src.length - 32 * i) := by
  simp [accStoreBytes, List.length_flatMap, mul_comm]

end

end Sys2Proof.Machine

namespace Sys2Proof
open Sys2Proof.Machine Sys2Proof.Laws

theorem storedAccumulators : Claims.StoredAccumulators := by
  intro x o a i hunit hact
  rw [opWrite_scratch_of_acc hunit hact]
  have hlen := length_accStoreBytes o i
  refine ⟨fun j h hlo hhi => ?_, fun d hd => mem_read_writes_out _ _ _ _ (by omega), rfl, rfl⟩
  have hval : j - 32 * i < ((o.src.drop (32 * i)).take 32).length := by simp; omega
  rw [reads_writes_slice _ _ _ _ _ (by omega), accStoreBytes, mul_comm 4 (j - _), slice_flatMap_leBytes 4 _ hval]
  simp [show 32 * i + (j - 32 * i) = j by omega]

end Sys2Proof

namespace Sys2Proof.Machine
open Sys2Proof Sys2Proof.Laws

/-! ## The accumulator path at issue (05 R150, R153) -/

section
variable {s : State} {p w : Nat} {f : State → State}

theorem accCheck_of_busy (h : accFree (plot s p) = false) : accCheck s p w f = arrayFault s p (wBank w) fArrayIssue := by
  simp [accCheck, h]

theorem accCheck_of_free (hfree : accFree (plot s p) = true) (hbank : bankBusy (plot s p) (wBank w) = false) : accCheck s p w f = f s := by
  simp [accCheck, hfree, hbank]

theorem accStream_of_inScratch {g : AgStream} {f : AgStream → List Nat → State} (hg : agStream (plot s p) w 2 = some g)
    (hin : inScratch (agLines g (cdiv (accBytes w) 128)) = true) : accStream s p w f = f g (agLines g (cdiv (accBytes w) 128)) := by
  simp only [accStream, hg, hin, Bool.not_true, Bool.false_eq_true, if_false]

end

/-- The tile queue entry that ACC_RELEASE makes of a bank. -/
def releasedEntry (s : State) (p w : Nat) : TileEntry :=
  let x := plot s p
  { id := x.nextId, vals := bankVals (bankOf x (wBank w)) (wM w) (wN w), m := wM w, n := wN w, tag := bits w 587 580
    taint := (bankOf x (wBank w)).taint, chunkTag := if 128 ≤ bits w 587 580 then capturedTag s p (bits w 587 580) else 0
    ready := x.cyc + accCycles w }

/-- The operation of an ACC_STORE to lines `ls`. -/
def storeOp (x : Plot) (w : Nat) (ls : List Nat) : PlotOp :=
  { accOp x w (accCycles w) with
    todo := (enum ls).map fun l => { at_ := l.1 / 4, act := .write l.1, line := l.2 }, src := bankVals (bankOf x (wBank w)) (wM w) (wN w) }

/-- The operation of an ACC_LOAD from lines `ls`. -/
def loadOp (x : Plot) (w : Nat) (ls : List Nat) (e : LineErrs) : PlotOp :=
  { accOp x w (accCycles w) with
    todo := (enum ls).map fun l => { at_ := l.1 / 4, act := .read l.1, line := l.2 }, reads := ls, errs := e }

section
variable {x : Plot} {w : Nat} {ls : List Nat} {e : LineErrs} {a : LineAcc}

theorem map_line_storeOp : (storeOp x w ls).todo.map (·.line) = ls := (List.map_map ..).trans (map_snd_enum ls)
theorem map_line_loadOp : (loadOp x w ls e).todo.map (·.line) = ls := (List.map_map ..).trans (map_snd_enum ls)

theorem isRead_of_mem_storeOp (ha : a ∈ (storeOp x w ls).todo) : a.isRead = false := by
  obtain ⟨l, -, rfl⟩ := List.mem_map.mp ha
  rfl

theorem isRead_of_mem_loadOp (ha : a ∈ (loadOp x w ls e).todo) : a.isRead = true := by
  obtain ⟨l, -, rfl⟩ := List.mem_map.mp ha
  rfl

end

section
variable {s : State} {p : Fin 32} {w : Nat} {n : Snap} {e : LineErrs}

/-- A command of the accumulator path starts the operation that its word names. -/
theorem exec_accPath {i : Instr} (hi : (i = .accLoad p e ∧ wAop w = 3) ∨ (i = .accStore p ∧ wAop w = 4) ∨ (i = .accRelease p ∧ wAop w = 5) ∨
      (i = .accZero p ∧ wAop w = 6)) :
    ∃ (mine : Nat → Bool) (f : State → Nat → State → State), mine w = true ∧
      exec i s = part p 0 mine s fun s w _ => accCheck s p.val w (f s w) := by
  obtain ⟨rfl, h⟩ | ⟨rfl, h⟩ | ⟨rfl, h⟩ | ⟨rfl, h⟩ := hi
  · exact ⟨fun w => wAop w == 3, _, by simpa using h, rfl⟩
  · exact ⟨fun w => wAop w == 4, _, by simpa using h, rfl⟩
  · exact ⟨fun w => wAop w == 5, _, by simpa using h, rfl⟩
  · exact ⟨fun w => wAop w == 6, _, by simpa using h, rfl⟩

end

end Sys2Proof.Machine

namespace Sys2Proof
open Sys2Proof.Machine Sys2Proof.Laws

theorem accumulatorPath : Claims.AccumulatorPath := by
  rintro s p w n e x b hl rfl hp rfl
  refine ⟨fun hfree hbank => ?_, fun hbusy i hi => ?_⟩
  · have hcheck (f : State → State) : accCheck s p.val w f = f s := accCheck_of_free hfree hbank
    refine ⟨fun haop => ?_, fun haop hcellar hroom => ?_, fun haop hcellar hfull => ?_, ?_⟩
    · obtain ⟨t, ht, hchanges, hdone, hplot⟩ := part_modPlot (mine := fun w => wAop w == 6) (f := fun s w _ => startAccZero s p.val w) hl hp
        (by simpa using haop) _ (hcheck _) (by simp [enterOp])
      refine ⟨t, accOp (plot s p.val) w 1, ht, hchanges.rest, hdone, ?_⟩
      rw [hplot]
      cases hb : wBank w <;> exact ⟨rfl, rfl, rfl, rfl, rfl, congrArg some hb, rfl, rfl, rfl⟩
    · obtain ⟨t, ht, hchanges, hdone, hplot⟩ := part_modPlot (mine := fun w => wAop w == 5) (f := fun s w _ => startAccRelease s p.val w) hl hp
        (by simpa using haop) _ ((hcheck _).trans (by rw [if_neg (by simp [hcellar]), if_neg (by omega)])) (by simp [enterOp])
      refine ⟨t, releasedEntry s p.val w, accOp (plot s p.val) w (accCycles w), ht, hchanges.rest, hdone, ?_⟩
      rw [hplot]
      exact ⟨rfl, rfl, rfl, rfl, rfl, rfl, rfl, rfl, rfl, rfl, rfl, rfl⟩
    · obtain ⟨t, ht, hmode, hcode, -, -, -, htq, -⟩ :=
        part_arrayFault (mine := fun w => wAop w == 5) (f := fun s w _ => startAccRelease s p.val w) (code := fArrayIssue) hl hp (by simpa using haop)
          ((hcheck _).trans (by rw [if_neg (by simp [hcellar]), if_pos hfull]))
      exact ⟨t, ht, hmode, hcode, htq⟩
    · rintro g ls hg rfl hin
      refine ⟨fun haop => ?_, fun haop => ?_⟩
      · obtain ⟨t, ht, hchanges, hdone, hplot⟩ := part_modPlot (mine := fun w => wAop w == 4) (f := fun s w _ => startAccStore s p.val w) hl hp
          (by simpa using haop) _ ((hcheck _).trans (accStream_of_inScratch hg hin)) (by simp [enterOp, agUse])
        refine ⟨t, storeOp (plot s p.val) w (agLines g (cdiv (4 * wM w * wN w) 128)), ht, hchanges.rest, hdone, ?_⟩
        rw [hplot]
        exact ⟨rfl, rfl, rfl, rfl, rfl, rfl, rfl, map_line_storeOp, fun a => isRead_of_mem_storeOp⟩
      · obtain ⟨t, ht, hchanges, hdone, hplot⟩ := part_modPlot (mine := fun w => wAop w == 3) (f := fun s w _ => startAccLoad s p.val w e) hl hp
          (by simpa using haop) _ ((hcheck _).trans (accStream_of_inScratch hg hin)) (by simp [enterOp, agUse])
        refine ⟨t, loadOp (plot s p.val) w (agLines g (cdiv (4 * wM w * wN w) 128)) e, ht, hchanges.rest, hdone, ?_⟩
        rw [hplot]
        exact ⟨rfl, rfl, rfl, rfl, rfl, rfl, map_line_loadOp, rfl, fun a => isRead_of_mem_loadOp⟩

  · obtain ⟨mine, f, hmine, hexec⟩ := exec_accPath (s := s) hi
    obtain ⟨t, ht, hmode, hcode, hzero, -, hscratch, -, hgran⟩ :=
      part_arrayFault (f := fun s w _ => accCheck s p.val w (f s w)) hl hp hmine (accCheck_of_busy hbusy)
    exact ⟨t, hexec.trans ht, hmode, hcode, hzero, hscratch, hgran⟩

/-- Settles O37: `tileProducts` at issue, `slabSums` at the end of a slab, `accumulatorPath` and `storedAccumulators` for the path. -/
theorem arrayOperations : Obligations.ArrayOperations := ⟨tileProducts, slabSums, accumulatorPath, storedAccumulators⟩

end Sys2Proof

namespace Sys2Proof.Machine
open Sys2Proof Sys2Proof.Laws

/-! ## Digest accumulators in which nothing waits (07 R223) -/

theorem tab_get_map {α : Type} {d : α} {f : α → α} (hf : f d = d) (t : Tab α) (k : Nat) :
    Tab.get d (t.map fun e => (e.1, f e.2)) k = f (Tab.get d t k) := by
  induction t with
  | nil => exact hf.symm
  | cons e t ih =>
    simp only [List.map_cons, Tab.get, ih]
    split <;> rfl

section
variable {s : State} {p : Nat} {x y : Plot}

theorem noDigests_congr (h : y.digs = x.digs) (hx : noDigests x) : noDigests y := fun k hk => by rw [h]; exact hx k hk

/-- A change of the items that wait in accumulators puts none there. -/
theorem noDigests_map {g : DigItem → DigItem} (hx : noDigests x)
    (h : y.digs = x.digs.map fun d => (d.1, { d.2 with items := d.2.items.map g })) : noDigests y := fun k hk => by
  rw [h, tab_get_map (f := fun d : Digest => { d with items := d.items.map g }) rfl, hx k hk, List.map_nil]

theorem noDigests_tapEnd (hx : noDigests x) (k : Nat) (bs : Option (List Byte × Bool)) : noDigests (tapEnd x k bs) := noDigests_map hx rfl

/-- Settling absorbs nothing where nothing waits. -/
theorem digSettle_of_noDigests (h : noDigests (plot s p)) : digSettle p s = s := by
  suffices ∀ l : List Nat, (∀ k ∈ l, k < 8) →
      l.foldl (fun s k => digAbsorb p k (Tab.get {} (plot s p).digs k).items.length s) s = s from
    this _ fun k hk => List.mem_range.mp hk
  intro l hl
  induction l with
  | nil => rfl
  | cons k l ih =>
    rw [List.forall_mem_cons] at hl
    rw [List.foldl_cons, h k hl.1]
    exact ih hl.2

end

/-! ## Transfers enter the queue (07 R217, R218) -/

section
variable {s : State} {p w : Nat} {t : Xfer}

theorem queueXfer_of_full (h : 4 ≤ (plot s p).xq.length) : queueXfer s p w t = wordFault s p .seq fSeqXferIssue := by
  simp only [queueXfer, if_pos h]

/-- A transfer with the lines, address and number that it takes in the queue. -/
def queuedXfer (x : Plot) (t : Xfer) (ls : List Nat) : Xfer := { t with addr := x.pc.toNat, lines := ls, id := x.nextId }

theorem queueXfer_of_room {g : AgStream} (hroom : (plot s p).xq.length < 4) (hg : agStream (plot s p) w 3 = some g)
    (hin : inScratch (agLines g (cdiv (fabricBytes (plot s p) w) 128)) = true) :
    ∃ (ags : Plot → Tab AgStream) (nextId : Plot → Nat) (streams : Plot → List (Nat × DigItem)), queueXfer s p w t = modPlot s p fun x =>
      { x with ags := ags x, nextId := nextId x, streams := streams x, hints := x.hints &&& 3
               xq := x.xq ++ [queuedXfer x t (agLines g (cdiv (fabricBytes (plot s p) w) 128))] } := by
  simp only [queueXfer, if_neg hroom.not_ge, hg, hin, Bool.not_true, Bool.false_eq_true, if_false]
  exact ⟨_, _, _, rfl⟩

end

section
variable {s : State} {p : Fin 32} {w k : Nat} {n : Snap} {i : Instr} {kind : XferKind}

/-- The transfer a word queues, as its command gives it. -/
def wordXfer (k w : Nat) (kind : XferKind) : Xfer :=
  if k = 3 then { kind, addr := 0, lines := [], gaddr := bits w 187 150, count := wGlines w }
  else { kind, addr := 0, lines := [], furrow := bits w 91 84, rb := wRb w, count := wCount w, etype := wEtype w }

/-- Each of GLOAD, GSTORE, MSEND, WAYBILL and CSEND queues its transfer. -/
theorem exec_queueXfer (hi : (k = 3 ∧ ((i = .gload p ∧ wGop w = 1 ∧ kind = .gload) ∨ (i = .gstore p ∧ wGop w = 2 ∧ kind = .gstore))) ∨
      (k = 4 ∧ ((i = .msend p ∧ wFop w = 1 ∧ kind = .msend) ∨ (i = .waybill p ∧ wFop w = 2 ∧ kind = .waybill) ∨
        (i = .csend p ∧ wFop w = 3 ∧ kind = .csend)))) :
    ∃ mine : Nat → Bool, mine w = true ∧ exec i s = part p k mine s fun s w _ => queueXfer s p.val w (wordXfer k w kind) := by
  obtain ⟨rfl, ⟨rfl, h, rfl⟩ | ⟨rfl, h, rfl⟩⟩ | ⟨rfl, ⟨rfl, h, rfl⟩ | ⟨rfl, h, rfl⟩ | ⟨rfl, h, rfl⟩⟩ := hi
  · exact ⟨fun w => wGop w == 1, by simpa using h, rfl⟩
  · exact ⟨fun w => wGop w == 2, by simpa using h, rfl⟩
  · exact ⟨fun w => wFop w == 1, by simpa using h, rfl⟩
  · exact ⟨fun w => wFop w == 2, by simpa using h, rfl⟩
  · exact ⟨fun w => wFop w == 3, by simpa using h, rfl⟩

theorem wordXfer_fields (k w : Nat) (kind : XferKind) : (wordXfer k w kind).kind = kind ∧ (wordXfer k w kind).running = false ∧
    (k = 3 → (wordXfer k w kind).gaddr = bits w 187 150 ∧ (wordXfer k w kind).count = wGlines w) ∧
    (k = 4 → (wordXfer k w kind).furrow = bits w 91 84 ∧ (wordXfer k w kind).count = wCount w ∧ (wordXfer k w kind).etype = wEtype w) := by
  unfold wordXfer
  split <;> simp_all

end

end Sys2Proof.Machine

namespace Sys2Proof
open Sys2Proof.Machine Sys2Proof.Laws

theorem transfersQueue : Claims.TransfersQueue := by
  rintro s p w n i k kind x hl rfl hp hi
  obtain ⟨mine, hmine, hexec⟩ := exec_queueXfer (s := s) hi
  rw [hexec]
  refine ⟨fun g ls hroom hg hls hin => ?_, fun hfull => ?_⟩
  · subst hls
    obtain ⟨ags, nextId, streams, hqueue⟩ := queueXfer_of_room (t := wordXfer k w kind) hroom hg hin
    obtain ⟨t, ht, hchanges, hdone, hplot⟩ := part_modPlot (f := fun s w _ => queueXfer s p.val w (wordXfer k w kind)) hl hp hmine _ hqueue rfl
    obtain ⟨hkind, hrunning, hgran, hfurrow⟩ := wordXfer_fields k w kind
    refine ⟨t, queuedXfer (plot s p.val) (wordXfer k w kind) (agLines g (cdiv (fabricBytes (plot s p.val) w) 128)), ht, hchanges.rest, hdone, ?_⟩
    rw [hplot]
    exact ⟨rfl, hkind, rfl, hrunning, hgran, hfurrow, rfl⟩
  · refine ⟨_, part_of_partAt hl hp hmine, ?_⟩
    simp [queueXfer_of_full hfull, startedPart]

end Sys2Proof

namespace Sys2Proof.Machine
open Sys2Proof Sys2Proof.Laws

/-! ## A plot's time moves on -/

/-- One step of `plotUntil`: a cycle, or the quiet cycles up to the next in which something happens. -/
def advance (p lim : Nat) (s : State) : State :=
  let q := quietFor (plot s p) (lim - (plot s p).cyc)
  if q = 0 then plotTick p s else quietCycles p q s

section
variable {p lim n : Nat} {bar stop : State → Bool} {s : State} {I : State → Prop}

theorem plotUntil_of_stop (h : stop s = true) : plotUntil p lim bar stop n s = some s := by
  cases n <;> simp [plotUntil, h]

theorem plotUntil_succ (hstop : stop s = false) (hbar : bar s = false) (hlim : (plot s p).cyc < lim) :
    plotUntil p lim bar stop (n + 1) s = plotUntil p lim bar stop n (advance p lim s) := by
  simp [plotUntil, hstop, hbar, hlim, advance]

/-- Time moves on to where `stop` holds, by an invariant `I` and a measure `r` that falls until then. -/
theorem plotUntil_reaches {r : State → Nat} (hr : r s ≤ n) (hI : I s)
    (hstep : ∀ s, I s → stop s = false → bar s = false ∧ (plot s p).cyc < lim ∧ I (advance p lim s) ∧ r (advance p lim s) < r s) :
    ∃ t, plotUntil p lim bar stop n s = some t ∧ I t ∧ stop t = true := by
  induction n generalizing s with
  | zero =>
    have hstop : stop s = true := by
      by_contra h
      have := (hstep s hI (by simpa using h)).2.2.2
      omega
    exact ⟨s, plotUntil_of_stop hstop, hI, hstop⟩
  | succ n ih =>
    by_cases hstop : stop s = true
    · exact ⟨s, plotUntil_of_stop hstop, hI, hstop⟩
    · obtain ⟨hbar, hlim, hI', hlt⟩ := hstep s hI (by simpa using hstop)
      rw [plotUntil_succ (by simpa using hstop) hbar hlim]
      exact ih (by omega) hI'

/-- Time does not move on to what an invariant excludes. -/
theorem plotUntil_eq_none (hI : I s) (hstop : ∀ s, I s → stop s = false) (hstep : ∀ s, I s → I (advance p lim s)) :
    plotUntil p lim bar stop n s = none := by
  induction n generalizing s with
  | zero => simp [plotUntil, hstop s hI]
  | succ n ih =>
    rw [plotUntil, if_neg (by simp [hstop s hI])]
    split
    · rfl
    · exact ih (hstep s hI)

/-- A plot that issues no further word bars nothing. -/
theorem wordReady_of_halted (h : (plot s p).halted = true) : wordReady s p = false := by
  simp [wordReady, currentWord, h]

end

/-! ## The transfer queue in a cycle: the FABRIC port alone changes it -/

section
variable (s : State) (p k : Nat)

@[simp] theorem plot_raise (code : Half) (ut : BitVec 4) (unit : Nat) : plot (raise s code ut unit) = plot s := plot_congr (by simp)

@[simp] theorem xq_scratchCe : (plot (scratchCe s p) p).xq = (plot s p).xq := by simp [scratchCe]

@[simp] theorem xq_digAbsorb (n : Nat) : (plot (digAbsorb p k n s) p).xq = (plot s p).xq := by
  induction n generalizing s with
  | zero => rfl
  | succ n ih =>
    rw [digAbsorb]
    dsimp only
    repeat' split
    all_goals simp [ih, plot_congr (tally_fields ..).2.2.2.2.2.2.2.2.2.2.2.2.2.2.1]

@[simp] theorem xq_digSettle : (plot (digSettle p s) p).xq = (plot s p).xq :=
  foldl_of_step (R := fun s t => (plot t p).xq = (plot s p).xq) (fun _ => rfl) (fun h h' => h'.trans h) (fun _ _ => by simp) _ s

variable (x : Plot) (o : PlotOp)

@[simp] theorem xq_undoOp : (undoOp x o).xq = x.xq := by
  unfold undoOp
  induction o.wrote.reverse generalizing x with
  | nil => rfl
  | cons w l ih => exact ih _

@[simp] theorem xq_putResult : (putResult x o).xq = x.xq := by
  unfold putResult
  dsimp only
  repeat' split
  all_goals rfl

@[simp] theorem xq_arrayEnd : (arrayEnd x o).xq = x.xq := by
  unfold arrayEnd
  dsimp only
  repeat' split
  all_goals simp [accLoaded]

@[simp] theorem xq_readAcc (key line : Nat) : (readAcc x o key line).xq = x.xq := by
  unfold readAcc
  dsimp only
  repeat' split
  all_goals simp [putOp]

@[simp] theorem xq_opFault (u : FaultUnit) (code : Half) (i : FaultInfo) : (plot (opFault s p o u code i) p).xq = (plot s p).xq := by
  unfold opFault
  dsimp only
  rw [xq_digSettle, plot_modPlot]
  repeat' split
  all_goals simp [tapEnd, leaveOp, zeroBank_eq, settleTaint]

/-- An operation's access changes the list of operations, banks, lines and taint, or stops the plot. -/
@[simp] theorem xq_doAcc (a : LineAcc) : (plot (doAcc p k s a) p).xq = (plot s p).xq := by
  unfold doAcc
  dsimp only
  repeat' split
  all_goals simp [opWrite, taintLines, putOp]

@[simp] theorem xq_opCycle (a : State × List Nat) : (plot (opCycle p a k).1 p).xq = (plot a.1 p).xq := by
  unfold opCycle
  dsimp only
  split
  · rfl
  split
  · rfl
  · simp
  · exact (foldl_of_step (R := fun s t => (plot t p).xq = (plot s p).xq) (fun _ => rfl) (fun h h' => h'.trans h)
      (fun _ _ => by simp) _ _).trans (by simp [putOp])

@[simp] theorem xq_settleOp : (plot (settleOp p s k) p).xq = (plot s p).xq := by
  unfold settleOp slabEnd xloadList strictCheck endOp
  dsimp only
  repeat' split
  all_goals simp [addSlab, putOp, tapEnd, leaveOp, harrowEnd, settleTaint]

/-- In a cycle only the FABRIC port moves the queue. -/
theorem xq_plotTick : (plot (plotTick p s) p).xq = (plot (fabricCycle p s) p).xq := by
  have hops (l : List Nat) (a : State × List Nat) : (plot (l.foldl (opCycle p) a).1 p).xq = (plot a.1 p).xq := by
    induction l generalizing a with
    | nil => rfl
    | cons k l ih => rw [List.foldl_cons, ih, xq_opCycle]
  unfold plotTick
  dsimp only
  rw [xq_digSettle]
  refine (foldl_of_step (R := fun s t => (plot t p).xq = (plot s p).xq) (fun _ => rfl) (fun h h' => h'.trans h)
    (fun _ _ => by simp) _ _).trans ?_
  simp [countCycles, hops]

theorem fabricCycle_of_moved {y : Xfer} {rest : List Xfer} (hxq : (plot s p).xq = y :: rest) (hleft : y.left = []) :
    fabricCycle p s = s := by
  simp [fabricCycle, hxq, hleft]

/-- A head transfer whose lines have moved stays where it is as time moves on. -/
theorem xq_advance {y : Xfer} {rest : List Xfer} (lim : Nat) (hxq : (plot s p).xq = y :: rest) (hleft : y.left = []) :
    (plot (advance p lim s) p).xq = y :: rest := by
  unfold advance
  dsimp only
  split
  · rw [xq_plotTick, fabricCycle_of_moved s p hxq hleft, hxq]
  · simp [quietCycles, countCycles, hxq]

end

end Sys2Proof.Machine

namespace Sys2Proof.Machine
open Sys2Proof Sys2Proof.Laws

/-! ## Transfers start and end (07 R217, R220) -/

section
variable {s : State} {p : Nat} {e : LineErrs} {y : Xfer} {rest : List Xfer} (hxq : (plot s p).xq = y :: rest)
include hxq

theorem popXfer_of_noDigests (h : noDigests (plot s p)) :
    popXfer p s = modPlot s p fun x => tapEnd { x with xq := rest } y.id none := by
  simp only [popXfer, hxq]
  exact digSettle_of_noDigests (by rw [plot_modPlot]; exact noDigests_tapEnd (noDigests_congr rfl h) _ _)

theorem plot_runsNow : plot (runsNow s p e) p = { plot s p with xq := { y with running := true, left := y.lines, cap := [], errs := e } :: rest } := by
  simp [runsNow, modHead, hxq]

theorem transferStart_of_running (h : y.running = true) : transferStart p e s = s := by
  simp [transferStart, hxq, h]

theorem transferStart_of_empty (h : y.running = false) (hkind : y.kind ≠ .waybill) (hcount : y.count = 0) :
    transferStart p e s = popXfer p s := by
  simp [transferStart, hxq, h, hkind, hcount]

theorem transferStart_of_gran (h : y.running = false) (hkind : y.kind = .gload ∨ y.kind = .gstore) (hcount : 1 ≤ y.count) :
    transferStart p e s = startGran s p y e := by
  simp [transferStart, hxq, h, hkind, show y.count ≠ 0 by omega]

theorem transferStart_of_send (h : y.running = false) (hkind : y.kind = .waybill ∨ ((y.kind = .msend ∨ y.kind = .csend) ∧ 1 ≤ y.count)) :
    transferStart p e s = runsNow s p e := by
  obtain hkind | ⟨hkind | hkind, hcount⟩ := hkind
  · simp [transferStart, hxq, h, hkind]
  · simp [transferStart, hxq, h, hkind, show y.count ≠ 0 by omega]
  · simp [transferStart, hxq, h, hkind, show y.count ≠ 0 by omega]

/-- The end of a transfer whose lines have all moved: no line of another entry moves before it. -/
theorem transferEnd_of_moved (h : y.running = true) (hleft : y.left = []) (hkind : y.kind ≠ .csend) : transferEnd p 0 s = popXfer p s := by
  have hpass (n : Nat) : passUntil p n (fun t => decide ((plot s p).cyc ≤ (plot t p).cyc) &&
      !(plot t p).xq.any fun z => z.id == y.id && !z.left.isEmpty) s = s := by
    cases hany : (y :: rest).any fun z => z.id == y.id && !z.left.isEmpty with
    | false => rw [passUntil, plotUntil_of_stop (by rw [hxq, hany]; simp), Option.getD_some]
    | true =>
      rw [passUntil, plotUntil_eq_none (I := fun t => (plot t p).xq = y :: rest) hxq (fun t ht => by rw [ht, hany]; simp)
        fun t ht => xq_advance t p _ ht hleft, Option.getD_none]
  simp only [transferEnd, hxq, h, Nat.add_zero, hpass, hleft, hkind]
  simp

theorem transferEnd_of_waiting (h : y.running = false) (n : Nat) : transferEnd p n s = s := by
  simp [transferEnd, hxq, h]

end

section
variable {s : State} {p : Nat} {e : LineErrs} {y : Xfer}

/-- A granary transfer whose lines the plot may reach runs (R217, R220). -/
theorem startGran_of_allowed (hlines : ∀ l ∈ granLines y, inWindow s p (y.kind == .gstore) l = true ∧ regionOf s l = none)
    (hstack : stackFenced s (y.gaddr / 2 ^ 36) = false)
    (h : y.kind = .gstore ∨ (y.kind = .gload ∧ e = [] ∧ armedWrite s p y.lines = false)) : startGran s p y e = runsNow s p e := by
  have hreach : (granLines y).any (fun l => !inWindow s p (y.kind == .gstore) l || ((regionOf s l).isSome && !regionNames s p l)) = false := by
    simp only [List.any_eq_false]
    intro l hl
    simp [hlines l hl]
  simp only [startGran, hreach, hstack, Bool.false_eq_true, if_false]
  obtain hkind | ⟨hkind, rfl, harmed⟩ := h
  · simp [hkind]
  · simp [hkind, harmed]

theorem startGran_of_outside (h : ∃ l ∈ granLines y, inWindow s p (y.kind == .gstore) l = false) :
    startGran s p y e = failXfer s p y .seq fPlotGranaryRange := by
  obtain ⟨l, hl, hout⟩ := h
  rw [startGran]
  rw [if_pos (List.any_eq_true.mpr ⟨l, hl, by simp [hout]⟩)]

end

end Sys2Proof.Machine

namespace Sys2Proof
open Sys2Proof.Machine Sys2Proof.Laws

theorem transfersRun : Claims.TransfersRun := by
  rintro s p e x y rest hl rfl hxq
  have hstart : exec (.transferStart p e) s = .next (transferStart p.val e s) := event_ok hl
  have hend (n : Nat) : exec (.transferEnd p n) s = .next (transferEnd p.val n s) := event_ok hl
  have hchanges := (ChangesPlot.refl p.val s).modPlot
  rw [hstart]
  refine ⟨fun hrun => ?_, fun hrun hkind hcount hdigs => ⟨_, rfl, ?_⟩, fun hrun h => ⟨runsNow s p.val e, ?_, rfl, ?_, ?_⟩,
    fun hrun hcount hkind hdigs hout => ⟨_, rfl, ?_⟩, fun hrun hleft hkind hdigs => ⟨_, hend 0, ?_⟩, fun hrun n => ?_⟩
  · rw [transferStart_of_running hxq hrun]
  · rw [transferStart_of_empty hxq hrun hkind hcount, popXfer_of_noDigests hxq hdigs, plot_modPlot]
    exact ⟨rfl, rfl, rfl⟩
  · obtain h | h | ⟨hcount, hlines, hstack, h⟩ := h
    · rw [transferStart_of_send hxq hrun (.inl h)]
    · rw [transferStart_of_send hxq hrun (.inr h)]
    · rw [transferStart_of_gran hxq hrun (h.symm.imp_left And.left) hcount, startGran_of_allowed hlines hstack h]
  · exact fun q hq => plot_modPlot_ne _ _ hq
  · exact plot_runsNow hxq
  · rw [transferStart_of_gran hxq hrun hkind hcount, startGran_of_outside hout, failXfer,
      popXfer_of_noDigests (y := y) (rest := rest) (by simpa using hxq) (noDigests_congr (by simp) hdigs), plot_modPlot, plot_plotAbort]
    simp [tapEnd]
  · rw [transferEnd_of_moved hxq hrun hleft hkind, popXfer_of_noDigests hxq hdigs, plot_modPlot]
    exact ⟨rfl, rfl, rfl, rfl⟩
  · rw [hend, transferEnd_of_waiting hxq hrun]

end Sys2Proof

namespace Sys2Proof.Machine
open Sys2Proof Sys2Proof.Laws

/-! ## A transfer's lines move one in a cycle that serves their bank (05 R159) -/

/-- Cycles from cycle `c` until these lines have moved, each in the first cycle that serves its bank, or more. -/
def cyclesLeft : List Nat → Nat → Nat
  | [], _ => 0
  | l :: ls, c => 16 * ls.length + (l % 16 + 16 - c % 16) % 16 + 1

theorem cyclesLeft_le (ls : List Nat) (c : Nat) : cyclesLeft ls c ≤ 16 * ls.length := by
  cases ls with
  | nil => exact Nat.le_refl 0
  | cons l ls =>
    rw [cyclesLeft, List.length_cons]
    omega

theorem cyclesLeft_wait {l c : Nat} (ls : List Nat) (h : l % 16 ≠ c % 16) : cyclesLeft (l :: ls) (c + 1) < cyclesLeft (l :: ls) c := by
  simp only [cyclesLeft]
  omega

theorem cyclesLeft_move (l c : Nat) (ls : List Nat) : cyclesLeft ls (c + 1) < cyclesLeft (l :: ls) c := by
  have := cyclesLeft_le ls (c + 1)
  rw [cyclesLeft]
  omega

/-- Lines that the transfer at the head of the queue has still to move. -/
def headLeft (x : Plot) : List Nat := ((x.xq.head?).map (·.left)).getD []

/-- The plot issues no word and runs nothing but one transfer, which stands as `z`. -/
structure OnlyXfer (z : Xfer) (x : Plot) : Prop where
  halted : x.halted = true
  ops : x.ops = []
  digs : noDigests x
  xq : x.xq = [z]

section
variable {s : State} {p : Nat} {z : Xfer}

theorem plot_countCycles (s : State) (p n : Nat) : ∃ waitCycles, plot (countCycles s p n) p =
    { plot s p with cyc := (plot s p).cyc + n, waitCycles, flags := (plot s p).flags ||| (plot s p).came, came := 0 } := by
  exact ⟨_, plot_modPlot ..⟩

theorem OnlyXfer.countCycles (h : OnlyXfer z (plot s p)) (n : Nat) : OnlyXfer z (plot (countCycles s p n) p) := by
  obtain ⟨waitCycles, hplot⟩ := plot_countCycles s p n
  rw [hplot]
  exact ⟨h.halted, h.ops, noDigests_congr rfl h.digs, h.xq⟩

/-- A cycle in which only the FABRIC port works. -/
theorem plotTick_of_onlyXfer (h : OnlyXfer z (plot (fabricCycle p s) p)) : plotTick p s = countCycles (fabricCycle p s) p 1 := by
  have hports : portOrder (plot (fabricCycle p s) p) = [] := by simp [portOrder, h.ops]
  simp only [plotTick, hports, List.foldl_nil]
  exact digSettle_of_noDigests (h.countCycles 1).digs

theorem advance_of_onlyXfer (h : OnlyXfer z (plot s p)) (hrun : z.running = true) (hleft : z.left ≠ []) (lim : Nat) :
    advance p lim s = plotTick p s := by
  have hquiet (m : Nat) : quietFor (plot s p) m = 0 := by simp [quietFor, h.xq, hrun, hleft]
  simp [advance, hquiet]

/-- The next line of a transfer waits for a cycle that serves its bank. -/
theorem fabricCycle_of_otherBank {l : Nat} {ls : List Nat} (hxq : (plot s p).xq = [z]) (hleft : z.left = l :: ls)
    (hbank : l % 16 ≠ (plot s p).cyc % 16) : fabricCycle p s = s := by
  simp [fabricCycle, hxq, hleft, hbank]

variable {y : Xfer} {I : List Nat → State → Prop}

section
variable (hI : ∀ left s, I left s → ∃ z : Xfer, OnlyXfer z (plot s p) ∧ z.id = y.id ∧ z.running = true ∧ z.kind = y.kind ∧ z.left = left)
  (hcount : ∀ left s, I left s → I left (countCycles s p 1))
  (hmove : ∀ l ls s, I (l :: ls) s → l % 16 = (plot s p).cyc % 16 → I ls (fabricCycle p s) ∧ (plot (fabricCycle p s) p).cyc = (plot s p).cyc)
include hI hcount hmove

/-- A cycle moves the next line if it serves its bank, and no line otherwise. -/
theorem plotTick_of_lines {l : Nat} {ls : List Nat} (h : I (l :: ls) s) : (plot (plotTick p s) p).cyc = (plot s p).cyc + 1 ∧
    (l % 16 ≠ (plot s p).cyc % 16 → I (l :: ls) (plotTick p s)) ∧ (l % 16 = (plot s p).cyc % 16 → I ls (plotTick p s)) := by
  have hcyc (s : State) : (plot (countCycles s p 1) p).cyc = (plot s p).cyc + 1 := by
    obtain ⟨waitCycles, hplot⟩ := plot_countCycles s p 1
    rw [hplot]
  by_cases hbank : l % 16 = (plot s p).cyc % 16
  · obtain ⟨hmoved, hsame⟩ := hmove l ls s h hbank
    obtain ⟨z, hz, -⟩ := hI _ _ hmoved
    rw [plotTick_of_onlyXfer hz, hcyc, hsame]
    exact ⟨rfl, fun hne => absurd hbank hne, fun _ => hcount _ _ hmoved⟩
  · obtain ⟨z, hz, -, -, -, hleft⟩ := hI _ _ h
    have hwait := fabricCycle_of_otherBank hz.xq hleft hbank
    rw [plotTick_of_onlyXfer (by rw [hwait]; exact hz), hwait]
    exact ⟨hcyc s, fun _ => hcount _ _ h, fun heq => absurd heq hbank⟩

/-- A running transfer alone in its plot comes to its end with the state that its lines, moved one by one, leave: `I left` holds while
`left` are still to move. -/
theorem transferEnd_of_lines (hrun : y.running = true) (hkind : y.kind ≠ .csend)
    (hxq : (plot s p).xq = [y]) (hs : I y.left s) : ∃ t, I [] t ∧ transferEnd p 0 s = popXfer p t := by
  have hleft (left t) (h : I left t) : headLeft (plot t p) = left := by
    obtain ⟨z, hz, -, -, -, rfl⟩ := hI left t h
    simp [headLeft, hz.xq]
  obtain ⟨t, ht, ⟨left, hIt, -, -⟩, hstop⟩ := plotUntil_reaches (p := p) (s := s) (n := 32 * (y.left.length + 1))
    (lim := (plot s p).cyc + 32 * (y.left.length + 1)) (bar := (wordReady · p))
    (stop := fun t => decide ((plot s p).cyc ≤ (plot t p).cyc) && !(plot t p).xq.any fun z => z.id == y.id && !z.left.isEmpty)
    (I := fun t => ∃ left, I left t ∧ (plot s p).cyc ≤ (plot t p).cyc ∧
      (plot t p).cyc + cyclesLeft left (plot t p).cyc ≤ (plot s p).cyc + 16 * y.left.length)
    (r := fun t => cyclesLeft (headLeft (plot t p)) (plot t p).cyc)
    (by have := cyclesLeft_le y.left (plot s p).cyc; rw [hleft _ s hs]; omega)
    ⟨y.left, hs, le_rfl, by have := cyclesLeft_le y.left (plot s p).cyc; omega⟩
    (by
      rintro t ⟨left, hIt, hcyc, hend⟩ hstop
      obtain ⟨z, hz, hid, hzrun, -, rfl⟩ := hI left t hIt
      obtain ⟨l, ls, hzleft⟩ : ∃ l ls, z.left = l :: ls := by
        refine List.exists_cons_of_ne_nil fun hnil => ?_
        simp [hcyc, hz.xq, hnil] at hstop
      rw [hzleft] at hIt hend
      obtain ⟨htick, hwait, hnext⟩ := plotTick_of_lines hI hcount hmove hIt
      rw [advance_of_onlyXfer hz hzrun (by simp [hzleft]), hleft _ t hIt]
      have hpos : 0 < cyclesLeft (l :: ls) (plot t p).cyc := Nat.succ_pos _
      refine ⟨wordReady_of_halted hz.halted, by omega, ?_⟩
      by_cases hbank : l % 16 = (plot t p).cyc % 16
      · have hlt := cyclesLeft_move l (plot t p).cyc ls
        rw [hleft _ _ (hnext hbank), htick]
        exact ⟨⟨ls, hnext hbank, by omega, by omega⟩, hlt⟩
      · have hlt := cyclesLeft_wait ls hbank
        rw [hleft _ _ (hwait hbank), htick]
        exact ⟨⟨l :: ls, hwait hbank, by omega, by omega⟩, hlt⟩)
  obtain ⟨z, hz, hid, -, hzkind, rfl⟩ := hI left t hIt
  have hzleft : z.left = [] := by simpa [hz.xq, hid] using (Bool.and_eq_true_iff.mp hstop).2
  rw [hzleft] at hIt
  refine ⟨t, hIt, ?_⟩
  simp only [transferEnd, hxq, hrun, Nat.add_zero, Nat.zero_add, passUntil, ht, Option.getD_some, hz.xq, hid, hzleft, hzkind, hkind]
  simp

end

end

end Sys2Proof.Machine

namespace Sys2Proof.Machine
open Sys2Proof Sys2Proof.Laws

/-! ## GLOAD (07 R217) -/

/-- A scratchpad into which lines are copied from the granary's address `a` on. -/
def loaded (gran : Mem) : Mem → Nat → List Nat → Mem
  | m, _, [] => m
  | m, a, l :: ls => loaded gran (Mem.writes m (128 * l) (Mem.reads gran a 128)) (a + 128) ls

theorem read_loaded_out (gran m : Mem) (b : Nat) {a : Nat} {ls : List Nat} (h : a / 128 ∉ ls) :
    Mem.read (loaded gran m b ls) a = Mem.read m a := by
  induction ls generalizing m b with
  | nil => rfl
  | cons l ls ih =>
    rw [List.mem_cons, not_or] at h
    rw [loaded, ih _ _ h.2, mem_read_writes_out _ _ _ _ (by simp only [Mem.reads, List.length_map, List.length_range]; omega)]

theorem read_loaded (gran m : Mem) (b : Nat) {ls : List Nat} (hnodup : ls.Nodup) {j : Nat} (hj : j < ls.length) {k : Nat} (hk : k < 128) :
    Mem.read (loaded gran m b ls) (128 * ls[j] + k) = Mem.read gran (b + 128 * j + k) := by
  induction ls generalizing m b j with
  | nil => simp at hj
  | cons l ls ih =>
    rw [List.nodup_cons] at hnodup
    cases j with
    | zero =>
      rw [loaded, List.getElem_cons_zero, read_loaded_out _ _ _ (by rw [show (128 * l + k) / 128 = l by omega]; exact hnodup.1),
        mem_read_writes _ _ _ _ (by simpa [Mem.reads] using hk)]
      simp [Mem.reads]
    | succ j =>
      rw [loaded, List.getElem_cons_succ, ih _ _ hnodup.2]
      congr 1
      ring

section
variable {s s0 : State} {p : Nat} {y : Xfer} {left ls : List Nat} {l : Nat}

/-- A GLOAD of plot `p` begun in `s0`, with `left` still to move. -/
structure Loading (s0 : State) (p : Nat) (y : Xfer) (left : List Nat) (s : State) : Prop where
  changes : ChangesPlot p s0 s
  only : OnlyXfer { y with left } (plot s p)
  few : left.length ≤ y.lines.length
  scratch : loaded s0.gran (plot s p).scratch (y.gaddr + 128 * (y.lines.length - left.length)) left =
    loaded s0.gran (plot s0 p).scratch y.gaddr y.lines

theorem Loading.countCycles (h : Loading s0 p y left s) (n : Nat) : Loading s0 p y left (countCycles s p n) := by
  obtain ⟨waitCycles, hplot⟩ := plot_countCycles s p n
  exact ⟨h.changes.modPlot _, h.only.countCycles n, h.few, by rw [hplot]; exact h.scratch⟩

/-- The plot after a line that a GLOAD has moved. -/
theorem fabricCycle_of_gload (hrun : y.running = true) (hkind : y.kind = .gload) (hxq : (plot s p).xq = [{ y with left := l :: ls }])
    (hbank : l % 16 = (plot s p).cyc % 16) :
    fabricCycle p s = modHead (gloadLine s p { y with left := l :: ls } l) p fun t => { t with left := ls } := by
  simp [fabricCycle, hxq, hrun, hkind, hbank]

theorem plot_gloadLine (s : State) (p : Nat) (t : Xfer) (l : Nat) : ∃ taint shadow, plot (gloadLine s p t l) p = { plot s p with
    taint, shadow
    scratch := Mem.writes (plot s p).scratch (128 * l) (Mem.reads s.gran (128 * (t.gaddr / 128 + (t.lines.length - t.left.length))) 128) } :=
  ⟨_, _, plot_modPlot ..⟩

theorem Loading.move (h : Loading s0 p y (l :: ls) s) (hrun : y.running = true) (hkind : y.kind = .gload) (haddr : y.gaddr % 128 = 0)
    (hbank : l % 16 = (plot s p).cyc % 16) :
    Loading s0 p y ls (fabricCycle p s) ∧ (plot (fabricCycle p s) p).cyc = (plot s p).cyc := by
  obtain ⟨taint, shadow, hplot⟩ := plot_gloadLine s p { y with left := l :: ls } l
  have hfew : ls.length + 1 ≤ y.lines.length := h.few
  rw [fabricCycle_of_gload hrun hkind h.only.xq hbank]
  refine ⟨⟨(h.changes.modPlot _).modPlot _, ?_, by omega, ?_⟩, by rw [modHead, plot_modPlot, hplot]⟩
  · rw [modHead, plot_modPlot, hplot]
    exact ⟨h.only.halted, h.only.ops, noDigests_congr rfl h.only.digs, by simp [h.only.xq]⟩
  · rw [← h.scratch, loaded, modHead, plot_modPlot, hplot, h.changes.gran]
    have hq : 128 * (y.gaddr / 128 + (y.lines.length - (l :: ls).length)) = y.gaddr + 128 * (y.lines.length - (l :: ls).length) := by omega
    have hnext : y.gaddr + 128 * (y.lines.length - ls.length) = y.gaddr + 128 * (y.lines.length - (l :: ls).length) + 128 := by
      rw [List.length_cons]
      omega
    rw [hnext]
    simp only [hq]

/-- A GLOAD begun and not moved yet ends with its lines copied. -/
theorem transferEnd_of_gload (hrun : y.running = true) (hkind : y.kind = .gload) (haddr : y.gaddr % 128 = 0) (hleft : y.left = y.lines)
    (h : OnlyXfer y (plot s p)) : ∃ t, Loading s p y [] t ∧ transferEnd p 0 s = popXfer p t := by
  refine transferEnd_of_lines (I := Loading s p y) (fun left t ht => ⟨_, ht.only, rfl, hrun, rfl, rfl⟩) (fun left t ht => ht.countCycles 1)
    (fun l ls t ht => ht.move hrun hkind haddr) hrun (by simp [hkind]) h.xq
    ⟨.refl p s, h, by rw [hleft], by rw [hleft]; simp⟩

end

/-! ## GSTORE (07 R217, 15 R444) -/

/-- A line as a transfer reads it. -/
def captured (x : Plot) (l : Nat) : CapLine := { bytes := readLine x l, taint := lineTaint x l }

section
variable {s s0 : State} {p : Nat} {t y : Xfer} {left ls : List Nat} {l : Nat} {cap : List CapLine}

/-- A stream without taint leaves as it was read. -/
theorem leaving_of_untainted (may : Nat → Bool) (h : ∀ c ∈ t.cap, c.taint = false) : leaving t may = (t.cap.flatMap (·.bytes), false) := by
  have hmem (e : Nat × CapLine) (he : e ∈ enum t.cap) : e.2.taint = false :=
    h _ (map_snd_enum t.cap ▸ List.mem_map_of_mem he)
  have hbytes : (enum t.cap).flatMap (fun e => e.2.bytes) = t.cap.flatMap (·.bytes) := by
    conv_rhs => rw [← map_snd_enum t.cap, List.flatMap_map]
  rw [← hbytes]
  refine Prod.ext (List.flatMap_congr fun e he => ?_) (List.any_eq_false.mpr fun e he => ?_)
  · simp [hmem e he]
  · simp [hmem e he]

@[simp] theorem provTouch_fields (s : State) (a n : Nat) :
    (provTouch s a n).gran = s.gran ∧ (provTouch s a n).fault = s.fault ∧ (provTouch s a n).plots = s.plots := by
  unfold provTouch
  dsimp only
  split <;> simp

/-- A GSTORE without taint that has read its lines: they are written to the granary, and what taps them has them. -/
theorem gstoreDone_of_untainted (h : ∀ c ∈ t.cap, c.taint = false) :
    (gstoreDone s p t).gran = Mem.writes s.gran t.gaddr (t.cap.flatMap (·.bytes)) ∧ (gstoreDone s p t).fault = s.fault ∧
    (∃ streams digs, plot (gstoreDone s p t) p = { plot s p with streams, digs }) ∧
    (noDigests (plot s p) → noDigests (plot (gstoreDone s p t) p)) := by
  obtain ⟨granTaint, hdone⟩ : ∃ granTaint, gstoreDone s p t =
      feedTap (provTouch { s with gran := Mem.writes s.gran t.gaddr (t.cap.flatMap (·.bytes)), granTaint } t.gaddr (128 * t.count)) p t
        (t.cap.flatMap (·.bytes)) (t.cap.any (·.taint)) :=
    ⟨_, by simp only [gstoreDone, leaving_of_untainted _ h, leaked, Bool.false_eq_true, if_false]; rfl⟩
  obtain ⟨hgran, hfault, hplots⟩ :=
    provTouch_fields { s with gran := Mem.writes s.gran t.gaddr (t.cap.flatMap (·.bytes)), granTaint } t.gaddr (128 * t.count)
  rw [hdone, feedTap, plot_modPlot, plot_congr (s := s) hplots]
  exact ⟨hgran, hfault, ⟨_, _, rfl⟩, fun hdigs => noDigests_map hdigs rfl⟩

/-- A GSTORE of plot `p` begun in `s0`, with `left` still to move: with its last line it writes the granary. -/
structure Storing (s0 : State) (p : Nat) (y : Xfer) (left : List Nat) (s : State) : Prop where
  only : ∃ cap, OnlyXfer { y with left, cap } (plot s p) ∧ cap ++ left.map (captured (plot s0 p)) = y.lines.map (captured (plot s0 p))
  scratch : (plot s p).scratch = (plot s0 p).scratch
  taint : (plot s p).taint = (plot s0 p).taint
  shadow : (plot s p).shadow = []
  before : left ≠ [] → ChangesPlot p s0 s
  after : left = [] → s.fault = s0.fault ∧ s.gran = Mem.writes s0.gran y.gaddr (y.lines.flatMap (readLine (plot s0 p)))

theorem Storing.countCycles (h : Storing s0 p y left s) (n : Nat) : Storing s0 p y left (countCycles s p n) := by
  obtain ⟨waitCycles, hplot⟩ := plot_countCycles s p n
  obtain ⟨cap, honly, hcap⟩ := h.only
  exact ⟨⟨cap, honly.countCycles n, hcap⟩, by rw [hplot]; exact h.scratch, by rw [hplot]; exact h.taint, by rw [hplot]; exact h.shadow,
    fun hne => (h.before hne).modPlot _, h.after⟩

/-- A line that a GSTORE reads; with the last it has moved. -/
theorem fabricCycle_of_gstore (hrun : y.running = true) (hkind : y.kind = .gstore) (herrs : y.errs = [])
    (h : OnlyXfer { y with left := l :: ls, cap } (plot s p)) (hshadow : (plot s p).shadow = []) (hbank : l % 16 = (plot s p).cyc % 16) :
    fabricCycle p s =
      let t := { y with left := ls, cap := cap ++ [captured (plot s p) l] }
      let u := modHead s p fun _ => t
      if ls.isEmpty then gstoreDone u p t else u := by
  have hclear : inShadow (plot s p) l = false := by simp [inShadow, hshadow, h.ops]
  simp only [fabricCycle, h.xq, hrun, hkind, herrs, hclear, hbank]
  simp [readDone, captured]

theorem Storing.captured_eq (h : Storing s0 p y left s) (l : Nat) : captured (plot s p) l = captured (plot s0 p) l := by
  simp [captured, readLine, lineTaint, h.scratch, h.taint]

theorem Storing.move (h : Storing s0 p y (l :: ls) s) (hrun : y.running = true) (hkind : y.kind = .gstore) (herrs : y.errs = [])
    (htaint : ∀ l ∈ y.lines, lineTaint (plot s0 p) l = false) (hbank : l % 16 = (plot s p).cyc % 16) :
    Storing s0 p y ls (fabricCycle p s) ∧ (plot (fabricCycle p s) p).cyc = (plot s p).cyc := by
  obtain ⟨cap, honly, hcap⟩ := h.only
  rw [fabricCycle_of_gstore hrun hkind herrs honly h.shadow hbank, h.captured_eq l]
  have hcap' : (cap ++ [captured (plot s0 p) l]) ++ ls.map (captured (plot s0 p)) = y.lines.map (captured (plot s0 p)) := by
    rw [← hcap, List.append_assoc]
    rfl
  have hchanges := h.before (List.cons_ne_nil l ls)
  have hhead : plot (modHead s p fun _ => { y with left := ls, cap := cap ++ [captured (plot s0 p) l] }) p =
      { plot s p with xq := [{ y with left := ls, cap := cap ++ [captured (plot s0 p) l] }] } := by simp [modHead, honly.xq]
  cases ls with
  | cons l' ls =>
    simp only [List.isEmpty_cons, Bool.false_eq_true, if_false]
    rw [hhead]
    refine ⟨⟨⟨_, ?_, hcap'⟩, ?_, ?_, ?_, fun _ => hchanges.modPlot _, fun hnil => absurd hnil (List.cons_ne_nil _ _)⟩, rfl⟩ <;> rw [hhead]
    exacts [⟨honly.halted, honly.ops, noDigests_congr rfl honly.digs, rfl⟩, h.scratch, h.taint, h.shadow]
  | nil =>
    rw [List.map_nil, List.append_nil] at hcap'
    obtain ⟨hgran, hfault, ⟨streams, digs, hplot⟩, hdigs⟩ := gstoreDone_of_untainted (p := p)
      (s := modHead s p fun _ => { y with left := [], cap := cap ++ [captured (plot s0 p) l] })
      (t := { y with left := [], cap := cap ++ [captured (plot s0 p) l] }) (by
        intro c hc
        obtain ⟨l, hl, rfl⟩ := List.mem_map.mp (hcap' ▸ hc)
        exact htaint l hl)
    rw [hhead] at hplot hdigs
    simp only [List.isEmpty_nil, if_true]
    refine ⟨⟨⟨_, ?_, by simpa using hcap'⟩, ?_, ?_, ?_, fun hne => absurd rfl hne, fun _ => ⟨?_, ?_⟩⟩, by rw [hplot]⟩
    · refine ⟨?_, ?_, hdigs (noDigests_congr rfl honly.digs), ?_⟩ <;> rw [hplot]
      exacts [honly.halted, honly.ops]
    · rw [hplot]
      exact h.scratch
    · rw [hplot]
      exact h.taint
    · rw [hplot]
      exact h.shadow
    · exact hfault.trans hchanges.fault
    · rw [hgran, hcap', List.flatMap_map]
      exact congrArg (Mem.writes · _ _) hchanges.gran

/-- A GSTORE begun and not moved yet ends with its lines in the granary. -/
theorem transferEnd_of_gstore (hrun : y.running = true) (hkind : y.kind = .gstore) (herrs : y.errs = []) (hcap : y.cap = [])
    (hleft : y.left = y.lines) (hne : y.lines ≠ []) (htaint : ∀ l ∈ y.lines, lineTaint (plot s p) l = false)
    (hshadow : (plot s p).shadow = []) (h : OnlyXfer y (plot s p)) : ∃ t, Storing s p y [] t ∧ transferEnd p 0 s = popXfer p t := by
  refine transferEnd_of_lines (I := Storing s p y) (fun left t ht => ?_) (fun left t ht => ht.countCycles 1)
    (fun l ls t ht => ht.move hrun hkind herrs htaint) hrun (by simp [hkind]) h.xq
    ⟨⟨y.cap, h, by rw [hcap, hleft, List.nil_append]⟩, rfl, rfl, hshadow, fun _ => .refl p s, fun hnil => absurd (hleft ▸ hnil) hne⟩
  obtain ⟨cap, honly, -⟩ := ht.only
  exact ⟨_, honly, rfl, hrun, rfl, rfl⟩

end

end Sys2Proof.Machine

namespace Sys2Proof.Machine
open Sys2Proof Sys2Proof.Laws

section
variable (x : Plot)

@[simp] theorem length_readLine (l : Nat) : (readLine x l).length = 128 := by simp [readLine, Mem.reads]

theorem length_flatMap_readLine (ls : List Nat) : (ls.flatMap (readLine x)).length = 128 * ls.length := by
  simp [List.length_flatMap, mul_comm]

/-- A byte of a line among lines read one after another. -/
theorem getElem?_flatMap_readLine {ls : List Nat} {j : Nat} (hj : j < ls.length) {k : Nat} (hk : k < 128) :
    (ls.flatMap (readLine x))[128 * j + k]? = some (Mem.read x.scratch (128 * ls[j] + k)) := by
  induction ls generalizing j with
  | nil => simp at hj
  | cons l ls ih =>
    cases j with
    | zero => simp [List.getElem?_append, hk, readLine, Mem.reads]
    | succ j =>
      rw [List.flatMap_cons, List.getElem?_append_right (by simp; omega), length_readLine,
        show 128 * (j + 1) + k - 128 = 128 * j + k by omega, ih (by simpa using hj)]
      rfl

end

end Sys2Proof.Machine

namespace Sys2Proof
open Sys2Proof.Machine Sys2Proof.Laws

theorem granaryTransfers : Claims.GranaryTransfers := by
  rintro s p x y hl rfl - hhalted hxq hops hshadow hdigs hrun hleft hcap herrs hnodup hcount haddr
  have honly : OnlyXfer y (plot s p.val) := ⟨hhalted, hops, hdigs, hxq⟩
  have hexec : exec (.transferEnd p 0) s = .next (transferEnd p.val 0 s) := event_ok hl
  refine ⟨fun hkind => ?_, fun hkind hne htaint => ?_⟩
  · obtain ⟨t, ht, hend⟩ := transferEnd_of_gload hrun hkind haddr hleft honly
    have hscratch : (plot t p.val).scratch = loaded s.gran (plot s p.val).scratch y.gaddr y.lines := ht.scratch
    refine ⟨_, hexec.trans (congrArg _ hend), ?_⟩
    rw [popXfer_of_noDigests ht.only.xq ht.only.digs, plot_modPlot]
    refine ⟨(ht.changes.modPlot _).rest, rfl, fun j hj k hk => ?_, fun a ha => ?_⟩
    · exact (congrArg (Mem.read · _) hscratch).trans (read_loaded s.gran _ _ hnodup hj hk)
    · exact (congrArg (Mem.read · _) hscratch).trans (read_loaded_out s.gran _ _ ha)
  · obtain ⟨t, ht, hend⟩ := transferEnd_of_gstore hrun hkind herrs hcap hleft hne htaint hshadow honly
    obtain ⟨cap, htonly, -⟩ := ht.only
    obtain ⟨hfault, hgran⟩ := ht.after rfl
    have hlen := length_flatMap_readLine (plot s p.val) y.lines
    refine ⟨_, hexec.trans (congrArg _ hend), ?_⟩
    rw [popXfer_of_noDigests htonly.xq htonly.digs, plot_modPlot]
    refine ⟨rfl, ht.scratch, hfault, fun j hj k hk => ?_, fun a ha => ?_⟩
    · refine (congrArg (Mem.read · _) hgran).trans ?_
      rw [add_assoc, mem_read_writes _ _ _ _ (by omega)]
      exact List.getElem_eq_iff _ |>.mpr (getElem?_flatMap_readLine _ hj hk)
    · exact (congrArg (Mem.read · _) hgran).trans (mem_read_writes_out _ _ _ _ (by rw [hlen, hcount]; exact ha))

/-- Settles O40: `transfersQueue` as a word queues its transfer, `transfersRun` at the head of the queue, `granaryTransfers` for the lines
that a transfer moves. -/
theorem fabricTransfers : Obligations.FabricTransfers := ⟨transfersQueue, transfersRun, granaryTransfers⟩

end Sys2Proof

namespace Sys2Proof.Machine
open Sys2Proof Sys2Proof.Laws

/-! ## The last cycles of a plot's last operation (05 R148, 06 R199) -/

/-- A plot `d` cycles later in which its one operation only ages. -/
def aged (x : Plot) (o : PlotOp) (d : Nat) : Plot := { x with cyc := x.cyc + d, ops := [{ o with t := o.t + d }] }

section
variable {s : State} {p d : Nat} {x : Plot} {o : PlotOp}

/-- A plot that issues no word waits for none. -/
theorem plot_countCycles_of_halted (hhalted : (plot s p).halted = true) (hcame : (plot s p).came = 0) (n : Nat) :
    plot (countCycles s p n) p = { plot s p with cyc := (plot s p).cyc + n } := by
  have hheld : wordHeld s p = false := by simp [wordHeld, hhalted]
  simp [countCycles, hheld, hcame]

variable (h : lastOp x o) (hs : plot s p = aged x o d)
include h hs

theorem plot_quietCycles_of_lastOp (n : Nat) : plot (quietCycles p n s) p = aged x o (d + n) := by
  obtain ⟨-, hhalted, -, -, -, -, hcame, -⟩ := h
  rw [quietCycles, plot_modPlot, plot_countCycles_of_halted (by rw [hs]; exact hhalted) (by rw [hs]; exact hcame), hs]
  simp [aged, add_assoc]

/-- A cycle in which the operation presents no line: it ages, and then does what is due. -/
theorem plotTick_of_lastOp : ∃ u, ChangesPlot p s u ∧ plot u p = aged x o (d + 1) ∧ plotTick p s = digSettle p (settleOp p u o.id) := by
  obtain ⟨-, hhalted, -, hxq, -, -, hcame, -, htodo, -⟩ := h
  have hfabric : fabricCycle p s = s := by simp [fabricCycle, hs, aged, hxq]
  have hports : portOrder (plot s p) = [o.id] := by cases hu : o.unit <;> simp [portOrder, hs, aged, hu]
  have hcycle : (opCycle p (s, [(plot s p).cyc % 16]) o.id).1 =
      modPlot s p fun x => putOp x { o with t := o.t + d + 1 } := by
    simp [opCycle, hs, aged, turn, PlotOp.due, htodo, onePerBank]
  refine ⟨countCycles (modPlot s p fun x => putOp x { o with t := o.t + d + 1 }) p 1,
    ((ChangesPlot.refl p s).modPlot _).modPlot _, ?_, ?_⟩
  · rw [plot_countCycles_of_halted (by simp [putOp, hs, aged, hhalted]) (by simp [putOp, hs, aged, hcame]), plot_modPlot, hs]
    simp [putOp, aged, add_assoc]
  · simp only [plotTick, hfabric, hports, List.foldl_cons, List.foldl_nil, hcycle]

end

/-! ### How far the quiet cycles reach -/

section
variable {x : Plot} {o : PlotOp} (hops : x.ops = [o]) (hxq : x.xq = []) (htq : x.tq = []) (hlate : x.scLate = []) (hcame : x.came = 0)
  (htodo : o.todo = []) (m : Nat)
include hops hxq htq hlate hcame htodo

theorem quietFor_le_fin (h : o.t < o.fin) : quietFor x m ≤ o.fin - 1 - o.t := by
  simp only [quietFor, hops, hxq, htq, hlate, hcame, htodo, List.foldl_cons, List.foldl_nil, if_neg (Nat.not_le.mpr h), if_pos h]
  split_ifs <;> omega

theorem quietFor_le_slab (hunit : o.unit = .mm) (hslab : o.slab < passes o.word * slabs o.word) (h : o.t < o.fin) :
    quietFor x m ≤ (o.slab + 1) * slabTime o.word - 1 - o.t := by
  simp only [quietFor, hops, hxq, htq, hlate, hcame, htodo, List.foldl_cons, List.foldl_nil, if_neg (Nat.not_le.mpr h), if_pos h, hunit, hslab,
    true_and, if_true]
  generalize (o.slab + 1) * slabTime o.word = e
  split_ifs <;> omega

end

end Sys2Proof.Machine

namespace Sys2Proof.Machine
open Sys2Proof Sys2Proof.Laws

/-! ## Time moves on to the end of the last operation (05 R148) -/

/-- Cycles of the running operations until their cycle `e`. -/
def cyclesUntil (e : Nat) (x : Plot) : Nat := (x.ops.map fun o => e - o.t).sum

section
variable {s t : State} {p d n : Nat} {x : Plot} {o : PlotOp} {pick : PlotOp → Bool}

theorem aged_zero (h : x.ops = [o]) : aged x o 0 = x := by
  simp [aged, ← h]

theorem noDigests_aged (h : lastOp x o) (d : Nat) : noDigests (aged x o d) := by
  obtain ⟨-, -, -, -, -, -, -, hdigs, -⟩ := h
  exact noDigests_congr rfl hdigs

theorem cyclesUntil_aged (x : Plot) (o : PlotOp) (n d : Nat) : cyclesUntil (o.t + n) (aged x o d) = n - d := by
  simp only [cyclesUntil, aged, List.map_cons, List.map_nil, List.sum_cons, List.sum_nil]
  omega

/-- A step of the time in which the last operation presents no line: it ages, and after a single cycle does what is due. -/
theorem advance_of_lastOp (h : lastOp x o) (ht : plot t p = aged x o d) (hd : d < n)
    (hquiet : ∀ m, quietFor (aged x o d) m ≤ n - 1 - d) (lim : Nat) : ∃ d' u, ChangesPlot p t u ∧ plot u p = aged x o d' ∧ d < d' ∧
      (d' < n ∧ advance p lim t = u ∨ d' = d + 1 ∧ advance p lim t = digSettle p (settleOp p u o.id)) := by
  have hle := hquiet (lim - (plot t p).cyc)
  rw [advance, ht]
  rw [ht] at hle
  generalize quietFor _ _ = q at hle ⊢
  cases q with
  | zero =>
    obtain ⟨u, hchanges, hu, htick⟩ := plotTick_of_lastOp h ht
    exact ⟨d + 1, u, hchanges, hu, by omega, .inr ⟨rfl, htick⟩⟩
  | succ q =>
    exact ⟨d + (q + 1), _, ((ChangesPlot.refl p t).modPlot _).modPlot _, plot_quietCycles_of_lastOp h ht (q + 1), by omega, .inl ⟨by omega, rfl⟩⟩

/-- Time of the plot moves on to cycle `n` of its last operation, in which it ends: nothing is due to it in a cycle before. -/
theorem awaitOp_of_lastOp (h : lastOp (plot s p) o) (hpick : pick o = true) (hpos : 0 < n) (hfin : o.t + n ≤ o.fin)
    (hquiet : ∀ d, d < n → ∀ m, quietFor (aged (plot s p) o d) m ≤ n - 1 - d)
    (hidle : ∀ t d, d < n → plot t p = aged (plot s p) o d → settleOp p t o.id = t)
    (hend : ∀ t, plot t p = aged (plot s p) o n → (plot (settleOp p t o.id) p).ops = [] ∧ noDigests (plot (settleOp p t o.id) p)) :
    ∃ u, ChangesPlot p s u ∧ plot u p = aged (plot s p) o n ∧ awaitOp p pick s = settleOp p u o.id := by
  obtain ⟨-, hhalted, hops, -, -, -, -, -, htodo, -⟩ := id h
  have hzero := aged_zero hops
  have hbound : opsBound (plot s p) = o.fin + 192 := by simp [opsBound, hops, htodo]
  obtain ⟨t, ht, hIt, hstop⟩ := plotUntil_reaches (p := p) (s := s) (n := opsBound (plot s p))
    (lim := (plot s p).cyc + opsBound (plot s p)) (bar := (wordReady · p))
    (stop := fun t => !(plot t p).ops.any fun y => y.id == o.id)
    (I := fun t => (∃ d, d < n ∧ ChangesPlot p s t ∧ plot t p = aged (plot s p) o d) ∨
      ∃ u, ChangesPlot p s u ∧ plot u p = aged (plot s p) o n ∧ t = settleOp p u o.id)
    (r := fun t => cyclesUntil (o.t + n) (plot t p))
    (by rw [← hzero, cyclesUntil_aged, hzero, hbound]; omega)
    (.inl ⟨0, hpos, .refl p s, hzero.symm⟩)
    (by
      rintro t (⟨d, hd, hchanges, ht⟩ | ⟨u, -, hu, rfl⟩) hstop
      · refine ⟨wordReady_of_halted (by rw [ht]; exact hhalted), by rw [ht, hbound]; simp only [aged]; omega, ?_⟩
        obtain ⟨d', u, hchanges', hu, hlt, ⟨hd', hadvance⟩ | ⟨rfl, hadvance⟩⟩ :=
          advance_of_lastOp h ht hd (hquiet d hd) ((plot s p).cyc + opsBound (plot s p))
        · rw [hadvance]
          exact ⟨.inl ⟨d', hd', hchanges.trans hchanges', hu⟩, by rw [ht, hu, cyclesUntil_aged, cyclesUntil_aged]; omega⟩
        · rw [hadvance]
          obtain hd' | rfl := (Nat.succ_le_of_lt hd).lt_or_eq
          · rw [hidle u _ hd' hu, digSettle_of_noDigests (by rw [hu]; exact noDigests_aged h _)]
            exact ⟨.inl ⟨_, hd', hchanges.trans hchanges', hu⟩, by rw [ht, hu, cyclesUntil_aged, cyclesUntil_aged]; omega⟩
          · obtain ⟨hempty, hdigs⟩ := hend u hu
            rw [digSettle_of_noDigests hdigs, ht, cyclesUntil_aged]
            exact ⟨.inr ⟨u, hchanges.trans hchanges', hu, rfl⟩, by simp only [cyclesUntil, hempty, List.map_nil, List.sum_nil]; omega⟩
      · simp [(hend u hu).1] at hstop)
  obtain ⟨d, -, -, htd⟩ | ⟨u, hchanges, hu, rfl⟩ := hIt
  · simp [htd, aged] at hstop
  · refine ⟨u, hchanges, hu, ?_⟩
    simp only [awaitOp, hops, List.find?_cons, hpick, passUntil]
    rw [ht, Option.getD_some]

end

end Sys2Proof.Machine

namespace Sys2Proof.Machine
open Sys2Proof Sys2Proof.Laws

/-! ## An operation that has run its cycles ends (05 R148, R150, R573, 06 R188, R199) -/

/-- A plot in which operation `o` has ended. -/
def opEnded (x : Plot) (o : PlotOp) : Plot :=
  let y := leaveOp (if o.unit = .harrow then harrowEnd x o else arrayEnd x o) o
  tapEnd y o.id (if o.unit = .harrow then some (destBytes y o.word, opTaint y o) else none)

/-- Nothing is due to the operation but its end: its slabs have joined, its passes of checks and lists are over. -/
structure OnlyEnds (o : PlotOp) : Prop where
  slabs : o.unit = .mm → passes o.word * slabs o.word ≤ o.slab
  list : o.unit = .harrow → ¬ (wHop o.word = 0x30 ∧ wVar o.word = 2 ∧ o.slab = 0)
  checks : o.unit = .harrow → hCheck o.word = 0 ∨ o.slab ≠ 0

section
variable (s : State) (p : Nat) (x : Plot) (o : PlotOp)

theorem endOp_eq : endOp s p o = modPlot s p fun x => opEnded x o := rfl

@[simp] theorem putResult_fields :
    (putResult x o).scratch = x.scratch ∧ (putResult x o).bank0 = x.bank0 ∧ (putResult x o).bank1 = x.bank1 ∧ (putResult x o).ops = x.ops ∧
    (putResult x o).digs = x.digs ∧ (putResult x o).cyc = x.cyc ∧ (putResult x o).hflags = x.hflags := by
  unfold putResult
  dsimp only
  repeat' split
  all_goals and_intros <;> rfl

@[simp] theorem settleTaint_fields : (settleTaint x o).scratch = x.scratch ∧ (settleTaint x o).bank0 = x.bank0 ∧
    (settleTaint x o).bank1 = x.bank1 ∧ (settleTaint x o).ops = x.ops ∧ (settleTaint x o).digs = x.digs ∧ (settleTaint x o).cyc = x.cyc ∧
    (settleTaint x o).hflags = x.hflags ∧ (settleTaint x o).keys = x.keys ∧ (settleTaint x o).xregs = x.xregs :=
  ⟨rfl, rfl, rfl, rfl, rfl, rfl, rfl, rfl, rfl⟩

@[simp] theorem arrayEnd_fields :
    (arrayEnd x o).scratch = x.scratch ∧ (arrayEnd x o).ops = x.ops ∧ (arrayEnd x o).digs = x.digs ∧ (arrayEnd x o).cyc = x.cyc := by
  unfold arrayEnd
  dsimp only
  repeat' split
  all_goals simp [accLoaded]

@[simp] theorem opEnded_fields : (opEnded x o).scratch = x.scratch ∧ (opEnded x o).ops = (x.ops.filter fun y => y.id != o.id) ∧
    (opEnded x o).cyc = x.cyc := by
  simp only [opEnded, tapEnd, leaveOp]
  split <;> simp [harrowEnd]

theorem noDigests_opEnded {x : Plot} (h : noDigests x) : noDigests (opEnded x o) := by
  refine noDigests_tapEnd (noDigests_congr ?_ h) _ _
  split <;> simp [leaveOp, harrowEnd]

end

section
variable {s : State} {p : Nat} {x : Plot} {o : PlotOp} {pick : PlotOp → Bool}

theorem settleOp_of_onlyEnds (hops : (plot s p).ops = [o]) (h : OnlyEnds o) :
    settleOp p s o.id = if o.fin ≤ o.t then endOp s p o else s := by
  have hslab : o.slabDue = false := by
    simp only [PlotOp.slabDue, Bool.and_eq_false_iff, beq_eq_false_iff_ne, decide_eq_false_iff_not]
    by_cases hunit : o.unit = .mm
    · exact .inl (.inr (by have := h.slabs hunit; omega))
    · exact .inl (.inl hunit)
  have hlist : ¬ (o.unit = .harrow ∧ o.slab = 0 ∧ wHop o.word = 0x30 ∧ wVar o.word = 2 ∧ 1 ≤ o.t) :=
    fun ⟨hunit, hzero, hhop, hvar, _⟩ => h.list hunit ⟨hhop, hvar, hzero⟩
  have hcheck : ¬ (o.unit = .harrow ∧ o.slab = 0 ∧ hCheck o.word ≠ 0 ∧ hCheck o.word * hVectors o.word ≤ o.t) :=
    fun ⟨hunit, hzero, hne, _⟩ => (h.checks hunit).elim hne (· hzero)
  simp only [settleOp, hops, List.find?_cons, BEq.rfl, hslab, hlist, hcheck, Bool.false_eq_true, if_false]

/-- Time moves on to the end of a last operation to which nothing else is due. -/
theorem awaitOp_of_onlyEnds (h : lastOp (plot s p) o) (hpick : pick o = true) (hends : OnlyEnds o) :
    ChangesPlot p s (awaitOp p pick s) ∧
    plot (awaitOp p pick s) p = opEnded (aged (plot s p) o (o.fin - o.t)) { o with t := o.t + (o.fin - o.t) } := by
  obtain ⟨-, -, -, hxq, htq, hlate, hcame, -, htodo, hlt⟩ := id h
  have hsettle (t : State) (d : Nat) (ht : plot t p = aged (plot s p) o d) :
      settleOp p t o.id = if o.fin ≤ o.t + d then endOp t p { o with t := o.t + d } else t :=
    settleOp_of_onlyEnds (o := { o with t := o.t + d }) (by rw [ht]; rfl) ⟨hends.slabs, hends.list, hends.checks⟩
  have hend (t : State) (ht : plot t p = aged (plot s p) o (o.fin - o.t)) :
      settleOp p t o.id = endOp t p { o with t := o.t + (o.fin - o.t) } := by
    rw [hsettle t _ ht, if_pos (by omega)]
  obtain ⟨u, hchanges, hu, hawait⟩ := awaitOp_of_lastOp (n := o.fin - o.t) h hpick (by omega) (by omega)
    (fun d hd m => by
      have := quietFor_le_fin (x := aged (plot s p) o d) (o := { o with t := o.t + d }) rfl hxq htq hlate hcame htodo m (by simp only; omega)
      simp only at this
      omega)
    (fun t d hd ht => by rw [hsettle t d ht, if_neg (by omega)])
    (fun t ht => by
      rw [hend t ht, endOp_eq, plot_modPlot, ht]
      exact ⟨by simp [aged], noDigests_opEnded _ (noDigests_aged h _)⟩)
  rw [hawait, hend u hu, endOp_eq]
  exact ⟨hchanges.modPlot _, by rw [plot_modPlot, hu]⟩

end

end Sys2Proof.Machine

namespace Sys2Proof.Machine
open Sys2Proof Sys2Proof.Laws

section
variable {x : Plot} {o : PlotOp}

/-! ### Array operations (05 R150, R573) -/

theorem opEnded_of_product (hunit : o.unit = .mm) (hload : wAop o.word ≠ 3) : (opEnded x o).bank0 = x.bank0 ∧ (opEnded x o).bank1 = x.bank1 ∧
    (opEnded x o).aflags = (if o.taint then x.aflags else x.aflags ||| BitVec.ofNat 8 o.flags) := by
  cases htaint : o.taint <;> simp [opEnded, tapEnd, leaveOp, arrayEnd, hunit, hload, htaint]

theorem opEnded_of_acc (hunit : o.unit = .acc) : (opEnded x o).aflags = x.aflags ∧
    ∀ b, bankOf (opEnded x o) b = bankOf (if wAop o.word = 3 then accLoaded x o else x) b := by
  have hend : arrayEnd x o = if wAop o.word = 3 then accLoaded x o else x := by simp [arrayEnd, hunit]
  have hflags : (if wAop o.word = 3 then accLoaded x o else x).aflags = x.aflags := by split <;> simp [accLoaded]
  simp [opEnded, hunit, hend, hflags, tapEnd, leaveOp, bankOf]

/-- Every value of the bank that a load has read is in it. -/
theorem vals_accLoaded {r c : Nat} (hr : r < wM o.word) (hc : c < wN o.word) :
    Tab.get 0 (bankOf (accLoaded x o) (wBank o.word)).vals (128 * r + c) =
      leAt (capBytes o 0 (cdiv (accBytes o.word) 128)) (4 * (r * wN o.word + c)) 4 := by
  have hcols := wN_le o.word
  have hdiv : (r * wN o.word + c) / wN o.word = r := by
    rw [Nat.mul_comm, Nat.mul_add_div (by omega), Nat.div_eq_of_lt hc, Nat.add_zero]
  have hmod : (r * wN o.word + c) % wN o.word = c := by rw [Nat.mul_comm, Nat.mul_add_mod, Nat.mod_eq_of_lt hc]
  simp only [accLoaded, bankOf_setBank]
  refine tab_get_foldl_set_of_mem (fun i _ hkey => ?_) ⟨r * wN o.word + c, List.mem_range.mpr ?_, by rw [hdiv, hmod]⟩
  · have hlt : i % wN o.word < wN o.word := Nat.mod_lt _ (by omega)
    obtain ⟨hrow, hcol⟩ : i / wN o.word = r ∧ i % wN o.word = c := by omega
    have hi := Nat.div_add_mod i (wN o.word)
    rw [hrow, hcol, Nat.mul_comm (wN o.word)] at hi
    rw [hi]
  · calc r * wN o.word + c < r * wN o.word + wN o.word := by omega
      _ = (r + 1) * wN o.word := by ring
      _ ≤ wM o.word * wN o.word := Nat.mul_le_mul_right _ hr

/-! ### Harrow operations (06 R188, R199) -/

theorem opTaint_putResult : opTaint (putResult (settleTaint x o) o) o = opTaint x o := by
  by_cases hexpand : wHop o.word = 0x29
  · simp [putResult, hexpand]
    rfl
  · have hreads : (wHop o.word != 0x29) = true := bne_iff_ne.mpr hexpand
    simp only [opTaint, readsKey, hreads, Bool.true_or]

theorem opEnded_of_harrow (h : o.unit = .harrow) : (opEnded x o).bank0 = x.bank0 ∧ (opEnded x o).bank1 = x.bank1 ∧
    (opEnded x o).hflags = (if opTaint x o then x.hflags else x.hflags ||| BitVec.ofNat 8 o.flags) ∧
    (opEnded x o).keys = (putResult (settleTaint x o) o).keys ∧ (opEnded x o).xregs = (putResult (settleTaint x o) o).xregs := by
  simp [opEnded, h, tapEnd, leaveOp, harrowEnd, opTaint_putResult]

theorem keys_putResult (h : wHop o.word ≠ 0x3F) : (putResult x o).keys = x.keys := by
  simp only [putResult, h, if_false]
  repeat' split
  all_goals rfl

theorem xregs_putResult (hload : wHop o.word ≠ 0x30) (hlist : wHop o.word ≠ 0x32) : (putResult x o).xregs = x.xregs := by
  simp only [putResult, hload, hlist, if_false]
  split <;> rfl

theorem key_putResult (h : wHop o.word = 0x3F) :
    Tab.get (0, 0) (putResult x o).keys (bits o.word 311 310) = (bits o.word 287 224, bits o.word 223 192) := by
  simp only [putResult, h, if_true, tab_get_set]

theorem xlist_putResult (h : wHop o.word = 0x32) : (Tab.get {} (putResult x o).xregs (wXreg o.word)).isList = true ∧
    (Tab.get {} (putResult x o).xregs (wXreg o.word)).list = setBits 256 (Tab.get {} x.xregs (wMreg o.word)).mask := by
  simp [putResult, h, tab_get_set]

theorem xload_putResult (h : wHop o.word = 0x30) (hmask : wVar o.word = 0) :
    (Tab.get {} (putResult x o).xregs (wXreg o.word)).mask = leNat ((Tab.get {} o.cap 0).bytes.take 32) := by
  simp [putResult, h, hmask, tab_get_set]

end

end Sys2Proof.Machine

namespace Sys2Proof
open Sys2Proof.Machine Sys2Proof.Laws

theorem operationEnds : Claims.OperationEnds := by
  rintro s p x o hl rfl hlast
  have hends (pick : PlotOp → Bool) (hpick : pick o = true) (honly : OnlyEnds o) : ∃ t, event s (awaitOp p.val pick) = .next t ∧
      { t with plots := s.plots } = s ∧ (plot t p.val).ops = [] ∧ (plot t p.val).cyc = (plot s p.val).cyc + (o.fin - o.t) ∧
      (plot t p.val).scratch = (plot s p.val).scratch ∧
      plot t p.val = opEnded (aged (plot s p.val) o (o.fin - o.t)) { o with t := o.t + (o.fin - o.t) } := by
    obtain ⟨hchanges, hplot⟩ := awaitOp_of_onlyEnds hlast hpick honly
    refine ⟨_, event_ok hl, hchanges.rest, ?_, ?_, ?_, hplot⟩ <;> rw [hplot] <;> simp [aged]
  refine ⟨fun b hunit hbank hslabs hload => ?_, fun hunit => ?_, fun hunit hchecks hlist => ?_⟩
  · obtain ⟨t, ht, hrest, hops, hcyc, hscratch, hplot⟩ := hends (fun o => o.unit == .mm && o.bank == some b) (by simp [hunit, hbank])
      ⟨fun _ => hslabs, fun h => by simp [hunit] at h, fun h => by simp [hunit] at h⟩
    obtain ⟨hbank0, hbank1, hflags⟩ := opEnded_of_product (x := aged (plot s p.val) o (o.fin - o.t))
      (o := { o with t := o.t + (o.fin - o.t) }) hunit hload
    rw [← hplot] at hbank0 hbank1 hflags
    exact ⟨t, ht, hrest, hops, hcyc, hscratch, hbank0, hbank1, hflags⟩
  · obtain ⟨t, ht, hrest, hops, hcyc, hscratch, hplot⟩ := hends (fun o => o.unit == .acc) (by simp [hunit])
      ⟨fun h => by simp [hunit] at h, fun h => by simp [hunit] at h, fun h => by simp [hunit] at h⟩
    obtain ⟨hflags, hbank⟩ := opEnded_of_acc (x := aged (plot s p.val) o (o.fin - o.t)) (o := { o with t := o.t + (o.fin - o.t) }) hunit
    rw [← hplot] at hflags hbank
    refine ⟨t, ht, hrest, hops, hcyc, hscratch, hflags, fun hload => ?_, fun hload => ?_⟩
    · simp only [hload, if_false] at hbank
      exact ⟨hbank false, hbank true⟩
    · simp only [hload, if_true] at hbank
      rw [hbank, hbank]
      exact ⟨bankOf_setBank_other .., fun r c hr hc => vals_accLoaded (x := aged (plot s p.val) o (o.fin - o.t)) hr hc⟩
  · obtain ⟨t, ht, hrest, hops, hcyc, hscratch, hplot⟩ := hends (fun o => o.unit == .harrow) (by simp [hunit])
      ⟨fun h => by simp [hunit] at h, fun _ => hlist, fun _ => hchecks⟩
    obtain ⟨hbank0, hbank1, hflags, hkeys, hxregs⟩ := opEnded_of_harrow (x := aged (plot s p.val) o (o.fin - o.t))
      (o := { o with t := o.t + (o.fin - o.t) }) hunit
    rw [← hplot] at hbank0 hbank1 hflags hkeys hxregs
    refine ⟨t, ht, hrest, hops, hcyc, hscratch, hbank0, hbank1, hflags, ?_⟩
    rw [hkeys, hxregs]
    exact ⟨keys_putResult, xregs_putResult, key_putResult, xlist_putResult, xload_putResult⟩

end Sys2Proof

namespace Sys2Proof.Machine
open Sys2Proof Sys2Proof.Laws

/-! ## Metadata that fails stops the plot at the end of its slab (05 R169 to R171, R175) -/

/-- A plot that a fault of its product has stopped: the product is gone and its bank is +0, but the flags of the slabs it had added stay
(R573). -/
def productFaulted (u : FaultUnit) (code : Half) (a : Nat) (b : Bool) (o : PlotOp) (x : Plot) : Plot :=
  let y := setBank (tapEnd (leaveOp (stopped u code a x) o) o.id none) b { vals := [], taint := o.bankWasTainted }
  if o.taint then y else { y with aflags := y.aflags ||| BitVec.ofNat 8 o.flags }

@[simp] theorem productFaulted_fields (u : FaultUnit) (code : Half) (a : Nat) (b : Bool) (o : PlotOp) (x : Plot) :
    (productFaulted u code a b o x).mode = .aborted ∧
    (productFaulted u code a b o x).ops = (x.ops.filter fun y => y.id != o.id) ∧ (productFaulted u code a b o x).cyc = x.cyc ∧
    (productFaulted u code a b o x).scratch = x.scratch ∧
    bankOf (productFaulted u code a b o x) b = { vals := [], taint := o.bankWasTainted } ∧
    bankOf (productFaulted u code a b o x) (!b) = bankOf x (!b) := by
  unfold productFaulted
  dsimp only
  cases b <;> split <;> simp [tapEnd, leaveOp, setBank, bankOf]

@[simp] theorem productFaulted_lastFault (code : Half) (a : Nat) (b : Bool) (o : PlotOp) (x : Plot) :
    (productFaulted .array code a b o x).lastFault = code := by
  unfold productFaulted
  dsimp only
  cases b <;> split <;> rfl

section
variable {s : State} {p : Nat} {o : PlotOp} {b : Bool} {u : FaultUnit} {code : Half} {i : FaultInfo} {g c : Nat}

theorem noDigests_productFaulted (h : noDigests (plot s p)) : noDigests (productFaulted u code i.addr b o (plot s p)) := by
  have hstopped : noDigests (stopped u code i.addr (plot s p)) := noDigests_congr (by simp) h
  have hended : noDigests (tapEnd (leaveOp (stopped u code i.addr (plot s p)) o) o.id none) := noDigests_tapEnd hstopped _ _
  unfold productFaulted
  dsimp only
  cases b <;> split <;> exact noDigests_congr rfl hended

theorem opFault_of_product (hunit : o.unit = .mm) (hbank : o.bank = some b) (hdigs : noDigests (plot s p)) :
    plot (opFault s p o u code i) p = productFaulted u code i.addr b o (plot s p) ∧ (opFault s p o u code i).gran = s.gran := by
  have hsettle (v : State) (hplot : plot v p = productFaulted u code i.addr b o (plot s p)) (hgran : v.gran = s.gran) :
      plot (digSettle p v) p = productFaulted u code i.addr b o (plot s p) ∧ (digSettle p v).gran = s.gran := by
    rw [digSettle_of_noDigests (by rw [hplot]; exact noDigests_productFaulted hdigs)]
    exact ⟨hplot, hgran⟩
  refine hsettle _ ?_ ?_
  · simp [hunit, hbank, zeroBank_eq, productFaulted]
  · simp [hunit, hbank, zeroBank_eq]

theorem slabEnd_of_badNibble (hop : wAop o.word = 2) (hbad : badNibble o.word o.slabNo (capBytes o keyB (linesB o.word)) = some (code, g, c)) :
    slabEnd s p o = opFault s p o .array code { addr := o.addr, slab := o.slabNo, group := g, col := c } := by
  simp only [slabEnd, hop, if_true, hbad]

theorem settleOp_of_product (hops : (plot s p).ops = [o]) (hunit : o.unit = .mm) :
    settleOp p s o.id = if o.slabDue then slabEnd s p o else if o.fin ≤ o.t then endOp s p o else s := by
  simp [settleOp, hops, hunit]

/-- The slab whose metadata fails has streamed: its plot stops. -/
theorem settleOp_of_badNibble (hops : (plot s p).ops = [o]) (hdigs : noDigests (plot s p)) (hunit : o.unit = .mm) (hop : wAop o.word = 2)
    (hbank : o.bank = some b) (hslab : o.slab < passes o.word * slabs o.word) (hdue : (o.slab + 1) * slabTime o.word ≤ o.t)
    (hbad : badNibble o.word o.slabNo (capBytes o keyB (linesB o.word)) = some (code, g, c)) :
    plot (settleOp p s o.id) p = productFaulted .array code o.addr b o (plot s p) ∧ (settleOp p s o.id).gran = s.gran := by
  rw [settleOp_of_product hops hunit, if_pos (by simp [PlotOp.slabDue, hunit, hslab, hdue]), slabEnd_of_badNibble hop hbad]
  exact opFault_of_product hunit hbank hdigs

/-- Time moves on to the end of the slab whose metadata fails. -/
theorem awaitOp_of_badNibble {pick : PlotOp → Bool} (h : lastOp (plot s p) o) (hpick : pick o = true) (hunit : o.unit = .mm)
    (hop : wAop o.word = 2) (hbank : o.bank = some b) (hslab : o.slab < passes o.word * slabs o.word)
    (hbefore : o.t < (o.slab + 1) * slabTime o.word) (hfin : (o.slab + 1) * slabTime o.word ≤ o.fin)
    (hbad : badNibble o.word o.slabNo (capBytes o keyB (linesB o.word)) = some (code, g, c)) (n : Nat)
    (hn : n = (o.slab + 1) * slabTime o.word - o.t) : (awaitOp p pick s).gran = s.gran ∧
      plot (awaitOp p pick s) p = productFaulted .array code o.addr b { o with t := o.t + n } (aged (plot s p) o n) := by
  obtain ⟨-, -, -, hxq, htq, hlate, hcame, -, htodo, -⟩ := id h
  have hsettle (t : State) (d : Nat) (ht : plot t p = aged (plot s p) o d) := settleOp_of_product (s := t) (p := p)
    (o := { o with t := o.t + d }) (by rw [ht]; rfl) hunit
  have hfault (t : State) (ht : plot t p = aged (plot s p) o n) :
      plot (settleOp p t o.id) p = productFaulted .array code o.addr b { o with t := o.t + n } (aged (plot s p) o n) ∧
      (settleOp p t o.id).gran = t.gran := by
    rw [← ht]
    exact settleOp_of_badNibble (o := { o with t := o.t + n }) (by rw [ht]; rfl) (by rw [ht]; exact noDigests_aged h n) hunit hop hbank hslab
      (by simp only; omega) hbad
  obtain ⟨u, hchanges, hu, hawait⟩ := awaitOp_of_lastOp (n := n) h hpick (by omega) (by omega)
    (fun d hd m => by
      have := quietFor_le_slab (x := aged (plot s p) o d) (o := { o with t := o.t + d }) rfl hxq htq hlate hcame htodo m hunit hslab (by simp only; omega)
      simp only at this
      omega)
    (fun t d hd ht => by rw [hsettle t d ht, if_neg (by simp [PlotOp.slabDue, hunit, hslab]; omega), if_neg (by simp only; omega)])
    (fun t ht => by
      rw [(hfault t ht).1, ← ht]
      exact ⟨by rw [ht]; simp [aged], noDigests_productFaulted (i := { addr := o.addr }) (by rw [ht]; exact noDigests_aged h n)⟩)
  obtain ⟨hplot, hgran⟩ := hfault u hu
  rw [hawait]
  exact ⟨hgran.trans hchanges.gran, hplot⟩

end

end Sys2Proof.Machine

namespace Sys2Proof
open Sys2Proof.Machine Sys2Proof.Laws

theorem sparseFaults : Claims.SparseFaults := by
  rintro s p x o b i code g c hl rfl hi
  have hexec : exec i s = .next (sparseFault p.val code s) := by
    obtain ⟨rfl, rfl⟩ | ⟨rfl, rfl⟩ := hi <;> exact event_ok hl
  rw [hexec]
  refine ⟨fun hnone => ?_, fun hlast hunit hop hbank hslab hbefore hfin hbad => ?_⟩
  · have hfind : (plot s p.val).ops.find? (fun o => o.unit == .mm && wAop o.word == 2) = none :=
      List.find?_eq_none.mpr fun y hy => by simpa using hnone y hy
    simp [sparseFault, awaitOp, hfind]
  · obtain ⟨hgran, hplot⟩ := awaitOp_of_badNibble (pick := fun o => o.unit == .mm && wAop o.word == 2) hlast (by simp [hunit, hop]) hunit hop hbank
      hslab hbefore hfin hbad _ rfl
    have hfault : sparseFault p.val code s = awaitOp p.val (fun o => o.unit == .mm && wAop o.word == 2) s :=
      if_pos (by rw [hplot]; simp)
    refine ⟨_, rfl, ?_⟩
    rw [hfault, hplot]
    simp only [productFaulted_fields, productFaulted_lastFault]
    refine ⟨trivial, trivial, by simp [aged], rfl, fun _ => rfl, ?_, rfl, hgran⟩
    cases b <;> rfl

end Sys2Proof

namespace Sys2Proof.Machine
open Sys2Proof Sys2Proof.Laws

/-! ## Waits of a plot at rest (07 R212, R237) -/

/-- A plot that has waited `n` cycles. -/
def waited (x : Plot) (n : Nat) : Plot := { x with cyc := x.cyc + n, waitCycles := x.waitCycles + BitVec.ofNat 64 n }

/-- A word that stands at the PC of a running plot and has not issued is held. -/
theorem held_of_currentWord {s : State} {p w : Nat} (h : currentWord s p = some w) (hsnap : (plot s p).snap = none) :
    (plot s p).mode = .running ∧ wordHeld s p = true := by
  have hruns : (plot s p).mode = .running ∧ (!(plot s p).halted) = true ∧ ((!(plot s p).stopping) = true ∨ (plot s p).snap.isSome = true) := by
    by_contra hnot
    rw [currentWord, if_neg hnot] at h
    simp at h
  obtain ⟨hmode, hhalted, hstopping⟩ := hruns
  simp only [hsnap, Option.isSome_none, Bool.false_eq_true, or_false] at hstopping
  exact ⟨hmode, by simp [wordHeld, hmode, hhalted, hstopping, hsnap]⟩

theorem wordReady_of_held {s : State} {p w : Nat} (h : currentWord s p = some w) (hsnap : (plot s p).snap = none) :
    wordReady s p = canIssue s p w := by
  simp [wordReady, h, hsnap]

section
variable {s : State} {p w lim n : Nat} {bar : State → Bool} (h : atRest (plot s p))
include h

theorem quietFor_of_atRest (m : Nat) : quietFor (plot s p) m = m := by
  obtain ⟨hops, hxq, htq, hlate, hcame⟩ := h
  simp [quietFor, hops, hxq, htq, hlate, hcame]

theorem plot_quietCycles_of_atRest (hheld : wordHeld s p = true) (n : Nat) : plot (quietCycles p n s) p = waited (plot s p) n := by
  obtain ⟨hops, -, -, -, hcame⟩ := h
  simp [quietCycles, countCycles, hheld, waited, hops, hcame]

/-- The wait that a word holds on does not depend on cycles in which nothing moves. -/
theorem canIssue_quietCycles (hheld : wordHeld s p = true) (w n : Nat) : canIssue (quietCycles p n s) p w = canIssue s p w := by
  have hplot := plot_quietCycles_of_atRest h hheld n
  obtain ⟨-, -, htq, hlate, -⟩ := h
  have hhead : tqHead (waited (plot s p) n) = tqHead (plot s p) := by simp [tqHead, waited, htq]
  have hflag (fl : DWord) (i : Nat) : flagAt (waited (plot s p) n) fl i = flagAt (plot s p) fl i := by
    simp only [flagAt, hhead]
    rfl
  have hseen : sharedSeen (quietCycles p n s) p = sharedSeen s p := by
    simp only [sharedSeen, hplot]
    simp only [waited, hlate]
    rfl
  have hwait : waitHolds (quietCycles p n s) p w = waitHolds s p w := by
    simp only [waitHolds, scalars, hplot, hflag, hseen]
    rfl
  have hunits : unitsFree (quietCycles p n s) p w = unitsFree s p w := by
    simp only [unitsFree, hplot, hhead]
    rfl
  have hlines : linesClear (quietCycles p n s) p w = linesClear s p w := by
    simp only [linesClear, hplot]
    rfl
  simp only [canIssue, holdsClear, hwait, hunits, hlines]
  rfl

/-- Time of a plot at rest moves on to the limit in one step, if nothing bars it. -/
theorem plotUntil_of_atRest (hbar : bar s = false) (hlim : (plot s p).cyc < lim) (hn : 0 < n) (hheld : wordHeld s p = true) :
    plotUntil p lim bar (fun t => decide (lim ≤ (plot t p).cyc)) n s = some (quietCycles p (lim - (plot s p).cyc) s) := by
  obtain ⟨k, rfl⟩ := Nat.exists_eq_succ_of_ne_zero hn.ne'
  have hadvance : advance p lim s = quietCycles p (lim - (plot s p).cyc) s := by
    simp only [advance, quietFor_of_atRest h]
    rw [if_neg (by omega)]
  rw [plotUntil_succ (by simpa using hlim) hbar hlim, hadvance, plotUntil_of_stop]
  rw [plot_quietCycles_of_atRest h hheld]
  exact decide_eq_true (by simp only [waited]; omega)

/-- A held word issues `n` cycles later, if it waits for more than its own plot. -/
theorem waitEnd_of_atRest (hw : currentWord s p = some w) (hsnap : (plot s p).snap = none) (hn : 1 ≤ n) : waitEnd p n s =
    if canIssue s p w = true ∧ firstOnly s p w = false then issueWord (quietCycles p n s) p w else s := by
  obtain ⟨hmode, hheld⟩ := held_of_currentWord hw hsnap
  have hready := wordReady_of_held hw hsnap
  have hzero : n ≠ 0 := by omega
  cases hbar : firstOnly s p w && wordReady s p with
  | true =>
    obtain ⟨k, rfl⟩ := Nat.exists_eq_succ_of_ne_zero hzero
    rw [Bool.and_eq_true_iff] at hbar
    simp [waitEnd, hw, hsnap, plotUntil, hbar]
  | false =>
    have huntil := plotUntil_of_atRest (bar := fun t => firstOnly s p w && wordReady t p) (lim := (plot s p).cyc + n) h hbar (by omega) hn hheld
    rw [Nat.add_sub_cancel_left] at huntil
    have hrunning : (plot (quietCycles p n s) p).mode = .running := by rw [plot_quietCycles_of_atRest h hheld]; exact hmode
    simp only [waitEnd, hw, hsnap, hzero, decide_false, Option.isSome_none, Bool.or_self, Bool.false_eq_true, if_false, huntil, hrunning, true_and,
      canIssue_quietCycles h hheld]
    cases hcan : canIssue s p w with
    | false => simp
    | true => simp [show firstOnly s p w = false by simpa [hready, hcan] using hbar]

/-- A word that cannot issue is held to the wait limit, where its plot stops. -/
theorem seqWaitLimit_of_atRest (hw : currentWord s p = some w) (hsnap : (plot s p).snap = none) (hlimit : 0 < waitLimit s p)
    (hcan : canIssue s p w = false) : ∃ t, seqWaitLimit p s = wordFault t p .seq fSeqWaitLimit ∧ t.gran = s.gran ∧ ∃ n,
      plot t p = waited (plot s p) n ∧ (plot s p).cyc + n = max (plot s p).cyc ((plot s p).heldAt + waitLimit s p * waitUnit s) := by
  obtain ⟨hmode, hheld⟩ := held_of_currentWord hw hsnap
  have hready := wordReady_of_held hw hsnap
  have hne : waitLimit s p ≠ 0 := by omega
  have hend (t : State) (n : Nat) (ht : plot t p = waited (plot s p) n)
      (huntil : plotUntil p ((plot s p).heldAt + waitLimit s p * waitUnit s) (fun t => firstOnly s p w && wordReady t p)
        (fun t => decide ((plot s p).heldAt + waitLimit s p * waitUnit s ≤ (plot t p).cyc))
        ((plot s p).heldAt + waitLimit s p * waitUnit s - (plot s p).cyc) s = some t) :
      seqWaitLimit p s = wordFault t p .seq fSeqWaitLimit := by
    have hrunning : (plot t p).mode = .running := by rw [ht]; exact hmode
    simp [seqWaitLimit, hw, hsnap, hne, huntil, hrunning]
  by_cases hpast : (plot s p).heldAt + waitLimit s p * waitUnit s ≤ (plot s p).cyc
  · have hzero : plot s p = waited (plot s p) 0 := by simp [waited]
    exact ⟨s, hend s 0 hzero (plotUntil_of_stop (by simpa using hpast)), rfl, 0, hzero, by omega⟩
  · have hplot := plot_quietCycles_of_atRest h hheld
    exact ⟨_, hend _ _ (hplot _) (plotUntil_of_atRest h (by simp [hready, hcan]) (by omega) (by omega) hheld), rfl, _, hplot _, by omega⟩

end

end Sys2Proof.Machine

namespace Sys2Proof
open Sys2Proof.Machine Sys2Proof.Laws

theorem waits : Claims.Waits := by
  rintro s p w x hl rfl hw hsnap
  have hheld := (held_of_currentWord hw hsnap).2
  have hend (n : Nat) : exec (.waitEnd p n) s = .next (waitEnd p.val n s) := event_ok hl
  have hlimit : exec (.seqWaitLimit p) s = .next (seqWaitLimit p.val s) := event_ok hl
  refine ⟨?_, fun hrest d hd => ⟨fun hcan => ?_, fun hcan hfirst => ?_, fun hcan hfirst => ?_⟩, fun hzero => ?_, fun hrest hpos hcan => ?_⟩
  · simp [hend, waitEnd, hw]
  · simp [hend, waitEnd_of_atRest hrest hw hsnap hd, hcan]
  · simp [hend, waitEnd_of_atRest hrest hw hsnap hd, hfirst]
  · rw [hend, waitEnd_of_atRest hrest hw hsnap hd, if_pos ⟨hcan, hfirst⟩, plot_quietCycles_of_atRest hrest hheld]
    exact ⟨rfl, rfl, rfl⟩
  · simp [hlimit, seqWaitLimit, hw, hzero]
  · obtain ⟨t, ht, hgran, n, hplot, hcyc⟩ := seqWaitLimit_of_atRest hrest hw hsnap hpos hcan
    have hmode := (held_of_currentWord hw hsnap).1
    refine ⟨_, hlimit, ?_⟩
    rw [ht, plot_wordFault, hplot, wordFault_gran, ← hcyc]
    simp [hgran, waited, hmode]

/-- Settles O39: the last cycles of a plot's last operation only age it, until its end or the fault of its slab is due; a plot at rest
counts the cycles of a held word. -/
theorem operationEndsAndWaits : Obligations.OperationEndsAndWaits := ⟨operationEnds, sparseFaults, waits⟩

end Sys2Proof

/-! # The harrow: O38

A part of a word that the harrow refuses stops its plot (`part_harrowFault`); one that may start enters the harrow (`harrowStarted`). What an
element-wise operation writes with a line of 32-bit elements is its active lanes' words (`opWrite_scratch_of_elementwise`), which lie apart, so
each reads as written (`reads_wordsPut`) and every other byte as before (`read_wordsPut_out`). -/

namespace Sys2Proof.Machine
open Sys2Proof Sys2Proof.Laws

/-! ## Harrow operations at issue (06 R191, R195 to R201) -/

@[simp] theorem stopped_harrow_hLastFault (code : Half) (a : Nat) (x : Plot) : (stopped .harrow code a x).hLastFault = code := rfl

/-- A part refused with a fault of the harrow: the plot stops, and its lines and running operations stay (06 R201). -/
theorem part_harrowFault {s : State} {p : Fin 32} {k w : Nat} {n : Snap} {mine : Nat → Bool} {f : State → Nat → Snap → State} {code : Half}
    (hl : s.live) (h : partAt s p k w n) (hmine : mine w = true) (hf : f s w n = wordFault s p.val .harrow code) :
    ∃ t, part p k mine s f = .next t ∧ (plot t p.val).mode = .aborted ∧ (plot t p.val).hLastFault = code ∧
      (plot t p.val).scratch = (plot s p.val).scratch ∧ (plot t p.val).ops = (plot s p.val).ops ∧ t.gran = s.gran := by
  refine ⟨_, part_of_partAt hl h hmine, ?_⟩
  rw [hf, plot_modPlot, plot_wordFault]
  refine ⟨?_, ?_, ?_, ?_, wordFault_gran ..⟩ <;> simp [startedPart]

/-- A plot in which the harrow operation of `w` has started. -/
def harrowStarted (w : Nat) (e : LineErrs) (x : Plot) : Plot :=
  { enterOp x (harrowOp x w e) with
    hints := x.hints &&& 5
    streams := if wHop w != 0x30 && wHop w != 0x32 && wHop w != 0x3F then x.streams ++ [(0, .seg (some x.nextId) [] false (wNmark w))]
      else x.streams }

section
variable {s : State} {p : Fin 32} {w : Nat} {e : LineErrs}

theorem startHarrow_of_wrongKind (h : harrowPlotOk s p.val w = false ∨ wrongKind (plot s p.val) w = true) :
    startHarrow s p.val w e = wordFault s p.val .harrow fHarrowConfig := by
  simp [startHarrow, h]

theorem startHarrow_of_busy (hplot : harrowPlotOk s p.val w = true) (hkind : wrongKind (plot s p.val) w = false)
    (hbusy : harrowFree (plot s p.val) = false) : startHarrow s p.val w e = wordFault s p.val .harrow fHarrowIssue := by
  simp [startHarrow, hplot, hkind, hbusy]

theorem startHarrow_of_may (h : harrowMay s (plot s p.val) p w) : startHarrow s p.val w e = modPlot s p.val (harrowStarted w e) := by
  obtain ⟨hplot, hkind, hfree, hbank0, hbank1, hqueue, hwrites, hreads, hlist⟩ := h
  have hbanks : ¬ ((wSrck w = 1 ∧ bankBusy (plot s p.val) false) ∨ (wSrck w = 2 ∧ bankBusy (plot s p.val) true)) := by
    rintro (⟨hsrc, hbusy⟩ | ⟨hsrc, hbusy⟩)
    · simp [hbank0 hsrc] at hbusy
    · simp [hbank1 hsrc] at hbusy
  have hhead : ¬ (wSrck w = 3 ∧ (tqHead (plot s p.val)).isNone) := fun ⟨hsrc, hnone⟩ => by
    simpa [Option.isNone_iff_eq_none.mp hnone] using hqueue hsrc
  have hindex : ¬ ((wHop w = 0x2A ∨ wHop w = 0x2B) ∧ ((xEntries (plot s p.val) w).any fun i => decide (wElems w ≤ i))) := fun ⟨hop, hpast⟩ => by
    obtain ⟨i, hi, hle⟩ := List.any_eq_true.mp hpast
    exact absurd (hlist hop i hi) (Nat.not_lt.mpr (of_decide_eq_true hle))
  simp only [startHarrow, hplot, hkind, hfree, hwrites, hreads, hbanks, hhead, hindex, Bool.not_true, Bool.or_self, Bool.and_self,
    Bool.false_eq_true, if_false]
  rfl

/-- Each harrow command starts the operation of its HOP code. -/
theorem exec_harrowCommand {i : Instr} {h : Nat} (hi : (i, h) ∈ harrowCommands p e) : exec i s = harrowPart p h e s := by
  have hall : ∀ c ∈ harrowCommands p e, exec c.1 s = harrowPart p c.2 e s := by
    simp only [harrowCommands, List.forall_mem_cons, List.not_mem_nil, false_implies, implies_true, and_true]
    and_intros <;> rfl
  exact hall _ hi

end

end Sys2Proof.Machine

namespace Sys2Proof
open Sys2Proof.Machine Sys2Proof.Laws

theorem harrowOperations : Claims.HarrowOperations := by
  rintro s p w n e i h x hl rfl hp rfl hi
  rw [exec_harrowCommand hi, harrowPart]
  have hmine : (wHop w == wHop w) = true := beq_self_eq_true _
  refine ⟨fun hmay => ?_, fun hplot hkind hbusy => ?_, fun hwrong => ?_⟩
  · obtain ⟨t, ht, hchanges, hdone, hplot⟩ := part_modPlot (mine := fun v => wHop v == wHop w) (f := fun s w _ => startHarrow s p w e) hl hp
      hmine (harrowStarted w e) (startHarrow_of_may hmay) rfl
    refine ⟨t, ht, hchanges.rest, hdone, hchanges.others, ?_⟩
    rw [hplot]
    exact ⟨rfl, rfl⟩
  · exact part_harrowFault (f := fun s w _ => startHarrow s p w e) hl hp hmine (startHarrow_of_busy hplot hkind hbusy)
  · exact part_harrowFault (f := fun s w _ => startHarrow s p w e) hl hp hmine (startHarrow_of_wrongKind hwrong)

end Sys2Proof

namespace Sys2Proof.Machine
open Sys2Proof Sys2Proof.Laws

/-! ## Words put at their places in a stream (06 R178) -/

/-- Word `i` of a stream from byte `a` on is put with the value `val i`, for each `i` of a list. -/
def wordsPut (a : Nat) (val : Nat → Nat) (is : List Nat) (m : Mem) : Mem :=
  is.foldl (fun m i => Mem.writes m (a + 4 * i) (leBytes 4 (val i))) m

theorem putElem_word (m : Mem) (l0 i v : Nat) : putElem m l0 32 (32 * i) v = Mem.writes m (128 * l0 + 4 * i) (leBytes 4 v) := by
  simp [putElem, show 32 * i / 8 = 4 * i by omega]

section
variable {a : Nat} {val : Nat → Nat} {is : List Nat}

theorem read_wordsPut_out (m : Mem) {d : Nat} (h : ∀ i ∈ is, d < a + 4 * i ∨ a + 4 * i + 4 ≤ d) :
    Mem.read (wordsPut a val is m) d = Mem.read m d := by
  induction is generalizing m with
  | nil => rfl
  | cons i is ih =>
    rw [List.forall_mem_cons] at h
    rw [wordsPut, List.foldl_cons, ← wordsPut, ih _ h.2, mem_read_writes_out _ _ _ _ (by simpa using h.1)]

/-- A word put is there, whichever others were put beside it and however often. -/
theorem reads_wordsPut (m : Mem) {i : Nat} (h : i ∈ is) : Mem.reads (wordsPut a val is m) (a + 4 * i) 4 = leBytes 4 (val i) := by
  induction is generalizing m with
  | nil => simp at h
  | cons j is ih =>
    rw [wordsPut, List.foldl_cons, ← wordsPut]
    by_cases hi : i ∈ is
    · exact ih _ hi
    · obtain rfl : i = j := by simpa [hi] using h
      have hothers : Mem.reads (wordsPut a val is (Mem.writes m (a + 4 * i) (leBytes 4 (val i)))) (a + 4 * i) 4 =
          Mem.reads (Mem.writes m (a + 4 * i) (leBytes 4 (val i))) (a + 4 * i) 4 := by
        refine List.map_congr_left fun b hb => read_wordsPut_out _ fun j hj => ?_
        have hb := List.mem_range.mp hb
        have hne : j ≠ i := fun h => hi (h ▸ hj)
        omega
      have hreads := reads_writes m (a + 4 * i) (leBytes 4 (val i))
      rw [length_leBytes] at hreads
      rw [hothers, hreads]

end

/-! ## Element-wise operations (06 R178, R180, R184) -/

/-- HOP codes of the arithmetic operations, CVT, MOV and the integer operations. -/
def elementwise (h : Nat) : Prop := (1 ≤ h ∧ h ≤ 0x0E) ∨ h = 0x10 ∨ h = 0x11 ∨ (0x18 ≤ h ∧ h ≤ 0x1B)

section
variable {x : Plot} {o : PlotOp} {a : LineAcc} {v : Nat}

/-- Active lanes of vector `v` in the line that `a` presents. -/
def lineLanes (x : Plot) (o : PlotOp) (v : Nat) (a : LineAcc) : List Nat := (lanesOf o v (a.line - wSD o.word)).filter (hActive x o)

theorem mem_lanesOf {l i : Nat} :
    i ∈ lanesOf o v l ↔ 256 * v ≤ i ∧ i < 256 * v + 256 ∧ i < hCount o.word ∧ hWidth o.word * i / 1024 = l := by
  have hrange : (∃ j < 256, 256 * v + j = i) ↔ 256 * v ≤ i ∧ i < 256 * v + 256 :=
    ⟨by rintro ⟨j, hj, rfl⟩; omega, fun h => ⟨i - 256 * v, by omega, by omega⟩⟩
  simp [lanesOf, hrange, and_assoc]

theorem mem_lineLanes (hwidth : hWidth o.word = 32) {i : Nat} : i ∈ lineLanes x o v a ↔
    256 * v ≤ i ∧ i < 256 * v + 256 ∧ i < hCount o.word ∧ i / 32 = a.line - wSD o.word ∧ hActive x o i = true := by
  rw [lineLanes, List.mem_filter, mem_lanesOf, hwidth, show 32 * i / 1024 = i / 32 by omega]
  simp only [and_assoc]

theorem opPuts_of_elementwise (hunit : o.unit = .harrow) (hact : a.act = .write v) (hop : elementwise (wHop o.word)) :
    (opPuts x o a).1 = (lineLanes x o v a).map fun i => (wSD o.word, hWidth o.word, i, (laneVal x o i).1) := by
  have hcodes : wHop o.word ≠ 0x31 ∧ wHop o.word ≠ 0x2A ∧ wHop o.word ≠ 0x2B ∧ wHop o.word ≠ 0x29 := by unfold elementwise at hop; omega
  obtain ⟨hxstore, hgather, hscatter, hexpand⟩ := hcodes
  simp [opPuts, hact, hunit, hxstore, hgather, hscatter, lanePuts, hexpand, lineLanes, Function.comp_def]

theorem opWrite_scratch_of_elementwise (hunit : o.unit = .harrow) (hact : a.act = .write v) (hop : elementwise (wHop o.word))
    (hwidth : hWidth o.word = 32) :
    (opWrite x o a).scratch = wordsPut (128 * wSD o.word) (fun i => (laneVal x o i).1) (lineLanes x o v a) x.scratch := by
  rw [opWrite_scratch, opPuts_of_elementwise hunit hact hop, List.foldl_map, hwidth]
  simp only [putElem_word, wordsPut]

/-- Lanes of FP32 elements are neither widened nor narrowed (06 R184). -/
theorem laneVal_of_fp32 (hop : wHop o.word ≤ 0x0E) (hsource : wEs o.word = 0) (hdest : wEd o.word = 0) (i : Nat) : laneVal x o i =
    fpOp (wHop o.word) (hMode x o.word i) (hSrcA o i) (if readsB (wHop o.word) then hSrcB o i else 0)
      (if wHop o.word = 4 then hSrcC o i else 0) := by
  simp only [laneVal, laneOp, hop, hsource, hdest, if_true, narrow, widen]

end

end Sys2Proof.Machine

namespace Sys2Proof
open Sys2Proof.Machine Sys2Proof.Laws

theorem harrowElements : Claims.HarrowElements := by
  intro x o a v mine hunit hact hwidth hop hmine
  have hlane (i : Nat) : i ∈ lineLanes x o v a ↔ mine i := (mem_lineLanes hwidth).trans (hmine i).symm
  rw [opWrite_scratch_of_elementwise hunit hact hop hwidth]
  exact ⟨fun i hi => reads_wordsPut _ ((hlane i).mpr hi), fun d hd => read_wordsPut_out _ fun i hi => hd i ((hlane i).mp hi),
    laneVal_of_fp32⟩

/-- Settles O38: `harrowOperations` at issue, `harrowElements` for what a line of an element-wise operation writes. -/
theorem harrowOperationsAndValues : Obligations.HarrowOperationsAndValues := ⟨harrowOperations, harrowElements⟩

end Sys2Proof

/-! # The sequencer: O35, O36, O41

A part at its turn changes its plot by its own effect (`part_modPlot`). SCINC alone reaches the other plots of its die (`plot_scInc`), which see it
from the second cycle after (`get_sharedSeen_of_noted`). A command that starts a part is `onPart` with that part's effect (`exec_partCommand`); the
word issues with its first part (`onPart_of_issue`) or a fault stops its plot (`issueWord_cases`), and its next address ends its cycle (`goTo_of_idle`).
PLOT_START and PLOT_STOP answer in the order of their statuses, and the ends of a program are one entry (`endEntry`). -/

namespace Sys2Proof.Machine
open Sys2Proof Sys2Proof.Laws

/-! ## Counters, flags and shared counters (07 R206, R207, R209, R211) -/

/-- The word at the PC of a plot that runs and still issues words. -/
theorem currentWord_eq_some {s : State} {p w : Nat} : currentWord s p = some w ↔ ((plot s p).mode = .running ∧ (plot s p).halted = false ∧
    ((plot s p).stopping = false ∨ (plot s p).snap.isSome = true)) ∧ plotWord s p (plot s p).pc.toNat = some w := by
  simp [currentWord]

theorem tab_get_set_ite {α : Type} [DecidableEq α] (d : α) (t : Tab α) (k : Nat) (v : α) (j : Nat) :
    Tab.get d (Tab.set d t k v) j = if j = k then v else Tab.get d t j := by
  split
  · subst_vars
    exact tab_get_set ..
  · exact tab_get_set_ne _ _ _ _ _ ‹_›

theorem tab_get_upd_ite {α : Type} [DecidableEq α] (d : α) (t : Tab α) (k : Nat) (f : α → α) (j : Nat) :
    Tab.get d (Tab.upd d t k f) j = if j = k then f (Tab.get d t j) else Tab.get d t j := by
  rw [Tab.upd, tab_get_set_ite]
  split <;> simp [*]

theorem getLsbD_or_bit {n : Nat} (f : BitVec n) {i j : Nat} (hj : j < n) :
    (f ||| BitVec.ofNat n (2 ^ i)).getLsbD j = (f.getLsbD j || decide (j = i)) := by
  rw [BitVec.getLsbD_or, BitVec.getLsbD_ofNat, Nat.testBit_two_pow]
  simp only [hj, decide_true, Bool.true_and, eq_comm]

theorem getLsbD_and_not_bit {n : Nat} (f : BitVec n) {i j : Nat} (hj : j < n) :
    (f &&& ~~~(BitVec.ofNat n (2 ^ i))).getLsbD j = (f.getLsbD j && decide (j ≠ i)) := by
  rw [BitVec.getLsbD_and, BitVec.getLsbD_not, BitVec.getLsbD_ofNat, Nat.testBit_two_pow]
  simp only [hj, decide_true, Bool.true_and, decide_not, eq_comm]

section
variable {s : State} {p : Fin 32} {w : Nat} {n : Snap} {i : Instr} {v : Word}

/-- SET and ADD put a value in the counter that their word names. -/
theorem exec_counter (hi : (i = .set p ∧ wCop w = 1 ∧ v = wImm w) ∨
      (i = .copAdd p ∧ wCop w = 2 ∧ v = Tab.get 0 n.ctr (bits w 739 736) + wImm w)) :
    ∃ (mine : Nat → Bool) (f : State → Nat → Snap → State), mine w = true ∧ exec i s = part p 5 mine s f ∧
      f s w n = modPlot s p.val fun x => { x with ctr := Tab.set 0 x.ctr (bits w 739 736) v } := by
  obtain ⟨rfl, h, rfl⟩ | ⟨rfl, h, rfl⟩ := hi
  · exact ⟨fun w => wCop w == 1, _, by simpa using h, rfl, rfl⟩
  · exact ⟨fun w => wCop w == 2, _, by simpa using h, rfl, rfl⟩

end

/-! ### SCINC -/

section
variable {b : Nat} {g : Nat → Plot → Plot}

/-- A change of those plots, from `b` on, that run. -/
def modRunning (b : Nat) (g : Nat → Plot → Plot) (s : State) (i : Nat) : State :=
  if (plot s (b + i)).mode = .running then modPlot s (b + i) (g (b + i)) else s

theorem plot_modRunning (s : State) (i q : Nat) : plot (modRunning b g s i) q =
    if q = b + i ∧ (plot s q).mode = .running then g q (plot s q) else plot s q := by
  unfold modRunning
  by_cases hq : q = b + i
  · subst hq
    split <;> simp [*]
  · split <;> simp [hq, plot_modPlot_ne]

theorem plot_foldl_modRunning {l : List Nat} (hl : l.Nodup) (s : State) (q : Nat) : plot (l.foldl (modRunning b g) s) q =
    if (∃ i ∈ l, q = b + i) ∧ (plot s q).mode = .running then g q (plot s q) else plot s q := by
  induction l generalizing s with
  | nil => simp
  | cons i l ih =>
    obtain ⟨hi, hl⟩ := List.nodup_cons.mp hl
    rw [List.foldl_cons, ih hl, plot_modRunning]
    by_cases hq : q = b + i
    · have hnot : ¬ ∃ j ∈ l, q = b + j := fun ⟨j, hj, hqj⟩ => hi (by rwa [show i = j by omega])
      rw [if_neg fun h => hnot h.1]
      simp [hq]
    · simp [hq]

end

theorem scInc_eq (s : State) (p k : Nat) : scInc s p k = (List.range 16).foldl (modRunning (16 * (p / 16)) fun q x => noteInc x k (q == p))
    { s with sc := Tab.upd 0 s.sc (16 * (p / 16) + k) (· + 1) } := rfl

theorem plot_scInc (s : State) (p k q : Nat) : plot (scInc s p k) q =
    if q / 16 = p / 16 ∧ (plot s q).mode = .running then noteInc (plot s q) k (q == p) else plot s q := by
  have hdie : (∃ i ∈ List.range 16, q = 16 * (p / 16) + i) ↔ q / 16 = p / 16 := by
    simp only [List.mem_range]
    exact ⟨fun ⟨i, hi, hq⟩ => by omega, fun h => ⟨q % 16, by omega, by omega⟩⟩
  rw [scInc_eq, plot_foldl_modRunning List.nodup_range]
  simp only [hdie]
  rfl

/-- SCINC changes the shared counter and plots alone. -/
theorem scInc_rest (s : State) (p k : Nat) :
    ∃ plots, scInc s p k = { s with plots, sc := Tab.upd 0 s.sc (16 * (p / 16) + k) (· + 1) } := by
  rw [scInc_eq]
  refine foldl_of_step (R := fun s t => ∃ plots, t = { s with plots }) (fun s => ⟨s.plots, rfl⟩) ?_ (fun s i => ?_) _ _
  · rintro s t u ⟨plots, rfl⟩ ⟨plots', rfl⟩
    exact ⟨plots', rfl⟩
  · unfold modRunning
    split
    · exact ⟨_, rfl⟩
    · exact ⟨s.plots, rfl⟩

theorem get_sc_scInc (s : State) (p k j : Nat) : Tab.get 0 (scInc s p k).sc j =
    if j = 16 * (p / 16) + k then Tab.get 0 s.sc j + 1 else Tab.get 0 s.sc j := by
  obtain ⟨plots, hrest⟩ := scInc_rest s p k
  rw [hrest]
  exact tab_get_upd_ite 0 s.sc _ (· + 1) j

/-- Every running plot of the die notes an increment in its own present cycle, the plot that made it too. -/
theorem noted_scInc (s : State) (p k : Nat) {q : Nat} (hdie : q / 16 = p / 16) (hrun : (plot s q).mode = .running)
    (hlate : (plot s q).scLate = []) : (plot (modPlot (scInc s p k) p (startedPart 8)) q).scLate = [(k, (plot s q).cyc)] ∧
      (plot (modPlot (scInc s p k) p (startedPart 8)) q).cyc = (plot s q).cyc := by
  have hnoted := plot_scInc s p k q
  rw [if_pos ⟨hdie, hrun⟩] at hnoted
  by_cases hqp : q = p
  · subst hqp
    simp [hnoted, startedPart, noteInc, hlate]
  · simp [plot_modPlot_ne _ _ hqp, hnoted, noteInc, hlate]

/-- A plot that has noted one increment, `d` cycles ago, sees the counters without it until the second cycle after. -/
theorem get_sharedSeen_of_noted {s : State} {p k c d j : Nat} {v : Word} (hlate : (plot s p).scLate = [(k, c)]) (hcyc : (plot s p).cyc = c + d)
    (hsc : Tab.get 0 s.sc j = if j = 16 * (p / 16) + k then v + 1 else v) :
    Tab.get 0 (sharedSeen s p) j = if d < 2 then v else Tab.get 0 s.sc j := by
  simp only [sharedSeen, hlate, hcyc]
  by_cases hd : d < 2
  · simp only [List.filter_cons, List.filter_nil, Nat.add_lt_add_iff_left, hd, decide_true, if_true, List.foldl_cons, List.foldl_nil,
      tab_get_upd_ite, hsc]
    split <;> simp
  · simp [hd]

end Sys2Proof.Machine

namespace Sys2Proof
open Sys2Proof.Machine Sys2Proof.Laws

theorem countersAndFlags : Claims.CountersAndFlags := by
  rintro s p w n x hl rfl
  refine ⟨fun i v hp hi => ?_, fun hp hcop => ?_, fun hp hcop => ?_, fun hp => ?_, fun hp => ?_, fun hp => ?_⟩
  · obtain ⟨mine, f, hmine, hexec, hf⟩ := exec_counter (s := s) hi
    obtain ⟨t, ht, hchanges, hdone, hplot⟩ := part_modPlot hl hp hmine _ hf rfl
    refine ⟨t, hexec.trans ht, hchanges.rest, hdone, hchanges.others, ?_⟩
    rw [hplot]
    exact ⟨rfl, tab_get_set_ite _ _ _ _⟩
  · obtain ⟨t, ht, hchanges, hdone, hplot⟩ := part_modPlot (mine := fun w => wCop w == 3) (f := fun s w _ => copLim s p w) hl hp
      (by simpa using hcop) _ rfl rfl
    refine ⟨t, ht, hchanges.rest, hdone, ?_⟩
    rw [hplot]
    exact ⟨rfl, tab_get_set_ite _ _ _ _⟩
  · obtain ⟨t, ht, hchanges, hdone, hplot⟩ := part_modPlot (mine := fun w => wCop w == 4) (f := fun s w _ => copCfg s p w) hl hp
      (by simpa using hcop) _ rfl rfl
    refine ⟨t, ht, hchanges.rest, hdone, ?_⟩
    rw [hplot]
    exact ⟨rfl, tab_get_set_ite _ _ _ _⟩
  · obtain ⟨t, ht, hchanges, hdone, hplot⟩ := part_modPlot (mine := fun _ => true) (f := fun s w _ => setFlag s p (bits w 678 673)) hl hp
      rfl _ rfl rfl
    refine ⟨t, ht, hchanges.rest, hdone, ?_⟩
    rw [hplot]
    exact ⟨rfl, fun j hj => getLsbD_or_bit _ hj⟩
  · obtain ⟨t, ht, hchanges, hdone, hplot⟩ := part_modPlot (mine := fun _ => true) (f := fun s w _ => clrFlag s p (bits w 671 666)) hl hp
      rfl _ rfl rfl
    refine ⟨t, ht, hchanges.rest, hdone, ?_⟩
    rw [hplot]
    exact ⟨rfl, fun j hj => getLsbD_and_not_bit _ hj⟩
  · obtain ⟨⟨hmode, -⟩, -⟩ := currentWord_eq_some.mp hp.1
    have hexec : exec (.scinc p) s = .next (modPlot (scInc s p.val (bits w 664 661)) p.val (startedPart 8)) :=
      part_of_partAt (mine := fun _ => true) (f := fun s w _ => scInc s p (bits w 664 661)) hl hp rfl
    obtain ⟨plots, hrest⟩ := scInc_rest s p.val (bits w 664 661)
    have hsc := get_sc_scInc s p.val (bits w 664 661)
    have hown := plot_scInc s p.val (bits w 664 661) p.val
    have hnoted (q : Nat) := noted_scInc s p.val (bits w 664 661) (q := q)
    generalize scInc s p.val (bits w 664 661) = u at hexec hrest hsc hown hnoted
    rw [if_pos ⟨rfl, hmode⟩, beq_self_eq_true] at hown
    refine ⟨_, hexec, ?_, ?_, ?_, fun q hq hdie hrun hlate j => ?_, hsc⟩
    · rw [hrest]
      rfl
    · simp [partDone, hown, startedPart, noteInc]
    · simp [hown, startedPart, noteInc]
    · obtain ⟨hlate, hcyc⟩ := hnoted q hdie hrun hlate
      have hlater (d : Nat) : Tab.get 0 (sharedSeen (modPlot (modPlot u p.val (startedPart 8)) q fun y => { y with cyc := y.cyc + d }) q) j =
          if d < 2 then Tab.get 0 s.sc j else Tab.get 0 u.sc j :=
        get_sharedSeen_of_noted (by rw [plot_modPlot]; exact hlate) (by rw [plot_modPlot]; simp [hcyc]) (hdie ▸ hsc j)
      exact ⟨get_sharedSeen_of_noted (d := 0) hlate hcyc (hdie ▸ hsc j), hlater 1, hlater 2⟩

end Sys2Proof

namespace Sys2Proof.Machine
open Sys2Proof Sys2Proof.Laws

/-! ## Digest taps and logs (07 R223) -/

/-- Digest accumulator `k` of a plot is given item `i`. -/
def digGiven (k : Nat) (i : DigItem) (x : Plot) : Plot :=
  { x with digs := Tab.upd {} x.digs k fun d => { d with items := d.items ++ [i] } }

theorem get_digGiven (k : Nat) (i : DigItem) (x : Plot) (j : Nat) : Tab.get {} (digGiven k i x).digs j =
    if j = k then { Tab.get {} x.digs j with items := (Tab.get {} x.digs j).items ++ [i] } else Tab.get {} x.digs j :=
  tab_get_upd_ite {} x.digs k (fun d => { d with items := d.items ++ [i] }) j

section
variable {s : State} {p w k a : Nat} {d : Digest}

theorem dtap_of_stream {g : Nat} {j : Option Nat} {bs : List Byte} {tn nm : Bool}
    (h : ((plot s p).streams.find? fun e => e.1 == bits w 26 24) = some (g, .seg j bs tn nm)) :
    dtap s p w = modPlot s p (digGiven (bits w 30 28) (.seg j bs tn (wNmark w))) := by
  simp only [dtap, h]
  rfl

theorem foldl_of_fixed {α β : Type*} {f : α → β → α} {a : α} {l : List β} (h : ∀ b ∈ l, f a b = a) : l.foldl f a = a := by
  induction l with
  | nil => rfl
  | cons b l ih =>
    rw [List.forall_mem_cons] at h
    rw [List.foldl_cons, h.1, ih h.2]

@[simp] theorem plot_tally (s : State) (e : Entry) : plot (tally s e) = plot s := plot_congr (by simp)

/-- The entry of a DLOG at word `a` of an accumulator without taint. -/
def digEntry (s : State) (p k a : Nat) (d : Digest) : Entry :=
  { kind := kPlotDigest, utype := uPlot, unit := p, n := d.nm
    body := pack 40 [(0, 1, k), (2, 2, a), (8, 8, (cropEnd d.crc).toNat), (16, 8, now s)] }

/-- A log has taken effect: its accumulator starts again, and its entry is written. -/
def digLogged (s : State) (p k a : Nat) (d : Digest) : State :=
  tally (modPlot s p fun x => { x with digs := Tab.set {} x.digs k {} }) (digEntry s p k a d)

theorem plot_digLogged : plot (digLogged s p k a d) p = { plot s p with digs := Tab.set {} (plot s p).digs k {} } := by
  rw [digLogged, plot_tally, plot_modPlot]

theorem digAbsorb_of_log (hitems : Tab.get {} (plot s p).digs k = { d with items := [.log a] }) (htaint : d.taint = false) :
    digAbsorb p k 1 s = digLogged s p k a d := by
  simp only [digAbsorb, hitems, htaint, DigItem.ready, Bool.not_true, Bool.false_eq_true, if_false]
  rfl

/-- Settling a plot in which nothing waits but one log. -/
theorem digSettle_of_log (hk : k < 8) (hitems : Tab.get {} (plot s p).digs k = { d with items := [.log a] }) (htaint : d.taint = false)
    (hothers : ∀ j, j < 8 → j ≠ k → (Tab.get {} (plot s p).digs j).items = []) : digSettle p s = digLogged s p k a d := by
  obtain ⟨l₁, l₂, hl⟩ := List.append_of_mem (List.mem_range.mpr hk)
  have hnot : k ∉ l₁ ++ l₂ := (List.nodup_cons.mp (List.nodup_middle.mp (hl ▸ List.nodup_range))).1
  have hrest (j : Nat) (hj : j ∈ l₁ ++ l₂) : (Tab.get {} (plot s p).digs j).items = [] ∧ j ≠ k := by
    have hne : j ≠ k := fun h => hnot (h ▸ hj)
    have hmem : j ∈ List.range 8 := hl ▸ List.mem_append.mpr ((List.mem_append.mp hj).imp_right (List.mem_cons_of_mem k))
    exact ⟨hothers j (List.mem_range.mp hmem) hne, hne⟩
  rw [digSettle, hl, List.foldl_append, List.foldl_cons, foldl_of_fixed (l := l₁), hitems, List.length_singleton,
    digAbsorb_of_log hitems htaint, foldl_of_fixed (l := l₂)]
  · intro j hj
    obtain ⟨hempty, hne⟩ := hrest j (List.mem_append_right _ hj)
    rw [plot_digLogged, tab_get_set_ne _ _ _ _ _ hne, hempty]
    rfl
  · intro j hj
    rw [(hrest j (List.mem_append_left _ hj)).1]
    rfl

/-- A log for which nothing waits takes effect at once. -/
theorem dlog_of_noDigests (h : noDigests (plot s p)) (hd : d = Tab.get {} (plot s p).digs (bits w 30 28)) (htaint : d.taint = false) :
    dlog s p w = digLogged (modPlot s p fun x => digGiven (bits w 30 28) (.log x.pc.toNat) x) p (bits w 30 28) (plot s p).pc.toNat d := by
  have hk : bits w 30 28 < 8 := Nat.mod_lt _ (by decide)
  have hempty : d.items = [] := hd ▸ h _ hk
  refine digSettle_of_log (s := modPlot s p fun x => digGiven (bits w 30 28) (.log x.pc.toNat) x) hk ?_ htaint fun j hj hne => ?_
  · simp [get_digGiven, ← hd, hempty]
  · simp [get_digGiven, hne, h j hj]

end

/-! ## Power hints (07 R224) -/

/-- The unit that hint `b` gates is idle. -/
def unitIdle (b : Nat) (x : Plot) : Bool :=
  match b with
  | 0 => x.ops.all fun o => o.unit == .harrow
  | 1 => harrowFree x
  | _ => x.xq.isEmpty

/-- A plot that has been given hint `b`. -/
def hinted (b : Nat) (x : Plot) : Plot := { x with hints := if unitIdle b x then x.hints ||| BitVec.ofNat 3 (2 ^ b) else x.hints }

section
variable {s : State} {p : Fin 32} {k b w : Nat} {n : Snap} {i : Instr} {idle : Prop}

theorem powerHint_eq (s : State) (p b : Nat) : powerHint s p b = modPlot s p (hinted b) := by
  have hgate (x : Plot) : (if unitIdle b x then { x with hints := x.hints ||| BitVec.ofNat 3 (2 ^ b) } else x) = hinted b x := by
    unfold hinted
    split <;> rfl
  exact congrArg (modPlot s p) (funext hgate)

theorem exec_powerHint (hi : (i = .phArray p ∧ k = 11 ∧ b = 0 ∧ (idle ↔ ∀ o ∈ (plot s p.val).ops, o.unit = .harrow)) ∨
      (i = .phHarrow p ∧ k = 12 ∧ b = 1 ∧ (idle ↔ ∀ o ∈ (plot s p.val).ops, o.unit ≠ .harrow)) ∨
      (i = .phFabric p ∧ k = 13 ∧ b = 2 ∧ (idle ↔ (plot s p.val).xq = []))) :
    exec i s = part p k (fun _ => true) s (fun s _ _ => powerHint s p b) ∧ (unitIdle b (plot s p.val) = true ↔ idle) := by
  obtain ⟨rfl, rfl, rfl, hidle⟩ | ⟨rfl, rfl, rfl, hidle⟩ | ⟨rfl, rfl, rfl, hidle⟩ := hi
  · exact ⟨rfl, by simp [hidle, unitIdle]⟩
  · exact ⟨rfl, by simp [hidle, unitIdle, harrowFree]⟩
  · exact ⟨rfl, by simp [hidle, unitIdle]⟩

end

/-! ## TQ_DROP (07 R216) -/

theorem tq_of_tqHead {x : Plot} {e : TileEntry} (h : tqHead x = some e) : x.tq = e :: x.tq.drop 1 := by
  unfold tqHead at h
  split at h
  · split at h <;> simp_all
  · simp at h

end Sys2Proof.Machine

namespace Sys2Proof
open Sys2Proof.Machine Sys2Proof.Laws

theorem tapsHintsAndDrops : Claims.TapsHintsAndDrops := by
  rintro s p w n x hl rfl
  refine ⟨fun hp d a b tn nm hstream => ?_, fun hp hdigs d hd htaint => ?_, fun i k b idle hp hi => ?_,
    fun hp => ⟨fun e hhead => ?_, fun hhead => ?_⟩, fun hp hfop => ?_⟩
  · obtain ⟨t, ht, hchanges, hdone, hplot⟩ := part_modPlot (mine := fun _ => true) (f := fun s w _ => dtap s p w) hl hp rfl _
      (dtap_of_stream hstream) rfl
    refine ⟨t, ht, hchanges.rest, hdone, ?_⟩
    rw [hplot]
    exact ⟨rfl, by simp [startedPart, get_digGiven]⟩
  · have hexec : exec (.dlog p) s = .next _ := part_of_partAt (mine := fun _ => true) (f := fun s w _ => dlog s p w) hl hp rfl
    refine ⟨_, (digEntry s p (bits w 30 28) (plot s p.val).pc.toNat d).make s, hexec, ?_⟩
    rw [dlog_of_noDigests hdigs hd htaint, partDone, plot_modPlot, plot_digLogged, plot_modPlot]
    refine ⟨rfl, by simp [startedPart, tab_get_set], by simp [digLogged], ?_, rfl, rfl, rfl, rfl⟩
    exact tally_newest _ _
  · obtain ⟨hexec, hidle⟩ := exec_powerHint hi
    obtain ⟨t, ht, hchanges, hdone, hplot⟩ := part_modPlot (mine := fun _ => true) (f := fun s _ _ => powerHint s p b) hl hp rfl _
      (powerHint_eq s p b) rfl
    refine ⟨t, hexec.trans ht, hchanges.rest, hdone, ?_⟩
    rw [hplot]
    exact ⟨rfl, fun h => if_pos (hidle.mpr h), fun h => if_neg (mt hidle.mp h)⟩
  · obtain ⟨t, ht, hchanges, hdone, hplot⟩ := part_modPlot (mine := fun _ => true) (f := fun s _ _ => tqDrop s p) hl hp rfl
      (fun x => { x with tq := x.tq.drop 1 }) (if_neg (by rw [hhead]; simp)) rfl
    refine ⟨t, ht, hchanges.rest, hdone, ?_⟩
    rw [hplot]
    exact ⟨rfl, tq_of_tqHead hhead⟩
  · have hdrop : tqDrop s p = wordFault s p .harrow fHarrowIssue := if_pos (by rw [hhead]; simp)
    refine ⟨_, part_of_partAt (mine := fun _ => true) (f := fun s _ _ => tqDrop s p) hl hp rfl, ?_⟩
    rw [hdrop, plot_modPlot, plot_wordFault]
    simp [startedPart]
  · obtain ⟨t, ht, hchanges, hdone, hplot⟩ := part_modPlot (mine := fun w => wFop w == 4) (f := fun s w _ => armBind s p (wRb w)) hl hp
      (by simpa using hfop) _ rfl rfl
    refine ⟨t, ht, hchanges.rest, hdone, ?_⟩
    simp only [bindSt, hplot, startedPart, tab_get_upd_ite]
    refine ⟨trivial, fun b => ?_⟩
    split_ifs <;> simp_all

/-- Settles O36: `countersAndFlags` for the registers of counters and flags, `tapsHintsAndDrops` for the other parts. -/
theorem sequencerParts : Obligations.SequencerParts := ⟨countersAndFlags, tapsHintsAndDrops⟩

end Sys2Proof

namespace Sys2Proof.Machine
open Sys2Proof Sys2Proof.Laws

/-! ## A word issues (07 R212, R225, R234) -/

theorem event_of_fixed {s : State} {f : State → State} (htest : s.testMode = false) (h : f s = s) : event s f = .next s := by
  simp [event, htest, h]

/-- Each command that starts a part of a word is `part` with its own effect. -/
theorem exec_partCommand {p : Fin 32} {e : Ecc} {le : LineErrs} {i : Instr} {k : Nat} {mine : Nat → Bool}
    (hi : (i, k, mine) ∈ partCommands p e le) : ∃ f : State → Nat → Snap → State, ∀ s, exec i s = part p k mine s f := by
  have hall : ∀ c ∈ partCommands p e le, ∃ f : State → Nat → Snap → State, ∀ s, exec c.1 s = part p c.2.1 c.2.2 s f := by
    rw [partCommands, List.forall_mem_append, List.forall_mem_map]
    refine ⟨?_, fun c hc => ⟨_, fun s => exec_harrowCommand hc⟩⟩
    simp only [List.forall_mem_cons, List.not_mem_nil, false_implies, implies_true, and_true]
    and_intros <;> exact ⟨_, fun _ => rfl⟩
  exact hall _ hi

section
variable {s : State} {p k w : Nat} {n : Snap} {mine : Nat → Bool} {f : State → Nat → Snap → State}

theorem onPart_of_noWord (h : currentWord s p = none) : onPart p k mine s f = s := by simp [onPart, h]

variable (hw : currentWord s p = some w)
include hw

theorem onPart_of_notMine (h : mine w = false) : onPart p k mine s f = s := by simp [onPart, hw, h]

/-- A word that does not issue with this part starts none. -/
theorem onPart_of_held (hsnap : (plot s p).snap = none) (h : canIssue s p w = false ∨ (wordParts w).head? ≠ some k) :
    onPart p k mine s f = s := by
  have hnot : ((plot s p).snap.isNone && canIssue s p w && (wordParts w).head? == some k) = false := by
    obtain h | h := h <;> simp [h]
  simp only [onPart, hw, hnot, Bool.false_eq_true, if_false]
  simp only [hsnap, ite_self]

theorem onPart_of_notNext (hsnap : (plot s p).snap = some n) (h : ((wordParts w).filter fun j => !n.done.contains j).head? ≠ some k) :
    onPart p k mine s f = s := by
  simp only [onPart, hw, hsnap, Option.isNone_some, Bool.false_and, Bool.false_eq_true, if_false, if_neg h, ite_self]

end

/-! ### What issuing leaves -/

section
variable {s : State} {p w : Nat}

@[simp] theorem plotAbort_testMode (u : FaultUnit) (code : Half) (i : FaultInfo) : (plotAbort s p u code i).testMode = s.testMode := by
  have hdone (l : List Cmd) (t : State) : (l.foldl (fun s c => cmdDone s c oPlotStop stOk) t).testMode = t.testMode :=
    foldl_of_step (R := fun s t => t.testMode = s.testMode) (fun _ => rfl) (fun h h' => h'.trans h) (fun _ _ => by simp) l t
  unfold plotAbort
  dsimp only
  rw [hdone]
  repeat' split
  all_goals simp [raiseBy, raiseCount, auditFault_fields]

/-- Before a word's parts may start: the N flag it sets, and the completion of the PLOT_START whose start word it is. -/
def issueMarks (s : State) (p w : Nat) : State :=
  let u := if wNmark w then nFlag s 0 else s
  match (plot s p).startCmd with
  | some c => cmdDone u c oPlotStart stOk
  | none => u

/-- A plot whose word has issued with the scalar state `n`. -/
def wordIssued (w : Nat) (n : Snap) (x : Plot) : Plot :=
  let clear (i : Nat) (f : DWord) : DWord := f &&& ~~~(BitVec.ofNat 64 (2 ^ i))
  let fl := if wWkind w = 1 ∧ bit w 700 then
      (if bit w 701 then clear (bits w 693 688) (clear (bits w 699 694) x.flags) else clear (bits w 699 694) x.flags) else x.flags
  { x with snap := some n, flags := fl, nmark := x.nmark || wNmark w, streams := [], startCmd := none }

theorem issueMarks_fields : (issueMarks s p w).plots = s.plots ∧ (issueMarks s p w).sc = s.sc ∧ (issueMarks s p w).plan = s.plan ∧
    (issueMarks s p w).gran = s.gran ∧ (issueMarks s p w).testMode = s.testMode ∧ (issueMarks s p w).fault = s.fault := by
  unfold issueMarks
  dsimp only
  repeat' split
  all_goals simp [nFlag]

theorem issueWord_of_badWord (h : wordOk s p (plot s p).pc.toNat w = false ∨ contOk (plot s p) w = false) :
    issueWord s p w = wordFault s p .seq fSeqConfig := by
  obtain h | h := h <;> simp [issueWord, h]

theorem issueWord_of_ok (hword : wordOk s p (plot s p).pc.toNat w = true) (hcont : contOk (plot s p) w = true)
    (hnmark : nmarkBreach s p w (wordReads (plot s p) w) = false) (harmed : armedWrite s p (wordWrites (plot s p) w) = false) :
    issueWord s p w = modPlot (issueMarks s p w) p (wordIssued w (scalars s p)) := by
  have hscalars : scalars (issueMarks s p w) p = scalars s p := by
    obtain ⟨hplots, hsc, -⟩ := issueMarks_fields (s := s) (p := p) (w := w)
    simp only [scalars, sharedSeen, plot_congr hplots, hsc]
  simp only [issueWord, hword, hcont, hnmark, harmed, Bool.not_true, Bool.or_self, Bool.false_eq_true, if_false]
  rw [← hscalars]
  rfl

@[simp] theorem stopped_snap (u : FaultUnit) (code : Half) (a : Nat) (x : Plot) : (stopped u code a x).snap = none := by cases u <;> rfl

@[simp] theorem setBank_mode (x : Plot) (b : Bool) (v : Bank) : (setBank x b v).mode = x.mode := by cases b <;> rfl

theorem currentWord_lineFault (array : Bool) (code : Half) : currentWord (lineFault s p w array code) p = none := by
  have hmode : (plot (lineFault s p w array code) p).mode = .aborted := by cases array <;> simp [lineFault, zeroBank_eq]
  simp [currentWord, hmode]

theorem lineFault_testMode (array : Bool) (code : Half) : (lineFault s p w array code).testMode = s.testMode := by
  cases array <;> simp [lineFault, zeroBank_eq, wordFault]

/-- A word that issues stops its plot with a fault of its checks or lines, or is issued. -/
theorem issueWord_cases (s : State) (p w : Nat) : (∃ array code, issueWord s p w = lineFault s p w array code) ∨
    issueWord s p w = modPlot (issueMarks s p w) p (wordIssued w (scalars s p)) := by
  by_cases hbad : wordOk s p (plot s p).pc.toNat w = false ∨ contOk (plot s p) w = false
  · exact .inl ⟨false, fSeqConfig, issueWord_of_badWord hbad⟩
  obtain ⟨hword, hcont⟩ : wordOk s p (plot s p).pc.toNat w = true ∧ contOk (plot s p) w = true := by simpa using hbad
  cases hnmark : nmarkBreach s p w (wordReads (plot s p) w) with
  | true => exact .inl ⟨nmarkBreach s p w (arrayReads (plot s p) w), fSeqNmark, by simp [issueWord, hword, hcont, hnmark]⟩
  | false =>
    cases harmed : armedWrite s p (wordWrites (plot s p) w) with
    | true => exact .inl ⟨armedWrite s p (arrayWrites (plot s p) w), fSchedHazard, by simp [issueWord, hword, hcont, hnmark, harmed]⟩
    | false => exact .inr (issueWord_of_ok hword hcont hnmark harmed)

theorem plotWord_congr {t : State} (h : t.plan = s.plan) (p a : Nat) : plotWord t p a = plotWord s p a := by
  have hrec : planRec t = planRec s := by
    funext
    simp only [planRec, h]
  rw [plotWord, tableWords, plotCtl, plotTab, hrec]
  rfl

/-- An issued word stands at the PC until its next address. -/
theorem currentWord_wordIssued {n : Snap} (hw : currentWord s p = some w) :
    currentWord (modPlot (issueMarks s p w) p (wordIssued w n)) p = some w := by
  obtain ⟨hplots, -, hplan, -⟩ := issueMarks_fields (s := s) (p := p) (w := w)
  have hplot : plot (modPlot (issueMarks s p w) p (wordIssued w n)) p = wordIssued w n (plot s p) := by
    rw [plot_modPlot, plot_congr hplots]
  have hword := plotWord_congr (t := modPlot (issueMarks s p w) p (wordIssued w n)) hplan p (plot s p).pc.toNat
  obtain ⟨⟨hmode, hhalted, -⟩, hhere⟩ := currentWord_eq_some.mp hw
  rw [currentWord_eq_some, hplot]
  exact ⟨⟨hmode, hhalted, .inr rfl⟩, hword.trans hhere⟩

/-- A part with which a word issues starts in the issued word. -/
theorem onPart_of_issue {k : Nat} {mine : Nat → Bool} {f : State → Nat → Snap → State} (hw : currentWord s p = some w)
    (hmine : mine w = true) (hsnap : (plot s p).snap = none) (hcan : canIssue s p w = true) (hfirst : (wordParts w).head? = some k) :
    onPart p k mine s f = onPart p k mine (issueWord s p w) f := by
  have hissue : ((plot s p).snap.isNone && canIssue s p w && (wordParts w).head? == some k) = true := by simp [hsnap, hcan, hfirst]
  obtain ⟨array, code, hfault⟩ | hissued := issueWord_cases s p w
  · have hnone : currentWord (issueWord s p w) p = none := hfault ▸ currentWord_lineFault array code
    have hstopped : (plot (issueWord s p w) p).snap = none := by rw [hfault]; cases array <;> simp [lineFault, zeroBank_eq]
    rw [onPart_of_noWord hnone]
    simp only [onPart, hw, hmine, hissue, hstopped, Bool.not_true, Bool.false_eq_true, if_false, if_true]
  · have hword : currentWord (issueWord s p w) p = some w := hissued ▸ currentWord_wordIssued hw
    have hsome : (plot (issueWord s p w) p).snap = some (scalars s p) := by rw [hissued, plot_modPlot]; rfl
    simp only [onPart, hw, hword, hmine, hissue, hsome, Option.isNone_some, Bool.false_and, Bool.not_true, Bool.false_eq_true, if_false, if_true]

end

end Sys2Proof.Machine

namespace Sys2Proof
open Sys2Proof.Machine Sys2Proof.Laws

theorem wordIssue : Claims.WordIssue := by
  rintro s p e le i k mine hl hi
  obtain ⟨f, hexec⟩ := exec_partCommand hi
  have hpart (h : onPart p.val k mine s f = s) : exec i s = .next s := by rw [hexec, part, event_ok hl, h]
  refine ⟨fun hnone => hpart (onPart_of_noWord hnone), fun w hw => ⟨fun hnot => hpart (onPart_of_notMine hw hnot),
    fun hsnap hcan => hpart (onPart_of_held hw hsnap (.inl hcan)), fun hsnap hfirst => hpart (onPart_of_held hw hsnap (.inr hfirst)),
    fun n hsnap hnext => hpart (onPart_of_notNext hw hsnap hnext), fun hmine hsnap hcan hfirst => ?_⟩⟩
  have hissue : exec i s = .next (onPart p.val k mine (issueWord s p w) f) := by
    rw [hexec, part, event_ok hl, onPart_of_issue hw hmine hsnap hcan hfirst]
  refine ⟨?_, fun hword hcont hnmark harmed => ?_, fun hbad => ?_⟩
  · rw [hissue, hexec, part]
    obtain ⟨array, code, hfault⟩ | hissued := issueWord_cases s p w
    · have hfixed : onPart p.val k mine (lineFault s p w array code) f = lineFault s p w array code :=
        onPart_of_noWord (currentWord_lineFault array code)
      rw [hfault, hfixed, event_of_fixed ((lineFault_testMode array code).trans hl.1) hfixed]
    · obtain ⟨-, -, -, -, htest, hfault⟩ := issueMarks_fields (s := s) (p := p) (w := w)
      have hlive : (modPlot (issueMarks s p w) p (wordIssued w (scalars s p))).live := ⟨htest.trans hl.1, by rw [modPlot, hfault]; exact hl.2⟩
      rw [hissued, event_ok hlive]
  · rw [issueWord_of_ok hword hcont hnmark harmed]
    obtain ⟨hplots, -, -, hgran, -⟩ := issueMarks_fields (s := s) (p := p) (w := w)
    rw [plot_modPlot, plot_congr hplots]
    exact ⟨rfl, rfl, rfl, hgran⟩
  · have hnone : currentWord (wordFault s p .seq fSeqConfig) p.val = none := by simp [currentWord, wordFault]
    rw [issueWord_of_badWord hbad, onPart_of_noWord hnone] at hissue
    refine ⟨_, hissue, ?_⟩
    rw [plot_wordFault]
    simp [stopped]

end Sys2Proof

namespace Sys2Proof.Machine
open Sys2Proof Sys2Proof.Laws

/-! ## The next address (07 R205, R206, R208, R236) -/

/-- A plot whose word has ended its cycle and is followed by word `a`. -/
def wentTo (a : Nat) (x : Plot) : Plot :=
  { x with pc := BitVec.ofNat 14 a, cyc := x.cyc + 1, heldAt := x.cyc + 1, snap := none, streams := [], flags := x.flags ||| x.came, came := 0
           outside := false }

/-- A plot whose next word is `a`, in the last cycle of the word before. -/
def turnedTo (a : Nat) (x : Plot) : Plot := { (if x.stopping then discard x else x) with pc := BitVec.ofNat 14 a, streams := [] }

section
variable {s : State} {p a : Nat} {n : Snap}

/-- A cycle of a plot in which no operation and no transfer runs only counts. -/
theorem plotTick_of_idle (hops : (plot s p).ops = []) (hxq : (plot s p).xq = []) (hdigs : noDigests (plot s p)) :
    plotTick p s = countCycles s p 1 := by
  have hfabric : fabricCycle p s = s := by simp [fabricCycle, hxq]
  have hports : portOrder (plot s p) = [] := by simp [portOrder, hops]
  obtain ⟨waitCycles, hplot⟩ := plot_countCycles s p 1
  simp only [plotTick, hfabric, hports, List.foldl_nil]
  exact digSettle_of_noDigests (noDigests_congr (by rw [hplot]) hdigs)

theorem goTo_of_idle (hsnap : (plot s p).snap = some n) (hstopping : (plot s p).stopping = false) (hops : (plot s p).ops = [])
    (hxq : (plot s p).xq = []) (hdigs : noDigests (plot s p)) :
    ChangesPlot p s (goTo s p a .ok) ∧ plot (goTo s p a .ok) p = wentTo a (plot s p) := by
  have hturn : plot (modPlot s p (turnedTo a)) p = { plot s p with pc := BitVec.ofNat 14 a, streams := [] } := by
    simp [turnedTo, hstopping]
  have htick : plotTick p (modPlot s p (turnedTo a)) = countCycles (modPlot s p (turnedTo a)) p 1 :=
    plotTick_of_idle (by rw [hturn]; exact hops) (by rw [hturn]; exact hxq) (by rw [hturn]; exact hdigs)
  have hgo : goTo s p a .ok = modPlot (countCycles (modPlot s p (turnedTo a)) p 1) p
      fun x => { x with heldAt := x.cyc, snap := none, outside := false } := by
    rw [← htick]
    simp only [goTo, fetchEcc, ite_self]
    rfl
  have hheld : wordHeld (modPlot s p (turnedTo a)) p = false := by simp [wordHeld, hturn, hsnap]
  rw [hgo, plot_modPlot, countCycles, plot_modPlot, hturn, hheld]
  exact ⟨(((ChangesPlot.refl p s).modPlot _).modPlot _).modPlot _, rfl⟩

end

section
variable {s : State} {p : Fin 32} {w a : Nat} {n : Snap} {i : Instr}

/-- The loop counter after a LOOP (07 R206). -/
def loopCount (w : Nat) (n : Snap) : Word :=
  if 1 < (Tab.get 0 n.ctr (bits w 749 746)).toNat then Tab.get 0 n.ctr (bits w 749 746) - 1 else 0

theorem loopNext_eq (s : State) (p w : Nat) (n : Snap) : loopNext s p w n =
    (modPlot s p fun x => { x with ctr := Tab.set 0 x.ctr (bits w 749 746) (loopCount w n) },
      if 1 < (Tab.get 0 n.ctr (bits w 749 746)).toNat then wTarget w else seqAddr s p) := by
  unfold loopNext loopCount
  dsimp only
  split <;> rfl

/-- Each next-address part goes on to its address; LOOP alone changes a counter. -/
theorem exec_nextAddress (hi : (i = .seq p .ok ∧ wNxt w = 0 ∧ a = (plot s p.val).pc.toNat + 1) ∨ (i = .jump p .ok ∧ wNxt w = 1 ∧ a = wTarget w) ∨
      (i = .brt p .ok ∧ wNxt w = 2 ∧ a = if comparator p.val n (bits w 745 743) then wTarget w else (plot s p.val).pc.toNat + 1) ∨
      (i = .brf p .ok ∧ wNxt w = 3 ∧ a = if comparator p.val n (bits w 745 743) then (plot s p.val).pc.toNat + 1 else wTarget w) ∨
      (i = .loop p .ok ∧ wNxt w = 4 ∧ a = if 1 < (Tab.get 0 n.ctr (bits w 749 746)).toNat then wTarget w else (plot s p.val).pc.toNat + 1)) :
    ∃ (mine : Nat → Bool) (f : State → Nat → Snap → State × Nat) (ctr : Tab Word), mine w = true ∧
      exec i s = part p 14 mine s (fun s w n => goTo (f s w n).1 p (f s w n).2 .ok) ∧ (f s w n).2 = a ∧
      ChangesPlot p.val s (f s w n).1 ∧ plot (f s w n).1 p.val = { plot s p.val with ctr } ∧
      ∀ k, Tab.get 0 ctr k = if wNxt w = 4 ∧ k = bits w 749 746 then
        (if 1 < (Tab.get 0 n.ctr k).toNat then Tab.get 0 n.ctr k - 1 else 0) else Tab.get 0 (plot s p.val).ctr k := by
  obtain ⟨rfl, h, rfl⟩ | ⟨rfl, h, rfl⟩ | ⟨rfl, h, rfl⟩ | ⟨rfl, h, rfl⟩ | ⟨rfl, h, rfl⟩ := hi
  · exact ⟨fun w => wNxt w == 0, _, (plot s p.val).ctr, by simpa using h, rfl, rfl, .refl _ s, rfl, fun k => by simp [h]⟩
  · exact ⟨fun w => wNxt w == 1, _, (plot s p.val).ctr, by simpa using h, rfl, rfl, .refl _ s, rfl, fun k => by simp [h]⟩
  · exact ⟨fun w => wNxt w == 2, _, (plot s p.val).ctr, by simpa using h, rfl, rfl, .refl _ s, rfl, fun k => by simp [h]⟩
  · exact ⟨fun w => wNxt w == 3, _, (plot s p.val).ctr, by simpa using h, rfl, rfl, .refl _ s, rfl, fun k => by simp [h]⟩
  · refine ⟨fun w => wNxt w == 4, fun s w n => loopNext s p w n, Tab.set 0 (plot s p.val).ctr (bits w 749 746) (loopCount w n),
      by simpa using h, rfl, ?_⟩
    simp only [loopNext_eq]
    refine ⟨rfl, (ChangesPlot.refl _ s).modPlot _, plot_modPlot .., fun k => ?_⟩
    simp only [tab_get_set_ite, h, true_and]
    split
    · subst_vars
      rfl
    · rfl

end

/-- HALT at its turn lets no further word issue. -/
theorem exec_halt_of_partAt {s : State} {p : Fin 32} {w : Nat} {n : Snap} (hl : s.live) (hp : partAt s p 14 w n) (hnxt : wNxt w = 5) :
    exec (.halt p) s = .next (halt (modPlot s p.val (startedPart 14)) p.val) := by
  have hpart := onPart_of_partAt (mine := fun _ => true) (f := fun s _ _ => s) hp rfl
  obtain ⟨hword, hsnap, -⟩ := hp
  have hexec : exec (.halt p) s = execHalt p s := rfl
  rw [hexec, execHalt, event_ok hl]
  simp only [hword, hnxt, hpart]
  simp [startedPart, hsnap]

end Sys2Proof.Machine

namespace Sys2Proof
open Sys2Proof.Machine Sys2Proof.Laws

theorem nextAddresses : Claims.NextAddresses := by
  rintro s p w n i a x hl hp rfl
  refine ⟨fun hi hstopping hops hxq hdigs => ?_, fun hnxt => ?_⟩
  · obtain ⟨mine, f, ctr, hmine, hexec, rfl, hchanges, hplot, hctr⟩ := exec_nextAddress (s := s) hi
    obtain ⟨-, hsnap, -⟩ := id hp
    obtain ⟨hgone, hwent⟩ := goTo_of_idle (a := (f s w n).2) (n := n) (by rw [hplot]; exact hsnap) (by rw [hplot]; exact hstopping)
      (by rw [hplot]; exact hops) (by rw [hplot]; exact hxq) (by rw [hplot]; exact hdigs)
    have hall := (hchanges.trans hgone).modPlot (startedPart 14)
    refine ⟨_, hexec.trans (part_of_partAt hl hp hmine), hall.rest, hall.others, ?_⟩
    rw [plot_modPlot, hwent, hplot]
    exact ⟨rfl, hctr⟩
  · have hchanges := ((ChangesPlot.refl p.val s).modPlot (startedPart 14)).modPlot
      fun x => { x with halted := true, stopping := false, snap := none, streams := [] }
    refine ⟨_, exec_halt_of_partAt hl hp hnxt, hchanges.rest, hchanges.others, ?_, ?_⟩
    · rw [halt, plot_modPlot, plot_modPlot]
      rfl
    · simp [currentWord, halt]

/-- Settles O35: `wordIssue` as a word issues with its first part, `nextAddresses` as its last part ends it. -/
theorem wordsIssue : Obligations.WordsIssue := ⟨wordIssue, nextAddresses⟩

end Sys2Proof

namespace Sys2Proof.Machine
open Sys2Proof Sys2Proof.Laws

/-! ## PLOT_START and PLOT_STOP (07 R235, R236, 17 Table 17-9) -/

section
variable {s : State} {c : Cmd} {p : Fin 32} (hl : s.live) (hp : p.val = c.u 0 1)
include hl hp

theorem exec_plotStart (hc : c.passes oPlotStart [(0, 1), (2, 2)]) (e : Ecc) : exec (.plotStart c e) s = .next (plotStart c e s) := by
  have hfmt : decide (c.u 0 1 < 32) = true := by simp [← hp]
  have hexec : exec (.plotStart c e) s = onCmd oPlotStart c [(0, 1), (2, 2)] (decide (c.u 0 1 < 32)) s (plotStart c e) := rfl
  rw [hexec, hfmt, onCmd_ok hl hc]

theorem exec_plotStop (hc : c.passes oPlotStop [(0, 1)]) : exec (.plotStop c) s = .next (plotStop c s) := by
  have hfmt : decide (c.u 0 1 < 32) = true := by simp [← hp]
  have hexec : exec (.plotStop c) s = onCmd oPlotStop c [(0, 1)] (decide (c.u 0 1 < 32)) s (plotStop c) := rfl
  rw [hexec, hfmt, onCmd_ok hl hc]

end

section
variable {s : State} {c : Cmd} {e : Ecc}

theorem plotStart_of_unitState (h : fallow s (c.u 0 1) = true ∨ (plot s (c.u 0 1)).mode = .running ∨ (plot s (c.u 0 1)).ctrlBad = true ∨
    tableWords s (c.u 0 1) = 0) : plotStart c e s = cmdDone s c oPlotStart stUnitState := by
  refine if_pos ?_
  obtain h | h | h | h := h <;> simp [h]

theorem plotStart_of_ready (hfallow : fallow s (c.u 0 1) = false) (hmode : (plot s (c.u 0 1)).mode ≠ .running)
    (hctrl : (plot s (c.u 0 1)).ctrlBad = false) (hwords : 0 < tableWords s (c.u 0 1)) : plotStart c e s =
      if tableWords s (c.u 0 1) ≤ c.u 2 2 then cmdDone s c oPlotStart stRange
      else if s.plan.quiescing || s.plan.phase == .apply then cmdDone s c oPlotStart stPlanBusy
      else fetchEcc (modPlot s (c.u 0 1) fun x => startPlot x c (c.u 2 2)) (c.u 0 1) e :=
  if_neg (by simp [hfallow, hmode, hctrl, hwords.ne'])

end

/-! ## The ends of a program (07 R236) -/

section
variable {s : State} {p : Nat} {c : Cmd} {kind : Half}

theorem awaitOps_of_none (h : (plot s p).ops = []) : awaitOps p s = s := by
  simp [awaitOps, passUntil, plotUntil_of_stop (p := p) (stop := fun s => (plot s p).ops.isEmpty) (s := s) (by simp [h])]

/-- The entry of a program's end. -/
def doneEntry (s : State) (p : Nat) (kind : Half) : Entry := { kind, utype := uPlot, unit := p, n := (plot s p).nmark, body := doneBody (plot s p) }

theorem endEntry_of_noStops : endEntry s p kind [] = tally s (doneEntry s p kind) := rfl

theorem endEntry_of_stop : endEntry s p kind [c] = complete s c (doneEntry s p kind) := rfl

@[simp] theorem plot_complete (e : Entry) (data : List Byte) : plot (complete s c e data) = plot s := plot_congr (by simp)

theorem newest_complete_owner {e : Entry} (h : c.auth = .owner) :
    newest (complete s c e) = some ({ e with cmd := true, steward := true, ref := c.seq }.make s) := by
  simp only [complete, h, newest, tally_host, hostPush_newest]

theorem plotDone_of_drained (hmode : (plot s p).mode = .running) (hhalted : (plot s p).halted = true) (hops : (plot s p).ops = [])
    (hdrained : drained (plot s p) = true) : plotDone p s = endEntry (modPlot s p fun x =>
      { x with mode := .idle, halted := false, stops := [], cyc := x.cyc + 1, cycles := BitVec.ofNat 64 (x.cyc + 1) }) p kPlotDone
      (plot s p).stops := by
  simp only [plotDone, hmode, hhalted, awaitOps_of_none hops, hdrained, and_self, if_true]

theorem plotStopped_of_idle (hmode : (plot s p).mode = .running) (hstopping : (plot s p).stopping = true) (hsnap : (plot s p).snap = none)
    (hops : (plot s p).ops = []) (hxq : (plot s p).xq = []) (hstart : (plot s p).startCmd = none) :
    plotStopped p s = endEntry (modPlot s p fun x =>
      { x with mode := .idle, stopping := false, stops := [], cycles := BitVec.ofNat 64 x.cyc, startCmd := none }) p kPlotStopped
      (plot s p).stops := by
  simp only [plotStopped, hmode, hstopping, hsnap, awaitOps_of_none hops, hops, hxq, hstart, Option.isNone_none, List.isEmpty_nil, and_self,
    if_true]

end

end Sys2Proof.Machine

namespace Sys2Proof
open Sys2Proof.Machine Sys2Proof.Laws

/-- Settles O41: `plotStart_of_ready` in the order of the statuses, `plotDone_of_drained` and `plotStopped_of_idle` for the entries of a
program's ends. -/
theorem plotStartAndEnd : Obligations.PlotStartAndEnd := by
  rintro s c p x hl hp rfl
  refine ⟨fun hc e => ?_, fun hc => ?_, fun hmode hhalted hops hdrained hstops => ?_, fun hmode hstopping hsnap hops hxq hstops hauth hstart => ?_⟩
  · rw [exec_plotStart hl hp hc, hp]
    refine ⟨fun h => ?_, fun hfallow hmode hctrl hwords hpast => ?_, fun hfallow hmode hctrl hin hbusy => ?_,
      fun hfallow hmode hctrl hin hquiet hphase he => ?_⟩
    · rw [plotStart_of_unitState h]
    · rw [plotStart_of_ready hfallow hmode hctrl hwords, if_pos hpast]
    · rw [plotStart_of_ready hfallow hmode hctrl (by omega), if_neg (by omega), if_pos (by simpa using hbusy)]
    · subst he
      rw [plotStart_of_ready hfallow hmode hctrl (by omega), if_neg (by omega), if_neg (by simp [hquiet, hphase])]
      refine ⟨_, rfl, rfl, ?_⟩
      rw [fetchEcc, plot_modPlot]
      exact ⟨rfl, rfl, rfl, rfl, rfl, rfl, rfl, rfl, rfl, rfl, rfl, rfl, rfl, rfl⟩
  · rw [exec_plotStop hl hp hc, hp]
    refine ⟨fun hmode => ?_, fun hmode hhalt => ⟨_, rfl, ?_⟩, fun hmode hhalt => ⟨_, rfl, ?_⟩⟩
    · simp [plotStop, hmode]
    · simp [plotStop, hmode, hhalt]
    · simp [plotStop, hmode, hhalt, Machine.discard]
  · have hexec : exec (.plotDone p) s = .next (plotDone p s) := event_ok hl
    rw [hexec, plotDone_of_drained hmode hhalted hops hdrained, hstops, endEntry_of_noStops]
    refine ⟨_, _, rfl, ?_, ?_, tally_newest .., rfl, rfl, ?_, by simp⟩
    · simp
    · simp
    · simp [doneEntry, Entry.make, doneBody]
  · have hexec : exec (.plotStopped p) s = .next (plotStopped p s) := event_ok hl
    rw [hexec, plotStopped_of_idle hmode hstopping hsnap hops hxq hstart, hstops, endEntry_of_stop]
    refine ⟨_, _, rfl, ?_, newest_complete_owner hauth, rfl, rfl, ?_, by simp⟩
    all_goals rw [plot_complete, plot_modPlot]

end Sys2Proof

namespace Sys2Proof.Machine
open Sys2Proof Sys2Proof.Laws

/-! ## The order of a sort (08 R247, R248) -/

/-- R248: by order word, then source ordinal, then sequence number; DESC turns only the order words round. -/
theorem sortLe_iff (desc : Bool) (x y : SortRec) : sortLe desc x y = true ↔
    (desc = false ∧ x.1 < y.1) ∨ (desc = true ∧ y.1 < x.1) ∨ (x.1 = y.1 ∧ x.2.1 < y.2.1) ∨
      (x.1 = y.1 ∧ x.2.1 = y.2.1 ∧ x.2.2.1 ≤ y.2.2.1) := by
  unfold sortLe
  split
  · cases desc <;> simp <;> omega
  · cases desc <;> simp <;> omega

theorem sortLe_trans (desc : Bool) (x y z : SortRec) (hxy : sortLe desc x y = true) (hyz : sortLe desc y z = true) :
    sortLe desc x z = true := by
  rw [sortLe_iff] at *
  cases desc <;> simp at * <;> omega

theorem sortLe_total (desc : Bool) (x y : SortRec) : (sortLe desc x y || sortLe desc y x) = true := by
  rw [Bool.or_eq_true, sortLe_iff, sortLe_iff]
  cases desc <;> simp <;> omega

theorem sortRecs_perm (s : State) (n : Nat) (rs : List SortRec) : List.Perm (sortRecs s n rs) rs := List.mergeSort_perm ..

theorem sortRecs_pairwise (s : State) (n : Nat) (rs : List SortRec) :
    List.Pairwise (fun x y => sortLe (stDesc s n) x y = true) (sortRecs s n rs) :=
  List.pairwise_mergeSort (sortLe_trans _) (sortLe_total _) rs

/-- The top bit of a word inverted is half its range added to it, modulo the range. -/
theorem xor_top {m k : Nat} (hk : k < 2 ^ (m + 1)) : k ^^^ 2 ^ m = (k + 2 ^ m) % 2 ^ (m + 1) := by
  have hpos : 0 < 2 ^ m := by positivity
  have hdiv : (k ^^^ 2 ^ m) / 2 ^ m = k / 2 ^ m ^^^ 1 := by rw [Nat.xor_div_two_pow, Nat.div_self hpos]
  have hmod : (k ^^^ 2 ^ m) % 2 ^ m = k % 2 ^ m := by rw [Nat.xor_mod_two_pow, Nat.mod_self, Nat.xor_zero]
  rw [← Nat.div_add_mod (k ^^^ 2 ^ m) (2 ^ m), hdiv, hmod]
  rw [pow_succ] at hk ⊢
  by_cases hlow : k < 2 ^ m
  · rw [Nat.div_eq_of_lt hlow, Nat.zero_xor, mul_one, Nat.mod_eq_of_lt hlow, Nat.mod_eq_of_lt (by omega), add_comm]
  · have hone : k / 2 ^ m = 1 := Nat.div_eq_of_lt_le (by omega) (by omega)
    have hrest : k % 2 ^ m = k - 2 ^ m := by rw [Nat.mod_eq_sub_mod (by omega), Nat.mod_eq_of_lt (by omega)]
    rw [hone, Nat.xor_self, mul_zero, zero_add, hrest, Nat.mod_eq_sub_mod (by omega), Nat.mod_eq_of_lt (by omega)]
    omega

/-- A SINT key's order word is its signed value, moved up by half the range. -/
theorem orderWord_sint {w k : Nat} (hw : 1 ≤ w) (hk : k < 2 ^ (8 * w)) :
    (orderWord 1 w k : Int) = (BitVec.ofNat (8 * w) k).toInt + (2 ^ (8 * w - 1) : Nat) := by
  have hword : orderWord 1 w k = k ^^^ 2 ^ (8 * w - 1) := rfl
  rw [hword, BitVec.toInt_eq_toNat_cond, BitVec.toNat_ofNat]
  obtain ⟨m, hm⟩ : ∃ m, 8 * w = m + 1 := ⟨8 * w - 1, by omega⟩
  rw [hm] at hk ⊢
  rw [Nat.mod_eq_of_lt hk, Nat.add_sub_cancel, xor_top hk]
  rw [pow_succ] at hk ⊢
  split
  · rw [Nat.mod_eq_of_lt (by omega)]
    omega
  · rw [Nat.mod_eq_sub_mod (by omega), Nat.mod_eq_of_lt (by omega)]
    omega

end Sys2Proof.Machine

namespace Sys2Proof
open Sys2Proof.Machine

/-- Settles O48: a merge sort by a transitive and total order (`sortRecs_pairwise`) is sorted, and `orderWord_sint` for signed keys. -/
theorem sortOrder : Obligations.SortOrder := by
  refine ⟨fun s n => ⟨_, sortRecs_perm .., sortRecs_pairwise .., rfl⟩, sortLe_iff, fun w k l hw hk hl => ⟨Iff.rfl, ?_⟩⟩
  have hkey := orderWord_sint hw hk
  have hother := orderWord_sint hw hl
  omega

end Sys2Proof

namespace Sys2Proof.Machine
open Sys2Proof Sys2Proof.Laws

section
variable {α : Type} {s t : State} {n : Nat}

/-! ## A stage's state -/

@[simp] theorem stage_modStage (s : State) (n : Nat) (f : Stage → Stage) : stage (modStage s n f) n = f (stage s n) := tab_get_upd ..

theorem stage_modStage_ne (s : State) {m n : Nat} (h : m ≠ n) (f : Stage → Stage) : stage (modStage s n f) m = stage s m :=
  tab_get_upd_ne _ _ _ _ _ h

theorem stage_congr (h : t.stages = s.stages) : stage t = stage s := by
  funext m; rw [stage, h, stage]

theorem stage_tally (s : State) (e : Entry) : stage (tally s e) = stage s := stage_congr (by simp)

theorem stage_raiseBy (s : State) (code : Half) (ut : BitVec 4) (unit : Nat) (kind : Half) (body : List Byte) :
    stage (raiseBy s code ut unit kind body) = stage s := stage_congr (by simp [raiseBy, raiseCount, auditFault_fields])

/-! ## Winnow records (08 R255, R257) -/

/-- The stage after a record: kept or rejected. -/
def recordTaken (keep : Bool) (r : List Byte) (x : Stage) : Stage :=
  { x with taken := x.taken + 1, kept := if keep then x.kept ++ [r] else x.kept, rejected := if keep then x.rejected else x.rejected ++ [r] }

theorem winnowRecord_of_next {e : Nat × Move} {es : List (Nat × Move)} {r : List Byte} (hn : 8 ≤ n) (hsrcs : (stage s n).srcs = e :: es)
    (hrun : (stage s n).running = true) (hcome : ((stage s n).taken + 1) * stRb s n ≤ e.2.prefixLen) (hrb : stRb s n ≠ 0)
    (hr : r = e.2.record (stRb s n) (stage s n).taken) : winnowRecord n s =
      modStage s n (recordTaken (winnowKeeps ((stTab s n 1).map entry64) ((stTab s n 2).map entry64) r) r) := by
  have hwin : isWinnow n = true := decide_eq_true hn
  subst hr
  simp only [winnowRecord, hsrcs, hwin, hrun, hcome.not_gt, hrb, Bool.not_true, decide_false, Bool.or_self, Bool.false_eq_true, if_false]
  rfl

/-! ## Blocks of a list -/

section
variable {m : Nat}

theorem cdiv_eq_succ {a : Nat} (hm : 0 < m) (ha : 0 < a) : cdiv a m = cdiv (a - m) m + 1 := by
  unfold cdiv
  by_cases h : m ≤ a
  · rw [show a + m - 1 = (a - m + m - 1) + m by omega, Nat.add_div_right _ hm]
  · rw [show a - m = 0 by omega, show a + m - 1 = (a - 1) + m by omega, Nat.add_div_right _ hm, Nat.div_eq_of_lt (by omega),
      Nat.div_eq_of_lt (by omega)]

theorem blocksOf_nil (hm : 0 < m) : blocksOf m ([] : List α) = [] := by
  simp [blocksOf, cdiv, Nat.div_eq_of_lt (Nat.sub_lt hm Nat.one_pos)]

theorem blocksOf_of_ne_nil (hm : 0 < m) {xs : List α} (h : xs ≠ []) : blocksOf m xs = xs.take m :: blocksOf m (xs.drop m) := by
  rw [blocksOf, cdiv_eq_succ hm (List.length_pos_iff.mpr h), List.range_succ_eq_map, List.map_cons, List.map_map, blocksOf, List.length_drop]
  simp [Function.comp_def, Nat.mul_succ, Nat.add_comm]

/-- Blocks turned into lists of their own lengths and put together again lie where they lay. -/
theorem block_of_flatMap_blocksOf (hm : 0 < m) {g : List α → List α} (hg : ∀ ys, (g ys).length = ys.length) {xs : List α} {i : Nat}
    (hi : m * i < xs.length) : (((blocksOf m xs).flatMap g).drop (m * i)).take m = g ((xs.drop (m * i)).take m) := by
  induction i generalizing xs with
  | zero =>
    rw [blocksOf_of_ne_nil hm (List.ne_nil_of_length_pos (by omega)), List.flatMap_cons, mul_zero, List.drop_zero, List.drop_zero,
      List.take_append, List.take_of_length_le (by simp [hg])]
    by_cases hfull : m ≤ xs.length
    · simp [hg, hfull]
    · rw [List.drop_of_length_le (by omega), blocksOf_nil hm]
      simp
  | succ i ih =>
    rw [mul_add_one] at hi
    have hlen : (g (xs.take m)).length = m := by rw [hg, List.length_take]; omega
    rw [blocksOf_of_ne_nil hm (List.ne_nil_of_length_pos (by omega)), List.flatMap_cons, mul_add_one, List.drop_append, hlen,
      List.drop_of_length_le (by omega), List.nil_append, Nat.add_sub_cancel, ih (by rw [List.length_drop]; omega), List.drop_drop,
      add_comm m]

theorem length_flatMap_blocksOf (hm : 0 < m) {g : List α → List α} (hg : ∀ ys, (g ys).length = ys.length) (xs : List α) :
    ((blocksOf m xs).flatMap g).length = xs.length := by
  by_cases h : xs = []
  · rw [h, blocksOf_nil hm]
    rfl
  · have hlt : (xs.drop m).length < xs.length := by
      have := List.length_pos_iff.mpr h
      rw [List.length_drop]
      omega
    rw [blocksOf_of_ne_nil hm h, List.flatMap_cons, List.length_append, hg, length_flatMap_blocksOf hm hg (xs.drop m), ← List.length_append,
      List.take_append_drop]
termination_by xs.length

theorem mem_of_mem_blocksOf {xs ys : List α} (h : ys ∈ blocksOf m xs) {x : α} (hx : x ∈ ys) : x ∈ xs := by
  obtain ⟨i, -, rfl⟩ := List.mem_map.mp h
  exact List.mem_of_mem_drop (List.mem_of_mem_take hx)

theorem enum_cons (x : α) (xs : List α) : enum (x :: xs) = (0, x) :: (enum xs).map fun e => (e.1 + 1, e.2) := by
  simp [enum, List.range_succ_eq_map, List.zip_map_left]

end

/-! ## Records in the spill window (08 R250) -/

/-- A spill record's bytes: the record and its origin tag. -/
def spillBytes (r : SortRec) : List Byte := r.2.2.2 ++ leBytes 8 (r.2.1 * 2 ^ 56 + r.2.2.1)

/-- The record that a spill record's bytes hold. -/
def spillRec (s : State) (n : Nat) (b : List Byte) : SortRec :=
  (orderWord (stKtype s n) (stKw s n) (leAt b 0 (stKw s n)), leAt b (spillSize s n - 8) 8 / 2 ^ 56, leAt b (spillSize s n - 8) 8 % 2 ^ 48,
    b.take (spillSize s n - 8))

/-- The window gives a record back as it was written. -/
structure Spillable (s : State) (n : Nat) (r : SortRec) : Prop where
  length : r.2.2.2.length = stKw s n + stPw s n
  source : r.2.1 < 2 ^ 8
  number : r.2.2.1 < 2 ^ 48
  word : r.1 = orderWord (stKtype s n) (stKw s n) (leAt r.2.2.2 0 (stKw s n))

theorem spillPut_eq (s : State) (n half i : Nat) (rs : List SortRec) : spillPut s n half i rs =
    { s with gran := Mem.writes s.gran (spillBase s n half + i * spillSize s n) (rs.flatMap spillBytes) } := rfl

theorem spillRecs_eq (s : State) (n half k : Nat) : spillRecs s n half k =
    (List.range k).map fun i => spillRec s n (Mem.reads s.gran (spillBase s n half + i * spillSize s n) (spillSize s n)) := rfl

@[simp] theorem length_spillRecs (s : State) (n half k : Nat) : (spillRecs s n half k).length = k := by simp [spillRecs_eq]

@[simp] theorem length_sortRecs (s : State) (n : Nat) (rs : List SortRec) : (sortRecs s n rs).length = rs.length := List.length_mergeSort ..

theorem mem_sortRecs {rs : List SortRec} {r : SortRec} : r ∈ sortRecs s n rs ↔ r ∈ rs := (sortRecs_perm ..).mem_iff

theorem slice_append_of_le {bs cs : List Byte} {k : Nat} (h : k ≤ bs.length) : slice (bs ++ cs) 0 k = slice bs 0 k := by
  refine List.map_congr_left fun i hi => ?_
  have := List.mem_range.mp hi
  rw [zero_add, List.getD_append _ _ _ _ (by omega)]

theorem slice_flatMap_of_length {f : α → List Byte} {w : Nat} {xs : List α} (hf : ∀ x ∈ xs, (f x).length = w) {i : Nat} (hi : i < xs.length) :
    slice (xs.flatMap f) (i * w) w = f xs[i] := by
  induction xs generalizing i with
  | nil => simp at hi
  | cons x xs ih =>
    obtain ⟨rfl, htail⟩ := List.forall_mem_cons.mp hf
    cases i with
    | zero => simpa using slice_append_left (f x) (xs.flatMap f)
    | succ i => rw [List.flatMap_cons, Nat.succ_mul, add_comm, slice_append_right, ih htail (by simpa using hi), List.getElem_cons_succ]

theorem length_flatMap_of_length {f : α → List Byte} {w : Nat} {xs : List α} (hf : ∀ x ∈ xs, (f x).length = w) :
    (xs.flatMap f).length = xs.length * w := by
  rw [List.length_flatMap, List.map_congr_left hf]
  simp

theorem Spillable.length_spillBytes {r : SortRec} (h : Spillable s n r) : (spillBytes r).length = spillSize s n := by
  simp [spillBytes, h.length, spillSize]

theorem spillRec_spillable (s : State) (n : Nat) {b : List Byte} (hb : b.length = spillSize s n) : Spillable s n (spillRec s n b) where
  length := by simp [spillRec, hb, spillSize]
  source := by
    have := leNat_lt (slice b (spillSize s n - 8) 8)
    rw [length_slice] at this
    exact Nat.div_lt_of_lt_mul (by simpa [leAt] using this)
  number := Nat.mod_lt _ (by positivity)
  word := by
    have hkey : stKw s n ≤ (b.take (spillSize s n - 8)).length := by
      rw [List.length_take, hb, spillSize]
      omega
    have := slice_append_of_le (cs := b.drop (spillSize s n - 8)) hkey
    rw [List.take_append_drop] at this
    simp only [spillRec, leAt, this]

theorem Spillable.spillRec_spillBytes {r : SortRec} (h : Spillable s n r) : spillRec s n (spillBytes r) = r := by
  obtain ⟨word, src, seq, bs⟩ := r
  obtain ⟨hlen, hsrc, hseq, hword⟩ := h
  dsimp only at hlen hsrc hseq hword
  have hsize : spillSize s n - 8 = bs.length := by rw [hlen, spillSize, Nat.add_sub_cancel]
  have htag : leAt (bs ++ leBytes 8 (src * 2 ^ 56 + seq)) bs.length 8 = src * 2 ^ 56 + seq := by
    have h8 := slice_append_right bs (leBytes 8 (src * 2 ^ 56 + seq)) 0 8
    have hall := slice_append_left (leBytes 8 (src * 2 ^ 56 + seq)) []
    rw [List.append_nil, length_leBytes] at hall
    rw [leAt, ← add_zero bs.length, h8, hall, leNat_leBytes]
    omega
  have hkey : leAt (bs ++ leBytes 8 (src * 2 ^ 56 + seq)) 0 (stKw s n) = leAt bs 0 (stKw s n) :=
    congrArg leNat (slice_append_of_le (by omega))
  rw [spillRec, spillBytes, hsize, htag, hkey, List.take_left, ← hword]
  ext <;> simp <;> omega

theorem spillRecs_spillable (s : State) (n half k : Nat) : ∀ r ∈ spillRecs s n half k, Spillable s n r := by
  intro r hr
  obtain ⟨i, -, rfl⟩ := List.mem_map.mp hr
  exact spillRec_spillable s n (by simp [Mem.reads])

theorem writes_append (m : Mem) (a : Nat) (bs cs : List Byte) :
    Mem.writes m a (bs ++ cs) = Mem.writes (Mem.writes m a bs) (a + bs.length) cs := by
  induction bs generalizing m a with
  | nil => rfl
  | cons b bs ih => rw [List.cons_append, Mem.writes, ih, Mem.writes, List.length_cons, add_assoc, add_comm 1]

section
variable {half i : Nat} {rs : List SortRec} (hrs : ∀ r ∈ rs, Spillable s n r)
include hrs

theorem length_flatMap_spillBytes : (rs.flatMap spillBytes).length = rs.length * spillSize s n :=
  length_flatMap_of_length fun r hr => (hrs r hr).length_spillBytes

/-- Records written one after another are written together. -/
theorem spillPut_append (qs : List SortRec) :
    spillPut (spillPut s n half i rs) n half (i + rs.length) qs = spillPut s n half i (rs ++ qs) := by
  have hwrites := writes_append s.gran (spillBase s n half + i * spillSize s n) (rs.flatMap spillBytes) (qs.flatMap spillBytes)
  rw [length_flatMap_spillBytes hrs, add_assoc, ← Nat.add_mul] at hwrites
  rw [spillPut_eq s n half i (rs ++ qs), List.flatMap_append, hwrites]
  rfl

/-- Records written to a half are read from it. -/
theorem spillRecs_spillPut : spillRecs (spillPut s n half 0 rs) n half rs.length = rs := by
  refine List.ext_getElem (by simp) fun i hi _ => ?_
  have hi : i < rs.length := by simpa using hi
  have hbytes := length_flatMap_spillBytes hrs
  have hfit : i * spillSize s n + spillSize s n ≤ (rs.flatMap spillBytes).length := by
    rw [hbytes, ← Nat.succ_mul]
    exact Nat.mul_le_mul_right _ hi
  have hreads := reads_writes_slice s.gran (spillBase s n half) _ _ _ hfit
  rw [slice_flatMap_of_length (fun r hr => (hrs r hr).length_spillBytes) hi] at hreads
  have hget : (spillRecs (spillPut s n half 0 rs) n half rs.length)[i]'(by simpa using hi) =
      spillRec s n (Mem.reads (Mem.writes s.gran (spillBase s n half + 0 * spillSize s n) (rs.flatMap spillBytes))
        (spillBase s n half + i * spillSize s n) (spillSize s n)) := by
    simp only [spillRecs_eq, List.getElem_map, List.getElem_range]
    rfl
  rw [hget, zero_mul, add_zero, hreads, (hrs _ (List.getElem_mem hi)).spillRec_spillBytes]

/-- Bytes outside the records written read as before. -/
theorem read_spillPut_out {a : Nat} (h : a < spillBase s n half ∨ spillBase s n half + rs.length * spillSize s n ≤ a) :
    Mem.read (spillPut s n half 0 rs).gran a = Mem.read s.gran a := by
  rw [← length_flatMap_spillBytes hrs] at h
  rw [spillPut_eq, zero_mul]
  exact mem_read_writes_out _ _ _ _ h

end

/-! ## Merge passes (08 R250) -/

/-- Blocks of records, each sorted and written at its own place, are written one after another. -/
theorem foldl_spillPut_blocks {m : Nat} (hm : 0 < m) (s : State) (half i : Nat) {rs : List SortRec} (hrs : ∀ r ∈ rs, Spillable s n r) :
    (enum (blocksOf m rs)).foldl (fun u b => spillPut u n half (i + m * b.1) (sortRecs u n b.2)) s =
      spillPut s n half i ((blocksOf m rs).flatMap (sortRecs s n)) := by
  by_cases hnil : rs = []
  · rw [hnil, blocksOf_nil hm]
    rfl
  · have hpos := List.length_pos_iff.mpr hnil
    have hfirst : ∀ r ∈ sortRecs s n (rs.take m), Spillable s n r := fun r hr => hrs r (List.mem_of_mem_take (mem_sortRecs.mp hr))
    have hrest : ∀ r ∈ rs.drop m, Spillable (spillPut s n half i (sortRecs s n (rs.take m))) n r := fun r hr =>
      have h := hrs r (List.mem_of_mem_drop hr)
      ⟨h.length, h.source, h.number, h.word⟩
    have hlt : (rs.drop m).length < rs.length := by rw [List.length_drop]; omega
    have hshift (j : Nat) : i + m * (j + 1) = i + m + m * j := by ring
    have ih := foldl_spillPut_blocks hm _ half (i + m) hrest
    rw [blocksOf_of_ne_nil hm hnil, enum_cons, List.foldl_cons, List.foldl_map, List.flatMap_cons, mul_zero, add_zero, ← spillPut_append hfirst]
    simp only [hshift]
    rw [ih, length_sortRecs, List.length_take]
    by_cases hfull : m ≤ rs.length
    · rw [Nat.min_eq_left hfull]
      rfl
    · rw [List.drop_of_length_le (by omega), blocksOf_nil hm]
      rfl
termination_by rs.length

/-- The runs of a half merged in groups. -/
def mergedRuns (s : State) (n pass k : Nat) : List SortRec :=
  (blocksOf (65536 * 64 ^ pass) (spillRecs s n (pass - 1) k)).flatMap (sortRecs s n)

theorem runLength_pos (pass : Nat) : 0 < 65536 * 64 ^ pass := by positivity

@[simp] theorem length_mergedRuns (s : State) (n pass k : Nat) : (mergedRuns s n pass k).length = k :=
  (length_flatMap_blocksOf (runLength_pos pass) (length_sortRecs s n) _).trans (length_spillRecs ..)

theorem mergedRuns_spillable (s : State) (n pass k : Nat) : ∀ r ∈ mergedRuns s n pass k, Spillable s n r := by
  intro r hr
  obtain ⟨rs, hrs, hr⟩ := List.mem_flatMap.mp hr
  exact spillRecs_spillable s n _ k r (mem_of_mem_blocksOf hrs (mem_sortRecs.mp hr))

/-- Each group of 64 runs is one run of the next pass. -/
theorem mergedRuns_group (s : State) (n pass : Nat) {k i : Nat} (hi : 65536 * 64 ^ pass * i < k) :
    ((mergedRuns s n pass k).drop (65536 * 64 ^ pass * i)).take (65536 * 64 ^ pass) =
      sortRecs s n (((spillRecs s n (pass - 1) k).drop (65536 * 64 ^ pass * i)).take (65536 * 64 ^ pass)) :=
  block_of_flatMap_blocksOf (runLength_pos pass) (length_sortRecs s n) (by rwa [length_spillRecs])

section
variable {k : Nat} (hspill : (stage s n).spill = true) (hk : k = (jobRecords s n).getD 0) (hpass : (stage s n).pass ≠ 0)
  (hle : (stage s n).pass ≤ sortPasses k)
include hspill hk hpass hle

theorem mergePass_ok : mergePass n .ok s =
    modStage (spillPut s n (stage s n).pass 0 (mergedRuns s n (stage s n).pass k)) n fun x => { x with pass := x.pass + 1 } := by
  subst hk
  have hfold := foldl_spillPut_blocks (runLength_pos (stage s n).pass) s (stage s n).pass 0
    (spillRecs_spillable s n ((stage s n).pass - 1) ((jobRecords s n).getD 0))
  simp only [zero_add] at hfold
  rw [mergedRuns, ← hfold]
  simp [mergePass, hspill, hpass, hle.not_gt]

theorem mergePass_ue : mergePass n .ue s = stageAbort s n fStageUe := by
  subst hk
  simp [mergePass, hspill, hpass, hle.not_gt]

end

/-! ## What a stage sends (08 R243, R259) -/

/-- A packet of a unit, as it is lodged. -/
def unitLodged (unit : Nat) (k : Pkt) : Lodged := { port := none, unit, vl := k.vl, p := k }

theorem foldl_send (unit : Nat) (ks : List Pkt) (s : State) :
    ks.foldl (fun s k => send s unit k) s = withLodged s (ks.map (unitLodged unit)) := by
  induction ks generalizing s with
  | nil => simp [withLodged]
  | cons k ks ih =>
    rw [List.foldl_cons, ih, List.map_cons, withLodged, withLodged, List.append_cons s.ingress]
    rfl

/-- The packets of a whole output transfer. -/
def outputPkts (s : State) (n f : Nat) (bs : List Byte) : List Pkt :=
  stagePkts s n f (takeMoveSeq s (1024 + n) f).2 (stageTrailer s n f) (bs.length / 4) (bs ++ stageTrailer s n f)

/-- An output transfer as it is lodged. -/
def outputLodged (s : State) (n f : Nat) (bs : List Byte) : List Lodged := (outputPkts s n f bs).map (unitLodged (1222 + n))

theorem outputLodged_ne_nil (s : State) (n f : Nat) (bs : List Byte) : outputLodged s n f bs ≠ [] := by
  simp [outputLodged, outputPkts, stagePkts, movePkts]

theorem op_dst_of_mem_outputLodged {f : Nat} {bs : List Byte} {l : Lodged} (h : l ∈ outputLodged s n f bs) :
    l.p.op = pMoveData ∧ l.p.dst = stageDst s n f := by
  obtain ⟨p, hp, rfl⟩ := List.mem_map.mp h
  obtain ⟨i, -, rfl⟩ := List.mem_map.mp hp
  exact ⟨rfl, rfl⟩

theorem stageSend_eq (s : State) (n f : Nat) (bs : List Byte) : stageSend s n f bs =
    withLodged (takeMoveSeq s (1024 + n) f).1 (outputLodged s n f bs) := foldl_send ..

@[simp] theorem stageSend_fields (s : State) (n f : Nat) (bs : List Byte) :
    (stageSend s n f bs).ingress = s.ingress ++ outputLodged s n f bs ∧ (stageSend s n f bs).stages = s.stages ∧
    (stageSend s n f bs).plan = s.plan ∧ (stageSend s n f bs).gran = s.gran ∧ (stageSend s n f bs).fault = s.fault := by
  rw [stageSend_eq]
  and_intros <;> rfl

theorem stage_stageSend (s : State) (n f : Nat) (bs : List Byte) : stage (stageSend s n f bs) = stage s := stage_congr (by simp)

theorem stMode_stageSend (s : State) (n f : Nat) (bs : List Byte) : stMode (stageSend s n f bs) n = stMode s n := by
  simp [stMode, stFld, planRec]

/-! ## Aborts (08 R259) -/

theorem sendMarker_gran (s : State) (n : Nat) (code : Half) (f : Nat) : (sendMarker s n code f).gran = s.gran := by
  cases h : (stage s n).begun <;> simp [sendMarker, h, takeMoveSeq]

/-- The stage after an abort. -/
def stageFenced (code : Half) (x : Stage) : Stage :=
  { fenced := true, ceCount := x.ceCount, lastFault := code, jobs := x.jobs, out := x.out }

/-- An abort for another fault than the granary's sends markers, discards the inputs, fences the stage and writes its entry. -/
theorem stageAbort_eq (s : State) (n : Nat) {code : Half} (hcode : code ≠ fGranaryFail) : ∃ (u : State) (body : List Byte), u.gran = s.gran ∧
    stageAbort s n code = raiseBy (modStage u n (stageFenced code)) code uStage n kStageAbort body := by
  have hgran : ((stOuts s n).foldl (fun s f => sendMarker s n code f) s).gran = s.gran :=
    foldl_of_step (R := fun s t => t.gran = s.gran) (fun _ => rfl) (fun h k => k.trans h) (fun s f => sendMarker_gran s n code f) _ s
  exact ⟨dropInputs ((stOuts s n).foldl (fun s f => sendMarker s n code f) s) n, _, hgran, if_neg hcode⟩

/-! ## The end of a job (08 R250, R257, R262) -/

theorem modStage_congr {f g : Stage → Stage} (h : f (stage s n) = g (stage s n)) : modStage s n f = modStage s n g := by
  rw [stage] at h
  rw [modStage, modStage, Tab.upd, Tab.upd, h]

/-- What a job of `k` records puts out, and the passes it took: a sort in the run buffer, a spilled sort whose passes are over, or a winnow
that keeps. -/
def JobOutput (s : State) (n k passes : Nat) (recs : List (List Byte)) : Prop :=
  n < 8 ∧ (stage s n).spill = false ∧ passes = 0 ∧ recs = sortOutput s n ∨
    n < 8 ∧ (stage s n).spill = true ∧ passes = sortPasses k ∧ (stage s n).pass = passes + 1 ∧
      recs = (cutLimit s n (sortRecs s n (spillRecs s n passes k))).map (outRecord s n) ∨
    8 ≤ n ∧ (stage s n).spill = false ∧ passes = 0 ∧ (stage s n).taken = k ∧ stMode s n = 0 ∧ recs = (stage s n).kept

/-- The stage after a job, ready for the next. -/
def jobEnded (records : Nat) (y : Stage) : Stage :=
  { ceCount := y.ceCount, lastFault := y.lastFault, jobs := y.jobs + 1, due := y.due, resync := y.resync,
    out := y.out + BitVec.ofNat 64 records }

/-- The STAGE_DONE entry of a job (R262). -/
def jobEntry (s : State) (n k passes : Nat) (recs : List (List Byte)) : Entry :=
  { kind := kStageDone, utype := uStage, unit := n,
    body := pack 40 [(0, 4, (stage s n).jobs.toNat), (4, 1, passes), (8, 8, k), (16, 8, recs.length), (24, 8, (crop recs.flatten).toNat)] }

section
variable {k passes : Nat} {recs : List (List Byte)} (h : JobOutput s n k passes recs)
include h

theorem JobOutput.passes_eq : (if (stage s n).spill then sortPasses k else 0) = passes := by
  obtain ⟨-, hspill, hp, -⟩ | ⟨-, hspill, hp, -⟩ | ⟨-, hspill, hp, -⟩ := h <;> simp [hspill, hp]

theorem JobOutput.recs_eq : (if isWinnow n then (stage s n).kept
    else if (stage s n).spill then (cutLimit s n (sortRecs s n (spillRecs s n passes k))).map (outRecord s n)
    else sortOutput s n) = recs := by
  obtain ⟨hn, hspill, -, hr⟩ | ⟨hn, hspill, -, -, hr⟩ | ⟨hn, -, -, -, -, hr⟩ := h
  · simp [isWinnow, hn, hspill, hr]
  · simp [isWinnow, hn, hspill, hr]
  · simp [isWinnow, hn, hr]

/-- Every record of a winnow has been taken. -/
theorem JobOutput.taken_eq : (isWinnow n && (stage s n).taken != k) = false := by
  obtain ⟨hn, -⟩ | ⟨hn, -⟩ | ⟨-, -, -, htaken, -⟩ := h
  · simp [isWinnow, hn]
  · simp [isWinnow, hn]
  · simp [htaken]

/-- Every merge pass is over. -/
theorem JobOutput.pass_eq : ((stage s n).spill && (stage s n).pass != passes + 1) = false := by
  obtain ⟨-, hspill, -⟩ | ⟨-, -, -, hpass, -⟩ | ⟨-, hspill, -⟩ := h
  · simp [hspill]
  · simp [hpass]
  · simp [hspill]

/-- A winnow among these neither splits nor only counts. -/
theorem JobOutput.keeps {mode : Nat} (hmode : mode ≠ 0) : (isWinnow n && stMode s n == mode) = false := by
  obtain ⟨hn, -⟩ | ⟨hn, -⟩ | ⟨-, -, -, -, hzero, -⟩ := h
  · simp [isWinnow, hn]
  · simp [isWinnow, hn]
  · simp [hzero, hmode.symm]

theorem stageDone_of_output (hrun : (stage s n).running = true) (hfenced : (stage s n).fenced = false) (hwhole : jobWhole s n = true)
    (hk : jobRecords s n = some k) (hbegun : (stage s n).begun = none) (hsent : (stage s n).sent = 0) : stageDone n .ok s =
      tally (modStage (stageSend s n (stOut s n) recs.flatten) n (jobEnded recs.length)) (jobEntry s n k passes recs) := by
  have hfinish : stageFinish s n recs.flatten = stageSend s n (stOut s n) recs.flatten := by rw [stageFinish, hbegun]
  have hended : modStage (stageSend s n (stOut s n) recs.flatten) n (jobEnded recs.length) =
      modStage (stageSend s n (stOut s n) recs.flatten) n fun y =>
        { ceCount := y.ceCount, lastFault := y.lastFault, jobs := y.jobs + 1, due := y.due, resync := y.resync
          out := y.out + BitVec.ofNat 64 (recs.length - sentRecs (stageSend s n (stOut s n) recs.flatten) n y.sent) } :=
    modStage_congr (by simp [jobEnded, stage_stageSend, hsent, sentRecs])
  rw [hended, jobEntry]
  simp only [stageDone, hrun, hfenced, hwhole, hk, Option.getD_some, h.passes_eq, h.recs_eq, h.taken_eq, h.pass_eq, h.keeps two_ne_zero,
    h.keeps one_ne_zero, hfinish, stage_stageSend, stMode_stageSend, reduceCtorEq, Bool.not_true, Bool.or_self, Bool.false_eq_true, if_false]

end

end
end Sys2Proof.Machine

namespace Sys2Proof
open Sys2Proof.Machine Sys2Proof.Laws

theorem stageSteps : Claims.StageSteps := by
  rintro s st x hl rfl
  refine ⟨fun e es hn hsrcs hrun hcome hrb => ?_, fun k m hspill hk hpass hle hm => ⟨?_, ?_⟩⟩
  · have hexec : exec (.winnowRecord st) s = .next (winnowRecord st.val s) := event_ok hl
    refine ⟨_, hexec.trans (congrArg _ (winnowRecord_of_next hn hsrcs hrun hcome hrb rfl)), by rw [stage_modStage]; rfl,
      by rw [stage_modStage]; rfl, ?_, fun m hm => stage_modStage_ne s hm _, rfl, rfl⟩
    rintro r rfl keep hkeep
    have hkeeps : winnowKeeps ((stTab s st.val 1).map entry64) ((stTab s st.val 2).map entry64)
      (e.2.record (stRb s st.val) (stage s st.val).taken) = keep := hkeep.symm
    rw [stage_modStage, hkeeps]
    exact ⟨by rintro rfl; exact ⟨rfl, rfl⟩, by rintro rfl; exact ⟨rfl, rfl⟩⟩
  · have hexec : exec (.mergePass st .ok) s = .next (mergePass st.val .ok s) := event_ok hl
    subst hm
    have hruns := mergedRuns_spillable s st.val (stage s st.val).pass k
    have hread := spillRecs_spillPut (half := (stage s st.val).pass) hruns
    rw [length_mergedRuns] at hread
    refine ⟨_, hexec.trans (congrArg _ (mergePass_ok hspill hk hpass hle)), ?_, fun m hm => ?_, rfl, fun i hi => ?_, fun a ha => ?_⟩
    · rw [stage_modStage]
      rfl
    · rw [stage_modStage_ne _ hm]
      rfl
    · rw [← mergedRuns_group s st.val (stage s st.val).pass hi]
      exact congrArg (List.take _ <| List.drop (65536 * 64 ^ (stage s st.val).pass * i) ·) hread
    · exact read_spillPut_out hruns (by rwa [length_mergedRuns])
  · have hexec : exec (.mergePass st .ue) s = .next (mergePass st.val .ue s) := event_ok hl
    obtain ⟨u, body, hgran, habort⟩ := stageAbort_eq s st.val (code := fStageUe) (by decide)
    have hstage : stage (raiseBy (modStage u st.val (stageFenced fStageUe)) fStageUe uStage st.val kStageAbort body) st.val =
        stageFenced fStageUe (stage u st.val) := by
      rw [stage_raiseBy, stage_modStage]
    refine ⟨_, _, hexec.trans (congrArg _ ((mergePass_ue hspill hk hpass hle).trans habort)), ?_, ?_, ?_, tally_newest .., rfl, rfl, rfl, ?_⟩
    · rw [hstage]; rfl
    · rw [hstage]; rfl
    · rw [hstage]; rfl
    · simpa [raiseBy, raiseCount, auditFault_fields] using hgran

theorem stageJobsEnd : Claims.StageJobsEnd := by
  rintro s st x k passes recs hl rfl hrun hfenced hwhole hk hbegun hsent hout
  have hexec : exec (.stageDone st .ok) s = .next (stageDone st.val .ok s) := event_ok hl
  have hdone := stageDone_of_output hout hrun hfenced hwhole hk hbegun hsent
  have hstage : stage (tally (modStage (stageSend s st.val (stOut s st.val) recs.flatten) st.val (jobEnded recs.length))
      (jobEntry s st.val k passes recs)) st.val = jobEnded recs.length (stage s st.val) := by
    rw [stage_tally, stage_modStage, stage_stageSend]
  refine ⟨_, _, outputLodged s st.val (stOut s st.val) recs.flatten, hexec.trans (congrArg _ hdone), by simp,
    fun l hl => op_dst_of_mem_outputLodged hl, outputLodged_ne_nil _ _ _ _, ?_, ?_, ?_, ?_, ?_, ?_,
    tally_newest .., rfl, rfl, rfl, by simp, by simp⟩
  all_goals
    rw [hstage]
    rfl

/-- Settles O49: `winnowRecord_of_next`, `mergePass_ok` and `mergePass_ue` for the steps of a job, `stageDone_of_output` for its end. -/
theorem stageJobs : Obligations.StageJobs := ⟨stageSteps, stageJobsEnd⟩

end Sys2Proof

/-! # The field plan: O57 to O60

Each command of the plan comes, past the checks of its authority and format, to one function of the state, which is said case by case; what
follows a headland and what APPLY does before the plan block is written leave the plan as it is, operation by operation. -/

namespace Sys2Proof.Machine
open Sys2Proof Sys2Proof.Laws

/-! ## Staging slots (09 R274) -/

section
variable (p : Plan) (k : Bool) (v : SlotState)

@[simp] theorem slotSt_setSlot : slotSt (setSlot p k v) k = v := by cases k <;> rfl

@[simp] theorem slotSt_setSlot_not : slotSt (setSlot p k v) (!k) = slotSt p (!k) := by cases k <;> rfl

@[simp] theorem setSlot_cur : (setSlot p k v).cur = p.cur := by cases k <;> rfl

@[simp] theorem setSlot_digest : (setSlot p k v).digest = p.digest := by cases k <;> rfl

@[simp] theorem setSlot_arms : (setSlot p k v).arms = p.arms := by cases k <;> rfl

end

section
variable {s : State} {slot : Bool}

theorem slotWrite_of_locked (h : slotLocked (slotSt s.plan slot) = true) (off : Nat) (bs : List Byte) : slotWrite s slot off bs =
    modPlan s fun p => { p with lockedWrites := satInc p.lockedWrites } := if_pos h

theorem slotWrite_of_open (h : slotLocked (slotSt s.plan slot) = false) (off : Nat) (bs : List Byte) : slotWrite s slot off bs =
    modPlan { s with gran := Mem.writes s.gran (loftBase slot + off) bs } fun p => setSlot p slot .staged := if_neg (by simp [h])

/-- What PLAN_STAGE and PLAN_WRITE come to with bytes that lie in the slot. -/
def staging (c : Cmd) (op : Half) (slot : Bool) (off : Nat) (bs : List Byte) (s : State) : State :=
  if !loftUp s then cmdDone s c op stUnitState
  else if slotLocked (slotSt s.plan slot) then cmdDone (slotWrite s slot off []) c op stSlotState
  else cmdDone (slotWrite s slot off bs) c op stOk

theorem exec_planStage {c : Cmd} {bytes : List Byte} (hl : s.live) (hc : c.passes oPlanStage [(0, 8), (8, 4), (12, 4)])
    (haddr : c.u 0 8 % 8 = 0) (hlen : c.u 8 4 % 8 = 0) (hpos : 8 ≤ c.u 8 4) (hoff : c.u 12 4 % 8 = 0) (hfits : c.u 12 4 + c.u 8 4 ≤ 2 ^ 28) :
    exec (.planStage c bytes .done) s = .next (staging c oPlanStage false (c.u 12 4) (bytes.take (c.u 8 4)) s) := by
  have hok : (c.u 0 8 % 8 == 0 && c.u 8 4 % 8 == 0 && decide (8 ≤ c.u 8 4) && decide (c.u 8 4 ≤ 268435456) && c.u 12 4 % 8 == 0) = true := by
    have : c.u 8 4 ≤ 268435456 := by omega
    simp [haddr, hlen, hpos, hoff, this]
  change onCmd _ c _ _ s (planStage c bytes .done) = _
  rw [hok, onCmd_ok hl hc, planStage, if_neg (by omega)]
  rfl

theorem exec_planWrite {c : Cmd} (hl : s.live) (hc : c.passes oPlanWrite [(0, 4), (4, 2)]) (hoff : c.u 0 4 % 8 = 0) (hlen : c.u 4 2 % 8 = 0)
    (hpos : 8 ≤ c.u 4 2) (hmax : c.u 4 2 ≤ 3968) (hdata : c.data.length = c.u 4 2) (hfits : c.u 0 4 + c.u 4 2 ≤ 2 ^ 28) :
    exec (.planWrite c) s = .next (staging c oPlanWrite true (c.u 0 4) (c.data.take (c.u 4 2)) s) := by
  have hok : (c.u 0 4 % 8 == 0 && c.u 4 2 % 8 == 0 && decide (8 ≤ c.u 4 2) && decide (c.u 4 2 ≤ 3968) &&
      decide (c.data.length = c.u 4 2)) = true := by simp [hoff, hlen, hpos, hmax, hdata]
  change onCmd _ c _ _ s (planWrite c) = _
  rw [hok, onCmd_ok hl hc, planWrite, if_neg (by omega)]
  rfl

end

end Sys2Proof.Machine

namespace Sys2Proof
open Sys2Proof.Machine Sys2Proof.Laws

/-- Settles O57: both commands are `staging`, whose cases are those of `slotWrite`. -/
theorem planStaging : Obligations.PlanStaging := by
  intro s c bytes i op slot off bs st hl hi
  have hexec : exec i s = .next (staging c op slot off bs s) ∧ st = stOk := by
    obtain ⟨rfl, rfl, rfl, rfl, rfl, hc, haddr, hlen, hpos, hoff, hfits, rfl⟩ |
      ⟨rfl, rfl, rfl, rfl, rfl, hc, hoff, hlen, hpos, hmax, hdata, hfits, rfl⟩ := hi
    · exact ⟨exec_planStage hl hc haddr hlen hpos hoff hfits, rfl⟩
    · exact ⟨exec_planWrite hl hc hoff hlen hpos hmax hdata hfits, rfl⟩
  obtain ⟨hexec, rfl⟩ := hexec
  rw [hexec, staging]
  refine ⟨fun hloft => ?_, fun hloft hlocked => ?_, fun hloft hopen => ?_⟩
  · simp [hloft]
  · refine ⟨slotWrite s slot off [], by simp [hloft, hlocked], ?_⟩
    rw [slotWrite_of_locked hlocked]
    exact ⟨rfl, rfl, rfl⟩
  · refine ⟨slotWrite s slot off bs, by simp [hloft, hopen], ?_⟩
    rw [slotWrite_of_open hopen]
    exact ⟨slotSt_setSlot .., slotSt_setSlot_not .., fun j h => mem_read_writes _ _ j bs h, fun a ha => mem_read_writes_out _ _ a bs ha,
      setSlot_cur .., rfl⟩

end Sys2Proof

namespace Sys2Proof.Machine
open Sys2Proof Sys2Proof.Laws

/-! ## Commands on a slot (09 R273) -/

section
variable {s : State} {c : Cmd} {op : Half} {fmt : List (Nat × Nat)} {f : State → State}

theorem onSlot_ok (hl : s.live) (hc : c.passes op fmt) (hslot : c.u 0 1 ≤ 1) (hauth : slotAuth op c = true) :
    onSlot op c fmt true s f = .next (f s) := by
  rw [onSlot, if_neg (by simp [hauth]), decide_eq_true hslot]
  exact onCmd_ok hl hc

theorem onSlot_denied (hl : s.live) (hc : c.passes op fmt) (hslot : c.u 0 1 ≤ 1) (hauth : slotAuth op c = false) (ok : Bool) :
    onSlot op c fmt ok s f = .next (cmdDone s c op stAuthority) := by
  obtain ⟨hlen, -, hmay, -⟩ := hc
  exact if_pos (by simp [hl.1, hlen, hmay, hslot, hauth])

/-- OPERATOR has authority over slot 0, OWNER over slot 1. -/
theorem slotAuth_of_own (h : (c.auth = .operator ∧ cmdSlot c = false) ∨ (c.auth = .owner ∧ cmdSlot c = true)) (hslot : c.u 0 1 ≤ 1) :
    slotAuth op c = true := by
  obtain ⟨hauth, hk⟩ | ⟨hauth, hk⟩ := h
  · have : c.u 0 1 = 0 := by simp [cmdSlot] at hk; omega
    simp [slotAuth, hauth, this]
  · have : c.u 0 1 = 1 := by simpa [cmdSlot] using hk
    simp [slotAuth, hauth, this]

/-! ## Completion -/

theorem newest_pendDone (s : State) (q : Word) : newest { s with host := pendDone s.host q } = newest s := by
  have htally (h : HostPort) : (pendDone h q).tally = h.tally := by
    unfold pendDone
    dsimp only
    repeat' split
    all_goals simp [setVec_tally]
  exact congrArg List.getLast? (htally s.host)

/-- The entry that completes a command is the newest, whoever issued it. -/
theorem newest_complete (h : c.auth = .operator ∨ c.auth = .owner) (s : State) (e : Entry) :
    ∃ x, newest (complete s c e) = some x ∧ x.kind = e.kind ∧ x.ref = c.seq ∧ x.fault = e.fault ∧ x.body = e.body := by
  obtain h | h := h
  · refine ⟨({ e with cmd := true, ref := c.seq }.make s), ?_, rfl, rfl, rfl, rfl⟩
    simp only [complete, h]
    exact (newest_pendDone ..).trans (tally_newest ..)
  · exact ⟨_, newest_complete_owner h, rfl, rfl, rfl, rfl⟩

end

/-! ## Validation (09 R274 to R278) -/

section
variable {s : State} {c : Cmd} {k : Bool}

theorem planValidate_of_open (hloft : loftUp s = true) (h : slotSt s.plan (cmdSlot c) ∈ [SlotState.staged, .valid, .invalid, .committed]) :
    planValidate c s =
      modPlan s fun p => { setSlot p (cmdSlot c) .validating with validating := p.validating ++ [(cmdSlot c, c)] } := by
  rw [planValidate, if_neg (by simp [hloft]), if_pos (List.contains_iff_mem.mpr h)]

theorem planValidate_of_closed (hloft : loftUp s = true) (h : slotSt s.plan (cmdSlot c) ∉ [SlotState.staged, .valid, .invalid, .committed]) :
    planValidate c s = cmdDone s c oPlanValidate stSlotState := by
  rw [planValidate, if_neg (by simp [hloft]), if_neg (mt List.contains_iff_mem.mp h)]

theorem planValidated_of_none (h : ∀ v ∈ s.plan.validating, v.1 ≠ k) : planValidated k s = s := by
  have : s.plan.validating.find? (fun v => v.1 == k) = none := List.find?_eq_none.mpr fun v hv => by simpa using h v hv
  simp only [planValidated, this]

/-- Entries written leave the plan and the granary. -/
theorem foldl_tally_fields {α : Type*} (f : α → Entry) (l : List α) (s : State) :
    (l.foldl (fun s a => tally s (f a)) s).plan = s.plan ∧ (l.foldl (fun s a => tally s (f a)) s).gran = s.gran :=
  foldl_of_step (R := fun s t => t.plan = s.plan ∧ t.gran = s.gran) (fun _ => ⟨rfl, rfl⟩) (fun h h' => ⟨h'.1.trans h.1, h'.2.trans h.2⟩)
    (fun _ _ => by simp) l s

/-- The plan block after a validation that found `errs`. -/
structure Validated (s : State) (k : Bool) (errs : List PErr) (p : Plan) : Prop where
  slot : slotSt p k = if errs.isEmpty then .valid else .invalid
  errors : p.errors = BitVec.ofNat 8 (min errs.length 255)
  cur : p.cur = s.plan.cur
  digest : p.digest = s.plan.digest

/-- The entry of a validation that found `errs` (09 R276). -/
def validatedEntry (unit : Nat) (errs : List PErr) (digest : List Byte) : Entry :=
  { kind := kPlanValidated, utype := uPlan, unit, body := pack 8 [(0, 1, if errs.isEmpty then 0 else 1), (1, 1, min errs.length 255)] ++ digest }

theorem planValidated_of_running {rest : List (Bool × Cmd)} (h : s.plan.validating = (k, c) :: rest) :
    ∃ u unit digest, planValidated k s = complete u c (validatedEntry unit (validate s k) digest) ∧
      Validated s k (validate s k) u.plan ∧ u.gran = s.gran := by
  have hfind : s.plan.validating.find? (fun v => v.1 == k) = some (k, c) := by simp [h]
  simp only [planValidated, hfind]
  generalize validate s k = errs
  refine ⟨_, _, _, rfl, ?_, (foldl_tally_fields ..).2⟩
  rw [(foldl_tally_fields ..).1]
  exact ⟨by cases k <;> rfl, rfl, by simp, by simp⟩

end

end Sys2Proof.Machine

namespace Sys2Proof
open Sys2Proof.Machine Sys2Proof.Laws

/-- Settles O58: `onSlot_denied` for the authority over slot 1, `planValidated_of_running` for the end of a validation. -/
theorem planValidation : Obligations.PlanValidation := by
  intro s c k hl hk
  obtain rfl : k = cmdSlot c := hk
  refine ⟨fun hc hslot hloft => ?_, fun slot hnone => ?_, fun rest hrun hauth => ?_⟩
  · refine ⟨fun hauth hk => onSlot_denied hl hc hslot ?_ true, fun hown => ?_⟩
    · have : c.u 0 1 = 1 := by simpa [cmdSlot] using hk
      simp [slotAuth, hauth, this]
    have hexec : exec (.planValidate c) s = .next (planValidate c s) := onSlot_ok hl hc hslot (slotAuth_of_own hown hslot)
    rw [hexec]
    exact ⟨fun hopen => ⟨_, congrArg _ (planValidate_of_open hloft hopen), slotSt_setSlot ..,
      slotSt_setSlot_not .., rfl, setSlot_cur .., rfl, rfl⟩,
      fun hclosed => congrArg _ (planValidate_of_closed hloft hclosed)⟩
  · have hexec : exec (.planValidated slot) s = .next (planValidated slot s) := event_ok hl
    rw [hexec, planValidated_of_none hnone]
  · have hexec : exec (.planValidated (cmdSlot c)) s = .next (planValidated (cmdSlot c) s) := event_ok hl
    obtain ⟨u, unit, digest, hend, hplan, hgran⟩ := planValidated_of_running hrun
    obtain ⟨x, hnewest, hkind, href, -, hbody⟩ := newest_complete hauth u (validatedEntry unit (validate s (cmdSlot c)) digest)
    refine ⟨_, x, hexec.trans (congrArg _ hend), hnewest, hkind, href, fun hnil => ?_, fun herrs => ?_, ?_⟩
    all_goals simp only [complete_fields, hbody]
    · exact ⟨by simp [hplan.slot, hnil], by simp [validatedEntry, hnil, pack], by simp [hplan.errors, hnil]⟩
    · refine ⟨by simp [hplan.slot, herrs], by simp [validatedEntry, herrs, pack], ?_⟩
      rw [hplan.errors, BitVec.toNat_ofNat, Nat.mod_eq_of_lt (by omega)]
    · exact ⟨hplan.cur, hplan.digest, hgran⟩

end Sys2Proof

namespace Sys2Proof.Machine
open Sys2Proof Sys2Proof.Laws

/-! ## Commits (09 R283, R284, R287, R288, R291) -/

/-- The commit that PLAN_COMMIT makes pending for a FULL image of digest `dg`. -/
def pendingCommit (c : Cmd) (dg : List Byte) : Commit :=
  { slot := cmdSlot c, delta := false, headland := c.u 8 8, limitMs := c.u 2 2, owner := c.auth == .owner, cmd := c, digest := dg }

section
variable {s : State} {c : Cmd}

theorem planCommit_of_format (hplanned : s.plan.planned = false) (h : c.u 8 8 ≠ 1 ∨ imgDelta (imgWord s (cmdSlot c)) = true) :
    planCommit c s = cmdDone s c oPlanCommit stFormat :=
  if_pos (by obtain h | h := h <;> simp [hplanned, h])

variable (hplanned : s.plan.planned = true)
include hplanned

theorem planCommit_of_slotState (hslot : slotSt s.plan (cmdSlot c) ≠ .valid) : planCommit c s = cmdDone s c oPlanCommit stSlotState := by
  rw [planCommit, if_neg (by simp [hplanned]), if_pos (by simpa using hslot)]

variable (hslot : slotSt s.plan (cmdSlot c) = .valid)
include hslot

theorem planCommit_of_stale (hpast : c.u 8 8 ≤ now s) : planCommit c s = cmdDone s c oPlanCommit stStaleHeadland := by
  rw [planCommit, if_neg (by simp [hplanned]), if_neg (by simp [hslot]), if_pos hpast]

variable (hahead : now s < c.u 8 8)
include hahead

theorem planCommit_of_busy (hcommit : s.plan.commit.isSome = true) (hauth : c.auth = .operator) :
    planCommit c s = cmdDone s c oPlanCommit stPlanBusy := by
  obtain ⟨m, hm⟩ := Option.isSome_iff_exists.mp hcommit
  rw [planCommit, if_neg (by simp [hplanned]), if_neg (by simp [hslot]), if_neg (by omega), if_pos (by simp [hm, hauth])]

theorem planCommit_of_free {dg : List Byte} (hcommit : s.plan.commit = none) (hinfo : s.plan.slotInfo = [(cmdSlot c, false, dg)])
    (hdelta : imgDelta (imgWord s (cmdSlot c)) = false) : planCommit c s = modPlan s fun p => { setSlot p (cmdSlot c) .pending with
      phase := .load, pendHeadland := BitVec.ofNat 64 (c.u 8 8), commit := some (pendingCommit c dg) } := by
  have hnow : ¬ c.u 8 8 ≤ now s := by omega
  simp [planCommit, hplanned, hslot, hnow, hcommit, hinfo, hdelta, modPlan, pendingCommit]

end

/-! ### The end of LOAD -/

theorem commitLoadEnd_of_none {s : State} (h : s.plan.commit = none) : commitLoadEnd s = s := by simp only [commitLoadEnd, h]

theorem commitLoadEnd_of_full {s : State} {m : Commit} (h : s.plan.commit = some m) (hphase : s.plan.phase = .load) (hdelta : m.delta = false) :
    commitLoadEnd s = modPlan s fun p =>
      { p with phase := .armed, commit := some { m with bank := (candidate s (imgWord s m.slot)).map (·.r) } } := by
  simp only [commitLoadEnd, h, hphase, hdelta, if_true, Bool.false_eq_true, if_false]

/-! ### A pending commit ends before its flip -/

/-- The plan is as it was in `s` but for the pending commit `m`, which has gone and left its slot in `st`. -/
structure Withdrawn (s : State) (m : Commit) (st : SlotState) (t : State) : Prop where
  slot : slotSt t.plan m.slot = st
  commit : t.plan.commit = none
  phase : t.plan.phase = .none
  cur : t.plan.cur = s.plan.cur
  host : t.host = s.host
  gran : t.gran = s.gran
  fault : t.fault = s.fault

section
variable (s : State) (m : Commit) (st : SlotState)

theorem withdraw_withdrawn : Withdrawn s m st (withdraw s m st) where
  slot := by cases hk : m.slot <;> simp [withdraw, settleQuiesce, slotSt, setSlot, hk]
  commit := rfl
  phase := rfl
  cur := setSlot_cur ..
  host := rfl
  gran := rfl
  fault := rfl

/-- The entry of a commit that is abandoned (09 R287). -/
def abandonedEntry (m : Commit) (code : Half) (cond : Nat) : Entry :=
  { kind := kPlanAbandoned, utype := uPlan, unit := m.slot.toNat + m.delta.toNat * 2, fault := code
    body := pack 40 [(0, 8, m.headland), (8, 1, cond)] }

theorem abandon_eq (code : Half) (cond : Nat) :
    ∃ u, abandon s m st code cond = complete u m.cmd (abandonedEntry m code cond) ∧ Withdrawn s m st u := by
  obtain ⟨hslot, hcommit, hphase, hcur, hhost, hgran, hfault⟩ := withdraw_withdrawn s m st
  exact ⟨_, rfl, hslot, hcommit, hphase, hcur, hhost, hgran, hfault⟩

end

section
variable {s : State} {m : Commit}

theorem planLoftUe_of_none (h : s.plan.commit = none) : planLoftUe s = s := by simp only [planLoftUe, h]

/-- The loft's error as it is counted, before the commit ends. -/
def loftUeCounted (s : State) (m : Commit) : State :=
  modPlan (raiseCount s fPlanLoftUe uPlan (m.slot.toNat + m.delta.toNat * 2)) fun p => { p with lastFault := fPlanLoftUe }

theorem planLoftUe_of_load (h : s.plan.commit = some m) (hphase : s.plan.phase = .load) :
    planLoftUe s = abandon (loftUeCounted s m) m .invalid fPlanLoftUe 0 := by
  simp only [planLoftUe, h, hphase, if_true]
  rfl

theorem planCancel_of_none {c : Cmd} (h : s.plan.commit = none) : planCancel c s = cmdDone s c oPlanCancel stOk := by
  simp only [planCancel, h]

theorem planCancel_of_pending {c : Cmd} (h : s.plan.commit = some m) (hslot : m.slot = cmdSlot c) (hphase : s.plan.phase ≠ .apply) :
    planCancel c s = cmdDone (cmdDone (withdraw s m .valid) m.cmd oPlanCommit stCancelled) c oPlanCancel stOk := by
  have : (m.slot == cmdSlot c && s.plan.phase != .apply) = true := by simp [hslot, hphase]
  simp only [planCancel, h, this, if_true]

end

end Sys2Proof.Machine

namespace Sys2Proof
open Sys2Proof.Machine Sys2Proof.Laws

/-- Settles O59: `planCommit` in the order of its statuses; a commit that ends before its flip is `Withdrawn`. -/
theorem commitLife : Obligations.CommitLife := by
  intro s c k hl hk hle hown
  obtain rfl : k = cmdSlot c := hk
  have hcommitLoadEnd : exec .commitLoadEnd s = .next (commitLoadEnd s) := event_ok hl
  have hplanLoftUe : exec .planLoftUe s = .next (planLoftUe s) := event_ok hl
  refine ⟨fun hc hms => ?_, fun hnone => ?_, fun m hm hphase hdelta => ⟨?_, fun hauth => ?_⟩, fun hc => ?_⟩
  · have hexec : exec (.planCommit c) s = .next (planCommit c s) := by
      change onSlot _ c _ _ s (planCommit c) = _
      rw [decide_eq_true hms, onSlot_ok hl hc hle (slotAuth_of_own hown hle)]
    rw [hexec]
    refine ⟨fun hplanned h => ?_, fun hplanned hslot => ?_, fun hplanned hslot hpast => ?_, fun hplanned hslot hahead hbusy hauth => ?_,
      fun dg hplanned hslot hahead hfree hinfo hdelta => ?_⟩
    · rw [planCommit_of_format hplanned h]
    · rw [planCommit_of_slotState hplanned hslot]
    · rw [planCommit_of_stale hplanned hslot hpast]
    · rw [planCommit_of_busy hplanned hslot hahead hbusy hauth]
    · rw [planCommit_of_free hplanned hslot hahead hfree hinfo hdelta]
      refine ⟨_, _, rfl, slotSt_setSlot .., rfl, rfl, rfl, rfl, rfl, rfl, rfl, ?_, setSlot_arms .., setSlot_cur ..,
        rfl, rfl⟩
      exact Nat.mod_eq_of_lt (leAt_lt ..)
  · rw [hcommitLoadEnd, hplanLoftUe, commitLoadEnd_of_none hnone, planLoftUe_of_none hnone]
    exact ⟨rfl, rfl⟩
  · rw [hcommitLoadEnd, commitLoadEnd_of_full hm hphase hdelta]
    exact ⟨_, _, rfl, rfl, rfl, rfl, rfl, rfl⟩
  · obtain ⟨u, hend, hgone⟩ := abandon_eq (loftUeCounted s m) m .invalid fPlanLoftUe 0
    obtain ⟨x, hnewest, hkind, href, hfault, -⟩ := newest_complete (.inl hauth) u (abandonedEntry m fPlanLoftUe 0)
    rw [hplanLoftUe, planLoftUe_of_load hm hphase, hend]
    refine ⟨_, x, rfl, ?_, ?_, ?_, hnewest, hkind, hfault, href, ?_, ?_⟩
    all_goals simp only [complete_fields, hgone.phase, hgone.commit, hgone.slot, hgone.cur, hgone.fault]
    · simp [loftUeCounted, raiseCount, auditFault_fields]
    · exact countFault_lastCode ..
  · have hexec : exec (.planCancel c) s = .next (planCancel c s) := onSlot_ok hl hc hle (slotAuth_of_own hown hle)
    rw [hexec]
    refine ⟨fun hnone => congrArg _ (planCancel_of_none hnone), fun m hm hslot hphase => ?_⟩
    obtain ⟨hst, hcommit, -, hcur, hhost, -, -⟩ := withdraw_withdrawn s m .valid
    exact ⟨_, congrArg _ (planCancel_of_pending hm hslot hphase), hslot ▸ hst, hcommit, hcur, hhost⟩

end Sys2Proof

namespace Sys2Proof.Machine
open Sys2Proof Sys2Proof.Laws

/-! ## Operations that leave the plan block as it is

What a headland and APPLY do to units other than the plan runs through most operations of the device. One lemma an operation, in the
model's order, says that the plan block is not among what it changes. -/

@[simp] theorem plan_ite (c : Prop) [Decidable c] (s t : State) : (if c then s else t).plan = if c then s.plan else t.plan :=
  apply_ite ..

@[simp] theorem foldl_plan {α : Type*} {f : State → α → State} (hf : ∀ s a, (f s a).plan = s.plan) (l : List α) (s : State) :
    (l.foldl f s).plan = s.plan :=
  foldl_of_step (R := fun s t => t.plan = s.plan) (fun _ => rfl) (fun h h' => h'.trans h) hf l s

/-- The same of a fold that carries a value beside the state. -/
@[simp] theorem foldl_fst_plan {α β : Type*} {f : State × β → α → State × β} (hf : ∀ r a, (f r a).1.plan = r.1.plan) (l : List α)
    (r : State × β) : (l.foldl f r).1.plan = r.1.plan := by
  induction l generalizing r with
  | nil => rfl
  | cons a l ih => rw [List.foldl_cons, ih, hf]

/-! ### Machine/Ops -/

@[simp] theorem auditFault_plan (s code) : (auditFault s code).plan = s.plan := by simp [auditFault_fields]
@[simp] theorem raiseCount_plan (s code ut unit) : (raiseCount s code ut unit).plan = s.plan := by simp [raiseCount]
@[simp] theorem raiseBy_plan (s code ut unit kind body n) : (raiseBy s code ut unit kind body n).plan = s.plan := by simp [raiseBy]
@[simp] theorem provTouch_plan (s a n) : (provTouch s a n).plan = s.plan := by simp [provTouch]

@[simp] theorem originate_plan (s unit dst vl op seq fcid payload) : (originate s unit dst vl op seq fcid payload).plan = s.plan := by
  simp [originate]

@[simp] theorem mgtCount_plan (s op) : (mgtCount s op).plan = s.plan := by simp [mgtCount]

/-! ### Machine/Ports -/

@[simp] theorem creditFlit_plan (s n) : (creditFlit s n).plan = s.plan := by simp [creditFlit]
@[simp] theorem returnCredits_plan (s n vl f) : (returnCredits s n vl f).plan = s.plan := by simp [returnCredits]
@[simp] theorem transmit_plan (s w) : (transmit s w).plan = s.plan := by simp [transmit]

/-! ### Machine/Inn -/

@[simp] theorem sendPfc_plan (s n mask off) : (sendPfc s n mask off).plan = s.plan := by simp [sendPfc]
@[simp] theorem settlePfc_plan (s n) : (settlePfc s n).plan = s.plan := by simp [settlePfc]

/-- A granted room is entered in the switch core alone. -/
theorem tryRoom_plan {s w t} (h : tryRoom s w = some t) : t.plan = s.plan := by
  unfold tryRoom at h
  split at h
  · split at h
    · cases h
    · split at h
      · obtain ⟨c, -, rfl⟩ := Option.map_eq_some_iff.mp h
        rfl
      · cases h
  · cases h

@[simp] theorem retryRooms_plan (die inn k s) : (retryRooms die inn k s).plan = s.plan := by
  induction k generalizing s with
  | zero => rfl
  | succ k ih =>
    unfold retryRooms
    split
    · rfl
    · next t ht =>
      obtain ⟨v, -, hv⟩ := List.exists_of_findSome?_eq_some ht
      obtain ⟨u, hu, huv⟩ := Option.map_eq_some_iff.mp hv
      cases huv
      simp [ih, tryRoom_plan hu]

@[simp] theorem settleDie_plan (s die) : (settleDie s die).plan = s.plan := by simp [settleDie]

/-! ### Machine/MemberPort -/

@[simp] theorem sendCol_plan (s unit dst op seq coll payload) : (sendCol s unit dst op seq coll payload).plan = s.plan := by simp [sendCol]
@[simp] theorem abortTo_plan (s unit dev coll i range code) : (abortTo s unit dev coll i range code).plan = s.plan := by simp [abortTo]

@[simp] theorem askAbort_plan (s unit coll code) : (askAbort s unit coll code).plan = s.plan := by
  unfold askAbort
  split <;> simp

@[simp] theorem useCredits_plan (s owner sink n) : (useCredits s owner sink n).plan = s.plan := by simp [useCredits]
@[simp] theorem giveCredit_plan (s coll slot dst count) : (giveCredit s coll slot dst count).plan = s.plan := by simp [giveCredit]
@[simp] theorem spendChunk_plan (s o) : (spendChunk s o).plan = s.plan := by simp [spendChunk]
@[simp] theorem sendChunk_plan (s o) : (sendChunk s o).plan = s.plan := by simp [sendChunk]
@[simp] theorem settleCopies_plan (s) : (settleCopies s).plan = s.plan := by simp [settleCopies]
@[simp] theorem modWaits_plan (s f) : (modWaits s f).plan = s.plan := by simp [modWaits]

@[simp] theorem dropRef_plan (s id) : (dropRef s id).1.plan = s.plan := by
  unfold dropRef
  split <;> simp

@[simp] theorem openRows_plan (s member b) : (openRows s member b).plan = s.plan := by simp [openRows]

@[simp] theorem streamPairsOut_plan (s owner src f coll prs) : (streamPairsOut s owner src f coll prs).plan = s.plan := by
  unfold streamPairsOut
  split <;> simp

@[simp] theorem chunkCredit_plan (s n f p) : (chunkCredit s n f p).1.plan = s.plan := by
  unfold chunkCredit
  split <;> simp

@[simp] theorem portData_plan (s n p) : (portData s n p).1.plan = s.plan := by
  unfold portData
  dsimp only
  (repeat' split) <;> simp

@[simp] theorem portCol_plan (s n p) : (portCol s n p).1.plan = s.plan := by simp [portCol]
@[simp] theorem endSenders_plan (s f coll mine) : (endSenders s f coll mine).plan = s.plan := by simp [endSenders]

/-! ### Machine/Sched -/

@[simp] theorem settleDeficit_plan (s n q) : (settleDeficit s n q).plan = s.plan := by simp [settleDeficit]

/-! ### Machine/Route -/

@[simp] theorem releaseEdge_plan (s n pcp cells) : (releaseEdge s n pcp cells).plan = s.plan := by simp [releaseEdge]

@[simp] theorem releaseLodging_plan (s n vl pcp it) : (releaseLodging s n vl pcp it).plan = s.plan := by
  unfold releaseLodging
  (repeat' split) <;> simp

@[simp] theorem releaseRef_plan (s copy n vl pcp it) : (releaseRef s copy n vl pcp it).plan = s.plan := by
  unfold releaseRef
  split <;> simp

@[simp] theorem dropQueued_plan (s u) : (dropQueued s u).plan = s.plan := by
  unfold dropQueued
  split <;> simp

@[simp] theorem requeuePort_plan (s n) : (requeuePort s n).plan = s.plan := by
  unfold requeuePort
  dsimp only
  rw [foldl_plan fun s q => settleDeficit_plan s n q]
  exact foldl_plan (fun s u => by split <;> simp) _ s

@[simp] theorem escapeLost_plan (s) : (escapeLost s).plan = s.plan := by simp [escapeLost]

/-! ### Machine/Coll -/

@[simp] theorem endService_plan (s f lead) : (endService s f lead).plan = s.plan := by simp [endService]
@[simp] theorem dropColl_plan (s f n coll) : (dropColl s f n coll).plan = s.plan := by simp [dropColl]

@[simp] theorem sendOutcome_plan (s f n coll idx h half status code) : (sendOutcome s f n coll idx h half status code).plan = s.plan := by
  simp [sendOutcome]

@[simp] theorem abortAt_plan (s f n h i code) : (abortAt s f n h i code).plan = s.plan := by
  unfold abortAt
  split <;> simp

@[simp] theorem nodeAbort_plan (s f n h i coll code) : (nodeAbort s f n h i coll code).plan = s.plan := by
  unfold nodeAbort
  split <;> simp

@[simp] theorem slotFault_plan (s f n slot h i coll code) : (slotFault s f n slot h i coll code).plan = s.plan := by simp [slotFault]

@[simp] theorem completeColl_plan (s f n) : (completeColl s f n).plan = s.plan := by
  unfold completeColl
  dsimp only
  split <;> simp

@[simp] theorem passGrant_plan (s f n b g) : (passGrant s f n b g).plan = s.plan := by simp [passGrant]

@[simp] theorem tallyRound_plan (s f n) : (tallyRound s f n).plan = s.plan := by
  unfold tallyRound
  dsimp only
  split <;> simp

@[simp] theorem memberLost_plan (s f n) : (memberLost s f n).plan = s.plan := by
  unfold memberLost
  dsimp only
  split <;> simp

@[simp] theorem serveNext_plan (k s f n) : (serveNext k s f n).plan = s.plan := by
  induction k generalizing s with
  | zero => rfl
  | succ k ih =>
    unfold serveNext
    dsimp only
    split <;> simp [ih]

@[simp] theorem answerBelow_plan (s f n b) : (answerBelow s f n b).plan = s.plan := by simp [answerBelow]

@[simp] theorem collOnHedge_plan (s) : (collOnHedge s).plan = s.plan := by
  refine foldl_plan (fun s f => ?_) _ s
  rw [plan_ite, foldl_plan fun s n => ?_, ite_self]
  dsimp only
  split <;> simp

/-! ### Machine/PlotCore -/

@[simp] theorem plotAbort_plan (s p u code i) : (plotAbort s p u code i).plan = s.plan := by
  unfold plotAbort
  dsimp only
  split <;> simp

@[simp] theorem zeroBank_plan (s p b wasTainted) : (zeroBank s p b wasTainted).plan = s.plan := by simp [zeroBank]
@[simp] theorem scratchCe_plan (s p) : (scratchCe s p).plan = s.plan := by simp [scratchCe]

/-! ### Machine/PlotArray -/

@[simp] theorem digAbsorb_plan (p k m s) : (digAbsorb p k m s).plan = s.plan := by
  induction m generalizing s with
  | zero => rfl
  | succ m ih =>
    unfold digAbsorb
    dsimp only
    (repeat' split) <;> simp [ih]

@[simp] theorem digSettle_plan (p s) : (digSettle p s).plan = s.plan := by simp [digSettle]

/-! ### Machine/PlotXfer -/

@[simp] theorem popXfer_plan (p s) : (popXfer p s).plan = s.plan := by
  unfold popXfer
  split <;> simp

@[simp] theorem failXfer_plan (s p t u code) : (failXfer s p t u code).plan = s.plan := by simp [failXfer]
@[simp] theorem feedTap_plan (s p t bs tn) : (feedTap s p t bs tn).plan = s.plan := by simp [feedTap]
@[simp] theorem leaked_plan (s p t leak) : (leaked s p t leak).plan = s.plan := by simp [leaked]
@[simp] theorem modHead_plan (s p f) : (modHead s p f).plan = s.plan := by simp [modHead]
@[simp] theorem gloadLine_plan (s p t l) : (gloadLine s p t l).plan = s.plan := by simp [gloadLine]
@[simp] theorem gstoreDone_plan (s p t) : (gstoreDone s p t).plan = s.plan := by simp [gstoreDone]
@[simp] theorem plotSend_plan (s p k) : (plotSend s p k).plan = s.plan := by simp [plotSend]
@[simp] theorem takeMoveSeq_plan (s sender f) : (takeMoveSeq s sender f).1.plan = s.plan := by simp [takeMoveSeq]
@[simp] theorem plotTransfer_plan (s p f total et bs) : (plotTransfer s p f total et bs).plan = s.plan := by simp [plotTransfer]
@[simp] theorem msendDone_plan (s p t) : (msendDone s p t).plan = s.plan := by simp [msendDone]
@[simp] theorem waybillDone_plan (s p t) : (waybillDone s p t).plan = s.plan := by simp [waybillDone]

@[simp] theorem csendDone_plan (s p t) : (csendDone s p t).plan = s.plan := by
  unfold csendDone
  dsimp only
  split <;> simp

@[simp] theorem readDone_plan (s p t) : (readDone s p t).plan = s.plan := by
  unfold readDone
  cases t.kind <;> simp

@[simp] theorem fabricCycle_plan (s p) : (fabricCycle p s).plan = s.plan := by
  unfold fabricCycle
  dsimp only
  (repeat' split) <;> simp

/-! ### Machine/PlotTime -/

@[simp] theorem opFault_plan (s p o u code i) : (opFault s p o u code i).plan = s.plan := by
  unfold opFault
  split <;> simp

@[simp] theorem doAcc_plan (p k s a) : (doAcc p k s a).plan = s.plan := by
  unfold doAcc
  dsimp only
  (repeat' split) <;> simp

/-- The fold of a cycle over the operations of a plot carries the ports in use beside the state. -/
@[simp] theorem opCycle_plan (p a k) : (opCycle p a k).1.plan = a.1.plan := by
  unfold opCycle
  dsimp only
  (repeat' split) <;> simp

@[simp] theorem xloadList_plan (s p o) : (xloadList s p o).plan = s.plan := by simp [xloadList]

@[simp] theorem strictCheck_plan (s p o) : (strictCheck s p o).plan = s.plan := by
  unfold strictCheck
  split <;> simp

@[simp] theorem slabEnd_plan (s p o) : (slabEnd s p o).plan = s.plan := by
  unfold slabEnd
  split <;> simp

@[simp] theorem endOp_plan (s p o) : (endOp s p o).plan = s.plan := by simp [endOp]

@[simp] theorem settleOp_plan (p s k) : (settleOp p s k).plan = s.plan := by
  unfold settleOp
  split <;> simp

@[simp] theorem countCycles_plan (s p n) : (countCycles s p n).plan = s.plan := by simp [countCycles]
@[simp] theorem plotTick_plan (s p) : (plotTick p s).plan = s.plan := by simp [plotTick]
@[simp] theorem quietCycles_plan (p n s) : (quietCycles p n s).plan = s.plan := by simp [quietCycles]

theorem plotUntil_plan {p lim bar stop n s t} (h : plotUntil p lim bar stop n s = some t) : t.plan = s.plan := by
  induction n generalizing s with
  | zero =>
    unfold plotUntil at h
    split at h <;> cases h
    rfl
  | succ n ih =>
    unfold plotUntil at h
    split at h
    · cases h
      rfl
    · split at h
      · cases h
      · refine (ih h).trans ?_
        split <;> simp

@[simp] theorem passUntil_plan (p n stop s) : (passUntil p n stop s).plan = s.plan := by
  unfold passUntil
  cases ht : plotUntil p ((plot s p).cyc + n) (wordReady · p) stop n s with
  | none => rfl
  | some t => exact plotUntil_plan ht

@[simp] theorem awaitOps_plan (s p) : (awaitOps p s).plan = s.plan := by simp [awaitOps]

/-! ### Machine/Update -/

@[simp] theorem shareFault_plan (s sh code) : (shareFault s sh code).plan = s.plan := by simp [shareFault]

@[simp] theorem tearShare_plan (s sh ks) : (tearShare s sh ks).plan = s.plan := by
  unfold tearShare
  dsimp only
  split <;> simp

@[simp] theorem putMat_plan (s a m) : (putMat s a m).plan = s.plan := by simp [putMat]
@[simp] theorem applyWrites_plan (s sh h) : (applyWrites s sh h).plan = s.plan := by simp [applyWrites]

@[simp] theorem advanceGroup_plan (s sh g) : (advanceGroup s sh g).plan = s.plan := by
  unfold advanceGroup
  dsimp only
  split <;> simp

@[simp] theorem endWrites_plan (s sh h st) : (endWrites s sh h st).plan = s.plan := by simp [endWrites]
@[simp] theorem closeShare_plan (h s sh) : (closeShare h s sh).plan = s.plan := by simp [closeShare]
@[simp] theorem stepClose_plan (s h) : (stepClose h s).plan = s.plan := by simp [stepClose]

/-! ### Machine/CollCmds -/

@[simp] theorem sendPeer_plan (s dev seq op epoch body) : (sendPeer s dev seq op epoch body).plan = s.plan := by simp [sendPeer]

/-! ### Machine/Stage -/

@[simp] theorem sendMarker_plan (s n code f) : (sendMarker s n code f).plan = s.plan := by
  unfold sendMarker
  dsimp only
  split <;> simp

@[simp] theorem dropInputs_plan (s n) : (dropInputs s n).plan = s.plan := by simp [dropInputs]
@[simp] theorem stageAbort_plan (s n code) : (stageAbort s n code).plan = s.plan := by simp [stageAbort]
@[simp] theorem stageOnHedge_plan (s) : (stageOnHedge s).plan = s.plan := by simp [stageOnHedge]

/-! ### Machine/Cellar -/

@[simp] theorem eraseKeys_plan (s) : (eraseKeys s).plan = s.plan := by simp [eraseKeys]

/-! ### Machine/MemSrc -/

@[simp] theorem hostAnswer_plan (s a) : (hostAnswer s a).plan = s.plan := by
  unfold hostAnswer
  split <;> simp

@[simp] theorem runDone_plan (s r) : (runDone s r).plan = s.plan := by simp [runDone]
@[simp] theorem takeReqSeq_plan (s src dst) : (takeReqSeq s src dst).1.plan = s.plan := by simp [takeReqSeq]
@[simp] theorem issueReq_plan (s field op payload) : (issueReq s field op payload).1.plan = s.plan := by simp [issueReq]
@[simp] theorem startRun_plan (s c get) : (startRun s c get).plan = s.plan := by simp [startRun]

@[simp] theorem runAnswer_plan (s a) : (runAnswer s a).plan = s.plan := by
  unfold runAnswer
  dsimp only
  (repeat' split) <;> simp

@[simp] theorem toSource_plan (s field a) : (toSource s field a).plan = s.plan := by simp [toSource]
@[simp] theorem selfAnswer_plan (s field p status code) : (selfAnswer s field p status code).plan = s.plan := by simp [selfAnswer]
@[simp] theorem untrack_plan (s t) : (untrack s t).plan = s.plan := by simp [untrack]
@[simp] theorem finishTrack_plan (s t status code) : (finishTrack s t status code).plan = s.plan := by simp [finishTrack]
@[simp] theorem giveUp_plan (s t) : (giveUp s t).plan = s.plan := by simp [giveUp]

/-! ### Machine/MemTgt -/

@[simp] theorem modSrc_plan (s field origin f) : (modSrc s field origin f).plan = s.plan := by simp [modSrc]
@[simp] theorem modReplay_plan (s field origin seq f) : (modReplay s field origin seq f).plan = s.plan := by simp [modReplay]
@[simp] theorem respond_plan (s p status code old data) : (respond s p status code old data).plan = s.plan := by simp [respond]
@[simp] theorem countStore_plan (s p) : (countStore s p).plan = s.plan := by simp [countStore]
@[simp] theorem settle_plan (s p status code old) : (settle s p status code old).plan = s.plan := by simp [settle]
@[simp] theorem answerReq_plan (s p status code old data) : (answerReq s p status code old data).plan = s.plan := by simp [answerReq]
@[simp] theorem unserved_plan (s p) : (unserved s p).plan = s.plan := by simp [unserved]
@[simp] theorem dropGate_plan (s n) : (dropGate s n).plan = s.plan := by simp [dropGate]
@[simp] theorem memOnHedge_plan (s) : (memOnHedge s).plan = s.plan := by simp [memOnHedge]

/-! ### Machine/Hedge -/

@[simp] theorem afterHedge_plan (s old) : (afterHedge old s).plan = s.plan := by simp [afterHedge]
@[simp] theorem liftAll_plan (s) : (liftAll s).plan = s.plan := by simp [liftAll]

/-! ### Machine/PlanCmds -/

@[simp] theorem loadGroups_plan (s rs) : (loadGroups s rs).plan = s.plan := by simp [loadGroups]
@[simp] theorem countRefresh_plan (s) : (countRefresh s).plan = s.plan := by simp [countRefresh]
@[simp] theorem stepReport_plan (s) : (stepReport s).plan = s.plan := by simp [stepReport]
@[simp] theorem yokeStep_plan (s h result pair mine theirs) : (yokeStep s h result pair mine theirs).plan = s.plan := by simp [yokeStep]

@[simp] theorem yokeJudge_plan (s) : (yokeJudge s).plan = s.plan := by
  unfold yokeJudge
  split <;> simp

@[simp] theorem yokeClose_plan (s) : (yokeClose s).plan = s.plan := by
  unfold yokeClose
  (repeat' split) <;> simp

@[simp] theorem liftAt_plan (s) : (liftAt s).plan = s.plan := by simp [liftAt]
@[simp] theorem applyDomain_plan (s d) : (applyDomain s d).plan = s.plan := by simp [applyDomain]
@[simp] theorem domainLost_plan (s d) : (domainLost s d).plan = s.plan := by simp [domainLost]

/-- Of the plan block, APPLY writes the running plan alone. -/
theorem applyPlan_plan (s m) : (applyPlan s m).plan = { s.plan with cur := m.bank } := by simp [applyPlan]

end Sys2Proof.Machine

namespace Sys2Proof.Machine
open Sys2Proof Sys2Proof.Laws

/-! ## Headlands (09 R279 to R282) -/

/-- The arms after HEADLAND_ARM for headland `h`. -/
def armsWith (arms : List Arm) (h : Nat) (q : Bool) : List Arm :=
  if arms.any fun a => a.headland == h then arms.map fun a => if a.headland = h then { a with quiesce := a.quiesce || q } else a
  else arms ++ [{ headland := h, quiesce := q }]

section
variable {arms : List Arm} {h : Nat}

theorem armsWith_of_armed (ha : ∃ a ∈ arms, a.headland = h) (q : Bool) :
    armsWith arms h q = arms.map fun a => if a.headland = h then { a with quiesce := a.quiesce || q } else a :=
  if_pos (by simpa using ha)

theorem armsWith_of_unarmed (hno : ∀ a ∈ arms, a.headland ≠ h) (q : Bool) : armsWith arms h q = arms ++ [{ headland := h, quiesce := q }] :=
  if_neg (by simpa using hno)

theorem mem_armsWith_of_unarmed {q : Bool} (hno : ∀ a ∈ arms, a.headland ≠ h) : { headland := h, quiesce := q } ∈ armsWith arms h q := by
  rw [armsWith_of_unarmed hno]
  exact List.mem_append_right _ (List.mem_singleton_self _)

/-- An arm without QUIESCE changes no arm kept for its headland. -/
theorem armsWith_false_of_armed (ha : ∃ a ∈ arms, a.headland = h) : armsWith arms h false = arms := by
  rw [armsWith_of_armed ha]
  simp

theorem exists_mem_armsWith (arms : List Arm) (h : Nat) (q : Bool) : ∃ a ∈ armsWith arms h q, a.headland = h := by
  by_cases ha : ∃ a ∈ arms, a.headland = h
  · obtain ⟨a, hmem, rfl⟩ := ha
    rw [armsWith_of_armed ⟨a, hmem, rfl⟩]
    exact ⟨_, List.mem_map_of_mem hmem, by simp⟩
  · rw [armsWith_of_unarmed (by simpa using ha)]
    exact ⟨_, List.mem_append_right _ (List.mem_singleton_self _), rfl⟩

theorem quiesce_of_mem_armsWith {a : Arm} (hmem : a ∈ armsWith arms h true) (hh : a.headland = h) : a.quiesce = true := by
  by_cases ha : ∃ a ∈ arms, a.headland = h
  · rw [armsWith_of_armed ha] at hmem
    obtain ⟨b, -, rfl⟩ := List.mem_map.mp hmem
    by_cases hb : b.headland = h <;> simp_all
  · have hno : ∀ a ∈ arms, a.headland ≠ h := by simpa using ha
    rw [armsWith_of_unarmed hno] at hmem
    obtain hold | hnew := List.mem_append.mp hmem
    · exact absurd hh (hno a hold)
    · rw [List.mem_singleton.mp hnew]

theorem mem_armsWith_of_ne {a : Arm} (hne : a.headland ≠ h) (q : Bool) : a ∈ armsWith arms h q ↔ a ∈ arms := by
  by_cases ha : ∃ a ∈ arms, a.headland = h
  · rw [armsWith_of_armed ha, List.mem_map]
    refine ⟨fun ⟨b, hmem, hb⟩ => ?_, fun hmem => ⟨a, hmem, if_neg hne⟩⟩
    split at hb
    · exact absurd (by simpa [← hb]) hne
    · exact hb ▸ hmem
  · rw [armsWith_of_unarmed (by simpa using ha), List.mem_append, List.mem_singleton]
    exact or_iff_left fun hnew => hne (by rw [hnew])

end

section
variable {s : State} {c : Cmd}

theorem headlandArm_of_past (h : c.u 8 8 ≤ now s) : headlandArm c s = cmdDone s c oHeadlandArm stStaleHeadland (c.u 8 8) := by
  rw [headlandArm, if_pos h]

theorem headlandArm_of_ahead (h : now s < c.u 8 8) : headlandArm c s =
    cmdDone (modPlan s fun p => { p with arms := armsWith p.arms (c.u 8 8) (c.u 0 1 == 1) }) c oHeadlandArm stOk (c.u 8 8) := by
  rw [headlandArm, if_neg (by omega)]
  rfl

theorem quiescing_of_ended (hquiesced : quiesced s (now s + 1) = true) (hended : stepEnded s = true) :
    quiescing s = modPlan s fun p => { p with quiescing := true } := if_pos (by simp [hquiesced, hended])

theorem quiescing_of_open (h : quiesced s (now s + 1) = false ∨ stepEnded s = false) : quiescing s = s :=
  if_neg (by obtain h | h := h <;> simp [h])

theorem headlandPass_of_unready (h : headlandReady s = false) : headlandPass s = s := by simp [headlandPass, h]

/-- A headland without a commit changes of the plan HEADLAND_NOW, the interval of R282 and the arms. -/
theorem plan_headlandPass (hready : headlandReady s = true) (hnone : commitFor s (now s + 1) = none) :
    (headlandPass s).plan = { s.plan with headland := BitVec.ofNat 64 (now s + 1), quiescing := false
                                          arms := s.plan.arms.filter fun a => decide (now s + 1 < a.headland) } := by
  simp only [headlandPass, hready, hnone, Bool.not_true, Bool.false_eq_true, if_false]
  simp

/-! ## Abandonment (09 R287) -/

theorem planAbandoned_of_none (h : commitFor s (now s + 1) = none) : planAbandoned s = s := by simp only [planAbandoned, h]

/-- The first condition that fails. -/
theorem find?_enum_false {xs : List Bool} {i : Nat} (hi : xs[i]? = some false) (hbefore : ∀ j, j < i → xs[j]? = some true) :
    (enum xs).find? (fun e => !e.2) = some (i, false) := by
  obtain ⟨hlt, hi⟩ := List.getElem?_eq_some_iff.mp hi
  refine List.find?_eq_some_iff_getElem.mpr ⟨rfl, i, by simpa [enum] using hlt, by simp [enum, hi], fun j hj => ?_⟩
  obtain ⟨_, htrue⟩ := List.getElem?_eq_some_iff.mp (hbefore j hj)
  simp [enum, htrue]

theorem planAbandoned_of_unquiet {m : Commit} {i : Nat} (hcommit : commitFor s (now s + 1) = some m) (hphase : s.plan.phase = .armed)
    (hquiescing : s.plan.quiescing = true) (hi : (quiet s (now s + 1))[i]? = some false)
    (hbefore : ∀ j, j < i → (quiet s (now s + 1))[j]? = some true) : planAbandoned s = abandon s m .valid 0 (i + 1) := by
  simp only [planAbandoned, hcommit, find?_enum_false hi hbefore, hphase, hquiescing, decide_true, Bool.and_self, if_true]

/-! ## The end of APPLY (09 R286) -/

theorem planCommitted_of_none (bad : List Nat) (h : s.plan.commit = none ∨ s.plan.phase ≠ .apply) : planCommitted bad s = s := by
  obtain h | h := h
  · simp only [planCommitted, h]
  · simp only [planCommitted, h, if_false]
    split <;> rfl

/-- The entry of a commit that has ended. -/
def committedEntry (m : Commit) (digest : List Byte) : Entry :=
  { kind := kPlanCommitted, utype := uPlan, unit := m.slot.toNat + m.delta.toNat * 2, body := pack 8 [(0, 8, m.headland)] ++ digest }

/-- What the end of a commit leaves of the plan block. -/
theorem committed_eq (s : State) (m : Commit) : ∃ u, committed s m = complete u m.cmd (committedEntry m u.plan.digest) ∧
    u.plan.commit = none ∧ u.plan.phase = .none ∧ slotSt u.plan m.slot = .committed ∧ u.plan.commits = s.plan.commits + 1 ∧
    u.plan.cur = s.plan.cur :=
  ⟨_, rfl, rfl, rfl, slotSt_setSlot .., rfl, setSlot_cur ..⟩

theorem planCommitted_of_apply {m : Commit} (h : s.plan.commit = some m) (hphase : s.plan.phase = .apply) :
    planCommitted [] s = committed (applyPlan s m) m := by
  simp only [planCommitted, h, hphase, if_true, List.foldl_nil]

end

end Sys2Proof.Machine

namespace Sys2Proof
open Sys2Proof.Machine Sys2Proof.Laws

/-- Settles O60: `armsWith` for what is armed, `plan_headlandPass` for a headland, `abandon_eq` and `planCommitted_of_apply` for the ends of
a commit. -/
theorem headlands : Obligations.Headlands := by
  intro s hl
  have hquiescing : exec .quiescing s = .next (quiescing s) := event_ok hl
  have hpass : exec .headlandPass s = .next (headlandPass s) := event_ok hl
  have habandoned : exec .planAbandoned s = .next (planAbandoned s) := event_ok hl
  have hcommitted (bad : List Nat) : exec (.planCommitted bad) s = .next (planCommitted bad s) := event_ok hl
  refine ⟨fun c hc hq => ?_, ⟨_, hquiescing, fun hquiesced hended => ?_, fun hopen => quiescing_of_open hopen, ?_⟩, fun hready => ?_,
    fun hready hnone => ⟨_, hpass, ?_⟩, fun hnone => ?_, fun m i hm hphase hinterval hauth hi hbefore => ?_, fun bad hnone => ?_,
    fun m hm hphase hauth => ?_⟩
  · have hexec : exec (.headlandArm c) s = .next (headlandArm c s) := by
      change onCmd _ c _ _ s (headlandArm c) = _
      rw [decide_eq_true hq, onCmd_ok hl hc]
    rw [hexec]
    refine ⟨fun hpast => congrArg _ (headlandArm_of_past hpast), fun hahead => ⟨_, congrArg _ (headlandArm_of_ahead hahead),
      exists_mem_armsWith .., fun hone a ha => ?_, fun hzero harmed => ?_, fun hzero hno => ?_, fun a hne => mem_armsWith_of_ne hne _, rfl, rfl⟩⟩
    · simp only [hone] at ha
      exact quiesce_of_mem_armsWith ha
    · simp only [hzero]
      exact armsWith_false_of_armed harmed
    · simp only [hzero]
      exact mem_armsWith_of_unarmed hno
  · rw [quiescing_of_ended hquiesced hended]
    rfl
  · unfold quiescing
    split <;> exact ⟨rfl, rfl⟩
  · rw [hpass, headlandPass_of_unready hready]
  · rw [plan_headlandPass hready hnone]
    exact ⟨rfl, rfl, rfl, rfl⟩
  · rw [habandoned, planAbandoned_of_none hnone]
  · obtain ⟨u, hend, hgone⟩ := abandon_eq s m .valid 0 (i + 1)
    obtain ⟨x, hnewest, hkind, href, -, hbody⟩ := newest_complete (.inl hauth) u (abandonedEntry m 0 (i + 1))
    rw [habandoned, planAbandoned_of_unquiet hm hphase hinterval hi hbefore, hend]
    refine ⟨_, x, rfl, ?_, ?_, hnewest, hkind, href, by simp [hbody, abandonedEntry, pack], ?_, ?_⟩
    all_goals simp only [complete_fields, hgone.commit, hgone.slot, hgone.cur, hgone.gran]
  · rw [hcommitted, planCommitted_of_none bad hnone]
  · obtain ⟨u, hend, hcommit, hphase', hslot, hcommits, hcur⟩ := committed_eq (applyPlan s m) m
    obtain ⟨x, hnewest, hkind, href, -⟩ := newest_complete (.inl hauth) u (committedEntry m u.plan.digest)
    rw [applyPlan_plan] at hcommits hcur
    rw [hcommitted, planCommitted_of_apply hm hphase, hend]
    refine ⟨_, x, rfl, ?_, ?_, ?_, ?_, ?_, hnewest, hkind, href⟩
    all_goals simp only [complete_fields, hcommit, hphase', hslot, hcommits, hcur]

end Sys2Proof

/-! # Links and ports: O23 to O25 and O27

A command of a link or port comes, past its conditions, to one operation; each operation is said case by case, with the port it changes. -/

namespace Sys2Proof.Machine
open Sys2Proof Sys2Proof.Laws

/-! ## A port of a state -/

section
variable (s : State) (n : Nat) (f : Port → Port)

@[simp] theorem port_modPort : port (modPort s n f) n = f (port s n) := tab_get_upd ..

theorem port_modPort_ne {m : Nat} (h : m ≠ n) : port (modPort s n f) m = port s m := tab_get_upd_ne _ _ _ _ _ h

/-- A port's change is undone by the ports of before. -/
@[simp] theorem withPorts_modPort (ps : Tab Port) : { modPort s n f with ports := ps } = { s with ports := ps } := rfl

/-- What the plan says of ports does not change with a port. -/
@[simp] theorem modPort_planReads : portFld (modPort s n f) = portFld s ∧ portWidth (modPort s n f) = portWidth s ∧
    personality (modPort s n f) = personality s ∧ isEdge (modPort s n f) = isEdge s ∧ isFabric (modPort s n f) = isFabric s :=
  ⟨rfl, rfl, rfl, rfl, rfl⟩

end

@[simp] theorem bit_toNat {w : Nat} (v : BitVec w) (i : Nat) : bit v.toNat i = v.getLsbD i := rfl

theorem port_congr {s t : State} (h : t.ports = s.ports) : port t = port s := by
  funext n
  rw [port, h, port]

@[simp] theorem port_raise (s : State) (code : Half) (ut : BitVec 4) (unit : Nat) : port (raise s code ut unit) = port s :=
  port_congr (by simp)

theorem portFld_congr {s t : State} (h : t.plan = s.plan) : portFld t = portFld s := by
  funext n i
  simp only [portFld, portRec, planRec, h]

/-- The last fault raised names its unit. -/
theorem raise_lastUnit (s : State) (code : Half) (ut : BitVec 4) (unit : Nat) :
    (raise s code ut unit).fault.lastUnit = BitVec.ofNat 16 unit := by
  rw [raise_fault]
  unfold countFault
  split <;> split <;> rfl

/-! ## Flits in sequence (10 R311) -/

/-- An acknowledgement changes only what the port keeps for resending. -/
theorem ackTo_eq (p : Port) (a : BitVec 11) :
    ∃ retryBuf futile timedOut, ackTo p a = { p with retryBuf, futile, timedOut } := by
  unfold ackTo
  dsimp only
  split_ifs <;> exact ⟨_, _, _, rfl⟩

@[simp] theorem ackTo_fields (p : Port) (a : BitVec 11) : (ackTo p a).st = p.st ∧ (ackTo p a).restriping = p.restriping ∧
    (ackTo p a).lost = p.lost ∧ (ackTo p a).mapSent = p.mapSent := by
  obtain ⟨_, _, _, h⟩ := ackTo_eq p a
  simp [h]

theorem ackTo_retryBuf_of_nil {p : Port} (h : p.retryBuf = []) (a : BitVec 11) : (ackTo p a).retryBuf = [] := by
  unfold ackTo
  split_ifs <;> simp_all

section
variable {s : State} {n : Nat} {f : Flit}

/-- A flit accepted leaves the port's state, lanes and restriping. -/
@[simp] theorem port_acceptFlit : (port (acceptFlit s n f) n).st = (port s n).st ∧
    (port (acceptFlit s n f) n).restriping = (port s n).restriping ∧ (port (acceptFlit s n f) n).lost = (port s n).lost ∧
    (port (acceptFlit s n f) n).mapSent = (port s n).mapSent := by
  unfold acceptFlit
  rw [port_modPort]
  split <;> simp

@[simp] theorem withPorts_acceptFlit (ps : Tab Port) : { acceptFlit s n f with ports := ps } = { s with ports := ps } := rfl

theorem retryBuf_acceptFlit_of_nil (h : (port s n).retryBuf = []) : (port (acceptFlit s n f) n).retryBuf = [] := by
  unfold acceptFlit
  rw [port_modPort]
  split
  · exact ackTo_retryBuf_of_nil h _
  · exact h

theorem flitGood_ok (hcrc : f.fcrc = flitCrc f) : flitGood f .ok = true := by simp [flitGood, hcrc]

theorem receives_of_open (hfabric : isFabric s n = true) (hst : (port s n).st = .up ∨ (port s n).st = .init)
    (hopen : (port s n).restriping = false) : receives s n = true := by
  obtain hst | hst := hst <;> simp [receives, hfabric, hst, hopen]

theorem rxFlit_of_inSequence (k : State → State) (hreceives : receives s n = true) (hcrc : f.fcrc = flitCrc f)
    (hseq : f.txSeq = (port s n).rxExpect) : rxFlit s n f .ok k = k (acceptFlit s n f) := by
  simp [rxFlit, hreceives, flitGood_ok hcrc, countCw, hseq]

end

theorem onCtrl_of_kind {s : State} {n ck : Nat} {f : Flit} {cw : Ecc} (htype : f.ftype = 2) (hkind : leAt f.body 0 1 = ck)
    (k : State → State) : onCtrl ck n f cw s k = rxFlit s n f cw k := if_pos ⟨htype, hkind⟩

/-! ## Flits sent (10 R308, R311) -/

section
variable {s : State} (n : Nat) (f : Flit) (w : List Sent)

@[simp] theorem transmit_fields : (transmit s w).ports = s.ports ∧ (transmit s w).pins = s.pins ∧ (transmit s w).outq = s.outq ∧
    (transmit s w).ingress = s.ingress ∧ (transmit s w).core = s.core ∧ (transmit s w).sched = s.sched := by
  unfold transmit
  split <;> exact ⟨rfl, rfl, rfl, rfl, rfl, rfl⟩

/-- What leaves on the lanes is added to what left before. -/
theorem exists_wire_transmit : ∃ more, (transmit s w).wire = s.wire ++ more := by
  unfold transmit
  split
  · exact ⟨w, rfl⟩
  · exact ⟨[], by simp⟩

theorem transmit_of_released (hcold : s.pins.coldResetN = true) : transmit s w = { s with wire := s.wire ++ w } := if_pos hcold

/-- A flit as it leaves with the port's next sequence number. -/
def sentAs (s : State) (n : Nat) (f : Flit) : Flit := stampFlit (port s n) { f with txSeq := (port s n).txSeq }

/-- A flit kept for resending. -/
def keeping (f : Flit) (p : Port) : Port := { p with txSeq := p.txSeq + 1, retryBuf := p.retryBuf ++ [f] }

/-- A state after a flit has left with the port's next sequence number. -/
def flitOut (s : State) (n : Nat) (f : Flit) : State :=
  { modPort s n (keeping (sentAs s n f)) with wire := s.wire ++ [.flit n (sentAs s n f)] }

theorem sendFlit_of_released (hcold : s.pins.coldResetN = true) : sendFlit s n f = flitOut s n f := if_pos hcold

@[simp] theorem port_flitOut : port (flitOut s n f) n = keeping (sentAs s n f) (port s n) := port_modPort ..

end

/-! ## Bring-up (10 R314, R315) -/

section
variable {s : State} {n : Nat}

theorem trainingDone_of_edge (hst : (port s n).st = .training) (hcold : s.pins.coldResetN = true) (hedge : isEdge s n = true) :
    trainingDone n s = modPort s n fun p => { p with st := .up, unlocked := 0 } := by
  simp [trainingDone, hst, hcold, hedge]

theorem trainingDone_of_fabric (hst : (port s n).st = .training) (hcold : s.pins.coldResetN = true) (hedge : isEdge s n = false) :
    trainingDone n s = modPort s n fun p =>
      { p with st := .init, unlocked := 0, ctrlQ := p.ctrlQ ++ [initBody s n], granted := grantInit s n } := by
  simp [trainingDone, hst, hcold, hedge]

theorem trainingDone_of_other (hst : (port s n).st ≠ .training) : trainingDone n s = s := by simp [trainingDone, hst]

theorem get_grantInit {v : Nat} (hv : v < 9) (hcarries : carries s n (BitVec.ofNat 4 v) = true) :
    Tab.get 0 (grantInit s n) v = vlFld s (BitVec.ofNat 4 v) 3 := by
  rw [grantInit, ← List.foldl_filter (p := fun v => carries s n (BitVec.ofNat 4 v))
    (f := fun t v => Tab.set 0 t v (vlFld s (BitVec.ofNat 4 v) 3))]
  exact tab_get_foldl_set_of_mem (key := fun v => v) (fun y _ hy => by rw [hy]) ⟨v, by simp [hv, hcarries], rfl⟩

/-- What a peer's INIT body tells a port. -/
def withPeer (b : List Byte) (p : Port) : Port :=
  { p with peer := some (BitVec.ofNat 24 (leAt b 8 4)), peerEndpoint := leAt b 1 1 == 1, peerCoach := leAt b 2 1 == 2
           credits := (List.range 10).foldl (fun t v => Tab.set 0 t v (leAt b (12 + 2 * v) 2)) [] }

theorem get_credits_withPeer (b : List Byte) (p : Port) {v : Nat} (hv : v < 10) :
    Tab.get 0 (withPeer b p).credits v = leAt b (12 + 2 * v) 2 :=
  tab_get_foldl_set_of_mem (key := fun v => v) (fun y _ hy => by rw [hy]) ⟨v, by simp [hv], rfl⟩

/-- What a device port that comes UP adds to the beacons. -/
def beaconed (s : State) (n : Nat) : State :=
  match peerDevice s n with
  | some d =>
    if s.hedge.beacons.any fun x => x.device.toNat == d then s
    else { s with hedge := { s.hedge with beacons := s.hedge.beacons ++ [{ device := BitVec.ofNat 14 d, silent := 0, idle := false, mismatches := 0 }] } }
  | none => s

/-- The run credits that a gateway announces change its own state and the packets lodged. -/
@[simp] theorem announce_fields (s : State) (n : Nat) : (announce s n).ports = s.ports ∧ (announce s n).gran = s.gran := by
  unfold announce
  split <;> exact ⟨rfl, rfl⟩

@[simp] theorem beaconed_fields (s : State) (n : Nat) : (beaconed s n).ports = s.ports ∧ (beaconed s n).gran = s.gran := by
  unfold beaconed
  (repeat' split) <;> exact ⟨rfl, rfl⟩

/-- A port brought UP by its peer's INIT. -/
def broughtUp (s : State) (n : Nat) (b : List Byte) : State :=
  beaconed (announce (modPort (modPort s n (withPeer b)) n fun p => { p with st := .up }) n) n

theorem port_broughtUp (s : State) (n : Nat) (b : List Byte) :
    port (broughtUp s n b) n = { withPeer b (port s n) with st := .up } := by
  rw [broughtUp, port_congr (beaconed_fields ..).1, port_congr (announce_fields ..).1, port_modPort, port_modPort]

theorem exists_beacon_beaconed {d : Nat} (h : peerDevice s n = some d) (hd : d < 2 ^ 14) :
    ∃ b ∈ (beaconed s n).hedge.beacons, b.device.toNat = d := by
  simp only [beaconed, h]
  split
  case isTrue hany => simpa using hany
  case isFalse =>
    refine ⟨_, List.mem_append_right _ (List.mem_singleton_self _), ?_⟩
    rw [BitVec.toNat_ofNat, Nat.mod_eq_of_lt hd]

theorem initIn_of_ok {f : Flit} (hst : (port s n).st = .init) (hok : initOk s n f.body = true) :
    initIn n f s = broughtUp s n f.body := (if_pos (by simp [hst])).trans (if_pos hok)

theorem initIn_of_mismatch {f : Flit} (hst : (port s n).st = .init) (hbad : initOk s n f.body = false) : initIn n f s =
    afterHedge s (raise (modPort (modPort s n (withPeer f.body)) n fun p => { p with st := .fenced }) fLinkPeerMismatch uPort n) :=
  (if_pos (by simp [hst])).trans (if_neg (ne_true_of_eq_false hbad))

/-- A peer whose INIT declares ROLE DEVICE and names a device gets its beacon counter (01 R16). -/
theorem exists_beacon_broughtUp {b : List Byte} (hrole : leAt b 1 1 ≠ 1) (hdev : leAt b 8 4 % 2 ^ 24 / 1024 ≠ 16383) :
    ∃ x ∈ (broughtUp s n b).hedge.beacons, x.device.toNat = leAt b 8 4 % 2 ^ 24 / 1024 := by
  have hd : devOf (BitVec.ofNat 24 (leAt b 8 4)) = leAt b 8 4 % 2 ^ 24 / 1024 := by rw [devOf, BitVec.toNat_ofNat]
  have hlt : leAt b 8 4 % 2 ^ 24 / 1024 < 2 ^ 14 := by omega
  refine exists_beacon_beaconed ?_ hlt
  rw [peerDevice, port_congr (announce_fields ..).1, port_modPort, port_modPort]
  simp only [withPeer, hd]
  exact if_neg (by simpa [hrole] using hdev)

end

/-! ## Lane loss and restriping (10 R305, R316, R318, R319) -/

section
variable {s : State} {n : Nat}

/-- A lane that loses lock, and one that regains it. -/
def lockLost (lane : Nat) (p : Port) : Port := { p with unlocked := p.unlocked ||| BitVec.ofNat 8 (2 ^ lane) }

def lockHeld (lane : Nat) (p : Port) : Port := { p with unlocked := p.unlocked &&& ~~~BitVec.ofNat 8 (2 ^ lane) }

/-- How many lanes of the port's width a mask of lost lanes leaves. -/
def lanesLeft (s : State) (n : Nat) (lost : Byte) : Nat := ((List.range (portWidth s n)).filter fun i => !lost.getLsbD i).length

/-- The port of which lanes are lost restripes with a new mask. -/
def narrowed (mask : Byte) (p : Port) : Port := { p with lost := p.lost ||| mask, restriping := true, mapSent := false, peerMap := none }

theorem activeLanes_narrowed (hst : (port s n).st = .up) (mask : Byte) :
    activeLanes (modPort s n (narrowed mask)) n = lanesLeft s n ((port s n).lost ||| mask) := by
  simp only [activeLanes, port_modPort, narrowed, hst]
  rfl

theorem loseLanes_of_enough {mask : Byte} (hst : (port s n).st = .up) (h : portFld s n 3 ≤ lanesLeft s n ((port s n).lost ||| mask)) :
    loseLanes s n mask = modPort s n (narrowed mask) := by
  rw [← activeLanes_narrowed hst] at h
  exact if_neg (Nat.not_lt.mpr h)

theorem loseLanes_of_few {mask : Byte} (hst : (port s n).st = .up) (h : lanesLeft s n ((port s n).lost ||| mask) < portFld s n 3) :
    loseLanes s n mask = portDown (modPort s n (narrowed mask)) n := by
  rw [← activeLanes_narrowed hst] at h
  exact if_pos h

/-- LANE_DOWN raised for a lane whose count ends. -/
def laneLost (s : State) (n lane : Nat) : State :=
  raise (modPort s n (lockHeld lane)) fLaneDown uPort n

theorem laneDown_of_unlocked {lane : Nat} (hst : (port s n).st = .up) (h : (port s n).unlocked.getLsbD lane = true) :
    laneDown n lane s = loseLanes (laneLost s n lane) n (BitVec.ofNat 8 (2 ^ lane)) :=
  if_pos (by simp [hst, h])

theorem laneDown_of_locked {lane : Nat} (h : (port s n).unlocked.getLsbD lane = false) : laneDown n lane s = s :=
  if_neg (by simp [h])

theorem port_laneLost (s : State) (n lane : Nat) :  port (laneLost s n lane) n = lockHeld lane (port s n) := by
  rw [laneLost, port_raise, port_modPort]

theorem matchMaps_of_none (h : (port s n).peerMap = none) : matchMaps s n = s := by simp [matchMaps, h]

theorem matchMaps_of_unsent (h : (port s n).mapSent = false) : matchMaps s n = s := by
  unfold matchMaps
  split
  · rfl
  · simp [h]

/-- Equal masks end the restriping; nothing is resent where nothing is kept. -/
theorem matchMaps_of_equal {a : BitVec 11} (hsent : (port s n).mapSent = true) (hmap : (port s n).peerMap = some (goodMask s n, a))
    (hkept : (port s n).retryBuf = []) : matchMaps s n =
      modPort (modPort s n fun p => { p with restriping := false, mapSent := false, peerMap := none }) n fun p => ackTo p a := by
  have hkept' (p : Port) (h : p.retryBuf = []) : (ackTo p a).retryBuf.isEmpty = true := by rw [ackTo_retryBuf_of_nil h]; rfl
  simp only [matchMaps, hmap, hsent, BitVec.and_self, if_true, Bool.not_true, Bool.false_eq_true, if_false, port_modPort]
  refine if_pos (hkept' _ ?_)
  exact hkept

theorem restripeDone_of_full (h : retryFull s n = true) : restripeDone n s = s := by simp [restripeDone, h]

/-- LANE_MAP as it is queued. -/
def laneMapFlit (s : State) (n : Nat) : Flit := { ftype := 2, body := pack 256 [(0, 1, 4), (5, 1, (goodMask s n).toNat)] }

/-- LANE_MAP has been sent. -/
def awaitingMap (p : Port) : Port := { p with mapSent := true }

theorem restripeDone_of_room (hrestriping : (port s n).restriping = true) (hsent : (port s n).mapSent = false)
    (hmap : (port s n).peerMap = none) (hroom : retryFull s n = false) (hcold : s.pins.coldResetN = true) :
    restripeDone n s = modPort (flitOut s n (laneMapFlit s n)) n awaitingMap := by
  rw [restripeDone, if_pos (by simp [hrestriping, hsent, hroom]), ← laneMapFlit, sendFlit_of_released n _ hcold]
  refine matchMaps_of_none ?_
  rw [port_modPort, port_flitOut]
  exact hmap

theorem exec_laneMap {n : BitVec 10} {f : Flit} {cw : Ecc} (hl : s.live) (htype : f.ftype = 2) (hkind : leAt f.body 0 1 = 4) :
    exec (.laneMap n f cw) s = .next (laneMap n.toNat f cw s) := by
  change event s (fun s => if f.ftype = 2 ∧ leAt f.body 0 1 = 4 then laneMap n.toNat f cw s else s) = _
  rw [event_ok hl, if_pos ⟨htype, hkind⟩]

/-- What the peer tells in LANE_MAP. -/
def withPeerMap (f : Flit) (p : Port) : Port := { p with peerMap := some (BitVec.ofNat 8 (leAt f.body 5 1), f.ackSeq) }

theorem laneMap_of_restriping {f : Flit} (hfabric : isFabric s n = true) (hrestriping : (port s n).restriping = true)
    (hcrc : f.fcrc = flitCrc f) (hseq : f.txSeq = (port s n).rxExpect) : laneMap n f .ok s =
      matchMaps (modPort (acceptFlit s n f) n (withPeerMap f)) n := by
  have hcond : (isFabric s n && (port s n).restriping) = true := by simp [hfabric, hrestriping]
  have hnext : (f.txSeq == (port s n).rxExpect) = true := by simp [hseq]
  refine (if_pos hcond).trans ((if_pos (flitGood_ok hcrc)).trans ?_)
  rw [if_pos hnext]
  rfl

end

end Sys2Proof.Machine

namespace Sys2Proof
open Sys2Proof.Machine Sys2Proof.Laws

theorem portBringUp : Claims.PortBringUp := by
  rintro s n f _ hl rfl
  have hdone : exec (.trainingDone n) s = .next (trainingDone n.toNat s) := event_ok hl
  have htimeout : exec (.trainingTimeout n) s = .next (if (port s n.toNat).st == .training then
      modPort s n.toNat fun p => { p with st := .down, attempts := p.attempts + 1 } else s) := event_ok hl
  have hretry : exec (.downRetry n) s = .next (if (port s n.toNat).st == .down then modPort s n.toNat startTraining else s) := event_ok hl
  have hresend : exec (.initResend n) s = .next (if (port s n.toNat).st == .init then queueCtrl s n.toNat (initBody s n.toNat) else s) :=
    event_ok hl
  rw [hdone, htimeout, hretry, hresend]
  refine ⟨fun hst hcold => ?_, fun hst => ?_, fun hst => ?_, fun hst => ?_, fun htraining hdown hinit => ?_,
    fun hfabric hst hopen hcrc hseq htype hkind => ?_⟩
  · cases hedge : isEdge s n.toNat
    · rw [trainingDone_of_fabric hst hcold hedge]
      refine ⟨_, rfl, rfl, nofun, fun _ => ?_⟩
      rw [port_modPort]
      exact ⟨rfl, rfl, fun v hv hcarries => get_grantInit hv hcarries⟩
    · rw [trainingDone_of_edge hst hcold hedge]
      refine ⟨_, rfl, rfl, fun _ => ?_, nofun⟩
      rw [port_modPort]
  · rw [hst]
    refine ⟨_, rfl, ?_, ?_, rfl⟩ <;> simp
  · rw [hst]
    refine ⟨_, rfl, ?_, ?_, ?_, ?_, ?_, ?_, rfl⟩ <;> simp [startTraining]
  · rw [hst]
    refine ⟨_, rfl, ?_, rfl⟩
    simp [queueCtrl]
  · rw [trainingDone_of_other htraining, if_neg (by simpa using htraining), if_neg (by simpa using hdown), if_neg (by simpa using hinit)]
    exact ⟨rfl, rfl, rfl, rfl⟩
  · have hexec : exec (.init n f .ok) s = .next (initIn n.toNat f (acceptFlit s n.toNat f)) := by
      rw [← rxFlit_of_inSequence (initIn n.toNat f) (receives_of_open hfabric (.inr hst) hopen) hcrc hseq]
      change event s (fun s => onCtrl 1 n.toNat f .ok s (initIn n.toNat f)) = _
      rw [event_ok hl, onCtrl_of_kind htype hkind]
    have hst' : (port (acceptFlit s n.toNat f) n.toNat).st = .init := by rw [port_acceptFlit.1, hst]
    have hinit : initOk (acceptFlit s n.toNat f) n.toNat f.body = initOk s n.toNat f.body := rfl
    rw [hexec, ← hinit]
    refine ⟨fun hok => ?_, fun hbad => ?_⟩
    · rw [initIn_of_ok hst' hok]
      refine ⟨_, rfl, ?_, ?_, ?_, fun v hv => ?_, fun hrole hdev => ?_, ?_⟩
      · rw [port_broughtUp]
      · rw [port_broughtUp]
        rfl
      · rw [port_broughtUp]
        rfl
      · rw [port_broughtUp]
        exact get_credits_withPeer f.body (port (acceptFlit s n.toNat f) n.toNat) hv
      · exact exists_beacon_broughtUp hrole hdev
      · simp only [broughtUp, beaconed_fields, announce_fields]
        rfl
    · rw [initIn_of_mismatch hst' hbad]
      refine ⟨acceptFlit s n.toNat f, _, rfl, hst', ?_, ?_, ?_⟩
      · rw [withPorts_acceptFlit]
      · rw [port_modPort]
      · rw [withPorts_modPort, withPorts_modPort, withPorts_acceptFlit]

theorem laneLoss : Claims.LaneLoss := by
  rintro s n lane _ hl rfl hst
  have hlock : exec (.lossOfLock n lane) s = .next (if ((port s n.toNat).st == .up || (port s n.toNat).st == .init ||
      (port s n.toNat).st == .fenced) && decide (lane.val < portWidth s n.toNat) && !bit (port s n.toNat).lost.toNat lane.val then
        modPort s n.toNat (lockLost lane.val) else s) := event_ok hl
  have hregain : exec (.regainsLock n lane) s = .next (modPort s n.toNat (lockHeld lane.val)) :=
    event_ok (f := fun s => modPort s n.toNat (lockHeld lane.val)) hl
  have hdown : exec (.laneDown n lane) s = .next (laneDown n.toNat lane.val s) := event_ok hl
  have hdone : exec (.restripeDone n) s = .next (restripeDone n.toNat s) := event_ok hl
  rw [hlock, hregain, hdown, hdone]
  refine ⟨fun hwidth hlost => ?_, ⟨_, rfl, ?_, ?_, rfl⟩, fun hlocked => congrArg _ (laneDown_of_locked hlocked), fun hunlocked left hleft => ?_,
    fun hrestriping hsent hmap hroom hcold => ?_, fun hrestriping hfull => congrArg _ (restripeDone_of_full hfull),
    fun f hfabric hcrc hseq htype hkind hrestriping => ?_⟩
  · rw [if_pos (by simp only [hst, hwidth, bit_toNat, hlost]; rfl)]
    refine ⟨_, rfl, ?_, ?_, rfl⟩ <;> rw [port_modPort] <;> rfl
  · rw [port_modPort, lockHeld, getLsbD_and_not_bit _ lane.isLt]
    simp
  · rw [port_modPort, lockHeld]
  · have hst' : (port (laneLost s n.toNat lane.val) n.toNat).st = .up := by rw [port_laneLost, lockHeld, hst]
    have hlost : (port (laneLost s n.toNat lane.val) n.toNat).lost = (port s n.toNat).lost := by rw [port_laneLost, lockHeld]
    have hplan : portFld (laneLost s n.toNat lane.val) = portFld s := portFld_congr (by simp [laneLost])
    have hwidth : lanesLeft (laneLost s n.toNat lane.val) n.toNat ((port (laneLost s n.toNat lane.val) n.toNat).lost |||
        BitVec.ofNat 8 (2 ^ lane.val)) = left := by
      rw [hlost, hleft, lanesLeft, portWidth, hplan, portWidth]
    rw [laneDown_of_unlocked hst hunlocked]
    refine ⟨fun henough => ?_, fun hfew => ?_⟩
    · rw [loseLanes_of_enough hst' (by rwa [hwidth, hplan])]
      refine ⟨_, rfl, ?_, ?_, ?_, raise_lastCode .., raise_lastUnit .., ?_⟩
      · rw [port_modPort]
        exact hst'
      · rw [port_modPort, ← hlost]
        rfl
      · rw [port_modPort]
        rfl
      · simp [laneLost]
    · rw [loseLanes_of_few hst' (by rwa [hwidth, hplan])]
      refine ⟨_, rfl, ?_, raise_lastCode ..⟩
      rw [port_modPort, ← hlost]
      rfl
  · rw [restripeDone_of_room hrestriping hsent hmap hroom hcold]
    refine ⟨_, sentAs s n.toNat (laneMapFlit s n.toNat), rfl, rfl, rfl, rfl, rfl, ?_, ?_⟩
    · rw [port_modPort, awaitingMap]
    · rw [port_modPort, port_flitOut]
      exact hrestriping
  · obtain ⟨-, hrestriping', hlost', hsent'⟩ := port_acceptFlit (s := s) (n := n.toNat) (f := f)
    rw [exec_laneMap hl htype hkind, laneMap_of_restriping hfabric hrestriping hcrc hseq]
    refine ⟨fun hsent => ?_, fun hsent hkept hmask => ?_⟩
    · rw [matchMaps_of_unsent (by rw [port_modPort, ← hsent, ← hsent', withPeerMap])]
      refine ⟨_, rfl, ?_, ?_⟩ <;> rw [port_modPort]
      · rfl
      · exact hrestriping'.trans hrestriping
    · have hgood : goodMask (modPort (acceptFlit s n.toNat f) n.toNat (withPeerMap f)) n.toNat = goodMask s n.toNat := by
        simp only [goodMask, port_modPort, withPeerMap, hlost', modPort_planReads]
        rfl
      rw [matchMaps_of_equal (a := f.ackSeq)]
      · refine ⟨_, rfl, ?_, ?_, ?_, ?_⟩
        · simp only [port_modPort, ackTo_fields]
        · simp only [port_modPort, ackTo_fields]
        · simp only [port_modPort, ackTo_fields, withPeerMap, hlost']
        · rw [withPorts_modPort, withPorts_modPort, withPorts_modPort, withPorts_acceptFlit]
      · rw [port_modPort, withPeerMap, hsent', hsent]
      · rw [port_modPort, hgood, withPeerMap, hmask, BitVec.ofNat_toNat, BitVec.setWidth_eq]
      · rw [port_modPort]
        exact retryBuf_acceptFlit_of_nil hkept

/-- Settles O24: each event of a port comes to one change of it (`trainingDone_of_fabric`, `initIn_of_ok`, `loseLanes_of_enough`,
`matchMaps_of_equal` and the lemmas beside them). -/
theorem portsComeUpAndRestripe : Obligations.PortsComeUpAndRestripe := ⟨portBringUp, laneLoss⟩

end Sys2Proof

/-! ## A flit at a fenced port (10 R311, R318)

APPLY fences a port whose record fails its check (09 R286), and leaves it restriping if it was. LANE_MAP asks only whether the port
restripes, so it is taken there. -/

namespace Sys2Proof.Machine
open Sys2Proof Sys2Proof.Laws

/-- FABRIC port 9 of four lanes, fenced while it restriped. -/
def fencedRestriping : State where
  plan := { cur := [{ sect := 0x02, rtype := 0x01, index := 9, fields := [0, 0, 4, 2], tables := [] }] }
  ports := [(9, { st := .fenced, restriping := true })]

/-- The first flit of a peer that restripes with all four lanes: its LANE_MAP. -/
def peerLaneMap : Flit := stampFlit {} { ftype := 2, body := pack 256 [(0, 1, 4), (5, 1, 0xF)] }

theorem fcrc_stampFlit (p : Port) (f : Flit) : (stampFlit p f).fcrc = flitCrc (stampFlit p f) := rfl

theorem peerLaneMap_kind : leAt peerLaneMap.body 0 1 = 4 := leAt_pack_head (by decide) 4 _

theorem exec_peerLaneMap : ∃ t, exec (.laneMap 9 peerLaneMap .ok) fencedRestriping = .next t ∧ (port t 9).peerMap ≠ none := by
  have hunsent : (port (modPort (acceptFlit fencedRestriping 9 peerLaneMap) 9 (withPeerMap peerLaneMap)) 9).mapSent = false := by
    rw [port_modPort]
    exact port_acceptFlit.2.2.2
  have htaken : laneMap 9 peerLaneMap .ok fencedRestriping =
      modPort (acceptFlit fencedRestriping 9 peerLaneMap) 9 (withPeerMap peerLaneMap) :=
    (laneMap_of_restriping rfl rfl (fcrc_stampFlit ..) rfl).trans (matchMaps_of_unsent hunsent)
  refine ⟨_, (exec_laneMap ⟨rfl, rfl⟩ rfl peerLaneMap_kind).trans (congrArg _ htaken), ?_⟩
  rw [port_modPort]
  exact nofun

end Sys2Proof.Machine

namespace Sys2Proof
open Sys2Proof.Machine Sys2Proof.Laws

/-- Refutes O23, by its claim that a flit at a port neither in INIT nor UP does nothing: a LANE_MAP that comes to a port fenced while it
restriped (`fencedRestriping`) is taken, and the port has the peer's mask after it. -/
theorem not_flitsOfALink : ¬ Obligations.FlitsOfALink := by
  rintro ⟨hrefused, -, -⟩
  obtain ⟨t, hexec, hmap⟩ := exec_peerLaneMap
  have hsame := (hrefused fencedRestriping 9 peerLaneMap .ok (.laneMap 9 peerLaneMap .ok) ⟨rfl, rfl⟩
    (.inr ⟨rfl, .inr (.inr (.inr ⟨peerLaneMap_kind, rfl⟩))⟩)).1 nofun nofun
  cases hexec.symm.trans hsame
  exact hmap rfl

end Sys2Proof

namespace Sys2Proof.Machine
open Sys2Proof Sys2Proof.Laws

/-! ## Rooms and pauses of a die settled (12 R364, 10 R323) -/

/-- What giving lodging back leaves: the queued packets, the pins, and what has left the ports before. -/
structure Released (s t : State) : Prop where
  outq : t.outq = s.outq
  pins : t.pins = s.pins
  wire : ∃ more, t.wire = s.wire ++ more

/-- What settling the inns and the priority flow control of a die leaves beside: the lodged packets and the cells of EDGE accounts. -/
structure InnSettled (s t : State) : Prop extends Released s t where
  ingress : t.ingress = s.ingress
  edge : t.core.edge = s.core.edge

section
variable {s t u : State}

theorem Released.refl (s : State) : Released s s := ⟨rfl, rfl, [], by simp⟩

theorem Released.trans (h : Released s t) (k : Released t u) : Released s u where
  outq := k.outq.trans h.outq
  pins := k.pins.trans h.pins
  wire := by
    obtain ⟨a, ha⟩ := h.wire
    obtain ⟨b, hb⟩ := k.wire
    exact ⟨a ++ b, by rw [hb, ha, List.append_assoc]⟩

theorem InnSettled.refl (s : State) : InnSettled s s := ⟨.refl s, rfl, rfl⟩

theorem InnSettled.trans (h : InnSettled s t) (k : InnSettled t u) : InnSettled s u :=
  ⟨h.toReleased.trans k.toReleased, k.ingress.trans h.ingress, k.edge.trans h.edge⟩

theorem InnSettled.foldl {α : Type*} {f : State → α → State} (step : ∀ s a, InnSettled s (f s a)) (l : List α) (s : State) :
    InnSettled s (l.foldl f s) := foldl_of_step refl trans step l s

end

theorem sendPfc_settled (s : State) (n mask : Nat) (off : Bool) : InnSettled s (sendPfc s n mask off) := by
  unfold sendPfc
  split
  · exact .refl s
  · exact ⟨⟨by simp, by simp, exists_wire_transmit _⟩, by simp, by simp⟩

theorem settlePfc_settled (s : State) (n : Nat) : InnSettled s (settlePfc s n) := (sendPfc_settled ..).trans (sendPfc_settled ..)

theorem tryRoom_settled {s t : State} {w : RoomWait} (h : tryRoom s w = some t) : InnSettled s t := by
  unfold tryRoom at h
  split at h
  · split at h
    · cases h
    · split at h
      · obtain ⟨c, -, rfl⟩ := Option.map_eq_some_iff.mp h
        exact ⟨⟨rfl, rfl, [], by simp⟩, rfl, rfl⟩
      · cases h
  · cases h

theorem retryRooms_settled (die inn k : Nat) (s : State) : InnSettled s (retryRooms die inn k s) := by
  induction k generalizing s with
  | zero => exact .refl s
  | succ k ih =>
    unfold retryRooms
    split
    · exact .refl s
    · next t ht =>
      obtain ⟨v, -, hv⟩ := List.exists_of_findSome?_eq_some ht
      obtain ⟨u, hu, huv⟩ := Option.map_eq_some_iff.mp hv
      cases huv
      have h := tryRoom_settled hu
      refine InnSettled.trans ?_ (ih _)
      exact ⟨⟨h.outq, h.pins, h.wire⟩, h.ingress, h.edge⟩

theorem settleDie_settled (s : State) (die : Nat) : InnSettled s (settleDie s die) :=
  (InnSettled.foldl (fun s inn => retryRooms_settled die inn _ s) _ _).trans (InnSettled.foldl settlePfc_settled _ _)

/-! ## Frames of an EDGE port (10 R321 to R323) -/

section
variable {s : State} {n : Nat} {f : List Byte}

theorem edgeFrame_of_malformed (hedge : isEdge s n = true) (hst : (port s n).st = .up)
    (hbad : fcsOk f = false ∨ f.length < 64 ∨ portFld s n 11 < f.length) : edgeFrame n f s = edgeDrop s n := by
  have hcond : (!fcsOk f || decide (f.length < 64) || decide (portFld s n 11 < f.length)) = true := by
    obtain h | h | h := hbad <;> simp [h]
  rw [edgeFrame, if_neg (by simp [hedge, hst]), if_pos hcond]

/-- A frame of an UP port whose FCS and length are right. -/
structure GoodFrame (s : State) (n : Nat) (f : List Byte) : Prop where
  edge : isEdge s n = true
  up : (port s n).st = .up
  fcs : fcsOk f = true
  min : 64 ≤ f.length
  max : f.length ≤ portFld s n 11

theorem edgeFrame_of_pause (h : GoodFrame s n f) (hda : beAt f 0 6 = 0x0180C2000001) (htype : etherType f = 0x8808) :
    edgeFrame n f s = pauseIn s n f := by
  rw [edgeFrame, if_neg (by simp [h.edge, h.up]), if_neg (by simp [h.fcs, h.min, h.max]), if_pos ⟨hda, htype⟩]

/-- A Selnan packet in a frame of its own EtherType, where nothing samples or polices it. -/
theorem edgeFrame_of_selnan (h : GoodFrame s n f) (hda : beAt f 0 6 < 0x0180C2000000 ∨ 0x0180C200000F < beAt f 0 6)
    (hopen : portHedged s n = false) (htype : etherType f = l2Fld s 0) (hglean : planRec s 0x05 0x03 n = none)
    (hpol : (Tab.get {} s.sched.pol (16 * n + framePcp f)).on = false) :
    edgeFrame n f s = edgePkt s n (framePcp f) 0 ((f.take (f.length - 4)).drop (14 + tagLen f)) := by
  have hpause : ¬ (beAt f 0 6 = 0x0180C2000001 ∧ etherType f = 0x8808) := fun h => by omega
  have hreserved : ¬ (0x0180C2000000 ≤ beAt f 0 6 ∧ beAt f 0 6 ≤ 0x0180C200000F) := by omega
  rw [edgeFrame, if_neg (by simp [h.edge, h.up]), if_neg (by simp [h.fcs, h.min, h.max]), if_neg hpause, if_neg hreserved,
    if_neg (by simp [hopen])]
  simp [htype, glean, hglean, police, hpol]

/-! ### PFC frames -/

/-- The mask of stopped priorities after one priority of a PFC frame. -/
def pauseStep (f : List Byte) (m : Byte) (i : Nat) : Byte :=
  if bit (beAt f (14 + tagLen f + 2) 2) i then
    if beAt f (14 + tagLen f + 4 + 2 * i) 2 = 0 then m &&& ~~~BitVec.ofNat 8 (2 ^ i) else m ||| BitVec.ofNat 8 (2 ^ i)
  else m

theorem pauseIn_of_pfc (h : beAt f (14 + tagLen f) 2 = 0x0101) :
    pauseIn s n f = modPort s n fun p => { p with paused := (List.range 8).foldl (pauseStep f) p.paused } := if_pos h

theorem getLsbD_pauseStep_self (f : List Byte) (m : Byte) {i : Nat} (hi : i < 8) : (pauseStep f m i).getLsbD i =
    if bit (beAt f (14 + tagLen f + 2) 2) i then decide (beAt f (14 + tagLen f + 4 + 2 * i) 2 ≠ 0) else m.getLsbD i := by
  unfold pauseStep
  split
  · split
    · rw [getLsbD_and_not_bit _ hi]
      simp [*]
    · rw [getLsbD_or_bit _ hi]
      simp [*]
  · rfl

theorem getLsbD_pauseStep_ne (f : List Byte) (m : Byte) {i k : Nat} (hi : i < 8) (h : i ≠ k) :
    (pauseStep f m k).getLsbD i = m.getLsbD i := by
  unfold pauseStep
  split
  · split
    · rw [getLsbD_and_not_bit _ hi]
      simp [h]
    · rw [getLsbD_or_bit _ hi]
      simp [h]
  · rfl

/-- Each priority that a PFC frame names is stopped or resumed as its quanta say. -/
theorem getLsbD_foldl_pauseStep (f : List Byte) (m : Byte) (k : Nat) {i : Nat} (hi : i < 8) :
    ((List.range k).foldl (pauseStep f) m).getLsbD i =
      if i < k ∧ bit (beAt f (14 + tagLen f + 2) 2) i = true then decide (beAt f (14 + tagLen f + 4 + 2 * i) 2 ≠ 0)
      else m.getLsbD i := by
  induction k with
  | zero => simp
  | succ k ih =>
    rw [List.range_succ, List.foldl_append, List.foldl_cons, List.foldl_nil]
    by_cases hik : i = k
    · subst hik
      rw [getLsbD_pauseStep_self _ _ hi, ih]
      simp
    · rw [getLsbD_pauseStep_ne _ _ hi hik, ih]
      have hlt : i < k + 1 ↔ i < k := by omega
      simp only [hlt]

/-! ### Selnan packets (10 R322) -/

section
variable {pcp colour : Nat} {bytes : List Byte}

@[simp] theorem port_modRoute (s : State) (die : Nat) (g : RouteDie → RouteDie) : port (modRoute s die g) = port s := port_congr rfl

theorem edgePkt_of_foreign (hvl : (parsePkt bytes).vl ≠ 0) (hclass : opClass (parsePkt bytes).op ≠ some 0)
    (hsrc : (parsePkt bytes).src ≠ addr s.plan.deviceId.toNat n) : edgePkt s n pcp colour bytes =
      raise (modRoute (edgeRefuse s n) (dieOf n) fun r => { r with hdr := satInc r.hdr }) fHdrCheck uPort n := by
  rw [edgePkt, if_neg (not_or.mpr ⟨hvl, hclass⟩), if_pos hsrc]

/-- Cells taken from an EDGE account. -/
def takeCells (s : State) (acct cells : Nat) : State := { s with core := { s.core with edge := Tab.upd 0 s.core.edge acct (· + cells) } }

theorem get_edge_takeCells (s : State) (acct cells : Nat) :
    Tab.get 0 (takeCells s acct cells).core.edge acct = Tab.get 0 s.core.edge acct + cells :=
  tab_get_upd 0 s.core.edge acct (· + cells)

theorem edgePkt_of_room (hvl : (parsePkt bytes).vl ≠ 0) (hclass : opClass (parsePkt bytes).op ≠ some 0)
    (hsrc : (parsePkt bytes).src = addr s.plan.deviceId.toNat n)
    (hroom : edgeFits s (8 * n + pcp) (cellsOf (parsePkt bytes)) = true) : edgePkt s n pcp colour bytes =
      settleDie (withLodged (takeCells s (8 * n + pcp) (cellsOf (parsePkt bytes)))
        [{ port := some n, vl := (parsePkt bytes).vl, p := parsePkt bytes, colour, pcp }]) (dieOf n) := by
  rw [edgePkt, if_neg (not_or.mpr ⟨hvl, hclass⟩), if_neg (by simp [hsrc]), lodgeEdge, if_pos hroom]
  rfl

end

/-! ### Pauses sent and received (10 R323) -/

/-- A priority that a received PFC frame no longer stops. -/
def resumed (i : Nat) (p : Port) : Port := { p with paused := p.paused &&& ~~~BitVec.ofNat 8 (2 ^ i) }

/-- A port that a received pause frame no longer stops. -/
def pauseOver (p : Port) : Port := { p with pauseAll := false }

theorem getLsbD_resumed (i j : Nat) (p : Port) : (resumed i p).paused.getLsbD j = (p.paused.getLsbD j && decide (j ≠ i)) := by
  by_cases hj : j < 8
  · exact getLsbD_and_not_bit _ hj
  · simp [BitVec.getLsbD_of_ge, Nat.not_lt.mp hj]

theorem sendPfc_none (off : Bool) : sendPfc s n 0 off = s := rfl

/-- Where no XOFF and no XON is due none is sent. -/
theorem settlePfc_of_settled
    (hoff : ∀ i, i < 8 → (port s n).xoff.getLsbD i = true → acctLevel s (8 * n + i) ≠ 0)
    (hon : ∀ i, i < 8 → bit (portFld s n 13) i = true → (port s n).xoff.getLsbD i = false → acctLevel s (8 * n + i) < 2) :
    settlePfc s n = s := by
  have hons : (List.range 8).filter (fun p => bit (portFld s n 13) p && !bit (port s n).xoff.toNat p &&
      decide (2 ≤ acctLevel s (8 * n + p))) = [] := by
    refine List.filter_eq_nil_iff.mpr fun i hi hdue => ?_
    simp only [bit_toNat, Bool.and_eq_true, Bool.not_eq_true', decide_eq_true_eq] at hdue
    obtain ⟨⟨hpfc, hxoff⟩, hlevel⟩ := hdue
    have := hon i (List.mem_range.mp hi) hpfc hxoff
    omega
  have hoffs : (List.range 8).filter (fun p => bit (port s n).xoff.toNat p && acctLevel s (8 * n + p) == 0) = [] := by
    refine List.filter_eq_nil_iff.mpr fun i hi hdue => ?_
    simp only [bit_toNat, Bool.and_eq_true, beq_iff_eq] at hdue
    exact hoff i (List.mem_range.mp hi) hdue.1 hdue.2
  simp only [settlePfc, hons, hoffs, List.foldl_nil, sendPfc_none]

/-- XOFF sent again for the priorities that have it. -/
theorem sendPfc_repeated (hst : (port s n).st = .up) (hcold : s.pins.coldResetN = true) (hxoff : (port s n).xoff ≠ 0) :
    sendPfc s n (port s n).xoff.toNat true = modPort { s with wire := s.wire ++
      [.frame n (pfcFrame (portFld s n 18) (port s n).xoff.toNat Config.pauseQuanta.toNat)] } n
        fun p => { p with xoff := p.xoff ||| BitVec.ofNat 8 (port s n).xoff.toNat } := by
  have hmask : (port s n).xoff.toNat ≠ 0 := fun h => hxoff (BitVec.eq_of_toNat_eq h)
  rw [sendPfc, if_neg (by simp [hmask, hst])]
  dsimp only
  rw [transmit_of_released _ hcold]
  rfl

end

/-! ### MAC entries (10 R324) -/

/-- The MAC table without the entries of an address on a VLAN. -/
def withoutMac (mac vlan : Nat) (es : List MacEntry) : List MacEntry := es.filter fun m => !(m.mac == mac && m.vlan == vlan)

theorem mem_withoutMac {mac vlan : Nat} {es : List MacEntry} {m : MacEntry} :
    m ∈ withoutMac mac vlan es ↔ m ∈ es ∧ ¬ (m.mac = mac ∧ m.vlan = vlan) := by
  simp only [withoutMac, List.mem_filter, Bool.not_eq_true', Bool.and_eq_false_iff, beq_eq_false_iff_ne, not_and_or, ne_eq]

theorem exec_macAge {s : State} {mac : BitVec 48} {vlan : BitVec 12} (hl : s.live) (hage : l2Fld s 2 ≠ 0) :
    exec (.macAge mac vlan) s = .next { s with mac := withoutMac mac.toNat vlan.toNat s.mac } := by
  change event s (fun s => if l2Fld s 2 = 0 then s else { s with mac := withoutMac mac.toNat vlan.toNat s.mac }) = _
  rw [event_ok hl, if_neg hage]

end Sys2Proof.Machine

namespace Sys2Proof
open Sys2Proof.Machine Sys2Proof.Laws

/-- Settles O25: `edgeFrame_of_malformed`, `edgeFrame_of_pause` and `edgeFrame_of_selnan` for what a frame comes to, `settlePfc_of_settled`
for XOFF while nothing else is due. -/
theorem edgeFrames : Obligations.EdgeFrames := by
  intro s n f hl
  have hframe : exec (.edgeFrame n f) s = .next (edgeFrame n.toNat f s) := event_ok hl
  have hexpiry (i : Fin 8) : exec (.pauseExpiry n (some i)) s = .next (modPort s n.toNat (resumed i.val)) :=
    event_ok (f := fun s => modPort s n.toNat (resumed i.val)) hl
  have hexpiryAll : exec (.pauseExpiry n none) s = .next (modPort s n.toNat pauseOver) :=
    event_ok (f := fun s => modPort s n.toNat pauseOver) hl
  have hrefresh : exec (.xoffRefresh n) s = .next (xoffRefresh n.toNat s) := event_ok hl
  refine ⟨fun hedge hst => ⟨fun hbad => ?_, fun hfcs hmin hmax hda htype hpfc => ?_, ?_⟩, fun i => ?_, ?_, fun hst hcold hxoff hoff hon => ?_,
    fun mac vlan hage => ?_⟩
  · rw [hframe, edgeFrame_of_malformed hedge hst hbad]
    refine ⟨_, rfl, ?_, rfl⟩
    rw [edgeDrop, port_modPort]
  · rw [hframe, edgeFrame_of_pause ⟨hedge, hst, hfcs, hmin, hmax⟩ hda htype, pauseIn_of_pfc hpfc]
    refine ⟨_, rfl, rfl, fun i hi => ?_⟩
    rw [port_modPort, getLsbD_foldl_pauseStep _ _ _ hi]
    simp only [hi, true_and]
  · rintro _ rfl hopen hfcs hmin hmax hda htype hglean hpol hvl hclass
    rw [hframe, edgeFrame_of_selnan ⟨hedge, hst, hfcs, hmin, hmax⟩ hda hopen htype hglean hpol]
    refine ⟨fun hsrc => ?_, fun hsrc hroom => ?_⟩
    · rw [edgePkt_of_foreign hvl hclass hsrc]
      refine ⟨_, rfl, ?_, raise_lastCode .., by simp [edgeRefuse, modRoute], ?_, by simp [edgeRefuse, modRoute]⟩
      · rw [port_raise, port_modRoute, edgeRefuse, port_modPort]
      · simp only [raise_fields, modRoute, tab_get_upd]
        rfl
    · rw [edgePkt_of_room hvl hclass hsrc hroom]
      have h := settleDie_settled
      refine ⟨_, rfl, ?_, ?_⟩
      · rw [(h ..).ingress]
        rfl
      · rw [(h ..).edge]
        exact get_edge_takeCells ..
  · rw [hexpiry]
    refine ⟨_, rfl, rfl, ?_, fun j => ?_⟩ <;> rw [port_modPort]
    · rfl
    · exact getLsbD_resumed ..
  · rw [hexpiryAll]
    refine ⟨_, rfl, rfl, ?_, ?_⟩ <;> rw [port_modPort, pauseOver]
  · rw [hrefresh, xoffRefresh, settlePfc_of_settled hoff hon, sendPfc_repeated hst hcold hxoff]
    refine ⟨_, rfl, rfl, fun m => ?_, rfl⟩
    by_cases hm : m = n.toNat
    · subst hm
      rw [port_modPort, BitVec.ofNat_toNat, BitVec.setWidth_eq]
      exact congrArg (fun m => { port s n.toNat with xoff := m }) BitVec.or_self
    · rw [port_modPort_ne _ _ _ hm]
      rfl
  · rw [exec_macAge hl hage]
    exact ⟨_, rfl, rfl, fun m => mem_withoutMac⟩

end Sys2Proof

namespace Sys2Proof.Machine
open Sys2Proof Sys2Proof.Laws

/-! ## Lodging given back (12 R367) -/

section
variable (s : State)

theorem returnCredits_released (n : Nat) (vl : BitVec 4) (f : Nat) : Released s (returnCredits s n vl f) := by
  unfold returnCredits
  dsimp only
  split
  · split <;> exact ⟨rfl, rfl, [], by simp [creditFlit]⟩
  · exact .refl s

theorem releaseEdge_released (n pcp cells : Nat) : Released s (releaseEdge s n pcp cells) := by
  have h := settleDie_settled { s with core := { s.core with edge := Tab.upd 0 s.core.edge (8 * n + pcp) (· - cells) } } (dieOf n)
  exact ⟨h.outq, h.pins, h.wire⟩

theorem releaseLodging_released (n : Option Nat) (vl : BitVec 4) (pcp : Nat) (it : Item) :
    Released s (releaseLodging s n vl pcp it) := by
  unfold releaseLodging
  cases n
  case none => exact .refl s
  case some n =>
    cases it
    case pkt p =>
      dsimp only
      split
      · exact releaseEdge_released ..
      · exact returnCredits_released ..
    case frame b vlan c => exact releaseEdge_released ..

end

/-! ## A queue is picked (13 R380) -/

section
variable {s : State} {n q : Nat} {u : Queued}

theorem pickQueue_of_strict (charge : Nat → Nat) (hq : q < 4) (hbefore : ∀ r, r < q → queueReady s n r = false)
    (hready : queueReady s n q = true) (hmay : eligible s n q = true) : pickQueue charge s n = (s, some q) := by
  unfold pickQueue
  dsimp only
  rw [List.find?_range_eq_some.mpr ⟨by simp [hready, hmay], List.mem_range.mpr hq, fun r hr => by simp [hbefore r hr]⟩]

/-- Where no queue has a head the weighted pointer alone moves. -/
theorem serveWeighted_of_empty (charge : Nat → Nat) (k : Nat) (h : ∀ q, headOf s n q = none) :
    ∃ sched, serveWeighted charge n k s = ({ s with sched }, none) := by
  induction k generalizing s with
  | zero => exact ⟨s.sched, rfl⟩
  | succ k ih =>
    have hready : queueReady s n (Tab.get 4 s.sched.ptr n) = false := by simp [queueReady, h]
    rw [serveWeighted, if_neg (by simp [hready])]
    obtain ⟨sched, hk⟩ := ih (s := { s with sched := { s.sched with ptr := Tab.set 4 s.sched.ptr n (nextQ (Tab.get 4 s.sched.ptr n)) } }) h
    exact ⟨sched, hk⟩

theorem pickQueue_of_empty (charge : Nat → Nat) (h : ∀ q, headOf s n q = none) :
    ∃ sched, pickQueue charge s n = ({ s with sched }, none) := by
  have hnone (vl0 : Bool) : (List.range 4).find? (fun q => queueReady s n q && (eligible s n q || (q == 0 && vl0))) = none :=
    List.find?_eq_none.mpr fun q _ => by simp [queueReady, h]
  unfold pickQueue
  dsimp only
  rw [hnone]
  exact serveWeighted_of_empty charge 12 h

/-! ## One unit time of a port (10 R308, R311, 13 R379, R380) -/

/-- An IDLE flit as it leaves. -/
def idleOf (s : State) (n : Nat) : Flit := stampFlit (port s n) { ftype := 0, body := List.replicate 256 0 }

theorem sendIdle_of_released (hcold : s.pins.coldResetN = true) :
    sendIdle s n = { s with wire := s.wire ++ [.flit n (idleOf s n)] } := transmit_of_released _ hcold

/-- An UP FABRIC or COACH port that may send. -/
structure FabricOpen (s : State) (n : Nat) : Prop where
  cold : s.pins.coldResetN = true
  up : (port s n).st = .up
  fabric : isFabric s n = true
  whole : (port s n).restriping = false

theorem FabricOpen.notEdge (h : FabricOpen s n) : isEdge s n = false := by
  have := h.fabric
  simp only [isFabric, Bool.and_eq_true, bne_iff_ne] at this
  simp [isEdge, this.2]

theorem serveUnit_of_full (h : FabricOpen s n) (hfull : retryFull s n = true) (e : Ecc) : serveUnit n e s = sendIdle s n := by
  simp [serveUnit, h.cold, h.up, h.fabric, h.whole, hfull]

/-- The CTRL flits that still wait. -/
def ctrlLeft (bs : List (List Byte)) (p : Port) : Port := { p with ctrlQ := bs }

theorem serveUnit_of_ctrl {b : List Byte} {bs : List (List Byte)} (h : FabricOpen s n) (hroom : retryFull s n = false)
    (hctrl : (port s n).ctrlQ = b :: bs) (e : Ecc) :
    serveUnit n e s = sendFlit (modPort s n (ctrlLeft bs)) n { ftype := 2, body := b } := by
  simp [serveUnit, h.cold, h.up, h.fabric, h.whole, hroom, hctrl, modPort, ctrlLeft, Tab.upd]

theorem serveUnit_of_nothing {t : State} (h : FabricOpen s n) (hroom : retryFull s n = false) (hctrl : (port s n).ctrlQ = [])
    (hpick : pickQueue (headCharge s n) s n = (t, none)) (e : Ecc) : serveUnit n e s = sendIdle t n := by
  simp [serveUnit, h.cold, h.up, h.fabric, h.whole, hroom, hctrl, hpick]

theorem serveUnit_of_head (h : FabricOpen s n) (hroom : retryFull s n = false) (hctrl : (port s n).ctrlQ = [])
    (hpick : pickQueue (headCharge s n) s n = (s, some q)) (hhead : headOf s n q = some u) (hsent : u.sent = 0) :
    serveUnit n .ok s = settleDeficit (sendUnit s n u) n q := by
  simp [serveUnit, serveUnit.serveHead, h.cold, h.up, h.fabric, h.whole, hroom, hctrl, hpick, hhead, hsent]

theorem serveUnit_of_edgeHead (hcold : s.pins.coldResetN = true) (hup : (port s n).st = .up) (hedge : isEdge s n = true)
    (hpick : pickQueue (headCharge s n) s n = (s, some q)) (hhead : headOf s n q = some u) (hsent : u.sent = 0) :
    serveUnit n .ok s = settleDeficit (sendUnit s n u) n q := by
  have hfabric : isFabric s n = false := by
    simp only [isEdge, Bool.and_eq_true, beq_iff_eq] at hedge
    simp [isFabric, hedge.2]
  simp [serveUnit, serveUnit.serveHead, hcold, hup, hfabric, hedge, hpick, hhead, hsent]

/-! ### What sending leaves -/

@[simp] theorem settleDeficit_fields (s : State) (n q : Nat) :
    (settleDeficit s n q).wire = s.wire ∧ (settleDeficit s n q).outq = s.outq := by
  unfold settleDeficit
  split <;> exact ⟨rfl, rfl⟩

@[simp] theorem glean_fields (s : State) (n dir vl : Nat) (bytes : List Byte) :
    (glean s n dir vl bytes).wire = s.wire ∧ (glean s n dir vl bytes).outq = s.outq ∧ (glean s n dir vl bytes).pins = s.pins := by
  unfold glean takeSample
  dsimp only
  (repeat' split) <;> exact ⟨rfl, rfl, rfl⟩

/-- A unit that has been sent whole leaves its queue and gives its lodging back. -/
def unitDone (s : State) (u : Queued) (it : Item) : State :=
  releaseLodging { s with outq := s.outq.erase u } (u.src.map (·.1)) ((u.src.map (·.2)).getD 0) u.pcp it

theorem unitDone_released (s : State) (u : Queued) (it : Item) : Released { s with outq := s.outq.erase u } (unitDone s u it) :=
  releaseLodging_released ..

/-! ### The first flit of a packet (10 R307, R308) -/

/-- A packet's bytes as they leave, with its hop counted. -/
def hopBytes (p : Pkt) : List Byte := Pkt.header { p with hop := p.hop + 1 } ++ p.payload

def firstFlit (u : Queued) (p : Pkt) : Flit :=
  { ftype := 1, vl := u.vl, pos := if flitsOf p = 1 then 3 else 1, body := slice (hopBytes p) 0 256 }

/-- The first flit has left, with the packet's charge and its sample. -/
def firstSent (s : State) (n : Nat) (u : Queued) (p : Pkt) : State :=
  glean (sendFlit (chargeShapers s n u.queue 256) n (firstFlit u p)) n 1 u.vl.toNat (hopBytes p)

theorem firstSent_fields (hcold : s.pins.coldResetN = true) (p : Pkt) :
    (firstSent s n u p).wire = s.wire ++ [.flit n (sentAs s n (firstFlit u p))] ∧ (firstSent s n u p).outq = s.outq := by
  have hcharged : (chargeShapers s n u.queue 256).pins.coldResetN = true := hcold
  simp only [firstSent, glean_fields, sendFlit_of_released n _ hcharged]
  exact ⟨rfl, rfl⟩

theorem sendUnit_of_single {p : Pkt} (hedge : isEdge s n = false) (hitem : u.item = .pkt p) (hcopy : u.copy = none) (hsent : u.sent = 0)
    (hone : flitsOf p = 1) : sendUnit s n u = unitDone (firstSent s n u p) u (.pkt p) := by
  simp [sendUnit, Queued.whole, hcopy, hitem, hedge, hsent, hone, firstSent, firstFlit, hopBytes, unitDone, releaseRef]

theorem sendUnit_of_several {p : Pkt} (hedge : isEdge s n = false) (hitem : u.item = .pkt p) (hcopy : u.copy = none) (hsent : u.sent = 0)
    (hmany : flitsOf p ≠ 1) : sendUnit s n u =
      { firstSent s n u p with outq := (firstSent s n u p).outq.map fun x => if x = u then { u with sent := 1 } else x } := by
  simp [sendUnit, Queued.whole, hcopy, hitem, hedge, hsent, hmany.symm, hmany, firstSent, firstFlit, hopBytes]

theorem sendUnit_of_frame {p : Pkt} (hedge : isEdge s n = true) (hitem : u.item = .pkt p) (hcopy : u.copy = none)
    (hmtu : (selnanFrame s n u p).length ≤ portFld s n 11) : sendUnit s n u =
      glean (transmit (unitDone (chargeShapers s n u.queue ((selnanFrame s n u p).length + 20)) u (.pkt p))
        [.frame n (selnanFrame s n u p)]) n 1 p.vl.toNat (p.header ++ p.payload) := by
  simp [sendUnit, Queued.whole, hcopy, hitem, hedge, Nat.not_lt.mpr hmtu, unitDone, releaseRef]

end

end Sys2Proof.Machine

namespace Sys2Proof
open Sys2Proof.Machine Sys2Proof.Laws

theorem portService : Claims.PortService := by
  rintro s n _ hl rfl hcold hup
  have hserve : exec (.serveUnit n .ok) s = .next (serveUnit n.toNat .ok s) := event_ok hl
  rw [hserve]
  refine ⟨fun hfabric hwhole hfull => ?_, fun hfabric hwhole hroom b bs hctrl => ?_, fun hfabric hwhole hroom hctrl hempty => ?_,
    fun hfabric hwhole hroom hctrl q u p hq hbefore hready hmay hhead hitem hsent hcopy => ?_,
    fun hedge q u p hq hbefore hready hmay hhead hitem hsent hcopy hmtu => ?_⟩
  · rw [serveUnit_of_full ⟨hcold, hup, hfabric, hwhole⟩ hfull, sendIdle_of_released hcold]
    exact ⟨_, _, rfl, rfl, rfl, rfl, rfl, rfl⟩
  · rw [serveUnit_of_ctrl ⟨hcold, hup, hfabric, hwhole⟩ hroom hctrl, sendFlit_of_released (s := modPort s n.toNat (ctrlLeft bs)) _ _ hcold]
    refine ⟨_, _, rfl, rfl, rfl, rfl, ?_, ?_, ?_, ?_, rfl⟩
    · simp [sentAs, stampFlit, ctrlLeft]
    · simp [keeping, ctrlLeft]
    · simp [keeping, ctrlLeft]
    · simp [keeping, ctrlLeft]
  · obtain ⟨sched, hpick⟩ := pickQueue_of_empty (headCharge s n.toNat) hempty
    rw [serveUnit_of_nothing ⟨hcold, hup, hfabric, hwhole⟩ hroom hctrl hpick, sendIdle_of_released (s := { s with sched }) hcold]
    exact ⟨_, _, rfl, rfl, rfl, rfl⟩
  · have h : FabricOpen s n.toNat := ⟨hcold, hup, hfabric, hwhole⟩
    obtain ⟨hwire, houtq⟩ := firstSent_fields (n := n.toNat) (u := u) hcold p
    rw [serveUnit_of_head h hroom hctrl (pickQueue_of_strict _ hq hbefore hready hmay) hhead hsent]
    by_cases hone : flitsOf p = 1
    · have hdone := unitDone_released (firstSent s n.toNat u p) u (.pkt p)
      obtain ⟨more, hmore⟩ := hdone.wire
      rw [sendUnit_of_single h.notEdge hitem hcopy hsent hone]
      refine ⟨_, sentAs s n.toNat (firstFlit u p), more, rfl, ?_, rfl, rfl, rfl, rfl, fun _ => ⟨if_pos hone, ?_⟩, fun hmany => absurd hone hmany⟩
      · rw [(settleDeficit_fields ..).1, hmore, hwire, List.append_assoc]
        rfl
      · rw [(settleDeficit_fields ..).2, hdone.outq, houtq]
    · rw [sendUnit_of_several h.notEdge hitem hcopy hsent hone]
      refine ⟨_, sentAs s n.toNat (firstFlit u p), [], rfl, ?_, rfl, rfl, rfl, rfl, fun h => absurd h hone, fun _ => ⟨if_neg hone, rfl, ?_⟩⟩
      · rw [(settleDeficit_fields ..).1]
        exact hwire
      · rw [(settleDeficit_fields ..).2, houtq]
  · have hdone := unitDone_released (chargeShapers s n.toNat u.queue ((selnanFrame s n.toNat u p).length + 20)) u (.pkt p)
    obtain ⟨more, hmore⟩ := hdone.wire
    rw [serveUnit_of_edgeHead hcold hup hedge (pickQueue_of_strict _ hq hbefore hready hmay) hhead hsent,
      sendUnit_of_frame hedge hitem hcopy hmtu, transmit_of_released _ (by rw [hdone.pins]; exact hcold)]
    refine ⟨_, more, rfl, ?_, ?_⟩
    · rw [(settleDeficit_fields ..).2, (glean_fields ..).2.1]
      exact hdone.outq
    · rw [(settleDeficit_fields ..).1, (glean_fields ..).1]
      exact congrArg (· ++ _) hmore

end Sys2Proof

namespace Sys2Proof.Machine
open Sys2Proof Sys2Proof.Laws

/-! ## Refill (13 R382, R384, R385, R387) -/

/-- Of a list in which one entry alone has its key, every entry with that key gives the same value. -/
theorem eq_of_uniqueKey {α β κ : Type*} {l pre post : List α} {r : α} {key : α → κ} (hl : l = pre ++ r :: post)
    (hunique : ∀ x ∈ pre ++ post, key x ≠ key r) (val : α → β) : ∀ y ∈ l, key y = key r → val y = val r := by
  rintro y hy hkey
  have hmem : y = r ∨ y ∈ pre ++ post := by
    rw [hl] at hy
    simp only [List.mem_append, List.mem_cons] at hy ⊢
    tauto
  obtain rfl | hmem := hmem
  · rfl
  · exact absurd hkey (hunique y hmem)

/-- Every bucket refilled. -/
def refilled (s : State) : State :=
  { s with sched := { s.sched with q := refillQueues s, port := refillPorts s, pol := refillPols s } }

section
variable {s : State} {pre post : List PlanRec} {r : PlanRec}

theorem get_refillPorts (hrecs : planRecs s 0x06 0x02 = pre ++ r :: post) (hunique : ∀ x ∈ pre ++ post, x.index ≠ r.index) :
    Tab.get {} (refillPorts s) r.index = refillShaper (pShaper s r.index) (r.fld 0) (r.fld 1) :=
  tab_get_foldl_set_of_mem (key := PlanRec.index) (eq_of_uniqueKey hrecs hunique _) ⟨r, by simp [hrecs], rfl⟩

theorem get_refillPorts_of_none {n : Nat} (h : ∀ x ∈ planRecs s 0x06 0x02, x.index ≠ n) : Tab.get {} (refillPorts s) n = {} :=
  tab_get_foldl_set_of_notMem (key := PlanRec.index) h

theorem get_refillPols (hrecs : planRecs s 0x06 0x03 = pre ++ r :: post) (hunique : ∀ x ∈ pre ++ post, x.index ≠ r.index) :
    Tab.get {} (refillPols s) r.index = refillPol (Tab.get {} s.sched.pol r.index) r :=
  tab_get_foldl_set_of_mem (key := PlanRec.index) (eq_of_uniqueKey hrecs hunique _) ⟨r, by simp [hrecs], rfl⟩

end

theorem refillPol_of_new {x : PolState} (hnew : x.on = false) (r : PlanRec) : refillPol x r = polFull r := by simp [refillPol, hnew]

/-- A two-rate policer gains each rate up to its own burst (RFC 2698). -/
theorem refillPol_of_twoRate {x : PolState} {r : PlanRec} (hon : x.on = true) (hmode : r.fld 0 ≠ 0) : refillPol x r =
    { on := true, fields := r.fields, c := min (x.c + r.fld 3 * 8) (r.fld 4 * 600), e := min (x.e + r.fld 5 * 8) (r.fld 6 * 600) } := by
  simp [refillPol, hon, hmode]

end Sys2Proof.Machine

namespace Sys2Proof
open Sys2Proof.Machine Sys2Proof.Laws

theorem refill : Claims.Refill := by
  intro s hl
  have hexec : exec .refill s = .next (refilled s) := event_ok (f := refilled) hl
  refine ⟨refilled s, hexec, rfl, rfl, ?_, fun n hnone => get_refillPorts_of_none hnone, ?_⟩
  · rintro pre r post hrecs hunique _ rfl
    exact get_refillPorts hrecs hunique
  · rintro pre r post hrecs hunique hmode x y rfl rfl
    have hpol : Tab.get {} (refilled s).sched.pol r.index = refillPol (Tab.get {} s.sched.pol r.index) r :=
      get_refillPols hrecs hunique
    rw [hpol]
    cases hon : (Tab.get {} s.sched.pol r.index).on
    · rw [refillPol_of_new hon]
      exact ⟨rfl, rfl, nofun, fun _ => ⟨rfl, rfl⟩⟩
    · rw [refillPol_of_twoRate hon hmode]
      exact ⟨rfl, rfl, fun _ => ⟨rfl, rfl⟩, nofun⟩

/-- Settles O27: `serveUnit_of_full` and the lemmas beside it for what a port serves, `get_refillPorts` and `get_refillPols` for the
buckets after a refill. -/
theorem serviceAndShaping : Obligations.ServiceAndShaping := ⟨portService, refill⟩

end Sys2Proof

/-! # Lookup and dispatch: O26

Giving lodging back changes ports, the core and the wire alone; lookup and dispatch are said case by case from there. -/

namespace Sys2Proof.Machine
open Sys2Proof Sys2Proof.Laws

/-! ## What giving lodging back leaves (12 R364, R367, 10 R323) -/

/-- Ports, the core and the wire alone differ. -/
def SameButPorts (s t : State) : Prop := ∃ ports core wire, t = { s with ports, core, wire }

namespace SameButPorts
variable {s t u : State}

theorem refl (s : State) : SameButPorts s s := ⟨s.ports, s.core, s.wire, rfl⟩

theorem trans (h : SameButPorts s t) (k : SameButPorts t u) : SameButPorts s u := by
  obtain ⟨_, _, _, rfl⟩ := h
  obtain ⟨ports, core, wire, rfl⟩ := k
  exact ⟨ports, core, wire, rfl⟩

theorem foldl {α : Type*} {f : State → α → State} (step : ∀ s a, SameButPorts s (f s a)) (l : List α) (s : State) :
    SameButPorts s (l.foldl f s) := foldl_of_step refl trans step l s

theorem ingress (h : SameButPorts s t) : t.ingress = s.ingress := by obtain ⟨_, _, _, rfl⟩ := h; rfl
theorem delivered (h : SameButPorts s t) : t.delivered = s.delivered := by obtain ⟨_, _, _, rfl⟩ := h; rfl
theorem outq (h : SameButPorts s t) : t.outq = s.outq := by obtain ⟨_, _, _, rfl⟩ := h; rfl
theorem route (h : SameButPorts s t) : t.route = s.route := by obtain ⟨_, _, _, rfl⟩ := h; rfl
theorem gran (h : SameButPorts s t) : t.gran = s.gran := by obtain ⟨_, _, _, rfl⟩ := h; rfl
theorem fault (h : SameButPorts s t) : t.fault = s.fault := by obtain ⟨_, _, _, rfl⟩ := h; rfl

end SameButPorts

theorem sendPfc_sameButPorts (s : State) (n mask : Nat) (off : Bool) : SameButPorts s (sendPfc s n mask off) := by
  unfold sendPfc
  split
  · exact .refl s
  · unfold transmit
    dsimp only
    split <;> exact ⟨_, _, _, rfl⟩

theorem settlePfc_sameButPorts (s : State) (n : Nat) : SameButPorts s (settlePfc s n) :=
  (sendPfc_sameButPorts ..).trans (sendPfc_sameButPorts ..)

theorem tryRoom_sameButPorts {s t : State} {w : RoomWait} (h : tryRoom s w = some t) : SameButPorts s t := by
  unfold tryRoom at h
  split at h
  · split at h
    · cases h
    · split at h
      · obtain ⟨c, -, rfl⟩ := Option.map_eq_some_iff.mp h
        exact ⟨_, _, _, rfl⟩
      · cases h
  · cases h

theorem retryRooms_sameButPorts (die inn k : Nat) (s : State) : SameButPorts s (retryRooms die inn k s) := by
  induction k generalizing s with
  | zero => exact .refl s
  | succ k ih =>
    unfold retryRooms
    split
    · exact .refl s
    · next t ht =>
      obtain ⟨v, -, hv⟩ := List.exists_of_findSome?_eq_some ht
      obtain ⟨u, hu, huv⟩ := Option.map_eq_some_iff.mp hv
      cases huv
      exact (tryRoom_sameButPorts hu).trans (.trans ⟨_, _, _, rfl⟩ (ih _))

theorem settleDie_sameButPorts (s : State) (die : Nat) : SameButPorts s (settleDie s die) :=
  (SameButPorts.foldl (fun s inn => retryRooms_sameButPorts die inn _ s) _ _).trans (SameButPorts.foldl settlePfc_sameButPorts _ _)

theorem returnCredits_sameButPorts (s : State) (n : Nat) (vl : BitVec 4) (f : Nat) : SameButPorts s (returnCredits s n vl f) := by
  unfold returnCredits
  dsimp only
  split
  · split <;> exact ⟨_, _, _, rfl⟩
  · exact .refl s

theorem releaseEdge_sameButPorts (s : State) (n pcp cells : Nat) : SameButPorts s (releaseEdge s n pcp cells) :=
  .trans ⟨_, _, _, rfl⟩ (settleDie_sameButPorts _ _)

theorem releaseLodging_sameButPorts (s : State) (n : Option Nat) (vl : BitVec 4) (pcp : Nat) (it : Item) :
    SameButPorts s (releaseLodging s n vl pcp it) := by
  unfold releaseLodging
  cases n
  case none => exact .refl s
  case some n =>
    cases it
    case pkt p =>
      dsimp only
      split
      · exact releaseEdge_sameButPorts ..
      · exact returnCredits_sameButPorts ..
    case frame b vlan c => exact releaseEdge_sameButPorts ..

section
variable {s : State} {l : Lodged}

/-- A lodged packet that shares no stored copy leaves lodging when it is discarded. -/
theorem dropLodged_sameButPorts (hcopy : l.copy = none) : SameButPorts { s with ingress := s.ingress.erase l } (dropLodged s l) := by
  unfold dropLodged releaseRef
  rw [hcopy]
  exact releaseLodging_sameButPorts ..

/-! ## Lookup (11 R330, R333, R340, R341) -/

/-- Every check of R330 and R333 of a packet at an ingress port. -/
def wholeAt (s : State) (n : Nat) (l : Lodged) : Bool := l.vl == l.p.vl && headerOk s n l.p && srcOk s n l.p

theorem wholeAt_eq_false {n : Nat} (h : l.p.dstN ≠ ~~~l.p.dst ∨ l.p.seqN ≠ ~~~l.p.seq ∨ l.p.hcrc ≠ Pkt.crc l.p ∨ 1024 < l.p.len.toNat ∨
    8 < l.p.vl.toNat ∨ carries s n l.p.vl = false ∨ classOk s n l.p = false ∨
    (endpointPort s n = true ∧ l.p.src ≠ addr s.plan.deviceId.toNat n)) : wholeAt s n l = false := by
  rw [Bool.eq_false_iff]
  intro hwhole
  simp only [wholeAt, headerOk, srcOk, Bool.and_eq_true, Bool.or_eq_true, Bool.not_eq_true', beq_iff_eq, decide_eq_true_eq] at hwhole
  obtain ⟨⟨-, ⟨⟨⟨⟨⟨hdst, hseq⟩, hcrc⟩, hclass⟩, hvl⟩, hcarries⟩, hlen⟩, hsrc⟩ := hwhole
  obtain h | h | h | h | h | h | h | ⟨hend, h⟩ := h
  · exact h hdst
  · exact h hseq
  · exact h hcrc
  · omega
  · omega
  · simp [hcarries] at h
  · simp [hclass] at h
  · simp [hend, h] at hsrc

theorem wholeAt_of_device {n : Nat} (hvl : l.vl = l.p.vl) (hheader : headerOk s n l.p = true) (hdevice : endpointPort s n = false) :
    wholeAt s n l = true := by simp [wholeAt, hvl, hheader, srcOk, hdevice]

theorem get_die_modRoute (s : State) (die : Nat) (f : RouteDie → RouteDie) :
    Tab.get {} (modRoute s die f).route.die die = f (Tab.get {} s.route.die die) := tab_get_upd ..

/-- A packet that is not whole, counted on its port's die and discarded. -/
def headerDrop (s : State) (n : Nat) (l : Lodged) : State :=
  dropLodged (modRoute s (dieOf n) fun r => { r with hdr := satInc r.hdr }) l

section
variable {n : Nat} {vl : BitVec 4} {k : Nat}

theorem packetLookup_of_notWhole (hhead : headLodged s (some n) vl k = some l) (hnew : l.looked = false) (hbad : wholeAt s n l = false)
    (chk lchk : Ecc) : packetLookup (some n) vl k chk lchk s = raise (headerDrop s n l) fHdrCheck uPort n := by
  unfold wholeAt at hbad
  simp [packetLookup, hhead, hnew, hbad, headerDrop]

theorem headerDrop_sameButPorts (n : Nat) (hcopy : l.copy = none) :
    SameButPorts { modRoute s (dieOf n) (fun r => { r with hdr := satInc r.hdr }) with ingress := s.ingress.erase l } (headerDrop s n l) :=
  dropLodged_sameButPorts hcopy

theorem police_of_off {sel : Nat} (hoff : (Tab.get {} s.sched.pol (16 * n + sel)).on = false) (pre bytes : Nat) :
    police s n sel pre bytes = (s, 0) := by simp [police, hoff]

@[simp] theorem lookupChecks_ok (s : State) (dst : Addr) : lookupChecks s dst .ok .ok = s := ite_self s

theorem setLodged_eq (s : State) (l l' : Lodged) :
    setLodged s l l' = { s with ingress := s.ingress.map fun x => if x = l then l' else x } := by simp [setLodged]

/-- A whole packet from another device, with no policer on its port and VL, passes into dispatch where it stands. -/
theorem packetLookup_of_device (hhead : headLodged s (some n) vl k = some l) (hnew : l.looked = false) (hwhole : wholeAt s n l = true)
    (hdevice : endpointPort s n = false) (hoff : (Tab.get {} s.sched.pol (16 * n + l.p.vl.toNat)).on = false) :
    packetLookup (some n) vl k .ok .ok s = setLodged s l { l with looked := true, colour := 0 } := by
  obtain ⟨hedge, hpeer⟩ := Bool.or_eq_false_iff.mp hdevice
  unfold wholeAt at hwhole
  simp [packetLookup, hhead, hnew, hwhole, hdevice, hedge, hpeer, police_of_off hoff]

theorem escAfter_of_main {n : Option Nat} (hhead : headLodged s n vl k = some l) (hlooked : l.looked = true)
    (hmain : isEscapeVl vl = false) (hdata : vl ≠ 0) : escAfter n vl k s = setLodged s l { l with escaped := true } := by
  rw [escAfter, hhead]
  exact if_pos (by rw [hlooked, hmain, bne_iff_ne.mpr hdata]; rfl)

end

/-! ## Dispatch to a unit of this device (11 R344, R347) -/

/-- A packet handed to the unit of this device that it is for. -/
def handed (s : State) (l : Lodged) : State :=
  releaseLodging { s with ingress := s.ingress.erase l, delivered := s.delivered ++ [{ port := l.port, p := l.p }] }
    l.port l.vl l.pcp (.pkt l.p)

theorem handed_sameButPorts (s : State) (l : Lodged) :
    SameButPorts { s with ingress := s.ingress.erase l, delivered := s.delivered ++ [{ port := l.port, p := l.p }] } (handed s l) :=
  releaseLodging_sameButPorts ..

/-- An internal target takes a packet of class other than COL when there is room for its response. -/
theorem toLocal_of_internal (hcopy : l.copy = none) (hkind : 2 ≤ (localKind s (fieldOf l.p.dst)).1) (hclass : vlClass l.p.vl ≠ some 4)
    (hgood : s.route.badLocal.contains (fieldOf l.p.dst) = false) :
    toLocal s l .ok = if hasRoom s l.p then handed s l else s := by
  have hport : (localKind s (fieldOf l.p.dst)).1 ≠ 1 := by omega
  have hsome : (localKind s (fieldOf l.p.dst)).1 ≠ 0 := by omega
  have hcol : (vlClass l.p.vl == some 4) = false := beq_false_of_ne hclass
  simp only [toLocal, hcol, hgood, hport, hsome, hcopy, releaseRef, handed, Lodged.whole]
  simp

/-- A COL packet of a furrow of the plan is handed on, unless it is movement data and its window is full. -/
theorem toLocal_of_col (hcopy : l.copy = none) (hkind : (localKind s (fieldOf l.p.dst)).1 ≠ 1) (hclass : vlClass l.p.vl = some 4)
    (hnamed : colNamed s l.p = true) :
    toLocal s l .ok = if l.p.op = pMoveData ∧ windowFits s l.p = false then s else handed s l := by
  simp [toLocal, hclass, hkind, hnamed, hcopy, releaseRef, handed, Lodged.whole]

/-! ## The output chosen (11 R341, R342) -/

theorem mem_of_fewest {vl : BitVec 4} {ns : List Nat} {m : Nat} (h : fewest s vl ns = some m) : m ∈ ns := by
  induction ns generalizing m with
  | nil => cases h
  | cons n ns ih =>
    rw [fewest] at h
    split at h
    · cases h
      exact List.mem_cons_self
    · next hrest =>
      split at h <;> cases h
      · exact List.mem_cons_self
      · exact List.mem_cons_of_mem _ (ih hrest)

theorem usable_up {n : Nat} {vl : BitVec 4} {p : Pkt} (h : usable s n vl p = true) : (port s n).st = .up ∧ portHedged s n = false := by
  simp only [usable, Bool.and_eq_true, beq_iff_eq, Bool.not_eq_true'] at h
  obtain ⟨⟨⟨⟨⟨hup, hopen⟩, -⟩, -⟩, -⟩, -⟩ := h
  exact ⟨hup, hopen⟩

/-- A port that the signpost of a packet names, that is UP, and that carries no hedge unless the packet is MGT. -/
structure OpenWay (s : State) (r : PlanRec) (l : Lodged) (m : Nat) : Prop where
  named : m = escPort r ∨ m ∈ candidates r
  up : (port s m).st = .up
  unhedged : l.p.vl ≠ 0 → portHedged s m = false

section
variable {r : PlanRec} {m : Nat} {v : BitVec 4}

theorem OpenWay.of_usable {w : BitVec 4} (hnamed : m = escPort r ∨ m ∈ candidates r) (h : usable s m w l.p = true) : OpenWay s r l m :=
  ⟨hnamed, (usable_up h).1, fun _ => (usable_up h).2⟩

theorem OpenWay.of_mgt {holds : Nat → Bool} (hvl : l.p.vl = 0)
    (h : fewest s 0 ((candidates r ++ [escPort r]).filter fun n => (port s n).st == .up && holds n) = some m) : OpenWay s r l m := by
  have hmem := mem_of_fewest h
  simp only [List.mem_filter, List.mem_append, List.mem_singleton, Bool.and_eq_true, beq_iff_eq] at hmem
  obtain ⟨hnamed, hup, -⟩ := hmem
  exact ⟨hnamed.symm, hup, absurd hvl⟩

theorem OpenWay.of_candidate {w : BitVec 4} {holds : Nat → Bool}
    (h : fewest s w ((candidates r).filter fun n => usable s n w l.p && holds n) = some m) : OpenWay s r l m := by
  have hmem := mem_of_fewest h
  simp only [List.mem_filter, Bool.and_eq_true] at hmem
  obtain ⟨hcandidate, husable, -⟩ := hmem
  exact .of_usable (.inr hcandidate) husable

theorem OpenWay.of_escape {w : BitVec 4} {holds kept : Bool}
    (h : (if usable s (escPort r) w l.p && holds && kept then some (escPort r, w) else none) = some (m, v)) : OpenWay s r l m := by
  split at h
  · next husable =>
    simp only [Bool.and_eq_true] at husable
    cases h
    exact .of_usable (.inl rfl) husable.1.1
  · cases h

theorem openWay_of_chooseOutput (h : chooseOutput s r l = some (m, v)) : OpenWay s r l m := by
  unfold chooseOutput at h
  dsimp only at h
  split at h
  · next hmgt =>
    obtain ⟨n, hn, heq⟩ := Option.map_eq_some_iff.mp h
    cases heq
    exact .of_mgt hmgt hn
  · split at h
    · exact .of_escape h
    · split at h
      · next hn =>
        cases h
        exact .of_candidate hn
      · split at h
        · exact .of_escape h
        · cases h

/-! ## Dispatch to an output (11 R340, 12 R356, 13 R377) -/

/-- An account takes its turn, and nothing but the rotation of its output moves on. -/
theorem takeTurn_of_turn (hturn : itsTurn s l m v = true) (go : State → State) : ∃ core, takeTurn s l m v go = go { s with core } := by
  rw [takeTurn, if_pos hturn]
  split
  · exact ⟨_, rfl⟩
  · exact ⟨s.core, rfl⟩

theorem takeTurn_of_wait (hturn : itsTurn s l m v = false) (go : State → State) : takeTurn s l m v go = s := by simp [takeTurn, hturn]

/-- A packet as it stands in the queue of its output. -/
def queuedAs (s : State) (l : Lodged) (m : Nat) (v : BitVec 4) : Queued :=
  { port := m, queue := queueOf s v l.colour, vl := v, item := .pkt { l.p with vl := v }, src := l.port.map (·, l.vl), unit := l.unit,
    pcp := l.pcp, colour := l.colour, room := l.room }

/-- An output port that has given a packet its credits. -/
def charged (s : State) (l : Lodged) (m : Nat) (v : BitVec 4) (p : Port) : Port :=
  { p with credits := if isEdge s m then p.credits else Tab.upd 0 p.credits v.toNat (· - flitsOf l.p)
           demoted := if l.colour = 2 then satInc p.demoted else p.demoted }

theorem toOutput_eq (hcopy : l.copy = none) (hgate : gated s m l.p = false) (hhop : isEdge s m = true ∨ l.p.hop.toNat < 14) :
    ∃ route, toOutput s l m v =
      { modPort s m (charged s l m v) with route, ingress := s.ingress.erase l, outq := s.outq ++ [queuedAs s l m v] } := by
  have hsent : ¬ (!isEdge s m && decide (14 ≤ l.p.hop.toNat)) = true := by
    obtain h | h := hhop <;> simp [h]
  rw [toOutput, if_neg (by simp [hgate]), if_neg hsent]
  dsimp only
  rw [hcopy]
  split <;> exact ⟨_, rfl⟩

theorem creditsHeld_charged : creditsHeld (modPort s m (charged s l m v)) m v =
    if isEdge s m then creditsHeld s m v else creditsHeld s m v - flitsOf l.p := by
  rw [creditsHeld, port_modPort, charged]
  split
  · rfl
  · exact tab_get_upd 0 (port s m).credits v.toNat (· - flitsOf l.p)

end

/-! ## Packets discarded (11 R342, R343) -/

theorem modRoute_dropLodged (hcopy : l.copy = none) (die : Nat) (f : RouteDie → RouteDie) :
    (modRoute (dropLodged s l) die f).ingress = s.ingress.erase l ∧ (modRoute (dropLodged s l) die f).outq = s.outq ∧
    (modRoute (dropLodged s l) die f).delivered = s.delivered ∧
    Tab.get {} (modRoute (dropLodged s l) die f).route.die die = f (Tab.get {} s.route.die die) := by
  have h := dropLodged_sameButPorts (s := s) hcopy
  refine ⟨h.ingress, h.outq, h.delivered, ?_⟩
  rw [get_die_modRoute, h.route]

/-- ROUTE_NONE is raised or not: the packet is gone, and its die has counted it. -/
theorem routeNone_fields (key : Nat) (hcopy : l.copy = none) : (routeNone s l key).ingress = s.ingress.erase l ∧
    (routeNone s l key).outq = s.outq ∧ (routeNone s l key).delivered = s.delivered ∧
    (Tab.get {} (routeNone s l key).route.die (lodgedDie s l)).disc = satInc (Tab.get {} s.route.die (lodgedDie s l)).disc := by
  obtain ⟨hingress, houtq, hdelivered, hdie⟩ :=
    modRoute_dropLodged (s := s) hcopy (lodgedDie s l) fun r => { r with disc := satInc r.disc }
  unfold routeNone
  dsimp only
  split
  · exact ⟨hingress, houtq, hdelivered, congrArg RouteDie.disc hdie⟩
  · simp only [raise_fields]
    exact ⟨hingress, houtq, hdelivered, congrArg RouteDie.disc hdie⟩

/-! ## Dispatch of the head of a VL (11 R340 to R344) -/

/-- A looked-up packet at the head of its VL, bound to no port of its own. -/
structure Routable (s : State) (n : Option Nat) (vl : BitVec 4) (k : Nat) (l : Lodged) : Prop where
  head : headLodged s n vl k = some l
  looked : l.looked = true
  via : l.via = none

namespace Routable
variable {n : Option Nat} {vl : BitVec 4} {k : Nat} {r : PlanRec} (h : Routable s n vl k l) (e : Ecc)
include h

theorem dispatch_of_here (hdev : devOf l.p.dst = s.plan.deviceId.toNat) (hgood : s.route.bad.contains (devOf l.p.dst) = false) :
    dispatch n vl k e s = toLocal s l e := by
  rw [hdev] at hgood
  have hmem : s.plan.deviceId.toNat ∉ s.route.bad := by simpa using hgood
  simp [dispatch, h.head, h.looked, h.via, hdev, hmem]

theorem dispatch_of_noSignpost (hdev : devOf l.p.dst ≠ s.plan.deviceId.toNat) (hnone : signpost s (devOf l.p.dst) = none) :
    dispatch n vl k e s = if vl = 0 then mgtDiscard s l else routeNone s l (devOf l.p.dst) := by
  simp [dispatch, h.head, h.looked, h.via, hdev, hnone]

theorem dispatch_of_output {m : Nat} {v : BitVec 4} (hdev : devOf l.p.dst ≠ s.plan.deviceId.toNat)
    (hsign : signpost s (devOf l.p.dst) = some r) (hout : chooseOutput s r l = some (m, v)) :
    dispatch n vl k e s = takeTurn s l m v fun s => toOutput s l m v := by
  simp [dispatch, h.head, h.looked, h.via, hdev, hsign, hout]

theorem dispatch_of_noOutput (hdev : devOf l.p.dst ≠ s.plan.deviceId.toNat) (hsign : signpost s (devOf l.p.dst) = some r)
    (hout : chooseOutput s r l = none) (hdata : vl ≠ 0) (hway : noWay s r = false) : dispatch n vl k e s = s := by
  simp [dispatch, h.head, h.looked, h.via, hdev, hsign, hout, hway, show vl ≠ 0#4 from hdata]

end Routable

end

end Sys2Proof.Machine

namespace Sys2Proof
open Sys2Proof.Machine Sys2Proof.Laws

theorem lookupOfPackets : Claims.PacketLookup := by
  intro s n vl k l hl hhead hcopy
  have hlookup (chk : LookupChecks) : exec (.packetLookup (some n) ⟨vl, k⟩ chk) s =
      .next (packetLookup (some n.toNat) vl k chk.signpost chk.localPort s) := event_ok hl
  refine ⟨fun hnew hbad chk => ?_, fun hnew hvl hheader hdevice hoff => ?_, fun hlooked hmain => ?_⟩
  · have hdrop := headerDrop_sameButPorts (s := s) n.toNat hcopy
    rw [hlookup, packetLookup_of_notWhole hhead hnew (wholeAt_eq_false hbad)]
    refine ⟨_, rfl, ?_, raise_lastCode .., raise_lastUnit .., ?_, ?_, ?_, ?_⟩
    all_goals simp only [raise_fields]
    · exact hdrop.ingress
    · exact hdrop.delivered
    · exact hdrop.outq
    · exact hdrop.gran
    · rw [hdrop.route]
      exact congrArg RouteDie.hdr (get_die_modRoute ..)
  · rw [hlookup, packetLookup_of_device hhead hnew (wholeAt_of_device hvl hheader hdevice) hdevice hoff, setLodged_eq]
  · have hesc : exec (.escAfter (some n) ⟨vl, k⟩) s = .next (escAfter (some n.toNat) vl k s) := event_ok hl
    have hvl : isEscapeVl vl = false ∧ vl ≠ 0 := by obtain rfl | rfl | rfl | rfl := hmain <;> decide
    rw [hesc, escAfter_of_main hhead hlooked hvl.1 hvl.2, setLodged_eq]

theorem dispatchOfPackets : Claims.PacketDispatch := by
  intro s n vl k l hl hhead hlooked hvia hcopy
  have h : Routable s (n.map (·.toNat)) vl k l := ⟨hhead, hlooked, hvia⟩
  have hexec : exec (.dispatch n ⟨vl, k⟩ .ok) s = .next (dispatch (n.map (·.toNat)) vl k .ok s) := event_ok hl
  have hhanded := handed_sameButPorts s l
  rw [hexec]
  refine ⟨fun hdev hgood hkind hclass hlocal => ?_, fun hdev hgood hkind hclass => ?_, fun hdev r hsign => ⟨fun m v hout => ?_, ?_⟩,
    fun hdev hnone => ?_⟩
  · rw [h.dispatch_of_here .ok hdev hgood, toLocal_of_internal hcopy hkind hclass hlocal]
    refine ⟨fun hroom => ?_, fun hroom => by rw [hroom]; rfl⟩
    rw [if_pos hroom]
    exact ⟨_, rfl, hhanded.ingress, hhanded.delivered, hhanded.outq, hhanded.gran, hhanded.fault⟩
  · rw [h.dispatch_of_here .ok hdev hgood]
    refine ⟨fun hnamed hfits => ?_, fun hnamed hop hfull => ?_⟩
    · have hpass : ¬ (l.p.op = pMoveData ∧ windowFits s l.p = false) := fun ⟨hop, hfull⟩ => by simp [hfits hop] at hfull
      rw [toLocal_of_col hcopy hkind hclass hnamed, if_neg hpass]
      exact ⟨_, rfl, hhanded.ingress, hhanded.delivered, hhanded.outq, hhanded.fault⟩
    · rw [toLocal_of_col hcopy hkind hclass hnamed, if_pos ⟨hop, hfull⟩]
  · obtain ⟨hnamed, hup, hopen⟩ := openWay_of_chooseOutput hout
    rw [h.dispatch_of_output .ok hdev hsign hout]
    refine ⟨hnamed, hup, hopen, fun hwait => by rw [takeTurn_of_wait hwait], fun hturn hgate hhop => ?_⟩
    obtain ⟨core, hcore⟩ := takeTurn_of_turn hturn fun s => toOutput s l m v
    obtain ⟨route, hout⟩ := toOutput_eq (s := { s with core }) (v := v) hcopy hgate hhop
    rw [hcore, hout]
    exact ⟨_, rfl, rfl, rfl, rfl, rfl, creditsHeld_charged⟩
  · intro hout hdata hway
    rw [h.dispatch_of_noOutput .ok hdev hsign hout hdata hway]
  · rw [h.dispatch_of_noSignpost .ok hdev hnone]
    by_cases hmgt : vl = 0
    · obtain ⟨hingress, houtq, hdelivered, hdie⟩ :=
        modRoute_dropLodged (s := s) hcopy (lodgedDie s l) fun r => { r with mgt := satInc r.mgt }
      rw [if_pos hmgt]
      exact ⟨_, rfl, hingress, houtq, hdelivered, absurd hmgt, fun _ => congrArg RouteDie.mgt hdie⟩
    · obtain ⟨hingress, houtq, hdelivered, hdisc⟩ := routeNone_fields (s := s) (devOf l.p.dst) hcopy
      rw [if_neg hmgt]
      exact ⟨_, rfl, hingress, houtq, hdelivered, fun _ => hdisc, fun h => absurd h hmgt⟩

/-- Settles O26: `SameButPorts` for what a packet that leaves lodging leaves unchanged, `packetLookup_of_notWhole` and the lemmas beside it
for lookup, `openWay_of_chooseOutput`, `toOutput_eq` and the lemmas of `Routable` for dispatch. -/
theorem lookupAndDispatch : Obligations.LookupAndDispatch := ⟨lookupOfPackets, dispatchOfPackets⟩

end Sys2Proof

/-! # The host port: O1, O5, O7, O8, O10 to O12

A register write that is taken comes to one change of the host block; one that is rejected comes to `rejectWrite`. The interrupt bits are
those of `setVec`, whose two effects are said bit by bit, and an entry of the tally is read off the ring that `ringPush` leaves. -/

namespace Sys2Proof.Machine
open Sys2Proof Sys2Proof.Laws

/-! ## Register writes (00 R12 to R14) -/

@[simp] theorem loW_cw (v : Word) : loW (RegW.cw v) = v := by
  change (~~~v ++ v).extractLsb' 0 32 = v
  exact BitVec.extractLsb'_append_eq_right ..

@[simp] theorem cwOk_cw (v : Word) : cwOk (RegW.cw v) = true := by
  have hlow : (~~~v ++ v).extractLsb' 0 32 = v := loW_cw v
  have hhigh : (~~~v ++ v).extractLsb' 32 32 = ~~~v := BitVec.extractLsb'_append_eq_left ..
  simp [cwOk, RegW.cw, hlow, hhigh]

theorem settleWrite_done (off : Nat) (w : RegW) (s : State) : settleWrite off w (s, .done) = (s, .done) := rfl

theorem settleWrite_rejected {off : Nat} {w : RegW} {r : Wr} (h : r ≠ .done) (s : State) :
    settleWrite off w (s, r) = (rejectWrite s off w, r) := if_neg h

theorem wrDoorbell_cw (s : State) (v : Word) :
    wrDoorbell s (RegW.cw v) = ({ s with host := { s.host with doorbell := v, waitBad := false } }, .done) := by
  rw [wrDoorbell, if_neg (by simp), loW_cw, settleWrite_done]

theorem wrTallySeen_cw {s : State} {v : Word} (h : serialAbove v (s.host.next - 1) = false) : wrTallySeen s (RegW.cw v) =
    ({ s with host := tallyVecs s.host { s.host with
        tallySeen := v, timeUp := s.host.timeUp && unread { s.host with tallySeen := v } != 0 } }, .done) := by
  rw [wrTallySeen, if_neg (by simp), loW_cw, if_neg (by rw [h]; decide)]
  rfl

theorem wrRingCfg_cw {s : State} {t l : Nat} (ht : 12 ≤ t) (ht' : t ≤ 15) (hl : l ≤ 6) (hpend : s.host.pend = [])
    (hdoor : s.host.doorbell = s.host.accepted) :
    wrRingCfg s (RegW.cw (BitVec.ofNat 32 (16 * t + l))) = ({ s with host := ringReset s.host t l }, .done) := by
  have hv : (BitVec.ofNat 32 (16 * t + l)).toNat = 16 * t + l := by simp; omega
  have hbt : bits (16 * t + l) 7 4 = t := by simp only [bits, Nat.shiftRight_eq_div_pow]; omega
  have hbl : bits (16 * t + l) 3 0 = l := by simp only [bits, Nat.shiftRight_eq_div_pow]; omega
  rw [wrRingCfg, loW_cw, hv, hbt, hbl]
  dsimp only
  rw [if_neg (by simp), if_neg (by simp [ht, hl, hpend, hdoor]), settleWrite_done]

/-! ## Interrupts (17 R487) -/

theorem getLsbD_setVec (h : HostPort) (v i : Nat) (hi : i < 4) :
    (setVec h v).intStatus.getLsbD i = (h.intStatus.getLsbD i || decide (v = i)) := by
  unfold setVec
  split
  · next hset =>
    rw [bit_toNat] at hset
    by_cases hv : v = i
    · simp [← hv, hset]
    · simp [hv]
  · have hpow : (BitVec.ofNat 4 (2 ^ v)).getLsbD i = decide (v = i) := by
      rw [BitVec.getLsbD_ofNat, Nat.testBit_two_pow]; simp [hi]
    rw [BitVec.getLsbD_or, hpow]

theorem intStatus_setVec (h : HostPort) (v : Nat) : (setVec h v).intStatus = h.intStatus ||| BitVec.twoPow 4 v := by
  refine BitVec.eq_of_getLsbD_eq fun i hi => ?_
  have hlt : (decide (v < 4) && decide (v = i)) = decide (v = i) := by by_cases hv : v = i <;> simp [hv, hi]
  rw [getLsbD_setVec h v i hi, BitVec.getLsbD_or, BitVec.getLsbD_twoPow, hlt]

theorem setVec_msgs (h : HostPort) (v : Nat) :
    (setVec h v).msgs = h.msgs ++ if h.intStatus.getLsbD v || h.intMask.getLsbD v then [] else [v] := by
  unfold setVec
  rw [bit_toNat, bit_toNat]
  split
  · next hset => simp [hset]
  · next hset => cases hm : h.intMask.getLsbD v <;> simp [hset]

/-- Vector 3 is set when the overrun begins, vector 0 when the threshold is reached (17 R485, R487). -/
theorem tallyVecs_bits (h0 h : HostPort) :
    ((tallyVecs h0 h).overrun = true ↔ h.overrun = true ∨ overrunCond h = true) ∧
    (h.overrun = false → overrunCond h = true → (tallyVecs h0 h).intStatus.getLsbD 3 = true) ∧
    (threshHolds h = true → tallyHolds h0 = false → (tallyVecs h0 h).intStatus.getLsbD 0 = true) := by
  have hover (h : HostPort) (v : Nat) : (setVec h v).overrun = h.overrun := by unfold setVec; split <;> rfl
  have hthresh : threshHolds (if !h.overrun && overrunCond h then setVec { h with overrun := true } 3 else h) = threshHolds h := by
    split
    · unfold setVec; split <;> rfl
    · rfl
  unfold tallyVecs
  dsimp only
  rw [hthresh]
  refine ⟨?_, fun ho hc => ?_, fun ht h0 => ?_⟩
  · cases ho : h.overrun <;> cases hc : overrunCond h <;> simp <;> split <;> simp [hover, ho]
  · rw [ho, hc, Bool.not_false, Bool.and_true, if_pos rfl]
    split
    · rw [getLsbD_setVec _ _ _ (by decide), getLsbD_setVec _ _ _ (by decide)]; simp
    · rw [getLsbD_setVec _ _ _ (by decide)]; simp
  · rw [ht, h0, Bool.not_false, Bool.and_true, if_pos rfl, getLsbD_setVec _ _ _ (by decide)]; simp

/-! ## Commands of the host port -/

section
variable {s : State} (hm : s.testMode = false)
include hm

theorem exec_ledgerDoorbell (ws : List (Nat × Byte)) (w : RegW) :
    exec (.ledgerDoorbell ws w) s = .next (wrDoorbell { s with host := slotWrites s.host ws } w).1 :=
  always_ok (f := fun s => (wrDoorbell { s with host := slotWrites s.host ws } w).1) hm

theorem exec_tallySeen (w : RegW) : exec (.tallySeen w) s = .next (wrTallySeen s w).1 :=
  always_ok (f := fun s => (wrTallySeen s w).1) hm

theorem exec_ringCfg (w : RegW) : exec (.ringCfg w) s = .next (wrRingCfg s w).1 := always_ok (f := fun s => (wrRingCfg s w).1) hm

theorem exec_tbCtl (w : RegW) : exec (.tbCtl w) s = .next (wrTbCtl s w).1 := always_ok (f := fun s => (wrTbCtl s w).1) hm

theorem exec_tallyStatus (w : RegW) : exec (.tallyStatus w) s = .next (wrTallyStatus s w).1 :=
  always_ok (f := fun s => (wrTallyStatus s w).1) hm

/-- A rejected write: its command comes to the report alone (17 R488). -/
theorem exec_rejected {w : RegW} {c : Instr} (hc : c = .ledgerDoorbell [] w ∨ c = .tallySeen w ∨ c = .ringCfg w ∨ c = .tbCtl w)
    (hbad : cwOk w = false ∨ (c = .tallySeen w ∧ serialAbove (loW w) (s.host.next - 1) = true) ∨ (c = .ringCfg w ∧ s.host.pend ≠ [])) :
    ∃ off, exec c s = .next (rejectWrite s off w) := by
  obtain rfl | rfl | rfl | rfl := hc
  · have hcw : cwOk w = false := by simpa using hbad
    refine ⟨0x1000, (exec_ledgerDoorbell hm [] w).trans ?_⟩
    rw [wrDoorbell, hcw]
    rfl
  · refine ⟨0x1008, (exec_tallySeen hm w).trans ?_⟩
    rw [wrTallySeen]
    cases hcw : cwOk w
    · rfl
    · have habove : serialAbove (loW w) (s.host.next - 1) = true := by simpa [hcw] using hbad
      rw [habove]
      rfl
  · refine ⟨0x1028, (exec_ringCfg hm w).trans ?_⟩
    rw [wrRingCfg]
    cases hcw : cwOk w
    · rfl
    · have hpend : s.host.pend ≠ [] := by simpa [hcw] using hbad
      dsimp only
      rw [if_neg (by simp), if_pos (by simp [hpend])]
      rfl
  · have hcw : cwOk w = false := by simpa using hbad
    refine ⟨0x3018, (exec_tbCtl hm w).trans ?_⟩
    rw [wrTbCtl, hcw]
    rfl

end

end Sys2Proof.Machine

namespace Sys2Proof
open Sys2Proof.Machine Sys2Proof.Laws

theorem hostRegistersWritten : Claims.HostRegistersWritten := by
  intro s v hm
  refine ⟨fun ws => ?_, fun hpos => ?_, fun hover => ?_, fun t l ht ht' hl hv hpend hdoor => ?_⟩
  · rw [exec_ledgerDoorbell hm, wrDoorbell_cw]
  · obtain ⟨hoverrun, hvec3, hvec0⟩ := tallyVecs_bits s.host
      { s.host with tallySeen := v, timeUp := s.host.timeUp && unread { s.host with tallySeen := v } != 0 }
    rw [exec_tallySeen hm, wrTallySeen_cw hpos]
    refine ⟨_, rfl, rfl, ?_⟩
    simp only [tallyVecs_fields, true_and]
    refine ⟨hoverrun, hvec3, fun hholds hthresh hle => hvec0 ?_ hholds⟩
    simp only [threshHolds, Bool.and_eq_true, decide_eq_true_eq]
    exact ⟨hthresh, hle⟩
  · rw [exec_tallyStatus hm, wrTallyStatus, hover]
    rfl
  · rw [exec_ringCfg hm, hv, wrRingCfg_cw ht ht' hl hpend hdoor]
    refine ⟨_, rfl, rfl, ?_⟩
    simp only [ringReset, tallyVecs_fields, BitVec.toNat_ofNat, true_and, and_true]
    omega

theorem rejectedWritesKeepTheRegister : Claims.RejectedWritesKeepTheRegister := by
  intro s w c hm hc hbad
  obtain ⟨off, h⟩ := exec_rejected hm hc hbad
  rw [h, rejectWrite]
  refine ⟨_, rfl, ?_⟩
  simp only [tally_fields, tally_host, tally_newest, hostPush_ring, Entry.make, Option.some.injEq, exists_eq_left', true_and]

/-- Settles O7: `tallyVecs_bits` for what a new position of the tally shows, `exec_rejected` for the writes that are rejected. -/
theorem registerWrites : Obligations.RegisterWrites := ⟨hostRegistersWritten, rejectedWritesKeepTheRegister⟩

end Sys2Proof

namespace Sys2Proof.Machine
open Sys2Proof Sys2Proof.Laws

section
variable {s : State} (hm : s.testMode = false)
include hm

theorem exec_intMask (w : RegW) : exec (.intMask w) s = .next (wrIntMask s w).1 := always_ok (f := fun s => (wrIntMask s w).1) hm

theorem exec_registerWrite (off : BitVec 32) (w : RegW) : exec (.registerWrite off w) s = .next (writeReg s off.toNat w).1 :=
  always_ok (f := fun s => (writeReg s off.toNat w).1) hm

theorem exec_intTime_of_unread (hunread : unread s.host ≠ 0) (htime : s.host.timeUs ≠ 0) (hholds : tallyHolds s.host = false) :
    exec .intTime s = .next { s with host := setVec { s.host with timeUp := true } 0 } := by
  change always s _ = _
  rw [always_ok hm]
  dsimp only
  rw [if_pos ⟨hunread, htime⟩, hholds]
  rfl

end

/-- A 32-bit write to a register that is no CW register comes to its access code. -/
theorem writeReg_word {off : Nat} (hoff : off % 4 = 0) (hcw : isCw (off / 8 * 8) = false) (s : State) (v : DWord) (stew : Bool) :
    writeReg s off { stew, width := 4, val := v } = (write32 s off v.toNat stew, .done) := by
  simp [writeReg, hoff, hcw]

theorem extractLsb'_setWidth_four (m : BitVec 4) : (m.setWidth 64).extractLsb' 0 4 = m := by
  refine BitVec.eq_of_getLsbD_eq fun i hi => ?_
  simp [hi, show i < 64 by omega]

end Sys2Proof.Machine

namespace Sys2Proof
open Sys2Proof.Machine Sys2Proof.Laws

/-- Settles O8: `wrIntMask` lists the vectors unmasked, and `intStatus_setVec` and `setVec_msgs` say what vector 0 comes to. -/
theorem interruptCommands : Obligations.InterruptCommands := by
  intro s m hm
  refine ⟨?_, ?_, fun hunread htime hholds => ?_⟩
  · rw [exec_intMask hm, wrIntMask, if_neg (by simp), extractLsb'_setWidth_four]
    refine ⟨_, rfl, rfl, rfl, _, rfl, fun v => ?_⟩
    simp only [bit_toNat, List.mem_filter, List.mem_range, Bool.and_eq_true, Bool.not_eq_true', v.isLt, true_and, and_assoc]
  · rw [exec_registerWrite hm, writeReg_word (by decide) (by decide)]
    have hval : BitVec.ofNat 64 ((m.setWidth 64).toNat % 2 ^ 32) = m.setWidth 64 := by
      refine BitVec.eq_of_toNat_eq ?_
      have := m.isLt
      simp
      omega
    change Host.Outcome.next (wrIntStatus s _).1 = _
    rw [wrIntStatus, hval, extractLsb'_setWidth_four]
  · rw [exec_intTime_of_unread hm hunread htime hholds]
    refine ⟨_, rfl, rfl, ?_, intStatus_setVec .., setVec_msgs ..⟩
    unfold setVec
    split <;> rfl

/-- Settles O11: `ringPush` overwrites at OLDEST when NEXT has run a ring's length ahead, and else lets the ring grow. -/
theorem tallyRing : Obligations.TallyRing := by
  intro s e hlen hsize hlog
  dsimp only
  have hpow : 2 ^ s.host.tallyLog2.toNat ≤ 2 ^ 15 := Nat.pow_le_pow_right (by decide) (by have := s.host.tallyLog2.isLt; omega)
  have hpos : 0 < 2 ^ s.host.tallyLog2.toNat := Nat.two_pow_pos _
  refine ⟨by simp [hostPush_ring], tally_newest .., rfl, ?_⟩
  simp only [tally_host, hostPush_ring, ringPush]
  split
  · next hfull =>
    have hsame : s.host.next + 1 - (s.host.oldest + 1) = s.host.next - s.host.oldest := by ring
    rw [hsame]
    refine ⟨?_, hsize, rfl⟩
    simp only [List.length_append, List.length_drop, List.length_singleton]
    omega
  · next hroom =>
    have hone : s.host.next + 1 - s.host.oldest = s.host.next - s.host.oldest + 1 := by ring
    have hnext : (s.host.next + 1 - s.host.oldest).toNat = (s.host.next - s.host.oldest).toNat + 1 := by
      have htoNat : (1 : Word).toNat = 1 := rfl
      rw [hone, BitVec.toNat_add, htoNat, Nat.mod_eq_of_lt (by omega)]
    simp only [hnext, List.length_append, List.length_singleton, hlen]
    exact ⟨trivial, by omega, trivial⟩

/-- Settles O1: a step takes the front of the queue off and runs it. -/
theorem stepRunsTheFrontCommand : Obligations.StepRunsTheFrontCommand := fun _ _ _ => rfl

/-- Settles O5: the reset state is its fields' defaults. -/
theorem resetValues : Obligations.ResetValues := by
  unfold Obligations.ResetValues
  decide

end Sys2Proof

namespace Sys2Proof.Machine
open Sys2Proof Sys2Proof.Laws

/-! ## The ledger (17 R478, R479) -/

section
variable {s : State} {e : List Byte} (hwait : s.host.waitBad = false) (hdoor : serialAbove s.host.doorbell s.host.accepted = true)
  (hpend : s.host.pend.length < 4096) (he : e = Mem.reads s.host.slots (slotOff s.host (s.host.accepted + 1)) 128)
  (hseq : leAt e 0 4 = (s.host.accepted + 1).toNat)
include hwait hdoor hpend he hseq

theorem ledgerAccept_of_good (hgood : entryFault e = none) : ledgerAccept s = acceptEntry s e := by
  unfold ledgerAccept
  dsimp only
  rw [← he, if_neg (by simp [hwait, hdoor, hpend]), if_neg (by simp [hseq]), hgood]

theorem ledgerAccept_of_bad {r : Nat} (hbad : entryFault e = some r) :
    ledgerAccept s = tally { s with host := { s.host with waitBad := true, bads := satInc s.host.bads } }
      { kind := kLedgerBad, utype := uHost, body := pack 40 [(0, 4, (s.host.accepted + 1).toNat), (4, 1, r)] } := by
  unfold ledgerAccept
  dsimp only
  rw [← he, if_neg (by simp [hwait, hdoor, hpend]), if_neg (by simp [hseq]), hbad]

end

/-- After a damaged slot nothing is taken until the doorbell is written. -/
theorem ledgerAccept_of_waiting {s : State} (h : s.host.waitBad = true) : ledgerAccept s = s := by simp [ledgerAccept, h]

theorem acceptEntry_of_known {s : State} {e : List Byte} (hknown : opKnown (entryOp e) = true) (hmay : mayIssue (entryOp e) .operator = true)
    (hres : entryReserved e = false) :
    (acceptEntry s e).host.accepted = BitVec.ofNat 32 (leAt e 0 4) ∧ (acceptEntry s e).host.gen = s.host.gen + 1 ∧
    (acceptEntry s e).host.pend = s.host.pend ++ [{ op := entryOp e, c := entryCmd .operator 0 e [] }] ∧
    (acceptEntry s e).host.intStatus = s.host.intStatus ||| 2#4 ∧ { acceptEntry s e with host := s.host } = s := by
  unfold acceptEntry
  simp only [hknown, hmay, hres, setVec_tally, Bool.not_true, Bool.false_eq_true, if_false, true_and, and_true]
  exact ⟨rfl, intStatus_setVec ..⟩

/-! ## Completion (17 R479, R480) -/

theorem pendDone_pend (h : HostPort) (seq : Word) : (pendDone h seq).pend = h.pend.filter fun p => p.c.seq != seq := by
  unfold pendDone
  dsimp only
  split
  · next hsame => exact hsame.symm
  · split <;> simp [setVec_tally]

theorem completedOf_congr {h k : HostPort} (hp : h.pend = k.pend) (ha : h.accepted = k.accepted) : completedOf h = completedOf k := by
  rw [completedOf, completedOf, hp, ha]

theorem pendDone_next (h : HostPort) (seq : Word) : (pendDone h seq).next = h.next ∧ (pendDone h seq).authLast = h.authLast := by
  unfold pendDone
  dsimp only
  split
  · exact ⟨rfl, rfl⟩
  · split <;> simp [setVec_tally]

/-- When a command leaves the pending table, COMPLETED and the table's generation follow it. -/
theorem pendDone_of_changed {h : HostPort} {seq : Word} (hne : (pendDone h seq).pend ≠ h.pend) :
    (pendDone h seq).completed = completedOf (pendDone h seq) ∧ (pendDone h seq).gen = h.gen + 1 := by
  unfold pendDone at *
  dsimp only at *
  split at hne
  · exact absurd rfl hne
  · next hchanged =>
    rw [if_neg hchanged]
    split
    · exact ⟨completedOf_congr rfl rfl, rfl⟩
    · exact ⟨(setVec_tally ..).2.2.2.2.2.2.2.1.trans (completedOf_congr (by simp [setVec_tally]) (by simp [setVec_tally])), by simp [setVec_tally]⟩

/-! ## Authority (17 R489) -/

theorem onCmd_unauthorised {s : State} {c : Cmd} {op : Half} (hm : s.testMode = false) (hbody : c.body.length = 100) (hauth : c.auth ≠ .none)
    (hmay : mayIssue op c.auth = false) (fmt : List (Nat × Nat)) (ok : Bool) (f : State → State) :
    onCmd op c fmt ok s f = .next (cmdDone s c op stAuthority) := by
  simp [onCmd, hm, hbody, hauth, hmay]

theorem onSlot_unauthorised {s : State} {c : Cmd} {op : Half} (hm : s.testMode = false) (hbody : c.body.length = 100) (hauth : c.auth ≠ .none)
    (hmay : mayIssue op c.auth = false) (fmt : List (Nat × Nat)) (ok : Bool) (f : State → State) :
    onSlot op c fmt ok s f = .next (cmdDone s c op stAuthority) := by
  rw [onSlot, if_neg (by simp [hmay]), onCmd_unauthorised hm hbody hauth hmay]

/-- Every opcode's command checks its authority before all else. -/
theorem exec_unauthorised {s : State} {c : Cmd} {i : Instr} {op : Half} (hi : (i, op) ∈ commandOps c) (hm : s.testMode = false)
    (hbody : c.body.length = 100) (hauth : c.auth ≠ .none) (hmay : mayIssue op c.auth = false) :
    exec i s = .next (cmdDone s c op stAuthority) := by
  simp only [commandOps, List.mem_cons, List.not_mem_nil, or_false, Prod.mk.injEq] at hi
  have hcmd := onCmd_unauthorised hm hbody hauth hmay
  have hslot := onSlot_unauthorised hm hbody hauth hmay
  obtain h | h | h | h | h | h | hi := hi
  iterate 3 (obtain ⟨rfl, rfl⟩ := h; exact hcmd ..)
  -- PLAN_VALIDATE, PLAN_COMMIT and PLAN_CANCEL name a slot
  iterate 3 (obtain ⟨rfl, rfl⟩ := h; exact hslot ..)
  iterate 37 (obtain ⟨rfl, rfl⟩ | hi := hi; · apply hcmd)
  obtain ⟨rfl, rfl⟩ := hi
  exact hcmd ..

theorem complete_authLast (s : State) (c : Cmd) (e : Entry) (data : List Byte) : (complete s c e data).host.authLast = s.host.authLast := by
  unfold complete
  cases c.auth <;> simp [originate, send, hostPush_ring, pendDone_next]

end Sys2Proof.Machine

namespace Sys2Proof
open Sys2Proof.Machine Sys2Proof.Laws

theorem ledgerAcceptance : Claims.LedgerAcceptance := by
  intro s e hm hwait hdoor hpend he hseq
  have hexec (t : State) (ht : t.testMode = false) : exec .ledgerAccept t = .next (ledgerAccept t) := always_ok ht
  refine ⟨fun hgood hknown hmay hres => ?_, fun r hbad => ?_⟩
  · rw [hexec s hm, ledgerAccept_of_good hwait hdoor hpend he hseq hgood]
    obtain ⟨haccepted, hgen, hpended, hstatus, hrest⟩ := acceptEntry_of_known (s := s) hknown hmay hres
    refine ⟨_, rfl, ?_, hgen, hpended, hstatus, hrest⟩
    rw [haccepted, hseq, BitVec.ofNat_toNat, BitVec.setWidth_eq]
  · rw [hexec s hm, ledgerAccept_of_bad hwait hdoor hpend he hseq hbad]
    refine ⟨_, _, _, rfl, by simp [hostPush_ring], by simp [hostPush_ring], by simp [hostPush_ring], tally_newest .., rfl, ?_, rfl⟩
    rw [hexec _ (by simpa using hm), ledgerAccept_of_waiting (by simp [hostPush_ring])]

theorem windowWrites : Claims.WindowWrites := by
  intro s off bs hl hloft hfits hne _
  have hpos : 0 < bs.length := List.length_pos_iff.mpr hne
  have hexec : exec (.bar4Write off bs) s = .next (slotWrite s false off.toNat bs) := by
    refine (event_ok hl).trans ?_
    rw [hloft, decide_eq_true (by omega), List.take_of_length_le (by omega)]
    rfl
  refine ⟨fun hopen => ?_, fun hlocked => ?_⟩
  · rw [hexec, slotWrite_of_open (slot := false) hopen]
    exact ⟨_, rfl, rfl, fun i h => mem_read_writes _ _ i bs h, fun a ha => mem_read_writes_out _ _ a bs ha, rfl⟩
  · rw [hexec, slotWrite_of_locked (slot := false) hlocked]
    rfl

/-- Settles O10: a slot that comes in sequence is read by `entryFault` alone, and BAR4_WRITE is `slotWrite` of slot 0. -/
theorem ledgerAndWindow : Obligations.LedgerAndWindow := ⟨ledgerAcceptance, windowWrites⟩

theorem commandsCompleteOnce : Claims.CommandsCompleteOnce := by
  intro s c op st v0 v1 hauth
  have hhost : ∃ (u : State) (e : Entry), u.host.next = s.host.next ∧ u.host.pend = s.host.pend ∧ u.host.gen = s.host.gen ∧
      (e.kind = kCmdDone ∧ e.cmd = true ∧ e.ref = c.seq ∧ e.body = pack 40 [(0, 1, st), (2, 2, op.toNat), (8, 8, v0), (16, 8, v1)]) ∧
      cmdDone s c op st v0 v1 = { tally u e with host := pendDone (tally u e).host c.seq } := by
    unfold cmdDone complete
    simp only [hauth]
    refine ⟨_, _, ?_, ?_, ?_, ⟨rfl, rfl, rfl, rfl⟩, rfl⟩ <;> split <;> rfl
  obtain ⟨u, e, hnext, hpend, hgen, ⟨hkind, hcmd, href, hbody⟩, ht⟩ := hhost
  have hrest : (cmdDone s c op st v0 v1).gran = s.gran ∧ (cmdDone s c op st v0 v1).plan = s.plan ∧ (cmdDone s c op st v0 v1).clk = s.clk ∧
      (cmdDone s c op st v0 v1).cellar = s.cellar ∧ (cmdDone s c op st v0 v1).fault = s.fault := by simp
  dsimp only
  refine ⟨⟨e.make u, ?_, hkind, hcmd, href, ?_⟩, ?_, ?_, fun hne => ?_, hrest⟩
  · rw [ht]
    exact (newest_pendDone ..).trans (tally_newest ..)
  · rw [show (e.make u).body = e.body from rfl, hbody]
    have hop : op.toNat < 65536 := op.isLt
    simp [leAt_pack_skip, hop]
  · rw [ht]
    simp [pendDone_next, hostPush_ring, hnext]
  · rw [ht]
    simp [pendDone_pend, hostPush_ring, hpend]
  · rw [ht] at hne ⊢
    obtain ⟨hcompleted, hgen'⟩ := pendDone_of_changed (h := (tally u e).host) (seq := c.seq) (by simpa [hostPush_ring, hpend] using hne)
    exact ⟨hcompleted, hgen'.trans (by simp [hostPush_ring, hgen])⟩

theorem authorityIsChecked : Claims.AuthorityIsChecked := by
  intro s c i op hi hm hbody hauth hmay
  rw [exec_unauthorised hi hm hbody hauth hmay]
  refine ⟨_, rfl, rfl, ?_, by simp⟩
  simp [cmdDone, complete_authLast]

/-- Settles O12: `pendDone_of_changed` for the pending table, `exec_unauthorised` for every opcode. -/
theorem authorityAndCompletion : Obligations.AuthorityAndCompletion := ⟨commandsCompleteOnce, authorityIsChecked⟩

end Sys2Proof

/-! # Clocks, power and the granary's controllers: O6, O14 to O16

The clock tree's events each come to one change of the clock block, pins or link. What loses a domain's contents leaves the faults, pins
and clocks as they are, and what a fenced controller takes with it leaves the granary and the other controllers (`KeepsGranary`). -/

namespace Sys2Proof.Machine
open Sys2Proof Sys2Proof.Laws

/-! ## The clock edge (19 R526, R529, R532) -/

theorem tick_clk (s : State) : (tick s).clk = cclk s.clk := rfl

theorem cclk_of_unlocked {c : Clk} (h : c.pllLock = false) : cclk c = c := by simp [cclk, h]

theorem cclk_of_steady {c : Clk} (hlock : c.pllLock = true) (hslew : c.slew = 0) : ∃ slewPhase, cclk c = { c with
    rootFrac := (c.rootFrac + 25) % 10, timebase := c.timebase + BitVec.ofNat 64 ((c.rootFrac + 25) / 10), slewPhase } := by
  have hns : (((c.rootFrac + 25) / 10 : Nat) + (0 : Int)).toNat = (c.rootFrac + 25) / 10 := by omega
  refine ⟨0, ?_⟩
  simp only [cclk, hlock, hslew, bne_self_eq_false, Bool.and_false, Bool.not_false, Bool.not_true, Bool.false_eq_true, if_true, if_false,
    hns, sub_zero]

/-- An edge moves TIMEBASE by the nanoseconds it completes, 2 or 3, and one more or less where an error is slewed. -/
theorem cclk_timebase {c : Clk} (hlock : c.pllLock = true) (hfrac : c.rootFrac < 10) :
    ∃ n, 1 ≤ n ∧ n ≤ 4 ∧ (cclk c).timebase = c.timebase + BitVec.ofNat 64 n := by
  unfold cclk
  simp only [hlock, Bool.not_true, Bool.false_eq_true, if_false]
  refine ⟨_, ?_, ?_, rfl⟩ <;> split_ifs <;> omega

end Sys2Proof.Machine

namespace Sys2Proof
open Sys2Proof.Machine Sys2Proof.Laws

theorem idleStepIsAClockEdge : Claims.IdleStepIsAClockEdge := by
  intro s hidle
  have hstep (t : State) (ht : t.pending = []) : step t = .next (tick t) := by simp only [step, ht]
  refine ⟨fun hlock => ?_, fun hlock hslew hfrac => ?_, fun hlock hfrac => ?_⟩
  · have htick : tick s = s := by simp only [tick, cclk_of_unlocked hlock]
    rw [hstep s hidle, htick]
  · obtain ⟨phase, h1⟩ := cclk_of_steady hlock hslew
    obtain ⟨phase', h2⟩ := cclk_of_steady (c := cclk s.clk) (by rw [h1]; exact hlock) (by rw [h1]; exact hslew)
    refine ⟨_, _, hstep s hidle, hstep _ hidle, ?_, ?_, rfl⟩
    · rw [tick_clk, tick_clk, h2, h1]
      simp [hfrac, add_assoc]
    · rw [tick_clk, tick_clk, h2, h1]
      simp [hfrac]
  · obtain ⟨n, hlow, hhigh, hn⟩ := cclk_timebase hlock hfrac
    refine ⟨_, hstep s hidle, rfl, ?_⟩
    have hdiff : (cclk s.clk).timebase - s.clk.timebase = BitVec.ofNat 64 n := by rw [hn]; ring
    rw [tick_clk, hdiff, BitVec.le_def, BitVec.le_def]
    simp
    omega

theorem tickInDisciplinesTheTimebase : Claims.TickInDisciplinesTheTimebase := by
  intro s err hm hmaster hreset harmed herr
  have hexec : exec .tickIn s = .next { s with clk := tickIn s.clk } := by
    unfold exec execTickIn
    rw [always_ok hm, hmaster, hreset]
    rfl
  have htick : tickIn s.clk = { s.clk with
      ticks := s.clk.ticks + 1, tickLost := false, tickOuts := if s.clk.tickOutEn then s.clk.tickOuts + 1 else s.clk.tickOuts
      tbNext := s.clk.tbNext + BitVec.ofNat 64 (s.clk.tbPeriod.toNat * 1000), lastErr := err
      goodEdges := if decide (-100 ≤ err) && decide (err ≤ 100) then s.clk.goodEdges + 1 else 0
      locked := (decide (-100 ≤ err) && decide (err ≤ 100)) &&
        (s.clk.locked || decide (2 ≤ if decide (-100 ≤ err) && decide (err ≤ 100) then s.clk.goodEdges + 1 else 0))
      timebase := if decide (1000 < err) && s.clk.allowStep then s.clk.timebase + BitVec.ofNat 64 err.toNat else s.clk.timebase
      slew := if decide (1000 < err) && s.clk.allowStep then 0 else err, slewPhase := 0 } := by
    simp only [tickIn, harmed, herr]
    rfl
  rw [hexec, htick]
  refine ⟨_, rfl, rfl, rfl, rfl, rfl, rfl, fun hfar => ?_, fun hlow hhigh hgood => ?_, fun hjump hallow => ?_, fun hslew => ?_⟩
  · have hnear : (decide (-100 ≤ err) && decide (err ≤ 100)) = false := by simp; omega
    simp [hnear]
  · simp [hlow, hhigh]
    omega
  · simp [hjump, hallow]
  · have hno : (decide (1000 < err) && s.clk.allowStep) = false := by
      obtain h | h := hslew
      · simp; omega
      · simp [h]
    simp [hno]

end Sys2Proof

namespace Sys2Proof.Machine
open Sys2Proof Sys2Proof.Laws

/-! ## Domains switched off (19 R534, R547) -/

/-- What the loss of a domain's contents leaves as it is. -/
def SameBoard (s t : State) : Prop := t.fault = s.fault ∧ t.pins = s.pins ∧ t.clk = s.clk

theorem SameBoard.refl (s : State) : SameBoard s s := ⟨rfl, rfl, rfl⟩

theorem SameBoard.trans {s t u : State} (h : SameBoard s t) (k : SameBoard t u) : SameBoard s u :=
  ⟨k.1.trans h.1, k.2.1.trans h.2.1, k.2.2.trans h.2.2⟩

theorem domainLost_sameBoard (s : State) (d : Nat) : SameBoard s (domainLost s d) := by
  unfold domainLost
  dsimp only
  split_ifs <;> exact ⟨rfl, rfl, rfl⟩

theorem domainsOff_sameBoard (s : State) : SameBoard s (domainsOff s) := by
  unfold domainsOff
  generalize hu : List.foldl _ s (List.range 64) = u
  have hfold : SameBoard s u := by
    rw [← hu]
    refine foldl_of_step SameBoard.refl SameBoard.trans (fun s d => ?_) _ s
    split
    · exact .refl s
    · exact .trans ⟨rfl, rfl, rfl⟩ (domainLost_sameBoard ..)
  exact hfold

/-- The device is FATAL after a fault of class 4, and the first one's code stands (18 R502). -/
theorem raise_fatal {s : State} {code : Half} (hclass : classOf code = 4) (ut : BitVec 4) (unit : Nat) :
    (raise s code ut unit).fault.fatal = true ∧
      (raise s code ut unit).fault.fatalCode = (if s.fault.fatal then s.fault.fatalCode else code) := by
  rw [raise_fault]
  unfold countFault
  simp only [hclass]
  split <;> simp

theorem coldRelease_of_cool {s : State} (h : s.pins.coldResetN = false) {cool : Bool} (hcool : s.pins.thermtrip = false ∨ cool = true) :
    coldRelease 0 cool s = { s with
      pins := { s.pins with coldResetN := true, tmode := 0, thermtrip := false }, clk := { s.clk with timebase := 0, rootFrac := 0 } } := by
  have htrip : (s.pins.thermtrip && !cool) = false := by obtain h | h := hcool <;> simp [h]
  simp [coldRelease, h, htrip]

theorem coldRelease_of_hot {s : State} (h : s.pins.coldResetN = false) (htrip : s.pins.thermtrip = true) : ∃ u : State,
    u.pins.coldResetN = true ∧ u.pins.thermtrip = true ∧ u.fault = s.fault ∧ u.clk.timebase = 0 ∧
      coldRelease 0 false s = domainsOff (raise u fThermtrip uDevice 0) := by
  refine ⟨{ s with pins := { s.pins with coldResetN := true, tmode := 0, thermtrip := true }, clk := { s.clk with timebase := 0, rootFrac := 0 } },
    rfl, rfl, rfl, rfl, ?_⟩
  simp [coldRelease, h, htrip]

end Sys2Proof.Machine

namespace Sys2Proof
open Sys2Proof.Machine Sys2Proof.Laws

theorem clockAndPinEvents : Claims.ClockAndPinEvents := by
  intro s hm
  have hrelease (cool : Bool) : exec (.coldResetRelease 0 cool) s = .next (coldRelease 0 cool s) := always_ok hm
  have hhot (die : Fin 2) (hot : Bool) : exec (.dieHot die hot) s =
      .next (modClk s fun c => if die.val = 0 then { c with hotW := hot } else { c with hotE := hot }) := by apply always_ok hm
  have hup (fec : Bool) : exec (.stewardLinkUp fec) s =
      .next (modClk { s with stew := { s.stew with linkUp := true, fec } } fun c => { c with readySteward := true }) := by apply always_ok hm
  have hdown : exec .stewardLinkDown s = .next { s with stew := { s.stew with linkUp := false, fec := false } } := by apply always_ok hm
  have hperst (a : Bool) : exec (.perstN a) s = .next (perst a s) := always_ok hm
  refine ⟨fun hreset => ?_, fun hreset cool hcool => ?_, fun hreset htrip hfatal => ?_, fun hot => ⟨?_, ?_⟩, fun hmaster hout => ?_,
    fun hmaster => ?_, hperst true, hperst false, fun fec => ?_, ?_⟩
  · unfold exec execPllLock
    rw [always_ok hm, if_pos hreset]
    rfl
  · rw [hrelease, coldRelease_of_cool hreset hcool]
  · obtain ⟨u, hreset', htrip', hfault, htime, hu⟩ := coldRelease_of_hot hreset htrip
    obtain ⟨hoff, hpins, hclk⟩ := domainsOff_sameBoard (raise u fThermtrip uDevice 0)
    obtain ⟨hraised, hcode⟩ := raise_fatal (s := u) (code := fThermtrip) (by decide) uDevice 0
    rw [hrelease, hu]
    refine ⟨_, rfl, ?_⟩
    rw [hoff, hpins, hclk, hraised, hcode, hfault, hfatal]
    simp [hreset', htrip', htime]
  · rw [hhot]
    rfl
  · rw [hhot]
    rfl
  · unfold exec execTickOut
    rw [always_ok hm, hmaster, hout]
    rfl
  · unfold exec execTickLost
    rw [always_ok hm, hmaster]
    rfl
  · exact hup fec
  · exact hdown

/-- Settles O6: `cclk_timebase` for an idle step, `domainsOff_sameBoard` for a release that trips again; the other events are one change each. -/
theorem clocksAndPins : Obligations.ClocksAndPins := ⟨idleStepIsAClockEdge, clockAndPinEvents, tickInDisciplinesTheTimebase⟩

end Sys2Proof

namespace Sys2Proof.Machine
open Sys2Proof Sys2Proof.Laws

/-! ## The governor, voltage and the Reeves (19 R540, R541, R546 to R548) -/

theorem governor_of_fixed {s : State} (h : s.clk.mode ≠ 1) (watts : Half) (tw te th : Byte) (backed : Bool) :
    governor watts tw te th backed s = modClk s fun c => { c with pkgPower := watts, tempW := tw, tempE := te, tempH := th } := if_pos h

theorem governor_of_over {s : State} {watts : Half} {tw te : Byte} (hmode : s.clk.mode = 1)
    (hover : powerSet s 3 < watts.toNat ∨ 105 ≤ tw.toNat ∨ 105 ≤ te.toNat) (hdiv : s.clk.tclkDiv.toNat < powerSet s 2) (th : Byte) (backed : Bool) :
    governor watts tw te th backed s = modClk s fun c => avsAt { c with
      pkgPower := watts, tempW := tw, tempE := te, tempH := th, tclkDiv := c.tclkDiv + 1, throttle := satInc c.throttle, coolSamples := 0 }
        (c.tclkDiv + 1) := by
  have hcond : powerSet s 3 < watts.toNat ∨ 105 ≤ max tw.toNat te.toNat := by simpa using hover
  refine (if_neg (by simpa using hmode)).trans ((if_pos hcond).trans ?_)
  exact congrArg (fun c => { s with clk := c }) (if_pos hdiv)

/-- A rail's step: within 10 mV of where it stands, and between 0.60 and 0.80 V. -/
theorem clampV_step {v : Nat} (hlow : 6000 ≤ v) (hhigh : v ≤ 8000) (want : Nat) :
    6000 ≤ clampV (max (v - 100) (min (v + 100) want)) ∧ clampV (max (v - 100) (min (v + 100) want)) ≤ 8000 ∧
      clampV (max (v - 100) (min (v + 100) want)) ≤ v + 100 ∧ v ≤ clampV (max (v - 100) (min (v + 100) want)) + 100 := by
  unfold clampV
  omega

end Sys2Proof.Machine

namespace Sys2Proof
open Sys2Proof.Machine Sys2Proof.Laws

theorem governorAndVoltage : Claims.GovernorAndVoltage := by
  intro s watts tw te th hm
  have hsample (backed : Bool) : exec (.governorSample watts tw te th backed) s = .next (governor watts tw te th backed s) := always_ok hm
  refine ⟨fun backed hmode => ?_, fun backed hmode hover hdiv => ?_, fun ackW ackE hready hlow hhigh => ?_⟩
  · rw [hsample, governor_of_fixed hmode]
    rfl
  · rw [hsample, governor_of_over hmode hover hdiv]
    exact ⟨_, rfl, rfl, rfl, rfl, rfl, rfl⟩
  · have hstep : exec (.avsStep ackW ackE) s = .next (avsStep ackW ackE s) := always_ok hm
    rw [hstep, avsStep, hready]
    refine ⟨_, rfl, ?_⟩
    cases ackW
    · cases ackE <;> simp [modClk, hlow, hhigh]
    · obtain ⟨h1, h2, h3, h4⟩ := clampV_step hlow hhigh (Config.avsWant s.freeIx)
      cases ackE <;> simp [modClk, h1, h2, h3, h4]

theorem reeveBoots : Claims.ReeveBoot := by
  intro s ok0 ok1 die hm hready
  have hexec : exec (.reeveBoot ok0 ok1 die) s = .next (reeveBoot ok0 ok1 die.val s) := always_ok hm
  dsimp only
  rw [hexec, reeveBoot]
  dsimp only
  rw [hready, if_neg Bool.false_ne_true]
  refine ⟨fun hok => ?_, fun hbad hok => ?_, fun h0 h1 => ?_⟩
  · rw [if_pos hok]
    exact ⟨_, rfl, rfl, rfl, rfl, rfl, rfl, rfl⟩
  · rw [if_neg (by rw [hbad]; exact Bool.false_ne_true), if_pos hok]
    exact ⟨_, rfl, rfl, rfl⟩
  · rw [h0, h1, if_neg (by simp), if_neg (by simp), reeveHalt]
    refine ⟨_, rfl, ?_, by simpa using hready⟩
    rw [raiseAt_fault]
    rfl

/-- Settles O14: `governor_of_over` for a sample above its bounds, `clampV_step` for a rail; a boot follows the two verdicts. -/
theorem powerAndReeves : Obligations.PowerAndReeves := ⟨governorAndVoltage, reeveBoots⟩

end Sys2Proof

namespace Sys2Proof
open Sys2Proof.Machine Sys2Proof.Laws

/-- A MOVE_DATA packet that names one word and carries none. -/
def emptyMoveData : Pkt := { mkPkt 0 0 7 pMoveData 0 0 0 [] with len := 1 }

/-- Refutes O15, by its claim that a test mode refuses every command but COLD_RESET: a MOVE_DATA packet whose payload is not LEN words is
no command of the device (log 9) and stops the run with `illFormed` in a test mode too. -/
theorem not_fatalAndTestModes : ¬ Obligations.FatalAndTestModes := by
  rintro ⟨-, -, hrefused, -⟩
  have hfault (p : Pkt) (h : p.payload.length ≠ 4 * p.len.toNat) : exec (.moveData p) { testMode := true } = .fault .illFormed := by
    change onPkt p _ _ = _
    exact if_neg h
  have hlen : emptyMoveData.payload.length ≠ 4 * emptyMoveData.len.toNat := by decide
  cases (hfault _ hlen).symm.trans (hrefused (.moveData emptyMoveData) { testMode := true } rfl fun _ => nofun)

end Sys2Proof

namespace Sys2Proof.Machine
open Sys2Proof Sys2Proof.Laws

/-! ## A fenced granary controller (18 R501) -/

theorem toNat_le_satInc {w : Nat} (x : BitVec w) : x.toNat ≤ (satInc x).toNat := by
  unfold satInc
  split
  · exact le_rfl
  · next h =>
    have hlt : x.toNat + 1 < 2 ^ w := by
      have hne : x.toNat ≠ 2 ^ w - 1 := fun he => h (BitVec.eq_of_toNat_eq (by rw [he, BitVec.toNat_allOnes]))
      have := x.isLt
      omega
    rw [BitVec.toNat_add]
    cases w with
    | zero => omega
    | succ w =>
      have hone : (1 : BitVec (w + 1)).toNat = 1 := BitVec.toNat_one (by omega)
      rw [hone, Nat.mod_eq_of_lt hlt]
      omega

/-- What the loss of a controller leaves: the granary's bytes and the controllers, a fence reported and the count of such faults. -/
structure KeepsGranary (s t : State) : Prop where
  gran : t.gran = s.gran
  ctl : t.granCtl = s.granCtl
  fenced : s.fault.fenced = true → t.fault.fenced = true
  count : s.fault.cntFenced.toNat ≤ t.fault.cntFenced.toNat

namespace KeepsGranary
variable {s t u : State}

theorem refl (s : State) : KeepsGranary s s := ⟨rfl, rfl, id, le_rfl⟩

theorem trans (h : KeepsGranary s t) (k : KeepsGranary t u) : KeepsGranary s u :=
  ⟨k.gran.trans h.gran, k.ctl.trans h.ctl, k.fenced ∘ h.fenced, h.count.trans k.count⟩

theorem foldl {α : Type*} {f : State → α → State} (step : ∀ s a, KeepsGranary s (f s a)) (l : List α) (s : State) :
    KeepsGranary s (l.foldl f s) := foldl_of_step refl trans step l s

theorem of_fault (hg : t.gran = s.gran) (hc : t.granCtl = s.granCtl) (hf : t.fault = s.fault) : KeepsGranary s t :=
  ⟨hg, hc, by rw [hf]; exact id, by rw [hf]⟩

theorem of_sends {P : Lodged → Prop} (h : Sends P s t) : KeepsGranary s t := by
  obtain ⟨ls, -, rfl⟩ := h
  exact of_fault rfl rfl rfl

end KeepsGranary

theorem countFault_keepsFence (b : FaultBlk) (code : Half) (ut : BitVec 4) (unit : Nat) :
    (b.fenced = true → (countFault b code ut unit).fenced = true) ∧ b.cntFenced.toNat ≤ (countFault b code ut unit).cntFenced.toNat := by
  have hle := toNat_le_satInc b.cntFenced
  unfold countFault
  dsimp only
  split <;> split <;> simp [hle]

theorem raise_keepsGranary (s : State) (code : Half) (ut : BitVec 4) (unit : Nat) : KeepsGranary s (raise s code ut unit) := by
  obtain ⟨hfenced, hcount⟩ := countFault_keepsFence s.fault code ut unit
  exact ⟨by simp, by simp, by rw [raise_fault]; exact hfenced, by rw [raise_fault]; exact hcount⟩

theorem tally_keepsGranary (s : State) (e : Entry) : KeepsGranary s (tally s e) := .of_fault (by simp) (by simp) (by simp)

theorem raiseCount_keepsGranary (s : State) (code : Half) (ut : BitVec 4) (unit : Nat) : KeepsGranary s (raiseCount s code ut unit) := by
  obtain ⟨hfenced, hcount⟩ := countFault_keepsFence s.fault code ut unit
  have h := auditFault_fields s code
  exact ⟨by simp [raiseCount, h], by simp [raiseCount, h], hfenced, hcount⟩

theorem raiseBy_keepsGranary (s : State) (code : Half) (ut : BitVec 4) (unit : Nat) (kind : Half) (body : List Byte) (n : Bool) :
    KeepsGranary s (raiseBy s code ut unit kind body n) := (raiseCount_keepsGranary ..).trans (tally_keepsGranary ..)

theorem modFeed_keepsGranary (s : State) (k : Nat) (f : FeedSt → FeedSt) : KeepsGranary s (modFeed s k f) := .of_fault rfl rfl rfl

theorem modShare_keepsGranary (s : State) (k : Nat) (f : ShareSt → ShareSt) : KeepsGranary s (modShare s k f) := .of_fault rfl rfl rfl

theorem modPlan_keepsGranary (s : State) (f : Plan → Plan) : KeepsGranary s (modPlan s f) := .of_fault rfl rfl rfl

theorem tearShare_keepsGranary (s : State) (sh : Nat) (ks : List Nat) : KeepsGranary s (tearShare s sh ks) := by
  unfold tearShare
  extract_lets fresh ks s1 note
  have h1 : KeepsGranary s s1 := modShare_keepsGranary ..
  have hnote (ks : List Nat) (s : State) : KeepsGranary s (ks.foldl note s) :=
    .foldl (fun s k => (modFeed_keepsGranary s k _).trans (tally_keepsGranary (modFeed s k _) _)) ks s
  clear_value fresh ks s1
  split
  · exact h1.trans (raise_keepsGranary ..)
  · exact h1.trans (((modFeed_keepsGranary s1 _ _).trans (raiseBy_keepsGranary ..)).trans (hnote ..))
  · exact h1.trans (hnote ..)

theorem abortFeed_keepsGranary (s : State) (k : Nat) : KeepsGranary s (abortFeed s k) := by
  unfold abortFeed
  extract_lets sh x s1 s2
  have h1 : KeepsGranary s s1 :=
    ((modShare_keepsGranary s sh _).trans (raise_keepsGranary ..)).trans (modFeed_keepsGranary (shareFault s sh _) k _)
  have h2 : KeepsGranary s1 s2 := by
    simp only [s2]
    split
    · exact .refl s1
    · exact .of_sends (askRoot_sends ..)
  split
  · exact (h1.trans h2).trans (tearShare_keepsGranary ..)
  · exact h1.trans h2

theorem losesShares_keepsGranary (s : State) (k : Nat) : KeepsGranary s (losesShares s k) := by
  refine KeepsGranary.foldl (fun s sh => ?_) _ s
  split
  · refine .trans (t := modShare s sh fun x => { x with granLost := true }) (.of_fault rfl rfl rfl) ?_
    refine KeepsGranary.foldl (fun s k => ?_) _ _
    dsimp only
    split
    · exact abortFeed_keepsGranary s k
    · exact .refl s
  · exact .refl s

theorem sendMarker_keepsGranary (s : State) (n : Nat) (code : Half) (f : Nat) : KeepsGranary s (sendMarker s n code f) := by
  cases h : (stage s n).begun <;> refine .of_fault ?_ ?_ ?_ <;> simp [sendMarker, h, takeMoveSeq, send]

theorem stageAbort_keepsGranary (s : State) (n : Nat) (code : Half) : KeepsGranary s (stageAbort s n code) := by
  unfold stageAbort
  extract_lets s1 job s2
  have h1 : KeepsGranary s s1 := .foldl (fun s f => sendMarker_keepsGranary ..) _ s
  have h2 : KeepsGranary s s2 := h1.trans (.of_fault rfl rfl rfl)
  split
  · exact h2.trans (tally_keepsGranary ..)
  · exact h2.trans (raiseBy_keepsGranary ..)

theorem stageOnFence_keepsGranary (s : State) (k : Nat) : KeepsGranary s (stageOnFence s k) := by
  refine KeepsGranary.foldl (fun s n => ?_) _ s
  split
  · exact stageAbort_keepsGranary ..
  · exact .refl s

theorem losesSources_keepsGranary (s : State) : KeepsGranary s (losesSources s) := by
  have hlost : KeepsGranary s { s with mem := { s.mem with stateLost := true, src := [] } } := .of_fault rfl rfl rfl
  exact hlost.trans (.foldl (fun s f => raise_keepsGranary ..) _ _)

theorem complete_keepsGranary (s : State) (c : Cmd) (e : Entry) (data : List Byte) : KeepsGranary s (complete s c e data) :=
  .of_fault (by simp) (by simp) (by simp)

theorem cmdDone_keepsGranary (s : State) (c : Cmd) (op : Half) (st : Nat) : KeepsGranary s (cmdDone s c op st) :=
  .of_fault (by simp) (by simp) (by simp)

theorem withdraw_keepsGranary (s : State) (m : Commit) (st : SlotState) : KeepsGranary s (withdraw s m st) :=
  .of_fault (withdraw_withdrawn s m st).gran rfl (withdraw_withdrawn s m st).fault

theorem abandon_keepsGranary (s : State) (m : Commit) (st : SlotState) (code : Half) (cond : Nat) :
    KeepsGranary s (abandon s m st code cond) := by
  unfold abandon
  extract_lets s1 s2
  have h1 : KeepsGranary s s1 := withdraw_keepsGranary ..
  have h2 : KeepsGranary s1 s2 := .of_fault rfl rfl rfl
  exact (h1.trans h2).trans (complete_keepsGranary ..)

theorem planLoftUe_keepsGranary (s : State) : KeepsGranary s (planLoftUe s) := by
  unfold planLoftUe
  split
  · exact .refl s
  · next c _ =>
    split
    · extract_lets s1
      have h1 : KeepsGranary s s1 := raiseCount_keepsGranary ..
      exact h1.trans ((modPlan_keepsGranary s1 fun p => { p with lastFault := fPlanLoftUe }).trans (abandon_keepsGranary ..))
    · exact .refl s

theorem losesLoft_keepsGranary (s : State) : KeepsGranary s (losesLoft s) := by
  unfold losesLoft
  extract_lets s1 s2 s3
  have h1 : KeepsGranary s s1 := planLoftUe_keepsGranary s
  have h2 : KeepsGranary s1 s2 := by
    simp only [s2]
    split
    · split
      · exact (withdraw_keepsGranary ..).trans (cmdDone_keepsGranary ..)
      · exact .refl s1
    · exact .refl s1
  have h3 : KeepsGranary s2 s3 := .foldl (fun s v => cmdDone_keepsGranary ..) _ s2
  exact ((h1.trans h2).trans h3).trans (modPlan_keepsGranary ..)

theorem granCtl_modGran (s : State) (k : Nat) (f : GranCtl → GranCtl) :
    Tab.get {} (modGran s k f).granCtl k = f (Tab.get {} s.granCtl k) := tab_get_upd ..

theorem granaryFail_of_unfenced {s : State} {k : Nat} (hk : (Tab.get {} s.granCtl k).fenced = false) :
    KeepsGranary (modGran (raise s fGranaryFail uGranary k) k fun g => { g with fenced := true }) (granaryFail k s) := by
  unfold granaryFail
  rw [if_neg (by simp [hk])]
  extract_lets s1 s2
  have h2 : KeepsGranary s1 s2 := (losesShares_keepsGranary ..).trans (stageOnFence_keepsGranary ..)
  split
  · exact h2.trans (losesSources_keepsGranary _)
  · split
    · exact h2.trans (losesLoft_keepsGranary _)
    · exact h2

theorem raise_fenced {s : State} {code : Half} (hclass : classOf code = 3) (ut : BitVec 4) (unit : Nat) :
    (raise s code ut unit).fault.fenced = true := by
  rw [raise_fault]
  unfold countFault
  simp [hclass]

end Sys2Proof.Machine

namespace Sys2Proof
open Sys2Proof.Machine Sys2Proof.Laws

/-- Settles O16: `KeepsGranary` for what the loss of a controller leaves of the fence it raised. -/
theorem granaryControllers : Obligations.GranaryControllers := by
  intro s k hl
  refine ⟨fun hready => ?_, fun hot => ?_, fun hk => ?_, fun c hc hu hfenced hrank => ?_, fun c rest hwait => ?_⟩
  · refine ⟨_, event_ok (f := granaryReady) hl, ?_⟩
    simp [granaryReady, hready]
  · refine ⟨_, event_ok (f := fun s => modGran s k.val fun g => { g with doubled := hot }) hl, ?_, rfl⟩
    rw [granCtl_modGran]
  · have hkeep := granaryFail_of_unfenced hk
    have hfenced : (raise s fGranaryFail uGranary k).fault.fenced = true := raise_fenced rfl ..
    refine ⟨_, event_ok (f := granaryFail k.val) hl, ?_, hkeep.fenced hfenced, ?_, ?_, ?_⟩
    · rw [hkeep.ctl, granCtl_modGran]
    · exact (raise_keepsGranary s fGranaryFail uGranary k).count.trans hkeep.count
    · exact hkeep.gran.trans (raise_keepsGranary s fGranaryFail uGranary k).gran
    · simp [faultN, hkeep.fenced hfenced]
  · have hexec : exec (.granaryReadmit c) s = .next (granaryReadmit c s) := by
      change onCmd _ c _ _ s (granaryReadmit c) = _
      rw [decide_eq_true (by omega)]
      exact onCmd_ok hl hc
    have heq : granaryReadmit c s = modGran (keep s (objKey 10 k) c) k fun g => { g with readmit := g.readmit ++ [c] } := by
      simp only [granaryReadmit, hu, hrank, hfenced, if_true]
    refine ⟨_, hexec, ?_⟩
    rw [heq, granCtl_modGran]
    exact ⟨rfl, hfenced, rfl, rfl⟩
  · refine ⟨_, event_ok (f := granaryReadmitDone k.val) hl, ?_⟩
    unfold granaryReadmitDone
    simp only [hwait, recoveryDone_fields]
    have hctl := granCtl_modGran s k.val fun g => { g with fenced := false, readmit := rest }
    refine ⟨congrArg GranCtl.fenced hctl, fun a h h' => mem_read_zero _ _ _ _ h (by omega), fun a h =>
      mem_read_zero_out _ _ _ _ (by omega)⟩

end Sys2Proof

/-! # Recovery, hedges, the yoke and self-tests, firmware and management: O17, O19 to O22 -/

namespace Sys2Proof.Machine
open Sys2Proof Sys2Proof.Laws

theorem serialAbove_self (e : Word) : serialAbove e e = false := by simp [serialAbove]

theorem recovery_same {op : Half} {c : Cmd} {ut : BitVec 4} {unit obj fld : Nat} {s : State} {f : State → State}
    (h : rank s (Tab.get {} s.recov obj) c = .same) : recovery op c ut unit obj fld s f = recoveryDone s c op ut unit stOk fld := by
  unfold recovery
  rw [h]

theorem recovery_refused {op : Half} {c : Cmd} {ut : BitVec 4} {unit obj fld st : Nat} {s : State} {f : State → State}
    (h : rank s (Tab.get {} s.recov obj) c = .refusedWith st) :
    recovery op c ut unit obj fld s f = recoveryDone s c op ut unit st fld := by
  unfold recovery
  rw [h]

/-- A command of the table runs `recovery` on its object. -/
theorem exec_recoveryObject {s : State} {c : Cmd} {i : Instr} {op : Half} {fmt : List (Nat × Nat)} {obj : Nat} {ut : BitVec 4} {unit field : Nat}
    (hi : (i, op, fmt, obj, ut, unit, field) ∈ recoveryObject c) (hl : s.live) (hc : c.passes op fmt)
    (hfmt : c.u 0 2 < 1024 ∧ (i = .stageReset c → c.u 0 1 < 24) ∧ (i = .furrowReset c → c.u 0 1 < 32 ∧ c.u 1 1 < 2)) :
    ∃ f : State → State, exec i s = .next (recovery op c ut unit obj field s f) := by
  obtain ⟨hport, hstage, hfurrow⟩ := hfmt
  simp only [recoveryObject, List.mem_cons, List.not_mem_nil, or_false, Prod.mk.injEq] at hi
  obtain ⟨rfl, rfl, rfl, rfl, rfl, rfl, rfl⟩ | ⟨rfl, rfl, rfl, rfl, rfl, rfl, rfl⟩ | ⟨rfl, rfl, rfl, rfl, rfl, rfl, rfl⟩ |
    ⟨rfl, rfl, rfl, rfl, rfl, rfl, rfl⟩ := hi
  · have h : exec (.portRetrain c) s = .next (retrain c s) := by
      change onCmd _ c _ _ s (retrain c) = _
      rw [decide_eq_true hport]
      exact onCmd_ok hl hc
    dsimp only [retrain] at h
    exact ⟨_, h⟩
  · have h : exec (.stageReset c) s = .next (stageReset c s) := by
      change onCmd _ c _ _ s (stageReset c) = _
      rw [decide_eq_true (hstage rfl)]
      exact onCmd_ok hl hc
    dsimp only [stageReset] at h
    exact ⟨_, h⟩
  · have h : exec (.sourceReset c) s = .next (sourceReset c s) := by
      change onCmd _ c _ _ s (sourceReset c) = _
      rw [decide_eq_true hport]
      exact onCmd_ok hl hc
    dsimp only [sourceReset] at h
    exact ⟨_, h⟩
  · obtain ⟨hf, hscope⟩ := hfurrow rfl
    have h : exec (.furrowReset c) s = .next (furrowReset c s) := by
      change onCmd _ c _ _ s (furrowReset c) = _
      rw [decide_eq_true hf, decide_eq_true hscope]
      exact onCmd_ok hl hc
    dsimp only [furrowReset] at h
    exact ⟨_, h⟩

end Sys2Proof.Machine

namespace Sys2Proof
open Sys2Proof.Machine Sys2Proof.Laws

theorem recoveryRanking : Claims.RecoveryRanking := by
  intro s k c
  have hself := serialAbove_self k.epoch
  refine ⟨fun hv => ?_, fun hv ha => ?_, fun hv ha he => ?_, fun hv he hr => ?_, fun hv he hr => ?_, fun hv he hr hd => ?_,
    fun hv he hr hd => ?_, fun hv he hr hd hb => ?_, fun hv he hr hd hb => ?_⟩ <;> unfold rank
  · simp [hv]
  · simp [hv, ha]
  · simp [hv, ha, he]
  · simp [hv, he, hself, hr]
  · simp [hv, he, hself, hr, Nat.le_of_lt hr]
  · simp [hv, he, hself, hr, hd]
  · simp [hv, he, hself, hr, hd, Nat.le_of_lt hd]
  · simp [hv, he, hself, hr, hd, hb]
  · simp [hv, he, hself, hr, hd, hb]

theorem recoveryRepeatsAndRefusals : Claims.RecoveryRepeatsAndRefusals := by
  intro s c i op fmt obj ut unit field hi hl hc hfmt
  obtain ⟨f, hexec⟩ := exec_recoveryObject hi hl hc hfmt
  exact ⟨fun h => by rw [hexec, recovery_same h], fun st h => by rw [hexec, recovery_refused h]⟩

/-- Settles O17: `exec_recoveryObject` reduces each command to `recovery` on its object. -/
theorem recoveryCommandsAreRanked : Obligations.RecoveryCommandsAreRanked := ⟨recoveryRanking, recoveryRepeatsAndRefusals⟩

end Sys2Proof

namespace Sys2Proof.Machine
open Sys2Proof Sys2Proof.Laws

/-! ## The yoke (18 R513, R514) -/

section
variable {s : State} {c : Cmd} (hl : s.live)
include hl

theorem exec_yoke {code : Nat} {role : Role} (hc : c.passes oYoke [(0, 1), (2, 2), (4, 2), (8, 8), (16, 16)]) (hcode : c.u 0 1 = code)
    (hother : c.u 2 2 < 16383) (hk : code = 0 ∨ 1 ≤ c.u 4 2) : onYoke code role c s = .next (yokeRole role c s) := by
  have hok : (c.u 0 1 == code && decide (c.u 2 2 < 16383) && (code == 0 || decide (1 ≤ c.u 4 2))) = true := by
    simp [hcode, hother, hk]
  rw [onYoke, hok]
  exact onCmd_ok hl hc

theorem exec_yokeReport (hc : c.passes oYokeReport [(0, 8), (8, 1), (16, 64)]) (h : c.u 8 1 < 4) :
    exec (.yokeReport c) s = .next (yokeReport c s) := by
  change onCmd _ c _ _ s (yokeReport c) = _
  rw [decide_eq_true h]
  exact onCmd_ok hl hc

theorem exec_selfTest (hc : c.passes oSelfTest [(0, 4)]) (h : c.u 0 4 < 128) : exec (.selfTest c) s = .next (selfTest c s) := by
  change onCmd _ c _ _ s (selfTest c) = _
  rw [decide_eq_true h]
  exact onCmd_ok hl hc

end

theorem toNat_ofNat_u (c : Cmd) (off n : Nat) : (BitVec.ofNat (8 * n) (c.u off n)).toNat = c.u off n := by
  rw [BitVec.toNat_ofNat, Nat.mod_eq_of_lt]
  have h := leAt_lt c.body off n
  rwa [show 256 = 2 ^ 8 from rfl, ← pow_mul] at h

/-- The report that a YOKE_REPORT carries, kept before it is judged. -/
def withReport (c : Cmd) (s : State) : State :=
  { seeEpoch s c.epoch with yoke := { s.yoke with
    report := some (c.u 0 8, decide (c.u 8 1 ≠ 0), (List.range 8).map fun i => BitVec.ofNat 64 (c.u (16 + 8 * i) 8)) } }

theorem yokeReport_of_shadow {s : State} {c : Cmd} (hrole : s.yoke.role = .partner) (hdev : devOf c.src = s.yoke.other.toNat) :
    yokeReport c s = recoveryDone (yokeJudge (withReport c s)) c oYokeReport uDevice 0 stOk (devTarget (devOf c.src)) :=
  if_pos ⟨hrole, hdev⟩

theorem seeEpoch_cntContained (s : State) (e : Word) : (seeEpoch s e).fault.cntContained = s.fault.cntContained := by
  unfold seeEpoch
  split <;> rfl

/-- A report that agrees with the step that waits counts a clean step. -/
theorem yokeJudge_of_equal {s : State} {h : Nat} {mine theirs : List DWord} (hwait : s.yoke.wait = some (h, false, mine))
    (hreport : s.yoke.report = some (h, false, theirs)) (heq : ∀ i, i < mine.length → mine.getD i 0 = theirs.getD i 0) :
    yokeJudge s = yokeStep s h 0 0 (mine.getD 0 0) (theirs.getD 0 0) := by
  have hdiff : ((List.range mine.length).find? fun i => mine.getD i 0 != theirs.getD i 0) = none := by
    simp only [List.find?_eq_none, List.mem_range, bne_iff_ne, not_not]
    exact heq
  unfold yokeJudge
  simp only [hwait, hreport, hdiff]
  rfl

theorem yokeStep_clean (s : State) (h pair : Nat) (mine theirs : DWord) : ∃ body, yokeStep s h 0 pair mine theirs =
    tally { s with yoke := { s.yoke with cleanSteps := satInc s.yoke.cleanSteps, wait := none, report := none } }
      { kind := kYokeStep, body } := ⟨_, rfl⟩

/-! ## SELF_TEST (18 R516) -/

theorem domain_modDom (s : State) (d e : Nat) (f : Domain → Domain) :
    domain (modDom s d f) e = if e = d then f (domain s d) else domain s e := by
  split
  · next h => subst h; exact tab_get_set ..
  · next h =>
    change Tab.get (domReset s e) (Tab.set _ _ _ _) e = _
    unfold Tab.set
    split
    · exact tab_get_del_ne _ _ _ _ h
    · exact tab_get_put_ne _ _ _ _ _ h

/-- The domain is brought into TEST. -/
def toTest (s : State) (d : Nat) : State :=
  modDom s d fun x => { x with st := .test, transitions := if x.st = .on then x.transitions else satInc x.transitions }

theorem domain_toTest (s : State) (d e : Nat) (h : e = d ∨ (domain s e).st = .test) : (domain (toTest s d) e).st = .test := by
  rw [toTest, domain_modDom]
  split
  · rfl
  · next hne => exact h.resolve_left hne

theorem domain_foldl_toTest (ds : List Nat) (e : Nat) : ∀ s : State, e ∈ ds ∨ (domain s e).st = .test →
    (domain (ds.foldl toTest s) e).st = .test := by
  induction ds with
  | nil => exact fun s h => h.resolve_left (by simp)
  | cons d ds ih =>
    intro s h
    refine ih _ ?_
    rw [List.mem_cons, or_assoc, or_left_comm] at h
    exact h.imp_right (domain_toTest s d e)

theorem foldl_toTest_fields (ds : List Nat) : ∀ s : State, (ds.foldl toTest s).selfTest = s.selfTest ∧ (ds.foldl toTest s).host = s.host ∧
    (ds.foldl toTest s).gran = s.gran := by
  induction ds with
  | nil => exact fun s => ⟨rfl, rfl, rfl⟩
  | cons d ds ih => exact fun s => ih (toTest s d)

theorem auditFault_selfTest (s : State) (code : Half) : (auditFault s code).selfTest = s.selfTest := by simp [auditFault_fields]

end Sys2Proof.Machine

namespace Sys2Proof
open Sys2Proof.Machine Sys2Proof.Laws

theorem yokeCommands : Claims.YokeCommands := by
  intro s c hl
  refine ⟨fun code role hrole hc hcode hother hk hstart hrank => ?_, fun hc hcode hother hrank => ?_, fun hc hbits hrole hdev =>
    ⟨fun hwait => ?_, fun mine hwait hclean hmine => ?_⟩⟩
  · have hexec : exec (if code = 1 then .yokePartner c else .yokeShadow c) s = .next (yokeRole role c s) := by
      obtain ⟨rfl, rfl⟩ | ⟨rfl, rfl⟩ := hrole
      · exact exec_yoke hl hc hcode hother (.inr hk)
      · exact exec_yoke hl hc hcode hother (.inr hk)
    have hne : role ≠ .none := by obtain ⟨-, rfl⟩ | ⟨-, rfl⟩ := hrole <;> decide
    have hcond : ¬(role != .none && decide (c.u 8 8 ≤ now s)) = true := by simp [hstart]
    simp only [yokeRole, hrank, if_neg hcond, if_neg hne] at hexec
    refine ⟨_, hexec, rfl, ?_, toNat_ofNat_u c 4 2, toNat_ofNat_u c 8 8, rfl, rfl, rfl⟩
    rw [BitVec.toNat_ofNat, Nat.mod_eq_of_lt (by omega)]
  · have hexec : exec (.yokeEnd c) s = .next (yokeRole .none c s) := exec_yoke hl hc hcode hother (.inl rfl)
    simp only [yokeRole, hrank] at hexec
    exact ⟨_, hexec, rfl, rfl⟩
  · have hexec := exec_yokeReport hl hc hbits
    have hjudge : yokeJudge (withReport c s) = withReport c s := by simp [yokeJudge, withReport, hwait]
    rw [yokeReport_of_shadow hrole hdev, hjudge] at hexec
    exact ⟨_, hexec, rfl, _, rfl⟩
  · have hexec := exec_yokeReport hl hc hbits
    have hjudge := yokeJudge_of_equal (s := withReport c s) (h := c.u 0 8)
      (theirs := (List.range 8).map fun i => BitVec.ofNat 64 (c.u (16 + 8 * i) 8)) hwait (by simp [withReport, hclean]) fun i hi => by
        obtain ⟨h8, hval⟩ := hmine i hi
        rw [List.getD_eq_getElem _ _ hi, List.getD_eq_getElem _ _ (by simpa using h8), List.getElem_map, List.getElem_range, ← hval,
          BitVec.ofNat_toNat, BitVec.setWidth_eq]
    obtain ⟨body, hstep⟩ := yokeStep_clean (withReport c s) (c.u 0 8) 0 (mine.getD 0 0)
      (((List.range 8).map fun i => BitVec.ofNat 64 (c.u (16 + 8 * i) 8)).getD 0 0)
    rw [yokeReport_of_shadow hrole hdev, hjudge, hstep] at hexec
    have hfault := seeEpoch_cntContained s c.epoch
    refine ⟨_, hexec, ?_, ?_, ?_, _, tally_newest .., rfl, rfl⟩ <;> simp only [tally_fields]
    · rfl
    · exact hfault

theorem selfTests : Claims.SelfTests := by
  intro s c hl
  refine ⟨fun hc hbits hplanned => ?_, fun hc hbits hplanned hidle hrank => ?_, fun failed hrun hauth => ?_⟩
  · rw [exec_selfTest hl hc hbits]
    simp only [selfTest, hplanned, if_true]
  · have hexec := exec_selfTest hl hc hbits
    have hgo : selfTest c s = (testedDomains s c).foldl toTest
        { keep s (objKey 8 0) c with selfTest := { s.selfTest with running := s.selfTest.running ++ [c] } } := by
      simp only [selfTest, hplanned, hrank]
      rw [if_neg (by decide), if_pos (by simp [keep, hidle])]
      rfl
    rw [hgo] at hexec
    obtain ⟨hself, hhost, hgran⟩ := foldl_toTest_fields (testedDomains s c)
      { keep s (objKey 8 0) c with selfTest := { s.selfTest with running := s.selfTest.running ++ [c] } }
    refine ⟨_, hexec, ?_, hhost, hgran, fun d hd => domain_foldl_toTest _ d _ (.inl hd)⟩
    rw [hself, hidle, List.nil_append]
  · refine ⟨_, event_ok (f := selfTestDone failed) hl, ?_⟩
    unfold selfTestDone
    split
    · next h => simp [hrun] at h
    next h =>
    obtain ⟨rfl, rfl⟩ := List.cons.inj (hrun.symm.trans h)
    extract_lets units bad s1 s3 detail s4 t
    have h4 : s4.selfTest = s3.selfTest := by
      simp only [s4]
      split
      · rfl
      · exact (auditFault_selfTest s3 fSelftestFail)
    have ht : t.selfTest = s4.selfTest := by simp [t]
    obtain ⟨x, hnew, hkind, href, hfault, -⟩ : ∃ x, newest t = some x ∧ x.kind = _ ∧ x.ref = c.seq ∧ x.fault = _ ∧ x.body = _ :=
      newest_complete (.inr hauth) s4 _
    rw [ht, h4]
    exact ⟨rfl, rfl, rfl, rfl, x, hnew, hkind, href, hfault⟩

/-- Settles O21: `yokeJudge_of_equal` for a report that agrees with the step that waits, `domain_foldl_toTest` for the domains a self-test
takes, `newest_complete` for the entry that ends it. -/
theorem yokeAndSelfTest : Obligations.YokeAndSelfTest := ⟨yokeCommands, selfTests⟩

end Sys2Proof

namespace Sys2Proof.Machine
open Sys2Proof Sys2Proof.Laws

/-! ## A notice that is repeated (18 R507) -/

/-- A packet of the device that takes more F credits than the port holds is not queued. -/
theorem sendMgtOn_of_short {s : State} {n : Nat} {dst : Addr} {op : BitVec 5} {payload : List Byte}
    (h : Tab.get 0 (port s n).credits 0 < flitsOf (mkPkt (ownAddr s) dst 0 op (mgtSeq s op) 0 s.fault.epochMax payload)) :
    (sendMgtOn s n dst op payload).outq = s.outq := by
  have hshort : ¬flitsOf (mkPkt (ownAddr s) dst 0 op (mgtSeq s op) 0 s.fault.epochMax payload) ≤
      Tab.get 0 (port (mgtCount s op) n).credits 0 := Nat.not_le_of_lt h
  exact (congrArg State.outq (if_neg hshort)).trans rfl

theorem flitsOf_mkPkt (src dst : Addr) (op : BitVec 5) (seq epoch : Word) (payload : List Byte) :
    flitsOf (mkPkt src dst 0 op seq 0 epoch payload) = cdiv (32 + 4 * (cdiv payload.length 4 % 2 ^ 11)) 256 := by
  simp [flitsOf, mkPkt]

theorem forwardNotice_of_one {s : State} {n : Nat} (h : devicePorts s = [n]) (bytes : List Byte) :
    forwardNotice s none bytes = sendMgtOn s n ((port s n).peer.getD 0) pMgtHedge bytes := by
  simp [forwardNotice, h]

/-- FABRIC port 9 is UP with device 5 behind it and one F credit on VL0; `rs` are the notices left to repeat. -/
def withNotices (rs : List Notice) : State :=
  { plan := { deviceId := 7, planned := true, cur := [{ sect := 2, rtype := 1, index := 9, fields := [0], tables := [] }] }
    ports := [(9, { st := .up, peer := some (addr 5 3), credits := [(0, 1)] })]
    hedge := { repeats := rs }
    pins := { coldResetN := true } }

theorem withNotices_live (rs : List Notice) : (withNotices rs).live := ⟨rfl, rfl⟩

theorem withNotices_ports (rs : List Notice) : devicePorts (withNotices rs) = [9] :=
  (by decide : devicePorts (withNotices []) = [9])

theorem withNotices_credits (rs : List Notice) : Tab.get 0 (port (withNotices rs) 9).credits 0 = 1 := rfl

theorem hedgeRepeat_withNotices {bytes : List Byte} (h : bytes.length = 300) :
    (hedgeRepeat (withNotices [{ bytes, left := 1 }])).outq = [] := by
  change (forwardNotice (withNotices []) none bytes).outq = []
  rw [forwardNotice_of_one (withNotices_ports [])]
  refine sendMgtOn_of_short ?_
  rw [flitsOf_mkPkt, h]
  decide

end Sys2Proof.Machine

namespace Sys2Proof
open Sys2Proof.Machine Sys2Proof.Laws

/-- Refutes O20, by its clause on HEDGE_REPEAT: a notice of 300 bytes takes two flits where the port of `withNotices` holds one F credit,
and is discarded (11 R342). The claim bounds the bytes of a kept notice nowhere; only `applyNotice` keeps them at 24. -/
theorem not_hedgesAndBeacons : ¬ Obligations.HedgesAndBeacons := by
  rintro ⟨-, hbeacons⟩
  obtain ⟨bytes, hlong⟩ : ∃ bytes : List Byte, bytes.length = 300 := ⟨List.replicate 300 0, List.length_replicate⟩
  let s := withNotices [{ bytes, left := 1 }]
  obtain ⟨-, -, -, -, hrepeat⟩ := hbeacons s (withNotices_live _)
  obtain ⟨t, hexec, -, -, hsent⟩ := hrepeat _ _ rfl
  have hnext : exec .hedgeRepeat s = .next (hedgeRepeat s) := event_ok (withNotices_live _)
  cases hnext.symm.trans hexec
  have hports : devicePorts s = [9] := withNotices_ports _
  have hcredits : Tab.get 0 (port s 9).credits 0 = 1 := withNotices_credits _
  have hlen := hsent (by simp [hports]) (by simp [hports, hcredits])
  rw [hports, hedgeRepeat_withNotices hlong] at hlen
  cases hlen

end Sys2Proof

namespace Sys2Proof.Machine
open Sys2Proof Sys2Proof.Laws

/-! ## A notice that changes a device's entry (18 R506, R507) -/

theorem supersedes_iff {st : HState} {epoch : Word} {e : HEntry} : supersedes st epoch e = true ↔
    serialAbove epoch e.epoch = true ∨ (epoch = e.epoch ∧ HState.rank e.st < HState.rank st) := by
  simp [supersedes]

/-- What sending a notice leaves. -/
structure SameButNotices (s t : State) : Prop where
  dev : t.hedge.dev = s.hedge.dev
  ep : t.hedge.ep = s.hedge.ep
  loc : t.hedge.loc = s.hedge.loc
  repeats : t.hedge.repeats = s.hedge.repeats
  fault : t.fault = s.fault
  plots : t.plots = s.plots
  gran : t.gran = s.gran
  ingress : t.ingress = s.ingress
  portSt : ∀ n, (port t n).st = (port s n).st

namespace SameButNotices
variable {s t u : State}

theorem refl (s : State) : SameButNotices s s := ⟨rfl, rfl, rfl, rfl, rfl, rfl, rfl, rfl, fun _ => rfl⟩

theorem trans (h : SameButNotices s t) (k : SameButNotices t u) : SameButNotices s u :=
  ⟨k.dev.trans h.dev, k.ep.trans h.ep, k.loc.trans h.loc, k.repeats.trans h.repeats, k.fault.trans h.fault, k.plots.trans h.plots,
    k.gran.trans h.gran, k.ingress.trans h.ingress, fun n => (k.portSt n).trans (h.portSt n)⟩

end SameButNotices

theorem sendMgtOn_sameButNotices (s : State) (n : Nat) (dst : Addr) (op : BitVec 5) (payload : List Byte) :
    SameButNotices s (sendMgtOn s n dst op payload) := by
  unfold sendMgtOn
  extract_lets p s1 s2
  split
  · refine ⟨rfl, rfl, rfl, rfl, rfl, rfl, rfl, rfl, fun m => ?_⟩
    change (port s2 m).st = (port s1 m).st
    obtain rfl | hm := eq_or_ne m n
    · simp only [s2, port_modPort]
    · simp only [s2, port_modPort_ne s1 n _ hm]
  · exact ⟨rfl, rfl, rfl, rfl, rfl, rfl, rfl, rfl, fun m => rfl⟩

theorem forwardNotice_sameButNotices (s : State) (except : Option Nat) (bytes : List Byte) :
    SameButNotices s (forwardNotice s except bytes) :=
  foldl_of_step SameButNotices.refl SameButNotices.trans (fun _ _ => sendMgtOn_sameButNotices ..) _ s

theorem seeEpoch_eq (s : State) (e : Word) :
    seeEpoch s e = { s with fault := { s.fault with epochMax := if serialAbove e s.fault.epochMax then e else s.fault.epochMax } } := by
  unfold seeEpoch
  split <;> rfl

/-- A device's entry changed at its epoch. -/
def setDevice (s : State) (d : Nat) (epoch : Word) (e : HEntry) : State :=
  { s with
    fault := { s.fault with epochMax := if serialAbove epoch s.fault.epochMax then epoch else s.fault.epochMax }
    hedge := { s.hedge with dev := Tab.set {} s.hedge.dev d e } }

/-- A device's entry changed, sent to every other device and recorded; `orig` when it is to be repeated. -/
def applyDevice (s : State) (except : Option Nat) (orig : Bool) (d : Nat) (st : HState) (epoch : Word) (headland cause origin : Nat)
    (body : List Byte) : State :=
  let bytes := noticeBytes (devTarget d) st cause epoch origin headland
  let u := hedgeEntry (forwardNotice (setDevice s d epoch (newEntry st epoch headland cause body)) except bytes) bytes none
  if orig then { u with hedge := { u.hedge with repeats := u.hedge.repeats ++ [{ bytes, left := 2 }] } } else u

theorem bits_devTarget (d : BitVec 14) : bits (devTarget d.toNat) 23 10 = d.toNat := by
  have := d.isLt
  simp only [bits, devTarget, Nat.shiftRight_eq_div_pow]
  omega

theorem applyNotice_device (s : State) (except : Option Nat) (orig : Bool) (d : BitVec 14) (st : HState) (epoch : Word)
    (headland cause origin : Nat) (body : List Byte) : applyNotice s except orig (devTarget d.toNat) st epoch headland cause origin body =
      if supersedes st epoch (devEntry s d.toNat) then
        afterHedge s (applyDevice s except orig d.toNat st epoch headland cause origin body) else s := by
  have hdev : decide (devTarget d.toNat < 2 ^ 30) = true := by
    have := d.isLt
    exact decide_eq_true (by simp only [devTarget]; omega)
  unfold applyNotice
  simp only [hdev, bits_devTarget, Bool.not_true, Bool.false_and, if_true, Bool.false_eq_true, if_false, seeEpoch_eq]
  cases supersedes st epoch (devEntry s d.toNat) <;> rfl

theorem leAt_append_left {bs : List Byte} {off n : Nat} (h : off + n ≤ bs.length) (cs : List Byte) :
    leAt (bs ++ cs) off n = leAt bs off n := by
  unfold leAt slice
  congr 1
  refine List.map_congr_left fun i hi => ?_
  have := List.mem_range.mp hi
  rw [List.getD_append _ _ _ _ (by omega)]

section
variable (s : State) (except : Option Nat) (orig : Bool) (d : Nat) (st : HState) (epoch : Word) (headland cause origin : Nat) (body : List Byte)

theorem applyDevice_newest : ∃ e, newest (applyDevice s except orig d st epoch headland cause origin body) = some e ∧ e.kind = kHedge ∧
    leAt e.body 0 4 = devTarget d % 2 ^ 32 ∧ leAt e.body 8 4 = epoch.toNat := by
  have hbody (bs : List Byte) : leAt (noticeBytes (devTarget d) st cause epoch origin headland ++ bs) 0 4 = devTarget d % 2 ^ 32 ∧
      leAt (noticeBytes (devTarget d) st cause epoch origin headland ++ bs) 8 4 = epoch.toNat := by
    have hlen : (noticeBytes (devTarget d) st cause epoch origin headland).length = 24 := length_pack ..
    rw [leAt_append_left (by omega), leAt_append_left (by omega)]
    unfold noticeBytes
    rw [leAt_pack_head (by decide), leAt_pack_skip (by decide), leAt_pack_skip (by decide), leAt_pack_skip (by decide),
      leAt_pack_head (by decide)]
    exact ⟨rfl, Nat.mod_eq_of_lt epoch.isLt⟩
  cases orig <;> exact ⟨_, tally_newest .., rfl, hbody _⟩

/-- What a device's entry leaves that is changed and sent: all but the entry, EPOCH_MAX and the repeat that is due. -/
theorem applyDevice_frame : ∃ u, SameButNotices (setDevice s d epoch (newEntry st epoch headland cause body)) u ∧
    SameButNotices { u with hedge := { u.hedge with
      repeats := u.hedge.repeats ++ if orig then [⟨noticeBytes (devTarget d) st cause epoch origin headland, 2⟩] else [] } }
      (applyDevice s except orig d st epoch headland cause origin body) := by
  refine ⟨_, forwardNotice_sameButNotices _ except (noticeBytes (devTarget d) st cause epoch origin headland), ?_⟩
  unfold applyDevice hedgeEntry
  cases orig <;> constructor <;> simp [port]

end

end Sys2Proof.Machine

namespace Sys2Proof
open Sys2Proof.Machine Sys2Proof.Laws

/-- Settles O19: `applyNotice_device` for what a notice does, `applyDevice_frame` and `applyDevice_newest` for what it leaves. -/
theorem hedgeMerging : Obligations.HedgeMerging := by
  intro s d orig st epoch h cause origin body
  refine ⟨supersedes_iff, fun hstands => ?_, fun hreplaces => ?_⟩
  · rw [applyNotice_device, hstands]
    rfl
  · obtain ⟨e, hnew, hkind, htarget, hepoch⟩ := applyDevice_newest s none orig d.toNat st epoch h cause origin body
    obtain ⟨u, hset, happly⟩ := applyDevice_frame s none orig d.toNat st epoch h cause origin body
    have hsmall : devTarget d.toNat < 2 ^ 32 := by
      have := d.isLt
      simp only [devTarget]
      omega
    refine ⟨_, by rw [applyNotice_device, if_pos hreplaces], ?_, happly.ep.trans hset.ep, happly.loc.trans hset.loc,
      ⟨e, hnew, hkind, htarget.trans (Nat.mod_eq_of_lt hsmall), hepoch⟩, ?_, ?_, happly.plots.trans hset.plots,
      happly.gran.trans hset.gran, happly.ingress.trans hset.ingress, fun n => (happly.portSt n).trans (hset.portSt n)⟩
    · rw [devEntry, happly.dev, hset.dev]
      exact tab_get_set ..
    · rw [happly.fault, hset.fault]
      rfl
    · rw [happly.repeats, List.length_append, hset.repeats]
      cases orig <;> rfl

end Sys2Proof

namespace Sys2Proof.Machine
open Sys2Proof Sys2Proof.Laws

/-! ## Firmware and dossiers (18 R523, 19 R548) -/

section
variable {s : State} {c : Cmd} (hl : s.live)

theorem fwUpdate_of_fits (hfits : c.u 0 4 + c.u 4 2 ≤ 2 ^ 24) (sigOk : Bool) :
    ∃ f : Fw, fwUpdate c sigOk s = cmdDone { s with fw := f } c oFwUpdate (if c.u 6 1 = 1 ∧ sigOk = false then stFormat else stOk) ∧
      f.boot = s.fw.boot ∧ f.bank s.fw.boot = s.fw.bank s.fw.boot ∧
      f.bank (!s.fw.boot) = Mem.writes (s.fw.bank (!s.fw.boot)) (c.u 0 4) c.data ∧ (f.marked = true ↔ c.u 6 1 = 1 ∧ sigOk = true) := by
  have hstatus : (if ((c.u 6 1 == 1) && !sigOk) = true then stFormat else stOk) = if c.u 6 1 = 1 ∧ sigOk = false then stFormat else stOk := by
    simp
  refine ⟨_, (if_neg (Nat.not_lt_of_le hfits)).trans (by rw [hstatus]), ?_⟩
  cases hb : s.fw.boot <;> simp [Fw.bank, hb]

include hl

theorem exec_fwUpdate (hc : c.passes oFwUpdate [(0, 4), (4, 2), (6, 1)]) (hoff : c.u 0 4 % 256 = 0) (hlen : c.u 4 2 % 256 = 0)
    (hmin : 256 ≤ c.u 4 2) (hmax : c.u 4 2 ≤ 3840) (hlast : c.u 6 1 < 2) (hdata : c.data.length = c.u 4 2) (sigOk : Bool) :
    exec (.fwUpdate c sigOk) s = .next (fwUpdate c sigOk s) := by
  have hok : (c.u 0 4 % 256 == 0 && c.u 4 2 % 256 == 0 && decide (256 ≤ c.u 4 2) && decide (c.u 4 2 ≤ 3840) && decide (c.u 6 1 < 2) &&
      decide (c.data.length = c.u 4 2)) = true := by
    simp only [hoff, hlen, hmin, hmax, hlast, hdata]
    rfl
  change onCmd _ c _ _ s (fwUpdate c sigOk) = _
  rw [hok]
  exact onCmd_ok hl hc

theorem exec_dossierCapture (hc : c.passes oDossier dossierFields) (hop : c.u 0 1 = 0) :
    exec (.dossierCapture c) s = .next { s with dossier := { s.dossier with busy := s.dossier.busy ++ [c] } } := by
  change execDossierCapture c s = _
  rw [execDossierCapture, hop]
  exact onCmd_ok hl hc

theorem exec_dossierRead (hc : c.passes oDossier dossierFields) (hop : c.u 0 1 = 1) (hmin : 1 ≤ c.u 8 2) (hmax : c.u 8 2 ≤ 3840) :
    exec (.dossierRead c) s = .next (dossierRead c s) := by
  have hok : (c.u 0 1 == 1 && decide (1 ≤ c.u 8 2) && decide (c.u 8 2 ≤ 3840)) = true := by simp [hop, hmin, hmax]
  change onCmd _ c _ _ s (dossierRead c) = _
  rw [hok]
  exact onCmd_ok hl hc

end

theorem dossierRead_of_held {s : State} {c : Cmd} (hvalid : s.dossier.valid = true) (hheld : c.u 4 4 + c.u 8 2 ≤ s.dossier.size.toNat) :
    dossierRead c s = cmdDone s c oDossier stOk 0 0 (dossierBytes s.dossier.capture (c.u 4 4) (c.u 8 2)) := by
  have hmin : min (c.u 8 2) (s.dossier.size.toNat - c.u 4 4) = c.u 8 2 := by omega
  simp only [dossierRead, hvalid, if_true, hmin]

theorem dossierDone_of_busy {s : State} {c : Cmd} {rest : List Cmd} (h : s.dossier.busy = c :: rest) : ∃ len e, len ≤ 2 ^ 24 ∧
    e.kind = kDossierDone ∧ dossierDone s = complete { s with dossier :=
      { busy := rest, valid := true, size := BitVec.ofNat 25 len, capture := s.dossier.capture + 1 } } c e := by
  unfold dossierDone
  rw [h]
  exact ⟨_, _, Nat.min_le_right .., rfl, rfl⟩

/-! ## Frames (17 R491, R492, 18 R510) -/

theorem exec_mgtCmd {s : State} {p : Pkt} (hm : s.testMode = false) (hp : p.whole) (stew : Bool) (port : BitVec 10) (mac : BitVec 48)
    (sigOk : Bool) : exec (.mgtCmd stew port mac p sigOk) s =
      if stew then mgtSteward mac p sigOk s else if s.fault.fatal then .next s else mgtPeer port.toNat p s := by
  change execMgtCmd .. = _
  have hlen : ¬p.payload.length ≠ 4 * p.len.toNat := not_not.mpr hp
  rw [execMgtCmd, hm, if_neg Bool.false_ne_true, if_neg hlen]

theorem runEntry_of_plain {e : List Byte} (h : entryReserved e = false) (c : Cmd) (sigOk : Bool) (s : State) :
    runEntry c e sigOk s = runOp (entryOp e) c sigOk s := by
  simp [runEntry, h]

end Sys2Proof.Machine

namespace Sys2Proof
open Sys2Proof.Machine Sys2Proof.Laws

theorem firmwareAndDossiers : Claims.FirmwareAndDossiers := by
  intro s c hl
  refine ⟨fun sigOk hc hoff hlen hmin hmax hlast hdata hfits => ?_, fun hc hop => ?_, fun rest hbusy hauth => ?_,
    fun hc hop hmin hmax hvalid hheld => ?_⟩
  · obtain ⟨f, heq, hf⟩ := fwUpdate_of_fits (s := s) hfits sigOk
    exact ⟨f, by rw [exec_fwUpdate hl hc hoff hlen hmin hmax hlast hdata, heq], hf⟩
  · exact exec_dossierCapture hl hc hop
  · obtain ⟨len, e, hlen, hkind, heq⟩ := dossierDone_of_busy hbusy
    have hexec : exec .dossierDone s = .next (dossierDone s) := always_ok hl.1
    obtain ⟨x, hnew, hxkind, href, -⟩ := newest_complete (c := c) (.inr hauth) _ e
    refine ⟨_, hexec.trans (by rw [heq]), ?_⟩
    simp only [complete_fields]
    refine ⟨trivial, trivial, trivial, ?_, ⟨x, hnew, hxkind.trans hkind, href⟩, trivial⟩
    rw [BitVec.toNat_ofNat]
    omega
  · refine ⟨dossierBytes s.dossier.capture (c.u 4 4) (c.u 8 2), ?_, ?_, ?_⟩
    · rw [exec_dossierRead hl hc hop hmin hmax, dossierRead_of_held hvalid hheld]
    · simp [dossierBytes]
    · simp [dossierBytes]

theorem managementFrames : Claims.ManagementFrames := by
  intro s p mac port c hl hp
  refine ⟨fun hframe hentry hc hop hplain hpasses hidle => ⟨fun hnew => ?_, fun r hkept => ?_⟩,
    fun hport hlen hentry hseq hc hop hplain => ?_, fun hport => ?_⟩
  · rw [exec_mgtCmd hl.1 hp, if_pos rfl, mgtSteward]
    simp only [hframe, hentry, ← hc, hnew, hidle]
    rw [if_neg (by decide), if_neg (by decide), runEntry_of_plain hplain, hop]
    exact onCmd_ok hl hpasses
  · rw [exec_mgtCmd hl.1 hp, if_pos rfl, mgtSteward]
    simp only [hframe, hentry, ← hc, hkept]
    rfl
  · rw [exec_mgtCmd hl.1 hp, if_neg (by decide), if_neg (by simp [hl.2]), mgtPeer]
    have hgo : ¬(!(devicePorts (Machine.take s p)).contains port.toNat || decide (p.payload.length < 128) || (entryFault (p.payload.take 128)).isSome ||
        leAt (p.payload.take 128) 0 4 != p.seq.toNat) = true := by
      simp [hport, hlen, hentry, hseq]
    rw [if_neg hgo, runEntry_of_plain hplain, hop, ← hc]
    rfl
  · have hexec : exec (.mgtResp port p) s = .next (mgtResp port.toNat p s) := onPkt_ok hl hp
    refine ⟨_, hexec, ?_⟩
    simp only [mgtResp, List.contains_iff_mem.mpr hport, if_true]
    refine ⟨fun r hr hmatch => ?_, fun r hr hother => ?_, rfl⟩
    · simp [hmatch] at hr
    · simpa [Machine.take, hr, Classical.or_iff_not_imp_left] using hother

/-- Settles O22: `fwUpdate_of_fits`, `dossierDone_of_busy` and `dossierRead_of_held` for the Steward's commands, `exec_mgtCmd` and
`runEntry_of_plain` for the frames that bring one. -/
theorem firmwareAndManagement : Obligations.FirmwareAndManagement := ⟨firmwareAndDossiers, managementFrames⟩

end Sys2Proof

/-! # Memory: O30 to O32, O34 -/

namespace Sys2Proof.Machine
open Sys2Proof Sys2Proof.Laws

/-! ## A request alone at its granary line (14 R409) -/

section
variable {s : State} {d : Deliv} {line : Nat}

theorem applyDue_of_unheld (hreplay : ∀ e ∈ s.mem.replay, e.held = none) (hdelivered : ∀ x ∈ s.delivered, x.heldAt = none) (e : Ecc) :
    applyDue line e s = none := by
  have hfirst : (s.delivered.find? fun d => isRequest d.p.op && rqLine d.p == line && d.heldAt.any (heldTurn s)) = none :=
    List.find?_eq_none.mpr fun x hx => by simp [hdelivered x hx]
  have hsecond : (s.mem.replay.find? fun x => x.heldAt.any (heldTurn s) && x.held.any fun p => rqLine p == line) = none :=
    List.find?_eq_none.mpr fun x hx => by simp [hreplay x hx]
  rw [applyDue, hfirst]
  simp only [hsecond]
  rfl

theorem dueWaits_of_unheld (hreplay : ∀ e ∈ s.mem.replay, e.held = none) (hdelivered : ∀ x ∈ s.delivered, x.heldAt = none) :
    dueWaits s line = false := by
  have hfirst : (s.delivered.any fun d => isRequest d.p.op && rqLine d.p == line && d.heldAt.any fun n => decide (n < s.mem.heldDue)) = false :=
    List.any_eq_false.mpr fun x hx => by simp [hdelivered x hx]
  have hsecond : (s.mem.replay.any fun x => (x.heldAt.any fun n => decide (n < s.mem.heldDue)) && x.held.any fun p => rqLine p == line) = false :=
    List.any_eq_false.mpr fun x hx => by simp [hreplay x hx]
  simp only [dueWaits, hfirst, hsecond]
  rfl

theorem lineMarks_of_one (s : State) (d : Deliv) : lineMarks s [d] = s := by
  unfold lineMarks
  refine if_neg ?_
  cases h : overwrites d.p <;> simp [h, List.eraseDups_cons]

theorem hotTake_of_few {w : Nat} (hw : w < 32) (s : State) (die line : Nat) : hotTake s die line w = s := if_pos (.inl hw)

theorem hotQuench_of_cold (hcold : ∀ h ∈ s.mem.hot, h.line ≠ line) (w : Nat) (p : Pkt) : hotQuench s line w p = s := by
  have hnone : (s.mem.hot.find? fun h => h.line == line) = none := List.find?_eq_none.mpr fun h hh => by simp [hcold h hh]
  simp only [hotQuench, hnone]

theorem lineApply_of_alone (hreplay : ∀ e ∈ s.mem.replay, e.held = none) (hdelivered : ∀ x ∈ s.delivered, x.heldAt = none)
    (hqueue : lineQueue s line = [d]) (hcold : ∀ h ∈ s.mem.hot, h.line ≠ line) (hready : (isTracked d.p.op && !d.tracked) = false) (e : Ecc) :
    lineApply line e s = applyHead s d [] false e := by
  have hnone := applyDue_of_unheld (line := line) hreplay hdelivered e
  have hwaits := dueWaits_of_unheld (line := line) hreplay hdelivered
  unfold lineApply
  simp only [hnone, hwaits, hqueue, hready, Bool.false_eq_true, if_false, List.length_nil, lineMarks_of_one]
  rw [hotTake_of_few (by omega), hotQuench_of_cold hcold]

end

/-! ## A granary request is applied (14 R413, R416, R418) -/

theorem inActiveShare_of_none {s : State} (h : activeShares s = []) (a n : Nat) : inActiveShare s a n = false := by
  simp [inActiveShare, h]

section
variable {s : State} {d : Deliv} (hkind : (localKind s (fieldOf d.p.dst)).1 = 3)
include hkind

theorem applyHead_load (hload : d.p.op = pLoad) (hallowed : granAllowed s d.p = true) (due : Bool) (e : Ecc) :
    applyHead s d [] due e = granLoad (takeReqs s [d]) d.p [] e := by
  have hallowed' : granAllowed (takeReqs s [d]) d.p = true := hallowed
  simp [applyHead, hkind, hload, hallowed']

theorem applyHead_load_of_range (hload : d.p.op = pLoad) (hallowed : granAllowed s d.p = false) (due : Bool) (e : Ecc) :
    applyHead s d [] due e = refuseRange (takeReqs s [d]) d.p fMemRange := by
  have hallowed' : granAllowed (takeReqs s [d]) d.p = false := hallowed
  simp [applyHead, hkind, hload, hallowed']

theorem applyHead_store (hkept : s.mem.stateLost = false) (hstore : d.p.op = pStore) (hfloor : notAbove d.p.seq (srcSt s (fieldOf d.p.dst) (rqOrigin d.p)).floor = false)
    (hallowed : granAllowed s d.p = true) (hfenced : stackFenced s (reqStack d.p) = false) (hactive : activeShares s = []) (e : Ecc) :
    applyHead s d [] false e = retrySource (answerReq (granStore (takeReqs s [d]) d.p) d.p rsOk 0 0 []) (fieldOf d.p.dst) (rqOrigin d.p) := by
  have hholds : feedHolds s false d.p = false := by simp [feedHolds, inActiveShare_of_none hactive]
  simp [applyHead, applyStore, hkind, hkept, hstore, hfloor, hallowed, hfenced, hholds]

theorem applyHead_atomic (hkept : s.mem.stateLost = false) (hatomic : d.p.op = pAtomic)
    (hallowed : granAllowed s d.p = true) (hfenced : stackFenced s (reqStack d.p) = false)
    (hactive : activeShares s = []) (e : Ecc) : applyHead s d [] false e = granAtomics (takeReqs s [d]) [d.p] e := by
  have hholds : feedHolds s false d.p = false := by simp [feedHolds, inActiveShare_of_none hactive]
  simp [applyHead, hkind, hkept, hatomic, hallowed, hfenced, hholds, headGroup]

end

/-! ## Its answer (14 R399, R416, R420) -/

theorem settle_load {p : Pkt} (h : p.op = pLoad) (s : State) (status code old : Nat) : settle s p status code old = s := by
  simp [settle, isTracked, h]

theorem settle_store {p : Pkt} (h : p.op = pStore) (s : State) (code old : Nat) : settle s p rsOk code old = countStore s p := by
  simp [settle, isTracked, h]

theorem respond_eq (s : State) (p : Pkt) (status code old : Nat) (data : List Byte) :
    respond s p status code old data = withLodged s [answerOf s p status code old data] := rfl

theorem answerOf_congr {s t : State} (hplan : t.plan = s.plan) (hepoch : t.fault.epochMax = s.fault.epochMax) (p : Pkt) (status code old : Nat)
    (data : List Byte) : answerOf t p status code old data = answerOf s p status code old data := by
  simp only [answerOf, rspPkt, ownAddr, targetDie, localKind, fieldOfKind, planRecs, planRec, hplan, hepoch]

theorem raise_epochMax (s : State) (code : Half) (ut : BitVec 4) (unit : Nat) :
    (raise s code ut unit).fault.epochMax = s.fault.epochMax := by
  rw [raise_fault]
  unfold countFault
  dsimp only
  split <;> split <;> rfl

theorem granLoad_ok {s : State} {p : Pkt} (hload : p.op = pLoad) (hfenced : stackFenced s (reqStack p) = false) (hactive : activeShares s = []) :
    granLoad s p [] .ok = withLodged s [answerOf s p rsOk 0 0 (Mem.reads s.gran (rqOff p) (rqBytes p))] := by
  simp [granLoad, inActiveShare_of_none hactive, hfenced, answerReq, settle_load hload, respond_eq]

theorem provTouch_frame (s : State) (a n : Nat) : ∃ audit, provTouch s a n = { s with audit } := by
  unfold provTouch
  dsimp only
  split
  · exact ⟨_, rfl⟩
  · exact ⟨s.audit, rfl⟩

theorem retrySource_of_unheld {s : State} (h : ∀ e ∈ s.mem.replay, e.held = none) (field origin : Nat) : retrySource s field origin = s := by
  have hnone : (s.mem.replay.filterMap fun e => if e.heldAt.isSome then none else
      e.held.filter fun p => fieldOf p.dst == field && rqOrigin p == origin) = [] :=
    List.filterMap_eq_nil_iff.mpr fun e he => by simp [h e he]
  simp only [retrySource, retryHeld, hnone, List.foldl_nil]

theorem cnt_modCnt (s : State) (field : Nat) (f : MemCnt → MemCnt) :
    Tab.get {} (modCnt s field f).mem.cnt field = f (Tab.get {} s.mem.cnt field) := tab_get_upd ..

theorem cntGen_modCntGen (x : SrcState) (gen : Bool) (f : Half → Half) : cntGen (modCntGen gen f x) gen = f (cntGen x gen) := by
  cases gen <;> rfl

theorem srcSt_modSrc (s : State) (field origin : Nat) (f : SrcState → SrcState) :
    srcSt (modSrc s field origin f) field origin = f (srcSt s field origin) := tab_get_upd ..

theorem settle_atomic {p : Pkt} (h : p.op = pAtomic) (s : State) (status code old : Nat) :
    ∃ replay, settle s p status code old = { s with mem := { s.mem with replay } } := by
  simp only [settle, isTracked, h]
  exact ⟨_, rfl⟩

theorem refuseRange_load {s : State} {p : Pkt} (hload : p.op = pLoad) (code : Half) : refuseRange s p code =
    withLodged (raise (modCnt s (fieldOf p.dst) fun c => { c with range := satInc c.range }) fMemRange uField (fieldOf p.dst))
      [answerOf s p rsRange code.toNat 0 []] := by
  rw [refuseRange, answerReq, settle_load hload, respond_eq, answerOf_congr (s := s) (by simp [modCnt]) (by rw [raise_epochMax]; rfl)]

/-- The new value of an atomic in the granary. -/
def withAtomic (s : State) (p : Pkt) (old : Nat) : State :=
  { s with gran := Mem.writes s.gran (rqOff p) (leBytes (rqBytes p) (atomicNew p old)) }

/-- What an atomic of its own finds at its line. -/
def oldValue (s : State) (p : Pkt) : Nat := leNat (Mem.reads s.gran (rqOff p) (rqBytes p))

theorem granAtomics_one (s : State) (p : Pkt) : granAtomics s [p] .ok =
    (fun t => answerReq (provTouch (withAtomic t p (oldValue t p)) (rqOff p) (rqBytes p)) p rsOk 0 (oldValue t p) [])
      (if rqAop p = 1 then nFlag s 2 else s) := rfl

theorem granAtomics_of_one {s : State} {p : Pkt} (hatomic : p.op = pAtomic) : ∃ audit mem,
    granAtomics s [p] .ok = withLodged { withAtomic s p (oldValue s p) with audit, mem } [answerOf s p rsOk 0 (oldValue s p) []] := by
  obtain ⟨a1, h1⟩ : ∃ audit, (if rqAop p = 1 then nFlag s 2 else s) = { s with audit } := by
    split
    · exact ⟨_, rfl⟩
    · exact ⟨s.audit, rfl⟩
  obtain ⟨a2, h2⟩ := provTouch_frame (withAtomic { s with audit := a1 } p (oldValue s p)) (rqOff p) (rqBytes p)
  obtain ⟨replay, h3⟩ := settle_atomic hatomic { withAtomic s p (oldValue s p) with audit := a2 } rsOk 0 (oldValue s p)
  refine ⟨a2, { s.mem with replay }, ?_⟩
  rw [granAtomics_one, h1]
  change answerReq (provTouch (withAtomic { s with audit := a1 } p (oldValue s p)) _ _) p rsOk 0 (oldValue s p) [] = _
  rw [h2]
  change respond (settle { withAtomic s p (oldValue s p) with audit := a2 } p rsOk 0 (oldValue s p)) p rsOk 0 (oldValue s p) [] = _
  rw [h3]
  rfl

/-- A store of the granary that no FLOOR refuses is written, counted and answered. -/
theorem answerReq_granStore {s : State} {p : Pkt} (hstore : p.op = pStore) : ∃ audit,
    answerReq (granStore s p) p rsOk 0 0 [] =
      withLodged (countStore { s with audit, gran := Mem.writes s.gran (rqOff p) (rqData p) } p) [answerOf s p rsOk 0 0 []] := by
  obtain ⟨audit, h⟩ := provTouch_frame { s with gran := Mem.writes s.gran (rqOff p) (rqData p) } (rqOff p) (rqData p).length
  refine ⟨audit, ?_⟩
  rw [answerReq, granStore, h]
  change respond (settle _ p rsOk 0 0) p rsOk 0 0 [] = _
  rw [settle_store hstore]
  rfl

/-! ## The new value of an atomic (14 Table 14-6) -/

/-- The comparison key of a two's complement value is its rank. -/
theorem orderKey_signed {w n : Nat} (hw : w = 8 * n) (hn : 0 < n) (x : BitVec w) : (orderKey n true x.toNat : Int) = x.toInt + 2 ^ (w - 1) := by
  obtain ⟨k, rfl⟩ : ∃ k, w = k + 1 := ⟨w - 1, by omega⟩
  have hx := x.isLt
  simp only [orderKey, if_true, ← hw, Nat.add_sub_cancel, BitVec.toInt_eq_toNat_cond]
  rw [Nat.pow_succ] at hx ⊢
  have hmod : (x.toNat + 2 ^ k) % (2 ^ k * 2) = if 2 * x.toNat < 2 ^ k * 2 then x.toNat + 2 ^ k else x.toNat - 2 ^ k := by
    split
    · exact Nat.mod_eq_of_lt (by omega)
    · rw [Nat.mod_eq_sub_mod (by omega), Nat.mod_eq_of_lt (by omega)]
      omega
  rw [hmod]
  split
  · push_cast
    ring
  · push_cast [show 2 ^ k ≤ x.toNat by omega]
    ring

theorem orderKey_lt_iff {w n : Nat} (hw : w = 8 * n) (hn : 0 < n) (signed : Bool) (x y : BitVec w) :
    orderKey n signed x.toNat < orderKey n signed y.toNat ↔ if signed then x.toInt < y.toInt else x.toNat < y.toNat := by
  cases signed
  · rfl
  · have hx := orderKey_signed hw hn x
    have hy := orderKey_signed hw hn y
    simp only [if_true]
    omega

end Sys2Proof.Machine

namespace Sys2Proof
open Sys2Proof.Machine Sys2Proof.Laws

theorem atomicValues : Claims.AtomicValues := by
  rintro p w old hwidth x rfl
  have hw : w = 8 * rqBytes p := by omega
  have hn : 0 < rqBytes p := by omega
  have hlt := orderKey_lt_iff hw hn (rqSigned p)
  have hx : rqOperand p % 2 ^ w = (BitVec.ofNat w (rqOperand p)).toNat := (BitVec.toNat_ofNat ..).symm
  have hc : rqCompare p % 2 ^ w = (BitVec.ofNat w (rqCompare p)).toNat := (BitVec.toNat_ofNat ..).symm
  generalize BitVec.ofNat w (rqOperand p) = x at hx
  generalize BitVec.ofNat w (rqCompare p) = c at hc
  have hold := old.isLt
  have hxlt := x.isLt
  refine ⟨fun h => ?_, fun h => ?_, fun h => ?_, fun h => ?_, fun h => ?_, fun h => ?_, fun h => ?_, fun h => ?_⟩
  · refine BitVec.eq_of_toNat_eq ?_
    simp only [atomicNew, h, ← hw, hx, BitVec.toNat_add, BitVec.toNat_ofNat, Nat.mod_mod]
  · simp only [atomicNew, h, ← hw, hx, hlt]
    cases rqSigned p <;> simp only [if_true, Bool.false_eq_true, if_false] <;> split <;> simp
  · simp only [atomicNew, h, ← hw, hx, hlt]
    cases rqSigned p <;> simp only [if_true, Bool.false_eq_true, if_false] <;> split <;> simp
  · simp [atomicNew, h, ← hw, hx]
  · simp only [atomicNew, h, ← hw, hx, hc, BitVec.toNat_inj]
    split <;> simp
  · refine BitVec.eq_of_toNat_eq ?_
    simp [atomicNew, h, ← hw, hx]
  · refine BitVec.eq_of_toNat_eq ?_
    simp [atomicNew, h, ← hw, hx]
  · unfold atomicNew
    simp only [← hw, hx, hc]
    split
    · exact Nat.mod_lt _ (Nat.two_pow_pos w)
    · next h1 => exact absurd h1 h
    · split <;> assumption
    · split <;> assumption
    · exact hxlt
    · split <;> assumption
    · exact Nat.and_lt_two_pow _ hxlt
    · exact Nat.or_lt_two_pow hold hxlt
    · exact hold

theorem granaryAccess : Claims.GranaryAccess := by
  rintro s d line p hl rfl hqueue hkind hkept hcold hactive hfenced hreplay hdelivered
  have hexec : exec (.lineApply line .ok) s = .next (lineApply line.toNat .ok s) := event_ok hl
  have happly := fun h => lineApply_of_alone hreplay hdelivered hqueue hcold h .ok
  refine ⟨fun hallowed => ⟨fun hload => ?_, fun hstore hfloor => ?_, fun hatomic htracked old hold => ?_⟩, fun hallowed hload => ?_⟩
  · rw [hexec, happly (by simp [isTracked, hload]), applyHead_load hkind hload hallowed, granLoad_ok (s := takeReqs s [d]) hload hfenced hactive]
    rfl
  · rw [happly (by simp [isTracked, hstore]), applyHead_store hkind hkept hstore hfloor hallowed hfenced hactive] at hexec
    obtain ⟨audit, hanswer⟩ := answerReq_granStore (s := takeReqs s [d]) hstore
    have hunheld := retrySource_of_unheld (s := answerReq (granStore (takeReqs s [d]) d.p) d.p rsOk 0 0 [])
      (by rw [hanswer]; exact hreplay) (fieldOf d.p.dst) (rqOrigin d.p)
    rw [hunheld, hanswer] at hexec
    refine ⟨_, hexec, rfl, rfl, rfl, ?_, fun i hi => mem_read_writes _ _ _ _ hi, fun a ha => mem_read_writes_out _ _ _ _ ?_⟩
    · change cntGen (srcSt (modSrc _ _ _ _) _ _) _ = _
      rw [srcSt_modSrc, cntGen_modCntGen]
      rfl
    · rwa [rqData, length_slice]
  · rw [happly (by simp [htracked]), applyHead_atomic hkind hkept hatomic hallowed hfenced hactive] at hexec
    obtain ⟨audit, mem, hgroup⟩ := granAtomics_of_one (s := takeReqs s [d]) hatomic
    have hold' : oldValue (takeReqs s [d]) d.p = old := hold.symm
    rw [hgroup, hold'] at hexec
    have hlen : (leBytes (rqBytes d.p) (atomicNew d.p old)).length = rqBytes d.p := by simp
    refine ⟨_, hexec, rfl, rfl, rfl, ?_, fun a ha => mem_read_writes_out _ _ _ _ (by rwa [hlen])⟩
    have := reads_writes s.gran (rqOff d.p) (leBytes (rqBytes d.p) (atomicNew d.p old))
    rwa [hlen] at this
  · rw [happly (by simp [isTracked, hload]), applyHead_load_of_range hkind hload hallowed] at hexec
    rw [refuseRange_load hload] at hexec
    refine ⟨_, hexec, ?_, ?_, ?_⟩
    · simp [takeReqs, modCnt]
    · simp [takeReqs, modCnt]
      rfl
    · simp only [withLodged, raise_fields]
      exact congrArg MemCnt.range (cnt_modCnt (takeReqs s [d]) (fieldOf d.p.dst) _)

/-- Settles O31: `lineApply_of_alone` for a request alone at its line, `granLoad_ok`, `answerReq_granStore` and `granAtomics_of_one` for what
each does there, `orderKey_lt_iff` for the comparisons of the atomics. -/
theorem granaryAccessAndAtomics : Obligations.GranaryAccessAndAtomics := ⟨granaryAccess, atomicValues⟩

end Sys2Proof

namespace Sys2Proof.Machine
open Sys2Proof Sys2Proof.Laws

/-! ## A tracked request at its target (14 R420) -/

section
variable {s : State} {p : Pkt} {d : Deliv} (hop : isTracked p.op = true) (hfind : (s.delivered.find? fun d => d.p == p && !d.tracked) = some d)
  (hkeeps : keepsSource s (fieldOf p.dst) = true) (hkept : s.mem.stateLost = false)
include hop hfind hkeeps hkept

theorem trackedArrival_of_floor (hfloor : notAbove p.seq (srcSt s (fieldOf p.dst) (rqOrigin p)).floor = true) :
    trackedArrival p s = respond { s with delivered := s.delivered.erase d } p rsUnknown 0 0 [] := by
  simp [trackedArrival, hfind, hop, hkeeps, hkept, hfloor]

variable (hfloor : notAbove p.seq (srcSt s (fieldOf p.dst) (rqOrigin p)).floor = false)
include hfloor

theorem trackedArrival_of_open {e : Replay} (hreplay : replayOf s (fieldOf p.dst) (rqOrigin p) p.seq = some e) (hopen : e.answer = none) :
    trackedArrival p s = { s with delivered := s.delivered.erase d } := by
  simp [trackedArrival, hfind, hop, hkeeps, hkept, hfloor, hreplay, hopen]

theorem trackedArrival_of_done {e : Replay} (hreplay : replayOf s (fieldOf p.dst) (rqOrigin p) p.seq = some e) {st code old : Nat}
    (hdone : e.answer = some (st, code, old)) : trackedArrival p s =
      respond (modCnt { s with delivered := s.delivered.erase d } (fieldOf p.dst) fun c => { c with hits := satInc c.hits }) p st code old [] := by
  simp [trackedArrival, hfind, hop, hkeeps, hkept, hfloor, hreplay, hdone]

variable (hnew : replayOf s (fieldOf p.dst) (rqOrigin p) p.seq = none)
include hnew

theorem trackedArrival_of_low (hlow : notAbove p.seq (srcSt s (fieldOf p.dst) (rqOrigin p)).low = true) :
    trackedArrival p s = respond { s with delivered := s.delivered.erase d } p rsUnknown 0 0 [] := by
  simp [trackedArrival, hfind, hop, hkeeps, hkept, hfloor, hnew, hlow]

variable (hlow : notAbove p.seq (srcSt s (fieldOf p.dst) (rqOrigin p)).low = false)
include hlow

theorem trackedArrival_of_busy (hbusy : busyReplay s (fieldOf p.dst) = true) : trackedArrival p s =
    respond (modCnt { s with delivered := s.delivered.erase d } (fieldOf p.dst) fun c => { c with busy := satInc c.busy }) p rsBusy 0 0 [] := by
  simp [trackedArrival, hfind, hop, hkeeps, hkept, hfloor, hnew, hlow, hbusy]

theorem trackedArrival_of_new (hbusy : busyReplay s (fieldOf p.dst) = false) : trackedArrival p s = { s with
    mem := { s.mem with replay := s.mem.replay ++ [{ field := fieldOf p.dst, origin := rqOrigin p, seq := p.seq }] }
    delivered := s.delivered.map fun y => if y = d then { d with tracked := true } else y } := by
  simp [trackedArrival, hfind, hop, hkeeps, hkept, hfloor, hnew, hlow, hbusy]

end

/-- An entry that is answered is freed, and LOW_WATER is at its SEQ or above. -/
theorem replayExpiry_of_answered {s : State} {field origin : Nat} {seq : Word} {e : Replay} (he : replayOf s field origin seq = some e)
    (hdone : e.answer ≠ none) : ∃ f : SrcState → SrcState, replayExpiry field origin seq s =
      modSrc { s with mem := { s.mem with replay := s.mem.replay.erase e } } field origin f ∧
      ∀ x, ∃ l, (f x).low = some l ∧ (l = seq ∨ serialAbove l seq = true) := by
  have hsome : ¬e.answer.isNone = true := by simpa [Option.isNone_iff_eq_none] using hdone
  unfold replayExpiry
  simp only [he, if_neg hsome]
  refine ⟨_, rfl, fun x => ?_⟩
  cases hlow : x.low with
  | none => exact ⟨seq, rfl, .inl rfl⟩
  | some l =>
    dsimp only
    split
    · next h => exact ⟨l, hlow, .inr h⟩
    · exact ⟨seq, rfl, .inl rfl⟩

end Sys2Proof.Machine

namespace Sys2Proof
open Sys2Proof.Machine Sys2Proof.Laws

theorem replayTable : Claims.ReplayTable := by
  rintro s p d field origin hl hp rfl rfl
  have hexec : exec (.trackedArrival p) s = .next (trackedArrival p s) := onPkt_ok hl hp
  refine ⟨fun hop hfind hkeeps hkept => ⟨fun hfloor => ?_, fun hfloor => ⟨fun e he hopen => ?_, fun e st code old he hdone => ?_,
    fun hnew hlow => ?_, fun hnew hlow hbusy => ?_, fun hnew hlow hbusy => ?_⟩⟩, fun f o seq e he => ⟨fun hopen => ?_, fun hdone => ?_⟩,
    fun line => ?_, fun line hidle => ?_⟩
  · rw [hexec, trackedArrival_of_floor hop hfind hkeeps hkept hfloor]
  · rw [hexec, trackedArrival_of_open hop hfind hkeeps hkept hfloor he hopen]
  · exact ⟨_, hexec.trans (congrArg Host.Outcome.next (trackedArrival_of_done hop hfind hkeeps hkept hfloor he hdone)), rfl, rfl, rfl,
      congrArg MemCnt.hits (cnt_modCnt { s with delivered := s.delivered.erase d } _ _)⟩
  · rw [hexec, trackedArrival_of_low hop hfind hkeeps hkept hfloor hnew hlow]
  · exact ⟨_, hexec.trans (congrArg Host.Outcome.next (trackedArrival_of_busy hop hfind hkeeps hkept hfloor hnew hlow hbusy)), rfl, rfl⟩
  · exact ⟨_, hexec.trans (congrArg Host.Outcome.next (trackedArrival_of_new hop hfind hkeeps hkept hfloor hnew hlow hbusy)), rfl, rfl, rfl⟩
  · have hexpiry : exec (.replayExpiry f o seq) s = .next (replayExpiry f.toNat o.toNat seq s) := event_ok hl
    rw [hexpiry]
    simp [replayExpiry, he, hopen]
  · have hexpiry : exec (.replayExpiry f o seq) s = .next (replayExpiry f.toNat o.toNat seq s) := event_ok hl
    obtain ⟨g, heq, hlow⟩ := replayExpiry_of_answered he hdone
    obtain ⟨l, hl, hat⟩ := hlow (srcSt s f.toNat o.toNat)
    refine ⟨_, l, hexpiry.trans (congrArg Host.Outcome.next heq), rfl, ?_, hat, rfl⟩
    rw [srcSt_modSrc]
    exact hl
  · refine ⟨{ s with mem := { s.mem with hot := s.mem.hot.map fun h => if h.line == line.toNat then { h with set := [] } else h } },
      by apply event_ok hl, fun h hh hline => ?_, ?_, rfl⟩
    · obtain ⟨x, -, rfl⟩ := List.mem_map.mp hh
      by_cases hx : x.line = line.toNat
      · simp [hx]
      · simp [hx] at hline
    · exact List.length_map ..
  · refine ⟨_, by apply event_ok hl, fun h => ?_, ?_⟩
    · simp [hidle]
    · simp [hidle]

end Sys2Proof

namespace Sys2Proof.Machine
open Sys2Proof Sys2Proof.Laws

/-! ## The tracker at the source (14 R405, R406) -/

theorem findTrack_field {s : State} {field : Nat} {target : Addr} {seq : Word} {e : Track} (h : findTrack s field target seq = some e) :
    e.field = field := by
  have := List.find?_some h
  simp only [Bool.and_eq_true, beq_iff_eq] at this
  exact this.1.1

/-- A request as it is sent again: RETRY set. -/
def resent (p : Pkt) : Pkt := { p with payload := p.payload.take 10 ++ [p.payload.getD 10 0 ||| 2] ++ p.payload.drop 11, hop := 0 }

theorem leAt_one (bs : List Byte) (off : Nat) : leAt bs off 1 = (bs.getD off 0).toNat := by
  simp [leAt, slice, leNat]

theorem resent_retry {p : Pkt} (h : 11 ≤ p.payload.length) : bit (leAt (resent p).payload 10 1) 1 = true := by
  have hat : (resent p).payload.getD 10 0 = p.payload.getD 10 0 ||| 2 := by
    have hlen : (p.payload.take 10).length = 10 := by rw [List.length_take]; omega
    rw [resent, List.getD_append _ _ _ _ (by simp [hlen]), List.getD_append_right _ _ _ _ (by omega), hlen]
    rfl
  rw [leAt_one, hat, bit, BitVec.toNat_or, Nat.testBit_or]
  exact Bool.or_eq_true_iff.mpr (.inr (by decide))

section
variable {s : State} {field : Nat} {target : Addr} {seq : Word} {e : Track} (he : findTrack s field target seq = some e)
include he

theorem trackerResend_of_tracked (hop : isTracked e.p.op = true) (htries : e.tries < 3) : ∃ track cnt,
    track.length = s.mem.track.length ∧ trackerResend field target seq s = { s with
      mem := { s.mem with track, cnt }
      ingress := s.ingress ++ [{ port := none, unit := fieldUnit s field, vl := e.p.vl, p := resent e.p, checked := true }] } := by
  have hcond : ¬(!isTracked e.p.op || decide (3 ≤ e.tries)) = true := by simp [hop, htries]
  unfold trackerResend
  simp only [he, if_neg hcond]
  exact ⟨_, _, List.length_map _, rfl⟩

theorem trackerResend_of_final (h : isTracked e.p.op = false ∨ 3 ≤ e.tries) : trackerResend field target seq s = s := by
  unfold trackerResend
  simp only [he]
  exact if_pos (by simpa using h)

theorem trackerTimeout_of_busy (hbusy : e.busy = true) :
    trackerTimeout field target seq s = selfAnswer (untrack s e) field e.p rsBusy 0 := by
  simp only [trackerTimeout, he, hbusy, if_true]

theorem trackerTimeout_of_unanswered (hbusy : e.busy = false) : ∃ u, u.mem.track = s.mem.track.erase e ∧ u.gran = s.gran ∧
    trackerTimeout field target seq s =
      selfAnswer u field e.p (if e.p.op = pLoad then rsPoison else rsUnknown) (if e.p.op = pLoad then fMemPoison else fMemUnknown) := by
  have hfield := findTrack_field he
  refine ⟨raise (untrack s e) (if e.p.op = pLoad then fMemPoison else fMemUnknown) uField field, by simp [untrack], by simp [untrack], ?_⟩
  simp only [trackerTimeout, he, hbusy, Bool.false_eq_true, if_false, giveUp, finishTrack, hfield]
  split <;> rfl

end

/-! ## Answers that arrive (14 R405, R414) -/

section
variable {s : State} {a : Pkt} {i : Instr} (hl : s.live) (ha : a.whole)
include hl ha

/-- The three answers run one function. -/
theorem exec_answer {n : Option (BitVec 10)}
    (h : (i = .loadRsp n a ∧ a.op = pLoadRsp) ∨ (i = .storeAck n a ∧ a.op = pStoreAck) ∨ (i = .atomicRsp n a ∧ a.op = pAtomicRsp)) :
    exec i s = .next (memAnswer a.op (n.map (·.toNat)) a s) := by
  obtain ⟨rfl, hop⟩ | ⟨rfl, hop⟩ | ⟨rfl, hop⟩ := h <;> rw [hop] <;> exact onPkt_ok hl ha

end

theorem memAnswer_at_port {s : State} {a : Pkt} (k : Nat) : memAnswer a.op (some k) a s = endpointAnswer k a s := if_neg (not_not.mpr rfl)

theorem memAnswer_delivered {s : State} {a : Pkt} {d : Deliv} (hd : (s.delivered.find? fun d => d.p == a) = some d) (hheld : d.heldAt = none)
    (hkind : (localKind s (fieldOf a.dst)).1 = 1) : memAnswer a.op none a s = trackAnswer (taken s a) a := by
  simp [memAnswer, hd, hheld, hkind]

theorem trackAnswer_of_open {s : State} {a : Pkt} {e : Track} (he : (s.mem.track.find? fun t => t.field == fieldOf a.dst && answers a t.p) = some e)
    (hbusy : rsStatus a ≠ rsBusy) : trackAnswer s a = toSource (untrack s e) (fieldOf a.dst) a := by
  simp [trackAnswer, he, hbusy]

theorem trackAnswer_of_late {s : State} {a : Pkt} (h : ∀ e ∈ s.mem.track, e.field = fieldOf a.dst → answers a e.p = false) :
    trackAnswer s a = modCnt s (fieldOf a.dst) fun c => { c with late := satInc c.late } := by
  have hnone : (s.mem.track.find? fun t => t.field == fieldOf a.dst && answers a t.p) = none :=
    List.find?_eq_none.mpr fun e he hmatch => by
      simp only [Bool.and_eq_true, beq_iff_eq] at hmatch
      simp [h e he hmatch.1] at hmatch
  simp only [trackAnswer, hnone]

theorem toSource_port {s : State} {field : Nat} (hkind : (localKind s field).1 = 1) (a : Pkt) : ∃ cnt l,
    toSource s field a = { s with mem := { s.mem with cnt }, ingress := s.ingress ++ [l] } ∧
      l.p = { a with dst := addr s.plan.deviceId.toNat field } := by
  have hkind' (f : MemCnt → MemCnt) : (localKind (modCnt s field f) field).1 = 1 := hkind
  unfold toSource
  simp only [hkind', Nat.reduceEqDiff, if_false]
  exact ⟨_, _, rfl, rfl⟩

/-- What an answer counts at the target of a request that is not held: its source's counts and its replay entry. -/
def CountsSource (s t : State) : Prop :=
  ∃ src replay, (∀ e ∈ replay, e.held = none) ∧ t = { s with mem := { s.mem with src, replay } }

theorem CountsSource.refl {s : State} (h : ∀ e ∈ s.mem.replay, e.held = none) : CountsSource s s := ⟨s.mem.src, s.mem.replay, h, rfl⟩

theorem CountsSource.trans {s t u : State} (h : CountsSource s t) (k : CountsSource t u) : CountsSource s u := by
  obtain ⟨_, _, -, rfl⟩ := h
  obtain ⟨src, replay, hreplay, rfl⟩ := k
  exact ⟨src, replay, hreplay, rfl⟩

theorem CountsSource.unheld {s t : State} (h : CountsSource s t) : ∀ e ∈ t.mem.replay, e.held = none := by
  obtain ⟨_, _, hreplay, rfl⟩ := h
  exact hreplay

section
variable {s : State} (hunheld : ∀ e ∈ s.mem.replay, e.held = none)
include hunheld

theorem modSrc_countsSource (field origin : Nat) (f : SrcState → SrcState) : CountsSource s (modSrc s field origin f) :=
  ⟨_, s.mem.replay, hunheld, rfl⟩

theorem settle_countsSource (p : Pkt) (status code old : Nat) : CountsSource s (settle s p status code old) := by
  unfold settle
  split
  · refine ⟨s.mem.src, _, fun e he => ?_, rfl⟩
    obtain ⟨x, hx, rfl⟩ := List.mem_map.mp he
    split
    · rfl
    · exact hunheld x hx
  · split
    · exact modSrc_countsSource hunheld ..
    · exact .refl hunheld

end

section
variable {s : State} {n : Nat} {a : Pkt} {l : Lodged} (hhead : headLodged s (some n) a.vl 0 = some l) (hlp : l.p = a) (hfresh : l.checked = false)
  (hend : endpointPort s n = true) (hheader : headerOk s n a = true) (hsrc : srcOk s n a = true)
include hhead hlp hfresh hend hheader hsrc

theorem endpointAnswer_of_one {f : Forward} {q : Pkt} (hf : (s.mem.fwd.find? fun f => f.field == n && answers a f.sent) = some f) (hgroup : f.group = [q])
    (hunheld : ∀ e ∈ s.mem.replay, e.held = none) : CountsSource { s with
      ingress := s.ingress.map fun x => if x == l then { l with checked := true } else x
      mem := { s.mem with fwd := s.mem.fwd.erase f } } (endpointAnswer n a s) := by
  have hcond : ¬(l.p ≠ a ∨ l.checked = true ∨ (!(endpointPort s n && headerOk s n a && srcOk s n a)) = true) := by
    simp [hlp, hfresh, hend, hheader, hsrc]
  unfold endpointAnswer
  simp only [hhead, if_neg hcond, hf, hgroup]
  generalize hs : setLodged _ _ _ = u
  have hu : ∀ e ∈ u.mem.replay, e.held = none := by rw [← hs]; exact hunheld
  have hcounted : CountsSource u (if q.op = pStore then if bit (leAt a.payload 1 1) 0 = rqGen q then countStore u q else u
      else settle u q (rsStatus a) (leAt a.payload 4 2) (leAt a.payload 16 8)) := by
    split
    · split
      · exact modSrc_countsSource hu ..
      · exact .refl hu
    · exact settle_countsSource hu ..
  generalize (if q.op = pStore then _ else _ : State) = v at hcounted ⊢
  have hzeroed : CountsSource v (if q.op = pStoreRel ∧ rsStatus a = rsOk then modSrc v n (rqOrigin q) (modCntGen (rqGen q) fun _ => 0) else v) := by
    split
    · exact modSrc_countsSource hcounted.unheld ..
    · exact .refl hcounted.unheld
  rw [retrySource_of_unheld hzeroed.unheld]
  have hall := hcounted.trans hzeroed
  rw [← hs] at hall
  exact hall

theorem endpointAnswer_of_none (hf : ∀ f ∈ s.mem.fwd, f.field = n → answers a f.sent = false) : endpointAnswer n a s = dropLodged s l := by
  have hnone : (s.mem.fwd.find? fun f => f.field == n && answers a f.sent) = none :=
    List.find?_eq_none.mpr fun f hmem hmatch => by
      simp only [Bool.and_eq_true, beq_iff_eq] at hmatch
      simp [hf f hmem hmatch.1] at hmatch
  simp [endpointAnswer, hhead, hlp, hfresh, hend, hheader, hsrc, hnone]

end

end Sys2Proof.Machine

namespace Sys2Proof
open Sys2Proof.Machine Sys2Proof.Laws

theorem tracker : Claims.Tracker := by
  intro s f dst seq hl
  refine ⟨fun e he => ⟨fun hop htries => ?_, fun hfinal => ?_, fun hbusy => ?_, fun hbusy => ?_⟩, fun a i ha hi d hd hheld hkind =>
    ⟨fun e he hstatus => ?_, fun hlate => ?_⟩, fun a n i l ha hi hhead hlp hfresh hend hheader hsrc hunheld =>
    ⟨fun f q hf hgroup => ?_, fun hcopy hnone => ?_⟩⟩
  · have hexec : exec (.trackerResend f dst seq) s = .next (trackerResend f.toNat dst seq s) := event_ok hl
    obtain ⟨track, cnt, hlen, heq⟩ := trackerResend_of_tracked he hop htries
    exact ⟨_, hexec.trans (congrArg _ heq), ⟨_, rfl, rfl, rfl, rfl, resent_retry⟩, hlen, rfl⟩
  · have hexec : exec (.trackerResend f dst seq) s = .next (trackerResend f.toNat dst seq s) := event_ok hl
    rw [hexec, trackerResend_of_final he hfinal]
  · have hexec : exec (.trackerTimeout f dst seq) s = .next (trackerTimeout f.toNat dst seq s) := event_ok hl
    rw [hexec, trackerTimeout_of_busy he hbusy]
    rfl
  · have hexec : exec (.trackerTimeout f dst seq) s = .next (trackerTimeout f.toNat dst seq s) := event_ok hl
    obtain ⟨u, htrack, hgran, heq⟩ := trackerTimeout_of_unanswered he hbusy
    exact ⟨u, htrack, hgran, hexec.trans (congrArg _ heq)⟩
  · have hexec := exec_answer hl ha hi
    obtain ⟨cnt, l, hsent, hlp⟩ := toSource_port (s := untrack (taken s a) e) hkind a
    rw [Option.map_none, memAnswer_delivered hd hheld hkind, trackAnswer_of_open (s := taken s a) he hstatus, hsent] at hexec
    exact ⟨_, l, hexec, rfl, rfl, by rw [hlp], by rw [hlp], by rw [hlp]; rfl, rfl⟩
  · have hexec := exec_answer hl ha hi
    rw [Option.map_none, memAnswer_delivered hd hheld hkind, trackAnswer_of_late (s := taken s a) hlate] at hexec
    exact ⟨_, hexec, rfl, rfl, congrArg MemCnt.late (cnt_modCnt (taken s a) _ _)⟩
  · have hexec := exec_answer hl ha hi
    obtain ⟨src, replay, -, heq⟩ := endpointAnswer_of_one hhead hlp hfresh hend hheader hsrc hf hgroup hunheld
    rw [Option.map_some, memAnswer_at_port, heq] at hexec
    exact ⟨_, hexec, by simp, rfl, rfl, rfl⟩
  · have hexec := exec_answer hl ha hi
    obtain ⟨ports, core, wire, heq⟩ := dropLodged_sameButPorts (s := s) hcopy
    rw [Option.map_some, memAnswer_at_port, endpointAnswer_of_none hhead hlp hfresh hend hheader hsrc hnone, heq] at hexec
    exact ⟨_, hexec, rfl, rfl, rfl⟩

/-- Settles O32: the lemmas of `trackedArrival`, `trackerResend` and `trackerTimeout` case by case, `toSource_port` for an answer that goes on
to its port, `endpointAnswer_of_one` for one that an endpoint gives. -/
theorem replayAndTracker : Obligations.ReplayAndTracker := ⟨replayTable, tracker⟩

end Sys2Proof

namespace Sys2Proof.Machine
open Sys2Proof Sys2Proof.Laws

/-! ## Packets lodged one by one -/

theorem withLodged_withLodged (s : State) (ls ms : List Lodged) : withLodged (withLodged s ls) ms = withLodged s (ls ++ ms) := by
  simp [withLodged]

/-- A step that lodges one packet lodges one for each element of a list. -/
theorem foldl_withLodged {α : Type*} {P : Lodged → Prop} {f : State → α → State} {xs : List α}
    (step : ∀ s, ∀ a ∈ xs, ∃ l, P l ∧ f s a = withLodged s [l]) :
    ∀ s : State, ∃ ls, ls.length = xs.length ∧ (∀ l ∈ ls, P l) ∧ xs.foldl f s = withLodged s ls := by
  induction xs with
  | nil => exact fun s => ⟨[], rfl, by simp, by simp [withLodged]⟩
  | cons x xs ih =>
    intro s
    obtain ⟨l, hl, hstep⟩ := step s x (List.mem_cons_self ..)
    obtain ⟨ls, hlen, hls, heq⟩ := ih (fun s a ha => step s a (List.mem_cons_of_mem _ ha)) (withLodged s [l])
    refine ⟨l :: ls, by simp [hlen], List.forall_mem_cons.mpr ⟨hl, hls⟩, ?_⟩
    rw [List.foldl_cons, hstep, heq, withLodged_withLodged]
    rfl

theorem send_eq (s : State) (unit : Nat) (p : Pkt) : send s unit p = withLodged s [{ port := none, unit, vl := p.vl, p }] := rfl

theorem length_enum {α : Type} (xs : List α) : (enum xs).length = xs.length := by simp [enum]

/-! ## Gateways (14 R425 to R428) -/

theorem gateway_modGate (s : State) (n : Nat) (f : Gateway → Gateway) : gateway (modGate s n f) n = f (gateway s n) := tab_get_upd ..

theorem coachRunClose_of_open {s : State} {n : Nat} (hopen : (gateway s n).run ≠ []) : ∃ ls : List Lodged,
    ls.length = (packRecords (gateway s n).run).length ∧
    (∀ l ∈ ls, l.p.op = pCoachRun ∧ l.p.fcid = (gateway s n).nextRun ∧ l.vl = 3 ∧ l.via = some n) ∧
    coachRunClose n s = modGate (withLodged s ls) n fun g => { g with run := [], nextRun := nextRunNo g.nextRun } := by
  unfold coachRunClose
  extract_lets g ps t
  obtain ⟨ls, hlen, hls, heq⟩ : ∃ ls, ls.length = (enum ps).length ∧
      (∀ l ∈ ls, l.p.op = pCoachRun ∧ l.p.fcid = g.nextRun ∧ l.vl = 3 ∧ l.via = some n) ∧ t = withLodged s ls :=
    foldl_withLodged (fun s e _ => ⟨_, ⟨rfl, rfl, rfl, rfl⟩, rfl⟩) s
  refine ⟨ls, hlen.trans (length_enum ps), hls, ?_⟩
  rw [if_neg (by simpa [g] using hopen), heq]

theorem length_unpackRecords (k : Nat) : ∀ bs, (unpackRecords k bs).length = k := by
  induction k with
  | zero => exact fun bs => rfl
  | succ k ih => exact fun bs => congrArg (· + 1) (ih _)

section
variable {s : State} {n : Nat} {p : Pkt} (hat : arrivedAt s n p = true) (hop : p.op = pCoachRun) (hgate : hasGate s n = true)
  (hone : leAt p.payload 2 2 = 1) (hnew : ∀ q ∈ (gateway s n).parts, q.fcid ≠ p.fcid)
include hnew

theorem parts_of_run : ((gateway s n).parts ++ [p]).filter (fun q => q.fcid == p.fcid) = [p] := by
  rw [List.filter_append, List.filter_eq_nil_iff.mpr fun q hq => by simp [hnew q hq]]
  simp

include hat hop hgate hone

theorem coachRun_of_room (hseq : p.seq = 0) (hroom : (gateway s n).far.length < gateRooms s n) (hrecs : 1 ≤ leAt p.payload 0 2) : ∃ f : FarRun,
    f.run = p.fcid ∧ f.recs.length = leAt p.payload 0 2 ∧ ∃ ls : List Lodged, ls.length = leAt p.payload 0 2 ∧
    (∀ l ∈ ls, l.vl = 3 ∧ l.p.src = ownAddr s) ∧ (gateway (coachRun n p s) n).far = (gateway s n).far ++ [f] ∧
    (coachRun n p s).ingress = s.ingress ++ ls ∧ (coachRun n p s).gran = s.gran := by
  unfold coachRun
  rw [if_neg (by simp [hat, hop])]
  extract_lets s1 parts mine s2 s3 m order recs pkts s4 run s5
  have hmine : mine = [p] := parts_of_run hnew
  have hgate' : hasGate s1 n = true := hgate
  have hfar : (gateway s2 n).far = (gateway s n).far := by simp only [s2, gateway_modGate]; rfl
  have hroom' : ¬gateRooms s2 n ≤ (gateway s2 n).far.length := by rw [hfar]; exact Nat.not_le_of_lt hroom
  have hrecsLen : recs.length = leAt p.payload 0 2 := by simp [recs, order, hmine, hseq, length_unpackRecords]
  have hpkts : pkts.length = leAt p.payload 0 2 := by rw [← hrecsLen]; exact List.length_map ..
  have hsome : ¬pkts.isEmpty = true := by rw [List.isEmpty_iff_length_eq_zero]; omega
  obtain ⟨ls, hlen, hls, hsent⟩ : ∃ ls : List Lodged, ls.length = pkts.length ∧ (∀ l ∈ ls, l.vl = 3 ∧ l.p.src = ownAddr s) ∧
      s4 = withLodged s2 ls := by
    refine foldl_withLodged (fun t k hk => ?_) s2
    obtain ⟨r, -, rfl⟩ := List.mem_map.mp hk
    exact ⟨_, ⟨rfl, rfl⟩, send_eq ..⟩
  rw [if_neg (by simp [hgate']), if_neg (by simp [hmine, hone]), if_neg hroom', if_neg hsome]
  refine ⟨run, rfl, (List.length_map _).trans hpkts, ls, hlen.trans hpkts, hls, ?_, ?_, ?_⟩
  · simp only [s5, gateway_modGate, hsent]
    exact congrArg (· ++ [run]) hfar
  · simp only [s5, hsent]
    rfl
  · simp only [s5, hsent]
    rfl

theorem coachRun_of_full (hfull : gateRooms s n ≤ (gateway s n).far.length) : (coachRun n p s).ingress = s.ingress ∧
    (gateway (coachRun n p s) n).far = (gateway s n).far ∧ (gateway (coachRun n p s) n).lost = (gateway s n).lost + 1 ∧
    (coachRun n p s).mem.runsLost = satInc s.mem.runsLost := by
  unfold coachRun
  rw [if_neg (by simp [hat, hop])]
  extract_lets s1 parts mine s2 s3 m order recs pkts s4 run s5
  have hmine : mine = [p] := parts_of_run hnew
  have hgate' : hasGate s1 n = true := hgate
  have hfar : gateway s2 n = { gateway s n with parts := parts.filter fun q => q.fcid != p.fcid } := by
    simp only [s2, gateway_modGate]
    rfl
  have hfull' : gateRooms s2 n ≤ (gateway s2 n).far.length := by rw [hfar]; exact hfull
  rw [if_neg (by simp [hgate']), if_neg (by simp [hmine, hone]), if_pos hfull']
  have hlost : gateway s3 n = { gateway s2 n with lost := (gateway s2 n).lost + 1 } := gateway_modGate ..
  have hthis : gateway { s3 with mem := { s3.mem with runsLost := satInc s3.mem.runsLost } } n = gateway s3 n := rfl
  rw [hthis, hlost, hfar]
  exact ⟨rfl, rfl, rfl, rfl⟩

end

/-! ## What a far gateway's records are answered with (14 R428) -/

/-- One record: left alone when it is answered, else answered with what `f` gives. -/
def answerRec (n : Nat) (f : FarRec → Option Pkt) (a : State × List FarRec × Nat) (x : FarRec) : State × List FarRec × Nat :=
  match if x.answered then none else f x with
  | some k => (send a.1 (gateUnit a.1 n) k, a.2.1 ++ [{ x with answered := true }], a.2.2 + 1)
  | none => (a.1, a.2.1 ++ [x], a.2.2)

theorem answerRecs_eq (s : State) (n : Nat) (run : FarRun) (self : Bool) (f : FarRec → Option Pkt) : answerRecs s n run self f =
    (fun r : State × List FarRec × Nat => farDone r.1 n { run with
      recs := r.2.1
      byTarget := if self then run.byTarget else run.byTarget + r.2.2
      bySelf := if self then run.bySelf + r.2.2 else run.bySelf }) (run.recs.foldl (answerRec n f) (s, [], 0)) := rfl

theorem foldl_answerRec (n : Nat) (k : FarRec → Pkt) (recs : List FarRec) : ∀ (s : State) (done : List FarRec) (c : Nat), ∃ ls c',
    ls.length = (recs.filter fun r => !r.answered).length ∧ recs.foldl (answerRec n fun r => some (k r)) (s, done, c) =
      (withLodged s ls, done ++ recs.map fun r => { r with answered := true }, c') := by
  induction recs with
  | nil => exact fun s done c => ⟨[], c, rfl, by simp [withLodged]⟩
  | cons r recs ih =>
    intro s done c
    cases hr : r.answered with
    | true =>
      obtain ⟨ls, c', hlen, heq⟩ := ih s (done ++ [r]) c
      have hstep : answerRec n (fun r => some (k r)) (s, done, c) r = (s, done ++ [r], c) := by simp [answerRec, hr]
      refine ⟨ls, c', by simp [hr, hlen], ?_⟩
      rw [List.foldl_cons, hstep, heq, List.map_cons, List.append_assoc]
      simp [← hr]
    | false =>
      obtain ⟨ls, c', hlen, heq⟩ := ih (send s (gateUnit s n) (k r)) (done ++ [{ r with answered := true }]) (c + 1)
      have hstep : answerRec n (fun r => some (k r)) (s, done, c) r =
          (send s (gateUnit s n) (k r), done ++ [{ r with answered := true }], c + 1) := by simp [answerRec, hr]
      refine ⟨{ port := none, unit := gateUnit s n, vl := (k r).vl, p := k r } :: ls, c', by simp [hr, hlen], ?_⟩
      rw [List.foldl_cons, hstep, heq, send_eq, withLodged_withLodged, List.append_assoc]
      rfl

/-- Every record that is not answered is answered here. -/
theorem answerRecs_all {s : State} {n : Nat} {run : FarRun} (k : FarRec → Pkt) : ∃ (ls : List Lodged) (l : Lodged),
    ls.length = (run.recs.filter fun r => !r.answered).length ∧ l.p.op = pCoachDone ∧ l.p.fcid = run.run ∧
    answerRecs s n run true (fun r => some (k r)) =
      withLodged (modGate (withLodged s ls) n fun g => { g with far := g.far.filter fun x => x.run != run.run }) [l] := by
  obtain ⟨ls, c, hlen, heq⟩ := foldl_answerRec n k run.recs s [] 0
  rw [answerRecs_eq, heq]
  have hall : ([] ++ run.recs.map fun r : FarRec => { r with answered := true }).all (·.answered) = true := by simp
  exact ⟨ls, _, hlen, rfl, rfl, if_pos hall⟩

theorem coachTimeout_of_far {s : State} {n : Nat} {run : Word} {f : FarRun} (hf : ((gateway s n).far.find? fun f => f.run == run) = some f) :
    ∃ (ls : List Lodged) (l : Lodged), ls.length = (f.recs.filter fun r => !r.answered).length ∧ l.p.op = pCoachDone ∧ l.p.fcid = run ∧
      (coachTimeout n run s).ingress = s.ingress ++ ls ++ [l] ∧
      (gateway (coachTimeout n run s) n).far = (gateway s n).far.filter (fun x => x.run != run) ∧ (coachTimeout n run s).gran = s.gran := by
  have hrun : f.run = run := by simpa using List.find?_some hf
  unfold coachTimeout
  split
  · next hnone => simp [hf] at hnone
  next g hg =>
  obtain rfl : f = g := Option.some.inj (hf.symm.trans hg)
  extract_lets u
  have hframe : u.ingress = s.ingress ∧ u.mem = s.mem ∧ u.gran = s.gran := by
    simp only [u]
    split <;> simp
  obtain ⟨hin, hmem, hgran⟩ := hframe
  obtain ⟨ls, l, hlen, hop, hfcid, heq⟩ := answerRecs_all (s := u) (n := n) (run := f) fun r =>
    if r.p.op = pLoad then rspPkt u r.p (BitVec.ofNat 24 (rqOrigin r.p)) rsPoison fMemPoison.toNat 0 []
    else rspPkt u r.p (BitVec.ofNat 24 (rqOrigin r.p)) rsUnknown fMemUnknown.toNat 0 []
  rw [heq]
  refine ⟨ls, l, hlen, hop, hfcid.trans hrun, ?_, ?_, hgran⟩
  · rw [← hin]
    rfl
  · change (gateway (modGate (withLodged u ls) n _) n).far = _
    rw [gateway_modGate, hrun, gateway, gateway, ← hmem]
    rfl

end Sys2Proof.Machine

namespace Sys2Proof
open Sys2Proof.Machine Sys2Proof.Laws

theorem coachRuns : Claims.CoachRuns := by
  rintro s n g hl rfl
  refine ⟨fun hidle => ?_, fun hopen => ?_, fun p hp hat hop hgate hone hseq hrecs hnew => ⟨fun hroom => ?_, fun hfull => ?_⟩, fun run f hf => ?_,
    fun p hp hat hop => ⟨fun hall => ?_, fun hrun hnear => ?_, fun hrun hnear => ?_⟩⟩
  · have hexec : exec (.coachRunClose n) s = .next (coachRunClose n.toNat s) := event_ok hl
    rw [hexec, coachRunClose, if_pos (by simp [hidle])]
  · have hexec : exec (.coachRunClose n) s = .next (coachRunClose n.toNat s) := event_ok hl
    obtain ⟨ls, hlen, hls, heq⟩ := coachRunClose_of_open hopen
    refine ⟨_, ls, hexec.trans (congrArg _ heq), rfl, hlen, hls, ?_, rfl⟩
    rw [gateway_modGate]
    rfl
  · have hexec : exec (.coachRun n p) s = .next (coachRun n.toNat p s) := onPkt_ok hl hp
    obtain ⟨f, hrun, hlen, ls, hls, hsent, hfar, hin, hgran⟩ := coachRun_of_room hat hop hgate hone hnew hseq hroom hrecs
    exact ⟨_, ls, f, hexec, hin, hls, hsent, hfar, hrun, hlen, hgran⟩
  · have hexec : exec (.coachRun n p) s = .next (coachRun n.toNat p s) := onPkt_ok hl hp
    exact ⟨_, hexec, coachRun_of_full hat hop hgate hone hnew hfull⟩
  · have hexec : exec (.coachTimeout n run) s = .next (coachTimeout n.toNat run s) := event_ok hl
    obtain ⟨ls, l, hlen, hop, hfcid, hin, hfar, hgran⟩ := coachTimeout_of_far hf
    refine ⟨_, ls, l, hexec, hin, hlen, hop, hfcid, fun x hx => ?_, hgran⟩
    rw [hfar] at hx
    simpa using (List.mem_filter.mp hx).2
  all_goals
    have hexec : exec (.coachDone n p) s = .next (coachDone n.toNat p s) := onPkt_ok hl hp
    rw [coachDone, if_neg (by simp [hat, hop])] at hexec
  · rw [if_pos hall] at hexec
    exact ⟨_, hexec, gateway_modGate ..⟩
  · have hheld : (gateway (takeAt s n.toNat p) n.toNat).near.contains p.fcid = true := List.contains_iff_mem.mpr hnear
    rw [if_neg hrun, if_pos hheld] at hexec
    exact ⟨_, hexec, gateway_modGate ..⟩
  · have hheld : ¬(gateway (takeAt s n.toNat p) n.toNat).near.contains p.fcid = true := fun h => hnear (List.contains_iff_mem.mp h)
    rw [if_neg hrun, if_neg hheld] at hexec
    exact ⟨_, hexec, rfl⟩

end Sys2Proof

namespace Sys2Proof.Machine
open Sys2Proof Sys2Proof.Laws

/-! ## Commanded runs (14 R430) -/

theorem runPieces_zero (k r l : Nat) : runPieces k r l 0 = [] := by cases k <;> rfl

/-- The pieces of a transfer carry all its bytes. -/
theorem sum_runPieces (k : Nat) : ∀ r l n : Nat, n = 0 ∨ n + r % 2048 ≤ 2048 * k → ((runPieces k r l n).map fun x => x.2.2).sum = n := by
  induction k with
  | zero => exact fun r l n h => by simp [runPieces]; omega
  | succ k ih =>
    intro r l n h
    by_cases hn : n = 0
    · simp [hn, runPieces_zero]
    · obtain ⟨m, hm⟩ : ∃ m, m = min n (2048 - r % 2048) := ⟨_, rfl⟩
      have hle : m ≤ n := hm ▸ Nat.min_le_left ..
      have hrest : n - m = 0 ∨ n - m + (r + m) % 2048 ≤ 2048 * k := by
        obtain h' | h' := Nat.le_total n (2048 - r % 2048)
        · rw [Nat.min_eq_left h'] at hm
          omega
        · rw [Nat.min_eq_right h'] at hm
          omega
      rw [runPieces, if_neg hn, List.map_cons, List.sum_cons]
      simp only [← hm]
      rw [ih _ _ _ hrest]
      omega

/-- One piece of a commanded run issued. -/
def issuePiece (dev field : Nat) (get : Bool) (a : State × List (Word × Nat × Nat × Nat)) (x : Nat × Nat × Nat) :
    State × List (Word × Nat × Nat × Nat) :=
  let head := pack 24 [(0, 8, x.1), (8, 2, x.2.2), (16, 3, dev * 1024 + field)]
  let q := issueReq a.1 field (if get then pLoad else pStore) (if get then head else head ++ Mem.reads a.1.gran x.2.1 x.2.2)
  (q.1, a.2 ++ [(q.2.2, x.1, x.2.1, x.2.2)])

theorem foldl_issuePiece (dev field : Nat) (get : Bool) (xs : List (Nat × Nat × Nat)) :
    ∀ (s : State) (done : List (Word × Nat × Nat × Nat)), ∃ ls more reqSeq, ls.length = xs.length ∧ more.map (fun x => x.2.2.2) = xs.map (fun x => x.2.2) ∧
      (∀ l ∈ ls, l.p.op = (if get then pLoad else pStore) ∧ l.p.src = addr s.plan.deviceId.toNat field) ∧
      xs.foldl (issuePiece dev field get) (s, done) = ({ withLodged s ls with mem := { s.mem with reqSeq } }, done ++ more) := by
  induction xs with
  | nil => exact fun s done => ⟨[], [], s.mem.reqSeq, rfl, rfl, by simp, by simp [withLodged]⟩
  | cons x xs ih =>
    intro s done
    obtain ⟨l, seq, reqSeq, hop, hsrc, hstep⟩ : ∃ l seq reqSeq, l.p.op = (if get then pLoad else pStore) ∧
        l.p.src = addr s.plan.deviceId.toNat field ∧ issuePiece dev field get (s, done) x =
          ({ withLodged s [l] with mem := { s.mem with reqSeq } }, done ++ [(seq, x.1, x.2.1, x.2.2)]) :=
      ⟨_, _, _, rfl, rfl, rfl⟩
    obtain ⟨ls, more, reqSeq', hlen, hmore, hls, heq⟩ :=
      ih { withLodged s [l] with mem := { s.mem with reqSeq } } (done ++ [(seq, x.1, x.2.1, x.2.2)])
    refine ⟨l :: ls, (seq, x.1, x.2.1, x.2.2) :: more, reqSeq', by simp [hlen], by simp [hmore],
      List.forall_mem_cons.mpr ⟨⟨hop, hsrc⟩, hls⟩, ?_⟩
    rw [List.foldl_cons, hstep, heq]
    simp [withLodged]

section
variable {s : State} {c : Cmd} {get : Bool}

theorem startRun_of_bytes (hpos : 0 < c.u 16 4) (hmax : c.u 16 4 ≤ 65536) : ∃ (ls : List Lodged) (r : CmdRun) (reqSeq : Tab Word),
    startRun s c get = { withLodged s ls with mem := { s.mem with reqSeq, runs := s.mem.runs ++ [r] } } ∧ r.c = c ∧ r.get = get ∧
    r.open_.length = r.total ∧ ls.length = r.total ∧ (r.open_.map fun x => x.2.2.2).sum = c.u 16 4 ∧
    ∀ l ∈ ls, l.p.op = (if get then pLoad else pStore) ∧ l.p.src = addr s.plan.deviceId.toNat ((fieldOfKind s 3).getD 0) := by
  unfold startRun
  extract_lets field pieces r run
  obtain ⟨ls, more, reqSeq, hlen, hmore, hls, heq⟩ := foldl_issuePiece s.plan.deviceId.toNat field get pieces s []
  have hr : r = ({ withLodged s ls with mem := { s.mem with reqSeq } }, more) := heq
  have hsum : (pieces.map fun x => x.2.2).sum = c.u 16 4 := sum_runPieces 64 (c.u 8 8) (c.u 0 8) (c.u 16 4) (.inr (by omega))
  have hsome : ¬pieces.isEmpty = true := fun h => by
    rw [List.isEmpty_iff.mp h] at hsum
    simp at hsum
    omega
  have hcount : more.length = pieces.length := by simpa using congrArg List.length hmore
  refine ⟨ls, run, reqSeq, ?_, rfl, rfl, ?_, hlen, ?_, hls⟩
  · refine (if_neg hsome).trans ?_
    change { r.1 with mem := { r.1.mem with runs := r.1.mem.runs ++ [run] } } = _
    rw [hr]
  · simp only [run, hr, hcount]
  · simp only [run, hr, hmore, hsum]

theorem coachCommand_of_unready (op : Half) (h : fieldOfKind s 3 = none ∨ s.clk.readyGranary = false) :
    coachCommand op get c s = cmdDone s c op stUnitState := by
  refine if_pos ?_
  obtain h | h := h <;> simp [h]

variable (hready : ¬((fieldOfKind s 3).isNone || !s.clk.readyGranary) = true)
include hready

theorem coachCommand_of_range (op : Half) (h : 2 ^ 38 < c.u 0 8 + c.u 16 4 ∨ meetsArea (reservedAreas s) (c.u 0 8) (c.u 16 4) = true) :
    coachCommand op get c s = cmdDone s c op stRange :=
  (if_neg hready).trans (if_pos (by simpa using h))

theorem coachCommand_of_free (op : Half) (hfits : c.u 0 8 + c.u 16 4 ≤ 2 ^ 38)
    (hfree : meetsArea (reservedAreas s) (c.u 0 8) (c.u 16 4) = false) : coachCommand op get c s =
      if 64 ≤ s.mem.runs.length then { s with mem := { s.mem with runQueue := s.mem.runQueue ++ [(c, get)] } } else startRun s c get :=
  (if_neg hready).trans (if_neg (by rw [hfree, Bool.or_false, decide_eq_true_eq]; exact Nat.not_lt.mpr hfits))

end

/-- Both commands run one function. -/
theorem exec_coachCommand {s : State} {c : Cmd} {i : Instr} {op : Half} {get : Bool} (hl : s.live)
    (hi : (i = .coachPut c ∧ op = oCoachPut ∧ get = false) ∨ (i = .coachGet c ∧ op = oCoachGet ∧ get = true)) (hc : c.passes op coachFields)
    (hmax : c.u 16 4 ≤ 65536) : exec i s = .next (coachCommand op get c s) := by
  obtain ⟨rfl, rfl, rfl⟩ | ⟨rfl, rfl, rfl⟩ := hi
  all_goals
    change onCmd _ c _ (decide (c.u 16 4 ≤ 65536)) s _ = _
    rw [decide_eq_true hmax]
    exact onCmd_ok hl hc

end Sys2Proof.Machine

namespace Sys2Proof
open Sys2Proof.Machine Sys2Proof.Laws

theorem commandedRuns : Claims.CommandedRuns := by
  intro s c i op get hl hi hc hmax
  have hexec := exec_coachCommand hl hi hc hmax
  refine ⟨fun hunready => ?_, fun f hf hready => ?_⟩
  · rw [hexec, coachCommand_of_unready op hunready]
  · have hgo : ¬((fieldOfKind s 3).isNone || !s.clk.readyGranary) = true := by simp [hf, hready]
    refine ⟨fun hrange => ?_, fun hfits hfree => ⟨fun hfull => ?_, fun hroom hpos => ?_⟩⟩
    · rw [hexec, coachCommand_of_range hgo op hrange]
    · rw [hexec, coachCommand_of_free hgo op hfits hfree, if_pos hfull]
    · obtain ⟨ls, r, reqSeq, heq, hrc, hget, hopen, hlen, hsum, hls⟩ := startRun_of_bytes (s := s) (get := get) hpos hmax
      rw [coachCommand_of_free hgo op hfits hfree, if_neg (by omega), heq] at hexec
      refine ⟨_, r, ls, hexec, rfl, hrc, hget, hopen, hlen, hsum, rfl, ?_, rfl, rfl⟩
      rwa [hf] at hls

/-- Settles O34: `coachRunClose_of_open`, `coachRun_of_room` and `answerRecs_all` for a gateway's runs, `sum_runPieces` and `foldl_issuePiece`
for a commanded run that starts. -/
theorem coachesAndCommandedRuns : Obligations.CoachesAndCommandedRuns := ⟨coachRuns, commandedRuns⟩

end Sys2Proof

namespace Sys2Proof.Machine
open Sys2Proof Sys2Proof.Laws

/-! ## Checks at the source switch (14 R397, R401 to R405, R407) -/

section
variable (s : State) (f : Nat) (p : Pkt)

/-- A search in which no complement fails changes nothing. -/
theorem searchRpt_state : (searchRpt s f p []).1 = s := by
  simp [searchRpt]

variable {s f p}

theorem searchRpt_covers {e : List Byte} (h : (searchRpt s f p []).2 = some e) : rptCovers e p = true ∧ ∃ k, (k, e) ∈ rptList s f := by
  obtain ⟨⟨k, e'⟩, hhit, rfl⟩ := Option.map_eq_some_iff.mp h
  have hcovers := List.find?_some hhit
  simp only [Bool.and_eq_true] at hcovers
  exact ⟨hcovers.2, k, List.mem_of_find?_eq_some hhit⟩

theorem checkReq_of_format (h : reqFormatOk p = false) : checkReq s f p [] = (s, some (rsFormat, fMemFormat)) := by
  simp [checkReq, h]

theorem checkReq_of_denied (hformat : reqFormatOk p = true) (h : ∀ e, (searchRpt s f p []).2 = some e → rptGrants e p = false) :
    checkReq s f p [] = (s, some (rsDenied, fMemDenied)) := by
  have hno : ((searchRpt s f p []).2.map fun e => rptGrants e p).getD false = false := by
    cases hs : (searchRpt s f p []).2 with
    | none => rfl
    | some e => exact h e hs
  simp [checkReq, hformat, hno, searchRpt_state]

theorem checkReq_of_granted {e : List Byte} (hformat : reqFormatOk p = true) (he : (searchRpt s f p []).2 = some e) (hgrant : rptGrants e p = true) :
    checkReq s f p [] = (s, if targetHedged s p.dst.toNat then some (if p.op = pLoad then (rsPoison, fMemPoison) else (rsDead, fMemDead)) else none) := by
  simp only [checkReq, hformat, he, Option.map_some, Option.getD_some, hgrant, searchRpt_state]
  cases targetHedged s p.dst.toNat <;> rfl

end

/-- A request that goes on to lookup: marked, admitted and tracked. -/
def trackReq (s : State) (f : Nat) (p : Pkt) (l : Lodged) : State :=
  let t := noteAdmit (setLodged s l { l with checked := true }) f p
  { t with mem := { t.mem with
    track := t.mem.track ++ [{ field := f, p, ix := t.mem.checks, loadTo := t.mem.loadTo.toNat }]
    checks := t.mem.checks + 1 } }

/-- What becomes of a request after its checks. -/
def settleReq (s : State) (f : Nat) (p : Pkt) (l : Lodged) (r : State × Option (Nat × Half)) : State :=
  match r.2 with
  | some (st, code) => selfAnswer (countRefusal (dropLodged r.1 l) f code) f p st code
  | none => if paced s f p || trackerFull s f p then s else trackReq r.1 f p l

section
variable {s : State} {n : Option (BitVec 10)} {f : Nat} {p : Pkt} {l : Lodged}

theorem memRequest_of_unchecked (h : unchecked s n p l) (hf : f = (n.map (·.toNat)).getD (fieldOf p.src)) :
    memRequest p.op (n.map (·.toNat)) p [] s = settleReq s f p l (checkReq s f p []) := by
  obtain ⟨hport, hown⟩ := h
  subst hf
  cases n with
  | some m =>
    obtain ⟨hhead, rfl, hfresh, hend, hheader, hsrc⟩ := hport m rfl
    have hcond : ¬(l.p ≠ l.p ∨ l.p.op ≠ l.p.op ∨ l.checked = true ∨
        (!(endpointPort s m.toNat && headerOk s m.toNat l.p && srcOk s m.toNat l.p)) = true) := by simp [hfresh, hend, hheader, hsrc]
    simp only [memRequest, Option.map_some, hhead, if_neg hcond]
    rfl
  | none =>
    obtain ⟨hfind, hvl⟩ := hown rfl
    have hmatch := List.find?_some hfind
    simp only [Bool.and_eq_true, beq_iff_eq, Bool.not_eq_true'] at hmatch
    obtain ⟨⟨-, rfl⟩, hfresh⟩ := hmatch
    have hcond : ¬(l.p ≠ l.p ∨ l.p.op ≠ l.p.op ∨ l.checked = true ∨ (!decide (l.p.vl.toNat ≤ 2)) = true) := by simp [hfresh, hvl]
    simp only [memRequest, Option.map_none, hfind, if_neg hcond]
    rfl

/-- The four requests run one function. -/
theorem exec_request {i : Instr} {op : BitVec 5} (hl : s.live) (hp : p.whole) (hi : (i, op) ∈ requests n p []) :
    exec i s = .next (memRequest op (n.map (·.toNat)) p [] s) := by
  simp only [requests, List.mem_cons, List.not_mem_nil, or_false, Prod.mk.injEq] at hi
  obtain ⟨rfl, rfl⟩ | ⟨rfl, rfl⟩ | ⟨rfl, rfl⟩ | ⟨rfl, rfl⟩ := hi <;> exact onPkt_ok hl hp

end

/-- What a refusal leaves: the request gone, the tracker and the granary as they were. -/
theorem countRefusal_dropLodged {s : State} {l : Lodged} (hcopy : l.copy = none) (f : Nat) (code : Half) :
    (countRefusal (dropLodged s l) f code).ingress = s.ingress.erase l ∧ (countRefusal (dropLodged s l) f code).mem.track = s.mem.track ∧
    (countRefusal (dropLodged s l) f code).gran = s.gran := by
  obtain ⟨ports, core, wire, heq⟩ := dropLodged_sameButPorts (s := s) hcopy
  rw [heq]
  unfold countRefusal
  split <;> simp [modCnt]

theorem countRefusal_denied {s : State} {l : Lodged} (hcopy : l.copy = none) (f : Nat) :
    (Tab.get {} (countRefusal (dropLodged s l) f fMemDenied).mem.cnt f).denied = satInc (Tab.get {} s.mem.cnt f).denied := by
  obtain ⟨ports, core, wire, heq⟩ := dropLodged_sameButPorts (s := s) hcopy
  rw [heq, countRefusal, if_pos (.inr rfl)]
  simp only [raise_fields]
  exact congrArg MemCnt.denied (cnt_modCnt { s with ports, core, wire } f _)

end Sys2Proof.Machine

namespace Sys2Proof
open Sys2Proof.Machine Sys2Proof.Laws

theorem sourceChecks : Claims.SourceChecks := by
  rintro s n f p l i op hl hp hi rfl hf hplace hcopy
  have hexec := exec_request hl hp hi
  rw [memRequest_of_unchecked hplace hf] at hexec
  refine ⟨fun e => searchRpt_covers, fun hformat => ?_, fun hformat hdenied => ?_, fun hformat e he hgrant =>
    ⟨fun hhedged => ?_, fun hopen hpace hfull => ?_, fun hopen hwait => ?_⟩⟩
  · obtain ⟨hin, htrack, hgran⟩ := countRefusal_dropLodged (s := s) hcopy f fMemFormat
    exact ⟨_, by rw [hexec, checkReq_of_format hformat]; rfl, hin, htrack, hgran⟩
  · obtain ⟨hin, htrack, -⟩ := countRefusal_dropLodged (s := s) hcopy f fMemDenied
    exact ⟨_, by rw [hexec, checkReq_of_denied hformat hdenied]; rfl, hin, htrack, countRefusal_denied hcopy f⟩
  · obtain ⟨hin, htrack, -⟩ := countRefusal_dropLodged (s := s) hcopy f (if p.op = pLoad then fMemPoison else fMemDead)
    refine ⟨_, hin, htrack, ?_⟩
    rw [hexec, checkReq_of_granted hformat he hgrant, if_pos hhedged]
    simp only [settleReq]
    split <;> rfl
  · rw [checkReq_of_granted hformat he hgrant, hopen, if_neg (by decide)] at hexec
    have hgo : settleReq s f p l (s, none) = trackReq s f p l := if_neg (by simp [hpace, hfull])
    refine ⟨_, hexec.trans (congrArg _ hgo), ?_, rfl, rfl, rfl⟩
    simp [trackReq, noteAdmit, setLodged]
  · rw [checkReq_of_granted hformat he hgrant, hopen, if_neg (by decide)] at hexec
    exact hexec.trans (congrArg _ (if_pos (by simpa using hwait)))

end Sys2Proof

namespace Sys2Proof.Machine
open Sys2Proof Sys2Proof.Laws

/-! ## The commands of a source's rights (14 R404, 17 R490) -/

/-- The entry of a completion: as `newest_complete`, with its unit. -/
theorem newest_complete_unit {c : Cmd} (h : c.auth = .operator ∨ c.auth = .owner) (s : State) (e : Entry) :
    ∃ x, newest (complete s c e) = some x ∧ x.kind = e.kind ∧ x.unit = BitVec.ofNat 16 e.unit ∧ x.body = e.body := by
  obtain h | h := h
  · refine ⟨({ e with cmd := true, ref := c.seq }.make s), ?_, rfl, rfl, rfl⟩
    simp only [complete, h]
    exact (newest_pendDone ..).trans (tally_newest ..)
  · exact ⟨_, newest_complete_owner h, rfl, rfl, rfl⟩

section
variable {s : State} {c : Cmd} (hl : s.live)

theorem rptWrite_of_complement (hbad : rptOk (slice c.body 8 32) = false) : rptWrite c s = cmdDone s c oRptWrite stComplement := by
  simp [rptWrite, hbad]

variable (hok : rptOk (slice c.body 8 32) = true)

include hok in
theorem rptWrite_of_range (hsource : isSource s (c.u 0 2) = false) : rptWrite c s = cmdDone s c oRptWrite stRange := by
  simp [rptWrite, hok, hsource]

include hok in
theorem rptWrite_of_applied (hsource : isSource s (c.u 0 2) = true)
    (hrank : rank s (Tab.get {} s.recov (objKey 4 (4096 * c.u 0 2 + c.u 2 2))) c = .applied) : ∃ rptBad,
    rptWrite c s = { keep s (objKey 4 (4096 * c.u 0 2 + c.u 2 2)) c with mem := { s.mem with
      rpt := Tab.set [] s.mem.rpt (4096 * c.u 0 2 + c.u 2 2) (slice c.body 8 32), rptBad, rptWaits := s.mem.rptWaits ++ [(c, s.mem.checks)] } } := by
  simp only [rptWrite, hok, hsource, hrank]
  exact ⟨_, rfl⟩

include hl

theorem exec_rptWrite (hc : c.passes oRptWrite [(0, 2), (2, 2), (8, 32)]) (hf : c.u 0 2 < 1024) (hk : c.u 2 2 < 4096)
    (hformat : rptOk (slice c.body 8 32) = true → rptFormatOk (slice c.body 8 32) = true) : exec (.rptWrite c) s = .next (rptWrite c s) := by
  have hgood : (decide (c.u 0 2 < 1024) && decide (c.u 2 2 < 4096) && (!rptOk (slice c.body 8 32) || rptFormatOk (slice c.body 8 32))) = true := by
    cases h : rptOk (slice c.body 8 32) with
    | false => simp [hf, hk]
    | true => simp [hf, hk, hformat h]
  change onCmd _ c _ _ s (rptWrite c) = _
  rw [hgood]
  exact onCmd_ok hl hc

theorem exec_rptRead (hc : c.passes oRptRead [(0, 2), (2, 2)]) (hf : c.u 0 2 < 1024) (hk : c.u 2 2 < 4096) :
    exec (.rptRead c) s = .next (rptRead c s) := by
  change onCmd _ c _ _ s (rptRead c) = _
  rw [decide_eq_true hf, decide_eq_true hk]
  exact onCmd_ok hl hc

theorem exec_memRequest (hc : c.passes oMemRequest [(0, 1), (8, 24), (32, 64)]) (hop : c.u 0 1 = 8) (hn : c.u 16 2 % 8192 ≤ 24) :
    exec (.memRequest c) s = .next (memCommand c s) := by
  have hgood : (decide (8 ≤ c.u 0 1) && decide (c.u 0 1 ≤ 0xB) && (c.u 0 1 != 8 || decide (c.u 16 2 % 8192 ≤ 24)) &&
      decide (c.u 16 2 % 8192 ≤ 64)) = true := by
    simp [hop, hn, Nat.le_trans hn]
  change onCmd _ c _ _ s (memCommand c) = _
  rw [hgood]
  exact onCmd_ok hl hc

end

theorem rptEntry_of_set {s t : State} {f k : Nat} {e : List Byte} (h : t.mem.rpt = Tab.set [] s.mem.rpt (4096 * f + k) e) :
    rptEntry t f k = e := by
  rw [rptEntry, h, tab_get_set]

theorem rptEntry_of_set_ne {s t : State} {f k f' k' : Nat} {e : List Byte} (h : t.mem.rpt = Tab.set [] s.mem.rpt (4096 * f + k) e)
    (hne : 4096 * f' + k' ≠ 4096 * f + k) : rptEntry t f' k' = rptEntry s f' k' := by
  rw [rptEntry, h, tab_get_set_ne _ _ _ _ _ hne]
  rfl

theorem rptWritten_of_head {s : State} {c : Cmd} {ix : Nat} {rest : List (Cmd × Nat)} (hwaits : s.mem.rptWaits = (c, ix) :: rest)
    (hleft : ∀ t ∈ s.mem.track, t.field = c.u 0 2 → ix ≤ t.ix) : rptWritten s =
      complete { s with mem := { s.mem with rptWaits := rest } } c
        { kind := kRptWritten, utype := uField, unit := c.u 0 2, body := pack 8 [(0, 2, c.u 2 2)] ++ slice c.body 8 32 } := by
  have hgone : ((tracked s (c.u 0 2)).any fun t => decide (t.ix < ix)) = false := by
    rw [List.any_eq_false]
    intro t ht
    obtain ⟨hmem, hfield⟩ := List.mem_filter.mp ht
    have := hleft t hmem (by simpa using hfield)
    simpa using this
  have hfind : (s.mem.rptWaits.find? fun w => !((tracked s (w.1.u 0 2)).any fun t => decide (t.ix < w.2))) = some (c, ix) := by
    rw [hwaits, List.find?_cons_of_pos]
    simp [hgone]
  have herase : s.mem.rptWaits.erase (c, ix) = rest := by rw [hwaits, List.erase_cons_head]
  simp only [rptWritten, hfind, herase]

/-- MEM_REQUEST of a LOAD: one request of the HOST port field, lodged for its checks. -/
theorem memCommand_load {s : State} {c : Cmd} {f : Nat} (hop : c.u 0 1 = 8) (hf : fieldOfKind s 4 = some f) : ∃ l reqSeq,
    l.p.op = pLoad ∧ l.p.src = addr s.plan.deviceId.toNat f ∧ l.checked = false ∧ memCommand c s = { s with
      ingress := s.ingress ++ [l], mem := { s.mem with reqSeq, hostReqs := s.mem.hostReqs ++ [(c, l.p.dst, l.p.seq)] } } := by
  unfold memCommand
  simp only [hf, hop]
  exact ⟨_, _, rfl, rfl, rfl, rfl⟩

end Sys2Proof.Machine

namespace Sys2Proof
open Sys2Proof.Machine Sys2Proof.Laws

theorem rightsCommands : Claims.RightsCommands := by
  intro s c hl
  refine ⟨fun f k e hc hf hk he hflt hklt => ?_, fun ix rest hwaits hleft hauth => ?_, fun hc hf hk => ?_, fun hc hop hn =>
    ⟨fun hnone => ?_, fun f hf => ?_⟩⟩
  · subst hf hk he
    refine ⟨fun hbad => ?_, fun hok hformat hsource => ?_, fun hok hformat hsource hrank => ?_⟩
    · rw [exec_rptWrite hl hc hflt hklt (by simp [hbad]), rptWrite_of_complement hbad]
    · rw [exec_rptWrite hl hc hflt hklt fun _ => hformat, rptWrite_of_range hok hsource]
    · obtain ⟨rptBad, heq⟩ := rptWrite_of_applied hok hsource hrank
      exact ⟨_, (exec_rptWrite hl hc hflt hklt fun _ => hformat).trans (congrArg _ heq), rptEntry_of_set rfl, rfl, rfl, rfl,
        fun f' k' hk' hne => rptEntry_of_set_ne (f := c.u 0 2) (k := c.u 2 2) (e := slice c.body 8 32) rfl (by omega)⟩
  · have hexec : exec .rptWritten s = .next (rptWritten s) := event_ok hl
    rw [rptWritten_of_head hwaits hleft] at hexec
    obtain ⟨x, hnew, hkind, href, -, hbody⟩ := newest_complete (c := c) (.inr hauth) { s with mem := { s.mem with rptWaits := rest } }
      { kind := kRptWritten, utype := uField, unit := c.u 0 2, body := pack 8 [(0, 2, c.u 2 2)] ++ slice c.body 8 32 }
    exact ⟨_, x, hexec, by simp, hnew, hkind, href, hbody⟩
  · have hauth : c.auth = .operator ∨ c.auth = .owner := by
      obtain ⟨-, -, hmay, -⟩ := hc
      cases h : c.auth <;> simp_all [mayIssue]
    obtain ⟨x, hnew, hkind, hunit, hbody⟩ := newest_complete_unit hauth s
      { kind := kRptEntry, utype := uField, unit := c.u 0 2, body := pack 8 [(0, 2, c.u 2 2)] ++ slice (rptEntry s (c.u 0 2) (c.u 2 2)) 0 32 }
    exact ⟨_, x, exec_rptRead hl hc hf hk, hnew, hkind, hunit, hbody, by simp [rptRead], by simp [rptRead]⟩
  · rw [exec_memRequest hl hc hop hn]
    simp only [memCommand, hnone]
  · obtain ⟨l, reqSeq, hlop, hsrc, hfresh, heq⟩ := memCommand_load hop hf
    exact ⟨_, l, (exec_memRequest hl hc hop hn).trans (congrArg _ heq), rfl, hlop, hsrc, hfresh, rfl, rfl, rfl⟩

/-- Settles O30: `memRequest_of_unchecked` with the three outcomes of `checkReq` for a request, the lemmas of `rptWrite`, `rptWritten` and
`memCommand` for the commands. -/
theorem sourceAndRights : Obligations.SourceAndRights := ⟨sourceChecks, rightsCommands⟩

end Sys2Proof

/-! # Registers of the units and access commands: O9 -/

namespace Sys2Proof.Machine
open Sys2Proof Sys2Proof.Laws

section
variable {s : State} {v : Word}

theorem toNat_setWidth_word (v : Word) : (v.setWidth 64 : DWord).toNat = v.toNat := by
  have := v.isLt
  simp
  omega

theorem wrMemCtl_of_range (hlow : 8 ≤ v.toNat) (hhigh : v.toNat ≤ 4000) :
    wrMemCtl s { width := 4, val := v.setWidth 64 } = ({ s with mem := { s.mem with loadTo := v.setWidth 12 } }, .done) := by
  have hbits : bits v.toNat 11 0 = v.toNat := by simp only [bits, Nat.shiftRight_zero]; omega
  have hwidth : BitVec.ofNat 12 v.toNat = v.setWidth 12 := by
    refine BitVec.eq_of_toNat_eq ?_
    simp
  simp only [wrMemCtl, toNat_setWidth_word, hbits, hwidth]
  exact if_neg (by simp; omega)

theorem wrGleanTail_of_held (hring : planRec s 0x05 0x04 0 = none) (hv : v.toNat < 65536)
    (hheld : (v.toNat + 65536 - s.glean.tail.toNat) % 65536 ≤ (s.glean.head.toNat + 65536 - s.glean.tail.toNat) % 65536) :
    wrGleanTail s { width := 4, val := v.setWidth 64 } = ({ s with glean := { s.glean with tail := v.setWidth 16 } }, .done) := by
  have hbits : bits v.toNat 15 0 = v.toNat := by simp only [bits, Nat.shiftRight_zero]; omega
  have hwidth : BitVec.ofNat 16 v.toNat = v.setWidth 16 := by
    refine BitVec.eq_of_toNat_eq ?_
    simp
  simp only [wrGleanTail, toNat_setWidth_word, hbits, hwidth, hring, Option.map_none, Option.getD_none]
  exact if_neg (by simp; omega)

theorem wrTbCtl_cw (s : State) (v : Word) : wrTbCtl s (RegW.cw v) = (modClk s fun c => { c with
    tbMaster := v.getLsbD 31, tickOutEn := v.getLsbD 30, allowStep := v.getLsbD 29
    armed := v.getLsbD 28 && !v.getLsbD 31, tickDelay := v.setWidth 16 }, .done) := by
  have hwidth : BitVec.ofNat 16 v.toNat = v.setWidth 16 := by
    refine BitVec.eq_of_toNat_eq ?_
    simp
  rw [wrTbCtl, if_neg (by simp), loW_cw]
  simp only [bit_toNat, hwidth]
  rfl

variable (hm : s.testMode = false)
include hm

theorem exec_memCtl (w : RegW) : exec (.memCtl w) s = .next (wrMemCtl s w).1 := always_ok (f := fun s => (wrMemCtl s w).1) hm

theorem exec_gleanTail (w : RegW) : exec (.gleanTail w) s = .next (wrGleanTail s w).1 := always_ok (f := fun s => (wrGleanTail s w).1) hm

end

section
variable {s : State} {c : Cmd} (hl : s.live)
include hl

theorem exec_regRead (hc : c.passes oRegRead [(0, 4), (4, 1)]) (hformat : regFormat c = true) : exec (.regRead c) s = .next (regRead c s) := by
  change onCmd _ c _ _ s (regRead c) = _
  rw [hformat]
  exact onCmd_ok hl hc

theorem exec_regWrite (hc : c.passes oRegWrite [(0, 4), (4, 1), (8, 8)]) (hformat : regFormat c = true) (clash : Option DWord) :
    exec (.regWrite c clash) s = .next (regWrite c clash s) := by
  change onCmd _ c _ _ s (regWrite c clash) = _
  rw [hformat]
  exact onCmd_ok hl hc

theorem exec_tallyRead (hc : c.passes oTallyRead [(0, 4), (4, 1)]) (hmin : 1 ≤ c.u 4 1) (hmax : c.u 4 1 ≤ 60) :
    exec (.tallyRead c) s = .next (tallyRead c s) := by
  change onCmd _ c _ _ s (tallyRead c) = _
  rw [decide_eq_true hmin, decide_eq_true hmax]
  exact onCmd_ok hl hc

end

/-- REG_WRITE of INT_MASK. -/
theorem regWrite_intMask {s : State} {c : Cmd} (hoff : c.u 0 4 = 0x1034) (hwidth : c.u 4 1 = 4) : regWrite c none s =
    cmdDone (wrIntMask s { stew := true, width := 4, val := BitVec.ofNat 64 ((BitVec.ofNat 64 (c.u 8 8)).toNat % 2 ^ 32) }).1 c oRegWrite stOk := by
  simp only [regWrite, hoff, hwidth]
  rw [writeReg_word (by decide) (by decide)]
  rfl

end Sys2Proof.Machine

namespace Sys2Proof
open Sys2Proof.Machine Sys2Proof.Laws

theorem unitRegistersWritten : Claims.UnitRegistersWritten := by
  intro s v hm
  refine ⟨fun hlow hhigh => ?_, fun hring hv hheld => ?_, ?_, ?_, ?_⟩
  · rw [exec_memCtl hm, wrMemCtl_of_range hlow hhigh]
  · rw [exec_gleanTail hm, wrGleanTail_of_held hring hv hheld]
  · rw [exec_tbCtl hm, wrTbCtl_cw]
    rfl
  · rw [exec_registerWrite hm, writeReg_word (by decide) (by decide)]
    rfl
  · rw [exec_registerWrite hm, writeReg_word (by decide) (by decide)]
    rfl

theorem accessCommands : Claims.AccessCommands := by
  intro s c hl
  refine ⟨fun hc => onCmd_ok hl hc, fun hc hformat hrefresh => ?_, fun hc hformat hoff hwidth => ?_, fun hc hmin hmax hheld => ?_,
    fun hc hmin hmax hgone => ?_⟩
  · rw [exec_regRead hl hc hformat, regRead, if_neg hrefresh]
  · refine ⟨_, (exec_regWrite hl hc hformat none).trans (congrArg _ (regWrite_intMask hoff hwidth)), ?_⟩
    simp only [wrIntMask, Bool.false_eq_true, if_false, BitVec.extractLsb'_toNat, BitVec.toNat_ofNat]
    omega
  · rw [exec_tallyRead hl hc hmin hmax, tallyRead, if_neg (by simp [hheld])]
  · rw [exec_tallyRead hl hc hmin hmax, tallyRead, if_pos hgone]

/-- Settles O9: `wrMemCtl_of_range`, `wrGleanTail_of_held` and `wrTbCtl_cw` for the units' registers, `regWrite_intMask` for a register
written by command. -/
theorem unitRegistersAndAccessCommands : Obligations.UnitRegistersAndAccessCommands := ⟨unitRegistersWritten, accessCommands⟩

end Sys2Proof

/-! # The gleaner's ring: O29 -/

namespace Sys2Proof.Machine
open Sys2Proof Sys2Proof.Laws

/-- A sample as it is written: bytes 20 to 23 hold the count of the samples lost since the entry before (12 R374). -/
def countedSample (e : List Byte) (lost : Nat) : List Byte := e.take 20 ++ leBytes 4 (min lost 0xFFFFFFFF) ++ e.drop 24

section
variable {e : List Byte} {lost : Nat}

theorem length_countedSample (hlen : 24 ≤ e.length) : (countedSample e lost).length = e.length := by
  simp [countedSample]
  omega

/-- Outside the count the written sample is the sample. -/
theorem countedSample_getElem (hlen : 24 ≤ e.length) {i : Nat} (h : i < e.length) (hout : i < 20 ∨ 24 ≤ i) :
    (countedSample e lost)[i]'((length_countedSample hlen).symm ▸ h) = e[i] := by
  simp only [countedSample]
  rcases hout with hlow | hhigh
  · rw [List.getElem_append_left (by simp; omega), List.getElem_append_left (by simp; omega), List.getElem_take]
  · rw [List.getElem_append_right (by simp; omega), List.getElem_drop]
    congr 1
    simp
    omega

end

section
variable {s : State} {east : Bool} {e : List Byte} {es : List (List Byte)} {r : PlanRec}

/-- The gleaner's registers and buffers without the oldest sample of a die. -/
def sampleTaken (g : Glean) (east : Bool) (es : List (List Byte)) : Glean := if east then { g with bufE := es } else { g with bufW := es }

@[simp] theorem sampleTaken_buf (g : Glean) : (if east then (sampleTaken g east es).bufE else (sampleTaken g east es).bufW) = es := by
  cases east <;> rfl

@[simp] theorem sampleTaken_registers (g : Glean) : (sampleTaken g east es).head = g.head ∧ (sampleTaken g east es).tail = g.tail ∧
    (sampleTaken g east es).lost = g.lost ∧ (sampleTaken g east es).lostSince = g.lostSince := by
  cases east <;> exact ⟨rfl, rfl, rfl, rfl⟩

theorem gleanWrite_eq (hbuf : (if east then s.glean.bufE else s.glean.bufW) = e :: es) (hrec : planRec s 0x05 0x04 0 = some r) :
    gleanWrite east s =
      if (s.glean.head.toNat + 1) % 2 ^ r.fld 1 = s.glean.tail.toNat % 2 ^ r.fld 1 then
        { s with glean := { sampleTaken s.glean east es with lost := satInc s.glean.lost, lostSince := s.glean.lostSince + 1 } }
      else
        { s with
          gran := Mem.writes s.gran (r.fld 0 + 160 * s.glean.head.toNat) (countedSample e s.glean.lostSince)
          glean := { sampleTaken s.glean east es with
            head := BitVec.ofNat 16 ((s.glean.head.toNat + 1) % 2 ^ r.fld 1), lostSince := 0 } } := by
  simp only [gleanWrite, hbuf, hrec]
  cases east <;> rfl

theorem buf_of_sampleTaken {g h : Glean} (hE : h.bufE = (sampleTaken g east es).bufE) (hW : h.bufW = (sampleTaken g east es).bufW) :
    (if east then h.bufE else h.bufW) = es := by rw [hE, hW, sampleTaken_buf]

end

end Sys2Proof.Machine

namespace Sys2Proof
open Sys2Proof.Machine Sys2Proof.Laws

/-- Settles O29: by whether the ring is full; a sample that is written changes its count only, and no byte outside its entry. -/
theorem gleanedSamples : Obligations.GleanedSamples := by
  rintro s east e es r size head hl hbuf hlen hrec rfl rfl
  have hlen' : 24 ≤ e.length := by omega
  obtain ⟨hhead, htail, hlost, -⟩ := sampleTaken_registers (east := east) (es := es) s.glean
  refine ⟨_, (event_ok hl).trans (congrArg _ (gleanWrite_eq hbuf hrec)), ?_⟩
  by_cases hfull : (s.glean.head.toNat + 1) % 2 ^ r.fld 1 = s.glean.tail.toNat % 2 ^ r.fld 1
  · rw [if_pos hfull]
    exact ⟨buf_of_sampleTaken rfl rfl, htail, rfl, fun _ => ⟨rfl, hhead, rfl⟩, fun h => absurd hfull h⟩
  · rw [if_neg hfull]
    refine ⟨buf_of_sampleTaken rfl rfl, htail, rfl, fun h => absurd h hfull, fun _ => ⟨rfl, hlost, rfl, fun i hi hout => ?_, fun a ha => ?_⟩⟩
    · exact (mem_read_writes _ _ i _ (by rwa [length_countedSample hlen'])).trans (countedSample_getElem hlen' hi hout)
    · exact mem_read_writes_out _ _ _ _ (by rwa [length_countedSample hlen', hlen])

end Sys2Proof

/-! # Key commands: O53 -/

namespace Sys2Proof.Machine
open Sys2Proof Sys2Proof.Laws

section
variable {s : State} {c : Cmd} {k : Nat} {x : KeySlot}

theorem keySlot_setKey : keySlot (setKey s k x) k = x := tab_get_set ..

theorem keySlot_setKey_ne {j : Nat} (h : j ≠ k) : keySlot (setKey s k x) j = keySlot s j := tab_get_set_ne _ _ _ _ _ h

theorem kept_keep (obj : Nat) :
    Tab.get {} (keep s obj c).recov obj = { valid := true, epoch := c.epoch, auth := c.auth, dev := rankDev s c, body := c.body } := by
  dsimp only [keep]
  exact tab_get_set (α := Kept) ..

/-- The contents a KEY_LOAD gives its slot (15 Table 15-2). -/
def loadedSlot (c : Cmd) (key : List Byte) : KeySlot :=
  { loaded := true, use := BitVec.ofNat 4 (bits (c.u 0 2) 13 10), wrapped := klWrapped c, label := BitVec.ofNat 32 (c.u 4 4)
    ivBase := BitVec.ofNat 64 (c.u 8 8), key }

theorem exec_keyLoad (hl : s.live) {i : Instr} (hi : i = .keyLoadClear c ∨ i = .keyLoadWrapped c) (hc : c.passes oKeyLoad keyLoadFields)
    (hok : keyLoadOk c = true) : exec i s = .next (keyLoad c s) := by
  rcases hi with rfl | rfl <;>
    · change onCmd oKeyLoad c keyLoadFields (keyLoadOk c) s (keyLoad c) = _
      rw [hok]
      exact onCmd_ok hl hc

section
variable (hrank : rank s (Tab.get {} s.recov (objKey 5 (klSlot c))) c = .applied)
include hrank

theorem keyLoad_of_loaded (h : (keySlot s (klSlot c)).loaded = true) : keyLoad c s = keyDone s c oKeyLoad (klSlot c) stSlotState := by
  simp only [keyLoad, keyObj, hrank, h, if_true]

theorem keyLoad_of_wrong_wrap (h : (keySlot s (klSlot c)).loaded = false) (hkey : loadedKey s c = none) :
    keyLoad c s = keyDone s c oKeyLoad (klSlot c) stUnwrap := by
  simp only [keyLoad, keyObj, hrank, h, hkey, Bool.false_eq_true, if_false]

theorem keyLoad_of_key {key : List Byte} (h : (keySlot s (klSlot c)).loaded = false) (hkey : loadedKey s c = some key) :
    keyLoad c s =
      keyDone (setKey (keep s (objKey 5 (klSlot c)) c) (klSlot c) (loadedSlot c key)) c oKeyLoad (klSlot c) stOk := by
  simp only [keyLoad, keyObj, hrank, h, hkey, loadedSlot, Bool.false_eq_true, if_false]

end

theorem loadedKey_of_clear (h : klWrapped c = false) : loadedKey s c = some (slice c.body 24 32) := by simp [loadedKey, h]

theorem exec_keyErase (hl : s.live) (hc : c.passes oKeyErase [(0, 2), (16, 4)]) (hslot : c.u 0 2 < 1024) (hepoch : c.u 16 4 = c.epoch.toNat) :
    exec (.keyErase c) s = .next (keyErase c s) := by
  change onCmd oKeyErase c [(0, 2), (16, 4)] (decide (c.u 0 2 < 1024) && c.u 16 4 == c.epoch.toNat) s (keyErase c) = _
  rw [decide_eq_true hslot, hepoch, beq_self_eq_true]
  exact onCmd_ok hl hc

theorem keyErase_of_applied (hrank : rank s (Tab.get {} s.recov (objKey 5 (c.u 0 2))) c = .applied) :
    keyErase c s = keyDone (setKey (keep s (objKey 5 (c.u 0 2)) c) (c.u 0 2) {}) c oKeyErase (c.u 0 2) stOk := by
  simp only [keyErase, keyObj, hrank]

end

end Sys2Proof.Machine

namespace Sys2Proof
open Sys2Proof.Machine Sys2Proof.Laws

/-- Settles O53: an applied command sets one slot of the table of slots, and the third form drops the table. -/
theorem keyCommands : Obligations.KeyCommands := by
  intro s c hl
  refine ⟨?_, ?_, fun hc => ⟨eraseKeys s, onCmd_ok (f := fun s => cmdDone (eraseKeys s) c oKeyEraseAll stOk) hl hc, fun j => rfl, rfl, rfl⟩⟩
  · rintro i k hi hc hok rfl hrank
    have hexec := exec_keyLoad hl hi hc hok
    refine ⟨fun h => hexec.trans (congrArg _ (keyLoad_of_loaded hrank h)),
      fun h hkey => hexec.trans (congrArg _ (keyLoad_of_wrong_wrap hrank h hkey)), fun key h hkey => ?_, loadedKey_of_clear⟩
    exact ⟨_, hexec.trans (congrArg _ (keyLoad_of_key hrank h hkey)), keySlot_setKey, fun j hj => keySlot_setKey_ne hj,
      congrArg Kept.epoch (kept_keep _), rfl, rfl⟩
  · rintro k hc rfl hslot hepoch hrank
    refine ⟨_, (exec_keyErase hl hc hslot hepoch).trans (congrArg _ (keyErase_of_applied hrank)), ?_⟩
    have hslot := keySlot_setKey (s := keep s (objKey 5 (c.u 0 2)) c) (k := c.u 0 2) (x := {})
    exact ⟨congrArg KeySlot.loaded hslot, congrArg KeySlot.key hslot, fun j hj => keySlot_setKey_ne hj, rfl, rfl⟩

end Sys2Proof

/-! # Provenance hashes: O56 -/

namespace Sys2Proof.Machine
open Sys2Proof Sys2Proof.Laws

section
variable {s : State} {c : Cmd}

@[simp] theorem auditFault_provQ (s : State) (code : Half) : (auditFault s code).audit.provQ = s.audit.provQ := by
  unfold auditFault
  dsimp only
  repeat' split
  all_goals rfl

theorem provRaise_fault (code : Half) : (provRaise s c code).audit.provFault = code ∧ (provRaise s c code).audit.provQ = s.audit.provQ ∧
    (provRaise s c code).fault.lastCode = code ∧ (provRaise s c code).gran = s.gran :=
  ⟨rfl, auditFault_provQ .., countFault_lastCode .., by simp [provRaise, raiseCount, auditFault_fields]⟩

@[simp] theorem complete_audit (e : Entry) : (complete s c e).audit = s.audit := by simp

/-! ## PROV_HASH -/

section
variable (hready : s.clk.readyGranary = true)
include hready

theorem provHash_outside (hout : 2 ^ 38 < c.u 0 8 + c.u 8 8) : provHash c s = cmdDone s c oProvHash stRange := by
  simp only [provHash, hready, Bool.not_true, Bool.false_eq_true, if_false, if_pos hout]

variable (hin : c.u 0 8 + c.u 8 8 ≤ 2 ^ 38)
include hin

theorem provHash_private (hmeets : meetsArea (reservedAreas s) (c.u 0 8) (c.u 8 8) = true) :
    provHash c s = provEntry (provRaise s c fProvRange) c fProvRange [] false := by
  simp only [provHash, hready, Bool.not_true, Bool.false_eq_true, if_false, if_neg (Nat.not_lt.mpr hin), if_pos hmeets]

variable (hmeets : meetsArea (reservedAreas s) (c.u 0 8) (c.u 8 8) = false)
  (hrank : rank s (Tab.get {} s.recov (objKey 6 (c.u 16 1))) c = .applied)
include hmeets hrank

theorem provHash_of_eight (h : 8 ≤ s.audit.provQ.length) : provHash c s = cmdDone s c oProvHash stUnitState := by
  simp only [provHash, hready, hmeets, Bool.not_true, Bool.false_eq_true, if_false, if_neg (Nat.not_lt.mpr hin), pregObj, hrank, if_pos h]

/-- The state with one more hash queued. -/
def provQueued (s : State) (c : Cmd) : State := { s with audit := { s.audit with provQ := s.audit.provQ ++ [{ cmd := c }] } }

theorem provHash_of_room (h : s.audit.provQ.length < 8) : provHash c s = provQueued (keep s (objKey 6 (c.u 16 1)) c) c := by
  simp only [provHash, hready, hmeets, Bool.not_true, Bool.false_eq_true, if_false, if_neg (Nat.not_lt.mpr hin), pregObj, hrank,
    if_neg (Nat.not_le.mpr h), provQueued]

end

/-! ## PROV_DONE -/

theorem provDone_of_none {die : Nat} {errs : List (Fin 4 × Bool)} (h : ∀ j ∈ s.audit.provQ, provDie j ≠ die) : provDone die errs s = s := by
  have hnone : (s.audit.provQ.find? fun j => provDie j == die) = none := List.find?_eq_none.mpr (by simpa using h)
  simp only [provDone, hnone]

section
variable {j : ProvJob} {js : List ProvJob} (hq : s.audit.provQ = j :: js)
include hq

theorem provDone_of_head (hnow : j.cmd.u 24 8 ≤ now s) (hfenced : provFenced s j.cmd = false)
    (hmeets : meetsArea (reservedAreas s) (j.cmd.u 0 8) (j.cmd.u 8 8) = false) : provDone (provDie j) [] s = provEnds s j 0 := by
  have hruns : provRuns s j = true := by
    have : leAt j.cmd.body 24 8 ≤ now s := hnow
    simp [provRuns, hq, this]
  simp [provDone, hq, hruns, hmeets, hfenced]

/-- The state once the hash of the head of the queue has ended well, its entry not yet written. -/
def provEnded (s : State) (j : ProvJob) (js : List ProvJob) : State :=
  { s with audit := { s.audit with
    provQ := js, provEnd := Tab.set 0 s.audit.provEnd (j.cmd.u 16 1) 0
    pregs := Tab.set (List.replicate 32 0, false) s.audit.pregs (j.cmd.u 16 1)
      (sha256 (Mem.reads s.gran (j.cmd.u 0 8) (j.cmd.u 8 8)), j.n) } }

omit hq in
theorem preg_congr {t : State} (h : t.audit = s.audit) (r : Nat) : preg t r = preg s r := by rw [preg, preg, h]

theorem provEnds_of_head (hjs : ∀ y ∈ js, provSame j.cmd y.cmd = false) :
    provEnds s j 0 = provRepeat (provEnded s j js) j.cmd := by
  have hsame : provSame j.cmd j.cmd = true := by simp [provSame]
  have hkeep : (js.filter fun x => provSame j.cmd x.cmd) = [] := List.filter_eq_nil_iff.mpr (by simpa using hjs)
  have hrest : (js.filter fun x => !provSame j.cmd x.cmd) = js := List.filter_eq_self.mpr (by simpa using hjs)
  simp only [provEnds, hq, List.filter_cons, hsame, hkeep, hrest, if_true, Bool.not_true, Bool.false_eq_true, if_false, List.map_cons,
    List.map_nil, List.foldl_cons, List.foldl_nil, provEnded]

omit hq in
theorem preg_provEnded : preg (provEnded s j js) (j.cmd.u 16 1) = (sha256 (Mem.reads s.gran (j.cmd.u 0 8) (j.cmd.u 8 8)), j.n) := by
  dsimp only [preg, provEnded]
  exact tab_get_set (α := List Byte × Bool) ..

omit hq in
theorem preg_provEnded_ne {r : Nat} (h : r ≠ j.cmd.u 16 1) : preg (provEnded s j js) r = preg s r :=
  tab_get_set_ne _ _ _ _ _ h

omit hq in
theorem provRepeat_provEnded : provRepeat (provEnded s j js) j.cmd =
    provEntry (provEnded s j js) j.cmd 0 (sha256 (Mem.reads s.gran (j.cmd.u 0 8) (j.cmd.u 8 8))) j.n := by
  have hend : Tab.get 0 (provEnded s j js).audit.provEnd (j.cmd.u 16 1) = 0 := by
    dsimp only [provEnded]
    exact tab_get_set (α := Half) ..
  simp only [provRepeat, hend, if_true, preg_provEnded]

end

/-- The entry that ends a hash (17 Table 17-13), before what its completion adds. -/
def hashEntry (c : Cmd) (code : Half) (hash : List Byte) (nm : Bool) : Entry :=
  { kind := kProvDone, utype := uProv, unit := c.u 16 1, fault := code, n := nm, body := pack 8 [(0, 8, c.u 24 8)] ++ slice hash 0 32 }

theorem newest_provEntry (h : c.auth = .operator) (s : State) (code : Half) (hash : List Byte) (nm : Bool) :
    ∃ x, newest (provEntry s c code hash nm) = some x ∧ x.kind = kProvDone ∧ x.fault = code ∧ x.n = nm ∧ x.ref = c.seq ∧
      x.body = pack 8 [(0, 8, c.u 24 8)] ++ slice hash 0 32 := by
  have hnewest : newest (provEntry s c code hash nm) = some ({ hashEntry c code hash nm with cmd := true, ref := c.seq }.make s) := by
    simp only [provEntry, complete, h]
    exact (newest_pendDone ..).trans (tally_newest ..)
  exact ⟨_, hnewest, rfl, rfl, rfl, rfl, rfl⟩

end

end Sys2Proof.Machine

namespace Sys2Proof
open Sys2Proof.Machine Sys2Proof.Laws

/-- Settles O56: by what bars a hash, and at its end by the one command of the queue that is its own. -/
theorem provenanceHashes : Obligations.ProvenanceHashes := by
  intro s hl
  refine ⟨?_, fun die errs h => (event_ok hl).trans (congrArg _ (provDone_of_none h)), ?_⟩
  · rintro c r hc halign hlen rfl
    have hexec : exec (.provHash c) s = .next (provHash c s) := by
      change onCmd oProvHash c [(0, 8), (8, 8), (16, 1), (24, 8)] (decide (c.u 0 8 % 128 = 0) && decide (c.u 8 8 ≤ 2 ^ 36)) s (provHash c) = _
      rw [decide_eq_true halign, decide_eq_true hlen]
      exact onCmd_ok hl hc
    refine ⟨fun h => hexec.trans (congrArg _ (by simp [provHash, h])), fun hready => ⟨fun hout => ?_, fun hin hmeets hauth => ?_,
      fun hin hmeets hrank => ⟨fun h => ?_, fun h => ?_⟩⟩⟩
    · exact hexec.trans (congrArg _ (provHash_outside hready hout))
    · obtain ⟨hfault, hq, hlast, hgran⟩ := provRaise_fault (s := s) (c := c) fProvRange
      obtain ⟨x, hx, hkind, hcode, -, href, -⟩ := newest_provEntry hauth (provRaise s c fProvRange) fProvRange [] false
      exact ⟨_, x, hexec.trans (congrArg _ (provHash_private hready hin hmeets)), hx, hkind, href, hcode,
        (congrArg Audit.provFault (complete_audit _)).trans hfault, (congrArg Audit.provQ (complete_audit _)).trans hq,
        by simpa [provEntry] using hlast, by simpa [provEntry] using hgran⟩
    · exact hexec.trans (congrArg _ (provHash_of_eight hready hin hmeets hrank h))
    · exact ⟨_, hexec.trans (congrArg _ (provHash_of_room hready hin hmeets hrank h)), rfl, congrArg Kept.body (kept_keep _), rfl, rfl, rfl⟩
  · intro die j js hq hdie hnow hfenced hmeets hauth hjs
    have hend : provDone die.val [] s = _ :=
      hdie ▸ (provDone_of_head hq hnow hfenced hmeets).trans ((provEnds_of_head hq hjs).trans provRepeat_provEnded)
    obtain ⟨x, hx, hkind, -, hn, href, hbody⟩ := newest_provEntry hauth (provEnded s j js) 0
      (sha256 (Mem.reads s.gran (j.cmd.u 0 8) (j.cmd.u 8 8))) j.n
    have haudit := complete_audit (s := provEnded s j js) (c := j.cmd)
    refine ⟨_, x, (event_ok hl).trans (congrArg _ hend), congrArg Audit.provQ (haudit _), (preg_congr (haudit _) _).trans preg_provEnded,
      fun r hr => (preg_congr (haudit _) r).trans (preg_provEnded_ne hr), hx, hkind, hn, href, hbody, by simp [provEntry, provEnded]⟩

end Sys2Proof

/-! # Rooms of the inns: O28 -/

namespace Sys2Proof.Machine
open Sys2Proof Sys2Proof.Laws

/-! ## Settling a die -/

section
variable {s t : State} {die : Nat}

theorem sendPfc_core (s : State) (n mask : Nat) (off : Bool) : (sendPfc s n mask off).core = s.core := by
  unfold sendPfc
  split <;> simp

theorem settlePfc_core (s : State) (n : Nat) : (settlePfc s n).core = s.core := (sendPfc_core ..).trans (sendPfc_core ..)

/-- Granting only adds rooms. -/
theorem tryRoom_rooms {w : RoomWait} (h : tryRoom s w = some t) : s.core.rooms <+: t.core.rooms := by
  unfold tryRoom at h
  split at h
  · split at h
    · cases h
    · split at h
      · obtain ⟨c, -, rfl⟩ := Option.map_eq_some_iff.mp h
        exact List.prefix_append ..
      · cases h
  · cases h

theorem retryRooms_rooms (die inn k : Nat) (s : State) : s.core.rooms <+: (retryRooms die inn k s).core.rooms := by
  induction k generalizing s with
  | zero => exact List.prefix_rfl
  | succ k ih =>
    unfold retryRooms
    split
    · exact List.prefix_rfl
    · next t ht =>
      obtain ⟨w, -, hw⟩ := List.exists_of_findSome?_eq_some ht
      obtain ⟨u, hu, huw⟩ := Option.map_eq_some_iff.mp hw
      cases huw
      have hgranted := tryRoom_rooms hu
      refine List.IsPrefix.trans ?_ (ih _)
      exact hgranted

theorem settlePfcs_core (l : List Nat) (s : State) : (l.foldl settlePfc s).core = s.core :=
  foldl_of_step (R := fun s t => t.core = s.core) (fun _ => rfl) (fun h k => k.trans h) settlePfc_core l s

theorem settleDie_rooms (s : State) (die : Nat) : s.core.rooms <+: (settleDie s die).core.rooms := by
  unfold settleDie
  dsimp only
  rw [settlePfcs_core]
  exact foldl_of_step (R := fun s t => s.core.rooms <+: t.core.rooms) (fun _ => List.prefix_rfl) List.IsPrefix.trans
    (fun s inn => retryRooms_rooms die inn _ s) _ s

/-- Where no request of the die waits, settling it grants nothing. -/
theorem settleDie_core_of_noWait (h : ∀ w ∈ s.core.waits, w.die ≠ die) : (settleDie s die).core = s.core := by
  have hnone : (s.core.waits.filter fun w => w.die == die) = [] := List.filter_eq_nil_iff.mpr (by simpa using h)
  unfold settleDie
  simp only [hnone, List.map_nil, List.eraseDups_nil, List.foldl_nil]
  exact settlePfcs_core ..

/-- What settling a die after a change of its rooms leaves, in the words of R364. -/
theorem settleDie_after {rooms : List Room} (hsame : { t with core := s.core } = s) (hrooms : t.core.rooms = rooms)
    (hwaits : t.core.waits = s.core.waits) :
    ∃ more : List Room, { settleDie t die with core := s.core, ports := s.ports, wire := s.wire } = s ∧
      (settleDie t die).core.rooms = rooms ++ more ∧
      ((∀ w ∈ s.core.waits, w.die ≠ die) → more = [] ∧ (settleDie t die).core.waits = s.core.waits) := by
  obtain ⟨more, hmore⟩ := settleDie_rooms t die
  obtain ⟨ports, core, wire, hsettled⟩ := settleDie_sameButPorts t die
  refine ⟨more, ?_, by rw [← hmore, hrooms], fun h => ?_⟩
  · rw [hsettled]
    exact congrArg (fun u : State => { u with ports := s.ports, wire := s.wire }) hsame
  · have hcore := settleDie_core_of_noWait (s := t) (hwaits ▸ h)
    rw [hcore] at hmore
    exact ⟨List.append_right_eq_self.mp hmore, (congrArg Core.waits hcore).trans hwaits⟩

end

/-! ## Requests (12 R363, R364) -/

section
variable {s : State} {req sub bytes refs : Nat} {a : Acct}

section
variable (p : Nat) (u : FaultUnit) (code : Half) (i : FaultInfo)

theorem plotAbort_core : (plotAbort s p u code i).core = s.core := by
  have hdone (l : List Cmd) (t : State) : (l.foldl (fun s c => cmdDone s c oPlotStop stOk) t).core = t.core :=
    foldl_of_step (R := fun s t => t.core = s.core) (fun _ => rfl) (fun h h' => h'.trans h) (fun _ _ => by simp) l t
  unfold plotAbort
  dsimp only
  rw [hdone]
  repeat' split
  all_goals simp [raiseBy, raiseCount, auditFault_fields]

theorem plotAbort_lastCode (hcode : code ≠ fGranaryUe) : (plotAbort s p u code i).fault.lastCode = code := by
  have hdone (l : List Cmd) (t : State) : (l.foldl (fun s c => cmdDone s c oPlotStop stOk) t).fault = t.fault :=
    foldl_of_step (R := fun s t => t.fault = s.fault) (fun _ => rfl) (fun h h' => h'.trans h) (fun _ _ => by simp) l t
  unfold plotAbort
  dsimp only
  rw [hdone, if_neg hcode]
  split <;> simp [raiseBy, raiseCount, countFault_lastCode]

end

/-- A refusal counts, and names its fault; no room or request changes. -/
theorem refuse_effect (die : Nat) : (roomRequest.refuse req die s).core = (modCore s die fun c => { c with refused := satInc c.refused }).core ∧
    (roomRequest.refuse req die s).fault.lastCode = fInnSize := by
  unfold roomRequest.refuse
  extract_lets s'
  split
  split
  · exact ⟨plotAbort_core .., plotAbort_lastCode _ _ _ _ (by decide)⟩
  · exact ⟨by simp [s'], raise_lastCode ..⟩

theorem refused_modCore (die : Nat) :
    (Tab.get {} (modCore s die fun c => { c with refused := satInc c.refused }).core.die die).refused =
      satInc (Tab.get {} s.core.die die).refused := by
  dsimp only [modCore]
  rw [tab_get_upd]

section
variable (hacct : findAcct s (reqDie s req) (8 * req + sub) = some a)
include hacct

theorem roomRequest_of_refused (h : bytes = 0 ∨ roomFor a.sizes bytes = none) :
    roomRequest req sub bytes refs s = roomRequest.refuse req (reqDie s req) s := by
  simp only [roomRequest, hacct, if_pos h]

variable (hok : ¬ (bytes = 0 ∨ roomFor a.sizes bytes = none))
include hok

/-- The request as it waits. -/
def roomWait (s : State) (req sub bytes refs : Nat) (a : Acct) : RoomWait :=
  { die := reqDie s req, inn := a.inn, acct := 8 * req + sub, bytes, refs }

/-- A request is tried only behind no other of its account. -/
theorem roomRequest_of_granted {t : State} (hfirst : ∀ w ∈ s.core.waits, w.acct ≠ 8 * req + sub)
    (htry : tryRoom s (roomWait s req sub bytes refs a) = some t) : roomRequest req sub bytes refs s = settleDie t (reqDie s req) := by
  have hnone : (s.core.waits.any fun x => x.acct == 8 * req + sub) = false := by simpa using hfirst
  simp only [roomWait] at htry
  simp only [roomRequest, hacct, if_neg hok, hnone, Bool.false_eq_true, if_false, htry]

theorem roomRequest_of_waiting
    (h : (∃ w ∈ s.core.waits, w.acct = 8 * req + sub) ∨ tryRoom s (roomWait s req sub bytes refs a) = none) :
    roomRequest req sub bytes refs s = { s with core := { s.core with waits := s.core.waits ++ [roomWait s req sub bytes refs a] } } := by
  have hnone : (if s.core.waits.any fun x => x.acct == 8 * req + sub then none else tryRoom s (roomWait s req sub bytes refs a)) = none := by
    rcases h with h | h
    · exact if_pos (by simpa using h)
    · rw [h, ite_self]
  simp only [roomWait] at hnone
  simp only [roomRequest, hacct, if_neg hok, hnone, roomWait]

end

/-- The state with the room granted. -/
def roomGranted (s : State) (w : RoomWait) (z c : Nat) : State :=
  { s with core := { s.core with
    rooms := s.core.rooms ++ [{ die := w.die, inn := w.inn, size := z, cell := c, acct := w.acct, refs := w.refs }]
    lastAcct := Tab.set 0 s.core.lastAcct (64 * w.die + w.inn) (w.acct + 1) } }

section
variable {w : RoomWait} {z : Nat} {r : PlanRec} (hacct : findAcct s w.die w.acct = some a) (hinn : innRec s w.die w.inn = some r)
  (hsize : roomFor a.sizes w.bytes = some z)
include hacct hinn hsize

theorem tryRoom_of_free {c : Nat} (hmay : mayGrant s w.die a r z (roomCells z) = true) (hfree : freeRoom s r w.die w.inn z = some c) :
    tryRoom s w = some (roomGranted s w z c) := by
  simp only [tryRoom, hacct, hinn, hsize, hmay, if_true, hfree, Option.map_some, roomGranted]

theorem tryRoom_of_none (h : mayGrant s w.die a r z (roomCells z) = false ∨ freeRoom s r w.die w.inn z = none) : tryRoom s w = none := by
  rcases h with h | h
  · simp only [tryRoom, hacct, hinn, hsize, h, Bool.false_eq_true, if_false]
  · simp only [tryRoom, hacct, hinn, hsize, h, Option.map_none, ite_self]

end

end

/-! ## Releases (12 R368, R369) -/

section
variable {s : State} {ptr : Word} {r : PlanRec}

/-- Die, inn, size code and cell that a pointer names. -/
abbrev ptrDie (ptr : Word) : Nat := bits ptr.toNat 25 25
abbrev ptrInn (ptr : Word) : Nat := bits ptr.toNat 31 26
abbrev ptrSize (ptr : Word) : Nat := bits ptr.toNat 23 21
abbrev ptrCell (ptr : Word) : Nat := bits ptr.toNat 20 0

/-- The pointer lies on a room of its sub-pool. -/
def ptrOk (r : PlanRec) (ptr : Word) : Prop :=
  bit ptr.toNat 24 = false ∧ ptrSize ptr ≤ 4 ∧ ptrCell ptr % roomCells (ptrSize ptr) = 0 ∧ poolBase r (ptrSize ptr) ≤ ptrCell ptr ∧
    ptrCell ptr + roomCells (ptrSize ptr) ≤ poolBase r (ptrSize ptr) + innRooms r (ptrSize ptr) * roomCells (ptrSize ptr)

theorem ptrOk_iff :
    (!bit ptr.toNat 24 && decide (ptrSize ptr ≤ 4) && ptrCell ptr % roomCells (ptrSize ptr) == 0 &&
      decide (poolBase r (ptrSize ptr) ≤ ptrCell ptr) && decide (ptrCell ptr + roomCells (ptrSize ptr) ≤
        poolBase r (ptrSize ptr) + innRooms r (ptrSize ptr) * roomCells (ptrSize ptr))) = true ↔
      ptrOk r ptr := by
  simp [ptrOk, and_assoc]

/-- The held room at a pointer. -/
def heldAt (s : State) (ptr : Word) : Option Room :=
  s.core.rooms.find? fun x => x.die == ptrDie ptr && x.inn == ptrInn ptr && x.size == ptrSize ptr && x.cell == ptrCell ptr && !x.leaked

/-- The rooms after a release that is refused: the one the pointer's cell lies in leaks. -/
def leakAt (ptr : Word) (x : Room) : Room :=
  if x.die == ptrDie ptr && x.inn == ptrInn ptr && decide (x.cell ≤ ptrCell ptr) && decide (ptrCell ptr < x.cell + roomCells x.size) then
    { x with leaked := true } else x

/-- A release refused, its cell's room leaked. -/
def badRelease (s : State) (ptr : Word) (code : Half) : State :=
  raise (modCore { s with core := { s.core with rooms := s.core.rooms.map (leakAt ptr) } } (ptrDie ptr) fun c =>
    { c with badRelease := satInc c.badRelease }) code uDevice 0

theorem badRelease_effect (code : Half) : (badRelease s ptr code).core.rooms.length = s.core.rooms.length ∧
    (badRelease s ptr code).fault.lastCode = code ∧ (badRelease s ptr code).core.waits = s.core.waits ∧
    (Tab.get {} (badRelease s ptr code).core.die (ptrDie ptr)).badRelease = satInc (Tab.get {} s.core.die (ptrDie ptr)).badRelease := by
  have hcore : (badRelease s ptr code).core = (modCore { s with core := { s.core with rooms := s.core.rooms.map (leakAt ptr) } } (ptrDie ptr)
    fun c => { c with badRelease := satInc c.badRelease }).core := by simp [badRelease]
  rw [hcore]
  refine ⟨by simp [modCore], raise_lastCode .., rfl, ?_⟩
  dsimp only [modCore]
  rw [tab_get_upd]

section
variable (hinn : innRec s (ptrDie ptr) (ptrInn ptr) = some r)
include hinn

theorem roomRelease_of_bad (hbad : ¬ ptrOk r ptr) : roomRelease ptr s = badRelease s ptr fInnPointer := by
  simp only [roomRelease, hinn, Bool.eq_false_iff.mpr (mt ptrOk_iff.mp hbad), Bool.false_eq_true, if_false]
  rfl

variable (hok : ptrOk r ptr) {x : Room} (hheld : heldAt s ptr = some x)
include hok hheld

theorem roomRelease_of_held : roomRelease ptr s =
    if x.refs = 0 then badRelease s ptr fInnRefcount
    else if x.refs = 1 then settleDie { s with core := { s.core with rooms := s.core.rooms.erase x } } (ptrDie ptr)
    else { s with core := { s.core with rooms := s.core.rooms.map fun y => if y = x then { x with refs := x.refs - 1 } else y } } := by
  simp only [heldAt] at hheld
  simp only [roomRelease, hinn, ptrOk_iff.mpr hok, if_true, hheld, beq_iff_eq]
  rfl

end

end

end Sys2Proof.Machine

namespace Sys2Proof
open Sys2Proof.Machine Sys2Proof.Laws

theorem roomRequests : Claims.RoomRequests := by
  rintro s req sub bytes refs die ix a hl rfl rfl hacct
  have hexec : exec (.roomRequest req sub bytes refs) s = .next (roomRequest req.toNat sub.toNat bytes refs.toNat s) := event_ok hl
  refine ⟨fun h => ?_, fun r z hbytes hsize hinn => ?_⟩
  · obtain ⟨hcore, hcode⟩ := refuse_effect (s := s) (req := req.toNat) (reqDie s req.toNat)
    refine ⟨_, hexec.trans (congrArg _ (roomRequest_of_refused hacct h)), by rw [hcore]; rfl, by rw [hcore]; rfl, hcode, ?_⟩
    rw [hcore, refused_modCore]
  · have hok : ¬ (bytes = 0 ∨ roomFor a.sizes bytes = none) := by simp [hbytes, hsize]
    refine ⟨fun c hfirst hmay hfree => ?_, fun h => ?_⟩
    · obtain ⟨more, hsame, hrooms, hquiet⟩ := settleDie_after (s := s) (die := reqDie s req.toNat)
        (t := roomGranted s (roomWait s req.toNat sub.toNat bytes refs.toNat a) z c) rfl rfl rfl
      exact ⟨_, more, hexec.trans (congrArg _ (roomRequest_of_granted hacct hok hfirst (tryRoom_of_free hacct hinn hsize hmay hfree))),
        hsame, hrooms.trans (List.append_assoc ..), hquiet⟩
    · exact hexec.trans (congrArg _ (roomRequest_of_waiting hacct hok (h.imp_right (tryRoom_of_none hacct hinn hsize))))

theorem roomReleases : Claims.RoomReleases := by
  rintro s ptr v die inn size cell r hl rfl rfl rfl rfl rfl hinn
  have hexec : exec (.roomRelease ptr) s = .next (roomRelease ptr s) := event_ok hl
  refine ⟨fun x hbit hsize halign hlow hhigh hheld => ?_, fun hbad => ?_⟩
  · have hrelease := roomRelease_of_held hinn ⟨hbit, hsize, halign, hlow, hhigh⟩ hheld
    refine ⟨fun h => ?_, fun h => ?_, fun h => ?_⟩
    · rw [if_neg (by omega), if_neg (by omega)] at hrelease
      exact hexec.trans (congrArg _ hrelease)
    · rw [if_neg (by omega), if_pos h] at hrelease
      obtain ⟨more, hsame, hrooms, hquiet⟩ := settleDie_after (s := s) (die := ptrDie ptr)
        (t := { s with core := { s.core with rooms := s.core.rooms.erase x } }) rfl rfl rfl
      exact ⟨_, more, hexec.trans (congrArg _ hrelease), hsame, hrooms, hquiet⟩
    · rw [if_pos h] at hrelease
      exact ⟨_, hexec.trans (congrArg _ hrelease), badRelease_effect _⟩
  · have hnot : ¬ ptrOk r ptr := by
      rintro ⟨hbit, hsize, halign, hlow, -⟩
      obtain h | h | h | h := hbad
      · exact absurd (hbit.symm.trans h) nofun
      · exact absurd hsize (Nat.not_le.mpr h)
      · exact h halign
      · exact absurd hlow (Nat.not_le.mpr h)
    exact ⟨_, hexec.trans (congrArg _ (roomRelease_of_bad hinn hnot)), badRelease_effect _⟩

/-- Settles O28: settling a die after a change of its rooms only adds rooms, and adds none where nothing of the die waits. -/
theorem innRooms : Obligations.InnRooms := ⟨roomRequests, roomReleases⟩

end Sys2Proof
